-- ==== Sys2Proof/Word.lean ====
section
/-!
DEFINITION. The native word, the byte and the plainest helpers over them (R5).
-/

namespace Sys2Proof

/-- The native word: memory, DMA beats, stream records, link frames and mailbox words (R5). -/
abbrev Word := BitVec 128

/-- Byte 0 of a word is its bits 7:0 (R5). -/
abbrev Byte := BitVec 8

/-- A bit field `[hi:lo]`, both ends included (R6), as a natural number. -/
def fld (hi lo : Nat) {n : Nat} (w : BitVec n) : Nat :=
  (w.toNat / 2 ^ lo) % 2 ^ (hi + 1 - lo)

/-- One bit of a word as a Boolean. -/
def bitAt (i : Nat) {n : Nat} (w : BitVec n) : Bool := w.getLsbD i

/-- A number seen as an `n`-bit two's complement value. -/
def signedOf (n v : Nat) : Int :=
  if v % 2 ^ n < 2 ^ (n - 1) then ((v % 2 ^ n : Nat) : Int) else ((v % 2 ^ n : Nat) : Int) - (2 ^ n : Nat)

/-- A signed bit field `[hi:lo]`. -/
def sfld (hi lo : Nat) {n : Nat} (w : BitVec n) : Int := signedOf (hi + 1 - lo) (fld hi lo w)

/-- `1` for true, `0` for false: the value of a one-bit field. -/
def b2n (b : Bool) : Nat := if b then 1 else 0

end Sys2Proof
end

