-- ==== Sys2Proof/Syntax.lean ====
section
/-!
DEFINITION. The commands the block takes: one constructor of `Instr` for each row of the table of
operations and events, with the data that arrives with the step.
-/

namespace Sys2Proof

/-- The two host ports (Table 0-2). -/
inductive Port where
  | hostA | hostB
  deriving DecidableEq, Repr

/-- The two memory stacks, and the two copies of a segment that stand in them (R159). -/
inductive Stack where
  | a | b
  deriving DecidableEq, Repr

/-- The two stage axes (R254). -/
inductive Axis where
  | scan | cross
  deriving DecidableEq, Repr

/-- The two control processors (R436). -/
inductive Marshal where
  | a | b
  deriving DecidableEq, Repr

/-- The two Ethernet ports (R397). -/
inductive NetPort where
  | netA | netB
  deriving DecidableEq, Repr

/-- The PLLs and tree monitors of Table 19-3. -/
inductive Clock where
  | pllC | pllM | pllL | pllN | pcie | beamTree | timeTree
  deriving DecidableEq, Repr

/-- Where a mailbox command comes from: the port that rang and the mailbox (R413). -/
structure Src where
  port : Port
  mb   : BitVec 4
  deriving DecidableEq, Repr

/-- A buffer reference of a command body (R417). -/
structure BufRef where
  addr  : BitVec 48
  space : BitVec 4
  len   : BitVec 32
  crc   : BitVec 64
  deriving DecidableEq, Repr

/-- A stripe is named by job and stripe number (R11). -/
structure StripeId where
  job    : BitVec 16
  stripe : BitVec 16
  deriving DecidableEq, Repr

/-- Port record of Table 10-1. -/
structure PortRec where
  role    : BitVec 3
  lanes   : Bool
  clkdiv  : BitVec 8
  lat     : BitVec 4
  wbits   : BitVec 6
  dirinv  : Bool
  idread  : Bool
  failmax : BitVec 8
  td      : BitVec 16
  offset  : BitVec 48
  scale   : BitVec 32
  jump    : BitVec 24
  refen   : Bool
  refpol  : Bool
  missact : BitVec 2
  swpol   : BitVec 3
  excl    : Bool
  edgemin : BitVec 16
  deriving DecidableEq, Repr

/-- One axis of the tracker record (Table 10-5). -/
structure AxisRec where
  nwin    : BitVec 7
  db      : BitVec 16
  tstill  : BitVec 21
  horizon : BitVec 4
  mmiss   : BitVec 3
  kpair   : BitVec 4
  pairoff : BitVec 48
  pairtol : BitVec 24
  deriving DecidableEq, Repr

/-- Tracker record (Table 10-5). -/
structure TrackerRec where
  treq  : BitVec 18
  scan  : AxisRec
  cross : AxisRec
  deriving DecidableEq, Repr

/-- One entry of a mark table (R271). -/
structure MarkEntry where
  mpos : BitVec 48
  mtol : BitVec 24
  mwin : BitVec 24
  used : Bool
  deriving DecidableEq, Repr

/-- Fit record of Table 8-2; FGEN is set by the block. -/
structure FitRec where
  tx : BitVec 32
  ty : BitVec 32
  sigma : BitVec 8
  fgen : BitVec 32
  axx : BitVec 32
  axy : BitVec 32
  ayx : BitVec 32
  ayy : BitVec 32
  fx0 : BitVec 32
  fy0 : BitVec 32
  deriving DecidableEq, Repr

/-- Camera port record of Table 13-1. -/
structure CamRec where
  wbits     : BitVec 5
  pedge     : Bool
  lvpol     : Bool
  fvpol     : Bool
  prio      : BitVec 2
  lat       : BitVec 2
  mdiv      : BitVec 11
  mclken    : Bool
  pclkratio : BitVec 16
  i2caddr   : BitVec 7
  i2cspeed  : BitVec 2
  ra16      : Bool
  rd16      : Bool
  staten    : Bool
  locen     : Bool
  spoten    : Bool
  corren    : Bool
  linew     : BitVec 16
  lines     : BitVec 16
  idreg     : BitVec 16
  idlen     : BitVec 2
  idval     : BitVec 32
  wx : BitVec 16
  wy : BitVec 16
  ww : BitVec 16
  wh : BitVec 16
  black : BitVec 16
  deriving DecidableEq, Repr

/-- A settings slot: register and value pairs, 1 to 256 of them (Table 13-2). -/
structure SettingsSlot where
  entries : List (BitVec 16 × BitVec 16)
  deriving DecidableEq, Repr

/-- A locator template's place and limits (R343). -/
structure TemplateRec where
  slot   : BitVec 3
  tw     : BitVec 7
  th     : BitVec 7
  r      : BitVec 6
  sx     : BitVec 16
  sy     : BitVec 16
  sadmax : BitVec 32
  deriving DecidableEq, Repr

/-- Spot grid, in units of 1/64 pixel (R344); counts are stored minus one as the body carries them. -/
structure SpotGrid where
  ox : BitVec 32
  oy : BitVec 32
  aix : BitVec 32
  aiy : BitVec 32
  ajx : BitVec 32
  ajy : BitVec 32
  nim1 : BitVec 8
  njm1 : BitVec 8
  bwm1 : BitVec 4
  bhm1 : BitVec 4
  deriving DecidableEq, Repr

/-- Acquisition descriptor (Table 14-2). -/
structure AcqDesc where
  chmask : BitVec 8
  range  : BitVec 16
  count  : BitVec 40
  tstart : BitVec 64
  bufAddr  : BitVec 48
  bufSpace : BitVec 4
  bufLen   : BitVec 32
  deriving DecidableEq, Repr

/-- Beam grid of a gain run, in units of 1/64 CAM2 pixel (R361). -/
structure BeamGrid where
  ox : BitVec 32
  oy : BitVec 32
  vx : BitVec 32
  vy : BitVec 32
  ux : BitVec 32
  uy : BitVec 32
  bwm1 : BitVec 4
  bhm1 : BitVec 4
  deriving DecidableEq, Repr

/-- Calibration policy record (Table 14-6). -/
structure CalPolicy where
  cupch    : BitVec 3
  cuprange : BitVec 2
  ccal     : BitVec 6
  mcup     : BitVec 14
  trimper  : BitVec 16
  agemax   : BitVec 16
  reqconf  : Bool
  ibeam    : BitVec 32
  alpha0   : BitVec 16
  tau0     : BitVec 32
  deriving DecidableEq, Repr

/-- Time domain record (Table 16-2). -/
structure DomainRec where
  domnum    : BitVec 7
  port      : NetPort
  transport : Bool
  delaymech : Bool
  annto     : BitVec 8
  classmax  : BitVec 8
  locktol   : BitVec 32
  degtol    : BitVec 32
  stepthr   : BitVec 32
  asym      : BitVec 32
  deriving DecidableEq, Repr

/-- Service token (Table 9-5), six words; the first four are what TAG covers. -/
structure TokenRec where
  w0 : Word
  w1 : Word
  w2 : Word
  w3 : Word
  tag : BitVec 256
  deriving DecidableEq, Repr

/-- Service job descriptor (Table 5-8). -/
structure CodecDesc where
  inAddr   : BitVec 48
  inSpace  : BitVec 4
  inLen    : BitVec 32
  outAddr  : BitVec 48
  outSpace : BitVec 4
  outLen   : BitVec 32
  sinAddr  : BitVec 48
  sinSpace : BitVec 4
  sinUse   : Bool
  soutAddr  : BitVec 48
  soutSpace : BitVec 4
  soutUse   : Bool
  job     : BitVec 16
  stripe  : BitVec 16
  segment : BitVec 16
  panel   : BitVec 4
  rev     : Bool
  rows    : BitVec 16
  deriving DecidableEq, Repr

/-- Where a Referee command comes from (R489). -/
inductive Via where
  | window (port : Port)
  | smbus
  deriving DecidableEq, Repr

/-- Bytes the host writes into its own memory, behind its port, before it rings (R370, R413). -/
structure HostWrite where
  port  : Port
  addr  : BitVec 64
  bytes : List Byte
  deriving DecidableEq, Repr

/-- The target of a register write that has no row of its own (R7, R410, R483, R392). -/
inductive RegTarget where
  /-- A BAR0 write of `size` bytes through a port. -/
  | bar0 (port : Port) (off : BitVec 16) (size : BitVec 4) (value : BitVec 64)
  /-- A BAR2 write through a port: any size and alignment. -/
  | bar2 (port : Port) (off : BitVec 16) (bytes : List Byte)
  /-- A 64-bit write to the DEVREG space by the Marshals' firmware. -/
  | devreg (addr : BitVec 32) (value : BitVec 64)
  deriving DecidableEq, Repr

/-- A position frame as it was received (R258): clocks from the request to the start bit on each
lane, the count, the status byte and the CRC sent. -/
structure PosFrame where
  start0 : BitVec 16
  start1 : BitVec 16
  count  : BitVec 48
  status : BitVec 8
  crc    : BitVec 16
  deriving DecidableEq, Repr

/-- An identity answer (R263): marker, identity bits and the CRC sent. -/
structure IdAnswer where
  marker : BitVec 8
  bits   : BitVec 128
  crc    : BitVec 16
  deriving DecidableEq, Repr

/-- The three inputs of a switch triple (R254). -/
inductive SwitchInput where
  | limn | home | limp
  deriving DecidableEq, Repr

/-- The retirement triggers of Table 7-7. Corrected errors and parity errors come with the controller's count and
the TIME counter value from which it ran. -/
inductive RetireTrigger where
  | uncorrectable | patternTest | training
  | corrected (count : BitVec 16) (since : BitVec 64)
  | parity (count : BitVec 16) (since : BitVec 64)
  deriving DecidableEq, Repr

/-- The training steps of a channel in their order, its final run last, and how they end (R195). -/
inductive TrainStep where
  | commandAddress | readTiming | writeTiming | refVoltage | laneRepair | finalRun | passed
  deriving DecidableEq, Repr

/-- A word of a play buffer (R174): its panel and row. -/
structure PlayWord where
  panel : BitVec 4
  row   : BitVec 12
  deriving DecidableEq, Repr

/-- How a return lane is lost (R324): its block lock, or its records. -/
structure ReturnLoss where
  ret  : BitVec 2
  lock : Bool
  deriving DecidableEq, Repr

/-- A window read with an error (R216): corrected, or not, with its row slot and its word among the 512 of the bank's
4 KiB of that slot. -/
inductive WindowRead where
  | corrected
  | uncorrectable (slot : BitVec 13) (word : BitVec 9)
  deriving DecidableEq, Repr

/-- The duplicated datapaths whose compare can disagree, and the parity of a deficit entry that the next placement
reads (R226, R253, R281, Table 8-8). -/
inductive Datapath where
  | interpolator | split | quantizer
  | deficit (entry : BitVec 22)
  | fusion (ax : Axis)
  | speed (ax : Axis)
  deriving DecidableEq, Repr

/-- How a DMA burst ended (R380, Table 15-11): well, with a bus error on a read, a write or its record, or
with a parity error of the burst engine or of the unit it feeds. -/
inductive BurstEnd where
  | ok | srcErr | dstErr | ringErr | parity | unitParity
  deriving DecidableEq, Repr

/-- The kinds of PTP message of Table 16-1; `other` is any message outside the supported parts. -/
inductive PtpKind where
  | sync | followUp | delayResp | pdelayResp | announce | other
  deriving DecidableEq, Repr

/-- A received PTP message with the values the servo uses (R399, R400). Times are ns with 16
fraction bits. -/
structure PtpMsg where
  kind       : PtpKind
  domain     : BitVec 7
  transport  : Bool
  twoStep    : Bool
  rsFec      : Bool
  master     : BitVec 64
  clockClass : BitVec 8
  better     : Bool
  originTs   : BitVec 80
  correction : BitVec 64
  logInterval : BitVec 8
  deriving DecidableEq, Repr

/-- The counter or a domain's arithmetic (Table 16-8). -/
inductive TimeFault where
  | counter
  | domain (d : BitVec 1)
  deriving DecidableEq, Repr

/-- TAP instructions that R479 names; any other is `bypass` or a boundary scan without drive. -/
inductive JtagInstr where
  | extest | intest | clamp | bypass | idcode | sample
  deriving DecidableEq, Repr

/-- What start-up found (R457): repair-tree references that failed self-test, window banks that
failed the march test, channels that failed training, each Marshal's boot, and SMBADDR as sampled (R476). -/
structure StartReport where
  failed     : List (BitVec 32)
  badBanks   : List (BitVec 12)
  untrained  : List (Stack × BitVec 4 × TrainStep)
  badStacks  : List Stack
  marshalAOk : Bool
  marshalBOk : Bool
  refereeOk  : Bool
  smbAddr    : BitVec 2
  deriving DecidableEq, Repr

/-- A command: one constructor per row of the table of operations and events. -/
inductive Instr where
  -- SYS group (Table 17-8)
  | sysIdent (src : Src)
  | sysClaim (src : Src) (lease : BitVec 32)
  | sysRelease (src : Src)
  | sysTakeover (src : Src) (mbmask : BitVec 16) (lease : BitVec 32)
  | sysEventq (src : Src) (base : BitVec 48) (space : BitVec 4) (log2n : BitVec 5)
  | sysRollcall (src : Src) (buf : BufRef)
  | sysReset (src : Src) (scope : BitVec 2) (node : BitVec 32)
  | sysFwStage (src : Src) (buf : BufRef)
  | sysFwSwitch (src : Src)
  | sysFaultlogRead (src : Src) (first count : BitVec 32) (buf : BufRef)
  -- JOB and STRIPE groups (Table 17-9)
  | jobOpen (src : Src) (job : BitVec 16) (target : BitVec 2) (dual : Bool)
  | jobFeed (src : Src) (job : BitVec 16) (wp : BitVec 32)
  | jobQuery (src : Src) (job : BitVec 16)
  | jobAbort (src : Src) (job : BitVec 16) (abort : Bool)
  | jobClose (src : Src) (job : BitVec 16)
  | jobLedgerRead (src : Src) (st : StripeId) (first count : BitVec 16) (buf : BufRef)
  | stripeStatus (src : Src) (st : StripeId) (buf : Option BufRef)
  | stripeArm (src : Src) (st : StripeId)
  | stripeDisarm (src : Src) (st : StripeId)
  | stripeGo (src : Src) (st : StripeId) (waitmax : BitVec 16) (yref : BitVec 48) (sense : Bool)
      (crossmax : BitVec 23) (xcref : BitVec 48) (tlb : BitVec 32)
  | stripeStop (src : Src) (st : StripeId) (abort : Bool)
  | stripeResume (src : Src) (st : StripeId)
  | stripeRelease (src : Src) (st : StripeId)
  -- BEAM and STAGE groups (Table 17-11)
  | beamGainLoad (src : Src) (buf : BufRef)
  | beamDeadSet (src : Src) (beams : List (BitVec 32))
  | beamDeadClear (src : Src) (beams : Option (List (BitVec 32)))
  | beamStuckClear (src : Src) (b : BitVec 18)
  | beamHistoryRead (src : Src) (st : StripeId) (buf : BufRef)
  | beamHistoryPolicy (src : Src) (reqzero : Bool)
  | beamFitSeal (src : Src) (fit : FitRec)
  | beamStatus (src : Src)
  | stageConfig (src : Src) (ports : List PortRec) (tracker : TrackerRec)
  | stageMarks (src : Src) (port : BitVec 3) (marks : List MarkEntry)
  | stageStatus (src : Src)
  | stageFaultClear (src : Src)
  | stageSwitchTest (src : Src) (on : Bool)
  | stagePacePolicy (src : Src) (policy : BitVec 64)
  | stageEmu (src : Src) (emu0 emu1 : BitVec 64)
  -- CAM and CAL groups (Table 17-12)
  | camConfig (src : Src) (cam : BitVec 2) (rec : CamRec)
  | camSettings (src : Src) (cam : BitVec 2) (slot : SettingsSlot)
  | camI2cXfer (src : Src) (cam : BitVec 2) (wdata : List Byte) (rlen : BitVec 7)
  | camStart (src : Src) (cam : BitVec 2) (frames : BitVec 32)
  | camStop (src : Src) (cam : BitVec 2) (abort : Bool)
  | camDefects (src : Src) (cam : BitVec 2) (buf : BufRef)
  | camShading (src : Src) (cam : BitVec 2) (buf : BufRef)
  | camTemplate (src : Src) (cam : BitVec 2) (tpl : TemplateRec) (buf : BufRef)
  | camSpotgrid (src : Src) (cam : BitVec 2) (grid : SpotGrid)
  | camRing (src : Src) (cam : BitVec 2) (buf : BufRef)
  | camStatus (src : Src) (cam : BitVec 2)
  | calAcquire (src : Src) (desc : AcqDesc)
  | calTsLimits (src : Src) (limits : List (BitVec 16 × BitVec 16))
  | calTrimRun (src : Src) (item : BitVec 8)
  | calGainRun (src : Src) (grid : BeamGrid)
  | calGainAbort (src : Src) (abort : Bool)
  | calPolicy (src : Src) (policy : CalPolicy)
  | calStatus (src : Src)
  -- LINK, MEM, DMA, CVU, TIME and PLATE groups (Table 17-13)
  | linkThermal (src : Src) (ch : BitVec 4) (warn stop trip : BitVec 16)
  | linkStatus (src : Src)
  | linkTest (src : Src) (lane : BitVec 7)
  | memStatus (src : Src)
  | memLandingRead (src : Src) (st : StripeId) (seg : BitVec 16)
  | dmaConfig (src : Src) (chan : BitVec 5) (cfg pace head cring : BitVec 64)
  | dmaStart (src : Src) (chan : BitVec 5) (resume : Bool)
  | dmaStop (src : Src) (chan : BitVec 5) (abort : Bool)
  | dmaRingAdvance (src : Src) (chan : BitVec 5) (rp : BitVec 16)
  | dmaStatus (src : Src) (chan : BitVec 5)
  | cvuCompute (src : Src) (unit : BitVec 5) (init : Bool) (buf : BufRef)
  | cvuSave (src : Src) (unit : BitVec 5)
  | cvuRestore (src : Src) (unit : BitVec 5) (value : BitVec 64) (count : BitVec 48)
  | timeDomain (src : Src) (d : BitVec 1) (rec : DomainRec)
  | timeSelect (src : Src) (mode : BitVec 2) (pref : BitVec 1) (revert : Bool) (slew : BitVec 8)
  | timeStatus (src : Src)
  | plateProvision (src : Src) (svc : Bool) (key : BitVec 256)
  | plateToken (src : Src) (token : TokenRec)
  | plateStatus (src : Src)
  -- REPAIR, CODEC and TRACE groups (Table 17-14)
  | repairQuery (src : Src) (node : BitVec 32) (buf : Option BufRef)
  | repairPolicy (src : Src) (manual : Bool)
  | repairSpare (src : Src) (node : BitVec 32)
  | repairReturn (src : Src) (node : BitVec 32)
  | repairDisable (src : Src) (node : BitVec 32) (abort : Bool)
  | codecEncode (src : Src) (desc : CodecDesc)
  | codecDecode (src : Src) (desc : CodecDesc)
  | codecDisable (src : Src) (lane : BitVec 5) (decode abort : Bool)
  | traceStart (src : Src) (srcmask : BitVec 8) (buf : BufRef)
  | traceStop (src : Src) (abort : Bool)
  | traceStatus (src : Src)
  -- Referee commands (Table 18-7)
  | status (via : Via)
  | snapshot (via : Via) (offset : BitVec 16)
  | resetMarshal (via : Via) (arg : BitVec 8)
  | resetAll (via : Via) (arg : BitVec 16)
  -- direct registers
  | mbDoorbell (port : Port) (mb : BitVec 4) (value : BitVec 64) (writes : List HostWrite)
  | evqRpWrite (port : Port) (value : BitVec 64)
  | tsnapCtrRead (port : Port) (byte0 : Bool)
  | supvStatusRead (port : Port)
  | memThaw (st : Stack) (value : BitVec 64)
  | dmaCmdStart (chan : BitVec 6)
  | dmaCmdResume (chan : BitVec 6)
  | dmaCmdDrain (chan : BitVec 6)
  | dmaCmdAbort (chan : BitVec 6)
  | cvuDataFeed (unit : BitVec 5) (data : BitVec 64)
  | cvuCmdInit (unit : BitVec 5) (nbm1 : BitVec 3)
  | registerWrite (target : RegTarget)
  -- render side
  | parseSlot
  | canopyPassStart (st : StripeId)
  | canopyPassComplete (st : StripeId)
  | canopyFault
  | checkPassStart (st : StripeId)
  | checkPassComplete (st : StripeId)
  | landingPassStart (st : StripeId)
  | tileDispatch (engine : BitVec 6)
  | tileComplete (engine : BitVec 6) (observed : Option (BitVec 64))
  | tileWatchdogExpiry (engine : BitVec 6)
  | engineParityError (engine : BitVec 6)
  | graderMismatch (st : StripeId) (seg : BitVec 16) (panel : BitVec 4)
  | panelEncodeStart (lane : BitVec 5) (st : StripeId) (seg : BitVec 16) (panel : BitVec 4)
      (extA extB recs : List (BitVec 48))
  | panelEncodeComplete (lane : BitVec 5)
  | encodeMismatch (lane : BitVec 5)
  | decodeLaneFault (lane : BitVec 5)
  | decodeBufferResume (lane : BitVec 5) (addr : BitVec 48) (space : BitVec 4) (len : BitVec 32)
  | serviceJobStart (mb : BitVec 4) (lane : BitVec 5)
  | serviceJobComplete (mb : BitVec 4) (mismatch : Bool)
  | segmentLanded (st : StripeId) (seg : BitVec 16)
  | sealReadbackComplete (st : StripeId) (seg : BitVec 16) (badA badB : BitVec 16)
  | signatureTableParity (st : StripeId) (seg : BitVec 16) (badA badB : Bool)
  | preparationStart (st : StripeId) (seg : BitVec 16) (slot : BitVec 2)
  | segmentReady (st : StripeId) (seg : BitVec 16) (badRead : BitVec 16)
  | arbitrationComplete (st : StripeId) (seg : BitVec 16) (panel : BitVec 4) (badA badB : Bool)
  | copyRewriteComplete (st : StripeId) (seg : BitVec 16) (panel : BitVec 4) (copy : Stack)
      (exts : List (BitVec 48)) (ok : Bool)
  | extentPatternTest (st : Stack) (addr : BitVec 48) (pass : Bool)
  | scrubSegment (st : StripeId) (seg : BitVec 16) (badA badB : BitVec 16)
  | playBufferEcc (st : StripeId) (seg : BitVec 16) (word : PlayWord)
  | rerenderStart (st : StripeId) (seg : BitVec 16)
  | rerenderComplete (st : StripeId) (seg : BitVec 16) (equal : Bool)
  -- memory controller
  | refresh (st : Stack)
  | tempBandSample
  | memUncorrectable (st : Stack) (addr : BitVec 48) (loc : BitVec 31) (src : BitVec 32) (syn : BitVec 32)
  | memAutoThaw (st : Stack)
  | channelRetireTrigger (st : Stack) (ch : BitVec 4) (trigger : RetireTrigger)
  | unitMigrationComplete (st : Stack) (unit : BitVec 21) (bad : Option (BitVec 9))
  | channelRetired (st : Stack) (ch : BitVec 4)
  -- flash timing and pacing
  | flashPlace
  | fireMarker
  | voidMarker
  | paceFrameSend
  | paceReply (payload : Word) (crc : BitVec 16)
  | mcAbsentTimeout
  -- stage position
  | encoderTick
  | positionFrame (port : BitVec 3) (frame : Option PosFrame)
  | axisFusion (ax : Axis)
  | encoderIdentityRead (port : BitVec 3) (answer : Option IdAnswer)
  | referenceMarkEdge (port : BitVec 3) (rising : Bool)
  | markResolve (port : BitVec 3)
  | switchEdge (port : BitVec 3) (input : SwitchInput) (level : Bool)
  | emuStep (emu : BitVec 1)
  | permitInChange (level : Bool)
  -- blanker links
  | ackRecord (ret : BitVec 2) (rec : BitVec 256)
  | statusTimeout (lane : BitVec 7)
  | tempRecord (ret : BitVec 2) (rec : BitVec 256)
  | thermalStaleTimeout (ch : BitVec 4)
  | stuckRecord (ret : BitVec 2) (rec : BitVec 256)
  | mgmtRecord (ret : BitVec 2) (rec : BitVec 256)
  | mgmtRetryTimeout (lane : BitVec 7)
  | linkstatRecord (ret : BitVec 2) (rec : BitVec 256)
  | laneDegradedExit (lane : BitVec 7)
  | returnLaneLost (loss : ReturnLoss)
  | laneDown (lane : BitVec 7)
  | laneBringupRetry (lane : BitVec 7)
  | laneTestComplete (lane : BitVec 7) (errors : BitVec 64) (margin : BitVec 8)
  | mapsetEchoTimeout
  | syncBlockSend
  | blankFrame
  | plateAttachTimeout
  -- history, gain and datapaths
  | historyIdleDecay
  | historyZero
  | historyParityError (b : BitVec 18)
  | enforcedIdleEnd
  | gainParityError (b : BitVec 18)
  | windowEccUncorrectable (bank : BitVec 12) (read : WindowRead)
  | datapathMismatch (unit : Datapath)
  -- cameras
  | pclkCheck (cam : BitVec 2) (khz : BitVec 32)
  | camFrameStart (cam : BitVec 2)
  | camFrameEnd (cam : BitVec 2)
  | camLineStart (cam : BitVec 2)
  | camLineReceived (cam : BitVec 2) (pixels : List (BitVec 16))
  | pipelineLineComplete
  | locatorComplete
  | camFramePublish (cam : BitVec 2)
  | i2cTransferComplete (cam : BitVec 2) (ack : Bool) (data : List Byte)
  | camHealthPoll (cam : BitVec 2) (ack : Bool)
  | camParityError (cam : BitVec 2) (unit : BitVec 2)
  -- measurement and calibration
  | bcSample (codes : List Int)
  | acquisitionComplete (mb : BitVec 4) (parity : Bool)
  | rtdConversion (ch : BitVec 2) (mohm : BitVec 32)
  | monitorRead (values : List (BitVec 16))
  | autoTrimStart
  | trimRunComplete (item : BitVec 8) (inRange : Bool) (c1 c2 : BitVec 16) (r1 r2 : Int) (nvOk : Bool)
  | gainRunStepComplete
  | gainPairEnd
  -- DMA engine
  | descriptorFetch (chan : BitVec 6) (busErr : Bool)
  | fetchTimeout (chan : BitVec 6)
  | burstIssue
  | burstComplete (chan : BitVec 6) (how : BurstEnd)
  -- network time
  | ptpMessageReceive (port : NetPort) (msg : PtpMsg)
  | delayReqSend (d : BitVec 1)
  | announceTimeout (d : BitVec 1)
  | domainRevert
  -- hosts and Marshals
  | hostLinkDown (port : Port)
  | hostLinkUp (port : Port)
  | hostLeaseExpiry (port : Port)
  | waitingCommandComplete (mb : BitVec 4)
  | marshalHeartbeat (m : Marshal)
  | heartbeatTimeout (m : Marshal) (selfReported : Bool)
  | failoverReplayComplete (replayed : Bool)
  | marshalBootComplete (m : Marshal) (ok : Bool)
  | safeStateExit
  | faultLogFlush
  | fwSwitchRoleSwap
  | fwSwitchOldReboot
  | selfTestAtIdle (node : BitVec 32) (pass : Bool)
  -- power, clocks and resets
  | vinQualified
  | startInstant (report : StartReport)
  | railEnableTimeout (rail : BitVec 3)
  | railRetry
  | supplyOutOfRange (rail : BitVec 3)
  | supplyLossWarning
  | refLost
  | pllUnlock (clk : Clock)
  | pllRelockAttempt (clk : Clock) (locked : Bool)
  | resetN
  | perstN (port : Port)
  | thermalShutdown
  | smbusAlertResponse
  | jtagInstruction (ins : JtagInstr)
  | netPortDown (port : NetPort)
  | refRestored
  | aonRailOff
  | counterFault (which : TimeFault)
  | refereeSelfCheck
  | agemaxExpiry (item : BitVec 8)
  | goWaitmaxExpiry (mb : BitVec 4)
  | returnBlockLock (ret : BitVec 2)
  | trainPresetExpiry (lane : BitVec 7) (margin : BitVec 8)
  deriving DecidableEq, Repr

end Sys2Proof
end

