-- ==== Sys2Proof/Decode.lean ====
section
/-!
DEFINITION. Commands spelled by the bits of the table's rows. No row of the table gives bits, so no
word spells a command; the words of a mailbox command are read in Machine/Mailbox.lean.
-/

namespace Sys2Proof

/-- The command that a word spells by the table's bits: none, since no row gives any. -/
def decodeTableWord (_nbits _w : Nat) : Option Instr := none

end Sys2Proof
end

