-- ==== Sys2Proof/Config.lean ====
section
/-!
DEFINITION. What an implementation fixes (R1, R21) and the free values: constants without a body, so
that nothing can be proved of a value the manual leaves open.
-/

namespace Sys2Proof.Config

/-- The device secret S_d, unique to the module (R243, R244); the manual gives no value. -/
opaque deviceSecret : BitVec 256

/-- ID.SERIAL, the module serial and DEV_ID of Table 9-4 (Table 21-2). -/
opaque serial : BitVec 64

/-- Silicon stepping of ID.DEVICE and of the IDCODE (R479, Table 21-2). -/
opaque stepping : BitVec 4

/-- Words of a response whose fields are named but not placed (R424: SYS.IDENT, BEAM.STATUS,
STAGE.STATUS, LINK.STATUS, MEM.STATUS, TIME.STATUS, CAL.STATUS, PLATE.STATUS, TRACE.STATUS,
REPAIR.QUERY): word `i` of the response of `opcode`, made of the values reported. -/
opaque layout : (opcode i : Nat) → List Nat → Word

/-- Whether a firmware image passes MAGIC, CRC-64 and HMAC under the factory image key (R442). -/
opaque imageValid : List Byte → Bool

/-- VERSION of a firmware image (Table 21-2); the header layout is not given. -/
opaque imageVersion : List Byte → BitVec 32

/-- Nonce N of the on-die random source (R246): a fresh value for each draw. -/
opaque nonce : Nat → Word

/-- Outcome of a self-test that a command runs and the manual leaves to the hardware (R430). -/
opaque selfTest : (node : BitVec 32) → Nat → Bool

/-- The rate correction of the servo (R399): the manual states no arithmetic. -/
opaque servoRate : (offset rate : Int) → Nat → Int

/-- NS of a firmware stamp may lie within 2 µs of the event (R406): the deviation in ns. -/
opaque stampJitter : Nat → Int

/-- Place and SAD of a template that fits nowhere in its frame (R343): X, Y and SAD, 32 bits each. -/
opaque noMatch : Nat → BitVec 96

/-- The fit that the firmware's alignment procedure seals from the locator results of a frame (R204); the
manual gives no procedure. The three words of a fit record, or no seal. -/
opaque alignment : List Nat → Nat → Option (Word × Word × Word)

/-- CODE of the fault-log entries that report no status (R446, R448, R450). -/
opaque logCode : Nat → BitVec 16

/-- KIND of a partner in the roll call (Table 17-17), named without its values. -/
opaque partnerKind : Nat → BitVec 8

/-- Bit *clock ratio* of a FRAME record, named without a meaning (Table 13-5). -/
opaque clockRatio : Nat → Bool

/-- A source value that no play-buffer slot or staging row holds any more: grid row and column of a segment
below the start of a resumed run (R209, R211). -/
opaque goneSource : Int → Int → BitVec 16

/-- Whether a write to the non-volatile plate-usage store verifies (Table 9-7). -/
opaque nvWrite : Nat → Bool

/-- MIN, MAX and SUM of a summary without a sample that counts (R351, R352). -/
opaque emptySummary : Nat → BitVec 112

/-- Bytes of a burst that met a bus error, up to the burst's end (R380). -/
opaque burstJunk : Nat → Byte

/-- The 1,024 bytes of the Referee snapshot (R436, R489): its contents are named, not placed. -/
opaque snapshotByte : List Nat → Nat → Byte


end Sys2Proof.Config
end

