-- ==== Sys2Proof/Machine/State.lean ====
section
/-!
DEFINITION. The state of the block as plain data, the reasons a step may stop, and the state right
after power-on reset. Every field names the rule that gives it.
-/

namespace Sys2Proof.Machine

/-- Reasons for a fault. The spec gives every step an effect, so no meaning raises one: the one
constructor stands for a step that could not be judged, and is never answered. -/
inductive Fault where
  /-- Raised by no meaning (safe). -/
  | unreachable
  deriving DecidableEq, Repr

/-- Reasons for a refusal. -/
inductive Refusal where
  /-- Raised by an arm of `exec` whose command has no meaning yet (safe). -/
  | notModelled (mnemonic : String)
  deriving DecidableEq, Repr

/-! ### Time (chapter 16) -/

/-- States of a time domain (Table 16-3), in the order of TIME.DOM STATE. -/
inductive DomSt where
  | unlocked | acquiring | locked | degraded | holdover
  deriving DecidableEq, Repr

/-- One IEEE 1588 domain (R395 to R399). -/
structure Domain where
  cfg      : DomainRec
  st       : DomSt
  anchor   : Nat
  value    : Nat            -- ns with 16 fraction bits
  rate     : Int            -- units of 2^-40
  syncs    : Nat
  offset   : Int            -- ns
  inTol    : Nat            -- consecutive Sync within LOCKTOL
  outTol   : Nat            -- consecutive Sync beyond DEGTOL
  master   : Option (BitVec 64)
  lastAnnounce : Nat
  annInterval  : Int        -- log2 seconds, as the master declares
  syncT2   : Option (Nat × Int)   -- receive time and correction of the latest two-step Sync
  delayT3  : Option Nat     -- transmit time of the latest Delay_Req
  t1t2     : Int            -- latest t2 - t1 with corrections
  pathDelay : Int
  reqInterval : Int
  goodSince : Option Nat
  clockClass : BitVec 8
  rsFec   : Bool            -- RS-FEC on the port, from the latest message (Table 16-4)
  lastReq : Option Nat      -- counter at the latest Delay_Req or Pdelay_Req
  deriving DecidableEq, Repr

/-- The time base. `ctr` is the TIME counter (R394). -/
structure TimeBase where
  ctr     : Nat
  running : Bool
  domA    : Domain
  domB    : Domain
  mode    : BitVec 2
  pref    : BitVec 1
  revert  : Bool
  slew    : BitVec 8
  sel     : BitVec 1
  initial : Bool
  e0      : Int
  t0      : Nat
  deferred : Option (BitVec 2 × BitVec 1 × Bool × BitVec 8)
  netA    : Bool
  netB    : Bool
  ignored : Nat             -- PTP messages outside Table 16-1 (R397)
  deriving DecidableEq, Repr

/-! ### Host ports, mailboxes, events (chapters 17 and 21) -/

/-- An event before ESEQ and PHASE are given to it (Table 17-5). -/
structure Event where
  code  : BitVec 16
  src   : BitVec 8
  stamp : BitVec 64
  job   : BitVec 16
  stripe : BitVec 16
  segment : BitVec 16
  dry   : Bool
  nodef : BitVec 32
  noder : BitVec 32
  d0 : BitVec 64
  d1 : BitVec 64
  d2 : BitVec 64
  d3 : BitVec 64
  deriving DecidableEq, Repr

/-- A port's event queue (R420, R422, Table 21-4). -/
structure EventQueue where
  base   : BitVec 48
  space  : BitVec 4
  log2n  : BitVec 5
  wp     : Nat
  phase  : Bool
  rp     : Nat
  eseq   : BitVec 32
  staged : List Event
  lost   : Nat
  deriving DecidableEq, Repr

/-- One MSI-X table entry (R487). -/
structure MsixEntry where
  addr : BitVec 64
  data : BitVec 32
  masked : Bool
  deriving DecidableEq, Repr

/-- A PCIe port. -/
structure PortS where
  linkUp   : Bool
  downAt   : Nat
  departed : Bool
  lease    : BitVec 32
  lastBell : Nat
  evq      : EventQueue
  msix     : List MsixEntry
  msixPend : BitVec 18
  tsCtr    : BitVec 64
  tsStamp  : BitVec 64
  tsSel    : BitVec 64
  deriving DecidableEq, Repr

/-- A mailbox: window, ownership, and the stored response (R410 to R416, Table 21-3). -/
structure Mailbox where
  owner     : Option Port
  lastAlive : Option (BitVec 8)
  busy      : Bool
  done      : Bool
  overrun   : Nat
  ignored   : Nat
  lease     : BitVec 32
  cmdArea   : List Host.Cell
  header    : Word
  resp0     : Word
  resp1     : Word
  respBody  : List Word
  kept0     : Word          -- the stored response of the last command accepted (R415)
  kept1     : Word
  keptBody  : List Word
  deriving DecidableEq, Repr

/-- A command that waits (R418). -/
structure Waiting where
  src   : Src
  cmd   : Instr
  since : Nat
  deriving DecidableEq, Repr

structure HostIf where
  portA   : PortS
  portB   : PortS
  mbs     : List Mailbox
  waiting : List Waiting
  held    : List (Port × BitVec 4)
  deriving DecidableEq, Repr

/-! ### Jobs, the stream and stripes (chapters 1 to 6) -/

/-- The parameters JOB_HEADER carries (Table 2-7). -/
structure JobHeader where
  grid     : BitVec 2
  dir      : BitVec 2
  ingest   : BitVec 2
  passes   : Nat
  lrc      : Bool
  place    : Bool
  gainhist : Bool
  witness  : Bool
  lgo      : Nat
  ghbound  : Nat
  pdx      : List Int
  pdy      : List Int
  deriving DecidableEq, Repr

/-- LRC_PARAMS (Table 2-9). -/
structure LrcParams where
  nt    : Nat
  iters : Nat
  eta   : Nat
  sigma  : List Nat
  weight : List Nat
  deriving DecidableEq, Repr

/-- A consumed fog map (R55). -/
structure FogMap where
  copy : Nat                -- number of the copy in the stream store
  nx : Nat
  ny : Nat
  ox : Int
  oy : Int
  data : List Nat
  deriving DecidableEq, Repr

/-- A consumed distortion map (R56). -/
structure DistMap where
  copy : Nat
  nx : Nat
  ny : Nat
  ox : Int
  oy : Int
  plog2 : Nat
  data : List (Int × Int)
  deriving DecidableEq, Repr

/-- A contour point: tag 0 on-curve, 1 quadratic, 2 cubic (R59), and layout coordinates. -/
structure CPoint where
  tag : Nat
  x : Int
  y : Int
  deriving DecidableEq, Repr

/-- A primitive: class, margin flag and contours (R57, R58, R79). -/
structure Prim where
  cls    : Nat
  margin : Bool
  contours : List (List CPoint)
  deriving DecidableEq, Repr

/-- A placed reference or array of a cell (R62, R63); a CELL_REF is an array of one. -/
structure CellUse where
  cell   : Nat
  orient : Nat
  dx : Int
  dy : Int
  cls    : Option Nat
  margin : Bool
  cx : Int
  cy : Int
  rx : Int
  ry : Int
  cols : Nat
  rows : Nat
  deriving DecidableEq, Repr

/-- One geometry record of a body. -/
inductive Geom where
  | prim (p : Prim)
  | use (u : CellUse)
  deriving DecidableEq, Repr

/-- A cell definition, or one being read (R60). -/
structure CellDef where
  id : Nat
  xmin : Int
  ymin : Int
  xmax : Int
  ymax : Int
  items : List Geom
  deriving DecidableEq, Repr

/-- A RASTER_PANEL record with the density sums of R110. -/
structure RasterPanel where
  seg     : Nat
  panel   : Nat
  mode    : Bool
  precorr : Bool
  addr    : Nat
  space   : BitVec 4
  crc     : BitVec 64
  sums    : List Nat
  deriving DecidableEq, Repr

/-- A kept WITNESS record (R68). -/
structure Witness where
  seg  : Nat
  sigs : List (BitVec 64)
  deriving DecidableEq, Repr

inductive JState where
  | streaming | ended | aborting
  deriving DecidableEq, Repr

/-- A held job (R424, Table 17-17 section 4). -/
structure Job where
  id      : BitVec 16
  owner   : Port
  target  : BitVec 2
  dual    : Bool
  st      : JState
  hdr     : Option JobHeader
  dose    : List Nat
  lrc     : Option LrcParams
  fog     : Option FogMap
  dist    : Option DistMap
  cells   : List CellDef
  libBytes : Nat
  plate   : Option (BitVec 64)
  fNext   : Nat
  nStripes : Nat
  ignoredWitness : Nat
  final   : Option (Option Nat × Nat × Nat)   -- last SEQ, next slot and repeats once its stream has ended
  deriving DecidableEq, Repr

/-- Where the parser stalls (R37, R39). -/
structure Stall where
  code : BitVec 16
  seq  : Nat
  off  : Nat
  word : Nat
  deriving DecidableEq, Repr

/-- The context of the next record (R40). -/
inductive Ctx where
  | job
  | stripe (n : BitVec 16)
  | cell (c : CellDef)
  deriving DecidableEq, Repr

/-- The stream parser (R31 to R39). -/
structure Parser where
  job     : Option (BitVec 16)
  wp      : Nat
  rd      : Nat
  exp     : Nat
  kept    : List (Nat × BitVec 64)
  repeats : Nat
  last    : Option Nat
  stall   : Option Stall
  waitSpace : Bool
  ctx     : Ctx
  deriving DecidableEq, Repr

/-- Stripe states (Table 1-6), in the code order of R491. -/
inductive StripeSt where
  | defined | checked | refused | armed | running | done | stopping | stopped | halted
  deriving DecidableEq, Repr

/-- State of a pass of a stripe (R23). -/
inductive PassSt where
  | waiting | running | paused | complete
  deriving DecidableEq, Repr

/-- Segment landing states (Table 6-3); `none` is LSTATE 15 (Table 17-10). -/
inductive LState where
  | landing | withheld | landed | admitted | sealed | unverifiable | witnessFailed | ready | exposing
  | none
  deriving DecidableEq, Repr

/-- Ledger outcomes (Table 11-10, Table 18-10). -/
inductive SegOutcome where
  | notStarted | complete | partly | blanked | beamFault
  deriving DecidableEq, Repr

/-- Regular context of the codec (Table 5-4). -/
structure RegCtx where
  a : Nat
  n : Nat
  b : Int
  c : Int
  deriving DecidableEq, Repr

/-- Interruption context (Table 5-4). -/
structure IntCtx where
  ra  : Nat
  rn  : Nat
  rnn : Nat
  deriving DecidableEq, Repr

/-- The state of a panel column (R140). -/
structure CodecCtx where
  regs : List RegCtx
  ints : List IntCtx
  runIndex : Nat
  deriving DecidableEq, Repr

/-- Where a panel's encoding stands. -/
inductive PanelSt where
  | idle | encoding | encoded
  deriving DecidableEq, Repr

/-- A rectangle of the annex (Table 18-11). -/
structure Rect where
  sFrom : Nat
  sTo   : Nat
  cFrom : Nat
  cTo   : Nat
  mask  : Nat
  kind  : Bool
  deriving DecidableEq, Repr

/-- A panel of a segment: its landing in both stacks (R144, R163, R165). -/
structure Panel where
  st    : PanelSt
  bsig  : BitVec 64
  extA  : List Nat
  extB  : List Nat
  start : Option CodecCtx
  after : Option CodecCtx
  graderMism : Nat
  encodeMism : Nat
  again : Bool                    -- discarded on its lane, to be encoded again (R151, R154)
  arb   : Bool
  rewrite : Option Stack
  badCopy : Option Stack          -- the copy that arbitration or read-back found bad, until it is rewritten
  deriving DecidableEq, Repr

/-- The causes of Table 11-8, by rank. -/
structure Cause where
  rank : Nat
  ev   : Option Event
  boundary : Option Nat
  deriving DecidableEq, Repr

/-- What one flash does to the codes, the deficit store and the figures of R223. -/
structure FlashAcc where
  codes : List (Nat × Nat)   -- beam and code, codes of 0 left out
  deficit : List (Nat × Nat)
  made : List Nat            -- segment of each nonzero entry made
  fixed : List Nat           -- segment of each entry brought to 0
  lost : List (Nat × Nat)    -- irreparable pixels
  deriving DecidableEq, Repr

/-- The run of the stripe that is RUNNING or STOPPING (R283 to R305). -/
structure Run where
  st    : StripeId
  qs    : Nat
  f0    : Int
  yref  : Nat
  sense : Int
  xcref : Nat
  crossmax : Nat
  tlb   : Nat
  goAt  : Nat
  permitAt : Nat
  next  : Nat                       -- flash index of the flash placed last, or to be placed
  placed : Bool
  mPrev : Option Nat                -- marker instant of flash next - 1, phase units
  fix   : Option (Nat × BitVec 64)  -- fixed instant and fine-shift word of the placed flash
  flash : FlashAcc                  -- the placed flash: its codes, and what its marker makes of them
  boundary : Option Nat
  causes : List Cause
  halt  : Option (Nat × Nat)        -- f_h, and the TIME counter at detection
  reentryOk : Bool                  -- REENTRY at the halt
  awaiting : List (Nat × Nat × Nat) -- lane, flash, marker instant: statuses due
  taken : List (Nat × Nat × Nat)    -- lane, flash, status: statuses taken
  deadGroups : List (Nat × Nat × Nat) -- group, lane, f_d
  storeGroup : Option Nat
  stuckOff : List (Nat × Nat)       -- beams reported stuck-off in the run, with f_s
  recorded : Nat                    -- exposure positions from q_s whose record is written

  laneBlank : List (Nat × Nat)      -- panel, first exposure row its decode lane did not deliver (R153)
  runNo : Nat
  deriving DecidableEq, Repr

/-- A segment of a stripe. -/
structure Seg where
  omega  : Nat
  pmax   : Nat
  prow   : Nat
  pcol   : Nat
  margin : Int
  unexp  : Bool
  lstate : LState
  outcome : SegOutcome
  admittedOnce : Bool
  sdef   : Bool
  panels : List Panel
  /-- The first pixel out of reach: s, c, value, Kreq and K_live (R120). -/
  firstBad : Option (Nat × Nat × Nat × Nat × Nat)
  /-- Panels whose Grader datapaths have differed once in the check pass (R105). -/
  checkMism : List Nat
  /-- A raster block of the re-render failed; it waits for the next JOB.FEED (R67). -/
  feedWait : Bool
  old    : Option (List Panel × Nat × Nat)
  recA   : Nat
  recB   : Nat
  tland  : Nat
  tadm   : Nat
  ebytes : Nat
  repairs : Nat
  fit    : Option FitRec
  deficits : Nat
  repaired : Nat
  irrepPx  : List (Nat × Nat)     -- irreparable pixels (s, c), no repeats
  spos     : Nat
  lastScrub : Nat
  unverified : Bool
  deriving DecidableEq, Repr

/-- The three raster passes that run tiles (R89). -/
inductive TilePass where
  | rerun | landing | check
  deriving DecidableEq, Repr

/-- A tile waiting for an engine or in flight on one; `third` is the run of R95. -/
structure Tile where
  st   : StripeId
  seg  : Nat
  tile : Nat
  pass : TilePass
  third : Bool
  front : Bool            -- run again ahead of the passes (R89)
  since : Nat             -- TIME counter at its dispatch (R96)
  deriving DecidableEq, Repr

/-- Check values of a tile (R93 to R95). -/
structure TileVal where
  seg   : Nat
  tile  : Nat
  check : Option (BitVec 64 × Nat)
  land  : Option (BitVec 64 × Nat)
  good  : Bool
  deriving DecidableEq, Repr

/-- What an arm latches (R28). -/
structure Latched where
  gen    : Nat
  alpha  : Nat
  tau    : Nat
  g      : List Nat
  dead   : List Nat
  lambda : Nat
  tmin   : Nat
  band   : Nat
  laneMap : List (Option Nat)
  timeMode : BitVec 2
  target : BitVec 2
  decBind : List Nat
  deriving DecidableEq, Repr

/-- A held dose-factor map: its units of segment space in each stack, and the CRC-64 of each segment's
share (R108). -/
structure FactorMap where
  unitsA : List Nat
  unitsB : List Nat
  crcs   : List (BitVec 64)
  deriving DecidableEq, Repr

/-- A stripe record. -/
structure Stripe where
  id     : StripeId
  st     : StripeSt
  nseg   : Nat
  pass   : Nat
  rev    : Bool
  x0     : Int
  y0     : Int
  hdr    : JobHeader
  target : BitVec 2
  dual   : Bool
  dose   : List Nat
  lrc    : Option LrcParams
  fog    : Option FogMap
  dist   : Option DistMap
  cells  : List CellDef
  items  : List Geom
  bodyDone : Bool
  nrec   : Nat
  bytes  : Nat
  rasters : List RasterPanel
  witnesses : List Witness
  canopy : PassSt
  canopyFails : Nat
  canopyAt : Nat
  canopyTime : Nat
  check  : PassSt
  checkDead : List Nat
  tiles  : List TileVal
  capMap : List (List Nat)
  capPages : List Nat             -- pages of the capacity-map area, one for each capacity group (R121)
  fmap   : Option FactorMap       -- the dose-factor map, while it is held (R108)
  remap  : Bool                   -- both copies failed; the Canopy pass runs again (R108)
  landing : PassSt
  landNext : Nat                  -- coding position whose tiles are queued next
  cols   : List (Nat × CodecCtx)  -- panel columns: coding position to encode next, and its state (R141)
  segs   : List Seg
  started : Bool
  kStart : Nat
  boundary : Option Nat
  runs   : Nat
  carried : Bool
  f0     : Option Int
  fh     : Option Nat
  fgen   : Nat
  latched : Option Latched
  haltRun : Option (Run × Nat)      -- the run that ended in HALTED, and f_h, until its records are done
  deriving DecidableEq, Repr

structure Jobs where
  jobs    : List Job
  parser  : Parser
  stripes : List Stripe
  copies  : Nat             -- map copies made so far
  deriving DecidableEq, Repr

/-! ### Render side (chapters 3 to 5) -/

/-- A panel in work on a codec lane. -/
structure LaneWork where
  st    : StripeId
  seg   : Nat
  panel : Nat
  deriving DecidableEq, Repr

/-- A service job (R155 to R157). -/
structure Service where
  mb     : BitVec 4
  decode : Bool
  desc   : CodecDesc
  lane   : Option Nat
  bufs   : List (BitVec 48 × BitVec 4 × BitVec 32)   -- further output buffers (R147)
  deriving DecidableEq, Repr

structure Render where
  engines : List (Option Tile)
  queue   : List Tile
  canopy  : Option StripeId
  checkSt : Option StripeId
  landSt  : Option StripeId
  encWork : List (Option LaneWork)
  decWork : List (Option LaneWork)
  encBind : List Nat
  services : List Service
  drainEnc : List Nat
  drainDec : List Nat
  arbs     : List (Nat × LaneWork)   -- arbitrations on decode lanes: lane and panel (R177)
  deriving DecidableEq, Repr

/-! ### Landing store (chapter 6) -/

/-- A play-buffer slot. Its 4,096 rows stand in exposure order in the play buffer of both stacks (R169,
R203, Table 6-1). -/
structure Slot where
  st    : StripeId
  seg   : Nat
  ready : Bool
  deriving DecidableEq, Repr

structure Landing where
  slots    : List (Option Slot)
  testing  : List (Stack × Nat)
  removed  : List (Stack × Nat)
  transient : Nat
  reloads  : Nat
  unverifs : Nat
  deriving DecidableEq, Repr

/-! ### Memory and its controllers (chapters 7 and 15) -/

/-- The memory spaces but DEVREG (Table 15-1), each a list of bytes in canonical form. -/
structure Mem where
  landing : List Host.Cell
  hostA   : List Host.Cell
  hostB   : List Host.Cell
  ctrl    : List Host.Cell
  deriving DecidableEq, Repr

/-- What a pattern helper generates (R195). -/
inductive HelperPattern where
  | prbs31 | walkingOne
  | user (p : BitVec 128)
  deriving DecidableEq, Repr

/-- A memory channel: its training with the pattern of the pattern helper and the beats of the compare helper
(R195), retirement in progress with the units in use that have not yet been copied (R198), and the error times of
Table 7-7. -/
structure Chan where
  step     : TrainStep
  pattern  : HelperPattern
  beats    : Nat
  retiring : Bool
  retired  : Bool
  suspect  : Bool
  uncorr   : List Nat
  patBad   : Nat
  unmoved  : List Nat
  deriving DecidableEq, Repr

/-- The controller of one stack (Tables 7-4 to 7-6). -/
structure StackCtl where
  frz     : BitVec 64
  capAddr : BitVec 64
  capLoc  : BitVec 64
  capSrc  : BitVec 64
  capTime : BitVec 64
  frozeAt : Nat
  heldWrites : List Host.Cell
  chans   : List Chan
  failed  : Bool
  band    : Nat
  refreshes : Nat
  lastRefresh : Nat           -- instant of the latest refresh, in 0.1 ns
  order   : List Nat          -- channels whose retirement has started, the latest first (R196)
  removed : List Nat          -- channels removed from capacity, refresh and power at the last arm (R199)
  centredAt : Nat             -- instant of the last training or re-centring (R195)
  damaged : List Nat          -- 32-byte words of the stream ring that failed ECC while their unit was copied (R198)
  deriving DecidableEq, Repr

structure MemCtl where
  stA     : StackCtl
  stB     : StackCtl
  coldSince : Option Nat
  pllDown : Bool
  bandAt  : Option Nat             -- instant of the last T_b sample
  deriving DecidableEq, Repr

/-! ### Playback and the run (chapters 8, 9 and 11) -/

/-- The row clock of a halted stripe that may re-enter (R305). -/
structure Reentry where
  run   : Run
  fh    : Nat
  n     : Nat
  mPrev : Nat
  good  : Nat
  cross : Option (Nat × Bool)       -- the crossing of row n, once it is known, and whether it qualifies
  late  : Bool                      -- D <= 64 g has been found for step n with its segments not ready
  deriving DecidableEq, Repr

/-- The candidate boundary: the first segment whose first row has not yet been crossed. -/
def Reentry.candidate (e : Reentry) : Nat := (e.n + 4095) / 4096

structure Play where
  staging : List (Nat × (Nat × List Nat))   -- ring slot, (exposure row, 8,192 source values) (R214)
  window  : List (Nat × List Nat)           -- 16 * physical bank + row in the bank, its 2,048 values (R213)
  winRows : List (Nat × Nat)                -- row slot, exposure row it holds
  bankMap : List (Nat × Nat)                -- logical to physical, where not the identity
  bankErr : List (Nat × List Nat)           -- physical bank, instants of corrected errors
  bankBad : List Nat                        -- physical banks to replace at the next arm
  deficit : List (Nat × Nat)                -- slot * 4,096 + entry, value above 0
  run     : Option Run
  tail    : Option Run                      -- the run that ended last, while its last statuses may arrive
  reentry : Option Reentry
  deriving DecidableEq, Repr

/-- A gain table (Table 9-1). -/
structure GainTable where
  src   : BitVec 2
  gen   : Nat
  alpha : Nat
  tau   : Nat
  g     : List Nat
  deriving DecidableEq, Repr

/-- Gain, history and beam lists (chapter 9). -/
structure Beam where
  pendingT : Option GainTable
  activeT  : Option GainTable
  lastGen  : Nat
  stuckOn  : List Nat
  stuckOff : List Nat
  recovered : List Nat
  hostDead : List Nat
  groupDead : List Nat
  hist     : List (Nat × Nat)        -- d[b], entries equal to 0 left out
  shadow   : List (Nat × Nat)
  snap     : Option (StripeId × List (Nat × Nat))
  lastM    : Option Nat              -- marker instant of the last beams-target flash
  decays   : Nat                     -- idle updates made since then
  tauArm   : Option Nat
  idleEnd  : Option Nat
  reqZero  : Bool
  fit      : FitRec
  deriving DecidableEq, Repr

/-! ### Stage (chapter 10) and pacing (chapter 11) -/

/-- A mark entry with the passage R273 watches. -/
structure MarkS where
  e      : MarkEntry
  side   : Option Int
  passed : Bool
  deriving DecidableEq, Repr

/-- A position port. -/
structure PosPort where
  cfg     : PortRec
  present : Bool
  passes  : Nat
  fails   : Nat
  heldOut : Bool
  idRead  : Bool
  cNoResp : Nat
  cCrc    : Nat
  cErr    : Nat
  cJump   : Nat
  cWarn   : Nat
  ended   : Bool
  cur     : Option Nat            -- x' of the current tick
  last    : Option (Nat × Nat)    -- latest passing x' and its tick
  before  : Option (Nat × Nat)    -- the passing x' before it
  marks   : List MarkS
  edges   : List Nat              -- accepted mark edges not yet resolved
  edgeSeen : Option Nat
  edgeIgn : Nat
  swLevel : List Bool             -- active level of LIMN, HOME, LIMP
  swLast  : List (Option Nat)
  swCount : List Nat
  swRaised : List (Option Nat)
  homeEdge : Option Nat
  home    : Option Nat            -- latched position of HOME
  markDev : Option Int            -- L - MPOS of the mark that passed last
  presentAt : Nat
  status  : BitVec 6              -- status bits 5:0 of the latest frame whose CRC held (R258)
  ident   : Option (BitVec 128)   -- identity bits of the latest answer: MAKER, MODEL, SERIAL, LATDECL, TDDECL (R263)
  nextMarks : Option (List MarkEntry)   -- accepted, in effect at the next tick (R271)
  deriving DecidableEq, Repr

inductive EstSt where
  | settling | valid | still
  deriving DecidableEq, Repr

/-- An axis: fusion and speed (R264 to R270). -/
structure AxisS where
  window : List Nat
  dir    : Int
  anchor : Option Nat
  still  : Nat
  st     : EstSt
  x      : Nat
  v      : Int
  t      : Nat
  prevX  : Option Nat
  filled : Bool
  degraded : Bool
  pairBad : Nat
  missing : Nat
  lastDisagree : Bool
  tk     : Option Nat             -- tick fused last
  hadPort : Bool
  vPrev  : Int                    -- speed reported at the tick before the one fused last
  fused  : List (Nat × Nat)       -- the latest two fused samples: tick, position
  deriving DecidableEq, Repr

/-- An emulation output (R278 to R280). -/
structure Emu where
  word   : BitVec 64
  m      : Int
  target : Int
  enabled : Bool
  lastStep : Nat
  overrun : Bool
  zPulse : List Nat               -- starts of the pulses still owed
  gap    : Nat                    -- spacing of the steps of this tick
  next   : Option (BitVec 64)
  deriving DecidableEq, Repr

structure Stage where
  ports   : List PosPort
  tracker : TrackerRec
  axScan  : AxisS
  axCross : AxisS
  tick    : Nat
  prevTick : Nat
  nextCfg : Option (List PortRec × TrackerRec)   -- accepted, in effect at the next tick (R255)
  integrity : Bool
  swTest  : Bool
  recovery : Bool
  emus    : List Emu
  deriving DecidableEq, Repr

/-- The Pacer and the motion controller (R290 to R293). -/
structure Pacer where
  policy : BitVec 64
  policyNext : Option (BitVec 64)
  sentAt : Option Nat
  seq    : BitVec 8
  ceil   : BitVec 32
  bind   : BitVec 4
  frames : Nat
  mcPresent : Bool
  mcGood : Nat
  mcLast : Nat
  mcState : BitVec 2
  mcCmdv : BitVec 32
  mcId   : BitVec 16
  deriving DecidableEq, Repr

/-! ### Blanker links (chapter 12) -/

/-- Lane states (Table 12-9). -/
inductive LaneSt where
  | down | spare | carrier | suspect | suspectPassed | retired
  deriving DecidableEq, Repr

/-- An output lane. -/
structure Lane where
  st      : LaneSt
  step    : Nat                 -- bring-up step in progress, 0 for none (Table 12-7)
  preset  : Nat
  margins : List Nat
  margin  : Nat
  errs    : Nat
  degraded : Bool
  lastBad : Nat
  deaths  : List Nat
  fails   : Nat
  ident   : Option (List Word)
  heldOut : Bool
  testing : Bool
  downAt  : Nat
  stepAt  : Nat                 -- instant at which the bring-up step began
  synced  : Nat                 -- multiple of 262,144 cycles for which SYNC was sent last (R310)
  mseqTx  : BitVec 8
  mseqRx  : BitVec 8
  rx      : List Byte
  deriving DecidableEq, Repr

/-- A return lane (R308, R314, R324). -/
structure RetLane where
  lock    : Bool
  good    : Nat                 -- good control blocks in a row before block lock
  bad     : Nat                 -- control blocks in a row whose CRC failed under lock
  discarded : Nat
  lastAt  : Nat                 -- instant of the record received last
  deriving DecidableEq, Repr

/-- A management message without its answer yet (R318). -/
structure MgmtWait where
  lane  : Nat
  mtype : Nat
  body  : List Byte
  tries : Nat
  sentAt : Nat
  deriving DecidableEq, Repr

/-- A head or plate temperature channel (R295). -/
structure Thermal where
  declared : Bool
  tmax    : Int
  warn    : Int
  stop    : Int
  trip    : Int
  reading : Option Int
  level   : Nat
  lastAt  : Nat
  stale   : Bool
  deriving DecidableEq, Repr

/-- An arm that waits for the MAPSET echo (R325). -/
structure ArmWait where
  src  : Src
  st   : StripeId
  sentAt : Nat
  resume : Bool
  map  : List (Option Nat)       -- the map sent, whose echo is awaited
  deriving DecidableEq, Repr

structure Link where
  lanes   : List Lane
  rets    : List RetLane
  map     : List (Option Nat)
  head    : Option (List Word)
  latchedOff : List Nat
  mgmt    : List MgmtWait
  thermal : List Thermal
  arm     : Option ArmWait
  dryBlock : Bool
  tripBlock : Bool
  serial  : Option Nat            -- HEADSERIAL of the head discovered last
  nextMark : Nat                  -- earliest instant of the next marker, phase units (R287)
  lastBlank : Nat                 -- instant of the last blank frame
  deriving DecidableEq, Repr

/-! ### Aperture plate (chapter 9) -/

/-- A usage record's counts (Table 9-4); ON[r] is a list of 64. -/
structure Usage where
  plate   : BitVec 64
  seq     : Nat
  tserial : Nat
  tlast   : Nat
  flashes : Nat
  on      : List Nat
  deriving DecidableEq, Repr

/-- A record of the plate-usage store with its effective limits. -/
structure StoreRec where
  usage : Usage
  hardFlash : Nat
  hardOn : Nat
  refused : Bool                    -- beams jobs are refused until a RESEED token (R249)
  deriving DecidableEq, Repr

structure Plate where
  keyM    : Option (BitVec 256)
  keySvc  : Option (BitVec 256)
  step    : Nat                     -- attach step in progress, 0 for none (Table 9-3)
  stepAt  : Nat
  nonce   : Word
  idBlock : List Word
  attached : Option (BitVec 64)
  usage   : Usage
  hardFlash : Nat
  hardOn  : Nat
  warned  : List Nat
  eol     : Bool
  refused : Bool
  store   : List StoreRec
  dirty   : Bool                    -- a commit that waits for the new active Marshal (R438)
  unclean : List (BitVec 64)        -- plates owed the counts of R250
  sinceCommit : Nat
  deriving DecidableEq, Repr

/-! ### Cameras (chapter 13) -/

/-- A locator template (R343). -/
structure Template where
  cfg : TemplateRec
  img : List (List Nat)
  deriving DecidableEq, Repr

/-- A frame that a port has started and not published (R339, R345). -/
structure CamFrame where
  num     : Nat
  gen     : BitVec 32
  mixed   : Bool
  tstart  : BitVec 64
  lines   : Nat                    -- active LV edges so far
  rows    : List (List Nat)        -- corrected lines, in order
  ended   : Bool
  tend    : BitVec 64
  located : Bool
  reserved : Nat                   -- ring words
  drop    : Option Nat             -- drop cause (Table 13-3)
  tpls    : List Template
  grid    : Option SpotGrid
  deriving DecidableEq, Repr

/-- A line entry: taken at LV, received, raw pixels (R338). -/
structure CamLine where
  frame  : Nat
  received : Bool
  pixels : List Nat
  deriving DecidableEq, Repr

/-- An I2C transfer queued by CAM.I2C.XFER (R333). -/
structure I2cXfer where
  src  : Src
  wdata : List Byte
  rlen : Nat
  deriving DecidableEq, Repr

structure Cam where
  cfg      : CamRec
  present  : Bool
  running  : Bool
  draining : Bool
  left     : Option Nat            -- frames still to take, none: continuous
  inFrame  : Bool
  ignore   : Bool                  -- the frame under FV is not taken, or its rest is ignored
  clockOk  : Bool
  idSeen   : Bool                  -- the ID has been read since the clock qualified
  healthBad : Nat
  frames   : Nat
  published : Nat
  drops    : Nat
  lastDrop : Nat
  genAcc   : BitVec 32
  genSent  : BitVec 32
  pending  : Option (SettingsSlot × BitVec 32 × Nat)   -- slot, generation, attempts made
  flight   : Option (SettingsSlot × BitVec 32 × Nat)   -- the slot of the open send window
  latest   : Option (SettingsSlot × BitVec 32)
  sendFrame : Nat                  -- the frame k whose end opened the window
  mixFrom  : Option Nat            -- first frame that carries MIXED
  genQueue : List (Nat × BitVec 32)
  curGen   : BitVec 32
  khz      : BitVec 32
  ringWp   : Nat
  ringRp   : BitVec 32
  ringBase : BitVec 48
  ringSpace : BitVec 4
  ringWords : Nat
  xferOpen : Bool                  -- queued transfers are being sent
  xfers    : List I2cXfer
  buf      : List CamLine
  work     : List CamFrame         -- oldest first
  defects  : List (Nat × Nat)
  shading  : List Nat              -- S(i, j) at 33 j + i; empty: 16,384 at every node
  templates : List Template        -- in force from the next active FV edge
  grid     : Option SpotGrid
  pclkAt   : Option Nat            -- instant of the last pixel clock reading
  pollAt   : Option Nat            -- instant of the last health poll
  deriving DecidableEq, Repr

structure Cams where
  cams   : List Cam
  busy   : Option (Nat × Nat)      -- port and frame whose line the pipeline works on
  served : Nat
  locQueue : List (Nat × Nat)      -- port and frame, in order of frame end
  deriving DecidableEq, Repr

/-! ### Measurement and calibration (chapter 14) -/

/-- An acquisition in progress (R352): MIN, MAX, SUM and NOVR per channel of the mask. -/
structure Acq where
  src   : Src
  desc  : AcqDesc
  taken : Nat
  sums  : List (Option (Int × Int × Int × Nat))
  deriving DecidableEq, Repr

/-- A trim item (Table 14-4). -/
structure Trim where
  coef    : BitVec 16
  pend    : Option (BitVec 16 × Int × Int)   -- coefficient and both results of the accepted run (R358)
  prov    : Bool
  failed  : Bool
  accAt   : Option Nat
  running : Bool
  restart : Bool
  deriving DecidableEq, Repr

/-- A gain pair in progress (R361 to R366). -/
structure GainPair where
  src    : Src
  grid   : BeamGrid
  policy : CalPolicy
  second : Bool
  step   : Nat              -- 0 dark, 1 to 64 regions, 65 to 72 dark and lit frames of the sets, 73 gains, 74 done
  wait   : Nat              -- sample periods still to pass
  cupSum : Int
  cupN   : Nat
  dark   : Int
  current : List Int        -- I[r]
  fired  : Nat              -- the step whose beams are fired
  useFrame : Option Nat     -- CAM2 frame to use; none while the FV edge is awaited
  got    : Bool             -- the step's frame has been taken
  spotDark : List Nat
  spots  : List (Nat × Int) -- b, S[b]
  flash  : Nat
  mNext  : Nat              -- instant of the next fire marker
  mLast  : Option Nat
  retries : Nat
  camGen : BitVec 32
  dead   : List Nat
  first  : List Nat         -- gains of the first run
  out    : List Nat         -- gains of the run whose step 4 has ended
  deriving DecidableEq, Repr

structure Meas where
  bc      : List (BitVec 64)
  bcRange : List (BitVec 2)
  bcSettle : List Nat
  ts      : List (BitVec 64)
  tsLimits : List (Int × Int)
  tsOut   : List Bool
  mon     : List (BitVec 64)
  acqs    : List Acq
  items   : List Trim
  policy  : CalPolicy
  nvA     : List (BitVec 16)
  nvB     : List (BitVec 16)
  nvNext  : Bool
  trimWait : Option Src
  trimSet : List Nat            -- items of the CAL.TRIM.RUN that waits
  trimAcc : Nat
  trimBad : BitVec 16           -- its first failure
  lastAuto : Nat
  gain    : Option GainPair
  bcAt    : Nat                 -- number of the sample period that ended last
  tsAt    : List (Option Nat)   -- instants of the last RTD conversions
  monAt   : Option Nat          -- instant of the last monitor reading
  deriving DecidableEq, Repr

/-! ### DMA and check-value units (chapter 15) -/

/-- Channel states (Table 15-9). -/
inductive DmaSt where
  | idle | pacedOff | active | draining | stopped | halted
  deriving DecidableEq, Repr

/-- A fetched descriptor, as its two words, and where it was read. -/
structure Desc where
  w0 : Word
  w1 : Word
  addr : Nat
  space : BitVec 4
  deriving DecidableEq, Repr

structure Dma where
  cfg   : BitVec 64
  pace  : BitVec 64
  head  : BitVec 64
  cring : BitVec 64
  crrp  : BitVec 64
  st    : DmaSt
  haltst : BitVec 8
  expseq : BitVec 16
  wp    : Nat
  phase : Bool
  hops  : Nat
  pacedOn : Bool
  fetching : Option (Nat × BitVec 4 × Nat)   -- address, space, request instant
  desc  : Option Desc
  off   : Nat
  burst : Option Nat                         -- length of the issued burst
  abortPend : Bool
  resumable : Bool
  recWait : Option Word
  unbound : Bool
  next  : Option (Nat × BitVec 4)            -- descriptor to fetch once the records are written
  closed : Bool                              -- the descriptor in progress has been written back PARTIAL
  redo  : Bool                               -- it was resumed: a new record follows at its end
  deriving DecidableEq, Repr

/-- A check-value unit (R389, R390). -/
structure Cvu where
  value : BitVec 64
  count : BitVec 48
  nbm1  : BitVec 3
  bound : Option (BitVec 6)
  err   : Bool
  deriving DecidableEq, Repr

structure DmaUnits where
  chans  : List Dma
  served : List Nat        -- last channel served at each level
  cvus   : List Cvu
  ahead  : List Nat        -- by QID: bytes completed that the queue's own pointer does not cover yet
  deriving DecidableEq, Repr

/-! ### Control plane, faults, power (chapters 18 to 20) -/

/-- Repair states, numbered as RSTATE (Table 18-2). -/
inductive RState where
  | inService | spare | quarantined | suspect | retired | failed
  deriving DecidableEq, Repr

/-- An instance of the repair tree whose state is not its factory state. -/
structure RepairRec where
  node  : BitVec 32
  st    : RState
  by_   : Option (BitVec 32)       -- the spare that took its place
  faultAt : Option Nat
  selfTest : Bool                  -- awaits the self-test at idle
  manualSpare : Bool               -- REPAIR.SPARE given, awaits the switch point
  pool : Bool                      -- it failed as a spare (Table 18-2: removed from the spare pool)
  deriving DecidableEq, Repr

structure Repair where
  recs   : List RepairRec
  manual : Bool
  deriving DecidableEq, Repr

/-- A Marshal. -/
structure MarshalS where
  healthy : Bool
  booting : Bool
  failed  : Bool
  lastBeat : Nat
  resets  : List Nat
  deriving DecidableEq, Repr

/-- The Referee: permit, safe state, supervisor window (R434 to R441, R489). -/
structure Referee where
  permitIn  : Bool
  permitOut : Bool
  safe      : Bool
  cause     : BitVec 8
  latchedC  : Option (BitVec 8)
  safeAt    : Nat
  active    : Marshal
  ma        : MarshalS
  mbS       : MarshalS
  failover  : Bool
  replayed  : Bool
  activeSince : Option Nat          -- since when the active Marshal runs after a reset in the safe state (R441)
  journal   : Nat
  snap      : List Nat              -- what the Referee snapshot holds (R436)
  supvResult : BitVec 64
  supvData  : List (BitVec 64)
  supvTime  : BitVec 64
  resetPend : Option Nat
  alert     : Bool
  deriving DecidableEq, Repr

/-- A firmware slot (R459). -/
structure FwSlot where
  version : BitVec 32
  actseq  : BitVec 32
  bootfail : BitVec 8
  valid   : Bool
  deriving DecidableEq, Repr

/-- Firmware slots and the switch of R442; `sw` is the step of Table 18-9 in progress, 0 for none. -/
structure Firmware where
  slot0 : FwSlot
  slot1 : FwSlot
  run   : Bool
  sw    : Nat
  swAt  : Nat
  deriving DecidableEq, Repr

/-- Supply, clocks, temperature and start-up (chapter 19). -/
structure Power where
  powered   : Bool
  qualified : Bool
  railTries : Nat
  railsOn   : Bool
  railsHeld : Bool
  railOffAt : Option Nat            -- the rails are off after a failed try (R450)
  refOk     : Bool
  lost      : List Clock
  triedAt   : List (Clock × Nat)    -- the last attempt to relock a lost PLL (R455)
  supplyBad : Option Nat
  ready     : Bool
  cause     : BitVec 3
  shutdown  : Bool
  trainedAt : Int
  stopped   : Bool                  -- only AON and Analog powered after a supply-loss warning
  deriving DecidableEq, Repr

/-- Fault log (R446 to R448): entries as four words, newest last. -/
structure FaultLog where
  nv     : List (List Word)
  buffer : List (List Word)
  lseq   : Nat
  lost   : Nat
  clean  : Bool
  deriving DecidableEq, Repr

/-- The exposure ledger (R443): records of four words and annex words, newest last. -/
structure Ledger where
  recs  : List (List Word)
  annex : List Word
  count : Nat
  annexCount : Nat
  deriving DecidableEq, Repr

/-- Trace (Table 17-14). -/
structure Trace where
  running : Bool
  mask    : BitVec 8
  base    : BitVec 48
  space   : BitVec 4
  words   : Nat
  off     : Nat
  written : Nat
  lost    : Nat
  overflow : Bool
  taken   : Nat                   -- bytes that the paced channel has taken (R381)
  deriving DecidableEq, Repr

/-- Management and test ports (R478, R479). -/
structure Mgmt where
  smbAddr : BitVec 2
  jtag    : JtagInstr
  smbReply : Option (BitVec 8)
  deriving DecidableEq, Repr

/-- A message or an edge that the block sends on one of its wires. -/
inductive Output where
  | msix (port : Port) (vec : Nat)
  /-- All-bank refresh of a stack's channels (R185). -/
  | refresh (st : Stack) (chans : List Nat)
  /-- A control block of Table 12-2, 32 bytes. -/
  | block (lane : Nat) (bytes : List Byte)
  /-- A data block: two frame words, 32 bytes (R308). -/
  | data (lane : Nat) (bytes : List Byte)
  /-- A PACE frame: its code groups in order, `true` for a K group (R292). -/
  | pace (groups : List (Bool × Byte))
  | posRequest (port : Nat) (identity : Bool) (t : Nat)
  | emu (n : Nat) (a b z : Bool)
  | i2c (cam : Nat) (bytes : List Byte)
  | delayReq (net : NetPort) (t : Nat)
  | smbus (bytes : List Byte)
  /-- The completion interrupt of a DMA channel (R386). -/
  | dmaIrq (chan : Nat)
  deriving DecidableEq, Repr

/-- The state of the block. `fresh`, `out` and `pending` are the model's own: the counter of free
values, what has been sent (newest last), and the commands that wait, first in first out. -/
structure State where
  time   : TimeBase
  host   : HostIf
  jobs   : Jobs
  render : Render
  land   : Landing
  mem    : Mem
  mc     : MemCtl
  play   : Play
  beam   : Beam
  stage  : Stage
  pacer  : Pacer
  link   : Link
  plate  : Plate
  cams   : Cams
  meas   : Meas
  dma    : DmaUnits
  repair : Repair
  ref    : Referee
  fw     : Firmware
  power  : Power
  log    : FaultLog
  ledger : Ledger
  trace  : Trace
  mgmt   : Mgmt
  fresh  : Nat
  out    : List Output
  pending : List Instr
  deriving DecidableEq, Repr

/-! ### The state right after power-on reset

Where the manual states a reset value it stands here; every other value is zero, empty or false
(DESIGN CHOICE, unsafe: log entry 5). -/

/-- Table 16-2: the default record of domain `d`. -/
def DomainRec.default (dB : Bool) : DomainRec where
  domnum := if dB then 1 else 0
  port := if dB then .netB else .netA
  transport := false
  delaymech := false
  annto := 3
  classmax := 135
  locktol := 100
  degtol := 10000
  stepthr := 1000000
  asym := 0

def Domain.reset (dB : Bool) : Domain where
  cfg := DomainRec.default dB
  st := .unlocked
  anchor := 0
  value := 0
  rate := 0
  syncs := 0
  offset := 0
  inTol := 0
  outTol := 0
  master := none
  lastAnnounce := 0
  annInterval := 0
  syncT2 := none
  delayT3 := none
  t1t2 := 0
  pathDelay := 0
  reqInterval := 0
  goodSince := none
  clockClass := 0
  rsFec := false
  lastReq := none

/-- R394, R403, R404, R408: counter 0; AUTO, T-A preferred and selected, SLEW 50, initial. -/
def TimeBase.reset : TimeBase where
  ctr := 0
  running := false
  domA := Domain.reset false
  domB := Domain.reset true
  mode := 2
  pref := 0
  revert := false
  slew := 50
  sel := 0
  initial := true
  e0 := 0
  t0 := 0
  deferred := none
  netA := true
  netB := true
  ignored := 0

def EventQueue.reset : EventQueue where
  base := 0
  space := 0
  log2n := 0
  wp := 0
  phase := false
  rp := 0
  eseq := 0
  staged := []
  lost := 0

/-- TSNAP.STAMP resets to 0x4000_0000_0000_0000 and TSNAP.SEL to 0xC (R488). -/
def PortS.reset : PortS where
  linkUp := true
  downAt := 0
  departed := false
  lease := 0
  lastBell := 0
  evq := EventQueue.reset
  msix := List.replicate 18 ⟨0, 0, true⟩
  msixPend := 0
  tsCtr := 0
  tsStamp := 0x4000000000000000#64
  tsSel := 0xC#64

/-- MB.STAT resets to 0: no owner (R416, Table 21-3). -/
def Mailbox.reset : Mailbox where
  owner := none
  lastAlive := none
  busy := false
  done := false
  overrun := 0
  ignored := 0
  lease := 0
  cmdArea := []
  header := 0
  resp0 := 0
  resp1 := 0
  respBody := []
  kept0 := 0
  kept1 := 0
  keptBody := []

def HostIf.reset : HostIf where
  portA := PortS.reset
  portB := PortS.reset
  mbs := List.replicate 16 Mailbox.reset
  waiting := []
  held := []

def Parser.reset : Parser where
  job := none
  wp := 0
  rd := 0
  exp := 0
  kept := []
  repeats := 0
  last := none
  stall := none
  waitSpace := false
  ctx := .job

def Jobs.reset : Jobs where
  jobs := []
  parser := Parser.reset
  stripes := []
  copies := 0

/-- Engines and lanes idle; the factory binding is column p to lane p (R149). -/
def Render.reset : Render where
  engines := List.replicate 34 none
  queue := []
  canopy := none
  checkSt := none
  landSt := none
  encWork := List.replicate 18 none
  decWork := List.replicate 18 none
  encBind := List.range 16
  services := []
  drainEnc := []
  drainDec := []
  arbs := []

def Landing.reset : Landing where
  slots := [none, none, none]
  testing := []
  removed := []
  transient := 0
  reloads := 0
  unverifs := 0

def Mem.reset : Mem := ⟨[], [], [], []⟩

def Chan.reset : Chan := ⟨.commandAddress, .prbs31, 0, false, false, false, [], 0, []⟩

/-- MEM.FRZ and the capture registers reset to 0 (Table 7-4). -/
def StackCtl.reset : StackCtl where
  frz := 0
  capAddr := 0
  capLoc := 0
  capSrc := 0
  capTime := 0
  frozeAt := 0
  heldWrites := []
  chans := List.replicate 16 Chan.reset
  failed := false
  band := 0
  refreshes := 0
  lastRefresh := 0
  order := []
  removed := []
  centredAt := 0
  damaged := []

def MemCtl.reset : MemCtl := ⟨StackCtl.reset, StackCtl.reset, none, false, none⟩

def Play.reset : Play := ⟨[], [], [], [], [], [], [], none, none, none⟩

def FlashAcc.none : FlashAcc := ⟨[], [], [], [], []⟩

def FitRec.reset : FitRec := ⟨0, 0, 0, 0, 0, 0, 0, 0, 0, 0⟩

/-- No table, empty lists, the history all 0 without an enforced idle (R239), fit 0 (R204). -/
def Beam.reset : Beam where
  pendingT := none
  activeT := none
  lastGen := 0
  stuckOn := []
  stuckOff := []
  recovered := []
  hostDead := []
  groupDead := []
  hist := []
  shadow := []
  snap := none
  lastM := none
  decays := 0
  tauArm := none
  idleEnd := none
  reqZero := false
  fit := FitRec.reset

/-- The record of a port at its factory role (R254). -/
def PortRec.factory (role : BitVec 3) : PortRec where
  role := role
  lanes := false
  clkdiv := 0
  lat := 0
  wbits := 0
  dirinv := false
  idread := false
  failmax := 0
  td := 0
  offset := 0
  scale := 0
  jump := 0
  refen := false
  refpol := false
  missact := 0
  swpol := 0
  excl := false
  edgemin := 0

def PosPort.reset (role : BitVec 3) : PosPort where
  cfg := PortRec.factory role
  present := false
  passes := 0
  fails := 0
  heldOut := false
  idRead := false
  cNoResp := 0
  cCrc := 0
  cErr := 0
  cJump := 0
  cWarn := 0
  ended := false
  cur := none
  last := none
  before := none
  marks := []
  edges := []
  edgeSeen := none
  edgeIgn := 0
  swLevel := [false, false, false]
  swLast := [none, none, none]
  swCount := [0, 0, 0]
  swRaised := [none, none, none]
  homeEdge := none
  home := none
  markDev := none
  presentAt := 0
  status := 0
  ident := none
  nextMarks := none

/-- SETTLING with an empty window (R268). -/
def AxisS.reset : AxisS where
  window := []
  dir := 0
  anchor := none
  still := 0
  st := .settling
  x := 0
  v := 0
  t := 0
  prevX := none
  filled := false
  degraded := false
  pairBad := 0
  missing := 0
  lastDisagree := false
  tk := none
  hadPort := false
  vPrev := 0
  fused := []

def AxisRec.reset : AxisRec := ⟨0, 0, 0, 0, 0, 0, 0, 0⟩

def Emu.reset : Emu := ⟨0, 0, 0, false, 0, false, [], 100, none⟩

def Stage.reset : Stage where
  ports := [PosPort.reset 1, PosPort.reset 2, PosPort.reset 3, PosPort.reset 4, PosPort.reset 5,
    PosPort.reset 6]
  tracker := ⟨0, AxisRec.reset, AxisRec.reset⟩
  axScan := AxisS.reset
  axCross := AxisS.reset
  tick := 0
  prevTick := 0
  nextCfg := none
  integrity := false
  swTest := false
  recovery := false
  emus := [Emu.reset, Emu.reset]

/-- Table 11-5 defaults: FMARGIN 16, LEADLO 8, LEADHI 64, TWFRAC 128, LDFRAC 192, REENTRY 0. -/
def pacerDefault : BitVec 64 :=
  BitVec.ofNat 64 (16 + 8 * 2 ^ 8 + 64 * 2 ^ 16 + 128 * 2 ^ 25 + 192 * 2 ^ 33)

/-- The policy's defaults, no frame sent, no motion controller. HOLD_N is `State.holdN`. -/
def Pacer.reset : Pacer where
  policy := pacerDefault
  policyNext := none
  sentAt := none
  seq := 0
  ceil := 0
  bind := 0
  frames := 0
  mcPresent := false
  mcGood := 0
  mcLast := 0
  mcState := 0
  mcCmdv := 0
  mcId := 0

def Lane.reset : Lane where
  st := .down
  step := 0
  preset := 0
  margins := []
  margin := 0
  errs := 0
  degraded := false
  lastBad := 0
  deaths := []
  fails := 0
  ident := none
  heldOut := false
  testing := false
  downAt := 0
  stepAt := 0
  synced := 0
  mseqTx := 0
  mseqRx := 0
  rx := []

/-- The factory map gives group g to lane Lg (R306). -/
def factoryMap : List (Option Nat) := (List.range 64).map some

def Thermal.reset : Thermal := ⟨false, 0, 0, 0, 0, none, 0, 0, false⟩

def RetLane.reset : RetLane := ⟨false, 0, 0, 0, 0⟩

def Link.reset : Link where
  lanes := List.replicate 68 Lane.reset
  rets := List.replicate 4 RetLane.reset
  map := factoryMap
  head := none
  latchedOff := []
  mgmt := []
  thermal := List.replicate 16 Thermal.reset
  arm := none
  dryBlock := false
  tripBlock := false
  serial := none
  nextMark := 0
  lastBlank := 0

def Usage.zero : Usage := ⟨0, 0, 0, 0, 0, List.replicate 64 0⟩

def Plate.reset : Plate where
  keyM := none
  keySvc := none
  step := 0
  stepAt := 0
  nonce := 0
  idBlock := []
  attached := none
  usage := Usage.zero
  hardFlash := 0
  hardOn := 0
  warned := []
  eol := false
  refused := false
  store := []
  dirty := false
  unclean := []
  sinceCommit := 0

def CamRec.reset : CamRec where
  wbits := 0
  pedge := false
  lvpol := false
  fvpol := false
  prio := 0
  lat := 0
  mdiv := 0
  mclken := false
  pclkratio := 0
  i2caddr := 0
  i2cspeed := 0
  ra16 := false
  rd16 := false
  staten := false
  locen := false
  spoten := false
  corren := false
  linew := 0
  lines := 0
  idreg := 0
  idlen := 0
  idval := 0
  wx := 0
  wy := 0
  ww := 0
  wh := 0
  black := 0

/-- The registers of a camera port reset to 0 (R347); generation 0 (R335). -/
def Cam.reset : Cam where
  cfg := CamRec.reset
  present := false
  running := false
  draining := false
  left := none
  inFrame := false
  ignore := false
  clockOk := false
  idSeen := false
  healthBad := 0
  frames := 0
  published := 0
  drops := 0
  lastDrop := 0
  genAcc := 0
  genSent := 0
  pending := none
  flight := none
  latest := none
  sendFrame := 0
  mixFrom := none
  genQueue := []
  curGen := 0
  khz := 0
  ringWp := 0
  ringRp := 0
  ringBase := 0
  ringSpace := 0
  ringWords := 0
  xferOpen := false
  xfers := []
  buf := []
  work := []
  defects := []
  shading := []
  templates := []
  grid := none
  pclkAt := none
  pollAt := none

def Cams.reset : Cams := ⟨[Cam.reset, Cam.reset, Cam.reset], none, 2, []⟩

/-- Table 14-6 defaults. -/
def CalPolicy.default : CalPolicy where
  cupch := 0
  cuprange := 0
  ccal := 32
  mcup := 100
  trimper := 60
  agemax := 0
  reqconf := false
  ibeam := 1024000
  alpha0 := 0
  tau0 := 100000

/-- The factory coefficient of every item, provisional (R359); the manual gives no coefficient. -/
def Trim.reset : Trim := ⟨0, none, true, false, none, false, false⟩

/-- CAL.BC and CAL.MON reset to 0, CAL.TS to 0x8000 (Table 14-7). -/
def Meas.reset : Meas where
  bc := List.replicate 8 0
  bcRange := List.replicate 8 0
  bcSettle := List.replicate 8 0
  ts := List.replicate 4 0x8000#64
  tsLimits := List.replicate 4 (0, 0)
  tsOut := List.replicate 4 false
  mon := List.replicate 32 0
  acqs := []
  items := List.replicate 71 Trim.reset
  policy := CalPolicy.default
  nvA := []
  nvB := []
  nvNext := false
  trimWait := none
  trimSet := []
  trimAcc := 0
  trimBad := 0
  lastAuto := 0
  gain := none
  bcAt := 0
  tsAt := List.replicate 4 none
  monAt := none

/-- DMA registers reset to 0 (Table 15-8): IDLE. -/
def Dma.reset : Dma where
  cfg := 0
  pace := 0
  head := 0
  cring := 0
  crrp := 0
  st := .idle
  haltst := 0
  expseq := 0
  wp := 0
  phase := false
  hops := 0
  pacedOn := false
  fetching := none
  desc := none
  off := 0
  burst := none
  abortPend := false
  resumable := false
  recWait := none
  unbound := false
  next := none
  closed := false
  redo := false

/-- CVU.VALUE resets to all ones, COUNT to 0, NBM1 to 7 (Table 15-8). -/
def Cvu.reset : Cvu := ⟨BitVec.allOnes 64, 0, 7, none, false⟩

def DmaUnits.reset : DmaUnits where
  chans := List.replicate 48 Dma.reset
  served := [47, 47, 47, 47]
  cvus := List.replicate 32 Cvu.reset
  ahead := List.replicate 16 0

def MarshalS.reset : MarshalS := ⟨false, true, false, 0, []⟩

/-- PERMIT_OUT dropped until READY (R456); at start the active Marshal is A; SUPV registers 0. -/
def Referee.reset : Referee where
  permitIn := false
  permitOut := false
  safe := false
  cause := 0
  latchedC := none
  safeAt := 0
  active := .a
  ma := MarshalS.reset
  mbS := MarshalS.reset
  failover := false
  replayed := false
  activeSince := none
  journal := 0
  snap := []
  supvResult := 0
  supvData := [0, 0, 0, 0]
  supvTime := 0
  resetPend := none
  alert := false

def FwSlot.reset (valid : Bool) : FwSlot := ⟨0, 0, 0, valid⟩

def Firmware.reset : Firmware := ⟨FwSlot.reset true, FwSlot.reset false, false, 0, 0⟩

def Power.reset : Power where
  powered := true
  qualified := false
  railTries := 0
  railsOn := false
  railsHeld := false
  railOffAt := none
  refOk := true
  lost := []
  triedAt := []
  supplyBad := none
  ready := false
  cause := 0
  shutdown := false
  trainedAt := 0
  stopped := false

def FaultLog.reset : FaultLog := ⟨[], [], 0, 0, true⟩

def Ledger.reset : Ledger := ⟨[], [], 0, 0⟩

def Trace.reset : Trace := ⟨false, 0, 0, 0, 0, 0, 0, 0, false, 0⟩

def Mgmt.reset : Mgmt := ⟨0, .bypass, none⟩

/-- The block right after power-on reset, before start-up has run. -/
def State.reset : State where
  time := TimeBase.reset
  host := HostIf.reset
  jobs := Jobs.reset
  render := Render.reset
  land := Landing.reset
  mem := Mem.reset
  mc := MemCtl.reset
  play := Play.reset
  beam := Beam.reset
  stage := Stage.reset
  pacer := Pacer.reset
  link := Link.reset
  plate := Plate.reset
  cams := Cams.reset
  meas := Meas.reset
  dma := DmaUnits.reset
  repair := ⟨[], false⟩
  ref := Referee.reset
  fw := Firmware.reset
  power := Power.reset
  log := FaultLog.reset
  ledger := Ledger.reset
  trace := Trace.reset
  mgmt := Mgmt.reset
  fresh := 0
  out := []
  pending := []

end Sys2Proof.Machine
end

