-- ==== Sys2Proof/Machine/Flags.lean ====
section
/-!
DEFINITION. The status values (R428, Table 17-18) and the node references (R21, R22, R429).
-/

namespace Sys2Proof.Machine.ST

/-- ST_OK. -/
abbrev ok : BitVec 16 := 0x0000#16
abbrev sysBodyCrc : BitVec 16 := 0x0101#16
abbrev sysAliveGap : BitVec 16 := 0x0102#16
abbrev sysOpcode : BitVec 16 := 0x0103#16
abbrev sysLength : BitVec 16 := 0x0104#16
abbrev sysFlags : BitVec 16 := 0x0105#16
abbrev sysField : BitVec 16 := 0x0106#16
abbrev sysBuffer : BitVec 16 := 0x0107#16
abbrev sysNotOwner : BitVec 16 := 0x0108#16
abbrev sysClaimed : BitVec 16 := 0x0109#16
abbrev sysOwnerPresent : BitVec 16 := 0x010A#16
abbrev sysState : BitVec 16 := 0x010B#16
abbrev sysFwImage : BitVec 16 := 0x010C#16
abbrev sysStandby : BitVec 16 := 0x010D#16
abbrev sysFailover : BitVec 16 := 0x010E#16
abbrev sysEventLoss : BitVec 16 := 0x010F#16
abbrev sysReady : BitVec 16 := 0x0110#16
abbrev sysHostArrived : BitVec 16 := 0x0111#16
abbrev sysHostDeparted : BitVec 16 := 0x0112#16
abbrev sysFwSwitched : BitVec 16 := 0x0113#16
abbrev jobChunkFormat : BitVec 16 := 0x0201#16
abbrev jobChunkCrc : BitVec 16 := 0x0202#16
abbrev jobChunkConflict : BitVec 16 := 0x0203#16
abbrev jobChunkGap : BitVec 16 := 0x0204#16
abbrev jobRecordFormat : BitVec 16 := 0x0205#16
abbrev jobCellBbox : BitVec 16 := 0x0206#16
abbrev jobLimit : BitVec 16 := 0x0207#16
abbrev jobBlockCrc : BitVec 16 := 0x0208#16
abbrev jobWitnessConflict : BitVec 16 := 0x0209#16
abbrev jobStoreFull : BitVec 16 := 0x020A#16
abbrev jobRasterMismatch : BitVec 16 := 0x020B#16
abbrev jobRasterUnresolved : BitVec 16 := 0x020C#16
abbrev jobGraderMismatch : BitVec 16 := 0x020D#16
abbrev jobCanopyFault : BitVec 16 := 0x020E#16
abbrev jobUnknown : BitVec 16 := 0x020F#16
abbrev jobExists : BitVec 16 := 0x0210#16
abbrev jobTooMany : BitVec 16 := 0x0211#16
abbrev jobRingBusy : BitVec 16 := 0x0212#16
abbrev jobFeedRange : BitVec 16 := 0x0213#16
abbrev jobState : BitVec 16 := 0x0214#16
abbrev jobEnded : BitVec 16 := 0x0215#16
abbrev jobAborted : BitVec 16 := 0x0216#16
abbrev stripeState : BitVec 16 := 0x0301#16
abbrev stripeUnknown : BitVec 16 := 0x0302#16
abbrev stripeOtherActive : BitVec 16 := 0x0303#16
abbrev stripeUnexposable : BitVec 16 := 0x0304#16
abbrev stripeArmCapacity : BitVec 16 := 0x0305#16
abbrev stripeArmRange : BitVec 16 := 0x0306#16
abbrev stripeArmPlacement : BitVec 16 := 0x0307#16
abbrev stripeArmGain : BitVec 16 := 0x0308#16
abbrev stripeGoPosition : BitVec 16 := 0x0309#16
abbrev stripeGoTimeout : BitVec 16 := 0x030A#16
abbrev stripeNoPermit : BitVec 16 := 0x030B#16
abbrev stripeSafe : BitVec 16 := 0x030C#16
abbrev stripeHeadWarn : BitVec 16 := 0x030D#16
abbrev stripeHeadStop : BitVec 16 := 0x030E#16
abbrev stripeLeadShortfall : BitVec 16 := 0x030F#16
abbrev stripeOverspeed : BitVec 16 := 0x0310#16
abbrev stripeReentry : BitVec 16 := 0x0311#16
abbrev stripePermitLost : BitVec 16 := 0x0312#16
abbrev stripeChecked : BitVec 16 := 0x0313#16
abbrev stripeLanded : BitVec 16 := 0x0314#16
abbrev stripeStopped : BitVec 16 := 0x0315#16
abbrev stripeHalted : BitVec 16 := 0x0316#16
abbrev stripeDone : BitVec 16 := 0x0317#16
abbrev beamGainFormat : BitVec 16 := 0x0401#16
abbrev beamGainRange : BitVec 16 := 0x0402#16
abbrev beamNoGainTable : BitVec 16 := 0x0403#16
abbrev beamGainParity : BitVec 16 := 0x0404#16
abbrev beamFitRange : BitVec 16 := 0x0405#16
abbrev beamWindowEcc : BitVec 16 := 0x0406#16
abbrev beamGroupDead : BitVec 16 := 0x0407#16
abbrev beamIrreparableStop : BitVec 16 := 0x0408#16
abbrev beamDeficitParity : BitVec 16 := 0x0409#16
abbrev beamDatapath : BitVec 16 := 0x040A#16
abbrev beamHistoryLost : BitVec 16 := 0x040B#16
abbrev beamStuckOn : BitVec 16 := 0x040C#16
abbrev beamStuckOff : BitVec 16 := 0x040D#16
abbrev beamBeamRange : BitVec 16 := 0x040E#16
abbrev beamNotRecovered : BitVec 16 := 0x040F#16
abbrev beamNoSnapshot : BitVec 16 := 0x0410#16
abbrev beamFitSealed : BitVec 16 := 0x0411#16
abbrev stageBusy : BitVec 16 := 0x0501#16
abbrev stageConfig : BitVec 16 := 0x0502#16
abbrev stageAxisLost : BitVec 16 := 0x0503#16
abbrev stageIntegrity : BitVec 16 := 0x0504#16
abbrev stageDatapath : BitVec 16 := 0x0505#16
abbrev stagePortArrived : BitVec 16 := 0x0506#16
abbrev stagePortDeparted : BitVec 16 := 0x0507#16
abbrev stageIdMismatch : BitVec 16 := 0x0508#16
abbrev stagePairDisagree : BitVec 16 := 0x0509#16
abbrev stageSampleGap : BitVec 16 := 0x050A#16
abbrev stageRefMismatch : BitVec 16 := 0x050B#16
abbrev stageRefMissing : BitVec 16 := 0x050C#16
abbrev stageSwitchCombo : BitVec 16 := 0x050D#16
abbrev stageLimit : BitVec 16 := 0x050E#16
abbrev stageSwitchEdge : BitVec 16 := 0x050F#16
abbrev stageEmuOverrun : BitVec 16 := 0x0510#16
abbrev stagePredictStale : BitVec 16 := 0x0511#16
abbrev stageMissedRow : BitVec 16 := 0x0512#16
abbrev stageCrossRange : BitVec 16 := 0x0513#16
abbrev stageMcAbsent : BitVec 16 := 0x0514#16
abbrev stageMcArrived : BitVec 16 := 0x0515#16
abbrev stageMcDeparted : BitVec 16 := 0x0516#16
abbrev stageMcFault : BitVec 16 := 0x0517#16
abbrev camBusy : BitVec 16 := 0x0601#16
abbrev camConfig : BitVec 16 := 0x0602#16
abbrev camAbsent : BitVec 16 := 0x0603#16
abbrev camPortArrived : BitVec 16 := 0x0604#16
abbrev camPortDeparted : BitVec 16 := 0x0605#16
abbrev camIdMismatch : BitVec 16 := 0x0606#16
abbrev camSettingsLate : BitVec 16 := 0x0607#16
abbrev camI2c : BitVec 16 := 0x0608#16
abbrev camFrame : BitVec 16 := 0x0609#16
abbrev camParity : BitVec 16 := 0x060A#16
abbrev calBusy : BitVec 16 := 0x0701#16
abbrev calConfig : BitVec 16 := 0x0702#16
abbrev calDescriptor : BitVec 16 := 0x0703#16
abbrev calPrecond : BitVec 16 := 0x0704#16
abbrev calAborted : BitVec 16 := 0x0705#16
abbrev calAccepted : BitVec 16 := 0x0706#16
abbrev calDisagree : BitVec 16 := 0x0707#16
abbrev calTrimLimit : BitVec 16 := 0x0708#16
abbrev calProvisional : BitVec 16 := 0x0709#16
abbrev calNv : BitVec 16 := 0x070A#16
abbrev calRtdOpen : BitVec 16 := 0x070B#16
abbrev calTsLimit : BitVec 16 := 0x070C#16
abbrev calCupRange : BitVec 16 := 0x070D#16
abbrev calBeamRange : BitVec 16 := 0x070E#16
abbrev calLink : BitVec 16 := 0x070F#16
abbrev calStageMoved : BitVec 16 := 0x0710#16
abbrev calCamera : BitVec 16 := 0x0711#16
abbrev calParity : BitVec 16 := 0x0712#16
abbrev linkThermalRange : BitVec 16 := 0x0801#16
abbrev linkThermalStale : BitVec 16 := 0x0802#16
abbrev linkLaneUp : BitVec 16 := 0x0803#16
abbrev linkLaneDown : BitVec 16 := 0x0804#16
abbrev linkHeadArrived : BitVec 16 := 0x0805#16
abbrev linkHeadDeparted : BitVec 16 := 0x0806#16
abbrev linkIdentity : BitVec 16 := 0x0807#16
abbrev linkDegraded : BitVec 16 := 0x0808#16
abbrev linkLaneTest : BitVec 16 := 0x0809#16
abbrev linkLaneRetired : BitVec 16 := 0x080A#16
abbrev linkReturnLost : BitVec 16 := 0x080B#16
abbrev linkRemap : BitVec 16 := 0x080C#16
abbrev linkNoSpare : BitVec 16 := 0x080D#16
abbrev linkMap : BitVec 16 := 0x080E#16
abbrev linkNoHead : BitVec 16 := 0x080F#16
abbrev linkDryViolation : BitVec 16 := 0x0810#16
abbrev linkAckConflict : BitVec 16 := 0x0811#16
abbrev linkBusy : BitVec 16 := 0x0812#16
abbrev memWitnessMismatch : BitVec 16 := 0x0901#16
abbrev memCopyRepaired : BitVec 16 := 0x0902#16
abbrev memUnverifiable : BitVec 16 := 0x0903#16
abbrev memRerenderMismatch : BitVec 16 := 0x0904#16
abbrev memPlaybufEcc : BitVec 16 := 0x0905#16
abbrev memBandStop : BitVec 16 := 0x0906#16
abbrev memUncorrectable : BitVec 16 := 0x0907#16
abbrev memThawed : BitVec 16 := 0x0908#16
abbrev memChannelRetiring : BitVec 16 := 0x0909#16
abbrev memChannelRetired : BitVec 16 := 0x090A#16
abbrev memStackFailed : BitVec 16 := 0x090B#16
abbrev memNoSegment : BitVec 16 := 0x090C#16
abbrev dmaConfig : BitVec 16 := 0x0A01#16
abbrev dmaState : BitVec 16 := 0x0A02#16
abbrev dmaChannel : BitVec 16 := 0x0A03#16
abbrev dmaChainLoop : BitVec 16 := 0x0A04#16
abbrev dmaFetchTimeout : BitVec 16 := 0x0A05#16
abbrev dmaFetchError : BitVec 16 := 0x0A06#16
abbrev dmaRingError : BitVec 16 := 0x0A07#16
abbrev dmaParity : BitVec 16 := 0x0A08#16
abbrev cvuUnit : BitVec 16 := 0x0B01#16
abbrev cvuBound : BitVec 16 := 0x0B02#16
abbrev cvuParity : BitVec 16 := 0x0B03#16
abbrev timeConfig : BitVec 16 := 0x0C01#16
abbrev timeLocked : BitVec 16 := 0x0C02#16
abbrev timeDegraded : BitVec 16 := 0x0C03#16
abbrev timeMasterLost : BitVec 16 := 0x0C04#16
abbrev timeMasterChanged : BitVec 16 := 0x0C05#16
abbrev timeInitialStep : BitVec 16 := 0x0C06#16
abbrev timeSwitch : BitVec 16 := 0x0C07#16
abbrev timeRateLimit : BitVec 16 := 0x0C08#16
abbrev timeParity : BitVec 16 := 0x0C09#16
abbrev plateUnprovisioned : BitVec 16 := 0x0D01#16
abbrev plateProvisioned : BitVec 16 := 0x0D02#16
abbrev plateNone : BitVec 16 := 0x0D03#16
abbrev plateAuth : BitVec 16 := 0x0D04#16
abbrev plateChanged : BitVec 16 := 0x0D05#16
abbrev plateRecordMerged : BitVec 16 := 0x0D06#16
abbrev plateMirror : BitVec 16 := 0x0D07#16
abbrev plateRecord : BitVec 16 := 0x0D08#16
abbrev plateStoreEvict : BitVec 16 := 0x0D09#16
abbrev plateStore : BitVec 16 := 0x0D0A#16
abbrev plateEolWarn : BitVec 16 := 0x0D0B#16
abbrev plateEol : BitVec 16 := 0x0D0C#16
abbrev plateToken : BitVec 16 := 0x0D0D#16
abbrev plateAttached : BitVec 16 := 0x0D0E#16
abbrev repairNode : BitVec 16 := 0x0E01#16
abbrev repairState : BitVec 16 := 0x0E02#16
abbrev repairNoSpare : BitVec 16 := 0x0E03#16
abbrev repairSelftest : BitVec 16 := 0x0E04#16
abbrev repairBusy : BitVec 16 := 0x0E05#16
abbrev repairQuarantined : BitVec 16 := 0x0E06#16
abbrev repairSpared : BitVec 16 := 0x0E07#16
abbrev codecDescriptor : BitVec 16 := 0x0F01#16
abbrev codecState : BitVec 16 := 0x0F02#16
abbrev codecStreamFormat : BitVec 16 := 0x0F03#16
abbrev codecStreamCrc : BitVec 16 := 0x0F04#16
abbrev codecChain : BitVec 16 := 0x0F05#16
abbrev codecOverExpansion : BitVec 16 := 0x0F06#16
abbrev codecOutputFull : BitVec 16 := 0x0F07#16
abbrev codecPreempted : BitVec 16 := 0x0F08#16
abbrev codecEncodeMismatch : BitVec 16 := 0x0F09#16
abbrev traceConfig : BitVec 16 := 0x1001#16
abbrev traceState : BitVec 16 := 0x1002#16
abbrev traceOverflow : BitVec 16 := 0x1003#16

end Sys2Proof.Machine.ST

namespace Sys2Proof.Machine

/-- A node reference (Table 1-5). -/
def nodeRef (tree : Bool) (depth i1 i2 i3 : Nat) : BitVec 32 :=
  BitVec.ofNat 32 (b2n tree * 2 ^ 31 + depth % 4 * 2 ^ 29 + i1 % 64 * 2 ^ 23 + i2 % 256 * 2 ^ 15
    + i3 % 2 ^ 15)

/-- A depth-3 functional reference. -/
def nodeF (i1 i2 i3 : Nat) : BitVec 32 := nodeRef false 3 i1 i2 i3

/-- A depth-3 repair-tree reference: island, region, instance (R429). -/
def nodeR (i1 i2 i3 : Nat) : BitVec 32 := nodeRef true 3 i1 i2 i3

/-- The instance that stands for a region's logic (R429). -/
abbrev regionLogic : Nat := 32767

end Sys2Proof.Machine
end

