-- ==== Sys2Proof/Machine/Ops.lean ====
section
/-!
DEFINITION. The named operations every meaning is written over: bytes and words, the CRCs, the memory
spaces, device time and stamps, event records and the fault log, responses, and the updates of one
part of the state.
-/

namespace Sys2Proof.Machine

/-! ### One part of the state replaced -/

def State.onTime (s : State) (f : TimeBase → TimeBase) : State := { s with time := f s.time }
def State.onHost (s : State) (f : HostIf → HostIf) : State := { s with host := f s.host }
def State.onJobs (s : State) (f : Jobs → Jobs) : State := { s with jobs := f s.jobs }
def State.onRender (s : State) (f : Render → Render) : State := { s with render := f s.render }
def State.onLand (s : State) (f : Landing → Landing) : State := { s with land := f s.land }
def State.onMem (s : State) (f : Mem → Mem) : State := { s with mem := f s.mem }
def State.onMc (s : State) (f : MemCtl → MemCtl) : State := { s with mc := f s.mc }
def State.onPlay (s : State) (f : Play → Play) : State := { s with play := f s.play }
def State.onBeam (s : State) (f : Beam → Beam) : State := { s with beam := f s.beam }
def State.onStage (s : State) (f : Stage → Stage) : State := { s with stage := f s.stage }
def State.onPacer (s : State) (f : Pacer → Pacer) : State := { s with pacer := f s.pacer }
def State.onLink (s : State) (f : Link → Link) : State := { s with link := f s.link }
def State.onPlate (s : State) (f : Plate → Plate) : State := { s with plate := f s.plate }
def State.onCams (s : State) (f : Cams → Cams) : State := { s with cams := f s.cams }
def State.onMeas (s : State) (f : Meas → Meas) : State := { s with meas := f s.meas }
def State.onDma (s : State) (f : DmaUnits → DmaUnits) : State := { s with dma := f s.dma }
def State.onRepair (s : State) (f : Repair → Repair) : State := { s with repair := f s.repair }
def State.onRef (s : State) (f : Referee → Referee) : State := { s with ref := f s.ref }
def State.onFw (s : State) (f : Firmware → Firmware) : State := { s with fw := f s.fw }
def State.onPower (s : State) (f : Power → Power) : State := { s with power := f s.power }
def State.onLog (s : State) (f : FaultLog → FaultLog) : State := { s with log := f s.log }
def State.onLedger (s : State) (f : Ledger → Ledger) : State := { s with ledger := f s.ledger }
def State.onTrace (s : State) (f : Trace → Trace) : State := { s with trace := f s.trace }
def State.onMgmt (s : State) (f : Mgmt → Mgmt) : State := { s with mgmt := f s.mgmt }
/-- The counter of free values advances by one. -/
def State.draw (s : State) : State := { s with fresh := s.fresh + 1 }
/-- Something is sent on a wire. -/
def State.emit (s : State) (o : Output) : State := { s with out := s.out ++ [o] }
def State.emits (s : State) (os : List Output) : State := { s with out := s.out ++ os }

/-! ### Numbers, bytes and words (R5) -/

/-- The low `n` bits of an integer. -/
def toU (n : Nat) (i : Int) : Nat := (i % (2 ^ n : Nat)).toNat

/-- Saturating addition of one at `n` bits. -/
def satInc (n v : Nat) : Nat := if v + 1 < 2 ^ n then v + 1 else 2 ^ n - 1

/-- A word made of fields `(lowest bit, width, value)` that do not overlap. -/
def packW (fs : List (Nat × Nat × Nat)) : Word :=
  BitVec.ofNat 128 (fs.foldl (fun acc f => acc + (f.2.2 % 2 ^ f.2.1) * 2 ^ f.1) 0)

/-- The `n` bytes of a number, byte 0 first. -/
def leBytes : Nat → Nat → List Byte
  | 0, _ => []
  | n + 1, v => BitVec.ofNat 8 v :: leBytes n (v / 256)

/-- The number whose bytes are given, byte 0 first. -/
def leNat : List Byte → Nat
  | [] => 0
  | b :: bs => b.toNat + 256 * leNat bs

def wordBytes (w : Word) : List Byte := leBytes 16 w.toNat

def wordsBytes (ws : List Word) : List Byte := (ws.map wordBytes).flatten

/-- Bytes gathered into words; a last short word is filled with zeros. -/
def bytesWords : Nat → List Byte → List Word
  | 0, _ => []
  | n + 1, bs => BitVec.ofNat 128 (leNat (bs.take 16)) :: bytesWords n (bs.drop 16)

/-- Round half away from zero, for `d > 0` (R282, R341 and others name it `rdiv`). -/
def rdiv (n d : Int) : Int :=
  if n < 0 then -((2 * (-n) + d) / (2 * d)) else (2 * n + d) / (2 * d)

/-- `rshr(v, b) = floor((v + 2^(b-1)) / 2^b)` (R205). -/
def rshr (v : Int) (b : Nat) : Int := (v + (2 ^ (b - 1) : Nat)) / (2 ^ b : Nat)

/-- A difference modulo 2^48 as a 48-bit signed value (R260). -/
def wrap48 (x : Int) : Int := signedOf 48 (toU 48 x)

def clampI (lo hi x : Int) : Int := if x < lo then lo else if hi < x then hi else x

def absN (i : Int) : Nat := i.natAbs

/-! ### Check values (R388) -/

/-- The polynomial, bit-reversed. -/
def crcPoly : BitVec 64 := 0xC96C5795D7870F42#64

def crcBits : Nat → BitVec 64 → BitVec 64
  | 0, r => r
  | n + 1, r => crcBits n (if r.getLsbD 0 then (r >>> 1) ^^^ crcPoly else r >>> 1)

/-- `feed` of R388: one byte into the running register. -/
def crcFeed (raw : BitVec 64) (b : Byte) : BitVec 64 := crcBits 8 (raw ^^^ b.setWidth 64)

/-- `result` of R388. -/
def crcResult (raw : BitVec 64) : BitVec 64 := raw ^^^ BitVec.allOnes 64

/-- The running register after some bytes. -/
def crcRun (raw : BitVec 64) (bs : List Byte) : BitVec 64 := bs.foldl crcFeed raw

/-- CRC-64 of a byte string (R36, R388). -/
def crc64 (bs : List Byte) : BitVec 64 := crcResult (crcRun (BitVec.allOnes 64) bs)

def crc64W (ws : List Word) : BitVec 64 := crc64 (wordsBytes ws)

/-! ### Memory spaces (R370) -/

/-- A byte of a space; an address nothing has written reads as 0 (DESIGN CHOICE, log entry 4). -/
def readCell : List Host.Cell → Nat → Byte
  | [], _ => 0
  | c :: cs, a => if c.1 = a then c.2 else readCell cs a

/-- The cells of bytes stored from an address on: a byte equal to 0 is not listed. -/
def listedCells : Nat → List Byte → List Host.Cell
  | _, [] => []
  | a, b :: bs => if b = 0 then listedCells (a + 1) bs else (a, b) :: listedCells (a + 1) bs

/-- Bytes stored from address `a` on, in canonical form. -/
def writeCells (m : List Host.Cell) (a : Nat) (bs : List Byte) : List Host.Cell :=
  m.filter (fun c => c.1 < a) ++ listedCells a bs ++ m.filter (fun c => a + bs.length ≤ c.1)

/-- The canonical form: addresses strictly rising, no byte equal to 0. -/
def cellsWf (m : List Host.Cell) : Prop :=
  m.Pairwise (fun c d => c.1 < d.1) ∧ ∀ c ∈ m, c.2 ≠ 0

abbrev Memory.wf (m : Mem) : Prop :=
  cellsWf m.landing ∧ cellsWf m.hostA ∧ cellsWf m.hostB ∧ cellsWf m.ctrl

/-- Selectors of Table 15-1. -/
abbrev spLanding : BitVec 4 := 0
abbrev spHostA : BitVec 4 := 1
abbrev spHostB : BitVec 4 := 2
abbrev spCtrl : BitVec 4 := 3
abbrev spDevreg : BitVec 4 := 4

/-- First address after a space (Table 15-1). -/
def spaceEnd (sp : BitVec 4) : Nat :=
  if sp = spLanding then 0xC00000000
  else if sp = spHostA ∨ sp = spHostB then 2 ^ 64
  else if sp = spCtrl then 0x40000000
  else if sp = spDevreg then 2 ^ 32 else 0

def Mem.space (m : Mem) (sp : BitVec 4) : List Host.Cell :=
  if sp = spLanding then m.landing else if sp = spHostA then m.hostA
  else if sp = spHostB then m.hostB else if sp = spCtrl then m.ctrl else []

def Mem.write (m : Mem) (sp : BitVec 4) (a : Nat) (bs : List Byte) : Mem :=
  if sp = spLanding then { m with landing := writeCells m.landing a bs }
  else if sp = spHostA then { m with hostA := writeCells m.hostA a bs }
  else if sp = spHostB then { m with hostB := writeCells m.hostB a bs }
  else if sp = spCtrl then { m with ctrl := writeCells m.ctrl a bs } else m

def Mem.bytes (m : Mem) (sp : BitVec 4) (a n : Nat) : List Byte :=
  (List.range n).map fun i => readCell (m.space sp) (a + i)

def Mem.words (m : Mem) (sp : BitVec 4) (a n : Nat) : List Word :=
  (List.range n).map fun i => BitVec.ofNat 128 (leNat (m.bytes sp (a + 16 * i) 16))

/-- First address of stack B (R159). -/
abbrev stackB : Nat := 0x600000000

def stackOf (a : Nat) : Stack := if a < stackB then .a else .b

def MemCtl.stack (m : MemCtl) : Stack → StackCtl
  | .a => m.stA
  | .b => m.stB

def MemCtl.onStack (m : MemCtl) (k : Stack) (f : StackCtl → StackCtl) : MemCtl :=
  match k with
  | .a => { m with stA := f m.stA }
  | .b => { m with stB := f m.stB }

/-- MEM.FRZ FROZEN (Table 7-5). -/
def StackCtl.frozen (c : StackCtl) : Bool := c.frz.getLsbD 0

/-- A read of the stack answers: neither frozen (Table 7-3) nor without its clock (Table 19-3). -/
def State.stackReads (s : State) (k : Stack) : Bool :=
  !(s.mc.stack k).frozen && !s.mc.pllDown && !(s.mc.stack k).failed

/-- A read of `n` bytes of a space answers: one of LANDING only where its stacks do. -/
def State.reads (s : State) (sp : BitVec 4) (a n : Nat) : Bool :=
  sp != spLanding || (s.stackReads (stackOf a) && s.stackReads (stackOf (a + n - 1)))

/-- An input buffer can be read. -/
def State.bufReads (s : State) (b : BufRef) : Bool := s.reads b.space b.addr.toNat b.len.toNat

/-- Writes of `n` bytes complete: none goes to a frozen stack, where it would be held and its source would wait
(Table 7-3, R191). -/
def State.writesNow (s : State) (sp : BitVec 4) (a n : Nat) : Bool :=
  sp != spLanding || (!(s.mc.stack (stackOf a)).frozen && !(s.mc.stack (stackOf (a + n - 1))).frozen)

/-- No stack is frozen: writes to both copies complete. -/
def State.thawed (s : State) : Bool := !s.mc.stA.frozen && !s.mc.stB.frozen

/-- A write by any client. To a frozen stack it is held, in order (Table 7-3); to a stack without its
clock it is not carried out (Table 19-3). -/
def State.write (s : State) (sp : BitVec 4) (a : Nat) (bs : List Byte) : State :=
  if sp = spLanding then
    if s.mc.pllDown then s
    else if (s.mc.stack (stackOf a)).frozen then
      s.onMc fun m => m.onStack (stackOf a) fun c =>
        { c with heldWrites := c.heldWrites ++ (bs.zipIdx a).map fun p => (p.2, p.1) }
    else s.onMem fun m => m.write sp a bs
  else s.onMem fun m => m.write sp a bs

/-- A range lies in the space and in one of the spaces a buffer may name (R417). -/
def rangeOk (sp : BitVec 4) (a n : Nat) : Bool :=
  (sp == spLanding || sp == spHostA || sp == spHostB) && a + n ≤ spaceEnd sp

/-! ### Device time and stamps (chapter 16) -/

/-- `dom(d, t)` of R395: ns with 16 fraction bits, 80 bits. -/
def Domain.at (d : Domain) (t : Nat) : Nat :=
  toU 80 ((d.value : Int) +
    ((t : Int) - d.anchor) * 2 ^ 17 * (2 ^ 40 + d.rate) / (5 * 2 ^ 40))

def TimeBase.dom (t : TimeBase) (d : BitVec 1) : Domain := if d = 0 then t.domA else t.domB

def TimeBase.onDom (t : TimeBase) (d : BitVec 1) (f : Domain → Domain) : TimeBase :=
  if d = 0 then { t with domA := f t.domA } else { t with domB := f t.domB }

def Domain.good (d : Domain) : Bool := d.st == .locked

/-- `resid(t)` of R402. -/
def TimeBase.resid (b : TimeBase) (t : Nat) : Int :=
  let done : Int := ((t : Int) - b.t0) * 2 ^ 17 * b.slew.toNat / (5 * 10 ^ 6)
  let m := max 0 ((b.e0.natAbs : Int) - done)
  if b.e0 < 0 then -m else m

/-- Device time D(t), units of 2^-16 ns (R402, R403). -/
def TimeBase.device (b : TimeBase) (t : Nat) : Int :=
  if b.initial then (t : Int) * 2 ^ 17 / 5
  else ((b.dom b.sel).at t : Int) + b.resid t

/-- A stamp (Table 16-5) at counter value `t`, `dev` ns from device time. -/
def TimeBase.stampAt (b : TimeBase) (t : Nat) (dev : Int) : BitVec 64 :=
  let unl := b.initial || !(b.dom b.sel).good
  let slw := !b.initial && b.resid t != 0
  BitVec.ofNat 64 (toU 62 (b.device t / 2 ^ 16 + dev) + b2n unl * 2 ^ 62 + b2n slw * 2 ^ 63)

/-- The deviation of a firmware stamp, within 2 µs either way: a free value (R406). -/
def jitter (fresh : Nat) : Int := Config.stampJitter fresh % 4001 - 2000

/-- A firmware stamp taken in this step (R406). -/
def State.fwStamp (s : State) : BitVec 64 := s.time.stampAt s.time.ctr (jitter s.fresh)

/-- TIME cycles in a number of nanoseconds (0.4 ns each, R11). -/
abbrev cycNs (n : Nat) : Nat := n * 5 / 2
abbrev cycUs (n : Nat) : Nat := n * 2500
abbrev cycMs (n : Nat) : Nat := n * 2500000
abbrev cycS (n : Nat) : Nat := n * 2500000000
abbrev cycH (n : Nat) : Nat := cycS (3600 * n)

/-- TIME.SEL (Table 16-7). -/
def TimeBase.selReg (b : TimeBase) : BitVec 64 :=
  BitVec.ofNat 64 (b.sel.toNat + 2 * b.mode.toNat + 8 * b2n b.initial + 16 * b2n b.deferred.isSome)

/-- The counter value of this step. -/
abbrev State.now (s : State) : Nat := s.time.ctr

/-- Something that recurs every `period` cycles is due: it has not happened yet, or that long ago. -/
def State.due (s : State) (last : Option Nat) (period : Nat) : Bool := last.all fun t => decide (t + period ≤ s.now)

/-- What a meaning answers. -/
abbrev Answer := Host.Outcome State Fault Refusal

/-- The words of a response whose fields the manual names without placing them (R424): free values of
the values reported (log entry 8). -/
def layoutBody (op : Nat) (vals : List Nat) : List Word :=
  (List.range ((vals.length + 1) / 2)).map fun i => Config.layout op i vals

/-! ### Ports, mailboxes, events -/

def HostIf.port (h : HostIf) : Port → PortS
  | .hostA => h.portA
  | .hostB => h.portB

def HostIf.onPort (h : HostIf) (p : Port) (f : PortS → PortS) : HostIf :=
  match p with
  | .hostA => { h with portA := f h.portA }
  | .hostB => { h with portB := f h.portB }

def HostIf.mb (h : HostIf) (n : BitVec 4) : Mailbox := h.mbs.getD n.toNat Mailbox.reset

def HostIf.onMb (h : HostIf) (n : BitVec 4) (f : Mailbox → Mailbox) : HostIf :=
  { h with mbs := h.mbs.modify n.toNat f }

def otherPort : Port → Port
  | .hostA => .hostB
  | .hostB => .hostA

def portNum : Port → Nat
  | .hostA => 0
  | .hostB => 1

def State.port (s : State) (p : Port) : PortS := s.host.port p
def State.onPort (s : State) (p : Port) (f : PortS → PortS) : State := s.onHost (·.onPort p f)
def State.mb (s : State) (n : BitVec 4) : Mailbox := s.host.mb n
def State.onMb (s : State) (n : BitVec 4) (f : Mailbox → Mailbox) : State := s.onHost (·.onMb n f)

/-- An MSI-X message: a masked vector sets its pending bit (R487). -/
def State.msix (s : State) (p : Port) (v : Nat) : State :=
  if ((s.port p).msix.getD v ⟨0, 0, true⟩).masked then
    s.onPort p fun q => { q with msixPend := q.msixPend ||| BitVec.ofNat 18 (2 ^ v) }
  else s.emit (.msix p v)

def otherMarshal : Marshal → Marshal
  | .a => .b
  | .b => .a

def Referee.marshal (r : Referee) : Marshal → MarshalS
  | .a => r.ma
  | .b => r.mbS

def Referee.onMarshal (r : Referee) (m : Marshal) (f : MarshalS → MarshalS) : Referee :=
  match m with
  | .a => { r with ma := f r.ma }
  | .b => { r with mbS := f r.mbS }

/-- Firmware runs: the active Marshal is not failed and no failover is in progress (R438). -/
def State.firmware (s : State) : Bool :=
  (s.ref.marshal s.ref.active).healthy && !s.ref.failover

/-- A held job. -/
def Jobs.job? (j : Jobs) (id : BitVec 16) : Option Job := j.jobs.find? (·.id == id)
def State.job? (s : State) (id : BitVec 16) : Option Job := s.jobs.job? id

/-- An event with nothing but its code. -/
def Event.of (code : BitVec 16) : Event :=
  ⟨code, 0xFF, 0, 0, 0, 0, false, 0, 0, 0, 0, 0, 0⟩

/-- The four words of an event record (Table 17-5). -/
def Event.words (e : Event) (phase : Bool) (eseq : BitVec 32) : List Word :=
  [packW [(0, 16, e.code.toNat), (16, 1, b2n phase), (24, 8, e.src.toNat), (32, 32, eseq.toNat),
     (64, 64, e.stamp.toNat)],
   packW [(0, 16, e.job.toNat), (16, 16, e.stripe.toNat), (32, 16, e.segment.toNat), (48, 1, b2n e.dry),
     (64, 32, e.nodef.toNat), (96, 32, e.noder.toNat)],
   packW [(0, 64, e.d0.toNat), (64, 64, e.d1.toNat)],
   packW [(0, 64, e.d2.toNat), (64, 64, e.d3.toNat)]]

/-- Entries of the queue; 0 stands for no queue. -/
def EventQueue.size (q : EventQueue) : Nat := if q.log2n = 0 then 0 else 2 ^ q.log2n.toNat

/-- R486: full when WP + 1 equals RP. -/
def EventQueue.full (q : EventQueue) : Bool := q.size == 0 || (q.wp + 1) % q.size == q.rp

/-- One record written at the write index, the phase inverted at the wrap, vector 16 sent (R420). -/
def State.putEvent (s : State) (p : Port) (e : Event) : State :=
  let q := (s.port p).evq
  let s1 := s.write q.space (q.base.toNat + 64 * q.wp) (wordsBytes (e.words q.phase q.eseq))
  let wp := (q.wp + 1) % q.size
  (s1.onPort p fun r => { r with evq := { r.evq with
      wp := wp
      phase := if wp = 0 then !q.phase else q.phase
      eseq := q.eseq + 1 } }).msix p 16

/-- Staged events fill free entries in order; a loss is reported first (R422). -/
def State.drainEvents : Nat → Port → State → State
  | 0, _, s => s
  | n + 1, p, s =>
    let q := (s.port p).evq
    if q.full || !s.firmware then s
    else if q.lost ≠ 0 then
      State.drainEvents n p
        ((s.putEvent p { Event.of ST.sysEventLoss with
            stamp := s.fwStamp, d0 := BitVec.ofNat 64 (portNum p), d1 := BitVec.ofNat 64 q.lost }).onPort p
          fun r => { r with evq := { r.evq with lost := 0 } })
    else match q.staged with
      | [] => s
      | e :: es =>
        State.drainEvents n p
          ((s.putEvent p e).onPort p fun r => { r with evq := { r.evq with staged := es } })

/-- Staged records of the device: 4,096 at most (R422). -/
def State.stagedCount (s : State) : Nat :=
  s.host.portA.evq.staged.length + s.host.portB.evq.staged.length

/-- An event for one port: staged or lost, then written while entries are free (R420, R422). -/
def State.raiseAt (s : State) (p : Port) (e : Event) : State :=
  let s1 :=
    if s.stagedCount < 4096 then
      s.onPort p fun r => { r with evq := { r.evq with staged := r.evq.staged ++ [e] } }
    else s.onPort p fun r => { r with evq := { r.evq with lost := r.evq.lost + 1 } }
  State.drainEvents ((s1.port p).evq.staged.length + 2) p s1

/-- The ports an event goes to (R420). `via` is the command that raised it, `job` the job it names. -/
def State.routes (s : State) (via : Option Src) (job : Option (BitVec 16)) : List Port :=
  match via with
  | some v => [v.port]
  | none =>
    match job.bind s.job? with
    | some j => [j.owner]
    | none => [.hostA, .hostB]

/-- The event's stamp, source and routing. -/
def State.raiseVia (s : State) (via : Option Src) (job : Option (BitVec 16)) (e : Event) : State :=
  let e1 := { e with
    stamp := s.fwStamp
    src := match via with
      | some v => v.mb.setWidth 8
      | none => 0xFF
    job := job.getD e.job }
  (s.routes via job).foldl (fun t p => t.raiseAt p e1) s.draw

/-- An event the device raises. -/
def State.raise (s : State) (e : Event) : State := s.raiseVia none none e

/-- A held stripe with the shadow or loopback target (DRY of Table 17-5). -/
def State.dry (s : State) (id : StripeId) : Bool := s.jobs.stripes.any fun x => x.id == id && x.target != 0

/-- An event about a stripe. -/
def State.raiseSt (s : State) (id : StripeId) (e : Event) : State :=
  s.raiseVia none (some id.job) { e with stripe := id.stripe, dry := e.dry || s.dry id }

/-! ### The fault log (R446, R447) -/

/-- An entry buffered in AON SRAM: the event record with LSEQ in the place of PHASE. A full buffer
counts; the next entry records the count in D3 (DESIGN CHOICE, log entry 21). -/
def State.logEntry (s : State) (e : Event) : State :=
  if s.log.buffer.length < 256 then
    let e1 := if s.log.lost = 0 then e else { e with d3 := BitVec.ofNat 64 s.log.lost }
    let w0 := packW [(0, 16, e1.code.toNat), (16, 16, s.log.lseq), (64, 64, s.fwStamp.toNat)]
    s.onLog fun l => { l with
      buffer := l.buffer ++ [w0 :: (e1.words false 0).drop 1], lseq := l.lseq + 1, lost := 0 }
  else s.onLog fun l => { l with lost := l.lost + 1 }

/-- A fault: its event and its entry in the fault log. -/
def State.fault (s : State) (job : Option (BitVec 16)) (e : Event) : State :=
  (s.raiseVia none job e).logEntry { e with job := job.getD e.job }

/-- A fault of a stripe. -/
def State.faultSt (s : State) (id : StripeId) (e : Event) : State :=
  s.fault (some id.job) { e with stripe := id.stripe, dry := e.dry || s.dry id }

/-! ### Trace (Table 17-14) -/

/-- A trace record of two words from source `src`. A full ring drops it, and the first drop of an
episode is reported. -/
def State.traceRec (s : State) (src : Nat) (w : Word) : State :=
  let t := s.trace
  if !t.running || !t.mask.getLsbD src then s
  else if 32 * t.written + 32 ≤ t.taken + 16 * t.words then
    (s.write t.space (t.base.toNat + t.off)
      (wordsBytes [packW [(0, 8, src), (64, 64, s.time.ctr)], w])).onTrace fun t => { t with
        off := (t.off + 32) % (16 * t.words), written := t.written + 1, overflow := false }
  else
    let s1 := s.onTrace fun t => { t with lost := t.lost + 1, overflow := true }
    if t.overflow then s1
    else s1.raise { Event.of ST.traceOverflow with d0 := BitVec.ofNat 64 (t.lost + 1) }

/-! ### Responses (R413, Table 17-3) -/

/-- The response header W0: the command header with LEN and BCRC of the response body. -/
def respHeader (h : Word) (body : List Word) : Word :=
  packW [(0, 32, h.toNat), (32, 16, body.length), (48, 16, fld 63 48 h),
    (64, 64, if body.length = 0 then 0 else (crc64W body).toNat)]

/-- The response is written and stored (R415), BUSY cleared, DONE set, and MSI-X vector n sent to the port that rang. -/
def State.respond (s : State) (src : Src) (st : BitVec 16) (detail : Nat) (deferred : Bool)
    (body : List Word) : State :=
  let w1 := packW [(0, 16, st.toNat), (17, 1, b2n deferred), (32, 32, detail), (64, 64, s.fwStamp.toNat)]
  ((s.onMb src.mb fun m => { m with
      busy := false
      done := true
      resp0 := respHeader m.header body
      resp1 := w1
      respBody := body
      kept0 := respHeader m.header body
      kept1 := w1
      keptBody := body }).msix src.port src.mb.toNat).draw

/-- ST_OK with a body. -/
def State.ok (s : State) (src : Src) (body : List Word) : State := s.respond src ST.ok 0 false body

/-- A status with nothing else. -/
def State.fail (s : State) (src : Src) (st : BitVec 16) : State := s.respond src st 0 false []

/-- The first failing precondition of a list (R424). -/
def firstFail : List (Bool × BitVec 16) → Option (BitVec 16)
  | [] => none
  | (true, _) :: r => firstFail r
  | (false, st) :: _ => some st

/-- A mailbox command: its preconditions in order, then its effect. -/
def State.command (s : State) (src : Src) (pre : List (Bool × BitVec 16)) (k : State → State) : State :=
  match firstFail pre with
  | some st => s.fail src st
  | none => k s

/-- A command waits: BUSY stays set and the response comes later (R418). -/
def State.wait (s : State) (src : Src) (c : Instr) : State :=
  (s.onMb src.mb fun m => { m with busy := true, done := false }).onHost fun h =>
    { h with waiting := h.waiting ++ [⟨src, c, s.time.ctr⟩] }

/-- The command that waits in a mailbox, taken out of the waiting list. -/
def State.unwait (s : State) (mb : BitVec 4) : State :=
  s.onHost fun h => { h with waiting := h.waiting.filter (fun w => w.src.mb != mb) }

def State.waiter (s : State) (mb : BitVec 4) : Option Waiting :=
  s.host.waiting.find? (fun w => w.src.mb == mb)

/-! ### Pacing queues (R381 to R384) -/

def Dma.qid (c : Dma) : Nat := fld 8 5 c.cfg

/-- A reset of queue `q` unbinds its channels, which go paced-off until they are rebound (R383). -/
def State.unbindQueue (s : State) (q : Nat) : State :=
  s.onDma fun d => { d with chans := d.chans.map fun c =>
    if c.qid = q then
      { c with unbound := true, pacedOn := false, st := if c.st = .active then .pacedOff else c.st }
    else c }

/-- Reserved bursts of queue `q` are still to complete. -/
def State.queueBusy (s : State) (q : Nat) : Bool := s.dma.chans.any fun c => c.qid == q && c.burst.isSome

/-- The completed bytes that the queue's own pointer does not cover: `f` applied. -/
def State.onAhead (s : State) (q : Nat) (f : Nat → Nat) : State :=
  s.onDma fun d => { d with ahead := d.ahead.modify q f }

/-! ### Stripes and segments -/

def Jobs.stripe? (j : Jobs) (id : StripeId) : Option Stripe := j.stripes.find? (·.id == id)
def State.stripe? (s : State) (id : StripeId) : Option Stripe := s.jobs.stripe? id

def State.onStripe (s : State) (id : StripeId) (f : Stripe → Stripe) : State :=
  s.onJobs fun j => { j with stripes := j.stripes.map fun x => if x.id = id then f x else x }

def State.onJob (s : State) (id : BitVec 16) (f : Job → Job) : State :=
  s.onJobs fun j => { j with jobs := j.jobs.map fun x => if x.id = id then f x else x }

def Stripe.seg? (x : Stripe) (k : Nat) : Option Seg := x.segs[k]?

def Stripe.onSeg (x : Stripe) (k : Nat) (f : Seg → Seg) : Stripe := { x with segs := x.segs.modify k f }

def State.onSeg (s : State) (id : StripeId) (k : Nat) (f : Seg → Seg) : State :=
  s.onStripe id (·.onSeg k f)

def State.seg? (s : State) (id : StripeId) (k : Nat) : Option Seg := (s.stripe? id).bind (·.seg? k)

/-- ARMED, RUNNING or STOPPING (R27). -/
def StripeSt.active : StripeSt → Bool
  | .armed | .running | .stopping => true
  | _ => false

/-- The stripe that is ARMED, RUNNING or STOPPING. -/
def State.active? (s : State) : Option Stripe := s.jobs.stripes.find? (·.st.active)

/-- Code of a stripe state (R491). -/
def StripeSt.code : StripeSt → Nat
  | .defined => 1
  | .checked => 2
  | .refused => 3
  | .armed => 4
  | .running => 5
  | .done => 6
  | .stopping => 7
  | .stopped => 8
  | .halted => 9

/-- Exposure position of segment `k`, and the segment at an exposure position (R201). -/
def Stripe.pos (x : Stripe) (k : Nat) : Nat := if x.rev then x.nseg - 1 - k else k

/-! ### The repair tree (R429 to R431) -/

def State.repairRec (s : State) (n : BitVec 32) : Option RepairRec := s.repair.recs.find? (·.node == n)

/-- Factory spares of Table 18-1. -/
def factorySpare (n : BitVec 32) : Bool :=
  let i1 := fld 28 23 n
  let i2 := fld 22 15 n
  let i3 := fld 14 0 n
  (i1 == 1 && i2 == 2 && (i3 == 32 || i3 == 33)) || (i1 == 1 && i2 == 4 && (i3 == 16 || i3 == 17)) ||
  (i1 == 2 && i2 == 0 && (i3 == 16 || i3 == 17)) || (i1 == 2 && i2 == 2 && 2048 ≤ i3 && i3 ≤ 2111) ||
  (i1 == 2 && i2 == 3 && 4096 ≤ i3 && i3 ≤ 4159) || (i1 == 2 && i2 == 4 && 8192 ≤ i3 && i3 ≤ 8255) ||
  (i1 == 2 && i2 == 5 && 256 ≤ i3 && i3 ≤ 271) || (i1 == 5 && i2 == 0 && 64 ≤ i3 && i3 ≤ 67) ||
  (i1 == 7 && i2 == 1 && 104 ≤ i3 && i3 ≤ 111) || (i1 == 11 && i2 == 1 && 960 ≤ i3 && i3 ≤ 1023)

/-- The repair state that an output lane's own state gives it (Tables 12-9 and 12-11). -/
def Link.laneRState (l : Link) (n : Nat) : RState :=
  match (l.lanes.getD n Lane.reset).st with
  | .suspect | .suspectPassed => .suspect
  | .retired => .retired
  | .carrier => .inService
  | .spare => .spare
  | .down => if l.map.contains (some n) then .inService else .spare

/-- The node of an output lane, region 5.0 of the repair tree. -/
def outputLane (n : BitVec 32) : Bool := fld 28 23 n == 5 && fld 22 15 n == 0 && n.getLsbD 31

/-- The repair state of an instance: its record's, else its factory state. An output lane that no command has
quarantined takes its lane state. -/
def State.rstate (s : State) (n : BitVec 32) : RState :=
  if outputLane n then
    match s.repairRec n with
    | some r => if r.st = .quarantined then .quarantined else s.link.laneRState (fld 14 0 n)
    | none => s.link.laneRState (fld 14 0 n)
  else match s.repairRec n with
    | some r => r.st
    | none => if factorySpare n then .spare else .inService

/-- A repair record updated, made first where there is none. -/
def State.onRepairRec (s : State) (n : BitVec 32) (f : RepairRec → RepairRec) : State :=
  s.onRepair fun r =>
    if r.recs.any (·.node == n) then
      { r with recs := r.recs.map fun x => if x.node = n then f x else x }
    else { r with recs := r.recs ++ [f ⟨n, if factorySpare n then .spare else .inService, none, none,
      false, false, false⟩] }

def State.setRState (s : State) (n : BitVec 32) (st : RState) : State :=
  s.onRepairRec n fun r => { r with st := st }

def RState.code : RState → Nat
  | .inService => 0
  | .spare => 1
  | .quarantined => 2
  | .suspect => 3
  | .retired => 4
  | .failed => 5

end Sys2Proof.Machine
end

