-- ==== Sys2Proof/Machine/Beams.lean ====
section
/-!
DEFINITION. The arithmetic of the beams, without state: row mapping, placement correction, resampling,
split and dither, history, codes and decay (chapters 8 and 9).
-/

namespace Sys2Proof.Machine

/-- g in nm (Table 2-7). -/
def gridNm (h : JobHeader) : Nat := if h.grid = 0 then 5 else if h.grid = 1 then 10 else 20

/-! ### Row mapping (R200, Table 8-1) -/

/-- Exposure row of beam row `u` at step `n`. -/
def expRow (rev : Bool) (n : Int) (u : Nat) : Int := n - 16 * (if rev then 511 - (u : Int) else u)

/-- Grid row of exposure row `e` in a stripe of `nseg` segments. -/
def gridRow (rev : Bool) (nseg : Nat) (e : Nat) : Nat := if rev then 4096 * nseg - 1 - e else e

/-- Grid column of beam `(u, v)` (R8). -/
def beamCol (u v : Nat) : Nat := 16 * v + u % 16

/-- Index `b = 512 u + v` of a beam (R227). -/
def beamIx (u v : Nat) : Nat := 512 * u + v

/-! ### Placement correction (R204 to R209) -/

/-- The 4-tap weights of a phase (R208). -/
def weight (phi : Nat) (b : Int) : Int :=
  let p : Int := phi
  let vm := -p ^ 3 + 128 * p ^ 2 - 4096 * p
  let v1 := -3 * p ^ 3 + 256 * p ^ 2 + 4096 * p
  let v2 := p ^ 3 - 64 * p ^ 2
  let w (v : Int) : Int := (v + 16) / 32
  if b = -1 then w vm else if b = 1 then w v1 else if b = 2 then w v2
  else 16384 - w vm - w v1 - w v2

/-- Node `(i, j)` of a distortion map. -/
def DistMap.node (m : DistMap) (i j : Nat) : Int × Int := m.data.getD (j * m.nx + i) (0, 0)

/-- The bilinear part of the source offset at `(x, y)` (R205). -/
def DistMap.at (m : DistMap) (x y : Int) : Int × Int :=
  let l : Int := 2 ^ (m.plog2 + 6)
  let ux := clampI 0 ((m.nx - 1) * l) (x - m.ox)
  let i := min (ux / l) (m.nx - 2)
  let fx := ux - i * l
  let uy := clampI 0 ((m.ny - 1) * l) (y - m.oy)
  let j := min (uy / l) (m.ny - 2)
  let fy := uy - j * l
  let i := i.toNat
  let j := j.toNat
  let mix (d : Int × Int → Int) : Int :=
    rshr ((l - fx) * (l - fy) * d (m.node i j) + fx * (l - fy) * d (m.node (i + 1) j)
      + (l - fx) * fy * d (m.node i (j + 1)) + fx * fy * d (m.node (i + 1) (j + 1))) (2 * (m.plog2 + 6))
  (mix (·.1), mix (·.2))

/-- The affine part (R205), SIGMA left out. -/
def fitAt (f : FitRec) (x y : Int) : Int × Int :=
  let dx := x - signedOf 32 f.fx0.toNat
  let dy := y - signedOf 32 f.fy0.toNat
  let a (b : BitVec 32) : Int := signedOf 32 b.toNat
  (a f.tx + rshr (a f.axx * dx + a f.axy * dy) 34, a f.ty + rshr (a f.ayx * dx + a f.ayy * dy) 34)

/-- SIGMA, signed (Table 8-2). -/
def fitSigma (f : FitRec) : Int := signedOf 8 f.sigma.toNat

/-- The source offset `(DX, DY)` of output pixel `(s, c)` (R205). -/
def Stripe.offset (x : Stripe) (f : FitRec) (s c : Nat) : Int × Int :=
  let px := x.x0 + 64 * c + 32
  let py := x.y0 + 64 * s + 32
  let m := match x.dist with
    | some d => d.at px py
    | none => (0, 0)
  let a := fitAt f px py
  (m.1 + a.1, m.2 + a.2 + fitSigma f)

/-- The four columns or rows of a 4-tap sum. -/
def taps : List Int := [-1, 0, 1, 2]

/-- One output pixel from its sources (R209). `src` gives a grid pixel, 0 outside the stripe. -/
def resampleAt (src : Int → Int → Nat) (off : Int × Int) (s c : Nat) : Nat :=
  let ix := off.1 / 64
  let px := (off.1 - 64 * ix).toNat
  let iy := off.2 / 64
  let py := (off.2 - 64 * iy).toNat
  let val (a b : Int) : Int := src (s + iy + a) (c + ix + b)
  let h (a : Int) : Int := (taps.map fun b => weight px b * val a b).sum
  let t := (taps.map fun a => weight py a * h a).sum
  let all := (taps.map fun a => taps.map fun b => val a b).flatten
  (clampI (all.foldl min (val (-1) (-1))) (all.foldl max 0) (rshr t 28)).toNat

/-- The greatest absolute source offsets the bound of R207 takes: map nodes, affine corners, SIGMA. -/
def Stripe.offsetBound (x : Stripe) (f : FitRec) : Int × Int :=
  let m := match x.dist with
    | some d => (d.data.foldl (fun a (n : Int × Int) => max a (n.1.natAbs : Int)) 0,
        d.data.foldl (fun a (n : Int × Int) => max a (n.2.natAbs : Int)) 0)
    | none => (0, 0)
  let x1 := x.x0 + 64 * 8191 + 32
  let y1 := x.y0 + 64 * (4096 * x.nseg - 1) + 32
  let cs := [fitAt f (x.x0 + 32) (x.y0 + 32), fitAt f x1 (x.y0 + 32), fitAt f (x.x0 + 32) y1, fitAt f x1 y1]
  (m.1 + cs.foldl (fun a (n : Int × Int) => max a (n.1.natAbs : Int)) 0,
   m.2 + cs.foldl (fun a (n : Int × Int) => max a (n.2.natAbs : Int)) 0 + (fitSigma f).natAbs)

/-- The bound of R207 holds. -/
def Stripe.offsetOk (x : Stripe) (f : FitRec) : Bool :=
  (x.offsetBound f).1 ≤ 2047 && (x.offsetBound f).2 ≤ 4095

/-! ### Split and dither (R217) -/

/-- The 32 beam rows of a column class, ascending. -/
def classRows (c : Nat) : List Nat := (List.range 32).map fun i => c % 16 + 16 * i

/-- K_live(c) under a dead-beam list (Table 0-7). -/
def kLive (dead : List Nat) (c : Nat) : Nat :=
  ((classRows c).filter fun u => !dead.contains (beamIx u (c / 16))).length

/-- Live rows `u' < u` that serve column `c`. -/
def liveRank (dead : List Nat) (u c : Nat) : Nat :=
  ((classRows c).filter fun w => w < u && !dead.contains (beamIx w (c / 16))).length

/-- TGT: the beam's share of pixel value `p` among `k` live beams. -/
def relayTgt (p k : Nat) : Nat := p * 8064 / k

/-- OFS: the dither offset of the beam of rank `i` at pixel `(s, c)`. -/
def relayOfs (s c i k : Nat) : Nat :=
  let h := (s % 65536 * 40503 + c * 9973) % 65536
  (2 * ((i + h) % k) + 1) * 65536 / (2 * k)

/-! ### The code (R236) -/

/-- F: gain times history factor, Q31; 2^31 when GAINHIST = 0. -/
def gainHist (gainhist : Bool) (g alpha d : Nat) : Nat :=
  if gainhist then g * (65536 - (rshr (alpha * d) 24).toNat) else 2 ^ 31

def rawCode (tgt ofs pend f : Nat) : Nat := ((tgt + 65536 * pend) * 2 ^ 31 / f + ofs) / 65536

def beamCode (tgt ofs pend f : Nat) : Nat := min 63 (rawCode tgt ofs pend f)

/-- U: the unmet part of a repair. -/
def unmet (tgt ofs pend f : Nat) : Nat :=
  if 63 < rawCode tgt ofs pend f then min pend (rshr ((rawCode tgt ofs pend f - 63) * f) 31).toNat else 0

/-! ### History (R232 to R235) -/

/-- The update of one duty entry (R233). -/
def dutyStep (lam d code : Nat) : Nat := ((d : Int) - rshr (lam * d) 24 + rshr (lam * code) 6).toNat

/-- The value kept for a key of a sparse array; 0 where none is. -/
def sparse (l : List (Nat × Nat)) (k : Nat) : Nat :=
  match l with
  | [] => 0
  | p :: ps => if p.1 = k then p.2 else sparse ps k

/-- A sparse array with one entry set. -/
def sparseSet (l : List (Nat × Nat)) (k v : Nat) : List (Nat × Nat) :=
  let r := l.filter fun p => p.1 ≠ k
  if v = 0 then r else r ++ [(k, v)]

/-- Every entry of the history array updated with the codes sent (R233). -/
def histStep (lam : Nat) (hist codes : List (Nat × Nat)) : List (Nat × Nat) :=
  ((hist.filter fun p => !codes.any (·.1 == p.1)).map (fun p => (p.1, dutyStep lam p.2 0))
    ++ codes.map (fun c => (c.1, dutyStep lam (sparse hist c.1) c.2))).filter (fun p => p.2 ≠ 0)

/-- Terms of `1 - exp(-num/den)` with 120 fraction bits, `k` counting up from the term before. -/
def expTerms : Nat → Nat → Nat → Int → Int → Int
  | 0, _, _, _, acc => acc
  | fuel + 1, num, den, term, acc =>
    let k := 41 - (fuel + 1)
    let t := -(term * num) / (den * k : Nat)
    expTerms fuel num den t (acc - t)

/-- `round(2^24 (1 - exp(-num/den)))`, the exact real value rounded half up (R232). -/
def decayOf (num den : Nat) : Nat := (rshr (expTerms 40 num den (2 ^ 120) 0) 96).toNat

/-- λ of a stripe: T_d in TIME cycles of 0.4 ns, τ in ns. -/
def lambdaOf (tmin tau : Nat) : Nat := decayOf (4 * tmin) (10 * tau)

end Sys2Proof.Machine
end

