-- ==== Sys2Proof/Machine/Codec.lean ====
section
/-!
DEFINITION. The segment codec without state: contexts, codes, panel streams, state records and extents
(chapter 5).
-/

namespace Sys2Proof.Machine

/-! ### Contexts (R127 to R129, R140) -/

/-- Table 5-4. -/
def RegCtx.default : RegCtx := ⟨1024, 1, 0, 0⟩
def IntCtx.default : IntCtx := ⟨1024, 1, 0⟩
def CodecCtx.default : CodecCtx := ⟨List.replicate 365 RegCtx.default, [IntCtx.default, IntCtx.default], 0⟩

/-- The line above: its values, and its virtual column -1 (R127). -/
structure Above where
  row  : Array Nat
  left : Nat

/-- Line -1. -/
def Above.zero : Above := ⟨#[], 0⟩

/-- The neighbours `a`, `b`, `c`, `d` of column `i` (R127). -/
def Above.near (u : Above) (cur : Array Nat) (i : Nat) : Nat × Nat × Nat × Nat :=
  let b := u.row.getD i 0
  (if i = 0 then u.row.getD 0 0 else cur.getD (i - 1) 0, b,
   if i = 0 then u.left else u.row.getD (i - 1) 0,
   if i = 511 then b else u.row.getD (i + 1) 0)

/-- Table 5-1. -/
def quantG (d : Int) : Int :=
  if d ≤ -1024 then -4 else if d ≤ -128 then -3 else if d ≤ -16 then -2 else if d < 0 then -1
  else if d = 0 then 0 else if d < 16 then 1 else if d < 128 then 2 else if d < 1024 then 3 else 4

/-- Context index and SIGN (R128). -/
def contextOf (a b c d : Nat) : Nat × Int :=
  let q1 := quantG ((d : Int) - b)
  let q2 := quantG ((b : Int) - c)
  let q3 := quantG ((c : Int) - a)
  let neg := q1 < 0 ∨ (q1 = 0 ∧ (q2 < 0 ∨ (q2 = 0 ∧ q3 < 0)))
  let v := 81 * q1 + 9 * q2 + q3
  if neg then ((-v).toNat, -1) else (v.toNat, 1)

/-! ### Regular mode (R130 to R132) -/

def med (a b c : Nat) : Nat :=
  if max a b ≤ c then min a b else if c ≤ min a b then max a b else a + b - c

def wrap16 (e : Int) : Int := (e + 32768) % 65536 - 32768

def kforFrom : Nat → Nat → Nat → Nat → Nat
  | 0, k, _, _ => k
  | f + 1, k, av, nv => if nv * 2 ^ k < av then kforFrom f (k + 1) av nv else k

/-- `kfor` of R130. -/
def kfor (av nv : Nat) : Nat := kforFrom 15 0 av nv

/-- `n` bits of a value, most significant first (R131). -/
def bitsOf : Nat → Nat → List Bool
  | 0, _ => []
  | n + 1, v => (v / 2 ^ n % 2 == 1) :: bitsOf n v

/-- A piece of a line's code: whether it is a code word of R131, and its bits. -/
abbrev Tok := Bool × List Bool

/-- `put_gr` of R131. -/
def putGr (m k : Nat) : Tok :=
  if m / 2 ^ k < 32 then (true, List.replicate (m / 2 ^ k) false ++ true :: bitsOf k m)
  else (true, List.replicate 32 false ++ true :: bitsOf 17 m)

/-- `update` of R132. -/
def RegCtx.update (r : RegCtx) (e : Int) : RegCtx :=
  let b := r.b + e
  let a := r.a + e.natAbs
  let h := r.n = 64
  let a := if h then a / 2 else a
  let b := if h then b / 2 else b
  let n := (if h then 32 else r.n) + 1
  if b ≤ -(n : Int) then
    let b := b + n
    let c := if -2048 < r.c then r.c - 1 else r.c
    ⟨a, n, if b ≤ -(n : Int) then -(n : Int) + 1 else b, c⟩
  else if 0 < b then
    let b := b - n
    let c := if r.c < 2047 then r.c + 1 else r.c
    ⟨a, n, if 0 < b then 0 else b, c⟩
  else ⟨a, n, b, r.c⟩

/-- The prediction, the Golomb parameter and whether the special mapping holds (R130). -/
def RegCtx.predict (r : RegCtx) (a b c : Nat) (sign : Int) : Nat × Nat × Bool :=
  let k := kfor r.a r.n
  ((clampI 0 65535 (med a b c + sign * r.c)).toNat, k, k == 0 && decide (2 * r.b ≤ -(r.n : Int)))

def mapErr (special : Bool) (e : Int) : Nat :=
  if special then (if 0 ≤ e then 2 * e + 1 else -2 * e - 2).toNat
  else (if 0 ≤ e then 2 * e else -2 * e - 1).toNat

/-- R135, regular mode. -/
def unmapErr (special : Bool) (m : Nat) : Int :=
  if special then (if m % 2 = 1 then ((m - 1) / 2 : Nat) else -((m / 2 : Nat) : Int) - 1)
  else (if m % 2 = 0 then ((m / 2 : Nat) : Int) else -(((m + 1) / 2 : Nat) : Int))

def CodecCtx.reg (x : CodecCtx) (q : Nat) : RegCtx := x.regs.getD q RegCtx.default
def CodecCtx.setReg (x : CodecCtx) (q : Nat) (r : RegCtx) : CodecCtx := { x with regs := x.regs.set q r }
def CodecCtx.int (x : CodecCtx) (t : Nat) : IntCtx := x.ints.getD t IntCtx.default
def CodecCtx.setInt (x : CodecCtx) (t : Nat) (r : IntCtx) : CodecCtx := { x with ints := x.ints.set t r }

def codeRegular (s : CodecCtx) (x a b c q : Nat) (sign : Int) : Tok × CodecCtx :=
  let r := s.reg q
  let p := r.predict a b c sign
  let e := wrap16 (sign * ((x : Int) - p.1))
  (putGr (mapErr p.2.2 e) p.2.1, s.setReg q (r.update e))

/-! ### Run mode (R133, R134) -/

def runTable : List Nat :=
  [0, 0, 0, 0, 1, 1, 1, 1, 2, 2, 2, 2, 3, 3, 3, 3, 4, 4, 5, 5, 6, 6, 7, 7, 8, 9, 10, 11, 12, 13, 14, 15]

def CodecCtx.j (s : CodecCtx) : Nat := runTable.getD s.runIndex 15
def CodecCtx.runUp (s : CodecCtx) : CodecCtx := { s with runIndex := min 31 (s.runIndex + 1) }
def CodecCtx.runDown (s : CodecCtx) : CodecCtx := { s with runIndex := s.runIndex - 1 }

/-- Columns from `i` on that hold `v`. -/
def runLength : Nat → Array Nat → Nat → Nat → Nat
  | 0, _, _, _ => 0
  | f + 1, cur, i, v => if i < 512 ∧ cur.getD i 0 = v then runLength f cur (i + 1) v + 1 else 0

/-- The ones of a run of `rem` columns: how many, what remains, the state. -/
def runOnes : Nat → Nat → CodecCtx → Nat × Nat × CodecCtx
  | 0, rem, s => (0, rem, s)
  | f + 1, rem, s =>
    if 2 ^ s.j ≤ rem then
      let r := runOnes f (rem - 2 ^ s.j) s.runUp
      (r.1 + 1, r.2)
    else (0, rem, s)

def IntCtx.update (r : IntCtx) (t em : Nat) (neg : Bool) : IntCtx :=
  let nn := if neg then r.rnn + 1 else r.rnn
  let a := r.ra + (em + 1 - t) / 2
  if r.rn = 64 then ⟨a / 2, 33, nn / 2⟩ else ⟨a, r.rn + 1, nn⟩

def IntCtx.k (r : IntCtx) (t : Nat) : Nat := kfor (if t = 1 then r.ra + r.rn / 2 else r.ra) r.rn

/-- `code_interrupt` of R134. -/
def codeInterrupt (s : CodecCtx) (x a b : Nat) : Tok × CodecCtx :=
  let t := if a = b then 1 else 0
  let r := s.int t
  let e0 : Int := (x : Int) - if t = 1 then a else b
  let e := wrap16 (if t = 0 ∧ b < a then -e0 else e0)
  let k := r.k t
  let map : Nat := if (k = 0 ∧ 0 < e ∧ 2 * r.rnn < r.rn) ∨ (e < 0 ∧ (r.rn ≤ 2 * r.rnn ∨ k ≠ 0)) then 1 else 0
  let em := 2 * e.natAbs - t - map
  (putGr em k, s.setInt t (r.update t em (decide (e < 0))))

/-! ### Lines (R136, R137) -/

/-- The codes of columns `i` to 511. -/
def codeCols : Nat → Bool → Above → Array Nat → Nat → CodecCtx → List Tok × CodecCtx
  | 0, _, _, _, _, s => ([], s)
  | f + 1, first, u, cur, i, s =>
    if 512 ≤ i then ([], s)
    else
      let (a, b, c, d) := u.near cur i
      let q := contextOf a b c d
      if !first && q.1 == 0 then
        let n := runLength 512 cur i a
        let (ones, rem, s1) := runOnes 512 n s
        let t1 : Tok := (false, List.replicate ones true)
        if i + n = 512 then ([t1, (false, if 0 < rem then [true] else [])], s1)
        else
          let (_, bb, _, _) := u.near cur (i + n)
          let z := codeInterrupt s1 (cur.getD (i + n) 0) a bb
          let r := codeCols f first u cur (i + n + 1) z.2.runDown
          (t1 :: (false, false :: bitsOf s1.j rem) :: z.1 :: r.1, r.2)
      else
        let z := codeRegular s (cur.getD i 0) a b c q.1 q.2
        let r := codeCols f first u cur (i + 1) z.2
        (z.1 :: r.1, r.2)

def tokLen (ts : List Tok) : Nat := (ts.map fun t => t.2.length).sum

/-- One line with its flag (R136); the state afterwards is that of coding it (R137). -/
def codeLine (first : Bool) (u : Above) (cur : Array Nat) (s : CodecCtx) : List Tok × CodecCtx :=
  let r := codeCols 513 first u cur 0 s
  if 8192 ≤ tokLen r.1 then
    ((false, [true]) :: (cur.toList.map fun x => (false, bitsOf 16 x)), r.2)
  else ((false, [false]) :: r.1, r.2)

/-- The lines of a block (R125). -/
def codeLines : Bool → Above → List (Array Nat) → CodecCtx → List Tok × CodecCtx
  | _, _, [], s => ([], s)
  | first, u, x :: xs, s =>
    let r := codeLine first u x s
    let t := codeLines false ⟨x, u.row.getD 0 0⟩ xs r.2
    (r.1 ++ t.1, t.2)

/-! ### Panel streams (R138) -/

/-- What names a stream (Table 5-2). -/
structure StreamId where
  panel   : Nat
  rev     : Bool
  job     : Nat
  stripe  : Nat
  segment : Nat
  deriving DecidableEq, Repr

def StreamId.header (x : StreamId) (rows : Nat) : Word :=
  packW [(0, 16, 0x4350), (16, 8, 1), (24, 4, x.panel), (29, 1, b2n x.rev), (32, 16, x.job),
    (48, 16, x.stripe), (64, 16, x.segment), (80, 16, rows)]

/-- Bits into words, bit `j` at bit `j mod 128`. -/
def bitWord : Nat → List Bool → Nat
  | _, [] => 0
  | w, b :: bs => b2n b * 2 ^ w + bitWord (w + 1) bs

def bitsWords : Nat → List Bool → List Word
  | 0, _ => []
  | n + 1, bs => BitVec.ofNat 128 (bitWord 0 (bs.take 128)) :: bitsWords n (bs.drop 128)

/-- An encoded block: its payload words, its code words as (start, length), and the state after it. -/
structure Encoded where
  words : List Word
  codes : List (Nat × Nat)
  after : CodecCtx

/-- Starts and lengths of the code words of R131. -/
def codeSpans : Nat → List Tok → List (Nat × Nat)
  | _, [] => []
  | p, t :: ts => (if t.1 then [(p, t.2.length)] else []) ++ codeSpans (p + t.2.length) ts

def encodeBlock (id : StreamId) (lines : List (List Nat)) (s : CodecCtx) : Encoded :=
  let r := codeLines true Above.zero (lines.map List.toArray) s
  let bits := (r.1.map (·.2)).flatten
  let body := id.header lines.length :: bitsWords ((bits.length + 127) / 128) bits
  ⟨body ++ [packW [(0, 40, bits.length), (48, 16, 0x4543), (64, 64, (crc64W body).toNat)]],
    codeSpans 0 r.1, r.2⟩

/-! ### State records (R142) -/

def RegCtx.pack (r : RegCtx) : Nat := r.a + r.n * 2 ^ 24 + toU 16 r.b * 2 ^ 32 + toU 16 r.c * 2 ^ 48

def RegCtx.unpack (v : Nat) : RegCtx :=
  ⟨v % 2 ^ 24, v / 2 ^ 24 % 2 ^ 8, signedOf 16 (v / 2 ^ 32), signedOf 16 (v / 2 ^ 48)⟩

/-- A panel block of 184 words (Table 5-5). -/
def CodecCtx.block (s : CodecCtx) : List Word :=
  let half (q : Nat) : Nat := if q < 365 then (s.reg q).pack else 0
  let i0 := s.int 0
  let i1 := s.int 1
  ((List.range 183).map fun w => packW [(0, 64, half (2 * w)), (64, 64, half (2 * w + 1))]) ++
    [packW [(0, 5, s.runIndex), (8, 24, i0.ra), (32, 8, i0.rn), (40, 8, i0.rnn), (48, 24, i1.ra),
      (72, 8, i1.rn), (80, 8, i1.rnn)]]

def CodecCtx.ofBlock (ws : List Word) : CodecCtx :=
  let w := ws.getD 183 0
  ⟨(List.range 365).map fun q => RegCtx.unpack (fld (64 * (q % 2) + 63) (64 * (q % 2)) (ws.getD (q / 2) 0)),
   [⟨fld 31 8 w, fld 39 32 w, fld 47 40 w⟩, ⟨fld 71 48 w, fld 79 72 w, fld 87 80 w⟩], fld 4 0 w⟩

/-- A state record of `npanel` panel blocks (Table 5-5). -/
def stateRecord (id : StreamId) (states : List CodecCtx) : List Word :=
  let w0 := packW [(0, 16, 0x5343), (16, 8, 1), (24, 5, states.length),
    (29, 1, b2n (states.all (· == CodecCtx.default))), (30, 1, b2n id.rev), (32, 16, id.job),
    (48, 16, id.stripe), (64, 16, id.segment)]
  let blocks := (states.map CodecCtx.block).flatten
  w0 :: packW [(0, 64, (crc64W (w0 :: blocks)).toNat)] :: blocks

/-- The states of a record, where MAGIC, identifiers and CRC hold (R143). -/
def readStateRecord (id : StreamId) (npanel : Nat) (ws : List Word) : Option (List CodecCtx) :=
  let w0 := ws.getD 0 0
  let blocks := (ws.drop 2).take (184 * npanel)
  if fld 15 0 w0 = 0x5343 ∧ fld 47 32 w0 = id.job ∧ fld 63 48 w0 = id.stripe ∧ fld 79 64 w0 = id.segment ∧
      fld 30 30 w0 = b2n id.rev ∧ fld 28 24 w0 = npanel ∧
      fld 63 0 (ws.getD 1 0) = (crc64W (w0 :: blocks)).toNat then
    some ((List.range npanel).map fun p => CodecCtx.ofBlock ((blocks.drop (184 * p)).take 184))
  else none

/-! ### Extents (R144, R145) -/

/-- SPILL of extent `m`: bits of a code word begun in it that lie in the next (Table 5-6). -/
def spillOf (codes : List (Nat × Nat)) (m : Nat) : Nat :=
  let e := (1023 * (m + 1) - 1) * 128
  match codes.find? (fun c => c.1 < e && e < c.1 + c.2) with
  | some c => c.1 + c.2 - e
  | none => 0

/-- Extents a stream of `n` payload words takes. -/
def extentsFor (n : Nat) : Nat := (n + 1022) / 1023

/-- The 1,024 words of each extent of a stream, with their addresses. -/
def extentImages (e : Encoded) (addrs : List Nat) : List (Nat × List Word) :=
  addrs.zipIdx.map fun (am : Nat × Nat) =>
    let m := am.2
    let pay := (e.words.drop (1023 * m)).take 1023
    let last := m + 1 == addrs.length
    (am.1, pay ++ List.replicate (1023 - pay.length) 0 ++
      [packW [(0, 48, if last then 0 else addrs.getD (m + 1) 0), (48, 1, b2n last), (64, 32, 1023 * m),
        (96, 6, if last then 0 else spillOf e.codes m), (120, 8, 0xA5)]])

/-- The payload words of a chain read from memory; none on a chain fault. -/
def readChain : Nat → Mem → Nat → Nat → Option (List Word)
  | 0, _, _, _ => none
  | f + 1, m, a, sword =>
    let ws := m.words spLanding a 1024
    let t := ws.getD 1023 0
    if fld 127 120 t ≠ 0xA5 ∨ fld 95 64 t ≠ sword then none
    else if bitAt 48 t then some (ws.take 1023)
    else (readChain f m (fld 47 0 t) (sword + 1023)).map (ws.take 1023 ++ ·)

/-- The last word that is not 0, with the words before it: the end word of a stream whose last extent is
filled with 0 (R144). -/
def endSplit : List Word → Option (List Word × Word)
  | [] => none
  | w :: ws => match endSplit ws with
    | some (xs, e) => some (w :: xs, e)
    | none => if w = 0 then none else some ([], w)

/-- TAIL and ECRC of a stream's end word hold (Table 5-3). -/
def endWordOk (ws : List Word) : Bool :=
  match endSplit ws with
  | none => false
  | some (xs, e) => fld 63 48 e == 0x4543 && fld 127 64 e == (crc64W xs).toNat

/-! ### Decoding (R135, R146, R148) -/

/-- Bits still to read and bits read. -/
structure BitIn where
  rest : List Bool
  used : Nat
  eof  : BitVec 16        -- the status of a stream that ends too early

abbrev Dec := Except (BitVec 16)

def BitIn.bit (b : BitIn) : Dec (Bool × BitIn) :=
  match b.rest with
  | [] => .error b.eof
  | x :: xs => .ok (x, ⟨xs, b.used + 1, b.eof⟩)

def BitIn.bits : Nat → Nat → BitIn → Dec (Nat × BitIn)
  | 0, acc, b => .ok (acc, b)
  | n + 1, acc, b =>
    match b.bit with
    | .error e => .error e
    | .ok (x, b1) => BitIn.bits n (2 * acc + b2n x) b1

/-- Leading zeros, at most 32, then a 1. -/
def BitIn.zeros : Nat → Nat → BitIn → Dec (Nat × BitIn)
  | 0, _, _ => .error ST.codecStreamFormat
  | f + 1, z, b =>
    match b.bit with
    | .error e => .error e
    | .ok (true, b1) => .ok (z, b1)
    | .ok (false, b1) => BitIn.zeros f (z + 1) b1

/-- A code word of R131 with parameter `k`, at most `lim`. -/
def BitIn.gr (b : BitIn) (k lim : Nat) : Dec (Nat × BitIn) :=
  match BitIn.zeros 33 0 b with
  | .error e => .error e
  | .ok (z, b1) =>
    let r := if z < 32 then BitIn.bits k z b1 else BitIn.bits 17 0 b1
    match r with
    | .error e => .error e
    | .ok (m, b2) => if lim < m then .error ST.codecStreamFormat else .ok (m, b2)

def decodeInterrupt (s : CodecCtx) (a b : Nat) (i : BitIn) : Dec (Nat × CodecCtx × BitIn) :=
  let t := if a = b then 1 else 0
  let r := s.int t
  let k := r.k t
  match i.gr k 65536 with
  | .error e => .error e
  | .ok (em, i1) =>
    let tt := em + t
    let mag : Int := ((tt + 1) / 2 : Nat)
    let cond := k == 0 && decide (2 * r.rnn < r.rn)
    let neg := if tt % 2 = 1 then !cond else cond
    let neg := neg && mag != 0
    let e := if neg then -mag else mag
    let px : Int := if t = 1 then a else b
    let x := toU 16 (px + if t = 0 ∧ b < a then -e else e)
    .ok (x, s.setInt t (r.update t em neg), i1)

/-- The ones of a run from column `i`: the column reached, and whether the line ended. -/
def decodeOnes : Nat → Nat → CodecCtx → BitIn → Dec (Nat × Bool × CodecCtx × BitIn)
  | 0, _, _, _ => .error ST.codecStreamFormat
  | f + 1, i, s, b =>
    match b.bit with
    | .error e => .error e
    | .ok (false, b1) => .ok (i, false, s, b1)
    | .ok (true, b1) =>
      let n := 2 ^ s.j
      if n < 512 - i then decodeOnes f (i + n) s.runUp b1
      else if n = 512 - i then .ok (512, true, s.runUp, b1)
      else .ok (512, true, s, b1)

def fillTo (cur : Array Nat) (n v : Nat) : Array Nat := cur ++ Array.replicate (n - cur.size) v

/-- Columns from `cur.size` on. -/
def decodeCols : Nat → Bool → Above → Array Nat → CodecCtx → BitIn → Dec (Array Nat × CodecCtx × BitIn)
  | 0, _, _, cur, s, b => .ok (cur, s, b)
  | f + 1, first, u, cur, s, b =>
    let i := cur.size
    if 512 ≤ i then .ok (cur, s, b)
    else
      let (a, bb, c, d) := u.near cur i
      let q := contextOf a bb c d
      if !first && q.1 == 0 then
        match decodeOnes 513 i s b with
        | .error e => .error e
        | .ok (j, true, s1, b1) => .ok (fillTo cur j a, s1, b1)
        | .ok (j, false, s1, b1) =>
          match BitIn.bits s1.j 0 b1 with
          | .error e => .error e
          | .ok (rem, b2) =>
            if 512 ≤ j + rem then .error ST.codecStreamFormat
            else
              let cur1 := fillTo cur (j + rem) a
              match decodeInterrupt s1 a (u.row.getD (j + rem) 0) b2 with
              | .error e => .error e
              | .ok (x, s2, b3) => decodeCols f first u (cur1.push x) s2.runDown b3
      else
        let r := s.reg q.1
        let p := r.predict a bb c q.2
        match b.gr p.2.1 65535 with
        | .error e => .error e
        | .ok (m, b1) =>
          let e := unmapErr p.2.2 m
          decodeCols f first u (cur.push (toU 16 (p.1 + q.2 * e))) (s.setReg q.1 (r.update e)) b1

/-- Raw values of an escaped line. -/
def rawCols : Nat → Array Nat → BitIn → Dec (Array Nat × BitIn)
  | 0, cur, b => .ok (cur, b)
  | n + 1, cur, b =>
    match BitIn.bits 16 0 b with
    | .error e => .error e
    | .ok (x, b1) => rawCols n (cur.push x) b1

def decodeLine (first : Bool) (u : Above) (s : CodecCtx) (b : BitIn) : Dec (Array Nat × CodecCtx × BitIn) :=
  match b.bit with
  | .error e => .error e
  | .ok (false, b1) => decodeCols 513 first u #[] s b1
  | .ok (true, b1) =>
    match rawCols 512 #[] b1 with
    | .error e => .error e
    | .ok (cur, b2) => .ok (cur, (codeCols 513 first u cur 0 s).2, b2)

def decodeLines : Nat → Bool → Above → CodecCtx → BitIn → Dec (List (List Nat) × CodecCtx × BitIn)
  | 0, _, _, s, b => .ok ([], s, b)
  | n + 1, first, u, s, b =>
    match decodeLine first u s b with
    | .error e => .error e
    | .ok (x, s1, b1) =>
      match decodeLines n false ⟨x, u.row.getD 0 0⟩ s1 b1 with
      | .error e => .error e
      | .ok (xs, s2, b2) => .ok (x.toList :: xs, s2, b2)

def wordBits (w : Word) : List Bool := (List.range 128).map fun i => w.getLsbD i

/-- A decoded stream: its lines, the state after it, and the payload words it took. -/
structure Decoded where
  lines : List (List Nat)
  after : CodecCtx
  taken : Nat

/-- A panel stream decoded under the checks of Table 5-7 from its payload words. `rows` fixes ROWS for a
segment panel, whose chain of extents fails where it ends before the end word (R145); `size` is the declared
output size (R146). -/
def decodeBlock (id : StreamId) (rows : Option Nat) (size : Nat) (ws : List Word) (s : CodecCtx) : Dec Decoded :=
  let h := ws.getD 0 0
  let n := fld 95 80 h
  if h ≠ id.header n ∨ n = 0 ∨ rows.any (· != n) then .error ST.codecStreamFormat
  else if size < 1024 * n then .error ST.codecOverExpansion
  else
    let eof := if rows.isSome then ST.codecChain else ST.codecStreamFormat
    match decodeLines n true Above.zero s ⟨((ws.drop 1).map wordBits).flatten, 0, eof⟩ with
    | .error e => .error e
    | .ok (xs, s1, b) =>
      let body := 1 + (b.used + 127) / 128
      let pad := b.rest.take (128 * (body - 1) - b.used)
      let e := ws.getD body 0
      if ws.length ≤ body then .error eof
      else if fld 39 0 e ≠ b.used ∨ fld 63 48 e ≠ 0x4543 ∨ fld 47 40 e ≠ 0 ∨ pad.any (fun x => x) = true then
        .error ST.codecStreamFormat
      else if fld 127 64 e ≠ (crc64W (ws.take body)).toNat then .error ST.codecStreamCrc
      else .ok ⟨xs, s1, body + 1⟩

end Sys2Proof.Machine
end

