-- ==== Sys2Proof/Machine/MemOps.lean ====
section
/-!
DEFINITION. The memory controller's operations: channels and units, refresh bands, freeze and thaw (chapter
7).
-/

namespace Sys2Proof.Machine

def stackBase : Stack → Nat
  | .a => 0
  | .b => stackB

def stackNum : Stack → Nat
  | .a => 0
  | .b => 1

/-! ### Units and channels (R183, R196, R197) -/

/-- The 16 KiB unit of a stack that holds an address. -/
def unitOf (k : Stack) (a : Nat) : Nat := (a - stackBase k) / 16384

def StackCtl.chan (c : StackCtl) (n : Nat) : Chan := c.chans.getD n Chan.reset

def StackCtl.onChan (c : StackCtl) (n : Nat) (f : Chan → Chan) : StackCtl := { c with chans := c.chans.modify n f }

/-- Allocation avoids the units of a channel under retirement or suspect. -/
def Chan.avoided (c : Chan) : Bool := c.retiring || c.suspect

/-- Channels whose top range is closed: retired, under retirement or suspect. -/
def StackCtl.closed (c : StackCtl) : Nat := (c.chans.filter fun x => x.retired || x.avoided).length

/-- Bytes of a stack, and of one channel. -/
abbrev stackSize : Nat := 0x600000000
abbrev chanSize : Nat := 0x60000000

/-- The address lies in the closed top range. -/
def StackCtl.inTop (c : StackCtl) (k : Stack) (a : Nat) : Bool :=
  decide (stackSize - chanSize * c.closed ≤ a - stackBase k)

/-- The address lies in a range that retirement has made unbacked, or is emptying (R196, R198). -/
def StackCtl.unbacked (c : StackCtl) (k : Stack) (a : Nat) : Bool :=
  decide (stackSize - chanSize * c.order.length ≤ a - stackBase k)

/-- Units of a stack, and the first of the range that `n` retirements leave unbacked. -/
abbrev unitCount : Nat := 1572864
def firstUnbacked (n : Nat) : Nat := unitCount - 98304 * n

/-- The `i`-th unit of the range that the retirement of channel `x` newly makes unbacked, among those homed on
live channels; `older` are the channels retired before it (R196). -/
def liveTarget (x : Nat) (older : List Nat) (i : Nat) : Nat :=
  let live := (List.range 16).filter fun c => c != x && !older.contains c
  firstUnbacked (older.length + 1) + 16 * (i / live.length) + live.getD (i % live.length) 0

/-- The physical unit that backs a device-local unit once the channels of the list, the latest first, have been
retired (R196). A unit that an earlier retirement had moved onto channel `x` itself is backed by a unit that the new
range frees, both in ascending order; the manual does not name it (DESIGN CHOICE, log entry 57). -/
def backedBy : List Nat → Nat → Nat
  | [], u => u
  | x :: older, u =>
    let p := backedBy older u
    if u % 16 = x then liveTarget x older (u / 16)
    else if p % 16 ≠ x then p
    else
      let lo := firstUnbacked (older.length + 1)
      let moved := (List.range lo).filter fun v => v % 16 != x && backedBy older v % 16 == x
      let freed := ((List.range 98304).map (lo + ·)).filter fun v => older.contains (v % 16) && backedBy older v % 16 != x
      ((freed.map (backedBy older)).mergeSort).getD (moved.idxOf u) 0

/-- The physical unit that backs a unit at present: a unit in use stays until it has been copied (R198). -/
def StackCtl.backing (c : StackCtl) : List Nat → Nat → Nat
  | [], u => u
  | x :: older, u => if (c.chan x).unmoved.contains u then c.backing older u else backedBy (x :: older) u

/-- The channel that serves an address: that of the unit which backs it (R183, R184). -/
def StackCtl.channelOf (c : StackCtl) (k : Stack) (a : Nat) : Nat := c.backing c.order (unitOf k a) % 16

/-- The unit stands elsewhere than at home (R196). -/
def StackCtl.remapped (c : StackCtl) (k : Stack) (a : Nat) : Bool := c.backing c.order (unitOf k a) != unitOf k a

/-- A unit that the allocator may hand out: none homed on or backed by a channel that it avoids, none in the closed
range (R197, R198). -/
def State.unitOpen (s : State) (k : Stack) (a : Nat) : Bool :=
  let c := s.mc.stack k
  !(c.chan (unitOf k a % 16)).avoided && !(c.chan (c.channelOf k a)).avoided && !c.inTop k a

/-- A channel retires with no data to move: one that failed its training (R195). -/
def StackCtl.retireNow (c : StackCtl) (n : Nat) (step : TrainStep) : StackCtl :=
  if (c.chan n).retired then c
  else { c.onChan n fun h => { h with retired := true, retiring := false, suspect := false, unmoved := [], step := step } with
    order := n :: c.order.filter (· != n) }

/-- A MEM event: stack and channel, address (Table 17-6). -/
def memEvent (code : BitVec 16) (k : Stack) (ch addr d2 d3 : Nat) : Event :=
  { Event.of code with
    nodef := nodeF 28 (stackNum k) ch
    noder := nodeR (3 + stackNum k) 0 ch
    d0 := BitVec.ofNat 64 (stackNum k + 16 * ch)
    d1 := BitVec.ofNat 64 addr
    d2 := BitVec.ofNat 64 d2
    d3 := BitVec.ofNat 64 d3 }

/-! ### Refresh bands (R185 to R187) -/

/-- T_case, monitor point 9, and T_b = T_case + 20 °C, in units of 1/16 °C (R185, R463). -/
def State.tCase (s : State) : Int := signedOf 16 ((s.meas.mon.getD 9 0).toNat)
def State.tB (s : State) : Int := s.tCase + 320

/-- Upper limit of a band, 1/16 °C (Table 7-1). -/
def bandLimit : Nat → Int
  | 0 => 85 * 16
  | 1 => 95 * 16
  | 2 => 105 * 16
  | _ => 145 * 16

/-- The band whose range holds T_b. -/
def bandOf (t : Int) : Nat := if t ≤ bandLimit 0 then 0 else if t ≤ bandLimit 1 then 1 else if t ≤ bandLimit 2 then 2 else 3

/-- The band latched at an arm: within 2 °C of the limit, the next hotter one (R186). -/
def bandAtArm (t : Int) : Nat := if bandLimit (bandOf t) - 32 < t then min 3 (bandOf t + 1) else bandOf t

/-- t_REFI of a band in units of 0.1 ns, a quarter of a TIME cycle (Table 7-1). -/
def tRefi : Nat → Nat
  | 0 => 39000
  | 1 => 19500
  | 2 => 9750
  | _ => 6500

/-- Channels that are refreshed and powered: all but those removed at the last arm (R185, R199). -/
def StackCtl.served (c : StackCtl) : List Nat := (List.range 16).filter fun n => !c.removed.contains n

/-- For t_RFC = 350 ns after a refresh the stack takes no other command (R185). -/
def StackCtl.inRfc (c : StackCtl) (now : Nat) : Bool := c.refreshes != 0 && decide (4 * now < c.lastRefresh + 3500)

/-- Instant of a stack's next refresh, in 0.1 ns: stack A's at each t_REFI, stack B's t_REFI / 2 after that of A, or
at its own t_REFI while A is out of service (R185). -/
def MemCtl.refreshDue (m : MemCtl) (k : Stack) : Nat :=
  match k with
  | .a => m.stA.lastRefresh + tRefi m.stA.band
  | .b =>
    if m.stA.failed then m.stB.lastRefresh + tRefi m.stB.band
    else if m.stB.lastRefresh < m.stA.lastRefresh then m.stA.lastRefresh + tRefi m.stB.band / 2
    else m.stA.lastRefresh + tRefi m.stA.band + tRefi m.stB.band / 2

/-- The controller goes on at its nominal instants; after a pause of more than an interval it starts again from the
present (DESIGN CHOICE, log entry 58). -/
def StackCtl.refresh (c : StackCtl) (due now : Nat) : StackCtl :=
  { c with refreshes := c.refreshes + 1, lastRefresh := if due + tRefi c.band ≤ 4 * now then 4 * now else due }

def State.setBand (s : State) (b : Nat) : State :=
  s.onMc fun m => { m with stA := { m.stA with band := b }, stB := { m.stB with band := b } }

/-- Read and write timing of every channel is trained or re-centred (R195). -/
def State.centre (s : State) : State :=
  (s.onMc fun m => { m with stA := { m.stA with centredAt := s.now }, stB := { m.stB with centredAt := s.now } }).onPower
    fun p => { p with trainedAt := s.tCase }

/-- A band change with no stripe armed: firmware re-centres the timing, within 5 ms, here at once (R195; DESIGN
CHOICE, log entry 59). -/
def State.changeBand (s : State) (b : Nat) : State := (s.setBand b).centre

/-- The interval programmed when a stripe leaves ARMED, RUNNING or STOPPING above its latched band (R187). -/
def State.programBand (s : State) : State :=
  if s.mc.stA.band < bandOf s.tB then s.changeBand (bandOf s.tB) else s

/-! ### Trim coefficients that wait for idle (R358) -/

/-- Detail of the CAL group (Table 17-6): item or channel, results, and count with first beam. -/
def calEvent (code : BitVec 16) (item : Nat) (r1 r2 : Int) (d3 : Nat) : Event :=
  { Event.of code with
    d0 := BitVec.ofNat 64 item
    d1 := BitVec.ofNat 64 (toU 64 r1)
    d2 := BitVec.ofNat 64 (toU 64 r2)
    d3 := BitVec.ofNat 64 d3
    nodef := nodeF 16 0 0
    noder := nodeR 9 2 0 }

/-- A CAL event about a trim item. -/
def trimEvent (code : BitVec 16) (item : Nat) (r1 r2 : Int) : Event :=
  { calEvent code item r1 r2 0 with nodef := nodeF 15 3 item, noder := nodeR 9 1 item }

/-- Pending coefficients come into force; each is reported. -/
def State.applyTrims (s : State) : State :=
  let s1 := s.onMeas fun m => { m with items := m.items.map fun t => match t.pend with
    | some p => { t with coef := p.1, pend := none }
    | none => t }
  s.meas.items.zipIdx.foldl (fun (t : State) (p : Trim × Nat) => match p.1.pend with
    | some c => t.raise (trimEvent ST.calAccepted p.2 c.2.1 c.2.2)
    | none => t) s1

/-- Coupled runs that an arm aborted, or that waited, start at the entry to idle (R357). -/
def State.restartTrims (s : State) : State :=
  s.onMeas fun m => { m with items := m.items.map fun t =>
    if t.restart then { t with running := true, restart := false } else t }

/-- A controller or a fifth retirement puts a stack out of service (R199). -/
def State.stackFail (s : State) (k : Stack) : State :=
  if (s.mc.stack k).failed then s
  else (s.onMc fun m => m.onStack k fun c => { c with failed := true }).fault none
    { memEvent ST.memStackFailed k 0 0 0 0 with noder := nodeR (3 + stackNum k) 0 regionLogic }

/-- A channel has failed its training: retired with no data to move; a stack left with more than 4 such channels is
failed (R195). -/
def State.untrained (s : State) (k : Stack) (n : Nat) (step : TrainStep) : State :=
  let s1 := (s.onMc fun m => m.onStack k fun c => c.retireNow n step).setRState (nodeR (3 + stackNum k) 0 n) .retired
  if 4 < (s1.mc.stack k).order.length then s1.stackFail k else s1

end Sys2Proof.Machine
end

