-- ==== Sys2Proof/Machine/LandOps.lean ====
section
/-!
DEFINITION. Segments in the landing store: records, admission, unverifiable segments, the end of a
landing pass, refusal, and the space they take (chapter 6).
-/

namespace Sys2Proof.Machine

/-! ### Space (R159 to R162) -/

/-- Segment space of a stack (Table 6-1). -/
abbrev segBase : Nat := 0x32000000
abbrev segSize : Nat := 23776 * 2 ^ 20

def Panel.idle : Panel := ⟨.idle, 0, [], [], none, none, 0, 0, false, false, none, none⟩

def Panel.exts (p : Panel) : Stack → List Nat
  | .a => p.extA
  | .b => p.extB

def Seg.recAt (g : Seg) : Stack → Nat
  | .a => g.recA
  | .b => g.recB

/-- Extents a segment holds in a stack, its old landing included. -/
def Seg.extents (g : Seg) (k : Stack) : List Nat :=
  (g.panels.map (·.exts k)).flatten ++ (match g.old with
    | some (ps, _, _) => (ps.map (·.exts k)).flatten
    | none => [])

/-- Record blocks a segment holds in a stack. -/
def Seg.records (g : Seg) (k : Stack) : List Nat :=
  (if g.panels.isEmpty then [] else [g.recAt k]) ++ (match g.old with
    | some (_, ra, rb) => [match k with
        | .a => ra
        | .b => rb]
    | none => [])

def State.allExtents (s : State) (k : Stack) : List Nat :=
  ((s.jobs.stripes.map fun x => (x.segs.map fun g => g.extents k).flatten).flatten ++
    (s.land.testing.filter (·.1 == k)).map (·.2)) ++ (s.land.removed.filter (·.1 == k)).map (·.2)

def State.allRecords (s : State) (k : Stack) : List Nat :=
  (s.jobs.stripes.map fun x => (x.segs.map fun g => g.records k).flatten).flatten

def FactorMap.units (f : FactorMap) : Stack → List Nat
  | .a => f.unitsA
  | .b => f.unitsB

/-- Units of segment space that dose-factor maps hold in a stack (R108). -/
def State.mapUnits (s : State) (k : Stack) : List Nat :=
  (s.jobs.stripes.map fun x => (x.fmap.map (·.units k)).getD []).flatten

/-- Free segment space of a stack, reservations excluded (Table 6-4). -/
def State.freeSpace (s : State) (k : Stack) : Nat :=
  segSize - chanSize * (s.mc.stack k).removed.length - 16384 * ((s.allExtents k).length + (s.mapUnits k).length) -
    65536 * (s.allRecords k).length

/-- An address stands in segment space, aligned to its unit. -/
def inSegSpace (k : Stack) (a unit : Nat) : Bool :=
  decide (stackBase k + segBase ≤ a ∧ a + unit ≤ stackBase k + segBase + segSize ∧ a % unit = 0)

/-- Extents that may be handed out: free, in segment space, all different, clear of record blocks. -/
def State.extentsFree (s : State) (k : Stack) (as : List Nat) : Bool :=
  let used := s.allExtents k ++ s.mapUnits k
  let recs := s.allRecords k
  as.all (fun a => inSegSpace k a 16384 && s.unitOpen k a && !used.contains a &&
    !recs.contains (a / 65536 * 65536)) && decide as.Nodup

/-- A record block that may be handed out. -/
def State.recordFree (s : State) (k : Stack) (a : Nat) : Bool :=
  inSegSpace k a 65536 && ((List.range 4).all fun i => s.unitOpen k (a + 16384 * i)) && !(s.allRecords k).contains a &&
    !(s.allExtents k ++ s.mapUnits k).any (fun e => e / 65536 * 65536 == a)

/-! ### Dose-factor maps (R108) and capacity maps (R121) in the stacks -/

/-- The first `n` free units of a stack's segment space from address `a` on. The manual gives a map no place
(DESIGN CHOICE, log entry 43). -/
def State.freeUnits (s : State) (k : Stack) : Nat → Nat → Nat → List Nat
  | 0, _, _ => []
  | _, 0, _ => []
  | f + 1, n + 1, a =>
    if s.extentsFree k [a] then a :: State.freeUnits s k f n (a + 16384) else State.freeUnits s k f (n + 1) (a + 16384)

/-- Bytes of a dose-factor map of `n` segments: 64 n + 2 rows of 130 values. -/
def mapLen (n : Nat) : Nat := 260 * (64 * n + 2)

/-- Offset and length of a segment's share. The last share has the two rows beyond 64 n (DESIGN CHOICE, log
entry 43). -/
def shareSpan (n k : Nat) : Nat × Nat := (16640 * k, if k + 1 = n then 17160 else 16640)

/-- Bytes of a map that stands in units of segment space. -/
def unitBytes (m : Mem) (us : List Nat) (off n : Nat) : List Byte :=
  (List.range n).map fun i => readCell m.landing (us.getD ((off + i) / 16384) 0 + (off + i) % 16384)

/-- Bytes written over units of segment space. -/
def State.writeUnits (s : State) (bs : List Byte) (us : List Nat) : State :=
  us.zipIdx.foldl (fun t (u : Nat × Nat) => t.write spLanding u.1 ((bs.drop (16384 * u.2)).take 16384)) s

/-- Units for a stripe's map in both stacks: those it holds, or free ones; none while space is short. -/
def State.mapPlace (s : State) (x : Stripe) : Option (List Nat × List Nat) :=
  match x.fmap with
  | some f => some (f.unitsA, f.unitsB)
  | none =>
    let n := (mapLen x.nseg + 16383) / 16384
    let a := s.freeUnits .a (segSize / 16384) n segBase
    let b := s.freeUnits .b (segSize / 16384) n (stackB + segBase)
    if a.length = n ∧ b.length = n then some (a, b) else none

/-- The map stands in both stacks with the CRC-64 of each share. -/
def State.writeMap (s : State) (id : StripeId) (us : List Nat × List Nat) (n : Nat) (vals : List Nat) : State :=
  let bs := (vals.map (leBytes 2)).flatten
  let crcs := (List.range n).map fun k => crc64 ((bs.drop (shareSpan n k).1).take (shareSpan n k).2)
  ((s.writeUnits bs us.1).writeUnits bs us.2).onStripe id fun y => { y with fmap := some ⟨us.1, us.2, crcs⟩ }

/-- The values of a segment's share, from the first copy that its stack answers for and whose CRC holds. -/
def State.mapShare (s : State) (x : Stripe) (k : Nat) : Option (List Nat) :=
  match x.fmap with
  | none => none
  | some f =>
    let copy (c : Stack) : Option (List Byte) :=
      let bs := unitBytes s.mem (f.units c) (shareSpan x.nseg k).1 (shareSpan x.nseg k).2
      if s.stackReads c ∧ crc64 bs = f.crcs.getD k 0 then some bs else none
    ((copy .a).orElse fun _ => copy .b).map fun bs => (List.range (bs.length / 2)).map fun i =>
      leNat ((bs.drop (2 * i)).take 2)

/-- The shares that a segment's pixels interpolate from (R107). -/
def Stripe.sharesOf (x : Stripe) (k : Nat) : List Nat := if k + 1 < x.nseg then [k, k + 1] else [k]

/-- A segment can be composed: without a map, or with every share it needs good in a copy. -/
def State.mapGood (s : State) (x : Stripe) (k : Nat) : Bool :=
  !x.hdr.lrc || (x.sharesOf k).all fun j => (s.mapShare x j).isSome

/-- `F(a, b)` for the pixels of segment `k` (R106). -/
def State.mapValue (s : State) (x : Stripe) (k : Nat) : Int → Int → Nat :=
  let sh := (x.sharesOf k).map fun j => (s.mapShare x j).getD []
  fun a b =>
    let row := (b + 1).toNat
    let j := min (row / 64) (x.nseg - 1)
    (sh.getD (j - k) []).getD ((row - 64 * j) * 130 + (a + 1).toNat) 16384

/-- Both copies failed: the Canopy pass of the stripe runs again, and the pass that was reading goes on after it. -/
def State.mapLost (s : State) (id : StripeId) : State :=
  s.onStripe id fun y => { y with remap := true, canopy := .waiting }

/-- Capacity-map area of a stack, in pages of 8,192 bytes (Table 6-1). -/
abbrev capBase : Nat := 0x20000000

/-- Pages of the area that stripes hold. A map is released when its stripe is DONE or released. -/
def Jobs.capHeld (j : Jobs) : List Nat := (j.stripes.map fun x => if x.st = .done then [] else x.capPages).flatten

/-- The first free pages, ascending (DESIGN CHOICE, log entry 43). -/
def Jobs.capFree (j : Jobs) (n : Nat) : List Nat := ((List.range 8192).filter fun p => !j.capHeld.contains p).take n

/-- A capacity group's bytes written to the working copy and its mirror. -/
def State.writeCap (s : State) (page : Nat) (cols : List Nat) : State :=
  let bs := (cols.map (leBytes 1)).flatten
  (s.write spLanding (capBase + 8192 * page) bs).write spLanding (stackB + capBase + 8192 * page) bs

/-- All groups written. -/
def State.writeCaps (s : State) (pages : List Nat) (maps : List (List Nat)) : State :=
  (pages.zip maps).foldl (fun t (p : Nat × List Nat) => t.writeCap p.1 p.2) s

/-! ### Slots (R169) -/

/-- Slots are freed, and the decode lanes with them; READY and unfinished EXPOSING segments are ADMITTED again
(R169, Table 6-3). -/
def State.freeSlots (s : State) (id : StripeId) : State :=
  ((s.onLand fun l => { l with slots := l.slots.map fun t => match t with
      | some y => if y.st = id then none else some y
      | none => none }).onRender fun r => { r with
        decWork := r.decWork.map fun w => if w.any (·.st == id) then none else w }).onStripe id fun x =>
    { x with segs := x.segs.map fun g =>
        if g.lstate = .ready ∨ g.lstate = .exposing then { g with lstate := .admitted } else g }

/-- A slot of one segment is freed. -/
def State.freeSlot (s : State) (id : StripeId) (k : Nat) : State :=
  s.onLand fun l => { l with slots := l.slots.map fun t =>
    match t with
    | some y => if y.st = id ∧ y.seg = k then none else some y
    | none => none }

/-- A pending re-entry ends (R305): what was prepared for it leaves its slots. -/
def State.dropReentry (s : State) : State :=
  match s.play.reentry with
  | none => s
  | some e => (s.freeSlots e.run.st).onPlay fun p => { p with reentry := none }

/-- Exposure position from which a stripe's segments are prepared: that of the arm, or the candidate boundary of a
halted stripe that may re-enter (R169, R305). -/
def State.prepFrom (s : State) (x : Stripe) : Option Nat :=
  match x.st, s.play.reentry with
  | .halted, some e => if e.run.st = x.id then some e.candidate else none
  | _, _ => if x.st.active then some (x.pos x.kStart) else none

/-- Address of a row of a slot in a stack's play buffer (R203, Table 6-1). -/
def playRow (c : Stack) (slot row : Nat) : Nat := stackBase c + 0x24000000 + 0x4000000 * slot + 16384 * row

/-- The 8,192 values of a row, from copy A of the play buffer, or from copy B while stack A does not answer
(R174). -/
def State.slotRow (s : State) (slot row : Nat) : List Nat :=
  let c := if s.stackReads .a then Stack.a else .b
  (List.range 8192).map fun i => leNat (s.mem.bytes spLanding (playRow c slot row + 2 * i) 2)

/-- Rows written to a slot in both stacks. -/
def State.fillSlot (s : State) (slot : Nat) (rows : List (List Nat)) : State :=
  rows.zipIdx.foldl (fun t (r : List Nat × Nat) =>
    let bs := (r.1.map (leBytes 2)).flatten
    (t.write spLanding (playRow .a slot r.2) bs).write spLanding (playRow .b slot r.2) bs) s

/-- The space of a segment returns to the free pool (R26, Table 6-3). -/
def Seg.release (g : Seg) : Seg := { g with lstate := .none, panels := [], old := none, recA := 0, recB := 0 }

/-! ### The landing record (R165) -/

def Stripe.streamId (x : Stripe) (k p : Nat) : StreamId := ⟨p, x.rev, x.id.job.toNat, x.id.stripe.toNat, k⟩

/-- The 29 words of a landing record (Table 6-2). -/
def Stripe.landingRecord (x : Stripe) (k : Nat) (g : Seg) (copy : Nat) : List Word :=
  let pair (f : Nat → Nat) (w : Nat) : List Word :=
    (List.range 8).map fun i => packW [(0, w, f (2 * i)), (64, w, f (2 * i + 1))]
  let panel (p : Nat) : Panel := g.panels.getD p Panel.idle
  let ws := [packW [(0, 16, 0x4C52), (16, 8, 1), (24, 1, copy), (25, 1, b2n x.hdr.witness), (26, 1, b2n x.rev),
      (27, 1, b2n g.sdef), (32, 16, x.id.job.toNat), (48, 16, x.id.stripe.toNat), (64, 16, k)],
    packW [(0, 64, g.tland), (64, 40, g.ebytes)]] ++
    pair (fun p => (panel p).bsig.toNat) 64 ++ pair (fun p => (panel p).extA.headD 0) 48 ++
    pair (fun p => (panel p).extB.headD 0) 48 ++
    [packW [(0, 48, g.recA), (64, 48, g.recB)], packW [(0, 64, g.tadm), (64, 16, g.repairs)]]
  ws ++ [packW [(0, 64, (crc64W ws).toNat)]]

/-- Both landing records written. -/
def State.writeLanding (s : State) (id : StripeId) (k : Nat) : State :=
  match s.stripe? id, s.seg? id k with
  | some x, some g =>
    (s.write spLanding g.recA (wordsBytes (x.landingRecord k g 0))).write spLanding g.recB
      (wordsBytes (x.landingRecord k g 1))
  | _, _ => s

/-! ### Events of the landing store (Table 17-6) -/

/-- A MEM event about a segment: panel, copy, cause. -/
def segEvent (code : BitVec 16) (k panel copy cause d3 : Nat) : Event :=
  { Event.of code with
    segment := BitVec.ofNat 16 k
    nodef := nodeF 6 1 0
    noder := nodeR 2 5 regionLogic
    d0 := BitVec.ofNat 64 copy
    d2 := BitVec.ofNat 64 (panel + 16 * copy + 256 * cause)
    d3 := BitVec.ofNat 64 d3 }

/-- A JOB event of the raster side: SEQ and ring offset 0, tile, engine and panel. -/
def rasterEvent (code : BitVec 16) (k tile engine panel d3 : Nat) : Event :=
  { Event.of code with
    segment := BitVec.ofNat 16 k
    nodef := nodeF 3 0 engine
    noder := nodeR 1 2 engine
    d2 := BitVec.ofNat 64 (tile + 256 * engine + 65536 * panel)
    d3 := BitVec.ofNat 64 d3 }

/-! ### The landing pass ends (R181) -/

/-- A segment that no longer holds the pass open. -/
def Seg.settled (g : Seg) : Bool :=
  g.admittedOnce || g.lstate == .withheld || g.lstate == .witnessFailed || g.lstate == .unverifiable

/-- Tiles, lanes and the pass itself leave a stripe. -/
def Render.drop (r : Render) (id : StripeId) : Render :=
  { r with
    engines := r.engines.map fun e => if e.any (·.st == id) then none else e
    queue := r.queue.filter fun t => t.st != id
    canopy := if r.canopy = some id then none else r.canopy
    landSt := if r.landSt = some id then none else r.landSt
    encWork := r.encWork.map fun w => if w.any (·.st == id) then none else w
    decWork := r.decWork.map fun w => if w.any (·.st == id) then none else w
    arbs := r.arbs.filter fun a => a.2.st != id }

/-- LANDING_PASS_COMPLETE for a stripe that has started, every segment settled (R181). The host may reuse
its raster blocks from this event on (R66). -/
def State.landingDone (s : State) (id : StripeId) : State :=
  match s.stripe? id with
  | none => s
  | some x =>
    if x.started ∧ x.landing ≠ .complete ∧ x.segs.all Seg.settled = true then
      ((s.onStripe id fun y => { y with landing := .complete, fmap := none, remap := false }).onRender fun r =>
        { r with landSt := if r.landSt = some id then none else r.landSt }).raiseSt id
        { Event.of ST.stripeLanded with nodef := nodeF 6 1 0, noder := nodeR 2 5 regionLogic }
    else s

/-- A stripe goes to REFUSED: its landed segments are released, and a landing pass under way stops, which
completes it (R30, R181). `via` is the command that found it. -/
def State.refuse (s : State) (id : StripeId) (via : Option Src) (ev : Event) : State :=
  let under := ((s.stripe? id).map fun x => x.landing == .running || x.landing == .paused).getD false
  let s1 := ((s.freeSlots id).onStripe id fun y =>
    { y with st := .refused, landing := .complete, fmap := none, remap := false, segs := y.segs.map Seg.release }).onRender fun r =>
      r.drop id
  let s2 := s1.raiseVia via (some id.job) { ev with stripe := id.stripe, dry := s.dry id }
  if under then s2.raiseSt id
    { Event.of ST.stripeLanded with nodef := nodeF 6 1 0, noder := nodeR 2 5 regionLogic }
  else s2

/-! ### Admission (R167, R168) -/

/-- A segment is admitted: TADM stands in both records. -/
def State.admitSeg (s : State) (id : StripeId) (k : Nat) : State :=
  ((s.onSeg id k fun g => { g with lstate := .admitted, tadm := s.now, admittedOnce := true }).writeLanding id
    k).landingDone id

/-- Panels whose witness signature differs from the birth signature. -/
def witnessDiff (g : Seg) (w : Witness) : List Nat :=
  (List.range 16).filter fun p => w.sigs.getD p 0 != ((g.panels[p]?).map (·.bsig)).getD 0

/-- Arbitration of a segment's panels ends without an outcome. -/
def State.dropArbs (s : State) (id : StripeId) (k : Nat) : State :=
  (s.onRender fun r => { r with arbs := r.arbs.filter fun a => a.2.st != id || a.2.seg != k }).onSeg id k fun g =>
    { g with panels := g.panels.map fun p => { p with arb := false } }

/-- A sealed segment meets its witness, where both are there (R168). -/
def State.judgeWitness (s : State) (id : StripeId) (k : Nat) : State :=
  match s.stripe? id, s.seg? id k with
  | some x, some g =>
    if g.lstate ≠ .sealed then s
    else match x.witnesses.find? (·.seg == k) with
      | none => s
      | some w =>
        match witnessDiff g w with
        | [] => s.admitSeg id k
        | p :: ps =>
          (((s.dropArbs id k).onSeg id k fun g => { g with lstate := .witnessFailed }).faultSt id
            (segEvent ST.memWitnessMismatch k p 0 0 (((p :: ps).map (2 ^ ·)).sum))).landingDone id
  | _, _ => s

/-- The seal read-back passes: the signatures are sealed (R167). -/
def State.seal (s : State) (id : StripeId) (k : Nat) : State :=
  match s.stripe? id with
  | none => s
  | some x =>
    if x.hdr.witness then (s.onSeg id k fun g => { g with lstate := .sealed }).judgeWitness id k
    else s.admitSeg id k

end Sys2Proof.Machine
end

