-- ==== Sys2Proof/Machine/LinkOps.lean ====
section
/-!
DEFINITION. What the blanker links put on the wire and the operations on lanes that other families
share (chapter 12): CRC-16, control blocks, frames, management messages.
-/

namespace Sys2Proof.Machine

/-! ### CRC-16 (R258) -/

def crc16Bit (r : BitVec 16) (b : Bool) : BitVec 16 :=
  if r.getLsbD 15 != b then (r <<< 1) ^^^ 0x1021#16 else r <<< 1

/-- Bits in sent order into the register. -/
def crc16Bits (r : BitVec 16) (bs : List Bool) : BitVec 16 := bs.foldl crc16Bit r

/-- The `n` low bits of a number, most significant first. -/
def msbBits (n v : Nat) : List Bool := (List.range n).map fun i => v.testBit (n - 1 - i)

/-- CRC-16 over whole bytes, each most significant bit first. -/
def crc16 (bs : List Byte) : BitVec 16 := crc16Bits 0xFFFF (bs.map fun b => msbBits 8 b.toNat).flatten

/-! ### Blocks and frames (R307 to R309) -/

/-- A control block: BTYPE, bytes 1 to 29, CRC-16 low byte first (R308). -/
def ctlBlock (btype : Byte) (body : List Byte) : List Byte :=
  let b := ((btype :: body) ++ List.replicate 30 0).take 30
  b ++ leBytes 2 (crc16 b).toNat

def sofBlock (f g : Nat) (dry : Bool) (job stripe : BitVec 16) : List Byte :=
  ctlBlock 0x2D (leBytes 4 f ++ [BitVec.ofNat 8 g, BitVec.ofNat 8 (b2n dry)] ++ leBytes 2 job.toNat ++
    leBytes 2 stripe.toNat)

/-- MARKER of flash `f` at phase instant `m`. -/
def markerBlock (f m : Nat) (void : Bool) : List Byte :=
  ctlBlock 0x33 (leBytes 4 f ++ leBytes 3 (m / 64) ++ [BitVec.ofNat 8 (m % 64 + 64 * b2n void)])

def syncBlock (t : Nat) : List Byte := ctlBlock 0x4B (leBytes 8 t)

/-- IDLE: bytes 1 to 29 are 0 (Table 12-2). -/
def idleBlock : List Byte := ctlBlock 0x1E []

def trainBlock (preset : Nat) : List Byte := ctlBlock 0x66 [BitVec.ofNat 8 preset]

def killBlock (f : Nat) : List Byte := ctlBlock 0x78 (leBytes 4 f)

def mgmtBlock (mseq : BitVec 8) (first last : Bool) (data : List Byte) : List Byte :=
  ctlBlock 0x55 ([mseq, BitVec.ofNat 8 (b2n first + 2 * b2n last), BitVec.ofNat 8 data.length] ++ data)

/-- The payload bitstream of a group as a number: the code of in-group index j at bits 6j + 5 to 6j. -/
def payloadNat (g : Nat) (codes : List (Nat × Nat)) : Nat :=
  (codes.filter fun c => c.1 / 4096 = g).foldl (fun a c => a + c.2 % 64 * 2 ^ (6 * (c.1 % 4096))) 0

/-- The 194 words of the frame of group `g` (Table 12-1). -/
def frameWords (f g : Nat) (dry : Bool) (job stripe : BitVec 16) (fshift : BitVec 64)
    (codes : List (Nat × Nat)) : List Word :=
  let w0 := packW [(0, 40, f), (40, 6, g), (46, 1, b2n dry), (48, 16, job.toNat), (64, 64, fshift.toNat)]
  let p := payloadNat g codes
  let ws := w0 :: (List.range 192).map fun i => BitVec.ofNat 128 (p / 2 ^ (128 * i))
  ws ++ [packW [(0, 64, (crc64W ws).toNat), (64, 16, stripe.toNat), (112, 16, 0x4654)]]

/-- The CRC of a control block holds (R308). -/
def ctlGood (b : List Byte) : Bool := b.length == 32 && leNat (b.drop 30) == (crc16 (b.take 30)).toNat

/-- A data block of two frame words, the first in the low half of the body (R308). -/
def dataBlock (lane : Nat) (a b : Word) : Output := .data lane (leBytes 16 a.toNat ++ leBytes 16 b.toNat)

/-- The 96 payload blocks of a frame: W1 and W2 up to W191 and W192 (R309). -/
def payloadBlocks (lane : Nat) (ws : List Word) : List Output :=
  (List.range 96).map fun i => dataBlock lane (ws.getD (2 * i + 1) 0) (ws.getD (2 * i + 2) 0)

/-- The data block of W0 and W193 (R309). -/
def headBlock (lane : Nat) (ws : List Word) : Output := dataBlock lane (ws.getD 0 0) (ws.getD 193 0)

/-! ### The line code (R308) -/

/-- A block in the order it is sent: the sync bit H, then the body from bit 0 upward. -/
def blockBits (control : Bool) (body : List Byte) : List Bool :=
  control :: (body.map fun b => (List.range 8).map fun i => b.getLsbD i).flatten

/-- The self-synchronous scrambler 1 + x^39 + x^58: the state holds the 58 bits sent last, the newest in bit 0. -/
def scramble (st : BitVec 58) (b : Bool) : BitVec 58 × Bool :=
  let o := b ^^ st.getLsbD 38 ^^ st.getLsbD 57
  ((st <<< 1) ||| (if o then 1 else 0), o)

/-- The bits of a block as sent: H unscrambled, the body through the scrambler. -/
def scrambleBlock (st : BitVec 58) : List Bool → BitVec 58 × List Bool
  | [] => (st, [])
  | h :: bs =>
    let r := bs.foldl (fun (a : BitVec 58 × List Bool) b =>
      let z := scramble a.1 b
      (z.1, a.2 ++ [z.2])) (st, [])
    (r.1, h :: r.2)

/-- Gray mapping of a bit pair to a PAM4 level, the first bit the more significant. -/
def pam4 (a b : Bool) : Fin 4 :=
  match a, b with
  | false, false => 0
  | false, true => 1
  | true, true => 2
  | true, false => 3

/-- The symbols of a bit sequence of even length. -/
def symbols : List Bool → List (Fin 4)
  | a :: b :: rest => pam4 a b :: symbols rest
  | _ => []

/-! ### Lanes -/

def Link.lane (l : Link) (n : Nat) : Lane := l.lanes.getD n Lane.reset

def Link.onLane (l : Link) (n : Nat) (f : Lane → Lane) : Link := { l with lanes := l.lanes.modify n f }

def State.onLane (s : State) (n : Nat) (f : Lane → Lane) : State := s.onLink (·.onLane n f)

/-- The return lane that serves output lane `n` (R314). -/
def retOf (n : Nat) : Nat := n / 17

def Link.retUp (l : Link) (n : Nat) : Bool := (l.rets.getD (retOf n) RetLane.reset).lock

/-- A lane that is up: SPARE or CARRIER with its return lane up (Table 12-9, R324). -/
def Link.up (l : Link) (n : Nat) : Bool :=
  ((l.lane n).st == .spare || (l.lane n).st == .carrier) && !(l.lane n).testing && l.retUp n

/-- The management lane (R318). -/
def Link.mgmtLane (l : Link) : Option Nat := (List.range 68).find? l.up

/-- The pieces of a management message as MGMT blocks. -/
def mgmtPieces : Nat → BitVec 8 → Bool → List Byte → List (List Byte)
  | 0, _, _, _ => []
  | n + 1, q, first, bs =>
    mgmtBlock q first (bs.length ≤ 16) (bs.take 16) ::
      (if bs.length ≤ 16 then [] else mgmtPieces n (q + 1) false (bs.drop 16))

/-- A management message on a lane: its blocks are sent and its answer awaited (R318, Table 12-6). -/
def State.sendMgmt (s : State) (lane mtype : Nat) (body : List Byte) (tries : Nat) : State :=
  let l := s.link.lane lane
  let msg := [BitVec.ofNat 8 mtype, 0] ++ leBytes 2 body.length ++ body
  let ps := mgmtPieces (msg.length + 1) l.mseqTx true msg
  let s1 := s.emits (ps.map (.block lane))
  s1.onLink fun k =>
    let k1 := k.onLane lane fun x => { x with mseqTx := x.mseqTx + BitVec.ofNat 8 ps.length, rx := [] }
    { k1 with mgmt := k1.mgmt.filter (fun w => w.lane ≠ lane ∨ w.mtype ≠ mtype) ++
        [⟨lane, mtype, body, tries, s.now⟩] }

/-- Event detail of the LINK group (Table 17-6). -/
def linkEvent (code : BitVec 16) (lane d1 d2 d3 : Nat) : Event :=
  { Event.of code with
    nodef := nodeF 11 0 lane
    noder := nodeR 5 0 lane
    d0 := BitVec.ofNat 64 lane
    d1 := BitVec.ofNat 64 d1
    d2 := BitVec.ofNat 64 d2
    d3 := BitVec.ofNat 64 d3 }

/-- A training preset begins on a lane: TRAIN blocks alternate with scrambled IDLE for 2 ms (R319 step 2). -/
def State.trainPreset (s : State) (n p : Nat) : State :=
  (s.onLane n fun x => { x with step := 2, preset := p, stepAt := s.now }).emits [.block n (trainBlock p), .block n idleBlock]

/-- Bring-up, or the training of a lane test, begins: it waits for its return lane (R319). -/
def State.startTraining (s : State) (n : Nat) : State :=
  let s1 := s.onLane n fun x => { x with margins := [], preset := 0 }
  if s1.link.retUp n then s1.trainPreset n 0 else s1.onLane n fun x => { x with step := 1, stepAt := s.now }

/-- Every lane is down: the head departs (R321). -/
def State.headCheck (s : State) : State :=
  if s.link.head.isSome && (List.range 68).all (fun n => (s.link.lane n).st == .down || (s.link.lane n).st == .retired) then
    ((s.onLink fun l => { l with head := none, thermal := l.thermal.map fun c => { c with declared := false } }).onPlate
      fun p => { p with attached := none, step := 0 }).fault none (linkEvent ST.linkHeadDeparted 0 0 0 0)
  else s

/-- A lane is retired (R323, Table 12-9). -/
def State.retireLane (s : State) (n count : Nat) : State :=
  ((s.onLane n fun x => { x with st := .retired, testing := false, step := 0 }).fault none
    (linkEvent ST.linkLaneRetired n (retOf n) count 0)).headCheck

/-- A message on the management lane, where there is one. -/
def State.sendHead (s : State) (mtype : Nat) (body : List Byte) : State :=
  match s.link.mgmtLane with
  | some n => s.sendMgmt n mtype body 0
  | none => s

/-- Fields of the head's identity record (Table 12-8), 0 where no head is present. -/
def Link.headField (l : Link) (w hi lo : Nat) : Nat := fld hi lo (((l.head).getD []).getD w 0)

/-- A head is present: some lane's identity of PTYPE 0x01 is accepted (R321, R325). -/
def Link.headPresent (l : Link) : Bool :=
  l.head.isSome && l.headField 0 31 24 == 1 && (List.range 68).any l.up

end Sys2Proof.Machine
end

