-- ==== Sys2Proof/Machine/RepairOps.lean ====
section
/-!
DEFINITION. The repair manager's operations: the two trees, quarantine, unit faults and spares (R22,
R429 to R432).
-/

namespace Sys2Proof.Machine

/-! ### The two trees (R22, R429) -/

/-- Instances of a region (Table 18-1): a count, or the two ranges of region 7.1. -/
def instanceExists (i1 i2 i3 : Nat) : Bool :=
  match i1, i2 with
  | 1, 0 => i3 == 0
  | 1, 1 => i3 == 0
  | 1, 2 => decide (i3 < 34)
  | 1, 3 => decide (i3 < 2)
  | 1, 4 => decide (i3 < 18)
  | 2, 0 => decide (i3 < 18)
  | 2, 1 => i3 == 0
  | 2, 2 => decide (i3 < 2112)
  | 2, 3 => decide (i3 < 4160) || i3 == regionLogic
  | 2, 4 => decide (i3 < 8256) || i3 == regionLogic
  | 2, 5 => decide (i3 < 272) || i3 == regionLogic
  | 3, 0 => decide (i3 < 16)
  | 4, 0 => decide (i3 < 16)
  | 5, 0 => decide (i3 < 68)
  | 5, 1 => decide (i3 < 4)
  | 5, 2 => i3 == 0
  | 6, 0 => i3 == 0
  | 6, 1 => i3 == 0
  | 7, 0 => decide (i3 < 2)
  | 7, 1 => decide (i3 < 112) || i3 == regionLogic
  | 7, 2 => decide (i3 < 32)
  | 7, 3 => decide (i3 < 16)
  | 8, 0 => decide (i3 < 8)
  | 8, 1 => decide (i3 < 2)
  | 9, 0 => decide (i3 < 13)
  | 9, 1 => decide (i3 < 71)
  | 9, 2 => i3 == 0
  | 10, 0 => decide (i3 < 3)
  | 10, 1 => decide (i3 < 3)
  | 11, 0 => i3 == 0
  | 11, 1 => decide (i3 < 1024)
  | 12, 0 => decide (i3 < 2)
  | 13, 0 => decide (i3 < 2)
  | _, _ => false

/-- Regions with spares (Table 18-1). -/
def regionSpared (i1 i2 : Nat) : Bool :=
  match i1, i2 with
  | 1, 2 => true
  | 1, 4 => true
  | 2, 0 => true
  | 2, 2 => true
  | 2, 3 => true
  | 2, 4 => true
  | 2, 5 => true
  | 5, 0 => true
  | 7, 0 => true
  | 7, 1 => true
  | 11, 1 => true
  | _, _ => false

/-- The functional instance that pairs with a repair instance (the node tables of the chapters). -/
def funcOf (i1 i2 n : Nat) : BitVec 32 :=
  match i1, i2 with
  | 1, 0 => nodeF 1 0 0
  | 1, 1 => nodeF 2 0 0
  | 1, 2 => nodeF 3 0 n
  | 1, 3 => nodeF 4 0 n
  | 1, 4 => nodeF 5 0 n
  | 2, 0 => nodeF 5 1 n
  | 2, 1 => nodeF 7 1 0
  | 2, 2 => nodeF 7 2 n
  | 2, 3 => if n = regionLogic then nodeF 8 0 0 else nodeF 8 1 0
  | 2, 4 => if n = regionLogic then nodeF 9 2 0 else nodeF 9 1 0
  | 2, 5 => if n = regionLogic then nodeF 6 1 0 else nodeF 6 2 0
  | 3, _ => nodeF 28 0 n
  | 4, _ => nodeF 28 1 n
  | 5, 0 => nodeF 11 0 n
  | 5, 1 => nodeF 11 1 n
  | 5, 2 => nodeF 11 3 0
  | 6, 0 => nodeF 19 0 0
  | 6, 1 => nodeF 10 0 0
  | 7, 0 => nodeF 24 0 n
  | 7, 1 => if n < 48 then nodeF 17 0 n else nodeF 17 1 0
  | 7, 2 => nodeF 18 0 n
  | 7, 3 => nodeF 23 0 n
  | 8, 0 => if n < 6 then nodeF 12 0 n else nodeF 12 1 (n - 6)
  | 8, 1 => nodeF 13 0 n
  | 9, 0 => if n < 8 then nodeF 15 0 n else if n < 12 then nodeF 15 1 (n - 8) else nodeF 15 2 0
  | 9, 1 => nodeF 15 3 n
  | 9, 2 => nodeF 16 0 0
  | 10, 0 => nodeF 14 0 n
  | 10, 1 => nodeF 14 (1 + n) 0
  | 11, 0 => nodeF 25 0 0
  | 11, 1 => nodeF 22 1 0
  | 12, _ => nodeF 23 1 n
  | 13, _ => nodeF 19 1 n
  | _, _ => 0

/-- The repair instance a functional instance pairs with. -/
def repairOf (i1 i2 n : Nat) : BitVec 32 :=
  match i1, i2 with
  | 1, _ => nodeR 1 0 0
  | 2, _ => nodeR 1 1 0
  | 3, _ => nodeR 1 2 n
  | 4, _ => nodeR 1 3 n
  | 5, 0 => nodeR 1 4 n
  | 5, _ => nodeR 2 0 n
  | 6, 2 => nodeR 2 5 0
  | 6, _ => nodeR 2 5 regionLogic
  | 7, 2 => nodeR 2 2 n
  | 7, _ => nodeR 2 1 0
  | 8, 1 => nodeR 2 3 0
  | 8, _ => nodeR 2 3 regionLogic
  | 9, 2 => nodeR 2 4 regionLogic
  | 9, _ => nodeR 2 4 0
  | 10, _ => nodeR 6 1 0
  | 11, 0 => nodeR 5 0 n
  | 11, 1 => nodeR 5 1 n
  | 11, _ => nodeR 5 2 0
  | 12, 0 => nodeR 8 0 n
  | 12, _ => nodeR 8 0 (6 + n)
  | 13, _ => nodeR 8 1 n
  | 14, 0 => nodeR 10 0 n
  | 14, 4 => nodeR 10 0 n
  | 14, i => nodeR 10 1 (i - 1)
  | 15, 0 => nodeR 9 0 n
  | 15, 1 => nodeR 9 0 (8 + n)
  | 15, 2 => nodeR 9 0 12
  | 15, _ => nodeR 9 1 n
  | 16, _ => nodeR 9 2 0
  | 17, 0 => nodeR 7 1 n
  | 17, _ => nodeR 7 1 regionLogic
  | 18, _ => nodeR 7 2 n
  | 19, _ => nodeR 6 0 0
  | 22, _ => nodeR 11 1 0
  | 23, 0 => nodeR 7 3 n
  | 23, _ => nodeR 12 0 n
  | 24, _ => nodeR 7 0 n
  | 25, _ => nodeR 11 0 0
  | 28, 0 => nodeR 3 0 n
  | 28, _ => nodeR 4 0 n
  | _, _ => 0

def nodeTree (n : BitVec 32) : Bool := n.getLsbD 31
def nodeDepth (n : BitVec 32) : Nat := fld 30 29 n
def nodeI1 (n : BitVec 32) : Nat := fld 28 23 n
def nodeI2 (n : BitVec 32) : Nat := fld 22 15 n
def nodeI3 (n : BitVec 32) : Nat := fld 14 0 n

/-- The functional path of a repair instance. -/
def funcPath (r : BitVec 32) : BitVec 32 := funcOf (nodeI1 r) (nodeI2 r) (nodeI3 r)

/-- The repair instance that a depth-3 node of either tree names; none where no such node exists. -/
def instanceOf (n : BitVec 32) : Option (BitVec 32) :=
  if nodeDepth n ≠ 3 then none
  else
    let r := if nodeTree n then n else repairOf (nodeI1 n) (nodeI2 n) (nodeI3 n)
    if nodeTree r && instanceExists (nodeI1 r) (nodeI2 r) (nodeI3 r) then some r else none

/-! ### Events -/

/-- A REPAIR event: state and spare (Table 17-6). -/
def repairEvent (code : BitVec 16) (r : BitVec 32) (st : RState) (spare : BitVec 32) : Event :=
  { Event.of code with
    nodef := funcPath r
    noder := r
    d1 := BitVec.ofNat 64 st.code
    d2 := BitVec.ofNat 64 spare.toNat }

/-! ### Quarantine and unit faults (R430, R432) -/

/-- An instance in service leaves work at once, with the event given. -/
def State.quarantineWith (s : State) (r : BitVec 32) (ev : Event) : State :=
  if s.rstate r = .inService then
    (s.onRepairRec r fun x => { x with st := .quarantined, faultAt := some s.now }).fault none ev
  else s

/-- A fault that names quarantine: the instance leaves work at once. -/
def State.quarantine (s : State) (r : BitVec 32) : State :=
  s.quarantineWith r (repairEvent ST.repairQuarantined r .quarantined 0)

/-- A fault of a unit whose region has no spare: the second within 24 h makes it failed (R432). -/
def State.unitFault (s : State) (r : BitVec 32) : State :=
  let again := match (s.repairRec r).bind (·.faultAt) with
    | some t => decide (s.now - t < cycH 24)
    | none => false
  if s.rstate r = .failed then s
  else if again then s.onRepairRec r fun x => { x with st := .failed, faultAt := some s.now, selfTest := false }
  else (s.onRepairRec r fun x => { x with st := .quarantined, faultAt := some s.now, selfTest := true }).fault none
    (repairEvent ST.repairQuarantined r .quarantined 0)

/-- A unit without a spare has failed. -/
def State.unitFailed (s : State) (r : BitVec 32) : Bool := s.rstate r == .failed

/-! ### Spares (R98, R152, R431) -/

/-- Spares of a region, ascending, with the region's size. -/
def spareRange (i1 i2 : Nat) : List Nat :=
  match i1, i2 with
  | 1, 2 => List.range 34
  | 1, 4 => List.range 18
  | 2, 0 => List.range 18
  | 2, 2 => List.range 2112
  | 2, 3 => (List.range 64).map (· + 4096)
  | 2, 4 => (List.range 64).map (· + 8192)
  | 2, 5 => (List.range 16).map (· + 256)
  | 5, 0 => List.range 68
  | 7, 1 => (List.range 8).map (· + 104)
  | 11, 1 => (List.range 64).map (· + 960)
  | _, _ => []

/-- The first free spare of an instance's region. -/
def State.freeSpare (s : State) (r : BitVec 32) : Option (BitVec 32) :=
  (spareRange (nodeI1 r) (nodeI2 r)).findSome? fun n =>
    let c := nodeR (nodeI1 r) (nodeI2 r) n
    if s.rstate c = .spare then some c else none

/-- The instance that does the work of `r` now: the last of the spares put in its place. -/
def State.standIn (s : State) : Nat → BitVec 32 → BitVec 32
  | 0, r => r
  | n + 1, r => match (s.repairRec r).bind (·.by_) with
    | some c => State.standIn s n c
    | none => r

/-- An instance awaits a spare. A spare that failed in the pool was in no place that another could take. -/
def RepairRec.awaits (x : RepairRec) : Bool :=
  x.by_.isNone && (x.st == .quarantined || x.st == .suspect || (x.st == .failed && !x.pool))

/-- A spare takes the place of an instance, where one is free (R430, R431). -/
def State.assignSpare (s : State) (r : BitVec 32) : State :=
  match s.freeSpare r with
  | none => s
  | some c =>
    (((s.onRepairRec r fun x => { x with
        st := if x.st = .failed then .failed else .retired, by_ := some c, manualSpare := false }).onRepairRec c
      fun x => { x with st := .inService, by_ := none, pool := false }).raise) (repairEvent ST.repairSpared r .retired c)

/-- A write to sector `n` of the non-volatile store has failed its verify: the sector that stands in its place is
retired, and a spare sector takes over at once (Table 18-4, R431). -/
def State.sectorFails (s : State) (n : Nat) : State :=
  let r := s.standIn 64 (nodeR 11 1 n)
  (s.quarantine r).assignSpare r

/-- The sparing action of a region at its switch point: every instance that awaits a spare in automatic
sparing, those given to REPAIR.SPARE in manual sparing. -/
def State.spareRegion (s : State) (i1 i2 : Nat) : State :=
  let due := s.repair.recs.filter fun x => x.awaits && nodeI1 x.node == i1 && nodeI2 x.node == i2 &&
    regionSpared i1 i2 && (!s.repair.manual || x.manualSpare)
  due.foldl (fun t x => t.assignSpare x.node) s

/-- Instances of a region in service, ascending. -/
def State.inService (s : State) (i1 i2 count : Nat) : List Nat :=
  (List.range count).filter fun n => s.rstate (nodeR i1 i2 n) == .inService

/-- Active raster engines (R88), encode lanes and decode lanes (R149). -/
def State.engines (s : State) : List Nat := s.inService 1 2 34
def State.encLanes (s : State) : List Nat := s.inService 1 4 18
def State.decLanes (s : State) : List Nat := s.inService 2 0 18

/-- Panel `p` to the `p`-th active lane, lanes from the lowest up taking the rest (R149). -/
def bindLanes (lanes : List Nat) : List Nat :=
  if lanes.isEmpty then [] else (List.range 16).map fun p => lanes.getD (p % lanes.length) 0

/-! ### Dead beams (R231) -/

def GainTable.zero (t : GainTable) : List Nat := t.g.zipIdx.filterMap fun (g : Nat × Nat) => if g.1 = 0 then some g.2 else none

/-- The beams of a group: 8 beam rows. -/
def groupBeams (g : Nat) : List Nat := (List.range 4096).map (4096 * g + ·)

/-- The table an arm would latch. -/
def Beam.table (b : Beam) : Option GainTable := b.pendingT.orElse fun _ => b.activeT

/-- The dead-beam list as an arm now would latch it (R231). -/
def State.deadNow (s : State) : List Nat :=
  ((s.beam.table.map (·.zero)).getD [] ++ s.beam.stuckOff ++ s.beam.hostDead ++
    (s.beam.groupDead.map groupBeams).flatten).eraseDups

end Sys2Proof.Machine
end

