-- ==== Sys2Proof/Machine/Plate.lean ====
section
/-!
DEFINITION. The aperture plate: keys, attach, usage records and their commits, limits and service
tokens (R243 to R252), and the PLATE commands.
-/

namespace Sys2Proof.Machine

/-! ### Keys (R244) -/

def keyBytes (k : BitVec 256) : List Byte := leBytes 32 k.toNat

/-- S_p of a plate under the plate family key. -/
def plateSecret (m : BitVec 256) (plate : BitVec 64) : List Byte :=
  hmac (keyBytes m) (ascii "ARVK-PLATE" ++ leBytes 8 plate.toNat)

def keyD (m : BitVec 256) (plate : BitVec 64) : List Byte :=
  hmac (keyBytes Config.deviceSecret) (ascii "ARVK-USE-D" ++ leBytes 8 plate.toNat ++ plateSecret m plate)

def keyP (m : BitVec 256) (plate : BitVec 64) : List Byte := hmac (plateSecret m plate) (ascii "ARVK-USE-P")

/-! ### Records (Tables 9-2 and 9-4) -/

/-- W0 to W34 of a usage record, written by the module `dev`. -/
def Usage.words (u : Usage) (dev : BitVec 64) : List Word :=
  [packW [(0, 16, 0x5552), (16, 8, 1), (32, 32, u.seq), (64, 32, u.tserial)],
   packW [(0, 64, u.plate.toNat), (64, 64, dev.toNat)],
   packW [(0, 64, u.flashes), (64, 64, u.tlast)]] ++
  (List.range 32).map fun i => packW [(0, 64, u.on.getD (2 * i) 0), (64, 64, u.on.getD (2 * i + 1) 0)]

/-- The 624 bytes of a usage record with both tags (Table 9-4). -/
def Usage.record (u : Usage) (m : BitVec 256) (dev : BitVec 64) : List Byte :=
  let body := wordsBytes (u.words dev)
  body ++ hmac (keyD m u.plate) body ++ hmac (keyP m u.plate) body

/-- A usage record read from the plate's mirror. -/
def usageOf (ws : List Word) : Usage :=
  let w (i : Nat) : Word := ws.getD i 0
  { plate := BitVec.ofNat 64 (fld 63 0 (w 1))
    seq := fld 63 32 (w 0)
    tserial := fld 95 64 (w 0)
    tlast := fld 127 64 (w 2)
    flashes := fld 63 0 (w 2)
    on := (List.range 64).map fun r => fld (64 * (r % 2) + 63) (64 * (r % 2)) (w (3 + r / 2)) }

/-- The mirror's MAGIC, VERSION, plate and TAG_P hold. -/
def mirrorOk (m : BitVec 256) (plate : BitVec 64) (bs : List Byte) : Bool :=
  let ws := bytesWords 39 bs
  fld 15 0 (ws.getD 0 0) == 0x5552 && fld 23 16 (ws.getD 0 0) == 1 &&
    (usageOf ws).plate == plate && (bs.drop 592).take 32 == hmac (keyP m plate) (bs.take 560)

/-- Fields merged by the greater value (R249). -/
def Usage.merge (a b : Usage) : Usage :=
  { a with
    tserial := max a.tserial b.tserial
    tlast := max a.tlast b.tlast
    flashes := max a.flashes b.flashes
    on := (List.range 64).map fun r => max (a.on.getD r 0) (b.on.getD r 0) }

/-! ### Events and limits -/

/-- Event detail of the PLATE group (Table 17-6). -/
def plateEvent (code : BitVec 16) (u : Usage) (limit : Nat) : Event :=
  { Event.of code with
    nodef := nodeF 22 0 0
    noder := nodeR 11 1 0
    d0 := u.plate
    d1 := BitVec.ofNat 64 u.flashes
    d2 := BitVec.ofNat 64 limit
    d3 := BitVec.ofNat 64 u.tserial }

def Plate.warnFlash (p : Plate) : Nat := fld 63 0 (p.idBlock.getD 1 0)
def Plate.warnOn (p : Plate) : Nat := fld 63 0 (p.idBlock.getD 2 0)

/-- Limits crossed: 0 for FLASHES, 1 + r for region r. -/
def crossed (u : Usage) (lf lo : Nat) : List Nat :=
  (if lf ≤ u.flashes then [0] else []) ++ ((List.range 64).filter fun r => lo ≤ u.on.getD r 0).map (· + 1)

/-- The comparison made at every commit and at attach (R251). -/
def State.plateLimits (s : State) : State :=
  let p := s.plate
  let warn := (crossed p.usage p.warnFlash p.warnOn).filter fun i => !p.warned.contains i
  let hard := crossed p.usage p.hardFlash p.hardOn
  let s1 := warn.foldl (fun t i => t.raise (plateEvent ST.plateEolWarn p.usage
    (if i = 0 then p.warnFlash else p.warnOn))) s
  let s2 := if hard ≠ [] ∧ !p.eol then
      s1.raise (plateEvent ST.plateEol p.usage (if hard.headD 0 = 0 then p.hardFlash else p.hardOn))
    else s1
  s2.onPlate fun q => { q with warned := q.warned ++ warn, eol := !hard.isEmpty }

/-- The plate's record put into the plate-usage store. The store stands in the order of the records' last commits, so
at 256 plates the first is dropped, the one unattached for longest (R250). -/
def State.putRecord (s : State) : State :=
  let p := s.plate
  let rest := p.store.filter fun x => x.usage.plate ≠ p.usage.plate
  let r : StoreRec := ⟨p.usage, p.hardFlash, p.hardOn, p.refused⟩
  match rest with
  | o :: more =>
    if rest.length < 256 then s.onPlate fun q => { q with store := rest ++ [r] }
    else (s.onPlate fun q => { q with store := more ++ [r] }).raise (plateEvent ST.plateStoreEvict o.usage 0)
  | [] => s.onPlate fun q => { q with store := [r] }

/-- The write to the store. Whether the non-volatile write verifies is free; where it fails the record stays in SRAM
for the next commit, and the store's sector takes a spare (Table 9-7). The store stands in sector 2 (DESIGN
CHOICE, log entry 54). -/
def State.storePlate (s : State) : State :=
  let t := s.draw
  if Config.nvWrite s.fresh then t.putRecord
  else
    (t.sectorFails 2).fault none { plateEvent ST.plateStore t.plate.usage 0 with
      nodef := nodeF 22 1 0, noder := t.standIn 64 (nodeR 11 1 2) }

/-- A commit: SEQ rises by 1, the record goes to the store and then to the plate's mirror (R248). In a
failover it waits for the new active Marshal (R438). Counts that are owed to a plate whose head has gone go to the
store; its mirror cannot be written (R250). -/
def State.plateCommit (s : State) : State :=
  match s.plate.keyM with
  | none => s
  | some m =>
    if s.plate.attached.isNone && s.plate.sinceCommit == 0 then s
    else if s.ref.failover && !s.ref.safe then s.onPlate fun p => { p with dirty := true }
    else
      let s1 := (s.onPlate fun p => { p with
        usage := { p.usage with seq := p.usage.seq + 1, tlast := s.now }, sinceCommit := 0, dirty := false }).storePlate
      if s.plate.attached.isSome then (s1.sendHead 0x06 (s1.plate.usage.record m Config.serial)).plateLimits
      else s1.fault none (plateEvent ST.plateMirror s1.plate.usage 0)

/-! ### Attach (R246, R249, R250) -/

/-- Step 1 of attach: the ID block is read. -/
def State.plateStart (s : State) : State :=
  (s.sendHead 0x03 []).onPlate fun p => { p with step := 1, stepAt := s.now, attached := none }

/-- A failed step: not attached (R246). -/
def State.plateFail (s : State) (code : BitVec 16) : State :=
  (s.onPlate fun p => { p with step := 0, attached := none }).fault none (plateEvent code s.plate.usage 0)

/-- The ID block's MAGIC, VERSION and reserved bits hold (R245). -/
def idBlockOk (ws : List Word) : Bool :=
  let w0 : Word := ws.getD 0 0
  ws.length == 4 && fld 15 0 w0 == 0x4950 && fld 23 16 w0 == 1 && fld 31 24 w0 == 0 && fld 63 48 w0 == 0 &&
    ws.getD 3 0 == 0

/-- The usage record attach starts from, and the event it raises (R249). -/
def reconcile (m : BitVec 256) (plate : BitVec 64) (stored : Option StoreRec) (mirror : List Byte) :
    Usage × Option (BitVec 16) × Bool :=
  let mu := usageOf (bytesWords 39 mirror)
  match stored, mirrorOk m plate mirror with
  | some r, true =>
    if r.usage.seq = mu.seq then
      if r.usage = mu then (mu, none, false) else (r.usage.merge mu, some ST.plateRecordMerged, false)
    else if r.usage.seq < mu.seq then (mu, none, false) else (r.usage, none, false)
  | some r, false => (r.usage, some ST.plateMirror, false)
  | none, true => (mu, none, false)
  | none, false =>
    let z := { Usage.zero with plate := plate }
    if leNat (mirror.take 2) = 0 then (z, none, false) else (z, some ST.plateRecord, true)

/-- Steps 4 and 5: the mirror is reconciled, the plate attached, a commit made (R246 to R250). Counts still owed to
the plate attached before are committed first. -/
def State.plateAttach (s : State) (m : BitVec 256) (mirror : List Byte) : State :=
  let s := s.plateCommit
  let p := s.plate
  let plate := BitVec.ofNat 64 (fld 127 64 (p.idBlock.getD 0 0))
  let stored := p.store.find? fun r => r.usage.plate == plate
  let (u, ev, refused) := reconcile m plate stored mirror
  let owed := p.unclean.contains plate
  let u1 := if owed then { u with
      flashes := u.flashes + 2 ^ 22, on := u.on.map (· + 2 ^ 22 * 63 * 4096) } else u
  let s1 := s.onPlate fun q => { q with
    step := 0
    attached := some plate
    usage := u1
    hardFlash := (stored.map (·.hardFlash)).getD (fld 127 64 (q.idBlock.getD 1 0))
    hardOn := (stored.map (·.hardOn)).getD (fld 127 64 (q.idBlock.getD 2 0))
    warned := []
    eol := false
    refused := refused || (stored.map (·.refused)).getD false
    unclean := q.unclean.filter (· ≠ plate) }
  let s2 := match ev with
    | some c => s1.fault none (plateEvent c u1 0)
    | none => s1
  let s3 := s2.plateCommit
  s3.raise (plateEvent ST.plateAttached s3.plate.usage s3.plate.hardFlash)

/-- An answer of the plate on the management channel (Table 9-3, Table 12-6). -/
def State.plateReply (s : State) (mtype : Nat) (body : List Byte) : State :=
  let p := s.plate
  if mtype = 0x06 then
    if body.headD 1 = 0 then s else s.fault none (plateEvent ST.plateMirror p.usage 0)
  else if mtype = 0x03 ∧ p.step = 1 then
    let ws := bytesWords 4 body
    if p.keyM.isNone then s.plateFail ST.plateUnprovisioned
    else if body.length = 64 ∧ idBlockOk ws then
      let n := Config.nonce s.fresh
      ((s.onPlate fun q => { q with idBlock := ws, nonce := n, step := 3, stepAt := s.now }).sendHead 0x04
        (wordBytes n)).draw
    else s.plateFail ST.plateAuth
  else if mtype = 0x04 ∧ p.step = 3 then
    match p.keyM with
    | some m =>
      let plate := BitVec.ofNat 64 (fld 127 64 (p.idBlock.getD 0 0))
      if body = hmac (plateSecret m plate) (ascii "ARVK-CR" ++ wordBytes p.nonce ++ wordsBytes p.idBlock) then
        (s.onPlate fun q => { q with step := 4, stepAt := s.now }).sendHead 0x05 []
      else s.plateFail ST.plateAuth
    | none => s.plateFail ST.plateUnprovisioned
  else if mtype = 0x05 ∧ p.step = 4 then
    match p.keyM with
    | some m => s.plateAttach m body
    | none => s.plateFail ST.plateUnprovisioned
  else s

/-- PLATE_ATTACH_TIMEOUT: a step of attach overruns its bound (Table 9-3). -/
def execPlateAttachTimeout (s : State) : Answer :=
  let p := s.plate
  let bound := if p.step = 1 then cycMs 2 else if p.step = 3 then cycMs 10 else cycMs 5
  .next (if p.step ≠ 0 ∧ p.stepAt + bound ≤ s.now then s.plateFail ST.plateAuth else s)

/-! ### Commands -/

/-- PLATE.PROVISION: each key once (R243). -/
def execPlateProvision (src : Src) (svc : Bool) (key : BitVec 256) (s : State) : Answer :=
  .next (s.command src
    [(if svc then s.plate.keySvc.isNone else s.plate.keyM.isNone, ST.plateProvisioned)] fun s =>
    (s.onPlate fun p => if svc then { p with keySvc := some key } else { p with keyM := some key }).ok src [])

/-- A service token's acceptance (R252). -/
def Plate.tokenOk (p : Plate) (t : TokenRec) : Bool :=
  match p.keySvc, p.attached with
  | some k, some plate =>
    fld 15 0 t.w0 == 0x5354 && fld 23 16 t.w0 == 1 && fld 63 0 t.w1 == plate.toNat &&
      fld 127 64 t.w1 == Config.serial.toNat && p.usage.tserial < fld 95 64 t.w0 &&
      keyBytes t.tag == hmac (keyBytes k) (wordsBytes [t.w0, t.w1, t.w2, t.w3])
  | _, _ => false

/-- An accepted token takes effect (R252). -/
def State.applyToken (s : State) (t : TokenRec) : State :=
  let reseed := fld 24 24 t.w0 = 1
  let s1 := s.onPlate fun p => { p with
    hardFlash := fld 63 0 t.w2
    hardOn := fld 127 64 t.w2
    refused := if reseed then false else p.refused
    eol := false
    usage := { p.usage with
      tserial := fld 95 64 t.w0
      flashes := if reseed then fld 63 0 t.w3 else p.usage.flashes
      on := if reseed then List.replicate 64 (fld 127 64 t.w3) else p.usage.on } }
  s1.plateCommit

/-- PLATE.TOKEN. -/
def execPlateToken (src : Src) (t : TokenRec) (s : State) : Answer :=
  .next (s.command src
    [(s.plate.attached.isSome, ST.plateNone), (s.plate.tokenOk t, ST.plateToken)] fun s =>
    (s.applyToken t).ok src [])

/-- PLATE.STATUS: ID block, adopted record without tags, effective limits. -/
def execPlateStatus (src : Src) (s : State) : Answer :=
  .next (s.command src [(s.plate.attached.isSome, ST.plateNone)] fun s =>
    s.ok src (s.plate.idBlock ++ s.plate.usage.words Config.serial ++
      [packW [(0, 64, s.plate.hardFlash), (64, 64, s.plate.hardOn)]]))

end Sys2Proof.Machine
end

