-- ==== Sys2Proof/Machine/Time.lean ====
section
/-!
DEFINITION. The time base and network time (chapter 16): domains, the servo, the domain switch, and
the time commands and events.
-/

namespace Sys2Proof.Machine

/-- Event detail of the TIME group (Table 17-6). -/
def timeEvent (code : BitVec 16) (d : Nat) (e0 : Int) (ctr absorb : Nat) : Event :=
  { Event.of code with
    nodef := nodeF 19 1 d
    noder := nodeR 6 0 0
    d0 := BitVec.ofNat 64 d
    d1 := BitVec.ofNat 64 (toU 64 e0)
    d2 := BitVec.ofNat 64 ctr
    d3 := BitVec.ofNat 64 absorb }

/-- The selection that R404 asks for now. -/
def TimeBase.wantSel (b : TimeBase) : BitVec 1 :=
  if b.mode = 0 then 0
  else if b.mode = 1 then 1
  else if !(b.dom b.sel).good && (b.dom (b.sel + 1)).good then b.sel + 1
  else b.sel

/-- Expected absorption time in ns of a slew residue (R402). -/
def absorbNs (e0 : Int) (slew : Nat) : Nat :=
  if slew = 0 then 0 else e0.natAbs * 10 ^ 6 / (slew * 2 ^ 16)

/-- A change of the selection, device time going on without a step (R402, R404). -/
def State.selectDomain (s : State) (y : BitVec 1) : State :=
  if y = s.time.sel then s
  else
    let b := s.time
    let e0 : Int := if b.initial then 0 else b.device b.ctr - ((b.dom y).at b.ctr : Int)
    (s.onTime fun t => { t with sel := y, e0 := e0, t0 := t.ctr }).raise
      (timeEvent ST.timeSwitch y.toNat e0 b.ctr (absorbNs e0 b.slew.toNat))

/-- The end of initial device time (R403). -/
def State.initialStep (s : State) : State :=
  if s.time.initial && (s.time.dom s.time.sel).good then
    (s.onTime fun t => { t with initial := false, e0 := 0, t0 := t.ctr }).raise
      { timeEvent ST.timeInitialStep s.time.sel.toNat 0 s.now 0 with
        d1 := BitVec.ofNat 64 (toU 64 (s.time.device s.now / 2 ^ 16))
        d3 := BitVec.ofNat 64 ((s.time.dom s.time.sel).at s.now / 2 ^ 16) }
  else s

/-- The selection and initial time after any change of a domain or of the mode. -/
def State.reselect (s : State) : State := (s.selectDomain s.time.wantSel).initialStep

/-- A domain's value or rate changes at this counter value (R396); where it is the selected domain,
device time does not step (R402). -/
def State.setDomain (s : State) (d : BitVec 1) (step : Int) (rate : Int) : State :=
  let b := s.time
  let t := b.ctr
  let v := toU 80 (((b.dom d).at t : Int) + step)
  let b1 := b.onDom d fun x => { x with value := v, anchor := t, rate := rate }
  s.onTime fun _ =>
    if d = b.sel && !b.initial && step ≠ 0 then { b1 with e0 := b.device t - (v : Int), t0 := t } else b1

def DomSt.following : DomSt → Bool
  | .acquiring | .locked | .degraded => true
  | _ => false

/-- A new domain state (Table 16-3). -/
def State.domTo (s : State) (d : BitVec 1) (st : DomSt) : State :=
  s.onTime fun t => t.onDom d fun x => { x with
    st := st
    inTol := 0
    outTol := 0
    goodSince := if st = .locked then (if x.st = .locked then x.goodSince else some t.ctr) else none }

/-- The domain returns to UNLOCKED with V, A and r at 0 (Table 16-3). -/
def State.domUnlock (s : State) (d : BitVec 1) : State :=
  let b := s.time
  let b1 := b.onDom d fun x => { x with
    st := .unlocked, value := 0, anchor := 0, rate := 0, inTol := 0, outTol := 0, goodSince := none, master := none }
  s.onTime fun _ =>
    if d = b.sel && !b.initial then { b1 with e0 := b.device b.ctr - ((b1.dom d).at b.ctr : Int), t0 := b.ctr }
    else b1

/-- ACQUIRING, LOCKED and DEGRADED go to HOLDOVER, the rate frozen (Table 16-3); the selection follows once
every domain that changes at this counter value has changed (R404). -/
def State.domLost (s : State) (d : BitVec 1) : State :=
  if (s.time.dom d).st.following then
    (s.domTo d .holdover).fault none (timeEvent ST.timeMasterLost d.toNat 0 s.now 0)
  else s

/-- Largest rate word, ±500 ppm (R395). -/
abbrev rateMax : Int := 549755814

/-- One offset measured by the servo (R399, Table 16-3). Units of the offset: 2^-16 ns. -/
def State.servo (s : State) (d : BitVec 1) (off : Int) : State :=
  let x := s.time.dom d
  let aoff := off.natAbs
  let s1 := s.onTime fun t => t.onDom d fun x => { x with
    syncs := satInc 24 x.syncs
    offset := clampI (-2 ^ 31) (2 ^ 31 - 1) (off / 2 ^ 16) }
  let s2 :=
    if x.cfg.stepthr.toNat * 2 ^ 16 < aoff then s1.setDomain d (-off) x.rate
    else
      let want := Config.servoRate off x.rate s.fresh
      let r := clampI (-rateMax) rateMax want
      let s2 := (s1.setDomain d 0 r).draw
      if want ≠ r then (s2.domTo d .degraded).fault none (timeEvent ST.timeRateLimit d.toNat 0 s.now 0) else s2
  let inTol := if aoff ≤ x.cfg.locktol.toNat * 2 ^ 16 then x.inTol + 1 else 0
  let outTol := if x.cfg.degtol.toNat * 2 ^ 16 < aoff then x.outTol + 1 else 0
  let s3 := s2.onTime fun t => t.onDom d fun y => { y with inTol := inTol, outTol := outTol }
  let y := s3.time.dom d
  let s4 :=
    match y.st with
    | .acquiring =>
      if 16 ≤ inTol then (s3.domTo d .locked).raise (timeEvent ST.timeLocked d.toNat 0 s.now 0) else s3
    | .locked =>
      if 8 ≤ outTol then (s3.domTo d .degraded).fault none (timeEvent ST.timeDegraded d.toNat 0 s.now 0) else s3
    | .degraded =>
      if 16 ≤ inTol ∧ y.clockClass ≤ y.cfg.classmax then
        (s3.domTo d .locked).raise (timeEvent ST.timeLocked d.toNat 0 s.now 0)
      else s3
    | _ => s3
  s4.reselect

/-- The receive time of a message, in domain time (Table 16-4, R401): −24.8 ns is 62 counter cycles and
−221.6 ns is 554. -/
def Domain.recvTime (x : Domain) (ctr : Nat) (rsFec : Bool) : Int :=
  x.at (ctr - (if rsFec then 554 else 62))

/-- The transmit time of a message: +18.4 ns is 46 counter cycles and +96.0 ns is 240. -/
def Domain.sendTime (x : Domain) (ctr : Nat) : Int := x.at (ctr + if x.rsFec then 240 else 46)

/-- An Announce: master selection (clause 9.3 of the standard gives `better`) and the class rule. -/
def State.announce (s : State) (d : BitVec 1) (m : PtpMsg) : State :=
  let x := s.time.dom d
  let take := x.st == .unlocked || x.st == .holdover || x.master == some m.master || m.better
  if !take then s
  else
    let s1 := s.onTime fun t => t.onDom d fun x => { x with
      master := some m.master, lastAnnounce := t.ctr, annInterval := signedOf 8 m.logInterval.toNat, clockClass := m.clockClass }
    let changed := x.master.isSome && x.master != some m.master
    let s2 :=
      if changed then (s1.domTo d .acquiring).raise (timeEvent ST.timeMasterChanged d.toNat 0 s.now 0)
      else if x.st == .unlocked || x.st == .holdover then s1.domTo d .acquiring
      else if x.st == .locked && x.cfg.classmax.toNat < m.clockClass.toNat then
        (s1.domTo d .degraded).fault none (timeEvent ST.timeDegraded d.toNat 0 s.now 0)
      else s1
    s2.reselect

/-- `t2 - t1` with the corrections of the standard, delayAsymmetry included. -/
def ptpT1t2 (m : PtpMsg) (x : Domain) (t2 corr : Int) : Int :=
  t2 - m.originTs.toNat - corr - signedOf 64 m.correction.toNat - signedOf 32 x.cfg.asym.toNat

/-- A PTP message for a domain, from its port and its selected master. -/
def State.ptpFor (s : State) (d : BitVec 1) (m : PtpMsg) : State :=
  let x := s.time.dom d
  let s := s.onTime fun t => t.onDom d fun x => { x with rsFec := m.rsFec }
  let mine := x.master == some m.master && x.st.following
  let t2 := x.recvTime s.now m.rsFec
  match m.kind with
  | .announce => s.announce d m
  | .sync =>
    if !mine then s
    else if m.twoStep then
      s.onTime fun t => t.onDom d fun x => { x with syncT2 := some (t2.toNat, signedOf 64 m.correction.toNat) }
    else
      let v := ptpT1t2 m x t2 0
      (s.onTime fun t => t.onDom d fun x => { x with t1t2 := v }).servo d (v - x.pathDelay)
  | .followUp =>
    match mine, x.syncT2 with
    | true, some (r, c) =>
      let v := ptpT1t2 m x r c
      (s.onTime fun t => t.onDom d fun x => { x with t1t2 := v, syncT2 := none }).servo d (v - x.pathDelay)
    | _, _ => s
  | .delayResp =>
    match mine && !x.cfg.delaymech, x.delayT3 with
    | true, some t3 =>
      let t3t4 : Int := (m.originTs.toNat : Int) - t3 - signedOf 64 m.correction.toNat + signedOf 32 x.cfg.asym.toNat
      s.onTime fun t => t.onDom d fun x => { x with
        pathDelay := (x.t1t2 + t3t4) / 2, delayT3 := none, reqInterval := clampI (-7) 4 (signedOf 8 m.logInterval.toNat) }
    | _, _ => s
  | .pdelayResp =>
    match x.cfg.delaymech, x.delayT3 with
    | true, some t3 =>
      s.onTime fun t => t.onDom d fun x => { x with
        pathDelay := (t2 - t3 - m.originTs.toNat - signedOf 64 m.correction.toNat) / 2
        delayT3 := none
        reqInterval := clampI (-7) 4 (signedOf 8 m.logInterval.toNat) }
    | _, _ => s
  | .other => s

/-- The domain follows the port and transport and has the domainNumber of the message. -/
def Domain.hears (x : Domain) (p : NetPort) (m : PtpMsg) : Bool :=
  x.cfg.port == p && x.cfg.domnum == m.domain && x.cfg.transport == m.transport

/-- PTP_MESSAGE_RECEIVE: a message on NET-A or NET-B (R396, R397, R399 to R404). -/
def execPtpMessageReceive (p : NetPort) (m : PtpMsg) (s : State) : Answer :=
  let s1 := s.onTime fun t => match p with
    | .netA => { t with netA := true }
    | .netB => { t with netB := true }
  if m.kind = .other then .next (s1.onTime fun t => { t with ignored := t.ignored + 1 })
  else
    let s2 := if s1.time.domA.hears p m then s1.ptpFor 0 m else s1
    .next (if s2.time.domB.hears p m then s2.ptpFor 1 m else s2)

/-- The interval of `2^k` seconds in counter cycles. -/
def pow2s (k : Int) : Nat := if 0 ≤ k then cycS (2 ^ k.toNat) else cycS 1 / 2 ^ (-k).toNat

/-- DELAY_REQ_SEND: a Delay_Req or Pdelay_Req at the master's interval, its transmit time kept (R397,
R400). -/
def execDelayReqSend (d : BitVec 1) (s : State) : Answer :=
  let x := s.time.dom d
  let due := match x.lastReq with
    | some t => decide (t + pow2s x.reqInterval ≤ s.now)
    | none => true
  let up := match x.cfg.port with
    | .netA => s.time.netA
    | .netB => s.time.netB
  if x.st.following && due && up then
    .next ((s.onTime fun t => t.onDom d fun x => { x with
      delayT3 := some (x.sendTime t.ctr).toNat, lastReq := some t.ctr }).emit (.delayReq x.cfg.port s.now))
  else .next s

/-- ANNOUNCE_TIMEOUT: no Announce for ANNTO of the master's intervals (R397, Table 16-3). -/
def execAnnounceTimeout (d : BitVec 1) (s : State) : Answer :=
  let x := s.time.dom d
  .next (if x.lastAnnounce + x.cfg.annto.toNat * pow2s x.annInterval ≤ s.now then (s.domLost d).reselect else s)

/-- DOMAIN_REVERT: back to PREF after it has been good for 60 s (R404). -/
def execDomainRevert (s : State) : Answer :=
  let b := s.time
  let ripe := match (b.dom b.pref).goodSince with
    | some t => decide (t + cycS 60 ≤ b.ctr)
    | none => false
  .next (if b.mode == 2 && b.revert && b.sel != b.pref && ripe then (s.selectDomain b.pref).initialStep else s)

/-- The domains on a port lose their master (Table 16-3). -/
def State.netDown (s : State) (p : NetPort) : State :=
  let s1 := s.onTime fun t => match p with
    | .netA => { t with netA := false }
    | .netB => { t with netB := false }
  let s2 := if s1.time.domA.cfg.port = p then s1.domLost 0 else s1
  if s2.time.domB.cfg.port = p then s2.domLost 1 else s2

/-- NET_PORT_DOWN (R399): the state after every change decides the selection (R404). -/
def execNetPortDown (p : NetPort) (s : State) : Answer := .next (s.netDown p).reselect

/-- Fields of a domain record in range (Table 16-2, Table 16-1 on domainNumber). -/
def domainRecOk (r : DomainRec) (other : DomainRec) : Bool :=
  r.domnum != other.domnum && 2 ≤ r.annto.toNat && 1 ≤ r.locktol.toNat && r.locktol.toNat ≤ 10 ^ 6 &&
  r.locktol.toNat ≤ r.degtol.toNat && r.degtol.toNat ≤ 10 ^ 9 &&
  1000 ≤ r.stepthr.toNat && r.stepthr.toNat ≤ 10 ^ 9

/-- A new domain record (R398). -/
def State.loadDomain (s : State) (d : BitVec 1) (r : DomainRec) : State :=
  let o := (s.time.dom d).cfg
  let s1 := s.onTime fun t => t.onDom d fun x => { x with cfg := r }
  if r.domnum = o.domnum ∧ r.port = o.port ∧ r.transport = o.transport ∧ r.delaymech = o.delaymech then s1
  else (s1.domUnlock d).reselect

/-- TIME.DOMAIN (R398). -/
def execTimeDomain (src : Src) (d : BitVec 1) (r : DomainRec) (s : State) : Answer :=
  .next (s.command src [(domainRecOk r (s.time.dom (d + 1)).cfg, ST.timeConfig)] fun s =>
    (s.loadDomain d r).ok src [])

/-- The selection mode and its parameters take effect (R404). -/
def State.applySelect (s : State) (mode : BitVec 2) (pref : BitVec 1) (rev : Bool) (slew : BitVec 8) : State :=
  (s.onTime fun t =>
    { t with e0 := if t.initial then t.e0 else t.resid t.ctr, t0 := t.ctr, mode := mode, pref := pref, revert := rev, slew := slew, deferred := none }).reselect

/-- TIME.SELECT: held while a stripe is ARMED, RUNNING or STOPPING (R404, R405). -/
def execTimeSelect (src : Src) (mode : BitVec 2) (pref : BitVec 1) (rev : Bool) (slew : BitVec 8)
    (s : State) : Answer :=
  .next (s.command src [(mode.toNat ≤ 2 && 1 ≤ slew.toNat && slew.toNat ≤ 50, ST.timeConfig)] fun s =>
    if s.active?.isSome then
      (s.onTime fun t => { t with deferred := some (mode, pref, rev, slew) }).respond src ST.ok 0 true []
    else (s.applySelect mode pref rev slew).ok src [])

/-- A held TIME.SELECT takes effect when no stripe is ARMED, RUNNING or STOPPING (R405). -/
def State.releaseSelect (s : State) : State :=
  match s.active?, s.time.deferred with
  | none, some (m, p, r, w) => s.applySelect m p r w
  | _, _ => s

def DomSt.code : DomSt → Nat
  | .unlocked => 0
  | .acquiring => 1
  | .locked => 2
  | .degraded => 3
  | .holdover => 4

/-- TIME.DOM[d] (Table 16-7). -/
def Domain.reg (x : Domain) : Nat :=
  x.st.code + x.syncs % 2 ^ 24 * 2 ^ 8 + toU 32 x.offset * 2 ^ 32

/-- The time registers in the order of Table 16-6, at the current counter value. -/
def TimeBase.regs (b : TimeBase) : List Nat :=
  [b.ctr, (b.stampAt b.ctr 0).toNat, b.selReg.toNat,
   toU 64 (clampI (-2 ^ 63) (2 ^ 63 - 1) (if b.initial then 0 else b.resid b.ctr)),
   b.domA.reg, toU 64 b.domA.rate, b.domB.reg, toU 64 b.domB.rate]

/-- TIME.STATUS: the time registers and the selected grandmasters (R408). -/
def execTimeStatus (src : Src) (s : State) : Answer :=
  .next (s.ok src (layoutBody 0x0C03 (s.time.regs ++
    [((s.time.domA.master).getD 0).toNat, ((s.time.domB.master).getD 0).toNat])))

/-- TSNAP_CTR_READ: a read that includes byte 0 latches counter, stamp and selection for the reading
port (R488); before the counter runs it is 0 and the stamp carries UNLOCKED (R458). -/
def execTsnapCtrRead (p : Port) (byte0 : Bool) (s : State) : Answer :=
  .next (if byte0 then
    s.onPort p fun q => { q with
      tsCtr := BitVec.ofNat 64 s.now
      tsStamp := s.time.stampAt s.now 0
      tsSel := s.time.selReg }
  else s)

end Sys2Proof.Machine
end

