-- ==== Sys2Proof/Machine/Run.lean ====
section
/-!
DEFINITION. The run of a stripe: placing a flash, its codes and repairs, fixing and firing it, drains
and halts, the ledger, and the row clock of re-entry (chapters 8, 9, 11 and 18).
-/

namespace Sys2Proof.Machine

/-! ### Positions and predictions (R266, R270, R282) -/


/-- T_min in TIME cycles, latched at the arm (R150, R232). -/
def Stripe.tmin (x : Stripe) : Nat := (x.latched.map (·.tmin)).getD 625

/-- X(n) of R282. -/
def Run.rowPos (r : Run) (g : Nat) (n : Int) : Nat := toU 48 (r.yref + r.sense * 64 * g * n)

def AxisS.posInvalid (a : AxisS) : Bool := a.st == .settling && a.window.isEmpty

/-- The prediction is stale: older than HORIZON ticks (R266). -/
def AxisS.stale (a : AxisS) (c : AxisRec) (treq now : Nat) : Bool := decide (c.horizon.toNat * treq < now - a.t)

/-- The prediction at a phase instant (R266, R284, R288). -/
def AxisS.predict (a : AxisS) (m : Int) : Nat := toU 48 (a.x + rdiv (a.v * (m - 64 * a.t)) 4194304)

/-- F_q of a run: the first flash of the segment at exposure position `q` (R283). -/
def Run.flashAt (r : Run) (q : Nat) : Int := r.f0 + 4096 * q

/-- Exposure positions whose first flash is placed before flash `f`: the first that is not (R299). -/
def Run.nextPos (r : Run) (f : Nat) : Nat := max r.qs (((f : Int) - r.f0 + 4095) / 4096).toNat

/-- The last flash of a run that ends at exposure position `b`. -/
def Run.lastAt (r : Run) (b : Nat) : Int := r.f0 + 4096 * b + 8175

/-- The exposure position at which the run ends: its boundary or N. -/
def Run.endPos (r : Run) (x : Stripe) : Nat := r.boundary.getD x.nseg

inductive Eval where
  | overspeed (cycles : Int)
  | missed
  | wait
  | place (m : Nat)
  deriving DecidableEq, Repr

/-- `evaluate` of R284 for the step at position `xn`. -/
def evaluate (a : AxisS) (sense : Int) (xn tmin : Nat) (mPrev : Option Nat) (now : Nat) : Eval :=
  let m0 : Int := match mPrev with
    | some p => max p (64 * now)
    | none => 64 * now
  let d := sense * wrap48 (xn - a.predict m0)
  let vs := sense * a.v
  if d ≤ 0 then
    match mPrev with
    | some p => if m0 - p < 64 * tmin then .overspeed ((m0 - p) / 64) else .missed
    | none => .missed
  else if vs ≤ 0 then .wait
  else
    let m := m0 + rdiv (4194304 * d) vs
    match mPrev with
    | some p => if m - p < 64 * tmin then .overspeed ((m - p) / 64) else .place m.toNat
    | none => .place m.toNat

/-! ### Stop causes (R298 to R301, Table 11-8) -/

/-- Causes of rank 1 to 11 are halts (Table 11-8). -/
def Cause.isHalt (c : Cause) : Bool := c.rank ≤ 11

/-- Causes marked *stage* do not apply in the loopback target. -/
def stageRank (rank : Nat) : Bool := (5 ≤ rank && rank ≤ 9) || rank == 16 || rank == 17

/-- Causes stand in rank order. -/
def addCause (c : Cause) : List Cause → List Cause
  | [] => [c]
  | d :: ds => if c.rank < d.rank then c :: d :: ds else d :: addCause c ds

/-- f_h of a halt cause detected now: the lowest flash whose marker is not sent by t + 16 (R298). -/
def Run.haltFlash (r : Run) (t : Nat) : Nat :=
  match r.fix with
  | some (m, _) => if m < 64 * (t + 16) then r.next + 1 else r.next
  | none => r.next

/-- The run of a stripe that is RUNNING or STOPPING. -/
def State.run? (s : State) : Option (Run × Stripe) :=
  s.play.run.bind fun r => (s.stripe? r.st).bind fun x =>
    if x.st = .running ∨ x.st = .stopping then some (r, x) else none

/-- A cause of Table 11-8. In a run it is kept until the halt or the next placement resolves it; outside
a run its status is raised at once, and a pending re-entry ends (R305). -/
def State.stopCause (s : State) (rank : Nat) (ev : Option Event) (boundary : Option Nat) : State :=
  match s.run? with
  | some (r, x) =>
    if stageRank rank && x.target == 2 then
      match ev with
      | some e => s.faultSt r.st e
      | none => s
    else
      let halt : Option (Nat × Nat) :=
        if rank ≤ 11 then
          match r.halt with
          | some h => some (min h.1 (r.haltFlash s.now), h.2)
          | none => some (r.haltFlash s.now, s.now)
        else r.halt
      let reOk := if r.halt.isSome then r.reentryOk else s.pacer.policy.getLsbD 41
      s.onPlay fun p => { p with run := some { r with
        causes := addCause ⟨rank, ev, boundary⟩ r.causes, halt := halt, reentryOk := reOk } }
  | none =>
    let s1 := s.dropReentry
    match ev with
    | some e => s1.fault none e
    | none => s1

/-- Detail of a STRIPE event (Table 17-6): flash and boundary. -/
def stripeEvent (code : BitVec 16) (flash : Int) (boundary : Option Nat) : Event :=
  { Event.of code with
    nodef := nodeF 10 0 0
    noder := nodeR 6 1 0
    d0 := BitVec.ofNat 64 (toU 64 flash)
    d1 := BitVec.ofNat 64 (boundary.getD 0xFFFF) }

/-- A cause's status, with flash and boundary where it belongs to the STRIPE group (R301). -/
def State.raiseCause (s : State) (id : StripeId) (flash : Int) (boundary : Option Nat) (c : Cause) : State :=
  match c.ev with
  | none => s
  | some e =>
    if e.code.toNat / 256 = 3 then
      s.faultSt id { e with d0 := BitVec.ofNat 64 (toU 64 flash), d1 := BitVec.ofNat 64 (boundary.getD 0xFFFF) }
    else s.faultSt id e

/-! ### Permit (R434) -/

/-- No permit block is set (Table 18-5). -/
def State.noBlock (s : State) : Bool :=
  s.beam.stuckOn.isEmpty && !s.link.tripBlock && !s.link.dryBlock && !s.ref.safe

/-- A beams-target stripe is RUNNING or STOPPING, or a gain run fires frames (R434). -/
def State.firing (s : State) : Bool :=
  (match s.run? with
    | some (_, x) => x.target == 0
    | none => false) || s.meas.gain.isSome

def State.permitHolds (s : State) : Bool := s.ref.permitIn && s.firing && s.noBlock

/-- PERMIT_OUT drops where a condition of R434 has ceased to hold. -/
def State.permitCheck (s : State) : State :=
  if s.ref.permitOut && !s.permitHolds then s.onRef fun r => { r with permitOut := false } else s

/-! ### The ledger (R302, R303, R443, Tables 18-10 and 18-11) -/

def SegOutcome.code : SegOutcome → Nat
  | .notStarted => 0
  | .complete => 1
  | .partly => 2
  | .blanked => 3
  | .beamFault => 4

/-- Offset of the record log and of the annex in each stack: the last 24 MiB of the journal area. -/
abbrev ledgerBase : Nat := 0x30800000
abbrev annexBase : Nat := 0x31800000

/-- An annex word (Table 18-11). -/
def annexWord (sFrom sTo cFrom cTo mask : Nat) (kind : Bool) (seg : Nat) : Word :=
  packW [(0, 28, sFrom), (28, 28, sTo), (56, 13, cFrom), (69, 13, cTo), (82, 16, mask), (98, 1, b2n kind),
    (112, 16, seg)]

/-- One rectangle for each class that holds an irreparable pixel (R223). -/
def irrepRects (seg : Nat) (px : List (Nat × Nat)) : List Word :=
  (List.range 16).filterMap fun j =>
    match px.filter fun p => p.2 % 16 = j with
    | [] => none
    | p :: ps => some (annexWord (ps.foldl (fun a q => min a q.1) p.1) (ps.foldl (fun a q => max a q.1) p.1)
        (ps.foldl (fun a q => min a q.2) p.2) (ps.foldl (fun a q => max a q.2) p.2) (2 ^ j) false seg)

/-- Full-width rectangle of partly exposed exposure rows `e1` to `e2` (R303). -/
def partRect (x : Stripe) (seg : Nat) (e1 e2 : Nat) : List Word :=
  if e1 ≤ e2 then
    let a := gridRow x.rev x.nseg e1
    let b := gridRow x.rev x.nseg e2
    [annexWord (min a b) (max a b) 0 8191 0xFFFF true seg]
  else []

/-- Words written to both copies of a journal area ring. -/
def State.journalWrite (s : State) (off : Nat) (ws : List Word) : State :=
  (s.write spLanding off (wordsBytes ws)).write spLanding (stackB + off) (wordsBytes ws)

/-- Annex words appended to the annex ring. -/
def State.annexPut (s : State) : List Word → State
  | [] => s
  | w :: ws =>
    State.annexPut ((s.journalWrite (annexBase + 16 * (s.ledger.annexCount % 524288)) [w]).onLedger fun l =>
      { l with annex := l.annex ++ [w], annexCount := l.annexCount + 1 }) ws

/-- A record appended to the record log. -/
def State.recordPut (s : State) (ws : List Word) : State :=
  (s.journalWrite (ledgerBase + 64 * (s.ledger.count % 262144)) ws).onLedger fun l =>
    { l with recs := l.recs ++ [ws], count := l.count + 1 }

/-- What a ledger record says of a segment's flashes: first, last and first blanked flash. -/
structure Exposure where
  outcome : SegOutcome
  first : Option Int
  last : Option Int
  blank : Option Int
  parts : List Word
  deriving DecidableEq, Repr

/-- The ledger record of the segment at exposure position `q` (Table 18-10), and its annex words. -/
def State.recordSeg (s : State) (x : Stripe) (r : Run) (q : Nat) (e : Exposure) : State :=
  let k := x.pos q
  match x.seg? k with
  | none => s
  | some g =>
    let rects := (irrepRects k g.irrepPx ++ e.parts).take 17
    let off (o : Option Int) : Nat := match o, e.first with
      | some v, some f => (v - f).toNat
      | _, _ => 0x3FFF
    let w0 := packW [(0, 16, x.id.job.toNat), (16, 16, x.id.stripe.toNat), (32, 16, k), (48, 3, e.outcome.code),
      (51, 1, b2n (x.target != 0)), (52, 1, b2n (q == r.qs && x.carried)), (53, 1, b2n (q == r.qs)),
      (54, 1, b2n x.rev), (56, 8, r.runNo),
      (64, 64, match e.first with
        | some f => toU 64 f
        | none => 2 ^ 64 - 1)]
    let w1 := packW [(0, 14, match e.first with
        | some _ => off e.last
        | none => 0), (14, 14, off e.blank),
      (32, 48, if e.first.isSome then g.spos else 0), (80, 32, (x.latched.map (·.gen)).getD 0)]
    let w2 := packW [(0, 32, g.deficits), (32, 32, g.repaired), (64, 32, g.irrepPx.length),
      (96, 8, rects.length), (104, 19, s.ledger.annexCount % 524288)]
    let st := s.fwStamp
    let crc := crc64 (wordsBytes [w0, w1, w2] ++ leBytes 8 st.toNat)
    let s1 := (s.annexPut rects).recordPut [w0, w1, w2, packW [(0, 64, st.toNat), (64, 64, crc.toNat)]]
    (s1.onSeg x.id k fun y => { y with outcome := e.outcome }).draw

/-- A segment all of whose flashes were placed live (Table 11-10). -/
def liveExposure (x : Stripe) (r : Run) (q : Nat) : Exposure :=
  let f := r.flashAt q
  let k := x.pos q
  let late := r.laneBlank.filter fun b => b.2 < 4096 * (q + 1)
  match late with
  | b :: bs =>
    let e0 := bs.foldl (fun a c => min a c.2) b.2
    ⟨.partly, some f, some (f + 12271), some (r.f0 + max e0 (4096 * q)), []⟩
  | [] =>
    if ((x.seg? k).map fun g => g.irrepPx.isEmpty).getD true then ⟨.complete, some f, some (f + 12271), none, []⟩
    else ⟨.beamFault, some f, some (f + 12271), none, []⟩

/-- A segment that a halt at `fh` cut short, with its partly exposed rows (R303). -/
def haltExposure (x : Stripe) (r : Run) (fh q : Nat) : Exposure :=
  let n : Int := (fh : Int) - r.f0
  let e1 := max (4096 * q : Int) (n - 8176)
  let e2 := min (4096 * q + 4095 : Int) (n - 1)
  ⟨.partly, some (r.flashAt q), some ((fh : Int) - 1), some fh,
    if e1 ≤ e2 then partRect x (x.pos q) e1.toNat e2.toNat else []⟩

def noExposure (o : SegOutcome) : Exposure := ⟨o, none, none, none, []⟩

/-- Records of the run from the first not yet written, for the positions a predicate gives. -/
def State.recordRange (s : State) (id : StripeId) (r : Run) (f : Stripe → Nat → Exposure) : List Nat → State
  | [] => s
  | q :: qs =>
    match s.stripe? id with
    | some x => State.recordRange (s.recordSeg x r q (f x q)) id r f qs
    | none => s

/-- Numbers from `a` to `b - 1`. -/
def upto (a b : Nat) : List Nat := (List.range (b - a)).map (· + a)

/-! ### Flash contents (R209, R217, R220 to R224, R236) -/

/-- The slot that holds the ready segment at an exposure position. -/
def State.slotAt (s : State) (x : Stripe) (q : Nat) : Option Nat :=
  s.land.slots.findIdx? fun t => t.any fun y => y.st == x.id && y.seg == x.pos q && y.ready

/-- The source row of exposure row `e` in the staging ring of 768 rows (R214). -/
def Play.source (p : Play) (e : Nat) : Option (List Nat) :=
  match p.staging.find? fun w => w.1 = e % 768 with
  | some (_, (e', v)) => if e' = e then some v else none
  | none => none

/-- A source row read from the play buffer into its place of the ring, where a stack answers. -/
def State.fetchRow (s : State) (x : Stripe) (e : Nat) : State :=
  if 4096 * x.nseg ≤ e ∨ (s.play.source e).isSome then s
  else match s.slotAt x (e / 4096) with
    | some i =>
      if s.stackReads .a || s.stackReads .b then s.onPlay fun p => { p with
        staging := (p.staging.filter fun w => w.1 ≠ e % 768) ++ [(e % 768, (e, s.slotRow i (e % 4096)))] }
      else s
    | none => s

/-- The source rows that the ring keeps while output row `e` is written: `e` - 65 to `e` + 130, those that the play
buffer holds (R214). Nothing further is prefetched (DESIGN CHOICE, log entry 48). -/
def State.fetchRows (s : State) (x : Stripe) (e : Nat) : State := (upto (e - 65) (e + 131)).foldl (fun t r => t.fetchRow x r) s

/-- A source value by grid row and column; 0 outside the stripe (R209, R203). A row below the start of a
resumed run stands nowhere any more: its value is free (DESIGN CHOICE, log entry 49). -/
def Play.srcPixel (p : Play) (x : Stripe) (row col : Int) : Nat :=
  if row < 0 ∨ 4096 * x.nseg ≤ row ∨ col < 0 ∨ 8191 < col then 0
  else match p.source (gridRow x.rev x.nseg row.toNat) with
    | some v => v.getD col.toNat 0
    | none => (Config.goneSource row col).toNat

/-- The fit record latched for the segment at exposure position `q` (R206). -/
def Stripe.fitAt (x : Stripe) (q : Nat) : FitRec := ((x.seg? (x.pos q)).bind (·.fit)).getD FitRec.reset

/-- Output row `e` of the resampler: 8,192 values from the staging ring (R209, R214). -/
def Play.rowValues (p : Play) (x : Stripe) (e : Nat) : List Nat :=
  let row := gridRow x.rev x.nseg e
  (List.range 8192).map fun c =>
    if x.hdr.place then resampleAt (p.srcPixel x) (x.offset (x.fitAt (e / 4096)) row c) row c
    else p.srcPixel x row c

/-- Whether output row `e` reads a word of source row `es` in the columns of a panel (R209, R212). -/
def Stripe.readsWord (x : Stripe) (e es panel : Nat) : Bool :=
  if x.hdr.place then
    let row := gridRow x.rev x.nseg e
    let src : Int := gridRow x.rev x.nseg es
    (List.range 8192).any fun c =>
      let o := x.offset (x.fitAt (e / 4096)) row c
      let iy := (row : Int) + o.2 / 64
      let ix := (c : Int) + o.1 / 64
      decide (iy - 1 ≤ src ∧ src ≤ iy + 2 ∧ 512 * (panel : Int) ≤ ix + 2 ∧ ix - 1 < 512 * (panel : Int) + 512)
  else e == es

/-- Output row `e`, of a segment in EXPOSING, needs a source row that the play buffer holds and neither stack gives
(R212, Tables 7-3 and 19-3). -/
def State.rowLacks (s : State) (x : Stripe) (e : Nat) : Bool :=
  decide (e < 4096 * x.nseg) && ((s.seg? x.id (x.pos (e / 4096))).map (·.lstate == .exposing)).getD false &&
    (upto (e - 65) (e + 66)).any fun es =>
      decide (es < 4096 * x.nseg) && (s.slotAt x (es / 4096)).isSome && (s.play.source es).isNone &&
        (List.range 16).any (x.readsWord e es)

/-- Slots freed once output row `e` is written (R211). -/
def freedSlot (x : Stripe) (e : Nat) (t : Slot) : Bool :=
  let q := x.pos t.seg
  t.st = x.id && (if x.hdr.place then 4096 * (q + 1) + 65 ≤ e else 4096 * (q + 1) - 1 ≤ e)

/-- A logical bank through the arm's map (R213). -/
def Play.physical (p : Play) (bank : Nat) : Nat := ((p.bankMap.find? (·.1 == bank)).map (·.2)).getD bank

/-- The logical bank of class `j` in row slot `r` (R213). -/
def winBank (r j : Nat) : Nat := 4 * (r / 16) + j % 4

/-- Offset in its bank of the pixel of row slot `r`, class `j` and beam column `v` (R213). -/
def winOffset (r j v : Nat) : Nat := 4096 * (r % 16) + 1024 * (j / 4) + 2 * v

/-- The 2,048 values that a row puts into the bank of classes `j` mod 4, in offset order. -/
def bankRow (v : List Nat) (j : Nat) : List Nat :=
  ((List.range 4).map fun i => (List.range 512).map fun b => v.getD (16 * b + 4 * i + j) 0).flatten

/-- Key of the 4 KiB of a physical bank that hold a row slot. -/
def winKey (bank r : Nat) : Nat := 16 * bank + r % 16

/-- A row's values in the four banks of its row slot (R213). -/
def Play.putRow (p : Play) (e : Nat) (v : List Nat) : Play :=
  let r := e % 8192
  let new := (List.range 4).map fun j => (winKey (p.physical (winBank r j)) r, bankRow v j)
  { p with
    window := (p.window.filter fun w => !(new.any fun n => n.1 == w.1)) ++ new
    winRows := (p.winRows.filter fun w => w.1 ≠ r) ++ [(r, e)] }

/-- The source rows of row `e` fetched and `e` written into row slot `e mod 8192` (R213 to R215), and the slots it
frees. -/
def State.writeRow (s : State) (x : Stripe) (e : Nat) : State :=
  if 4096 * x.nseg ≤ e then s
  else
    let t := s.fetchRows x e
    if (t.play.source e).isNone then t
    else (t.onPlay fun p => p.putRow e (p.rowValues x e)).onLand fun l =>
      { l with slots := l.slots.map fun t => match t with
          | some y => if freedSlot x e y then none else some y
          | none => none }

/-- The window's value at exposure row `e`, column `c`; 0 where the row slot holds no such row. -/
def Play.pixel (p : Play) (e c : Nat) : Nat :=
  let r := e % 8192
  let j := c % 16
  if p.winRows.contains (r, e) then
    ((p.window.find? fun w => w.1 == winKey (p.physical (winBank r j)) r).map (·.2)).getD [] |>.getD
      (winOffset r j (c / 16) % 4096 / 2) 0
  else 0

/-- What the Relay hands over for a live beam (R217). -/
structure Relay where
  u : Nat
  v : Nat
  e : Nat
  row : Nat
  c : Nat
  tgt : Nat
  ofs : Nat
  deriving DecidableEq, Repr

/-- The dead-beam list latched at the arm (R219). -/
def Stripe.deadList (x : Stripe) : List Nat := (x.latched.map (·.dead)).getD []

/-- `relay(u, v)` at step `n`, with the blanking of R200, R283, R299 and R153; none where not live. -/
def relay (x : Stripe) (r : Run) (p : Play) (n : Int) (u v : Nat) : Option Relay :=
  let e := expRow x.rev n u
  let c := beamCol u v
  if e < 4096 * r.qs ∨ 4096 * (r.endPos x) ≤ e then none
  else if x.deadList.contains (beamIx u v) then none
  else if r.laneBlank.any fun b => b.1 = c / 512 ∧ b.2 ≤ e then none
  else
    let k := kLive x.deadList c
    let row := gridRow x.rev x.nseg e.toNat
    let i := liveRank x.deadList u c
    some ⟨u, v, e.toNat, row, c, relayTgt (p.pixel e.toNat c) k, relayOfs row c i k⟩

/-- The group a beam row belongs to is dead in flight from flash `f` on. -/
def Run.deadGroup (r : Run) (g : Nat) : Bool := r.deadGroups.any fun d => d.1 = g

/-- Key of a deficit entry: slot and entry. -/
def defKey (n : Int) (entry : Nat) : Nat := (n % 1024).toNat * 4096 + entry

/-- The pixel of an entry of the store group made at step `n`: grid row and column. -/
def defPixel (x : Stripe) (g : Nat) (n : Int) (entry : Nat) : Nat × Nat :=
  let u := 8 * g + entry / 512
  (gridRow x.rev x.nseg (expRow x.rev n u).toNat, beamCol u (entry % 512))


/-- Pending repairs for a beam row from the store group (R222): the key of the first pending entry. -/
def pendKey (x : Stripe) (r : Run) (d : List (Nat × Nat)) (n : Int) (u v : Nat) : Option Nat :=
  match r.storeGroup with
  | none => none
  | some g =>
    if u / 8 = g then none
    else [1, 2, 3].findSome? fun j =>
      let ud : Int := if x.rev then u + 16 * j else u - 16 * j
      if ud < 0 ∨ ud.toNat / 8 ≠ g then none
      else
        let k := defKey (n - 256 * j) (512 * (ud.toNat - 8 * g) + v)
        if sparse d k = 0 then none else some k

/-- A beam of a dead-in-flight group: an entry of the store, or an irreparable pixel (R221, R224). -/
def deadBeam (r : Run) (n : Int) (q : Relay) (a : FlashAcc) : FlashAcc :=
  let g := q.u / 8
  let val := (q.tgt + q.ofs) / 65536
  if r.storeGroup = some g then
    { a with
      deficit := sparseSet a.deficit (defKey n (512 * (q.u - 8 * g) + q.v)) (min 63 val)
      made := if val = 0 then a.made else a.made ++ [q.row / 4096]
      lost := if 63 < val then a.lost ++ [(q.row, q.c)] else a.lost }
  else { a with lost := a.lost ++ [(q.row, q.c)] }

/-- The code of a live beam and its repair (R222, R236). -/
def liveBeam (x : Stripe) (r : Run) (hist : List (Nat × Nat)) (n : Int) (q : Relay) (a : FlashAcc) : FlashAcc :=
  let b := beamIx q.u q.v
  let l := x.latched
  let f := gainHist x.hdr.gainhist (((l.map (·.g)).getD []).getD b 32768) ((l.map (·.alpha)).getD 0) (sparse hist b)
  let a := if r.stuckOff.any fun z => z.1 = b then { a with lost := a.lost ++ [(q.row, q.c)] } else a
  match pendKey x r a.deficit n q.u q.v with
  | some k =>
    let pend := sparse a.deficit k
    let un := unmet q.tgt q.ofs pend f
    let code := beamCode q.tgt q.ofs pend f
    { a with
      codes := if code = 0 then a.codes else a.codes ++ [(b, code)]
      deficit := sparseSet a.deficit k un
      fixed := if un = 0 then a.fixed ++ [q.row / 4096] else a.fixed }
  | none =>
    let code := beamCode q.tgt q.ofs 0 f
    { a with codes := if code = 0 then a.codes else a.codes ++ [(b, code)] }

/-- Every beam of a flash, in ascending index. -/
def allBeams : List (Nat × Nat) := ((List.range 512).map fun u => (List.range 512).map fun v => (u, v)).flatten

/-- The store's slot of step `n` before it is rewritten: entries above 0 are irreparable (R223). -/
def agedOut (x : Stripe) (g : Nat) (n : Int) (d : List (Nat × Nat)) : List (Nat × Nat) :=
  (d.filter fun k => k.1 / 4096 = (n % 1024).toNat).map fun k => defPixel x g (n - 1024) (k.1 % 4096)

/-- The whole flash at step `n` (Table 8-4): the Relay, the gain and history unit and the deficit
store. -/
def flashBeams (x : Stripe) (r : Run) (p : Play) (hist : List (Nat × Nat)) (n : Int) : FlashAcc :=
  let old := match r.storeGroup with
    | some g => agedOut x g n p.deficit
    | none => []
  let d0 := p.deficit.filter fun k => k.1 / 4096 ≠ (n % 1024).toNat
  allBeams.foldl (fun a uv => match relay x r p n uv.1 uv.2 with
    | none => a
    | some q => if r.deadGroup (uv.1 / 8) then deadBeam r n q a else liveBeam x r hist n q a)
    ⟨[], d0, [], [], old⟩

/-- The figures of a segment after a flash. -/
def Seg.account (g : Seg) (k : Nat) (a : FlashAcc) : Seg :=
  let new := (a.lost.filter fun p => p.1 / 4096 = k ∧ !g.irrepPx.contains p).eraseDups
  { g with
    deficits := g.deficits + (a.made.filter (· = k)).length
    repaired := g.repaired + (a.fixed.filter (· = k)).length
    irrepPx := g.irrepPx ++ new }

def Stripe.account (x : Stripe) (a : FlashAcc) : Stripe :=
  if a.made.isEmpty && a.fixed.isEmpty && a.lost.isEmpty then x
  else { x with segs := x.segs.zipIdx.map fun p => p.1.account p.2 a }

/-! ### Carriers and their outputs (R306, R309, R327) -/

/-- The carriers of a stripe: group and lane, groups latched off or dead left out. -/
def State.carriers (s : State) (x : Stripe) (r : Run) : List (Nat × Nat) :=
  (((x.latched.map (·.laneMap)).getD []).zipIdx.filterMap fun p => p.1.map fun l => (p.2, l)).filter fun gl =>
    !r.deadGroup gl.1 && !s.link.latchedOff.contains gl.1

/-- SOF of a placed flash on each carrier. The loopback target leaves the external lanes idle (R327). -/
def sofOutputs (x : Stripe) (r : Run) (cs : List (Nat × Nat)) : List Output :=
  if x.target = 2 then []
  else cs.map fun gl => .block gl.2 (sofBlock r.next gl.1 (x.target != 0) x.id.job x.id.stripe)

/-- What follows SOF on the wire of each carrier: the payload blocks, the block of W0 and W193 once the instant is
fixed, and the marker (R309). -/
def flashOutputs (x : Stripe) (r : Run) (cs : List (Nat × Nat)) (m : Nat) (fs : BitVec 64) : List Output :=
  if x.target = 2 then []
  else (cs.map fun gl =>
    let ws := frameWords r.next gl.1 (x.target != 0) x.id.job x.id.stripe fs r.flash.codes
    payloadBlocks gl.2 ws ++ [headBlock gl.2 ws, .block gl.2 (markerBlock r.next m false)]).flatten

/-- A void flash: the payload of one that was placed, and the void marker. Its instant was not fixed, so the block
of W0 and W193 is not sent (DEDUCED, log entry 51). -/
def voidOutputs (x : Stripe) (r : Run) (cs : List (Nat × Nat)) (fh m : Nat) : List Output :=
  if x.target = 2 then []
  else (cs.map fun gl =>
    (if r.placed then payloadBlocks gl.2 (frameWords fh gl.1 (x.target != 0) x.id.job x.id.stripe 0 r.flash.codes) else []) ++
      [.block gl.2 (markerBlock fh m true)]).flatten

/-- The next marker stands at least 64·T_min after this one (R287). -/
def State.markSent (s : State) (x : Stripe) (m : Nat) : State :=
  s.onLink fun l => { l with nextMark := m + 64 * x.tmin }

/-! ### Placing a flash (R284 to R289, R297, R299) -/

/-- The segment at exposure position `q` is ready for its first flash, its neighbour too under PLACE
(R211, R283). A position past the end needs none. -/
def Stripe.readyAt (x : Stripe) (q : Nat) : Bool :=
  x.nseg ≤ q || (match x.seg? (x.pos q) with
    | some g => g.lstate == .ready || g.lstate == .exposing
    | none => false)

def Stripe.dueReady (x : Stripe) (q : Nat) : Bool :=
  x.readyAt q && (!x.hdr.place || x.readyAt (q + 1))

/-- Drain causes are taken at a placement (R299, R301). -/
def State.takeDrains (s : State) : State :=
  match s.run? with
  | none => s
  | some (r, x) =>
    match r.causes with
    | [] => s
    | c :: cs =>
      let q := r.nextPos r.next
      let k0 := (c :: cs).foldl (fun a d => min a (d.boundary.getD q)) x.nseg
      let named := (c :: cs).foldl (fun a d => match d.boundary with
        | some b => min a b
        | none => a) x.nseg
      let k := match r.boundary with
        | some b => min b named
        | none => k0
      let fk := r.flashAt k
      let s1 := r.causes.foldl (fun t d => t.raiseCause x.id fk (some k) d) s
      if r.boundary.isNone ∧ x.nseg ≤ k then
        s1.onPlay fun p => { p with run := some { r with causes := [] } }
      else
        (s1.onStripe x.id fun y => { y with st := .stopping, boundary := some k }).onPlay fun p =>
          { p with run := some { r with causes := [], boundary := some k } }

/-- The fine-shift word at instant `m` (Table 11-2), and the cross residual. -/
def State.fineShift (s : State) (r : Run) (xn m : Nat) : BitVec 64 × Int :=
  let sc := s.stage.axScan
  let cr := s.stage.axCross
  let along := r.sense * wrap48 (sc.predict m - xn)
  let cross := wrap48 (cr.predict m - r.xcref)
  (BitVec.ofNat 64 (toU 24 along + toU 24 cross * 2 ^ 24 + b2n (sc.st == .settling) * 2 ^ 48 +
    b2n (sc.filled || cr.filled) * 2 ^ 49), cross)

/-- Event detail of the STAGE group (Table 17-6). -/
def stageEvent (code : BitVec 16) (unit : Nat) (pos want : Int) (now : Nat) : Event :=
  { Event.of code with
    nodef := nodeF 13 0 unit
    noder := nodeR 8 1 unit
    d0 := BitVec.ofNat 64 unit
    d1 := BitVec.ofNat 64 (toU 64 pos)
    d2 := BitVec.ofNat 64 (toU 64 want)
    d3 := BitVec.ofNat 64 now }

/-- One evaluation of the pending flash of the run, and what its result does (R284 to R288). Before the
first flash is placed only the shortfall of R297 is judged. -/
def State.evaluateRun (s : State) : State :=
  match s.run? with
  | none => s
  | some (r, x) =>
    if r.halt.isSome || r.fix.isSome || x.target == 2 then s
    else
      let g := gridNm x.hdr
      let n : Int := (r.next : Int) - r.f0
      let a := s.stage.axScan
      let xn := r.rowPos g n
      if !r.placed then
        if r.mPrev.isNone ∧ !x.dueReady r.qs ∧ r.causes.isEmpty ∧ r.boundary.isNone ∧
            r.sense * wrap48 (xn - a.predict (64 * s.now)) ≤ 64 * g then
          s.stopCause 19 (some { stripeEvent ST.stripeLeadShortfall 0 none with d2 := 0 }) (some r.qs)
        else s
      else if a.posInvalid || a.stale s.stage.tracker.scan s.stage.tracker.treq.toNat s.now then
        if s.stage.integrity then s
        else s.stopCause 6 (some (stageEvent ST.stagePredictStale 0 a.x xn s.now)) none
      else match evaluate a r.sense xn x.tmin r.mPrev s.now with
        | .wait => s
        | .missed => s.stopCause 7 (some (stageEvent ST.stageMissedRow 0 (a.predict (64 * s.now)) xn s.now)) none
        | .overspeed iv =>
          s.stopCause 9 (some { stripeEvent ST.stripeOverspeed 0 none with
            d2 := BitVec.ofNat 64 (toU 64 iv), d3 := BitVec.ofNat 64 (toU 64 a.v) }) none
        | .place m =>
          if m < 64 * (a.t + s.stage.tracker.treq.toNat + 1750) ∧
              (r.mPrev.isSome ∨ x.target ≠ 0 ∨ 64 * (r.permitAt + 5000) ≤ m) then
            let c := s.stage.axCross
            if c.posInvalid || c.stale s.stage.tracker.cross s.stage.tracker.treq.toNat s.now then
              s.stopCause 6 (some (stageEvent ST.stagePredictStale 1 c.x r.xcref s.now)) none
            else
              let fs := s.fineShift r xn m
              if (r.crossmax : Int) < fs.2.natAbs then
                s.stopCause 8 (some (stageEvent ST.stageCrossRange 1 (c.predict m) r.xcref s.now)) none
              else s.onPlay fun p => { p with run := some { r with fix := some (m, fs.1) } }
          else s

/-- λ of the run's stripe. -/
def Stripe.lambda (x : Stripe) : Nat := (x.latched.map (·.lambda)).getD 0

/-- The duty array that the run's codes are formed from and written to (R235). -/
def State.dutyOf (s : State) (x : Stripe) : List (Nat × Nat) := if x.target = 0 then s.beam.hist else s.beam.shadow

/-- R233 for every beam of the run's stripe, with the codes sent. -/
def State.dutyFlash (s : State) (x : Stripe) (codes : List (Nat × Nat)) : State :=
  s.onBeam fun b => if x.target = 0 then { b with hist := histStep x.lambda b.hist codes }
    else { b with shadow := histStep x.lambda b.shadow codes }

/-- The Relay, the gain and history unit and the deficit store at the placement of a flash: the frame is built
(R284, Table 8-4). What it makes of duty, deficits and figures stands once its fire marker is sent; a void
flash leaves none of it (R298, R304). -/
def State.buildFlash (s : State) (r : Run) (x : Stripe) : State :=
  s.onPlay fun p => { p with
    run := some { r with placed := true, flash := flashBeams x r s.play (s.dutyOf x) ((r.next : Int) - r.f0) } }

/-- The placed flash is sent: duty entries, deficit store and figures of R223 (R221, R222, R233, R235). -/
def State.commitFlash (s : State) (r : Run) (x : Stripe) : State :=
  ((s.dutyFlash x r.flash.codes).onStripe x.id (·.account r.flash)).onPlay fun p => { p with deficit := r.flash.deficit }

/-- The run's first flash: origin and snapshot (R234, R235, R283). -/
def State.openRun (s : State) (r : Run) (x : Stripe) : State :=
  let arr := if x.target = 0 then s.beam.hist else s.beam.shadow
  (s.onBeam fun b => { b with snap := some (x.id, arr) }).onStripe x.id fun y =>
    { y with started := true, carried := !arr.isEmpty, f0 := some r.f0 }

/-- The segment whose first flash is placed goes to EXPOSING (Table 6-3). -/
def State.exposeSeg (s : State) (r : Run) (x : Stripe) : State :=
  let n : Int := (r.next : Int) - r.f0
  if n % 4096 = 0 ∧ n / 4096 < r.endPos x then
    s.onSeg x.id (x.pos (n / 4096).toNat) fun g =>
      if g.lstate = .ready then { g with lstate := .exposing } else g
  else s

/-- The first flash of a run that is not placed. -/
def Run.unplaced (r : Run) : Nat := if r.placed then r.next + 1 else r.next

/-- An unverifiable segment that has become the first whose first flash is not placed: a stop at its boundary
(R179, Table 6-6). -/
def State.dueUnverifiable (s : State) (id : StripeId) : State :=
  match s.run? with
  | none => s
  | some (r, x) =>
    let q := r.nextPos r.unplaced
    let bad := x.id = id ∧ ((x.seg? (x.pos q)).map fun g => g.lstate == .unverifiable).getD false = true
    if bad ∧ q < r.endPos x ∧ !(r.causes.any fun c => c.rank = 18) then s.stopCause 18 none (some q) else s

/-- Segments that fall due at the next flash (R297), and an unverifiable one that has become the first
whose first flash is not placed (Table 6-6). -/
def State.dueSegments (s : State) : State :=
  match s.run? with
  | none => s
  | some (r, x) =>
    let q := r.nextPos (r.next + 1)
    if r.endPos x ≤ q then s
    else
      let s1 := s.dueUnverifiable x.id
      if r.flashAt q = (r.next : Int) + 1 ∧ r.qs < q ∧ !x.dueReady q then
        s1.stopCause 19 (some (stripeEvent ST.stripeLeadShortfall 0 none)) (some q)
      else s1

/-- In the loopback target the instant is fixed by the clock (R289). -/
def State.fixLoopback (s : State) : State :=
  match s.run? with
  | some (r, x) =>
    if x.target = 2 ∧ r.fix.isNone ∧ r.halt.isNone then
      let m := match r.mPrev with
        | some p => p + 64 * (if r.tlb = 0 then x.tmin else r.tlb)
        | none => 64 * max s.now (r.goAt + 2500)
      s.onPlay fun p => { p with run := some { r with fix := some (m, 0) } }
    else s
  | none => s

/-- The next flash may be placed: no halt, the one before has been fired, the run has not reached its
end, and the first waits for its segments unless a drain is pending (R284, R297). -/
def Run.mayPlace (r : Run) (x : Stripe) : Bool :=
  !r.placed && r.halt.isNone && decide ((r.next : Int) ≤ r.lastAt (r.endPos x)) &&
    (r.mPrev.isSome || x.dueReady r.qs || !r.causes.isEmpty || r.boundary.isSome)

/-- Event detail of the BEAM group (Table 17-6). -/
def beamEvent (code : BitVec 16) (flash : Int) (b d2 d3 : Nat) : Event :=
  { Event.of code with
    nodef := nodeF 8 0 0
    noder := nodeR 2 3 regionLogic
    d0 := BitVec.ofNat 64 (toU 64 flash)
    d1 := BitVec.ofNat 64 b
    d2 := BitVec.ofNat 64 d2
    d3 := BitVec.ofNat 64 d3 }

/-- The beam and the step of an entry of the deficit store: the latest step before `n` that wrote its slot. -/
def defStep (n : Int) (key : Nat) : Int := n - 1 - (n - 1 - (key / 4096 : Nat)) % 1024

/-- A flash is placed: drains are taken, the row written, the frame built, the segments judged, the
position evaluated (R284, Table 8-4). -/
def State.placeFlash (s : State) : State :=
  match s.run? with
  | none => s
  | some (r, x) =>
    if !r.mayPlace x then s
    else
      let s0 := if r.mPrev.isNone then (s.openRun r x).landingDone x.id else s
      let s1 := s0.takeDrains
      match s1.run? with
      | none => s1
      | some (r1, x1) =>
        let e := ((r1.next : Int) - r1.f0).toNat
        let s2 := if r1.mPrev.isNone then s1.writeRow x1 e else s1
        let s3 := s2.writeRow x1 (e + 1)
        let s4 := ((s3.exposeSeg r1 x1).buildFlash r1 x1).emits (sofOutputs x1 r1 (s.carriers x1 r1))
        let s5 := if s4.rowLacks x1 e || s4.rowLacks x1 (e + 1) then s4.stopCause 10 none none else s4
        (s5.dueSegments.fixLoopback).evaluateRun

/-- FLASH_PLACE. -/
def execFlashPlace (s : State) : Answer := .next s.placeFlash

/-! ### The end of a run -/

/-- Pending deficits become irreparable when the stripe leaves RUNNING and STOPPING (R223, R298). -/
def State.settleDeficits (s : State) (r : Run) (x : Stripe) : State :=
  match r.storeGroup with
  | none => s.onPlay fun p => { p with deficit := [] }
  | some g =>
    let lost := s.play.deficit.map fun k => defPixel x g (defStep ((r.next : Int) - r.f0) k.1) (k.1 % 4096)
    (s.onStripe x.id (·.account ⟨[], [], [], [], lost⟩)).onPlay fun p => { p with deficit := [] }

/-- What leaves with ARMED, RUNNING and STOPPING: a held TIME.SELECT (R405) and the permit (R434). The
new refresh interval is programmed as well (R187). -/
def State.leaveActive (s : State) : State := s.releaseSelect.permitCheck.programBand.applyTrims.restartTrims

/-- A segment below `fh` of a run that halted there. -/
def belowHalt (r : Run) (fh : Nat) (y : Stripe) (q : Nat) : Exposure :=
  if r.flashAt q + 12271 < fh then liveExposure y r q else haltExposure y r fh q

/-- The exposure positions below the end of a halted run whose first flash was placed before `fh`. -/
def Run.haltStop (r : Run) (x : Stripe) (fh : Nat) : Nat := min (r.endPos x) (((fh : Int) - r.f0 + 4095) / 4096).toNat

/-- The records of a run that has ended, from the first not yet written: after a halt those below f_h, else all to
the stripe's end (R302, Table 11-10). -/
def State.writeTail (s : State) (r : Run) (x : Stripe) : State :=
  let halt := x.haltRun.bind fun h => if h.1.runNo = r.runNo then some h.2 else none
  let stop := match halt with
    | some fh => r.haltStop x fh
    | none => x.nseg
  let f (y : Stripe) (q : Nat) : Exposure := match halt with
    | some fh => belowHalt r fh y q
    | none => if q < r.endPos y then liveExposure y r q else noExposure .notStarted
  (s.recordRange x.id r f (upto (r.qs + r.recorded) stop)).onPlay fun p =>
    { p with tail := p.tail.map fun z => { z with recorded := stop - r.qs, awaiting := [] } }

/-- The records of the run that ended last are written, its last statuses no longer awaited. -/
def State.forceTail (s : State) : State :=
  match s.play.tail.bind fun r => (s.stripe? r.st).map fun x => (r, x) with
  | some (r, x) => s.writeTail r x
  | none => s

/-- The records are written once the last statuses have come (R315, R316; DESIGN CHOICE, log entry 50). -/
def State.closeTail (s : State) : State :=
  if s.play.tail.any fun r => r.awaiting.isEmpty then s.forceTail else s

/-- The statuses of causes that no placement has resolved (R301): every segment has started, so the boundary of
a drain is that of the run, or the stripe's end (R299). -/
def State.lateCauses (s : State) (r : Run) (x : Stripe) : State :=
  let k := r.endPos x
  r.causes.foldl (fun t c => t.raiseCause x.id (r.flashAt k) (some k) c) s

/-- The run leaves play: its last statuses may still arrive. -/
def State.retire (s : State) (r : Run) : State :=
  s.onPlay fun p => { p with run := none, tail := some { r with placed := false, fix := none, flash := FlashAcc.none } }

/-- DONE or STOPPED at the fire marker of the last flash (R30, R299, R301). -/
def State.endRun (s : State) (r : Run) (x : Stripe) : State :=
  let b := r.endPos x
  let s1 := ((s.settleDeficits r x).freeSlots x.id).onStripe x.id fun y =>
    { y with st := if r.boundary.isSome then .stopped else .done
             capMap := if r.boundary.isSome then y.capMap else [] }
  let s2 := ((s1.retire r).closeTail.leaveActive).plateCommit.lateCauses r x
  let ev := match r.boundary with
    | some k => stripeEvent ST.stripeStopped (r.flashAt k) (some k)
    | none => stripeEvent ST.stripeDone (r.lastAt b) none
  s2.raiseSt x.id { ev with dry := x.target != 0 }

/-- HALTED at the void marker of f_h (R298, R301 to R304): the void flash sends code 0 to every beam. -/
def State.haltRun (s : State) (r : Run) (x : Stripe) (fh : Nat) : State :=
  let s1 := (s.dutyFlash x []).settleDeficits r x
  let n : Int := (fh : Int) - r.f0
  let overspd := r.causes.all fun c => !c.isHalt || c.rank == 9
  let re : Option Reentry := if overspd && r.reentryOk && r.boundary.isNone then
      some ⟨r, fh, (n + 1).toNat, r.mPrev.getD (64 * s.now), 0, none, false⟩ else none
  let s2 := (s1.freeSlots x.id).onStripe x.id fun y => { y with st := .halted, haltRun := some (r, fh) }
  let s3 := (((s2.retire r).onPlay fun p => { p with reentry := re }).onJob x.id.job fun j =>
    { j with fNext := fh + 1 }).closeTail
  let s4 := (s3.leaveActive).plateCommit
  let s5 := r.causes.foldl (fun t c => t.raiseCause x.id fh r.boundary c) s4
  s5.raiseSt x.id { stripeEvent ST.stripeHalted fh r.boundary with dry := x.target != 0 }

/-- Records of the segments at or beyond f_h, written when the stripe leaves HALTED or is released; those
below the re-entry position `qr` are blanked (R302, Table 11-10). -/
def State.finishHalt (s : State) (id : StripeId) (qr : Option Nat) : State :=
  let s := s.forceTail
  match (s.stripe? id).bind fun x => x.haltRun.map fun h => (x, h) with
  | none => s
  | some (x, r, fh) =>
    let s1 := s.recordRange id r (fun _ _ => noExposure (if qr.isSome then .blanked else .notStarted))
      (upto (max (r.haltStop x fh) (r.qs + r.recorded)) (qr.getD x.nseg))
    s1.onStripe id fun y => { y with haltRun := none }

/-! ### Groups dead in flight (R220 to R224) -/

/-- The store group holds every pixel's last rows (Table 8-1). -/
def lastRows (rev : Bool) (g : Nat) : Bool := if rev then g ≤ 1 else 62 ≤ g

/-- The beams of a group in one flash, as dead-in-flight beams (R221, R224). -/
def deadFlash (x : Stripe) (r : Run) (p : Play) (g f : Nat) (a : FlashAcc) : FlashAcc :=
  let n : Int := (f : Int) - r.f0
  (upto (8 * g) (8 * g + 8)).foldl (fun a u => (List.range 512).foldl (fun a v =>
    match relay x r p n u v with
    | none => a
    | some q => deadBeam r n q a) a) a

/-- The flashes sent from `f_d` on are written as the declaration is made; in the flash that is placed the group's
beams are dead in flight (R221, R224). -/
def State.retroDead (s : State) (r : Run) (x : Stripe) (g fd : Nat) : State :=
  let sent (d : List (Nat × Nat)) : FlashAcc :=
    (upto fd r.next).foldl (fun a f => deadFlash x r s.play g f a) ⟨[], d, [], [], []⟩
  let a := sent s.play.deficit
  let b := { r.flash with
    codes := r.flash.codes.filter fun c => c.1 / 4096 ≠ g
    deficit := (sent r.flash.deficit).deficit }
  (s.onStripe x.id (·.account a)).onPlay fun p => { p with
    deficit := a.deficit
    run := p.run.map fun z => if r.placed then
      { z with flash := if fd ≤ r.next then deadFlash x r s.play g r.next b else b } else z }

/-- The store is taken from its group: what that group has missed is irreparable, and its entries count as not
made (R221, R224). -/
def Stripe.loseStore (x : Stripe) (g : Nat) (n : Int) (d : List (Nat × Nat)) : Stripe :=
  let px := d.map fun k => defPixel x g (defStep n k.1) (k.1 % 4096)
  { x with segs := x.segs.zipIdx.map fun (z : Seg × Nat) =>
      let mine := px.filter fun p => p.1 / 4096 = z.2
      { z.1 with
        deficits := z.1.deficits - mine.length
        irrepPx := z.1.irrepPx ++ (mine.filter fun p => !z.1.irrepPx.contains p).eraseDups } }

/-- The deficit store passes to a lower-numbered group declared dead from the same flash (R221). -/
def State.moveStore (s : State) (r : Run) (x : Stripe) (h : Nat) : State :=
  let n : Int := (r.next : Int) - r.f0
  let own := (r.flash.deficit.filter fun k => k.1 / 4096 = (n % 1024).toNat).map fun k =>
    defPixel x h n (k.1 % 4096)
  (s.onStripe x.id fun y => y.loseStore h n s.play.deficit).onPlay fun p => { p with
    deficit := []
    run := p.run.map fun z => { z with flash := { z.flash with
      deficit := [], made := [], lost := z.flash.lost ++ (if r.placed then own else []) } } }

/-- A carrier whose group dies in flight: its group is latched off, it carries no further frame and is under test;
the third death within 24 h retires it (R313, R323, Table 12-9). -/
def State.suspectLane (s : State) (lane g : Nat) : State :=
  let recent := ((s.link.lane lane).deaths.filter fun t => decide (s.now ≤ t + cycH 24)) ++ [s.now]
  let s1 := (s.onLink fun l => { l with latchedOff := l.latchedOff ++ [g] }).onLane lane fun z =>
    { z with st := .suspect, deaths := recent }
  if recent.length < 3 then (s1.onLane lane fun z => { z with testing := true }).startTraining lane
  else s1.retireLane lane recent.length

/-- The event of a group declared dead. -/
def groupDeadEvent (x : Stripe) (code : BitVec 16) (fd g lane : Nat) : Event :=
  { beamEvent code fd 0 (g + 256 * lane) 0 with
    nodef := nodeF 11 0 lane, noder := nodeR 5 0 lane, dry := x.target != 0 }

/-- The group that a lane carries in a stripe. -/
def Stripe.groupOf (x : Stripe) (lane : Nat) : Option Nat :=
  ((x.latched.map (·.laneMap)).getD []).findIdx? (· == some lane)

/-- A group is declared dead in flight from `fd` during its run: KILL for a missing status, the lane suspect and
under test, the store, and a stop where repair cannot reach (R220, R221, R224, R313, R323). -/
def State.declareRun (s : State) (r : Run) (x : Stripe) (lane g fd : Nat) (kill : Bool) : State :=
  let moves := match r.storeGroup with
    | some h => decide (g < h) && r.deadGroups.any fun d => d.1 == h && d.2.2 == fd
    | none => false
  let s0 := if moves then s.moveStore r x (r.storeGroup.getD 0) else s
  let r0 := (s0.play.run).getD r
  let r1 := { r0 with
    deadGroups := r0.deadGroups ++ [(g, lane, fd)]
    storeGroup := if r0.storeGroup.isNone ∨ moves then some g else r0.storeGroup
    awaiting := r0.awaiting.filter fun w => w.1 ≠ lane }
  let s1 := (s0.onPlay fun p => { p with run := some r1 }).retroDead r1 x g fd
  let s2 := if kill ∧ x.target ≠ 2 then s1.emit (.block lane (killBlock fd)) else s1
  let s3 := (s2.suspectLane lane g).faultSt x.id (groupDeadEvent x ST.beamGroupDead fd g lane)
  if r0.storeGroup.isSome || lastRows x.rev g then
    s3.stopCause 15 (some (groupDeadEvent x ST.beamIrreparableStop fd g lane)) none
  else s3

/-- A flash of the run that has ended was not fired (R316): every pixel the group met from `fd` on is irreparable
(R223). -/
def State.declareTail (s : State) (r : Run) (x : Stripe) (lane g fd : Nat) (kill : Bool) : State :=
  let a := (upto fd r.next).foldl (fun a f => deadFlash x { r with storeGroup := none } s.play g f a) FlashAcc.none
  let s1 := (s.onStripe x.id (·.account a)).onPlay fun p => { p with tail := p.tail.map fun z => { z with
    deadGroups := z.deadGroups ++ [(g, lane, fd)]
    awaiting := z.awaiting.filter fun w => w.1 ≠ lane } }
  let s2 := if kill ∧ x.target ≠ 2 then s1.emit (.block lane (killBlock fd)) else s1
  ((s2.suspectLane lane g).faultSt x.id (groupDeadEvent x ST.beamGroupDead fd g lane)).closeTail

/-- The run whose statuses arrive: the stripe's that runs, or the one that ended last. -/
def State.statusRun? (s : State) : Option (Run × Stripe) :=
  match s.run? with
  | some p => some p
  | none => s.play.tail.bind fun r => (s.stripe? r.st).map fun x => (r, x)

/-- A group is declared dead in flight from `fd` (R220). -/
def State.declareDead (s : State) (lane fd : Nat) (kill : Bool) : State :=
  match s.statusRun? with
  | none => s
  | some (r, x) =>
    match x.groupOf lane with
    | none => s
    | some g =>
      if r.deadGroup g || (match r.halt with
          | some h => decide (h.1 ≤ fd)
          | none => false) then s
      else if s.run?.isSome then s.declareRun r x lane g fd kill
      else s.declareTail r x lane g fd kill

/-! ### Markers (R287, R298, R309) -/

/-- On-time of each plate region after a flash (R247). -/
def addOn (on : List Nat) (codes : List (Nat × Nat)) : List Nat :=
  codes.foldl (fun l c => l.modify (8 * (c.1 / 512 / 64) + c.1 % 512 / 64) (· + c.2)) on

/-- A live flash of a beams run: plate usage, and a commit every 2^22 counted flashes (R247, R248). -/
def State.countFlash (s : State) (x : Stripe) (r : Run) (m : Nat) : State :=
  if x.target ≠ 0 then s
  else
    let s1 := (s.onBeam fun b => { b with lastM := some m, decays := 0 }).onPlate fun p => { p with
      usage := { p.usage with flashes := p.usage.flashes + 1, on := addOn p.usage.on r.flash.codes }
      sinceCommit := p.sinceCommit + 1 }
    if 2 ^ 22 ≤ s1.plate.sinceCommit then s1.plateCommit else s1

/-- A segment's last flash: its space is released (R26) and its outcome follows Table 11-10. -/
def State.closeSegment (s : State) (x : Stripe) (r : Run) : State :=
  let n : Int := (r.next : Int) - r.f0 - 12271
  if 0 ≤ n ∧ n % 4096 = 0 ∧ r.qs ≤ (n / 4096).toNat ∧ (n / 4096).toNat < r.endPos x then
    let q := (n / 4096).toNat
    (s.dropArbs x.id (x.pos q)).onSeg x.id (x.pos q) fun g => { g.release with outcome := (liveExposure x r q).outcome }
  else s

/-- The record of a segment, once every deficit slot of its flashes has been rewritten (R223, R302). -/
def State.recordRipe (s : State) (x : Stripe) (r : Run) : State :=
  let q := r.qs + r.recorded
  if q < r.endPos x ∧ r.flashAt q + 12271 + 1024 < r.next then
    match s.play.run with
    | some r' => (s.recordSeg x r q (liveExposure x r q)).onPlay fun p =>
        { p with run := some { r' with recorded := r.recorded + 1 } }
    | none => s
  else s

/-- The scan position at a segment's first flash (R302). -/
def State.markStart (s : State) (x : Stripe) (r : Run) (m : Nat) : State :=
  let n : Int := (r.next : Int) - r.f0
  if n % 4096 = 0 ∧ n < 4096 * x.nseg then
    s.onSeg x.id (x.pos (n / 4096).toNat) fun g => { g with spos := s.stage.axScan.predict m }
  else s

/-- What the link checker of a looped lane reports of a flash (R312, R327): DRY for a frame that passes every check,
BAD otherwise. `prev` is the flash of the lane's previous frame in the run. -/
def linkCheck (sof marker : List Byte) (ws : List Word) (g : Nat) (prev : Option Nat) : Nat :=
  let num (bs : List Byte) (o n : Nat) : Nat := leNat ((bs.drop o).take n)
  let w0 := ws.getD 0 0
  let w193 := ws.getD 193 0
  let f := fld 39 0 w0
  if ctlGood sof && ctlGood marker && sof.getD 0 0 == 0x2D && marker.getD 0 0 == 0x33 &&
      num sof 1 4 == f % 2 ^ 32 && num marker 1 4 == f % 2 ^ 32 && prev.all (fun p => f == (p + 1) % 2 ^ 40) &&
      num sof 5 1 == g && fld 45 40 w0 == g && num sof 6 1 == 1 && bitAt 46 w0 &&
      fld 63 0 w193 == (crc64W (ws.take 193)).toNat && fld 127 112 w193 == 0x4654 &&
      num marker 8 1 < 64 then 2 else 4

/-- The statuses of the link checkers for a flash of the loopback target: a lane that is not acknowledged has its
group declared dead (R220, R327). -/
def State.loopStatuses (s : State) (x : Stripe) (r : Run) (cs : List (Nat × Nat)) (m : Nat) (fs : BitVec 64) : State :=
  if x.target ≠ 2 then s
  else cs.foldl (fun t gl =>
    if linkCheck (sofBlock r.next gl.1 true x.id.job x.id.stripe) (markerBlock r.next m false)
        (frameWords r.next gl.1 true x.id.job x.id.stripe fs r.flash.codes) gl.1
        (r.mPrev.map fun _ => r.next - 1) = 2 then t
    else t.declareDead gl.2 r.next false) s

/-- The fire marker of the placed flash at its fixed instant. -/
def State.fireMarker (s : State) : State :=
  match s.run? with
  | none => s
  | some (r, x) =>
    match r.fix with
    | none => s
    | some (m, fs) =>
      if !r.placed || decide (64 * s.now + 63 < m) || decide ((r.halt.map (·.1)).getD (r.next + 1) ≤ r.next) then s
      else
        let cs := s.carriers x r
        let s1 := ((s.emits (flashOutputs x r cs m fs)).markSent x m).traceRec 5 (packW [(0, 64, r.next), (64, 64, m)])
        let s2 := ((s1.markStart x r m).commitFlash r x).countFlash x r m
        let s3 := match s2.stripe? x.id with
          | some y => s2.closeSegment y r
          | none => s2
        let r1 := { r with
          next := r.next + 1, placed := false, fix := none, mPrev := some m, flash := FlashAcc.none
          awaiting := if x.target = 2 then r.awaiting else r.awaiting ++ cs.map fun gl => (gl.2, r.next, m) }
        let s4 := (((s3.onPlay fun p => { p with run := some r1 }).onJob x.id.job fun j =>
          { j with fNext := r.next + 1 })).loopStatuses x r cs m fs
        let s5 := match s4.run? with
          | some (r2, y) => s4.recordRipe y r2
          | none => s4
        match s5.run? with
        | some (r2, y) => if (r.next : Int) = r.lastAt (r.endPos x) ∧ r2.halt.isNone then s5.endRun r2 y else s5
        | none => s5

/-- Instant of the void marker of a halt (R298). -/
def Run.voidAt (r : Run) (tmin t : Nat) : Nat :=
  match r.mPrev with
  | some p => max (p + 64 * tmin) (64 * (t + 16))
  | none => 64 * (t + 16)

/-- The void marker of f_h, and the end of the run. -/
def State.voidMarker (s : State) : State :=
  match s.run? with
  | none => s
  | some (r, x) =>
    match r.halt with
    | none => s
    | some (fh, t) =>
      if fh ≠ r.next ∨ 64 * s.now + 63 < r.voidAt x.tmin t then s
      else
        let m := r.voidAt x.tmin t
        let s1 := (s.emits (voidOutputs x r (s.carriers x r) fh m)).markSent x m
        let s2 := if x.target = 0 then s1.onBeam fun b => { b with lastM := some m, decays := 0 } else s1
        s2.haltRun r x fh

/-- VOID_MARKER. -/
def execVoidMarker (s : State) : Answer := .next s.voidMarker

/-! ### Re-entry after overspeed (R305) -/


/-- A new run from exposure position `q` at flash `f_h + 1`. -/
def State.reenter (s : State) (e : Reentry) (x : Stripe) (q : Nat) : State :=
  let s1 := s.finishHalt x.id (some q)
  let r : Run := { e.run with
    qs := q, f0 := (e.fh : Int) + 1 - 4096 * q, next := e.fh + 1, placed := false, mPrev := none, fix := none,
    flash := FlashAcc.none, boundary := none, causes := [], halt := none, awaiting := [], taken := [], deadGroups := [],
    storeGroup := none, stuckOff := [], recorded := 0, goAt := s.now, laneBlank := [], runNo := x.runs }
  let s2 := (s1.onPlay fun p => { p with run := some r, tail := none, reentry := none }).onStripe x.id fun y =>
    { y with st := .running, kStart := x.pos q, boundary := none, runs := x.runs + 1 }
  let s3 := if x.target = 0 && s2.permitHolds then
      (s2.onRef fun z => { z with permitOut := true }).onPlay fun p =>
        { p with run := some { r with permitAt := s.now } }
    else s2
  s3.raiseSt x.id { stripeEvent ST.stripeReentry ((e.fh : Int) + 1) (some q) with dry := x.target != 0 }

/-- An evaluation of step `n` by the row clock at instant `t` (R284): the crossing of the row once it is known,
and whether the row qualifies. An OVERSPEED row is crossed at the instant predicted, a missed one at once. -/
def Reentry.judge (e : Reentry) (a : AxisS) (x : Stripe) (treq t : Nat) : Reentry :=
  let xn := e.run.rowPos (gridNm x.hdr) e.n
  let near := decide (e.run.sense * wrap48 (xn - a.predict (max e.mPrev (64 * t))) ≤ 64 * gridNm x.hdr)
  let e1 := { e with late := e.late || near }
  match evaluate a e.run.sense xn x.tmin (some e.mPrev) t with
  | .wait => e1
  | .missed => { e1 with cross := some (max e.mPrev (64 * t), false) }
  | .overspeed iv => { e1 with good := 0, cross := some ((e.mPrev + 64 * iv).toNat, false) }
  | .place m => if m < 64 * (a.t + treq + 1750) then { e1 with cross := some (m, true) } else e1

/-- Row `n` is crossed. -/
def Reentry.step (e : Reentry) (m : Nat) (good : Bool) : Reentry :=
  { e with n := e.n + 1, mPrev := m, good := if good then e.good + 1 else 0, cross := none, late := false }

/-- Row `n` is about to be crossed: at the first row of a segment the candidate boundary moves past it, and what
was prepared for it leaves its slot. -/
def State.passBoundary (s : State) (x : Stripe) (e : Reentry) : State :=
  let k := x.pos (e.n / 4096)
  let here (w : LaneWork) : Bool := w.st == x.id && w.seg == k
  if e.n % 4096 ≠ 0 then s
  else
    let s1 := (s.freeSlot x.id k).onRender fun r => { r with
      decWork := r.decWork.map fun w => if w.any here then none else w }
    s1.onSeg x.id k fun g => if g.lstate = .ready then { g with lstate := .admitted } else g

/-- The row clock up to the present: crossings that have come advance it, each followed by the evaluation of the
next row. `fresh` is set at a new sample, which is evaluated too. With 4,096 qualified rows the run re-enters at
a candidate whose segments were ready before D came to 64 g or less. -/
def State.rowClock : Nat → Bool → State → State
  | 0, _, s => s
  | fuel + 1, fresh, s =>
    match s.play.reentry with
    | none => s
    | some e =>
      match s.stripe? e.run.st with
      | none => s
      | some x =>
        if x.st ≠ .halted ∨ 4096 * x.nseg ≤ e.n then s.dropReentry
        else if 4096 ≤ e.good ∧ e.n % 4096 = 0 ∧ e.late = false ∧ x.dueReady (e.n / 4096) then s.reenter e x (e.n / 4096)
        else
          let judge (e : Reentry) (t : Nat) : Reentry := e.judge s.stage.axScan x s.stage.tracker.treq.toNat t
          match e.cross with
          | some (m, good) =>
            if m ≤ 64 * s.now then
              let e1 := e.step m good
              let s1 := s.passBoundary x e
              if 4096 ≤ e1.good ∧ e1.n % 4096 = 0 ∧ x.dueReady (e1.n / 4096) then
                State.rowClock fuel fresh (s1.onPlay fun p => { p with reentry := some e1 })
              else State.rowClock fuel fresh (s1.onPlay fun p => { p with reentry := some (judge e1 (m / 64)) })
            else s
          | none =>
            if fresh then State.rowClock fuel false (s.onPlay fun p => { p with reentry := some (judge e s.now) })
            else s

end Sys2Proof.Machine
end

