-- ==== Sys2Proof/Machine/GainOps.lean ====
section
/-!
DEFINITION. The gain pair's calibration frames and its end (R362, R366), and the fire marker of either kind
of frame.
-/

namespace Sys2Proof.Machine

/-- Why a gain pair ends without a table. -/
inductive PairEnd where
  | abort | link | stage | camera | cupRange
  deriving DecidableEq, Repr

/-- The status of an end. -/
def PairEnd.status : PairEnd → BitVec 16
  | .abort => ST.calAborted
  | .link => ST.calLink
  | .stage => ST.calStageMoved
  | .camera => ST.calCamera
  | .cupRange => ST.calCupRange

/-- ST_CAL_ABORTED goes with the ends of R366's list. -/
def PairEnd.aborts : PairEnd → Bool
  | .abort | .link | .stage => true
  | .camera | .cupRange => false

/-- A CAL event of the gain loop. -/
def gainEvent (code : BitVec 16) (r1 r2 : Int) (d3 : Nat) : Event :=
  { calEvent code 0 r1 r2 d3 with nodef := nodeF 16 0 0, noder := nodeR 9 2 0 }

/-- The pair leaves: no calibration frame follows, plate usage is committed, PERMIT_OUT follows R434, and the
command that waits is answered. -/
def State.closePair (s : State) (g : GainPair) (st : BitVec 16) (body : List Word) : State :=
  (((((s.onMeas fun m => { m with gain := none }).plateCommit).permitCheck).unwait g.src.mb)).respond g.src st 0 false
    body

/-- A pair ends at once, with no table (R366). -/
def State.endPair (s : State) (c : PairEnd) : State :=
  match s.meas.gain with
  | none => s
  | some g =>
    let s1 := if c.aborts then s.raiseVia (some g.src) none (gainEvent ST.calAborted 0 0 0) else s
    let s2 := if c.status = ST.calAborted then s1 else s1.raiseVia (some g.src) none (gainEvent c.status 0 0 0)
    s2.closePair g c.status []

/-- Region of a beam (R247). -/
def regionOf (b : Nat) : Nat := 8 * (b / 512 / 64) + b % 512 / 64

/-- Set of a beam (R363). -/
def setOf (b : Nat) : Nat := b / 512 % 2 + 2 * (b % 512 % 2)

/-- A beam fired in a step. -/
def firedIn (step b : Nat) : Bool :=
  if step = 0 then false
  else if step ≤ 64 then regionOf b == step - 1
  else step % 2 == 0 && setOf b == (step - 65) / 2

/-- Codes of a calibration frame: CCAL for each beam fired (R362). -/
def GainPair.codes (g : GainPair) : List (Nat × Nat) :=
  (List.range 262144).filterMap fun b =>
    if firedIn g.fired b && !g.dead.contains b then some (b, g.policy.ccal.toNat) else none

/-- Carriers of the map in force. -/
def Link.carriers (l : Link) : List (Nat × Nat) :=
  (l.map.zipIdx.filterMap fun p => p.1.map fun n => (p.2, n)).filter fun gl => !l.latchedOff.contains gl.1

/-- What a calibration frame puts on the wire (R362). -/
def calibrationOutputs (f m : Nat) (cs codes : List (Nat × Nat)) : List Output :=
  (cs.map fun gl =>
    let ws := frameWords f gl.1 false 0xFFFF 0xFFFF 0 codes
    Output.block gl.2 (sofBlock f gl.1 false 0xFFFF 0xFFFF) :: payloadBlocks gl.2 ws ++
      [headBlock gl.2 ws, .block gl.2 (markerBlock f m false)]).flatten

/-- ALPHA and TAU of a gain run: of the pending table, else of the active one, else of the policy (R228, R364). -/
def State.gainParams (s : State) (g : GainPair) : Nat × Nat :=
  match s.beam.pendingT.orElse fun _ => s.beam.activeT with
  | some t => (t.alpha, t.tau)
  | none => (g.policy.alpha0.toNat, g.policy.tau0.toNat)

/-- The marker of a calibration frame, every 625 cycles: history and plate usage follow (R362). -/
def State.fireCalibration (s : State) (g : GainPair) : State :=
  if 64 * s.now + 63 < g.mNext then s
  else
    let m := g.mNext
    let codes := g.codes
    let s1 := s.emits (calibrationOutputs g.flash m s.link.carriers codes)
    let s2 := s1.onBeam fun b => { b with
      hist := histStep (lambdaOf 625 (s.gainParams g).2) b.hist codes, lastM := some m, decays := 0 }
    let s3 := s2.onPlate fun p => { p with
      usage := { p.usage with flashes := p.usage.flashes + 1, on := addOn p.usage.on codes }
      sinceCommit := p.sinceCommit + 1 }
    let s4 := if 2 ^ 22 ≤ s3.plate.sinceCommit then s3.plateCommit else s3
    s4.onMeas fun x => { x with gain := some { g with flash := g.flash + 1, mLast := some m, mNext := m + 40000 } }

/-- FIRE_MARKER: of the placed flash, or of the next calibration frame. -/
def execFireMarker (s : State) : Answer :=
  .next (match s.meas.gain with
    | some g => s.fireCalibration g
    | none => s.fireMarker)

/-- Statuses of calibration frames: any other than FIRED ends the pair (R366). -/
def State.calStatus (s : State) (q : Nat) (w : BitVec 256) : State :=
  match s.meas.gain with
  | none => s
  | some g =>
    let low := fld 63 32 w
    let f : Int := (g.flash : Int) + signedOf 32 (toU 32 ((low : Int) - g.flash))
    let bad (base : Nat) (fl : Int) : Bool :=
      decide (0 ≤ fl) && decide (fl < g.flash) && s.link.carriers.any fun gl =>
        retOf gl.2 == q && fld (base + 4 * (gl.2 % 17) + 3) (base + 4 * (gl.2 % 17)) w != 1
    if bad 64 f || bad 132 (f - 1) then s.endPair .link else s

end Sys2Proof.Machine
end

