-- ==== Sys2Proof/Machine/Stage.lean ====
section
/-!
DEFINITION. Stage position: ports, frames, fusion, speed, integrity, marks, switches and emulation
(chapter 10), and the STAGE commands.
-/

namespace Sys2Proof.Machine

/-! ### Roles and axes (R254) -/

def Stage.axis (g : Stage) : Axis → AxisS
  | .scan => g.axScan
  | .cross => g.axCross

def Stage.onAxis (g : Stage) (a : Axis) (f : AxisS → AxisS) : Stage :=
  match a with
  | .scan => { g with axScan := f g.axScan }
  | .cross => { g with axCross := f g.axCross }

def trackerAxis (t : TrackerRec) : Axis → AxisRec
  | .scan => t.scan
  | .cross => t.cross

def axisNum : Axis → Nat
  | .scan => 0
  | .cross => 1

/-- The axis of a role; none for OFF and AUX. -/
def roleAxis (r : BitVec 3) : Option Axis :=
  if r = 1 ∨ r = 2 then some .scan else if r = 3 ∨ r = 4 then some .cross else none

/-- The roles S1, C1 and S2, C2. -/
def firstRole : Axis → BitVec 3
  | .scan => 1
  | .cross => 3

def secondRole : Axis → BitVec 3
  | .scan => 2
  | .cross => 4

def Stage.port (g : Stage) (n : Nat) : PosPort := g.ports.getD n (PosPort.reset 0)

def Stage.onPos (g : Stage) (n : Nat) (f : PosPort → PosPort) : Stage :=
  { g with ports := g.ports.modify n f }

def Stage.byRole (g : Stage) (r : BitVec 3) : Option PosPort := g.ports.find? (·.cfg.role == r)

/-- Ports that take part in the fusion of this tick: present since an earlier tick (R262). -/
def Stage.inFusion (g : Stage) (p : PosPort) : Bool := p.present && p.presentAt != g.tick

def State.onPos (s : State) (n : Nat) (f : PosPort → PosPort) : State := s.onStage (·.onPos n f)

/-- Event of a port (Table 17-6). -/
def portEvent (code : BitVec 16) (n : Nat) (pos want : Int) (now : Nat) : Event :=
  { stageEvent code n pos want now with nodef := nodeF 12 0 n, noder := nodeR 8 0 n }

/-! ### Integrity (R274) -/

/-- A position-integrity fault is latched; a running stripe halts (R274, Table 11-8 rank 5). -/
def State.integrityFault (s : State) (e : Event) : State :=
  (s.onStage fun g => { g with integrity := true }).stopCause 5 (some e) none

/-- A stripe is RUNNING or STOPPING. -/
def State.running (s : State) : Bool := s.run?.isSome

/-! ### Ticks (R255, R257) -/

/-- The identity last read agrees with a record (R263). -/
def PosPort.agrees (p : PosPort) (r : PortRec) : Bool :=
  p.ident.all fun i => decide (fld 103 96 i = r.lat.toNat ∧ fld 119 104 i = r.td.toNat)

/-- A port under its record: unchanged it keeps everything, changed it restarts absent (R255). It stays held out of
service until a record agrees with its identity or sets IDREAD = 0 (R263). Switch levels follow the new polarity. -/
def PosPort.load (p : PosPort) (r : PortRec) : PosPort :=
  if p.cfg = r then p
  else { PosPort.reset r.role with
    cfg := r
    heldOut := p.heldOut && r.idread && !p.agrees r
    ident := p.ident
    nextMarks := p.nextMarks
    swLevel := p.swLevel.zipIdx.map fun l => (l.1 != p.cfg.swpol.getLsbD l.2) != r.swpol.getLsbD l.2 }

/-- An accepted configuration takes effect; the estimators restart (R255, R268). -/
def Stage.applyCfg (g : Stage) : Stage :=
  match g.nextCfg with
  | none => g
  | some (ps, t) => { g with
      ports := (g.ports.zip ps).map fun p => p.1.load p.2
      tracker := t
      axScan := AxisS.reset
      axCross := AxisS.reset
      nextCfg := none }

/-- An accepted mark table takes effect at the tick (R255, R271). -/
def PosPort.takeMarks (p : PosPort) : PosPort :=
  match p.nextMarks with
  | some ms => { p with marks := ms.map fun m => ⟨m, none, false⟩, nextMarks := none }
  | none => p

/-- An identity read is due: absent, IDREAD, 16 frames passed, no identity yet (R262, R263). -/
def PosPort.wantsId (p : PosPort) : Bool :=
  !p.present && p.cfg.idread && !p.idRead && !p.heldOut && decide (16 ≤ p.passes)

/-! Emulation outputs (R278 to R280). -/

def emuSrc (w : BitVec 64) : Nat := fld 2 0 w
def emuRes (w : BitVec 64) : Nat := fld 7 3 w
def emuZmode (w : BitVec 64) : Bool := bitAt 8 w
def emuInv (w : BitVec 64) : Bool := bitAt 9 w
def emuEn (w : BitVec 64) : Bool := bitAt 10 w
def emuZper (w : BitVec 64) : Nat := fld 63 16 w

/-- The source's position, where it gives a sample. -/
def Stage.emuSource (g : Stage) (w : BitVec 64) : Option Nat :=
  if emuSrc w = 0 then (if g.axScan.posInvalid then none else some g.axScan.x)
  else if emuSrc w = 1 then (if g.axCross.posInvalid then none else some g.axCross.x)
  else (g.port (emuSrc w - 2)).cur

/-- The target count T (R278). -/
def emuTarget (w : BitVec 64) (x : Nat) : Int :=
  let t : Int := x / 2 ^ emuRes w
  if emuInv w then -t else t

/-- Counts still to step, positions being modulo 2^48. -/
def Emu.todo (e : Emu) : Int :=
  signedOf (48 - emuRes e.word) (toU (48 - emuRes e.word) (e.target - e.m))

/-- An emulation output at a tick: the new word, the target and the spacing (R278, R279). -/
def Emu.tickUpd (e : Emu) (src : Option Nat) (treq : Nat) : Emu :=
  if !emuEn e.word then { e with enabled := false }
  else match src with
    | none => { e with target := e.m }
    | some x =>
      let t := emuTarget e.word x
      let e1 := if e.enabled then { e with target := t } else { e with enabled := true, m := t, target := t }
      let k := e1.todo.natAbs
      { e1 with gap := max 100 (treq / max k 1), overrun := decide (treq < 100 * k) }

/-- The outputs at a tick, and an overrun event where an episode begins. -/
def State.tickEmus (s : State) : State :=
  let g := s.stage
  let treq := g.tracker.treq.toNat
  (s.stage.emus.zipIdx).foldl (fun t (p : Emu × Nat) =>
    let e0 := { p.1 with word := p.1.next.getD p.1.word, next := none }
    let e1 := e0.tickUpd (g.emuSource e0.word) treq
    let t1 := t.onStage fun g => { g with emus := g.emus.set p.2 e1 }
    if e1.overrun && !p.1.overrun then
      t1.raise { stageEvent ST.stageEmuOverrun p.2 e1.m e1.target s.now with nodef := nodeF 12 1 p.2 }
    else t1) s

/-- ENCODER_TICK: every TREQ cycles each port in a role sends its request (R257, R263, R279). -/
def execEncoderTick (s : State) : Answer :=
  let g := s.stage
  let treq := g.tracker.treq.toNat
  if (treq = 0 ∧ g.nextCfg.isNone) ∨ (treq ≠ 0 ∧ s.now < g.tick + treq) then .next s
  else
    let s1 := s.tickEmus
    let s2 := s1.onStage fun g =>
      let g1 := g.applyCfg
      { g1 with
        prevTick := g1.tick
        tick := s.now
        ports := g1.ports.map fun p => { p.takeMarks with ended := false, cur := none } }
    .next (s2.emits (s2.stage.ports.zipIdx.filterMap fun p =>
      if p.1.cfg.role = 0 then none else some (.posRequest p.2 p.1.wantsId s.now)))

/-! ### Frames (R258 to R263) -/

/-- The bits of a frame that its CRC covers. -/
def frameBits (wbits : Nat) (f : PosFrame) : List Bool :=
  msbBits wbits f.count.toNat ++ msbBits 8 f.status.toNat

/-- The position word of a count (R260). -/
def posWord (c : PortRec) (n : Nat) : Nat :=
  let k := rdiv ((n : Int) * c.scale.toNat) (2 ^ 24)
  toU 48 ((c.offset.toNat : Int) + if c.dirinv then -k else k)

/-- The sample referred to the tick instant (R260). -/
def refTick (c : PortRec) (x : Nat) (v : Int) : Nat := toU 48 ((x : Int) - rdiv (v * c.td.toNat) 65536)

/-- The prediction of an axis at a counter value (R266). -/
def AxisS.atTick (a : AxisS) (t : Nat) : Nat := toU 48 (a.x + rdiv (a.v * ((t : Int) - a.t)) 65536)

/-- The jump check of R261. -/
def jumpOk (g : Stage) (p : PosPort) (x : Nat) : Bool :=
  let own : Bool := match p.last with
    | some (y, _) => decide ((wrap48 ((x : Int) - y)).natAbs ≤ p.cfg.jump.toNat)
    | none => true
  match roleAxis p.cfg.role with
  | none => own
  | some ax =>
    let a := g.axis ax
    if a.st = .settling then own
    else
      let off : Int := if p.cfg.role = secondRole ax then signedOf 48 (trackerAxis g.tracker ax).pairoff.toNat else 0
      decide ((wrap48 ((x : Int) + off - a.atTick g.tick)).natAbs ≤ p.cfg.jump.toNat)

/-- How a frame ends. -/
inductive FrameEnd where
  | noResp | crc | err | jump
  | pass (x : Nat) (warn : Bool)
  deriving DecidableEq, Repr

/-- The speed that an axis reported at the previous tick, where it has fused at this one already too (R260). -/
def Stage.lastSpeed (g : Stage) (ax : Axis) : Int :=
  let a := g.axis ax
  if a.tk = some g.tick then a.vPrev else a.v

/-- The checks of Table 10-2 in order. -/
def judgeFrame (g : Stage) (p : PosPort) (f : Option PosFrame) : FrameEnd :=
  match f with
  | none => .noResp
  | some f =>
    let lim := p.cfg.lat.toNat + 2
    if lim < f.start0.toNat ∨ (p.cfg.lanes = true ∧ lim < f.start1.toNat) then .noResp
    else if crc16Bits 0xFFFF (frameBits p.cfg.wbits.toNat f) ≠ f.crc then .crc
    else if f.status.getLsbD 7 then .err
    else
      let n := f.count.toNat % 2 ^ p.cfg.wbits.toNat
      let v := match roleAxis p.cfg.role with
        | some ax => g.lastSpeed ax
        | none => 0
      let x := refTick p.cfg (posWord p.cfg n) v
      if jumpOk g p x then .pass x (f.status.getLsbD 6) else .jump

/-- A port becomes present (R262). -/
def State.portArrives (s : State) (n : Nat) : State :=
  let p := s.stage.port n
  if !p.present && decide (16 ≤ p.passes) && (!p.cfg.idread || p.idRead) && !p.heldOut then
    (s.onPos n fun p => { p with present := true, presentAt := s.stage.tick }).raise
      (portEvent ST.stagePortArrived n ((p.last.map (·.1)).getD 0) 0 s.now)
  else s

/-- A failed frame: its count, and departure after FAILMAX (R259, R262). -/
def State.frameFails (s : State) (n : Nat) (f : PosPort → PosPort) : State :=
  let s1 := s.onPos n fun p => { f p with fails := p.fails + 1, passes := 0, ended := true, cur := none }
  let p := s1.stage.port n
  if p.present && decide (p.cfg.failmax.toNat ≤ p.fails) then
    (s1.onPos n fun p => { p with present := false, idRead := false }).fault none
      (portEvent ST.stagePortDeparted n ((p.last.map (·.1)).getD 0) 0 s.now)
  else s1

/-- The fused sample of an axis at a tick; where the axis gave none, its prediction (R265, R266). -/
def Stage.fusedAt (g : Stage) (ax : Axis) (t : Nat) : Nat :=
  let a := g.axis ax
  ((a.fused.find? fun f => f.1 == t).map (·.2)).getD (a.atTick t)

/-- The latched position of an edge between two ticks (R271). -/
def Stage.latch (g : Stage) (p : PosPort) (edge : Nat) : Nat :=
  let at' (t : Nat) : Option Nat := match p.last, p.before with
    | some (x, u), b => if u = t then some x else match b with
        | some (y, w) => if w = t then some y else none
        | none => none
    | none, _ => none
  let (a, b) : Nat × Nat := match at' g.prevTick, at' g.tick with
    | some a, some b => (a, b)
    | _, _ =>
      match roleAxis p.cfg.role with
      | some ax => (g.fusedAt ax g.prevTick, g.fusedAt ax g.tick)
      | none =>
        let near := (p.last.map (·.1)).getD 0
        ((at' g.prevTick).getD near, (at' g.tick).getD near)
  toU 48 ((a : Int) + rdiv (wrap48 ((b : Int) - a) * ((edge : Int) - g.prevTick)) g.tracker.treq.toNat)

/-- A latched position lies within a distance of an entry. -/
def MarkS.within (m : MarkS) (l tol : Nat) : Bool :=
  decide ((wrap48 ((l : Int) - m.e.mpos.toNat)).natAbs ≤ tol)

/-- An entry watched at a passing sample: the side it was last outside on, and whether it is missed
(R273). -/
def MarkS.watch (m : MarkS) (x : Nat) (pend : Bool) : MarkS × Bool :=
  let rel := wrap48 ((x : Int) - m.e.mpos.toNat)
  if !m.e.used || decide (rel.natAbs ≤ m.e.mwin.toNat) then (m, false)
  else ({ m with side := some rel.sign, passed := false }, m.side == some (-rel.sign) && !m.passed && !pend)

/-- Missed entries of port `n` at its sample of this tick (R273). -/
def State.watchMarks (s : State) (n : Nat) : State :=
  let g := s.stage
  let p := g.port n
  match p.cur, p.cfg.refen with
  | some x, true =>
    let ls := p.edges.map (g.latch p)
    let r := p.marks.map fun m => (m.watch x (ls.any fun l => m.within l m.e.mtol.toNat), m)
    let s1 := s.onPos n fun p => { p with marks := r.map fun z => z.1.1 }
    (r.filter fun z => z.1.2).foldl (fun t z =>
      let e := portEvent ST.stageRefMissing n x z.2.e.mpos.toNat s.now
      if p.cfg.missact = 0 then t
      else if p.cfg.missact = 2 ∧ (roleAxis p.cfg.role).isSome then t.integrityFault e
      else t.raise e) s1
  | _, _ => s

/-- A passing frame gives the port's sample of this tick; an AUX port's is judged against its marks at once (R273). -/
def State.framePasses (s : State) (n x : Nat) (warn : Bool) (bits : BitVec 6) : State :=
  let s1 := s.onPos n fun p => { p with
    status := bits
    fails := 0
    passes := p.passes + 1
    cWarn := if warn then p.cWarn + 1 else p.cWarn
    before := p.last
    last := some (x, s.stage.tick)
    cur := some x
    ended := true }
  (if roleAxis (s.stage.port n).cfg.role = none then s1.watchMarks n else s1).portArrives n

/-- POSITION_FRAME. -/
def execPositionFrame (port : BitVec 3) (f : Option PosFrame) (s : State) : Answer :=
  let n := port.toNat
  let p := s.stage.port n
  let bits : BitVec 6 := ((f.map fun (z : PosFrame) => z.status).getD 0).setWidth 6
  if p.cfg.role = 0 ∨ p.ended = true then .next s
  else match judgeFrame s.stage p f with
    | .noResp => .next (s.frameFails n fun p => { p with cNoResp := p.cNoResp + 1 })
    | .crc => .next (s.frameFails n fun p => { p with cCrc := p.cCrc + 1 })
    | .err => .next (s.frameFails n fun p => { p with cErr := p.cErr + 1, status := bits })
    | .jump => .next (s.frameFails n fun p => { p with cJump := p.cJump + 1, status := bits })
    | .pass x w => .next (s.framePasses n x w bits)

/-- An identity answer holds: marker and CRC (R263). -/
def identityOk (a : IdAnswer) : Bool :=
  a.marker == 0xA9 && crc16Bits 0xFFFF (msbBits 8 a.marker.toNat ++ msbBits 128 a.bits.toNat) == a.crc

/-- ENCODER_IDENTITY_READ: only while the port is absent (R263). -/
def execEncoderIdentityRead (port : BitVec 3) (a : Option IdAnswer) (s : State) : Answer :=
  let n := port.toNat
  let p := s.stage.port n
  if p.cfg.role = 0 ∨ p.wantsId = false then .next s
  else
    let bad : Event := portEvent ST.stageIdMismatch n ((p.last.map (·.1)).getD 0) 0 s.now
    match a with
    | none => .next (s.fault none bad)
    | some a =>
      if !identityOk a then .next (s.fault none bad)
      else if fld 103 96 a.bits ≠ p.cfg.lat.toNat ∨ fld 119 104 a.bits ≠ p.cfg.td.toNat then
        .next ((s.onPos n fun p => { p with heldOut := true, ident := some a.bits }).fault none bad)
      else .next ((s.onPos n fun p => { p with idRead := true, ident := some a.bits }).portArrives n)

/-! ### Fusion and speed (R264 to R270) -/

/-- The sum S of R267. -/
def slopeSum (y0 : Nat) (n : Nat) : Nat → List Nat → Int
  | _, [] => 0
  | i, y :: ys => (2 * (i : Int) - n + 1) * wrap48 ((y : Int) - y0) + slopeSum y0 n (i + 1) ys

/-- Speed (R267). -/
def speedOf (ys : List Nat) (period : Nat) (dir : Int) : Int :=
  let n := ys.length
  if n < 2 then 0
  else
    let v := rdiv (6 * 65536 * slopeSum (ys.headD 0) n 0 ys) ((n : Int) * (n * n - 1) * period)
    if dir ≠ 0 ∧ v.sign = -dir then 0 else v

/-- The estimator at a fused sample (R267 to R269, Table 10-4). -/
def AxisS.sample (a : AxisS) (c : AxisRec) (treq tick x : Nat) (filled degraded : Bool) : AxisS :=
  let db := c.db.toNat
  let d : Int := match a.prevX with
    | some y => wrap48 ((x : Int) - y)
    | none => 0
  let fromAnchor : Int := match a.anchor with
    | some y => wrap48 ((x : Int) - y)
    | none => 0
  let moved := a.anchor.isNone || decide (db < fromAnchor.natAbs)
  let still := if moved then 0 else a.still + 1
  let anchor := if moved then some x else a.anchor
  let dir := if db < d.natAbs then d.sign else a.dir
  let pair : List Nat := match a.prevX with
    | some y => [y, x]
    | none => [x]
  let base := { a with
    x := x, t := tick, prevX := some x, still := still, anchor := anchor, dir := dir, filled := filled,
    degraded := degraded, fused := (tick, x) :: a.fused.take 1 }
  if a.st = .still then
    if db < fromAnchor.natAbs then
      { base with st := .settling, window := pair, dir := fromAnchor.sign, v := speedOf pair treq fromAnchor.sign }
    else { base with v := 0 }
  else if a.dir ≠ 0 ∧ db < d.natAbs ∧ d.sign = -a.dir then
    { base with st := .settling, window := pair, v := speedOf pair treq dir }
  else if c.tstill.toNat ≤ still then { base with st := .still, window := [], v := 0 }
  else
    let w := a.window ++ [x]
    let w1 := if c.nwin.toNat < w.length then w.drop (w.length - c.nwin.toNat) else w
    { base with
      st := if c.nwin.toNat ≤ w1.length then .valid else .settling
      window := w1
      v := speedOf w1 treq dir }

/-- The window is emptied and the estimator settles (R265, first row of Table 10-4). -/
def AxisS.empty (a : AxisS) : AxisS := { a with st := .settling, window := [], v := 0, prevX := none, filled := false }

/-- The fused sample of two passing ports (R264). -/
def fuseBoth (first second : Nat) (pairoff : Int) : Nat :=
  toU 48 ((first : Int) + (wrap48 ((second : Int) - first) + pairoff) / 2)

/-- The two ports disagree (R265). -/
def pairDisagrees (first second : Nat) (pairoff : Int) (pairtol : Nat) : Bool :=
  decide (pairtol < (wrap48 ((first : Int) - second) - pairoff).natAbs)

/-- The passing sample of a role that takes part in fusion at this tick. -/
def Stage.roleSample (g : Stage) (r : BitVec 3) : Option Nat :=
  match g.byRole r with
  | some p => if g.inFusion p then p.cur else none
  | none => none

/-- Every port of the axis in fusion has ended its frame (R264). -/
def Stage.framesEnded (g : Stage) (ax : Axis) : Bool :=
  g.ports.all fun p => roleAxis p.cfg.role != some ax || !g.inFusion p || p.ended

/-- Samples of an axis's ports judged against their marks. An AUX port's are judged at its own frame's end. -/
def State.watchAxis (s : State) (ax : Axis) : State :=
  (List.range 6).foldl (fun t n =>
    if roleAxis (t.stage.port n).cfg.role = some ax then t.watchMarks n else t) s

/-- The axis state word (R270). -/
def Stage.axisWord (g : Stage) (ax : Axis) (now : Nat) : Word :=
  let a := g.axis ax
  packW [(0, 48, a.x), (48, 32, toU 32 a.v), (80, 2, match a.st with
      | .settling => 0
      | .valid => 1
      | .still => 2), (82, 1, b2n a.filled), (83, 1, b2n a.degraded), (84, 1, b2n a.posInvalid),
    (85, 1, b2n (a.stale (trackerAxis g.tracker ax) g.tracker.treq.toNat now)), (86, 1, b2n g.integrity),
    (88, 40, (a.tk.getD 0) % 2 ^ 40)]

/-- An event or, in a run, an integrity fault (R265). -/
def State.axisFault (s : State) (e : Event) : State :=
  if s.running then s.integrityFault e else s.fault none e

/-- What one tick gives an axis: its new state and, by flag, a pair disagreement, a sample gap, a lost
axis. -/
def Stage.fuse (g : Stage) (ax : Axis) : AxisS × Bool × Bool × Bool :=
  let c := trackerAxis g.tracker ax
  let treq := g.tracker.treq.toNat
  let off := signedOf 48 c.pairoff.toNat
  let f := g.roleSample (firstRole ax)
  let d := g.roleSample (secondRole ax)
  let two := (g.byRole (firstRole ax)).isSome && (g.byRole (secondRole ax)).isSome
  let held := g.ports.any fun p => roleAxis p.cfg.role == some ax && p.present
  let a := { g.axis ax with tk := some g.tick, vPrev := (g.axis ax).v }
  let degraded := two && !(f.isSome && d.isSome)
  let dis := match f, d with
    | some x, some y => pairDisagrees x y off c.pairtol.toNat
    | _, _ => false
  let a1 := { a with
    lastDisagree := dis, pairBad := if dis then a.pairBad + 1 else 0, hadPort := held, degraded := degraded }
  let pairEv := dis && a1.pairBad == c.kpair.toNat
  if !held then ({ a1.empty with missing := a1.missing + 1 }, pairEv, false, a.hadPort)
  else
    let x : Option Nat := match f, d with
      | some x, some y => some (fuseBoth x y off)
      | some x, none => some x
      | none, some y => some (toU 48 ((y : Int) + off))
      | none, none => none
    match x with
    | some x => ({ a1 with missing := 0 }.sample c treq g.tick x false degraded, pairEv, false, false)
    | none =>
      let a2 := { a1 with missing := a1.missing + 1 }
      if c.mmiss.toNat + 1 ≤ a2.missing then (a2.empty, pairEv, a2.missing == c.mmiss.toNat + 1, false)
      else if a2.posInvalid then (a2, pairEv, false, false)
      else (a2.sample c treq g.tick (a2.atTick g.tick) true degraded, pairEv, false, false)

/-- The faults of a fusion. -/
def State.fuseFaults (s : State) (ax : Axis) (dis gap lost : Bool) : State :=
  let a := s.stage.axis ax
  let e (c : BitVec 16) : Event := stageEvent c (axisNum ax) a.x 0 s.now
  let s1 := if dis then s.integrityFault (e ST.stagePairDisagree) else s
  let s2 := if gap then s1.axisFault (e ST.stageSampleGap) else s1
  if lost then s2.axisFault (e ST.stageAxisLost) else s2

/-- A new fused scan sample: the pending flash is evaluated again, and the row clock (R284, R305). -/
def State.newSample (s : State) (ax : Axis) : State :=
  match ax with
  | .scan => State.rowClock 8192 true s.evaluateRun
  | .cross => s

/-- The fusion of one axis at the tick. Rows that the row clock of a halted stripe crossed since the last sample
are counted on that sample first (R305). -/
def State.axisFusion (s : State) (ax : Axis) : State :=
  let r := s.stage.fuse ax
  let s0 := if ax = .scan then State.rowClock 8192 false s else s
  let s1 := s0.onStage fun g => g.onAxis ax fun _ => r.1
  let s1 := if r.1.st = .still then s1 else s1.endPair .stage
  let s2 := (s1.fuseFaults ax r.2.1 r.2.2.1 r.2.2.2).watchAxis ax
  (s2.newSample ax).traceRec (1 + axisNum ax) (s2.stage.axisWord ax s.now)

/-- AXIS_FUSION: once per tick, when every present port of the axis has ended its frame. -/
def execAxisFusion (ax : Axis) (s : State) : Answer :=
  if s.stage.tracker.treq = 0 ∨ (s.stage.axis ax).tk = some s.stage.tick ∨ !s.stage.framesEnded ax then .next s
  else .next (s.axisFusion ax)

/-! ### Marks (R271 to R273) -/

/-- The port whose marks drive the Z output of a source (R280). -/
def Stage.zPort (g : Stage) (src : Nat) : Option Nat :=
  let find (r : BitVec 3) : Option Nat := g.ports.findIdx? (·.cfg.role == r)
  let pick (ax : Axis) : Option Nat :=
    match g.byRole (firstRole ax) with
    | some p => if p.present then find (firstRole ax) else find (secondRole ax)
    | none => find (secondRole ax)
  if src = 0 then pick .scan else if src = 1 then pick .cross else some (src - 2)

/-- A Z pulse is owed one tick plus 60 ns after an accepted mark edge (R280). -/
def Stage.owePulse (g : Stage) (n now : Nat) : Stage :=
  { g with emus := g.emus.map fun e =>
      if e.enabled && !emuZmode e.word && g.zPort (emuSrc e.word) == some n then
        { e with zPulse := e.zPulse ++ [now + g.tracker.treq.toNat + 150] } else e }

/-- REFERENCE_MARK_EDGE. -/
def execReferenceMarkEdge (port : BitVec 3) (rising : Bool) (s : State) : Answer :=
  let n := port.toNat
  let p := s.stage.port n
  if p.cfg.role = 0 ∨ p.cfg.refen = false ∨ rising = p.cfg.refpol then .next s
  else
    let close := match p.edgeSeen with
      | some t => decide (s.now < t + cycUs 1)
      | none => false
    if close then .next (s.onPos n fun p => { p with edgeIgn := p.edgeIgn + 1 })
    else .next ((s.onPos n fun p => { p with edges := p.edges ++ [s.now], edgeSeen := some s.now }).onStage
      (·.owePulse n s.now))

/-- The used entry nearest to a latched position. -/
def nearestMark (l : Nat) (ms : List MarkS) : Nat :=
  match ms.filter (·.e.used) with
  | [] => 0
  | m :: rest =>
    let far (k : MarkS) : Nat := (wrap48 ((l : Int) - k.e.mpos.toNat)).natAbs
    (rest.foldl (fun b k => if far k < far b then k else b) m).e.mpos.toNat

/-- A latched mark judged (R272). -/
def State.judgeMark (s : State) (n l : Nat) : State :=
  let p := s.stage.port n
  let hit := p.marks.find? fun m => m.e.used && m.within l m.e.mtol.toNat
  match hit with
  | some m =>
    s.onPos n fun p => { p with
      markDev := some (wrap48 ((l : Int) - m.e.mpos.toNat))
      marks := p.marks.map fun k => if k.e = m.e then { k with passed := true } else k }
  | none =>
    let e := portEvent ST.stageRefMismatch n l (nearestMark l p.marks) s.now
    if (roleAxis p.cfg.role).isSome then s.integrityFault e else s.raise e

/-- The samples of the tick after an edge are known. -/
def Stage.resolvable (g : Stage) (p : PosPort) : Bool :=
  match roleAxis p.cfg.role with
  | some ax => (g.axis ax).tk == some g.tick
  | none => p.ended

/-- MARK_RESOLVE: edges of the elapsed tick, and an edge of HOME (R271, R275). -/
def execMarkResolve (port : BitVec 3) (s : State) : Answer :=
  let n := port.toNat
  let g := s.stage
  let p := g.port n
  if !g.resolvable p then .next s
  else
    let due := p.edges.filter (· < g.tick)
    let s1 := s.onPos n fun p => { p with
      edges := p.edges.filter fun e => !decide (e < g.tick)
      home := match p.homeEdge with
        | some e => if e < g.tick then some (g.latch p e) else p.home
        | none => p.home
      homeEdge := p.homeEdge.filter fun e => !decide (e < g.tick) }
    .next (due.foldl (fun t e => t.judgeMark n (g.latch p e)) s1)

/-! ### Switch triples (R275 to R277) -/

def inputIx : SwitchInput → Nat
  | .limn => 0
  | .home => 1
  | .limp => 2

/-- Edge-rate mode (R275). -/
def State.edgeRate (s : State) : Bool := !s.power.ready || s.stage.swTest || s.stage.recovery

/-- LIMN with LIMP, or HOME with a limit under EXCL (R276). -/
def badCombo (excl : Bool) (l : List Bool) : Bool × Bool :=
  let n := l.getD 0 false
  let h := l.getD 1 false
  let p := l.getD 2 false
  (n && p, excl && h && (n || p))

/-- A switch event in combination mode: in a run on an S or C port a drain cause (R276). -/
def State.switchStop (s : State) (p : PosPort) (e : Event) : State :=
  let inRun := match s.run? with
    | some (_, x) => x.st == .running
    | none => false
  if inRun && (roleAxis p.cfg.role).isSome then s.stopCause 16 (some e) none else s.raise e

/-- The bits of the active inputs, LIMN lowest. -/
def comboBits (l : List Bool) : Nat := b2n (l.getD 0 false) + 2 * b2n (l.getD 1 false) + 4 * b2n (l.getD 2 false)

/-- Combination mode (R276). -/
def State.comboCheck (s : State) (n : Nat) (p : PosPort) (i : SwitchInput) (now' : List Bool) : State :=
  let b := badCombo p.cfg.excl p.swLevel
  let a := badCombo p.cfg.excl now'
  if (a.1 && !b.1) || (a.2 && !b.2) then
    s.switchStop p (portEvent ST.stageSwitchCombo n (comboBits now') 0 s.now)
  else if now'.getD (inputIx i) false && i != .home && !a.1 && !a.2 then
    s.switchStop p (portEvent ST.stageLimit n (comboBits now') 0 s.now)
  else s

/-- Edge-rate mode (R277). -/
def State.rateCheck (s : State) (n : Nat) (p : PosPort) (i : Nat) : State :=
  let spacing := 25 * (if p.cfg.edgemin = 0 then 200 else p.cfg.edgemin.toNat)
  let close := match p.swLast.getD i none with
    | some t => decide (s.now < t + spacing)
    | none => false
  if !close then s
  else
    let k := satInc 16 (p.swCount.getD i 0)
    let tell := match p.swRaised.getD i none with
      | some t => decide (t + cycMs 100 ≤ s.now)
      | none => true
    let s1 := s.onPos n fun p => { p with
      swCount := p.swCount.set i k
      swRaised := if tell then p.swRaised.set i (some s.now) else p.swRaised }
    if tell then s1.raise (portEvent ST.stageSwitchEdge n (2 ^ i : Nat) k s.now) else s1

/-- SWITCH_EDGE: an accepted edge of a switch input. -/
def execSwitchEdge (port : BitVec 3) (i : SwitchInput) (level : Bool) (s : State) : Answer :=
  let n := port.toNat
  let p := s.stage.port n
  let k := inputIx i
  let active := level != p.cfg.swpol.getLsbD k
  if p.swLevel.getD k false = active then .next s
  else
    let now' := p.swLevel.set k active
    let s1 := if s.edgeRate then s.rateCheck n p k else s.comboCheck n p i now'
    .next (s1.onPos n fun q => { q with
      swLevel := now'
      swLast := q.swLast.set k (some s.now)
      homeEdge := if i = .home then some s.now else q.homeEdge })

/-! ### Emulation outputs (Table 10-7, R279, R280) -/

def Emu.zLevel (e : Emu) (now : Nat) : Bool :=
  if emuZmode e.word then decide (emuZper e.word ≠ 0 ∧ e.m % (emuZper e.word : Int) = 0)
  else e.zPulse.any fun t => decide (t ≤ now ∧ now < t + 100)

/-- Levels of A and B at a count. -/
def quadA (m : Int) : Bool := m % 4 == 1 || m % 4 == 2
def quadB (m : Int) : Bool := m % 4 == 2 || m % 4 == 3

/-- EMU_STEP: one count toward the target at the spacing of the tick; the levels follow. -/
def execEmuStep (k : BitVec 1) (s : State) : Answer :=
  let e := s.stage.emus.getD k.toNat Emu.reset
  if !e.enabled then .next s
  else
    let d := e.todo
    let go := decide (d ≠ 0) && decide (e.lastStep + e.gap ≤ s.now)
    let e1 := { e with
      m := if go then e.m + d.sign else e.m
      lastStep := if go then s.now else e.lastStep
      zPulse := e.zPulse.filter fun t => decide (s.now < t + 100) }
    .next ((s.onStage fun g => { g with emus := g.emus.set k.toNat e1 }).emit
      (.emu k.toNat (quadA e1.m) (quadB e1.m) (e1.zLevel s.now)))

/-- PERMIT_IN_CHANGE: PERMIT_OUT follows R434; a beams stripe halts (Table 11-8 rank 4). -/
def execPermitInChange (level : Bool) (s : State) : Answer :=
  let s1 := (s.onRef fun r => { r with permitIn := level }).permitCheck
  let beams := match s.run? with
    | some (_, x) => x.target == 0
    | none => false
  .next (if level then s1
    else if beams then s1.stopCause 4 (some (stripeEvent ST.stripePermitLost 0 none)) none else s1.endPair .abort)

/-! ### Commands (Table 17-11) -/

/-- Clocks of a frame (R258). -/
def frameClocks (r : PortRec) : Nat :=
  let lanes := if r.lanes then 2 else 1
  r.lat.toNat + 1 + (r.wbits.toNat + 24 + lanes - 1) / lanes + 4

/-- The frame fits the tick: C · CLKDIV · 5 ns ≤ TREQ · 0.4 ns − 50 ns. -/
def frameFits (r : PortRec) (treq : Nat) : Bool :=
  r.role == 0 || decide (frameClocks r * r.clkdiv.toNat * 50 + 500 ≤ 4 * treq)

/-- A port record in its ranges (Table 10-1). -/
def portRecOk (r : PortRec) : Bool :=
  r.role != 7 && decide (2 ≤ r.clkdiv.toNat ∧ r.clkdiv.toNat ≤ 200) &&
  decide (24 ≤ r.wbits.toNat ∧ r.wbits.toNat ≤ 48) && r.failmax != 0 && r.scale != 0 && r.jump != 0 &&
  r.missact != 3 && (r.edgemin == 0 || decide (10 ≤ r.edgemin.toNat ∧ r.edgemin.toNat ≤ 10000))

/-- An axis of the tracker record in its ranges (Table 10-5). -/
def axisRecOk (r : AxisRec) (treq : Nat) : Bool :=
  decide (4 ≤ r.nwin.toNat ∧ r.nwin.toNat ≤ 64) &&
  decide ((25000 + treq - 1) / treq ≤ r.tstill.toNat ∧ r.tstill.toNat ≤ 2000000 ∧ r.tstill.toNat * treq ≤ cycS 1) &&
  r.horizon != 0 && decide (r.mmiss.toNat ≤ 4) && r.kpair != 0 && r.pairtol != 0

def trackerOk (t : TrackerRec) : Bool :=
  let q := t.treq.toNat
  decide (q % 25 = 0 ∧ 1250 ≤ q ∧ q ≤ 250000) && axisRecOk t.scan q && axisRecOk t.cross q

/-- No role but OFF is held twice (R254). -/
def rolesOk : List (BitVec 3) → Bool
  | [] => true
  | r :: rs => (r == 0 || !rs.contains r) && rolesOk rs

/-- A configuration of R255. -/
def stageCfgOk (ps : List PortRec) (t : TrackerRec) : Bool :=
  ps.length == 6 && ps.all portRecOk && rolesOk (ps.map (·.role)) && trackerOk t &&
    ps.all (frameFits · t.treq.toNat)

/-- No stripe is ARMED, RUNNING or STOPPING. -/
def State.quiet (s : State) : Bool := s.active?.isNone

/-- STAGE.CONFIG (R255). -/
def execStageConfig (src : Src) (ports : List PortRec) (tracker : TrackerRec) (s : State) : Answer :=
  .next (s.command src [(s.quiet, ST.stageBusy), (stageCfgOk ports tracker, ST.stageConfig)] fun s =>
    (s.onStage fun g => { g with nextCfg := some (ports, tracker) }).ok src [])

/-- STAGE.MARKS: in effect at the next tick (R255, R271). -/
def execStageMarks (src : Src) (port : BitVec 3) (marks : List MarkEntry) (s : State) : Answer :=
  .next (s.command src
    [(s.quiet, ST.stageBusy),
     (decide (port.toNat < 6 ∧ marks.length ≤ 16) && marks.all (fun m => decide (m.mtol.toNat ≤ m.mwin.toNat)),
       ST.stageConfig)] fun s =>
    (s.onPos port.toNat fun p => { p with nextMarks := some marks }).ok src [])

/-- Figures of a port in STAGE.STATUS, the status bits 5:0 and the identity among them (R258, R263). -/
def PosPort.figures (p : PosPort) : List Nat :=
  [b2n p.present, p.cNoResp, p.cCrc, p.cErr, p.cJump, p.cWarn, p.edgeIgn, toU 48 (p.markDev.getD 0),
   p.home.getD 0, p.status.toNat, b2n p.heldOut, (p.ident.getD 0).toNat % 2 ^ 96] ++ p.swCount

/-- STAGE.STATUS: axis state words, port presence and counts, switch counts, motion controller. -/
def execStageStatus (src : Src) (s : State) : Answer :=
  .next (s.ok src (layoutBody 0x0503 ([(s.stage.axisWord .scan s.now).toNat, (s.stage.axisWord .cross s.now).toNat] ++
    (s.stage.ports.map (·.figures)).flatten ++
    [b2n s.pacer.mcPresent, s.pacer.mcState.toNat, s.pacer.mcCmdv.toNat, s.pacer.mcId.toNat])))

/-- A cause of R274 persists for an axis at the latest tick it has fused. -/
def Stage.persists (g : Stage) (ax : Axis) : Bool :=
  let a := g.axis ax
  let holds := g.ports.any fun p => roleAxis p.cfg.role == some ax
  a.tk.isSome && (a.lastDisagree || (holds && !a.hadPort) || decide (a.missing ≠ 0))

/-- STAGE.FAULT.CLEAR (R274). -/
def execStageFaultClear (src : Src) (s : State) : Answer :=
  .next (s.command src [(!s.stage.persists .scan && !s.stage.persists .cross, ST.stageIntegrity)] fun s =>
    (s.onStage fun g => { g with integrity := false }).ok src [])

/-- STAGE.SWITCH.TEST (R275, R277). -/
def execStageSwitchTest (src : Src) (on : Bool) (s : State) : Answer :=
  .next (s.command src [(s.quiet, ST.stageBusy)] fun s =>
    (s.onStage fun g => { g with
      swTest := on
      ports := if on then g.ports.map fun p => { p with swCount := [0, 0, 0] } else g.ports }).ok src [])

/-- A policy record in its ranges (Table 11-5). -/
def policyOk (p : BitVec 64) : Bool :=
  decide (fld 15 8 p + 1 ≤ fld 24 16 p ∧ fld 24 16 p ≤ 256)

/-- STAGE.PACE.POLICY: from the next PACE frame (R291). -/
def execStagePacePolicy (src : Src) (policy : BitVec 64) (s : State) : Answer :=
  .next (s.command src [(fld 63 42 policy == 0, ST.sysField), (policyOk policy, ST.stageConfig)] fun s =>
    (s.onPacer fun p => { p with policyNext := some policy }).ok src [])

/-- An emulation word in its ranges (R278). -/
def emuWordOk (w : BitVec 64) : Bool := decide (emuRes w ≤ 16)

/-- STAGE.EMU: from the next tick (R278). -/
def execStageEmu (src : Src) (emu0 emu1 : BitVec 64) (s : State) : Answer :=
  .next (s.command src
    [(fld 15 11 emu0 == 0 && fld 15 11 emu1 == 0, ST.sysField), (emuWordOk emu0 && emuWordOk emu1, ST.stageConfig)]
    fun s =>
    (s.onStage fun g => { g with emus := (g.emus.zip [emu0, emu1]).map fun p =>
      { p.1 with next := some p.2 } }).ok src [])

end Sys2Proof.Machine
end

