-- ==== Sys2Proof/Machine/Pacer.lean ====
section
/-!
DEFINITION. Render lead figures (Table 6-4), the Pacer's ceiling and frames, and the motion controller
(R290 to R294).
-/

namespace Sys2Proof.Machine

/-! ### Lead figures (R25, R172) -/

/-- ADMITTED or READY: admitted, first flash not placed. -/
def LState.isAdmitted : LState → Bool
  | .admitted | .ready => true
  | _ => false

/-- Segments that occupy segment space (R162). -/
def LState.isHeld : LState → Bool
  | .landing | .landed | .sealed | .admitted | .ready | .exposing | .witnessFailed | .unverifiable => true
  | _ => false

/-- First exposure position whose segment is not complete; a beam fault counts as complete (Table 1-6). -/
def Stripe.firstOpen (x : Stripe) : Option Nat :=
  (List.range x.nseg).find? fun q => match x.seg? (x.pos q) with
    | some g => g.outcome != .complete && g.outcome != .beamFault
    | none => false

/-- The stripe whose terms are in force; HALTED with re-entry pending counts as RUNNING (R290). -/
def State.paced? (s : State) : Option (Stripe × Bool) :=
  match s.active? with
  | some x => some (x, x.st == .armed || x.st == .running)
  | none => match s.play.reentry with
    | some e => (s.stripe? e.run.st).map fun x => (x, true)
    | none => none

/-- The stripe in play and those after it. Where no stripe is in play the rule names none: the stripes still to be
run count, DEFINED and CHECKED (DESIGN CHOICE, log entry 32). -/
def State.leadStripes (s : State) : List Stripe :=
  match s.paced? with
  | some (x, _) => s.jobs.stripes.dropWhile fun y => y.id != x.id
  | none => s.jobs.stripes.filter fun x => x.st == .defined || x.st == .checked

/-- Exposure position of the next segment of a stripe whose first flash is not placed. -/
def State.nextPosOf (s : State) (x : Stripe) : Nat :=
  match s.play.run, s.play.reentry with
  | some r, _ =>
    if r.st = x.id then r.nextPos (if r.placed then r.next + 1 else r.next) else x.firstOpen.getD x.nseg
  | none, some e => if e.run.st = x.id then max (e.run.nextPos e.fh) e.candidate else x.firstOpen.getD x.nseg
  | none, none => if x.st = .armed then x.pos x.kStart else x.firstOpen.getD x.nseg

/-- Render lead (R25). -/
def State.renderLead (s : State) : Nat :=
  (s.leadStripes.map fun x => (x.segs.filter fun g => g.lstate.isAdmitted).length).sum

/-- Admitted segments of a stripe from an exposure position on, up to the first that is not. -/
def Stripe.run (x : Stripe) (q : Nat) : Nat :=
  ((upto q x.nseg).takeWhile fun q => match x.seg? (x.pos q) with
    | some g => g.lstate.isAdmitted
    | none => false).length

/-- Contiguous lead through stripes, each from its position. -/
def contLead : List (Stripe × Nat) → Nat
  | [] => 0
  | (x, q) :: xs => if q + x.run q < x.nseg then x.run q else x.run q + contLead xs

/-- Contiguous lead (Table 6-4). -/
def State.contiguousLead (s : State) : Nat :=
  contLead (s.leadStripes.map fun x => (x, s.nextPosOf x))

/-- The current flash period in TIME cycles (R25). -/
def State.flashPeriod (s : State) : Nat :=
  match s.active? with
  | some x => x.tmin
  | none => 625

/-- Held segments of the device; one under re-render counts twice (R162). -/
def State.heldCount (s : State) : Nat :=
  (s.jobs.stripes.map fun x => (x.segs.map fun g => b2n g.lstate.isHeld + b2n g.old.isSome).sum).sum

/-! ### The ceiling (Table 11-4) -/

/-- V_F of a stripe under a policy. -/
def vFlash (x : Stripe) (policy : BitVec 64) : Nat :=
  64 * gridNm x.hdr * 65536 * (1024 - fld 7 0 policy) / (1024 * x.tmin)

/-- The zero term is in force. -/
def State.zeroTerm (s : State) : Bool :=
  s.stage.integrity || s.link.thermal.any (fun c => c.declared && c.level == 3) || s.ref.safe

/-- HOLD_N is asserted (R294). -/
def State.holdN (s : State) : Bool :=
  s.zeroTerm || !s.power.ready || s.power.shutdown || !s.power.powered || s.power.stopped

/-- Terms in force: the BIND code and the value. -/
def State.terms (s : State) (policy : BitVec 64) : List (Nat × Nat) :=
  (match s.paced? with
    | none => []
    | some (x, leads) =>
      let v := vFlash x policy
      let lo := fld 15 8 policy
      let hi := fld 24 16 policy
      let l := s.contiguousLead
      let reach := decide (x.nseg ≤ s.nextPosOf x + x.run (s.nextPosOf x))
      [(1, v)] ++
      (if leads && !reach then
        [(2, if hi ≤ l then v else if l < lo then 0 else v * (l - lo) / (hi - lo))] else []) ++
      (if s.link.thermal.any (fun c => c.declared && decide (1 ≤ c.level)) then [(3, v * fld 32 25 policy / 256)] else []) ++
      (if s.link.lanes.zipIdx.any (fun l => l.1.degraded && ((x.latched.map (·.laneMap)).getD []).contains (some l.2)) then [(4, v * fld 40 33 policy / 256)] else [])) ++
  (if s.zeroTerm then [(5, 0)] else [])

/-- CEIL and BIND (R290). -/
def State.ceiling (s : State) (policy : BitVec 64) : Nat × Nat :=
  match s.terms policy with
  | [] => (0xFFFFFFFF, 0)
  | t :: ts =>
    let least := ts.foldl (fun a u => min a u.2) t.2
    if s.zeroTerm && least == 0 then (0, 5)
    else (least, ((t :: ts).find? fun u => u.2 = least).elim 0 (·.1))

/-- STATE of a PACE frame (Table 11-6). -/
def State.paceState (s : State) : Nat :=
  if s.ref.safe then 5
  else match s.active? with
    | some x => if x.st = .armed then 1 else if x.st = .running then 2 else 3
    | none => if s.jobs.stripes.any (·.st == .halted) then 4 else 0

/-- DSEG of a PACE frame. -/
def State.dseg (s : State) : Nat :=
  match s.run? with
  | some (r, x) => min 65535 (r.endPos x - r.nextPos (if r.placed then r.next + 1 else r.next))
  | none => 0

/-- The payload of a PACE frame (Table 11-6). -/
def State.pacePayload (s : State) : Word :=
  packW [(0, 8, s.pacer.seq.toNat), (8, 4, 1), (12, 3, s.paceState), (15, 1, b2n s.holdN),
    (16, 32, s.pacer.ceil.toNat), (48, 4, s.pacer.bind.toNat), (64, 48, s.stage.axScan.x), (112, 16, s.dseg)]

/-- A PACE frame in the order it is sent: K27.7, the payload bytes ascending, the CRC-16 low byte first, K29.7, and
K28.5, which fills the time up to the next frame (R292). -/
def paceFrame (w : Word) : List (Bool × Byte) :=
  (true, 0xFB) :: (wordBytes w ++ leBytes 2 (crc16 (wordBytes w)).toNat).map (fun b => (false, b)) ++
    [(true, 0xFD), (true, 0xBC)]

/-- PACE_FRAME_SEND: every 25,000 TIME cycles (R290 to R292). -/
def execPaceFrameSend (s : State) : Answer :=
  let due := match s.pacer.sentAt with
    | some t => decide (t + 25000 ≤ s.now)
    | none => true
  if !due then .next s
  else
    let policy := s.pacer.policyNext.getD s.pacer.policy
    let c := s.ceiling policy
    let s1 := s.onPacer fun p => { p with
      policy := policy, policyNext := none, ceil := BitVec.ofNat 32 c.1, bind := BitVec.ofNat 4 c.2 }
    let w := s1.pacePayload
    let s2 := (s1.emit (.pace (paceFrame w))).traceRec 3 w
    .next (s2.onPacer fun p => { p with seq := p.seq + 1, frames := p.frames + 1, sentAt := some s.now })

/-! ### The motion controller (R293) -/

/-- A reply that counts: CRC, TYPE and an ECHO of one of the last two SEQ values sent. -/
def Pacer.goodReply (p : Pacer) (w : Word) (crc : BitVec 16) : Bool :=
  let echo := BitVec.ofNat 8 (fld 7 0 w)
  crc == crc16 (wordBytes w) && fld 11 8 w == 2 &&
    ((decide (1 ≤ p.frames) && echo == p.seq - 1) || (decide (2 ≤ p.frames) && echo == p.seq - 2))

/-- MCSTATE, CMDV and MCID from a present controller; MCSTATE 3 is a drain cause (Table 11-8 rank 17). -/
def State.mcReport (s : State) (w : Word) : State :=
  let st := BitVec.ofNat 2 (fld 13 12 w)
  let s1 := s.onPacer fun p => { p with
    mcState := st, mcCmdv := BitVec.ofNat 32 (fld 47 16 w), mcId := BitVec.ofNat 16 (fld 63 48 w) }
  let fresh := match s.run? with
    | some (r, x) => x.st == .running && r.boundary.isNone && !(r.causes.any fun c => c.rank = 17) &&
        decide (r.nextPos r.next < x.nseg)
    | none => false
  if st = 3 ∧ (s.pacer.mcState ≠ 3 ∨ fresh = true) then
    s1.stopCause 17 (some (stageEvent ST.stageMcFault 0 s.stage.axScan.x 0 s.now)) none
  else s1

/-- PACE_REPLY. -/
def execPaceReply (w : Word) (crc : BitVec 16) (s : State) : Answer :=
  let s := s.traceRec 4 w
  if !s.pacer.goodReply w crc then .next (s.onPacer fun p => { p with mcGood := 0 })
  else
    let s1 := s.onPacer fun p => { p with mcGood := p.mcGood + 1, mcLast := s.now }
    if s.pacer.mcPresent then .next (s1.mcReport w)
    else if 16 ≤ s1.pacer.mcGood then
      .next ((s1.onPacer fun p => { p with mcPresent := true }).raise
        (stageEvent ST.stageMcArrived 0 s.stage.axScan.x 0 s.now))
    else .next s1

/-- MC_ABSENT_TIMEOUT: 8 PACE periods without a reply that counts (R293). -/
def execMcAbsentTimeout (s : State) : Answer :=
  if !s.pacer.mcPresent || decide (s.now < s.pacer.mcLast + 200000) then .next s
  else .next ((s.onPacer fun p => { p with mcPresent := false, mcGood := 0 }).stopCause 17
    (some (stageEvent ST.stageMcDeparted 0 s.stage.axScan.x 0 s.now)) none)

end Sys2Proof.Machine
end

