-- ==== Sys2Proof/Machine/Links.lean ====
section
/-!
DEFINITION. Blanker links: return records, lane health, bring-up, identity, lane tests, temperatures
and stuck beams, and the LINK commands (chapter 12, R295, R296, R242, R243).
-/

namespace Sys2Proof.Machine

/-! ### Return records (R314) -/

/-- The CRC of a record holds: bytes 0 to 29 against bytes 30 and 31. -/
def recordOk (w : BitVec 256) : Bool :=
  crc16 (leBytes 30 w.toNat) == BitVec.ofNat 16 (fld 255 240 w)

/-- A lane in service gains a reason to be DEGRADED (R322). -/
def State.degrade (s : State) (n : Nat) : State :=
  let l := s.link.lane n
  let s1 := s.onLane n fun x => { x with lastBad := s.now, degraded := true }
  if l.degraded then s1 else s1.fault none (linkEvent ST.linkDegraded n (retOf n) l.margin 0)

/-- Lanes in service on a return lane. -/
def Link.served (l : Link) (q : Nat) : List Nat := (upto (17 * q) (17 * q + 17)).filter l.up

/-- A record whose CRC fails is discarded and counted (R314, R322). -/
def State.discardRecord (s : State) (q : Nat) : State :=
  let s1 := s.onLink fun l => { l with rets := l.rets.modify q fun r => { r with discarded := r.discarded + 1 } }
  (s1.link.served q).foldl (fun t n => t.degrade n) s1

/-- A lane has failed a bring-up step: it drops to DOWN, and after three in a row it is retired (R319, R323). -/
def State.failBringup (s : State) (n : Nat) : State :=
  let fails := (s.link.lane n).fails + 1
  let s1 := s.onLane n fun x => { x with fails := fails, step := 0, downAt := s.now, testing := false, st := .down }
  if 3 ≤ fails then s1.retireLane n fails else s1.headCheck

/-- A lane drops out of service, or fails a bring-up step (Table 12-9). -/
def State.dropLane (s : State) (n : Nat) : State :=
  let l := s.link.lane n
  if l.st = .retired then s
  else if l.st = .down then s.failBringup n
  else ((s.onLane n fun x => { x with st := .down, step := 0, downAt := s.now, ident := none, testing := false }).fault
    none (linkEvent ST.linkLaneDown n (retOf n) 0 0)).headCheck

/-- A return lane reaches block lock: lanes that wait for it train (R308, R319). -/
def State.lockReturn (s : State) (k : Nat) : State :=
  let s1 := s.onLink fun l => { l with rets := l.rets.modify k fun r => { r with
    lock := true, good := 8, bad := 0, lastAt := s.now } }
  (upto (17 * k) (17 * k + 17)).foldl (fun t n => if (t.link.lane n).step = 1 then t.trainPreset n 0 else t) s1

/-- A return lane is lost: its lanes go down and train again with it (R324, Table 12-9). -/
def State.loseReturn (s : State) (k : Nat) : State :=
  let s1 := (s.onLink fun l => { l with rets := l.rets.modify k fun r => { r with lock := false, good := 0, bad := 0 } }).fault
    none { linkEvent ST.linkReturnLost 0 k 0 0 with nodef := nodeF 11 1 k, noder := nodeR 5 1 k }
  (upto (17 * k) (17 * k + 17)).foldl (fun t n =>
    let l := t.link.lane n
    if l.st = .spare ∨ l.st = .carrier then (t.dropLane n).onLane n fun x => { x with step := 1, stepAt := t.now } else t) s1

/-- A record on a return lane, of the type the row names. Without block lock it only counts toward lock; under lock
one whose CRC fails is discarded, and the fourth in a row loses lock (R308, R314). -/
def State.record (s : State) (q : BitVec 2) (w : BitVec 256) (type : Nat) (k : State → State) : State :=
  let n := q.toNat
  let r := s.link.rets.getD n RetLane.reset
  let on (f : RetLane → RetLane) : State := s.onLink fun l => { l with rets := l.rets.modify n f }
  if !r.lock then
    if !recordOk w then on fun z => { z with good := 0 }
    else if r.good < 7 then on fun z => { z with good := z.good + 1 }
    else s.lockReturn n
  else if !recordOk w then
    if r.bad < 3 then (on fun z => { z with bad := z.bad + 1 }).discardRecord n
    else (s.discardRecord n).loseReturn n
  else
    let s1 := on fun z => { z with bad := 0, lastAt := s.now }
    if fld 7 0 w = type then k s1 else s1

/-! ### Flash statuses (R315, R316, R220) -/

/-- The full flash index nearest the current flash whose low 32 bits are given. -/
def fullFlash (low cur : Nat) : Int := (cur : Int) + signedOf 32 (toU 32 ((low : Int) - cur))

/-- A status acknowledges its flash. -/
def acknowledges (x : Stripe) (st : Nat) : Bool := if x.target = 0 then st == 1 else st == 2

/-- The run that statuses speak of is updated. -/
def State.onStatusRun (s : State) (f : Run → Run) : State :=
  s.onPlay fun p => match p.run with
    | some r => { p with run := some (f r) }
    | none => { p with tail := p.tail.map f }

/-- One status of a lane in an ACK record, for a flash sent in the run: the first record that carries it is taken, a
different one after it is a conflict (R315, R316). -/
def State.takeStatus (s : State) (lane : Nat) (flash : Int) (st : Nat) : State :=
  match s.statusRun? with
  | none => s
  | some (r, x) =>
    let f := flash.toNat
    if flash < r.flashAt r.qs ∨ (r.next : Int) ≤ flash then s
    else match r.taken.find? fun w => w.1 = lane ∧ w.2.1 = f with
      | some w =>
        if w.2.2 = st then s
        else (s.faultSt x.id (linkEvent ST.linkAckConflict lane (retOf lane) st f)).declareDead lane f false
      | none =>
        let s1 := s.onStatusRun fun z => { z with
          awaiting := z.awaiting.filter fun w => !(w.1 == lane && w.2.1 == f)
          taken := (z.taken.filter fun w => decide (z.next < w.2.1 + 8)) ++ [(lane, f, st)] }
        let s2 := if st = 1 ∧ x.target = 1 then
            ((s1.onLink fun l => { l with dryBlock := true }).permitCheck).faultSt x.id
              { linkEvent ST.linkDryViolation lane (retOf lane) st f with dry := true }
          else s1
        if acknowledges x st then s2.closeTail else (s2.declareDead lane f false).closeTail

/-- Carriers of the latched map in ascending group order. -/
def Stripe.carrierOf (x : Stripe) (g : Nat) : Option Nat := (((x.latched.map (·.laneMap)).getD []).getD g none)

/-- ACK_RECORD: the statuses of two flashes for the lanes of one return lane. -/
def State.ack (s : State) (q : Nat) (w : BitVec 256) : State :=
  match (if s.run?.isSome || s.meas.gain.isNone then s.statusRun? else none) with
  | none => s.calStatus q w
  | some (r, x) =>
    let f := fullFlash (fld 63 32 w) r.next
    let lanes := (List.range 64).filterMap fun g => match x.carrierOf g with
      | some l => if retOf l = q then some l else none
      | none => none
    let take (base : Nat) (fl : Int) (t : State) : State :=
      lanes.foldl (fun t l => t.takeStatus l fl (fld (base + 4 * (l % 17) + 3) (base + 4 * (l % 17)) w)) t
    take 64 f (take 132 (f - 1) s)

/-- ACK_RECORD. -/
def execAckRecord (q : BitVec 2) (w : BitVec 256) (s : State) : Answer :=
  .next (s.record q w 1 (·.ack q.toNat w))

/-- STATUS_TIMEOUT: a status has not arrived 2 µs after its fire marker (R220). -/
def execStatusTimeout (lane : BitVec 7) (s : State) : Answer :=
  match s.statusRun? with
  | none => .next s
  | some (r, _) =>
    match r.awaiting.find? fun w => w.1 = lane.toNat ∧ w.2.2 + 64 * cycUs 2 ≤ 64 * s.now with
    | some w => .next (s.declareDead w.1 w.2.1 true)
    | none => .next s

/-! ### Temperatures (R295, R296) -/

/-- The level a reading gives, each level left 16 units below its threshold. -/
def Thermal.judge (c : Thermal) (reading : Int) : Nat :=
  let at' (k : Nat) (t : Int) : Bool := decide (t ≤ reading) || (decide (k ≤ c.level) && decide (t - 16 < reading))
  if at' 3 c.trip then 3 else if at' 2 c.stop then 2 else if at' 1 c.warn then 1 else 0

/-- The target of the active stripe is loopback. -/
def State.loopback (s : State) : Bool :=
  match s.active? with
  | some x => x.target == 2
  | none => false

/-- Event of the STRIPE group about a temperature channel. -/
def headEvent (code : BitVec 16) : Event := stripeEvent code 0 none

/-- What entering a higher level does (R296). -/
def State.levelRise (s : State) (old new : Nat) : State :=
  let s0 := if new = 3 ∧ old < 3 then (s.onLink fun l => { l with tripBlock := true }).permitCheck else s
  if s.loopback then s0
  else
    let s1 := if old = 0 ∧ 0 < new then s0.raise (headEvent ST.stripeHeadWarn) else s0
    let s2 := if new = 3 ∧ old < 3 then s1.stopCause 3 none none else s1
    if old < 2 ∧ 2 ≤ new then s2.stopCause 12 (some (headEvent ST.stripeHeadStop)) none else s2

/-- A channel takes a level. -/
def State.setLevel (s : State) (c new : Nat) (f : Thermal → Thermal) : State :=
  let old := (s.link.thermal.getD c ⟨false, 0, 0, 0, 0, none, 0, 0, false⟩).level
  (s.onLink fun l => { l with thermal := l.thermal.modify c fun t => { f t with level := new } }).levelRise old new

/-- One reading of a TEMP record; 0x8000 is no reading (R317). -/
def State.reading (s : State) (c raw : Nat) : State :=
  match s.link.thermal[c]? with
  | none => s
  | some t =>
    if !t.declared || raw == 0x8000 then s
    else
      let v := signedOf 16 raw
      s.setLevel c (t.judge v) fun t => { t with reading := some v, lastAt := s.now, stale := false }

/-- TEMP_RECORD. -/
def execTempRecord (q : BitVec 2) (w : BitVec 256) (s : State) : Answer :=
  .next (s.record q w 2 fun s =>
    (List.range 8).foldl (fun t k => t.reading (fld 11 8 w + k) (fld (64 + 16 * k + 15) (64 + 16 * k) w)) s)

/-- THERMAL_STALE_TIMEOUT: no reading for 1 ms holds the channel at STOP level (R295). -/
def execThermalStaleTimeout (ch : BitVec 4) (s : State) : Answer :=
  let c := ch.toNat
  match s.link.thermal[c]? with
  | none => .next s
  | some t =>
    if !t.declared || t.stale || decide (s.now < t.lastAt + cycMs 1) then .next s
    else .next ((s.fault none (linkEvent ST.linkThermalStale 0 c (toU 16 (t.reading.getD 0)) 0)).setLevel c
      2 fun t => { t with stale := true })

/-! ### Stuck beams (R242, R243, R317) -/

/-- The group that a lane carries: in the map of the active stripe, else in the map in force. -/
def State.groupOf (s : State) (lane : Nat) : Option Nat :=
  let latched : Option Latched := s.active?.bind (·.latched)
  let m := (latched.map (·.laneMap)).getD s.link.map
  m.findIdx? (· == some lane)

/-- A stuck-on report. -/
def State.stuckOn (s : State) (b : Nat) (fs : Int) : State :=
  let s1 := (s.onBeam fun x => { x with
    stuckOn := if x.stuckOn.contains b then x.stuckOn else x.stuckOn ++ [b]
    recovered := x.recovered.filter (· ≠ b) }).permitCheck
  let e := beamEvent ST.beamStuckOn fs b (b / 4096) 0
  match s.run? with
  | some (_, x) => if x.target = 0 then s1.stopCause 2 (some e) none else s1.fault none e
  | none => (s1.stopCause 2 (some e) none).endPair .abort

/-- Pixels a stuck-off beam meets from `fs` to the flash placed last (R243). -/
def metPixels (x : Stripe) (r : Run) (p : Play) (b fs : Nat) : List (Nat × Nat) :=
  (upto fs (if r.placed then r.next + 1 else r.next)).filterMap fun (f : Nat) =>
    (relay x r p ((f : Int) - r.f0) (b / 512) (b % 512)).map fun q => (q.row, q.c)

/-- A stuck-off report. -/
def State.stuckOff (s : State) (b : Nat) (fs : Int) : State :=
  let s1 := s.onBeam fun x => { x with
    stuckOff := if x.stuckOff.contains b then x.stuckOff else x.stuckOff ++ [b]
    recovered := x.recovered.filter (· ≠ b) }
  match s1.run? with
  | some (r, x) =>
    if x.target ≠ 0 ∨ (r.stuckOff.any fun z => z.1 = b) then s1
    else
      let f := fs.toNat
      let s2 := (s1.onStripe x.id (·.account ⟨[], [], [], [], metPixels x r s1.play b f⟩)).onPlay fun p =>
        { p with run := some { r with stuckOff := r.stuckOff ++ [(b, f)] } }
      s2.stopCause 15 (some (beamEvent ST.beamStuckOff fs b (b / 4096) 0)) none
  | none => s1

/-- STUCK_RECORD. -/
def execStuckRecord (q : BitVec 2) (w : BitVec 256) (s : State) : Answer :=
  .next (s.record q w 3 fun s =>
    match s.groupOf (fld 15 8 w) with
    | none => s
    | some g =>
      let b := beamIx (8 * g + fld 27 16 w / 512) (fld 27 16 w % 512)
      let fs : Int := (fld 127 64 w : Nat)
      match fld 29 28 w with
      | 1 => s.stuckOn b fs
      | 2 => s.stuckOff b fs
      | 3 => s.onBeam fun x => { x with
          recovered := if x.recovered.contains b then x.recovered else x.recovered ++ [b] }
      | _ => s)

/-! ### Lane health (R322) -/

/-- One lane's figures in a LINKSTAT record. -/
def State.linkstat (s : State) (n margin errs : Nat) : State :=
  let s1 := s.onLane n fun x => { x with margin := margin, errs := errs }
  if s1.link.up n && (decide (margin < 32) || decide (0 < errs)) then s1.degrade n else s1

/-- LINKSTAT_RECORD. -/
def execLinkstatRecord (q : BitVec 2) (w : BitVec 256) (s : State) : Answer :=
  .next (s.record q w 5 fun s =>
    (List.range 17).foldl (fun t i =>
      t.linkstat (17 * q.toNat + i) (fld (8 + 8 * i + 7) (8 + 8 * i) w) (fld (144 + 4 * i + 3) (144 + 4 * i) w)) s)

/-- LANE_DEGRADED_EXIT: 10 s without a reason (R322). -/
def execLaneDegradedExit (lane : BitVec 7) (s : State) : Answer :=
  let n := lane.toNat
  let l := s.link.lane n
  .next (if l.degraded && decide (32 ≤ l.margin) && decide (l.lastBad + cycS 10 ≤ s.now) then
    (s.onLane n fun x => { x with degraded := false }).raise (linkEvent ST.linkDegraded n (retOf n) l.margin 0)
  else s)

/-! ### Going down and coming up (R319 to R321, R324, Table 12-9) -/

/-- LANE_BRINGUP_RETRY: a DOWN lane starts again after 1 s. -/
def execLaneBringupRetry (lane : BitVec 7) (s : State) : Answer :=
  let n := lane.toNat
  let l := s.link.lane n
  .next (if n < 68 ∧ l.st = .down ∧ l.step = 0 ∧ l.downAt + cycS 1 ≤ s.now then
    (s.onLane n fun x => { x with heldOut := false }).startTraining n else s)

/-- RETURN_BLOCK_LOCK: lanes that wait for the return lane train. -/
def execReturnBlockLock (q : BitVec 2) (s : State) : Answer := .next (s.lockReturn q.toNat)

/-- RETURN_LANE_LOST: block lock is lost, or no record has come for 1 µs (R324). -/
def execReturnLaneLost (loss : ReturnLoss) (s : State) : Answer :=
  let q := loss.ret.toNat
  let r := s.link.rets.getD q RetLane.reset
  .next (if r.lock && (loss.lock || decide (r.lastAt + cycUs 1 ≤ s.now)) then s.loseReturn q else s)

/-- The index of the greatest margin, the lowest preset where equal. -/
def bestPreset : List Nat → Nat × Nat
  | [] => (0, 0)
  | m :: ms => (ms.zipIdx 1).foldl (fun a p => if a.2 < p.1 then (p.2, p.1) else a) (0, m)

/-- The test of a trained lane: MTYPE 0x07 for 1,000 ms (R323). -/
def State.laneTestStart (s : State) (n : Nat) : State :=
  (s.onLane n fun x => { x with step := 0 }).sendMgmt n 0x07 (leBytes 4 1000) 0

/-- TRAIN_PRESET_EXPIRY: the margin of a preset; after the last the best is kept, and the identity
exchange or the lane test begins (R319, R323). -/
def execTrainPresetExpiry (lane : BitVec 7) (margin : BitVec 8) (s : State) : Answer :=
  let n := lane.toNat
  let l := s.link.lane n
  if l.step ≠ 2 ∨ s.now < l.stepAt + cycMs 2 then .next s
  else
    let ms := l.margins ++ [margin.toNat]
    let s1 := s.onLane n fun x => { x with margins := ms }
    if l.preset < 7 then .next (s1.trainPreset n (l.preset + 1))
    else
      let b := bestPreset ms
      let s2 := s1.onLane n fun x => { x with preset := b.1, margin := b.2 }
      if l.testing then .next (s2.laneTestStart n)
      else .next ((s2.onLane n fun x => { x with step := 5 }).sendMgmt n 0x01 [] 0)

/-- The fields of an identity record in the order of Table 12-8, INPUT and DEFGROUP apart, the reserved
bits last. -/
def identFields (ws : List Word) : List Nat :=
  let w (i : Nat) : Word := ws.getD i 0
  [fld 15 0 (w 0), fld 23 16 (w 0), fld 31 24 (w 0), fld 48 48 (w 0), fld 49 49 (w 0), fld 79 64 (w 0),
   fld 84 80 (w 0), fld 111 96 (w 0), fld 63 0 (w 1), fld 127 64 (w 1), (w 2).toNat, (w 3).toNat,
   fld 63 50 (w 0) + 2 ^ 14 * fld 95 85 (w 0) + 2 ^ 25 * fld 127 112 (w 0)]

/-- The first field of an identity record that fails the checks of R321. -/
def identBad (lane : Nat) (ws : List Word) (other : Option (List Word)) : Option Nat :=
  let f := identFields ws
  let w0 := ws.getD 0 0
  let own : List Bool :=
    [f.getD 0 0 == 0x4C49, f.getD 1 0 == 1, f.getD 2 0 == 1 || f.getD 2 0 == 2, true, true,
     decide (250 ≤ f.getD 5 0 ∧ f.getD 5 0 ≤ 2500), decide (f.getD 6 0 ≤ 16), true, true,
     f.getD 4 0 == 1 || f.getD 9 0 == 0, true, true, f.getD 12 0 == 0,
     fld 39 32 w0 == lane, fld 47 40 w0 == (if lane < 64 then lane else 255)]
  match own.findIdx? (!·) with
  | some i => some i
  | none => match other with
    | some o => ((f.zip (identFields o)).map fun p => p.1 == p.2).findIdx? (!·)
    | none => none

/-- Temperature channels declared by an identity record, at their default thresholds (R295). -/
def declareThermal (ws : List Word) (now : Nat) : List Thermal :=
  let n := fld 84 80 (ws.getD 0 0)
  (List.range 16).map fun k =>
    let m := signedOf 16 (fld (16 * (k % 8) + 15) (16 * (k % 8)) (ws.getD (2 + k / 8) 0))
    ⟨decide (k < n), m, m - 80, m - 32, m, none, 0, now, false⟩

/-- A lane's identity is accepted or held out (R321, Table 12-9). -/
def State.acceptIdentity (s : State) (n : Nat) (body : List Byte) : State :=
  let ws := bytesWords 4 body
  match if body.length = 64 then identBad n ws s.link.head else some 0 with
  | some i =>
    ((s.onLane n fun x => { x with heldOut := true }).fault none (linkEvent ST.linkIdentity n (retOf n) i 0)).failBringup n
  | none =>
    let first := s.link.head.isNone
    let serial := fld 63 0 (ws.getD 1 0)
    let newHead := first && s.link.serial.isSome && s.link.serial != some serial
    let s0 := if newHead then
        (List.range 68).foldl (fun t k => if k ≠ n ∧ (t.link.lane k).st = .down ∧ (t.link.lane k).step = 0 then
            t.startTraining k else t) (s.onLink fun l => { l with lanes := l.lanes.zipIdx.map fun (z : Lane × Nat) =>
          let y := { z.1 with deaths := [], errs := 0, degraded := false, fails := 0 }
          if z.2 = n then y else { y with margin := 0, margins := [] } })
      else s
    let s1 := s0.onLane n fun x => { x with
      st := if s.link.map.contains (some n) then .carrier else .spare
      step := 0, fails := 0, heldOut := false, ident := some ws }
    let s2 := s1.raise (linkEvent ST.linkLaneUp n (retOf n) 0 0)
    let s2 := if (s.link.lane n).margin < 32 then s2.degrade n else s2
    if !first then s2
    else
      let s3 := (s2.onLink fun l => { l with
        head := some ws, serial := some serial, dryBlock := false, thermal := declareThermal ws s.now }).raise
          (linkEvent ST.linkHeadArrived n (retOf n) 0 0)
      if fld 49 49 (ws.getD 0 0) = 1 then s3.plateStart else s3

/-! ### Lane tests (R323) -/

/-- A test ends: its report, and the state of Table 12-9. A retired lane stays retired: it returns by REPAIR.RETURN
only. -/
def State.laneTestDone (s : State) (n errors margin : Nat) : State :=
  let l := s.link.lane n
  if !l.testing then s
  else
    let pass := errors = 0 ∧ 32 ≤ margin
    let s1 := (s.onLane n fun x => { x with
      testing := false, step := 0, margin := margin
      st := if x.st = .suspect then (if s.link.map.contains (some n) then .suspectPassed else .spare) else x.st }).raise
      (linkEvent ST.linkLaneTest n (retOf n) margin errors)
    let s2 := if pass ∨ l.st = .retired then s1 else s1.retireLane n l.deaths.length
    match s2.host.waiting.find? fun w => w.cmd = .linkTest w.src (BitVec.ofNat 7 n) with
    | some w => (s2.unwait w.src.mb).respond w.src (if pass then ST.ok else ST.linkLaneTest) 0 false []
    | none => s2

/-- LANE_DOWN: lock or signal lost; a bring-up step failed; a lane under test fails it. -/
def execLaneDown (lane : BitVec 7) (s : State) : Answer :=
  let n := lane.toNat
  let l := s.link.lane n
  if 68 ≤ n ∨ (l.st = .down ∧ l.step = 0 ∧ l.testing = false) then .next s
  else if l.testing then .next (s.laneTestDone n 1 0)
  else .next (s.dropLane n)

/-- LANE_TEST_COMPLETE. -/
def execLaneTestComplete (lane : BitVec 7) (errors : BitVec 64) (margin : BitVec 8) (s : State) : Answer :=
  .next (s.laneTestDone lane.toNat errors.toNat margin.toNat)

/-! ### Management repeats, SYNC and blank frames (R310, R318, R328) -/

/-- A message that stays without an answer after 3 repeats; MAPSET's echo is awaited 10 ms (R325). -/
def State.mgmtGiveUp (s : State) (w : MgmtWait) : State :=
  let s1 := s.onLink fun l => { l with mgmt := l.mgmt.filter (· ≠ w) }
  if w.mtype = 0x01 then s1.dropLane w.lane
  else if w.mtype = 0x06 then s1.fault none (plateEvent ST.plateMirror s.plate.usage 0)
  else if w.mtype = 0x07 then s1.laneTestDone w.lane 1 0 else s1

/-- The answer is awaited 1 ms; a lane test's comes after its 1,000 ms. -/
def MgmtWait.bound (w : MgmtWait) : Nat := if w.mtype = 0x07 then cycMs 1001 else cycMs 1

/-- MGMT_RETRY_TIMEOUT. -/
def execMgmtRetryTimeout (lane : BitVec 7) (s : State) : Answer :=
  match s.link.mgmt.find? fun w => w.lane = lane.toNat ∧ w.sentAt + w.bound ≤ s.now with
  | none => .next s
  | some w => .next (if w.tries < 3 then s.sendMgmt w.lane w.mtype w.body (w.tries + 1)
      else if w.mtype = 0x02 then s else s.mgmtGiveUp w)

/-- The lanes whose slots a frame occupies: from SOF to MARKER of a placed flash (R309). -/
def State.frameLanes (s : State) : List Nat :=
  match s.run? with
  | some (r, x) => if r.placed ∧ x.target ≠ 2 then (s.carriers x r).map (·.2) else []
  | none => []

/-- SYNC_BLOCK_SEND: on each lane, in the first epoch slot after each multiple of 262,144 cycles that no frame block
occupies (R310). -/
def execSyncBlockSend (s : State) : Answer :=
  if s.now % 1028 = 0 then
    let due := (List.range 68).filter fun n =>
      decide ((s.link.lane n).synced < s.now / 262144) && !s.frameLanes.contains n
    .next (due.foldl (fun t n => (t.emit (.block n (syncBlock s.now))).onLane n fun x =>
      { x with synced := s.now / 262144 }) s)
  else .next s

/-- BLANK_FRAME: in the safe state, once the run has ended, on every carrier, every 625 cycles and at least
64·T_min after the last marker (R287, R328). Its codes of 0 enter the history by the idle updates of R234, which
keep the same cadence (DESIGN CHOICE, log entry 52). -/
def execBlankFrame (s : State) : Answer :=
  if s.ref.safe ∧ s.run? = none ∧ s.link.lastBlank + 625 ≤ s.now ∧ s.link.nextMark ≤ 64 * s.now then
    let cs := s.link.map.zipIdx.filterMap fun p => p.1.map fun l => (p.2, l)
    .next ((s.emits (cs.map fun gl =>
      let ws := frameWords 0 gl.1 true 0 0 0 []
      Output.block gl.2 (sofBlock 0 gl.1 true 0 0) :: payloadBlocks gl.2 ws ++
        [headBlock gl.2 ws, .block gl.2 (markerBlock 0 (64 * s.now) true)]).flatten).onLink fun l =>
          { l with lastBlank := s.now, nextMark := 64 * (s.now + 625) })
  else .next s

/-! ### Commands (Table 17-13) -/

/-- Thresholds within the bounds of R295. -/
def Thermal.boundsOk (c : Thermal) (warn stop trip : Int) : Bool :=
  c.declared && decide (0 ≤ warn ∧ warn + 16 ≤ stop ∧ stop + 16 ≤ trip ∧ trip ≤ c.tmax)

/-- LINK.THERMAL. -/
def execLinkThermal (src : Src) (ch : BitVec 4) (warn stop trip : BitVec 16) (s : State) : Answer :=
  let c := s.link.thermal.getD ch.toNat ⟨false, 0, 0, 0, 0, none, 0, 0, false⟩
  .next (s.command src
    [(s.link.headPresent, ST.linkNoHead),
     (c.boundsOk (signedOf 16 warn.toNat) (signedOf 16 stop.toNat) (signedOf 16 trip.toNat), ST.linkThermalRange)]
    fun s =>
    (s.onLink fun l => { l with thermal := l.thermal.modify ch.toNat fun t => { t with
      warn := signedOf 16 warn.toNat, stop := signedOf 16 stop.toNat, trip := signedOf 16 trip.toNat } }).ok src [])

def LaneSt.code : LaneSt → Nat
  | .down => 0
  | .spare => 1
  | .carrier => 2
  | .suspect => 3
  | .suspectPassed => 4
  | .retired => 5

/-- LINK.STATUS: lane states, the map, margins, errors and identity. -/
def execLinkStatus (src : Src) (s : State) : Answer :=
  .next (s.ok src (layoutBody 0x0802 (s.link.lanes.map (·.st.code) ++ s.link.map.map (fun m => m.getD 255) ++
    s.link.lanes.map (·.margin) ++ s.link.lanes.map (·.errs) ++ ((s.link.head).getD []).map (·.toNat))))

/-- A lane is a carrier of the stripe that is ARMED, RUNNING or STOPPING. -/
def State.laneBusy (s : State) (n : Nat) : Bool :=
  match s.active? with
  | some x => ((x.latched.map (·.laneMap)).getD []).contains (some n)
  | none => false

/-- LINK.TEST: the lane trains and is tested; the command waits (R323). -/
def execLinkTest (src : Src) (lane : BitVec 7) (s : State) : Answer :=
  .next (s.command src
    [(decide (lane.toNat < 68), ST.sysField), (!s.laneBusy lane.toNat, ST.linkBusy)] fun s =>
    ((s.onLane lane.toNat fun x => { x with testing := true }).startTraining lane.toNat).wait src
      (.linkTest src lane))

end Sys2Proof.Machine
end

