-- ==== Sys2Proof/Machine/Raster.lean ====
section
/-!
DEFINITION. The raster engines' arithmetic without state: placed primitives, edges, exact coverage,
model clocks and tile check values (chapter 3).
-/

namespace Sys2Proof.Machine

/-! ### Placement (R43, R62 to R64) -/

/-- A point in layout or fine units. -/
structure Pt where
  x : Int
  y : Int
  deriving DecidableEq, Repr

/-- A closed box. -/
structure Box where
  x0 : Int
  y0 : Int
  x1 : Int
  y1 : Int
  deriving DecidableEq, Repr

/-- A placement: a matrix of Table 2-13 and an offset. -/
structure Place where
  a : Int
  b : Int
  c : Int
  d : Int
  dx : Int
  dy : Int
  deriving DecidableEq, Repr

/-- Table 2-13. -/
def orientPlace (o : Nat) (dx dy : Int) : Place :=
  match o with
  | 0 => ⟨1, 0, 0, 1, dx, dy⟩
  | 1 => ⟨0, -1, 1, 0, dx, dy⟩
  | 2 => ⟨-1, 0, 0, -1, dx, dy⟩
  | 3 => ⟨0, 1, -1, 0, dx, dy⟩
  | 4 => ⟨1, 0, 0, -1, dx, dy⟩
  | 5 => ⟨0, 1, 1, 0, dx, dy⟩
  | 6 => ⟨-1, 0, 0, 1, dx, dy⟩
  | _ => ⟨0, -1, -1, 0, dx, dy⟩

def Place.at (p : Place) (q : Pt) : Pt := ⟨p.a * q.x + p.b * q.y + p.dx, p.c * q.x + p.d * q.y + p.dy⟩

/-- `p` after `q`. -/
def Place.after (p q : Place) : Place :=
  ⟨p.a * q.a + p.b * q.c, p.a * q.b + p.b * q.d, p.c * q.a + p.d * q.c, p.c * q.b + p.d * q.d,
   p.a * q.dx + p.b * q.dy + p.dx, p.c * q.dx + p.d * q.dy + p.dy⟩

def Place.box (p : Place) (b : Box) : Box :=
  let u := p.at ⟨b.x0, b.y0⟩
  let v := p.at ⟨b.x1, b.y1⟩
  ⟨min u.x v.x, min u.y v.y, max u.x v.x, max u.y v.y⟩

/-- Closed boxes meet. -/
def Box.meets (a b : Box) : Bool := decide (a.x0 ≤ b.x1 ∧ b.x0 ≤ a.x1 ∧ a.y0 ≤ b.y1 ∧ b.y0 ≤ a.y1)

def Box.inside (a b : Box) : Bool := decide (b.x0 ≤ a.x0 ∧ a.x1 ≤ b.x1 ∧ b.y0 ≤ a.y0 ∧ a.y1 ≤ b.y1)

/-- The bounding box of points, control points included (R69). -/
def boxOf : List CPoint → Option Box
  | [] => none
  | p :: ps => some (ps.foldl (fun b q => ⟨min b.x0 q.x, min b.y0 q.y, max b.x1 q.x, max b.y1 q.y⟩)
      ⟨p.x, p.y, p.x, p.y⟩)

def Box.join (a b : Box) : Box := ⟨min a.x0 b.x0, min a.y0 b.y0, max a.x1 b.x1, max a.y1 b.y1⟩

def joinBoxes : Option Box → Option Box → Option Box
  | some a, some b => some (a.join b)
  | some a, none => some a
  | none, b => b

def Prim.box (p : Prim) : Box := (boxOf p.contours.flatten).getD ⟨0, 0, 0, 0⟩

def Prim.place (p : Prim) (t : Place) (cls : Option Nat) (margin : Bool) : Prim where
  cls := cls.getD p.cls
  margin := p.margin || margin
  contours := p.contours.map fun k => k.map fun q => let z := t.at ⟨q.x, q.y⟩; { q with x := z.x, y := z.y }

def CellDef.box (c : CellDef) : Box := ⟨c.xmin, c.ymin, c.xmax, c.ymax⟩

/-- The placement of instance `(i, j)` of a reference or array (R63). -/
def CellUse.inst (u : CellUse) (i j : Nat) : Place :=
  orientPlace u.orient (u.dx + i * u.cx + j * u.rx) (u.dy + i * u.cy + j * u.ry)

/-- All instances of a use. -/
def CellUse.insts (u : CellUse) : List Place :=
  ((List.range u.cols).map fun i => (List.range u.rows).map fun j => u.inst i j).flatten

/-- The primitives of a record placed, instances whose declared boxes a test rejects left out. The
outermost reference that sets CLASS or MARGIN decides (R64); references nest to 8 levels. -/
def expandGeom : Nat → List CellDef → (Box → Bool) → Place → Option Nat → Bool → Geom → List Prim
  | _, _, _, t, cls, margin, .prim p => [p.place t cls margin]
  | 0, _, _, _, _, _, .use _ => []
  | n + 1, cells, keep, t, cls, margin, .use u =>
    match cells.find? (·.id == u.cell) with
    | none => []
    | some c =>
      (u.insts.map fun q =>
        if keep ((t.after q).box c.box) then
          (c.items.map (expandGeom n cells keep (t.after q) (cls.orElse fun _ => u.cls) (margin || u.margin))).flatten
        else []).flatten

/-- The pass offset of a stripe (R43). -/
def Stripe.place (x : Stripe) : Place := ⟨1, 0, 0, 1, x.hdr.pdx.getD x.pass 0, x.hdr.pdy.getD x.pass 0⟩

/-- Bin `(k, p)` as a closed box (R69). -/
def Stripe.binBox (x : Stripe) (k p : Nat) : Box :=
  ⟨x.x0 + 32768 * p, x.y0 + 262144 * k, x.x0 + 32768 * (p + 1), x.y0 + 262144 * (k + 1)⟩

/-- The correction band of a stripe, with closed upper edges (R48). -/
def Stripe.bandBox (x : Stripe) : Box :=
  ⟨x.x0 - 393216, x.y0 - 393216, x.x0 + 917504, x.y0 + 262144 * x.nseg + 393216⟩

/-- A record goes into a bin: the box of its primitive, or of one of its instances, meets it (R69). -/
def binHolds (cells : List CellDef) (t : Place) (b : Box) : Geom → Bool
  | .prim p => (p.place t none false).box.meets b
  | .use u => match cells.find? (·.id == u.cell) with
    | none => false
    | some c => u.insts.any fun q => ((t.after q).box c.box).meets b

/-- The fine primitives of bin `(k, p)`, references and arrays expanded by instance (R69, R86). -/
def Stripe.binPrims (x : Stripe) (k p : Nat) : List Prim :=
  let b := x.binBox k p
  ((x.items.filter (binHolds x.cells x.place b)).map
    (expandGeom 8 x.cells (·.meets b) x.place none false)).flatten.filter fun q => !q.margin

/-- Every primitive that reaches the Canopy unit (R70). -/
def Stripe.bandPrims (x : Stripe) : List Prim :=
  (x.items.map (expandGeom 8 x.cells (·.meets x.bandBox) x.place none false)).flatten

/-! ### Edges (R75, R79 to R82) -/

/-- A directed straight edge in fine units. -/
structure Edge where
  p : Pt
  q : Pt
  deriving DecidableEq, Repr

def finePt (p : CPoint) : Pt := ⟨16 * p.x, 16 * p.y⟩

/-- The smallest depth with `lim * 4^d` at least `m` (R81). -/
def depthOf (m : Nat) : Nat → Nat → Nat
  | 0, d => d
  | n + 1, d => if 8 * 4 ^ d < m then depthOf m n (d + 1) else d

def second (a b c : Int) : Nat := (a - 2 * b + c).natAbs

def depthQuad (p0 p1 p2 : Pt) : Nat := depthOf (max (second p0.x p1.x p2.x) (second p0.y p1.y p2.y)) 40 0

def depthCubic (p0 p1 p2 p3 : Pt) : Nat :=
  depthOf (3 * max (max (second p0.x p1.x p2.x) (second p0.y p1.y p2.y))
    (max (second p1.x p2.x p3.x) (second p1.y p2.y p3.y))) 40 0

/-- `rshr`, and the value itself at shift 0 (R82). -/
def rshr0 (v : Int) (b : Nat) : Int := if b = 0 then v else rshr v b

def quadPoint (p0 p1 p2 : Pt) (k d : Nat) : Pt :=
  let n : Int := 2 ^ d
  let f (a b c : Int) : Int := rshr0 ((n - k) ^ 2 * a + 2 * k * (n - k) * b + (k : Int) ^ 2 * c) (2 * d)
  ⟨f p0.x p1.x p2.x, f p0.y p1.y p2.y⟩

def cubicPoint (p0 p1 p2 p3 : Pt) (k d : Nat) : Pt :=
  let n : Int := 2 ^ d
  let f (a b c e : Int) : Int :=
    rshr0 ((n - k) ^ 3 * a + 3 * k * (n - k) ^ 2 * b + 3 * (k : Int) ^ 2 * (n - k) * c + (k : Int) ^ 3 * e) (3 * d)
  ⟨f p0.x p1.x p2.x p3.x, f p0.y p1.y p2.y p3.y⟩

/-- Edges that join points in order. -/
def chain : List Pt → List Edge
  | a :: b :: r => ⟨a, b⟩ :: chain (b :: r)
  | _ => []

def quadEdges (p0 p1 p2 : Pt) : List Edge :=
  let d := depthQuad p0 p1 p2
  chain ((List.range (2 ^ d + 1)).map fun k => quadPoint p0 p1 p2 k d)

def cubicEdges (p0 p1 p2 p3 : Pt) : List Edge :=
  let d := depthCubic p0 p1 p2 p3
  chain ((List.range (2 ^ d + 1)).map fun k => cubicPoint p0 p1 p2 p3 k d)

/-- The edges of a contour written with its first point repeated at its end (R79). -/
def contourEdges : Nat → List CPoint → List Edge
  | 0, _ => []
  | n + 1, a :: b :: r =>
    if b.tag = 0 then ⟨finePt a, finePt b⟩ :: contourEdges n (b :: r)
    else if b.tag = 1 then
      match r with
      | c :: _ => quadEdges (finePt a) (finePt b) (finePt c) ++ contourEdges n r
      | [] => []
    else match r with
      | c :: d :: r' => cubicEdges (finePt a) (finePt b) (finePt c) (finePt d) ++ contourEdges n (d :: r')
      | _ => []
  | _, _ => []

def Prim.edges (p : Prim) : List Edge :=
  (p.contours.map fun k => contourEdges (k.length + 1) (k ++ k.take 1)).flatten

/-- Contribution of an edge to the winding number of a sample (R75). -/
def Edge.cross (e : Edge) (x y : Int) : Int :=
  let a := (x - e.p.x) * (e.q.y - e.p.y)
  let b := (y - e.p.y) * (e.q.x - e.p.x)
  if e.p.y ≤ y ∧ y < e.q.y ∧ b ≤ a then 1
  else if e.q.y ≤ y ∧ y < e.p.y ∧ a ≤ b then -1
  else 0

/-- A record holds a sample. -/
def holds (es : List Edge) (x y : Int) : Bool := (es.map fun e => e.cross x y).sum ≠ 0

/-! ### Coverage (R74, R76) -/

/-- Sample `(i, j)` of pixel `(s, c)` in fine units. -/
def Stripe.sample (x : Stripe) (s c : Int) (i j : Nat) : Pt :=
  ⟨16 * (x.x0 + 64 * c + i) + 8, 16 * (x.y0 + 64 * s + j) + 8⟩

/-- Classes present among primitives, ascending. -/
def classesOf (ps : List Prim) : List Nat := (List.range 256).filter fun k => ps.any (·.cls == k)

/-- Coverage of pixel `(s, c)` for a class, given the class's edges. -/
def coverage (x : Stripe) (ess : List (List Edge)) (s c : Nat) : Nat :=
  ((List.range 64).map fun j => ((List.range 64).filter fun i =>
    let z := x.sample s c i j
    ess.any fun es => holds es z.x z.y).length).sum

/-- The edges of each primitive of a class. -/
def classEdges (ps : List Prim) (k : Nat) : List (List Edge) := (ps.filter (·.cls == k)).map Prim.edges

/-! ### Tiles (R87, R88, R91, R93) -/

/-- The raster panel of a bin. -/
def Stripe.raster? (x : Stripe) (k p : Nat) : Option RasterPanel :=
  x.rasters.find? fun r => r.seg == k && r.panel == p

/-- A bin is rasterized (R87). -/
def Stripe.rasterized (x : Stripe) (k p : Nat) : Bool :=
  x.hdr.ingest != 1 && (match x.raster? k p with
    | some r => r.mode
    | none => true)

/-- First grid row of a tile. -/
def tileRow (k t : Nat) : Nat := 4096 * k + 2048 * (t % 2)

/-- Entries of a tile's check value: 7 bytes for each pixel and class with coverage above 0. -/
def Stripe.tileBytes (x : Stripe) (k t : Nat) : List Byte :=
  let p := t / 2
  if !x.rasterized k p then []
  else
    let ps := x.binPrims k p
    let cls := (classesOf ps).map fun c => (c, classEdges ps c)
    ((List.range 2048).map fun r =>
      ((List.range 64).map fun g => (cls.map fun ce => ((List.range 8).map fun i =>
        let col := 8 * g + i
        let v := coverage x ce.2 (tileRow k t + r) (512 * p + col)
        if v = 0 then [] else leBytes 2 r ++ leBytes 2 col ++ leBytes 1 ce.1 ++ leBytes 2 v).flatten).flatten).flatten).flatten

/-- The tile check value (R93). -/
def Stripe.tileCheck (x : Stripe) (k t : Nat) : BitVec 64 := crc64 (x.tileBytes k t)

/-- G(k, row): groups from the lowest to the highest that a box of the class meets in a row. -/
def Stripe.groupSpan (x : Stripe) (p row : Nat) (bs : List Box) : Nat :=
  let y0 := x.y0 + 64 * row
  let gs : List Nat := (List.range 64).filter fun (g : Nat) =>
    let c0 : Int := 512 * p + 8 * g
    bs.any fun b => b.meets ⟨x.x0 + 64 * c0, y0, x.x0 + 64 * (c0 + 8), y0 + 64⟩
  match gs with
  | [] => 0
  | g :: r => (r.foldl max g) - g + 1

/-- C_tile (R91). Of an instance whose declared box meets the bin, every primitive counts, those of nested
instances whose boxes miss the bin left out (DEDUCED, log entry 39). -/
def Stripe.clocks (x : Stripe) (k t : Nat) : Nat :=
  let p := t / 2
  if !x.rasterized k p then 0
  else
    let ps := x.binPrims k p
    let ya := 16 * (x.y0 + 64 * tileRow k t)
    let yb := ya + 16 * 64 * 2048
    ((classesOf ps).map fun c =>
      let bs := (ps.filter (·.cls == c)).map Prim.box
      ((List.range 2048).map fun r => x.groupSpan p (tileRow k t + r) bs).sum).sum +
    ((ps.map Prim.edges).flatten.filter fun e =>
      decide (min e.p.y e.q.y ≤ yb ∧ ya ≤ max e.p.y e.q.y)).length

/-- OMEGA of a segment (R91). -/
def Stripe.omega (x : Stripe) (k : Nat) : Nat :=
  min 65535 ((((List.range 32).map (x.clocks k)).sum + 8192) / 16384)

end Sys2Proof.Machine
end

