-- ==== Sys2Proof/Machine/Dose.lean ====
section
/-!
DEFINITION. Dose composition without state: the dose-factor map, the pixel dose value and the capacity
check (chapter 4).
-/

namespace Sys2Proof.Machine

/-- `divr` of chapter 4: round half up, for `y > 0`. -/
def divr (x y : Nat) : Nat := (2 * x + y) / (2 * y)

/-- `rshr` on naturals. -/
def rshrN (v b : Nat) : Nat := (rshr v b).toNat

/-- A grid of values with a default outside it, columns and rows counted from `-96` (R106). -/
abbrev Grid := Array (Array Nat)

def Grid.at (g : Grid) (a b : Int) : Nat :=
  if a < -96 ∨ b < -96 then 0 else (g.getD (b + 96).toNat #[]).getD (a + 96).toNat 0

/-- A grid over the correction band of a stripe of `n` segments (R106). -/
def Grid.build (n : Nat) (f : Int → Int → Nat) : Grid :=
  (Array.range (64 * n + 192)).map fun (j : Nat) => (Array.range 320).map fun (i : Nat) =>
    f ((i : Int) - 96) ((j : Int) - 96)

/-! ### Density (R109 to R111) -/

/-- The vector weight of a grid pixel of the band: its sample (32, 32) (R109). -/
def Stripe.vectorWeight (x : Stripe) (cls : List (Nat × List (List Edge))) (s c : Int) : Nat :=
  let inside := 0 ≤ s ∧ s < 4096 * x.nseg ∧ 0 ≤ c ∧ c < 8192
  if inside ∧ ((x.raster? (s / 4096).toNat (c / 512).toNat).any fun r => !r.mode) = true then 0
  else
    let z := x.sample s c 32 32
    min 16384 ((cls.map fun ce => if ce.2.any (fun es => holds es z.x z.y) then x.dose.getD ce.1 0 else 0).sum)

/-- The sums of R110 over a panel's 512 cells, 8 across and 64 along; `px` gives its pixels. -/
def rasterSums (px : Nat → Nat → Nat) : List Nat :=
  ((List.range 64).map fun b => (List.range 8).map fun a =>
    ((List.range 64).map fun j => ((List.range 64).map fun i =>
      min 16384 (px (64 * b + j) (64 * a + i))).sum).sum).flatten

/-- The raster sum of a density cell (R110). -/
def Stripe.rasterSum (x : Stripe) (a b : Int) : Nat :=
  if 0 ≤ a ∧ a < 128 ∧ 0 ≤ b ∧ b < 64 * x.nseg then
    match x.raster? (b / 64).toNat (a / 8).toNat with
    | some r => r.sums.getD (8 * (b % 64).toNat + (a % 8).toNat) 0
    | none => 0
  else 0

/-- `d(a, b)` over the band (R111). -/
def Stripe.density (x : Stripe) : Grid :=
  let ps := x.bandPrims
  let cls := (classesOf ps).map fun k => (k, classEdges ps k)
  Grid.build x.nseg fun a b =>
    let rho := ((List.range 64).map fun (j : Nat) => ((List.range 64).map fun (i : Nat) =>
      x.vectorWeight cls (64 * b + j) (64 * a + i)).sum).sum + x.rasterSum a b
    min 8192 (rshrN (x.hdr.passes * rho) 13)

/-! ### Kernel, iteration and fog (R112 to R114) -/

/-- `round(65,536 exp(-num/den))`: the sixteenth root by its series with 120 fraction bits, raised
again; below one half past 12 (R112). -/
def expTap (num den : Nat) : Nat :=
  if 12 * den < num then 0
  else
    let r : Int := 2 ^ 120 - expTerms 40 num (16 * den) (2 ^ 120) 0
    let sq (v : Int) : Int := v * v / 2 ^ 120
    (rshr (sq (sq (sq (sq r)))) 104).toNat

/-- Tap `n` of a term of width `sigma` at grid `g` nm (R112). -/
def kernelTap (sigma g n : Nat) : Nat := expTap (n ^ 2 * g ^ 2 * 2097152) (15625 * sigma ^ 2)

/-- `n_t` (R112). -/
def kernelReach (sigma g : Nat) : Nat := min 96 ((125 * sigma + 512 * g - 1) / (512 * g))

/-- Taps 0 to `n_t`. -/
def kernel (sigma g : Nat) : List Nat := (List.range (kernelReach sigma g + 1)).map (kernelTap sigma g)

/-- `S_t` (R112). -/
def kernelSum (k : List Nat) : Nat := k.headD 0 + 2 * (k.drop 1).sum

/-- One axis of a convolution: `v` gives the value `n` cells away. -/
def convolve (k : List Nat) (v : Int → Nat) : Nat :=
  divr ((k.zipIdx.map fun (t : Nat × Nat) =>
    if t.2 = 0 then t.1 * v 0 else t.1 * (v t.2 + v (-(t.2 : Int)))).sum) (kernelSum k)

/-- One iteration of R113. -/
def lrcStep (n : Nat) (p : LrcParams) (ks : List (List Nat)) (d f : Grid) : Grid :=
  let pr := Grid.build n fun a b => rshrN (d.at a b * f.at a b) 14
  let cs := ks.map fun k =>
    let ac := Grid.build n fun a b => convolve k fun t => pr.at (a + t) b
    Grid.build n fun a b => convolve k fun t => ac.at a (b + t)
  Grid.build n fun a b =>
    let bb := rshrN ((cs.zipIdx.map fun (c : Grid × Nat) => p.weight.getD c.2 0 * c.1.at a b).sum) 15
    divr (2 ^ 26 * (4096 + p.eta)) (2 ^ 24 + p.eta * bb)

def lrcIterate (n : Nat) (p : LrcParams) (ks : List (List Nat)) (d : Grid) : Nat → Grid → Grid
  | 0, f => f
  | i + 1, f => lrcIterate n p ks d i (lrcStep n p ks d f)

/-- The fog factor at a density cell (R55, R114). -/
def Stripe.fogAt (x : Stripe) (a b : Int) : Nat :=
  match x.fog with
  | none => 16384
  | some m =>
    let edge : Int := 32000000 / gridNm x.hdr
    let i := (x.x0 + 4096 * a + 2048 - m.ox) / edge
    let j := (x.y0 + 4096 * b + 2048 - m.oy) / edge
    if 0 ≤ i ∧ i < m.nx ∧ 0 ≤ j ∧ j < m.ny then m.data.getD (j.toNat * m.nx + i.toNat) 16384 else 16384

/-- The dose-factor map, row by row from `b = -1`, 130 values a row from `a = -1` (R106, R113). -/
def Stripe.factorMap (x : Stripe) : List Nat :=
  match x.lrc with
  | none => []
  | some p =>
    let ks := (p.sigma.take p.nt).map fun t => kernel t (gridNm x.hdr)
    let f := lrcIterate x.nseg p ks x.density p.iters (Grid.build x.nseg fun _ _ => 16384)
    ((List.range (64 * x.nseg + 2)).map fun (j : Nat) => (List.range 130).map fun (i : Nat) =>
      let a : Int := i - 1
      let b : Int := j - 1
      min 65535 (rshrN (f.at a b * x.fogAt a b) 14)).flatten

/-- `Fpix(s, c)` over the values of a map (R107). -/
def fpix (f : Int → Int → Nat) (s c : Nat) : Nat :=
  let ex : Int := 2 * c - 63
  let a0 := ex / 128
  let fx := (ex - 128 * a0).toNat
  let ey : Int := 2 * s - 63
  let b0 := ey / 128
  let fy := (ey - 128 * b0).toNat
  rshrN ((128 - fx) * (128 - fy) * f a0 b0 + fx * (128 - fy) * f (a0 + 1) b0
    + (128 - fx) * fy * f a0 (b0 + 1) + fx * fy * f (a0 + 1) (b0 + 1)) 14

/-! ### The pixel dose value (R101) -/

/-- A pixel of a panel's raster block (R66). -/
def rasterPixel (m : Mem) (r : RasterPanel) (row col : Nat) : Nat :=
  leNat (m.bytes r.space (r.addr + 1024 * row + 2 * col) 2)

/-- `pixel_value` of R101 from the coverages of the classes present. -/
def composePixel (lrc : Bool) (dose : List Nat) (cov : List (Nat × Nat)) (raster : Option (Nat × Bool)) (f : Nat) :
    Nat :=
  let v := (cov.map fun kc => kc.2 * dose.getD kc.1 0).sum
  let fv := if lrc then f else 16384
  let rf := match raster with
    | none => (0, 16384)
    | some (r, precorr) => (r, if lrc && !precorr then f else 16384)
  min 65535 (rshrN (v * fv + 4096 * rf.1 * rf.2) 26)

/-- The pixels of a panel, row by row, over the values of the dose-factor map (R101, Table 4-1). -/
def Stripe.panelRows (x : Stripe) (m : Mem) (f : Int → Int → Nat) (k p : Nat) : List (List Nat) :=
  let r := x.raster? k p
  let ps := if x.rasterized k p then x.binPrims k p else []
  let cls := (classesOf ps).map fun c => (c, classEdges ps c)
  (List.range 4096).map fun row => (List.range 512).map fun col =>
    composePixel x.hdr.lrc x.dose (cls.map fun ce => (ce.1, coverage x ce.2 (4096 * k + row) (512 * p + col)))
      (r.map fun q => (rasterPixel m q row col, q.precorr)) (fpix f (4096 * k + row) (512 * p + col))

/-! ### Capacity (R119 to R122) -/

/-- `Kreq(P)` (R119). -/
def kreq (ghbound p : Nat) : Nat := min 33 ((64 * p + ghbound - 1) / ghbound)

/-- The capacity group size G of a stripe of `n` segments (R121). -/
def groupSizeFrom : Nat → Nat → Nat → Nat
  | 0, g, _ => g
  | f + 1, g, n => if (n + g - 1) / g ≤ 4096 then g else groupSizeFrom f (2 * g) n

def groupSize (n : Nat) : Nat := groupSizeFrom 16 1 n

/-- Bytes of a stripe's capacity map (R121). -/
def capBytes (n : Nat) : Nat := (n + groupSize n - 1) / groupSize n * 8192

/-- What the check pass records of a segment (R120) and its per-column maxima of Kreq. -/
structure SegVerdict where
  pmax  : Nat
  prow  : Nat
  pcol  : Nat
  margin : Int
  unexp : Bool
  first : Option (Nat × Nat × Nat × Nat × Nat)   -- s, c, P, Kreq and K_live of the first pixel out of reach
  cols  : List Nat
  deriving DecidableEq, Repr

/-- One panel's rows seen in ascending `s`, then `c`. -/
def SegVerdict.pixel (dead : List Nat) (gh s c p : Nat) (v : SegVerdict) : SegVerdict :=
  let q := kreq gh p
  let live := kLive dead c
  let bad := live < q
  { v with
    pmax := max v.pmax p
    prow := if v.pmax < p then s else v.prow
    pcol := if v.pmax < p then c else v.pcol
    margin := min v.margin ((live : Int) - q)
    unexp := v.unexp || bad
    first := if bad && v.first.isNone then some (s, c, p, q, live) else v.first }

/-- The verdict on the rows of a segment, all 8,192 columns each, against a dead-beam list (R120). -/
def segVerdict (dead : List Nat) (gh k : Nat) (rows : List (List Nat)) : SegVerdict :=
  let v0 : SegVerdict := ⟨0, 4096 * k, 0, 33, false, none, []⟩
  let v := rows.zipIdx.foldl (fun v (r : List Nat × Nat) =>
    r.1.zipIdx.foldl (fun v (p : Nat × Nat) => v.pixel dead gh (4096 * k + r.2) p.2 p.1) v) v0
  let cols := rows.foldl (fun (acc r : List Nat) => List.zipWith (fun (a b : Nat) => max a (kreq gh b)) acc r)
    (List.replicate 8192 0)
  { v with cols := cols }

/-- The rows of a segment, its 16 panels side by side. -/
def Stripe.segRows (x : Stripe) (m : Mem) (f : Int → Int → Nat) (k : Nat) : List (List Nat) :=
  ((List.range 16).map fun p => x.panelRows m f k p).foldl
    (fun acc rows => (acc.zip rows).map fun (a : List Nat × List Nat) => a.1 ++ a.2) (List.replicate 4096 [])

/-- A capacity group fails under a dead-beam list (R122). -/
def groupFails (dead cols : List Nat) : Bool := cols.zipIdx.any fun (q : Nat × Nat) => kLive dead q.2 < q.1

/-- Segments at or after exposure position `q0` that stand in failing groups (R122). -/
def Stripe.capacityBad (x : Stripe) (dead : List Nat) (q0 : Nat) : List Nat :=
  (List.range x.nseg).filter fun k => decide (q0 ≤ x.pos k) && groupFails dead (x.capMap.getD (k / groupSize x.nseg) [])

end Sys2Proof.Machine
end

