-- ==== Sys2Proof/Machine/Parser.lean ====
section
/-!
DEFINITION. The stream ring and the parser: chunk checks, records, binning charges, and the commands that
open, feed and query a job (chapter 2).
-/

namespace Sys2Proof.Machine

/-! ### Records read as geometry (R57 to R59, R62, R63) -/

def i32 (w : Word) (lo : Nat) : Int := sfld (lo + 31) lo w

def in32 (v : Int) : Bool := decide (-(2 ^ 31) ≤ v ∧ v < 2 ^ 31)

def quad (a b c d : Int × Int) : Prim where
  cls := 0
  margin := false
  contours := [[⟨0, a.1, a.2⟩, ⟨0, b.1, b.2⟩, ⟨0, c.1, c.2⟩, ⟨0, d.1, d.2⟩]]

/-- RECT, TRAP_X and TRAP_Y (Tables 2-11 and 3-1). -/
def readConvex (type : Nat) (w0 w1 : Word) : Option Prim :=
  let a := i32 w1 0
  let b := i32 w1 32
  let c := i32 w1 64
  let d := i32 w1 96
  let ya := i32 w0 32
  let yb := i32 w0 64
  if type = 0x10 then
    if fld 127 32 w0 = 0 ∧ a ≤ c ∧ b ≤ d then some (quad (a, b) (c, b) (c, d) (a, d)) else none
  else if fld 127 96 w0 = 0 ∧ ya < yb ∧ a ≤ b ∧ c ≤ d then
    if type = 0x11 then some (quad (a, ya) (b, ya) (d, yb) (c, yb))
    else some (quad (ya, a) (yb, c) (yb, d) (ya, b))
  else none

/-- Field `i` of width `n` in packed words, and the unused bits after `count` fields are 0. -/
def packedField (ws : List Word) (n i : Nat) : Nat :=
  let per := 128 / n
  fld (n * (i % per) + n - 1) (n * (i % per)) (ws.getD (i / per) 0)

def unusedZero (ws : List Word) (n count : Nat) : Bool :=
  (List.range (128 / n * ws.length)).all fun i => decide (i < count) || packedField ws n i == 0

/-- Points cut into contours by their lengths. -/
def cutContours : List Nat → List CPoint → List (List CPoint)
  | [], _ => []
  | n :: ns, ps => ps.take n :: cutContours ns (ps.drop n)

/-- Tags after an on-curve point (R59). -/
def tagsOk : List Nat → Bool
  | [] => true
  | 0 :: r => tagsOk r
  | 1 :: 0 :: r => tagsOk r
  | 2 :: 2 :: 0 :: r => tagsOk r
  | _ => false

def contourOk (k : List CPoint) : Bool :=
  match k with
  | [] => false
  | p :: ps => p.tag == 0 && tagsOk (ps.map (·.tag) ++ [0])

/-- POLYGON and CURVE_SHAPE: the shape, and whether it keeps the limits of Table 2-15. -/
def readPoly (curve : Bool) (ws : List Word) : Option (Prim × Bool) :=
  let w0 := ws.getD 0 0
  let npts := fld 47 32 w0
  let ncont := fld 55 48 w0
  let lw := (ncont + 7) / 8
  let tw := if curve then (npts + 63) / 64 else 0
  let pw := (npts + 1) / 2
  let lens := (ws.drop 1).take lw
  let tags := (ws.drop (1 + lw)).take tw
  let pts := (ws.drop (1 + lw + tw)).take pw
  let ls := (List.range ncont).map (packedField lens 16)
  let cs := cutContours ls ((List.range npts).map fun i =>
    let w := pts.getD (i / 2) 0
    ⟨if curve then packedField tags 2 i else 0, i32 w (64 * (i % 2)), i32 w (64 * (i % 2) + 32)⟩)
  if fld 127 56 w0 = 0 ∧ ws.length = 1 + lw + tw + pw ∧ ls.sum = npts ∧ unusedZero lens 16 ncont = true ∧
      unusedZero tags 2 npts = true ∧ unusedZero pts 64 npts = true ∧ (curve = false ∨ cs.all contourOk = true) then
    some (⟨0, false, cs⟩, decide (3 ≤ npts ∧ npts ≤ 4096 ∧ 1 ≤ ncont) && ls.all (3 ≤ ·))
  else none

/-- Deepest curved edge and number of flattened edges of a contour (R81, R83). -/
def contourCost : Nat → List CPoint → Nat × Nat
  | 0, _ => (0, 0)
  | n + 1, a :: b :: r =>
    if b.tag = 0 then
      let z := contourCost n (b :: r)
      (z.1, z.2 + 1)
    else if b.tag = 1 then
      match r with
      | c :: _ =>
        let d := depthQuad (finePt a) (finePt b) (finePt c)
        let z := contourCost n r
        (max d z.1, z.2 + 2 ^ d)
      | [] => (0, 0)
    else match r with
      | c :: e :: r' =>
        let d := depthCubic (finePt a) (finePt b) (finePt c) (finePt e)
        let z := contourCost n (e :: r')
        (max d z.1, z.2 + 2 ^ d)
      | _ => (0, 0)
  | _, _ => (0, 0)

/-- R83. -/
def Prim.curveOk (p : Prim) : Bool :=
  let cs := p.contours.map fun k => contourCost (k.length + 1) (k ++ k.take 1)
  cs.all (·.1 ≤ 12) && decide ((cs.map (·.2)).sum ≤ 1048576)

def Prim.in32 (p : Prim) (dx dy : Int) : Bool :=
  p.contours.all fun k => k.all fun q => Machine.in32 (q.x + dx) && Machine.in32 (q.y + dy)

/-- CELL_REF and CELL_ARRAY (R62, R63). -/
def readUse (array : Bool) (ws : List Word) : Option CellUse :=
  let w0 := ws.getD 0 0
  let w1 := ws.getD 1 0
  let w2 := ws.getD 2 0
  let cls := if bitAt 59 w0 then some (fld 27 20 w0) else none
  let u : CellUse := ⟨fld 55 32 w0, fld 58 56 w0, i32 w0 64, i32 w0 96, cls, bitAt 28 w0,
    0, 0, 0, 0, 1, 1⟩
  if fld 63 60 w0 ≠ 0 then none
  else if !array then some u
  else if fld 127 32 w2 ≠ 0 then none
  else some { u with
    cx := i32 w1 0, cy := i32 w1 32, rx := i32 w1 64, ry := i32 w1 96, cols := fld 15 0 w2, rows := fld 31 16 w2 }

/-- The four corner instances of a use. -/
def CellUse.corners (u : CellUse) : List Place :=
  [u.inst 0 0, u.inst (u.cols - 1) 0, u.inst 0 (u.rows - 1), u.inst (u.cols - 1) (u.rows - 1)]

def Box.in32 (b : Box) (dx dy : Int) : Bool :=
  Machine.in32 (b.x0 + dx) && Machine.in32 (b.y0 + dy) && Machine.in32 (b.x1 + dx) && Machine.in32 (b.y1 + dy)

/-- Nesting below a cell (R64). -/
def cellHeight (cells : List CellDef) : Nat → Nat → Nat
  | 0, _ => 0
  | n + 1, id => match cells.find? (·.id == id) with
    | none => 0
    | some c => (c.items.map fun g => match g with
        | .prim _ => 0
        | .use u => 1 + cellHeight cells n u.cell).foldl max 0

/-- A record brings fine geometry (R65). -/
def hasFine (cells : List CellDef) : Nat → Geom → Bool
  | _, .prim p => !p.margin
  | 0, .use _ => false
  | n + 1, .use u => !u.margin && (match cells.find? (·.id == u.cell) with
    | none => false
    | some c => c.items.any (hasFine cells n))

/-- The bounding box of the points of a cell's content, references expanded by their corner instances (R45,
R63). -/
def contentBox (cells : List CellDef) : Nat → Nat → Option Box
  | 0, _ => none
  | n + 1, id => match cells.find? (·.id == id) with
    | none => none
    | some c => (c.items.map fun g => match g with
        | .prim p => boxOf p.contours.flatten
        | .use u => (contentBox cells n u.cell).map fun b =>
          (u.corners.map (·.box b)).foldl Box.join (u.inst 0 0 |>.box b)).foldl joinBoxes none

/-- Every point that a use places lies in the 32-bit range, as transformed and with the pass offset added
(R45). -/
def CellUse.in32 (cells : List CellDef) (u : CellUse) (dx dy : Int) : Bool :=
  match contentBox cells 64 u.cell with
  | none => true
  | some b => u.corners.all fun q => (q.box b).in32 0 0 && (q.box b).in32 dx dy

/-- The content of a cell lies in its declared box (R61). -/
def CellDef.boxOk (cells : List CellDef) (c : CellDef) : Bool :=
  c.items.all fun g => match g with
    | .prim p => (boxOf p.contours.flatten).all fun b => b.inside c.box
    | .use u => match cells.find? (·.id == u.cell) with
      | none => false
      | some d => u.corners.all fun q => (q.box d.box).inside c.box

/-- Bin entries of a record (R69, R72). -/
def Stripe.binEntries (x : Stripe) (g : Geom) : Nat :=
  let margin := match g with
    | .prim p => p.margin
    | .use u => u.margin
  if margin then 0
  else ((List.range x.nseg).map fun k => ((List.range 16).filter fun p =>
    binHolds x.cells x.place (x.binBox k p) g).length).sum

/-! ### The stream store (R72) -/

abbrev recordStore : Nat := 320 * 2 ^ 20
abbrev cellStore : Nat := 128 * 2 ^ 20

def FogMap.bytes (m : FogMap) : Nat := 2 * m.nx * m.ny
def DistMap.bytes (m : DistMap) : Nat := 4 * m.nx * m.ny

/-- Map copies still needed: by a job whose stream runs, by the snapshot of a stripe. -/
def Jobs.mapCopies (j : Jobs) : List (Nat × Nat) :=
  let own (f : Option FogMap) (d : Option DistMap) : List (Nat × Nat) :=
    (f.map fun m => (m.copy, m.bytes)).toList ++ (d.map fun m => (m.copy, m.bytes)).toList
  (((j.jobs.filter (·.st == .streaming)).map fun b => own b.fog b.dist).flatten ++
    (j.stripes.map fun x => own (if x.landing = .complete then none else x.fog)
      (if x.st = .done ∨ x.st = .refused then none else x.dist)).flatten).eraseDups

/-- The library of a job is held until the landing pass of its last stripe completes (R72). -/
def Jobs.libHeld (j : Jobs) (b : Job) : Bool :=
  b.st != .ended || j.stripes.any fun x =>
    x.id.job == b.id && x.id.stripe.toNat + 1 == b.nStripes % 65536 && x.landing != .complete

/-- Bytes of the cell library in use, over all jobs. -/
def Jobs.libUsed (j : Jobs) : Nat := ((j.jobs.filter j.libHeld).map (·.libBytes)).sum

/-- Bytes of the stripe record store in use. -/
def Jobs.storeUsed (j : Jobs) : Nat :=
  (j.stripes.map fun x => if x.landing = .complete then 0 else x.bytes).sum + (j.mapCopies.map (·.2)).sum

/-- A stripe whose landing pass will release space: its body is closed, its pass not complete (R72). -/
def Jobs.mayFree (j : Jobs) : Bool :=
  j.stripes.any fun x => x.bodyDone && x.landing != .complete && x.bytes != 0

/-! ### Blocks (R53, R54, R66) -/

/-- A block reference: ADDR aligned, SPACE allowed, the other bits 0. -/
def blockRef (w1 w2 : Word) (used : Nat) : Option (Nat × BitVec 4 × BitVec 64) :=
  let sp := BitVec.ofNat 4 (fld 67 64 w1)
  if fld 11 0 w1 = 0 ∧ (sp = spLanding ∨ sp = spHostA ∨ sp = spHostB) ∧ fld 127 (68 + used) w1 = 0 ∧
      fld 127 64 w2 = 0 then some (fld 63 0 w1, sp, BitVec.ofNat 64 (fld 63 0 w2))
  else none

/-- The bytes of a block where its CRC matches. A block that runs past the end of its space counts as one
that was not fetched (DESIGN CHOICE, log entry 36); so does one that a stack does not answer for (Table 7-3). -/
def State.block (s : State) (r : Nat × BitVec 4 × BitVec 64) (n : Nat) : Option (List Byte) :=
  let bs := s.mem.bytes r.2.1 r.1 n
  if rangeOk r.2.1 r.1 n ∧ s.reads r.2.1 r.1 n ∧ crc64 bs = r.2.2 then some bs else none

def u16At (bs : List Byte) (i : Nat) : Nat := leNat ((bs.drop (2 * i)).take 2)
def s16At (bs : List Byte) (i : Nat) : Int := signedOf 16 (u16At bs i)

/-! ### One chunk's records -/

/-- A chunk being applied: the state it would leave, the checks of rows 9 to 12 that failed with the word
offset of each, the bytes it adds to the store. -/
structure Chunk where
  s     : State
  job   : BitVec 16
  ctx   : Ctx
  bad   : List (Nat × Nat)
  added : Nat
  free  : Nat
  ended : Bool

def Chunk.mark (c : Chunk) (row off : Nat) (ok : Bool) : Chunk :=
  if ok then c else { c with bad := c.bad ++ [(row, off)] }

/-- Bytes charged to the stripe record store (row 13). -/
def Chunk.charge (c : Chunk) (off n : Nat) : Chunk :=
  { (c.mark 13 off (decide (c.added + n ≤ c.free))) with added := c.added + n }

def Chunk.theJob (c : Chunk) : Option Job := c.s.job? c.job

def Chunk.onJob (c : Chunk) (f : Job → Job) : Chunk := { c with s := c.s.onJob c.job f }

/-- The open stripe. -/
def Chunk.stripe? (c : Chunk) : Option Stripe :=
  match c.ctx with
  | .stripe n => c.s.stripe? ⟨c.job, n⟩
  | _ => none

def Chunk.onStripe (c : Chunk) (f : Stripe → Stripe) : Chunk :=
  match c.ctx with
  | .stripe n => { c with s := c.s.onStripe ⟨c.job, n⟩ f }
  | _ => c

def Chunk.atJob (c : Chunk) : Bool :=
  match c.ctx with
  | .job => true
  | _ => false

def sgn16 (w : Word) (lo : Nat) : Int := sfld (lo + 15) lo w

/-- JOB_HEADER (Table 2-7). -/
def Chunk.jobHeader (c : Chunk) (ws : List Word) : Option Chunk :=
  let w0 := ws.getD 0 0
  let w1 := ws.getD 1 0
  let lgo := fld 88 80 w0
  let gh := fld 111 96 w0
  if ws.length = 3 ∧ c.atJob = true ∧ fld 47 32 w0 = c.job.toNat ∧ fld 55 48 w0 = 1 ∧ fld 57 56 w0 ≠ 3 ∧ fld 59 58 w0 ≠ 3 ∧
      fld 61 60 w0 ≠ 3 ∧ fld 79 68 w0 = 0 ∧ (lgo = 0 ∨ 16 ≤ lgo ∧ lgo ≤ 256) ∧ fld 95 89 w0 = 0 ∧ 1 ≤ gh ∧
      fld 127 112 w0 = 0 ∧ ws.getD 2 0 = 0 then
    let h : JobHeader := ⟨BitVec.ofNat 2 (fld 57 56 w0), BitVec.ofNat 2 (fld 59 58 w0),
      BitVec.ofNat 2 (fld 61 60 w0), fld 63 62 w0 + 1, bitAt 64 w0, bitAt 65 w0, bitAt 66 w0, bitAt 67 w0,
      if lgo = 0 then 128 else lgo, gh, (List.range 4).map fun k => sgn16 w1 (32 * k),
      (List.range 4).map fun k => sgn16 w1 (32 * k + 16)⟩
    some (c.onJob fun j => { j with hdr := some h, dose := List.replicate 256 8192 })
  else none

def Seg.fresh : Seg where
  omega := 0
  pmax := 0
  prow := 0
  pcol := 0
  margin := 0
  unexp := false
  lstate := .none
  outcome := .notStarted
  admittedOnce := false
  sdef := false
  panels := []
  firstBad := none
  checkMism := []
  feedWait := false
  old := none
  recA := 0
  recB := 0
  tland := 0
  tadm := 0
  ebytes := 0
  repairs := 0
  fit := none
  deficits := 0
  repaired := 0
  irrepPx := []
  spos := 0
  lastScrub := 0
  unverified := false

/-- The record of a stripe just defined (R47). -/
def Stripe.fresh (j : Job) (h : JobHeader) (n : BitVec 16) (nseg pass : Nat) (rev : Bool) (x0 y0 : Int) : Stripe where
  id := ⟨j.id, n⟩
  st := .defined
  nseg := nseg
  pass := pass
  rev := rev
  x0 := x0
  y0 := y0
  hdr := h
  target := j.target
  dual := j.dual
  dose := j.dose
  lrc := j.lrc
  fog := j.fog
  dist := j.dist
  cells := j.cells
  items := []
  bodyDone := false
  nrec := 0
  bytes := 0
  rasters := []
  witnesses := []
  canopy := .waiting
  canopyFails := 0
  canopyAt := 0
  canopyTime := 0
  check := .waiting
  checkDead := []
  tiles := []
  capMap := []
  capPages := []
  fmap := none
  remap := false
  landing := .waiting
  landNext := 0
  cols := []
  segs := List.replicate nseg Seg.fresh
  started := false
  kStart := 0
  boundary := none
  runs := 0
  carried := false
  f0 := none
  fh := none
  fgen := 0
  latched := none
  haltRun := none

/-- STRIPE_HEADER (R47, R48, R50). -/
def Chunk.stripeHeader (c : Chunk) (off : Nat) (ws : List Word) : Option Chunk :=
  let w0 := ws.getD 0 0
  let w1 := ws.getD 1 0
  match c.theJob with
  | none => none
  | some j =>
    match j.hdr with
    | none => none
    | some h =>
      let n := fld 47 32 w0
      let nseg := fld 63 48 w0
      let pass := fld 65 64 w0
      let rev := bitAt 66 w0
      let x0 := i32 w1 0
      let y0 := i32 w1 32
      if ws.length = 2 ∧ c.atJob = true ∧ n = j.nStripes % 65536 ∧ 1 ≤ nseg ∧ nseg ≤ 16381 ∧ pass < h.passes ∧
          (h.dir = 2 ∨ h.dir.toNat = b2n rev) ∧ fld 127 67 w0 = 0 ∧ x0 % 64 = 0 ∧ y0 % 64 = 0 ∧ fld 127 64 w1 = 0 ∧
          -(2 ^ 31) ≤ x0 - 393216 ∧ x0 + 917504 ≤ 2 ^ 31 ∧ -(2 ^ 31) ≤ y0 - 393216 ∧
          y0 + 262144 * nseg + 393216 ≤ 2 ^ 31 ∧ (h.lrc = false ∨ j.lrc.isSome = true) then
        let x := Stripe.fresh j h (BitVec.ofNat 16 n) nseg pass rev x0 y0
        let cost := 32 + 4096 + 1024 * nseg
        let c1 := (c.mark 10 off (decide (j.nStripes < 65536))).charge off cost
        let c2 := c1.onJob fun j => { j with nStripes := j.nStripes + 1 }
        some { c2 with
          s := c2.s.onJobs fun js => { js with stripes := js.stripes ++ [{ x with bytes := cost }] }
          ctx := .stripe (BitVec.ofNat 16 n) }
      else none

/-- A record of an open stripe is counted and charged (R49, R72). -/
def Chunk.keep (c : Chunk) (off bytes : Nat) (f : Stripe → Stripe) : Chunk :=
  (c.charge off bytes).onStripe fun x => { f x with nrec := x.nrec + 1, bytes := x.bytes + bytes }

/-- STRIPE_END (R49). -/
def Chunk.stripeEnd (c : Chunk) (off : Nat) (ws : List Word) : Option Chunk :=
  let w0 := ws.getD 0 0
  match c.stripe? with
  | none => none
  | some x =>
    if ws.length = 1 ∧ fld 47 32 w0 = x.id.stripe.toNat ∧ fld 95 64 w0 = x.nrec % 2 ^ 32 then
      some { ((c.charge off 16).onStripe fun y => { y with bodyDone := true, bytes := y.bytes + 16 }) with ctx := .job }
    else none

/-- DOSE_TABLE (R51). -/
def Chunk.doseTable (c : Chunk) (ws : List Word) : Option Chunk :=
  let w0 := ws.getD 0 0
  let first := fld 39 32 w0
  let n := fld 47 40 w0 + 1
  let body := ws.drop 1
  if c.atJob = true ∧ ws.length = 1 + (n + 7) / 8 ∧ fld 127 48 w0 = 0 ∧ first + n ≤ 256 ∧ unusedZero body 16 n = true then
    some (c.onJob fun j => { j with
      dose := j.dose.take first ++ (List.range n).map (packedField body 16) ++ j.dose.drop (first + n) })
  else none

/-- LRC_PARAMS (R52, R115). -/
def Chunk.lrcParams (c : Chunk) (ws : List Word) : Option Chunk :=
  let w0 := ws.getD 0 0
  let w1 := ws.getD 1 0
  let nt := fld 33 32 w0 + 1
  let eta := fld 63 48 w0
  let sg := (List.range 4).map fun t => fld (32 * t + 15) (32 * t) w1
  let wt := (List.range 4).map fun t => fld (32 * t + 31) (32 * t + 16) w1
  if c.atJob = true ∧ ws.length = 2 ∧ fld 47 36 w0 = 0 ∧ fld 127 64 w0 = 0 ∧ eta ≤ 12288 ∧
      (sg.take nt).all (fun v => decide (256 ≤ v ∧ v ≤ 10240)) = true ∧ (wt.take nt).sum = 32768 ∧
      (sg.drop nt).all (· == 0) = true ∧ (wt.drop nt).all (· == 0) = true then
    some (c.onJob fun j => { j with lrc := some ⟨nt, fld 35 34 w0 + 1, eta, sg, wt⟩ })
  else none

/-- FOG_MAP (R54, R55). A count below its range is no breach of Table 2-15: the record is malformed (DEDUCED,
log entry 38). -/
def Chunk.fogMap (c : Chunk) (off : Nat) (ws : List Word) : Option Chunk :=
  let w0 := ws.getD 0 0
  let nx := fld 47 32 w0
  let ny := fld 63 48 w0
  match blockRef (ws.getD 1 0) (ws.getD 2 0) 0 with
  | none => none
  | some r =>
    if c.atJob = true ∧ ws.length = 3 ∧ 1 ≤ nx ∧ 1 ≤ ny then
      let lim := decide (nx ≤ 1024 ∧ ny ≤ 1024)
      let bs := c.s.block r (2 * nx * ny)
      let c1 := ((c.mark 10 off lim).mark 11 off bs.isSome).charge off (2 * nx * ny)
      let m : FogMap := ⟨c.s.jobs.copies, nx, ny, i32 w0 64, i32 w0 96,
        (List.range (nx * ny)).map (u16At (bs.getD []))⟩
      some { (c1.onJob fun j => { j with fog := some m }) with
        s := (c1.s.onJob c.job fun j => { j with fog := some m }).onJobs fun js => { js with copies := js.copies + 1 } }
    else none

/-- DISTORTION_MAP (R54, R56). -/
def Chunk.distMap (c : Chunk) (off : Nat) (ws : List Word) : Option Chunk :=
  let w0 := ws.getD 0 0
  let w1 := ws.getD 1 0
  let nx := fld 47 32 w0
  let ny := fld 63 48 w0
  let pl := fld 72 68 w1
  match blockRef w1 (ws.getD 2 0) 5 with
  | none => none
  | some r =>
    if c.atJob = true ∧ ws.length = 3 ∧ 12 ≤ pl ∧ pl ≤ 16 ∧ 2 ≤ nx ∧ 2 ≤ ny then
      let lim := decide (nx ≤ 1024 ∧ ny ≤ 1024)
      let bs := c.s.block r (4 * nx * ny)
      let c1 := ((c.mark 10 off lim).mark 11 off bs.isSome).charge off (4 * nx * ny)
      let m : DistMap := ⟨c.s.jobs.copies, nx, ny, i32 w0 64, i32 w0 96, pl,
        (List.range (nx * ny)).map fun i => (s16At (bs.getD []) (2 * i), s16At (bs.getD []) (2 * i + 1))⟩
      some { c1 with
        s := (c1.s.onJob c.job fun j => { j with dist := some m }).onJobs fun js => { js with copies := js.copies + 1 } }
    else none

/-- `nw` words charged to the cell library, which all jobs share (R72, Table 2-15). A PAD record in a cell
body is not charged (DESIGN CHOICE, log entry 37). -/
def Chunk.library (c : Chunk) (off nw : Nat) : Chunk :=
  (c.mark 10 off (decide (c.s.jobs.libUsed + 16 * nw ≤ cellStore))).onJob fun j =>
    { j with libBytes := j.libBytes + 16 * nw }

/-- A geometry record goes into the open stripe or cell (R41, R72). -/
def Chunk.put (c : Chunk) (off nw : Nat) (g : Geom) : Option Chunk :=
  match c.ctx with
  | .job => none
  | .cell d =>
    some { (c.library off nw) with ctx := .cell { d with items := d.items ++ [g] } }
  | .stripe _ =>
    match c.stripe? with
    | none => none
    | some x =>
      if x.hdr.ingest = 1 ∧ hasFine x.cells 8 g = true then none
      else some (c.keep off (16 * nw + 16 * x.binEntries g) fun x => { x with items := x.items ++ [g] })

/-- The pass offset that applies in the context (R43). -/
def Chunk.offset (c : Chunk) : Int × Int :=
  match c.stripe? with
  | some x => (x.place.dx, x.place.dy)
  | none => (0, 0)

/-- RECT, TRAP_X, TRAP_Y, POLYGON, CURVE_SHAPE. -/
def Chunk.prim (c : Chunk) (off type : Nat) (ws : List Word) : Option Chunk :=
  let w0 := ws.getD 0 0
  let shape : Option (Prim × Bool) :=
    if type ≤ 0x12 then (if ws.length = 2 then (readConvex type w0 (ws.getD 1 0)).map fun p => (p, true) else none)
    else readPoly (type == 0x14) ws
  match shape with
  | none => none
  | some (p, lim) =>
    let q : Prim := { p with cls := fld 27 20 w0, margin := bitAt 28 w0 }
    if q.in32 c.offset.1 c.offset.2 then
      let now := match c.ctx with
        | .stripe _ => q.curveOk
        | _ => true
      (c.mark 10 off (lim && now)).put off ws.length (.prim q)
    else none

/-- CELL_REF and CELL_ARRAY. -/
def Chunk.useCell (c : Chunk) (off : Nat) (array : Bool) (ws : List Word) : Option Chunk :=
  match readUse array ws, c.theJob with
  | some u, some j =>
    match j.cells.find? (·.id == u.cell) with
    | none => none
    | some _ =>
      if ws.length = (if array then 3 else 1) ∧ 1 ≤ u.cols ∧ 1 ≤ u.rows ∧
          u.in32 j.cells c.offset.1 c.offset.2 = true then
        let deep := match c.ctx with
          | .stripe _ => decide (1 + cellHeight j.cells 64 u.cell ≤ 8)
          | _ => true
        (c.mark 10 off deep).put off ws.length (.use u)
      else none
  | _, _ => none

/-- CELL_BEGIN (R60). -/
def Chunk.cellBegin (c : Chunk) (off : Nat) (ws : List Word) : Option Chunk :=
  let id := fld 55 32 (ws.getD 0 0)
  let w1 := ws.getD 1 0
  match c.theJob with
  | none => none
  | some j =>
    if ws.length = 2 ∧ c.atJob = true ∧ 1 ≤ id ∧ j.cells.all (·.id != id) = true then
      some { ((c.mark 10 off (decide (j.cells.length < 1048576))).library off 2) with
        ctx := .cell ⟨id, i32 w1 0, i32 w1 32, i32 w1 64, i32 w1 96, []⟩ }
    else none

/-- CELL_END (R60, R61, R83). -/
def Chunk.cellEnd (c : Chunk) (off : Nat) (ws : List Word) : Option Chunk :=
  match c.ctx, c.theJob with
  | .cell d, some j =>
    if ws.length = 1 ∧ fld 55 32 (ws.getD 0 0) = d.id then
      let curves := d.items.all fun g => match g with
        | .prim p => p.curveOk
        | .use _ => true
      let c1 := ((c.mark 9 off (d.boxOk j.cells)).mark 10 off curves).library off 1
      some { (c1.onJob fun j => { j with cells := j.cells ++ [d] }) with ctx := .job }
    else none
  | _, _ => none

/-- RASTER_PANEL (R65, R66, R110). -/
def Chunk.rasterPanel (c : Chunk) (off : Nat) (ws : List Word) : Option Chunk :=
  let w0 := ws.getD 0 0
  let k := fld 47 32 w0
  let p := fld 51 48 w0
  match c.stripe?, blockRef (ws.getD 1 0) (ws.getD 2 0) 0 with
  | some x, some r =>
    if ws.length = 3 ∧ x.hdr.ingest ≠ 0 ∧ k < x.nseg ∧ fld 127 54 w0 = 0 ∧ (x.raster? k p).isNone = true then
      let bs := c.s.block r 4194304
      let sums := rasterSums fun row col => leNat (c.s.mem.bytes r.2.1 (r.1 + 1024 * row + 2 * col) 2)
      let m : RasterPanel := ⟨k, p, bitAt 52 w0, bitAt 53 w0, r.1, r.2.1, r.2.2, sums⟩
      some ((c.mark 11 off bs.isSome).keep off (48 + 2048) fun x => { x with rasters := x.rasters ++ [m] })
    else none
  | _, _ => none

/-- The segment a WITNESS names meets it, if it waits sealed (R168). -/
def Chunk.witness (c : Chunk) (off : Nat) (ws : List Word) : Option Chunk :=
  let w0 := ws.getD 0 0
  let n := fld 47 32 w0
  let k := fld 63 48 w0
  let sigs := (List.range 16).map fun p =>
    BitVec.ofNat 64 (fld (64 * (p % 2) + 63) (64 * (p % 2)) (ws.getD (1 + p / 2) 0))
  match c.theJob with
  | none => none
  | some j =>
    let inCell := match c.ctx with
      | .cell _ => true
      | _ => false
    if ws.length ≠ 9 ∨ inCell = true ∨ fld 127 64 w0 ≠ 0 ∨ j.nStripes ≤ n then none
    else
      let c1 := match c.ctx with
        | .stripe _ => c.keep off 144 id
        | _ => c
      let ignored := c1.onJob fun j => { j with ignoredWitness := j.ignoredWitness + 1 }
      let sid : StripeId := ⟨c.job, BitVec.ofNat 16 n⟩
      if (j.hdr.map (·.witness)).getD false = false then some ignored
      else match c.s.stripe? sid with
        | none => some ignored
        | some x =>
          if x.nseg ≤ k then none
          else match x.witnesses.find? (·.seg == k) with
            | some w => some (c1.mark 12 off (w.sigs == sigs))
            | none => some { c1 with
                s := (c1.s.onStripe sid fun y => { y with witnesses := y.witnesses ++ [⟨k, sigs⟩] }).judgeWitness sid k }

/-- JOB_END (R49): only PAD records stand behind it. NSTRIPES has 16 bits, and a job of 65,536 stripes has
NSTRIPES 0 (DESIGN CHOICE, log entry 34). -/
def Chunk.jobEnd (c : Chunk) (last : Bool) (ws : List Word) : Option Chunk :=
  match c.theJob with
  | none => none
  | some j =>
    if ws.length = 1 ∧ last = true ∧ c.atJob = true ∧ fld 47 32 (ws.getD 0 0) = j.nStripes % 65536 then
      some { (c.onJob fun j => { j with st := .ended }) with ended := true }
    else none

/-- The common header (R40): reserved bits, and CLASS and MARGIN where they belong. -/
def headOk (w : Word) : Bool :=
  let t := fld 7 0 w
  let geo := decide (0x10 ≤ t ∧ t ≤ 0x14) || t == 0x22 || t == 0x23
  fld 31 29 w == 0 && (geo || fld 28 20 w == 0)

/-- One record (R41, Table 2-6). `none`: malformed. -/
def Chunk.record (c : Chunk) (last : Bool) (seq off : Nat) (ws : List Word) : Option Chunk :=
  let w0 := ws.getD 0 0
  let t := fld 7 0 w0
  if !headOk w0 then none
  else if t = 0x00 then (if ws.length = 1 then some c else none)
  else if c.ended then none
  else if t = 0x01 then (if seq = 0 ∧ off = 1 then c.jobHeader ws else none)
  else if t = 0x02 then c.jobEnd last ws
  else if t = 0x03 then c.stripeHeader off ws
  else if t = 0x04 then c.stripeEnd off ws
  else if t = 0x05 then c.doseTable ws
  else if t = 0x06 then c.lrcParams ws
  else if t = 0x07 then c.fogMap off ws
  else if t = 0x08 then c.distMap off ws
  else if 0x10 ≤ t ∧ t ≤ 0x14 then c.prim off t ws
  else if t = 0x20 then c.cellBegin off ws
  else if t = 0x21 then c.cellEnd off ws
  else if t = 0x22 ∨ t = 0x23 then c.useCell off (t == 0x23) ws
  else if t = 0x30 then c.rasterPanel off ws
  else if t = 0x38 then c.witness off ws
  else none

/-- The records of a body from word offset `off` on: the chunk applied, or the offset of the first
malformed record (R39). A chunk with LAST = 1 that carries no JOB_END offends at word 0 (DESIGN CHOICE, log
entry 35). -/
def Chunk.records : Nat → Bool → Nat → Nat → List Word → Chunk → Chunk ⊕ Nat
  | 0, _, _, off, _, _ => .inr off
  | fuel + 1, last, seq, off, ws, c =>
    match ws with
    | [] => if last && !c.ended then .inr 0 else .inl c
    | w :: _ =>
      let nw := fld 19 8 w
      if nw = 0 ∨ ws.length < nw then .inr off
      else match c.record last seq off (ws.take nw) with
        | none => .inr off
        | some c1 => Chunk.records fuel last seq (off + nw) (ws.drop nw) c1

/-! ### A slot (R32 to R39) -/

abbrev ringLen : Nat := 2 ^ 26

/-- Length of the fed part (R33). -/
def Parser.fed (p : Parser) : Nat := (p.wp + ringLen - p.rd) % ringLen

/-- Status of a row of Table 2-3. -/
def rowStatus (row : Nat) : BitVec 16 :=
  if row = 4 then ST.jobChunkCrc else if row = 6 then ST.jobChunkConflict else if row = 7 then ST.jobChunkGap
  else if row = 8 then ST.jobRecordFormat else if row = 9 then ST.jobCellBbox else if row = 10 then ST.jobLimit
  else if row = 11 then ST.jobBlockCrc else if row = 12 then ST.jobWitnessConflict
  else if row = 13 then ST.jobStoreFull else ST.jobChunkFormat

/-- The lowest failing row, and the first record in it. -/
def worst : List (Nat × Nat) → Option (Nat × Nat)
  | [] => none
  | b :: bs => match worst bs with
    | none => some b
    | some d => if d.1 < b.1 then some d else some b

/-- The parser stalls at its slot and raises the stream event (R37). -/
def State.stallAt (s : State) (job : BitVec 16) (row seq off : Nat) : State :=
  let p := s.jobs.parser
  (s.onJobs fun j => { j with parser := { j.parser with
      stall := some ⟨rowStatus row, seq, p.rd, off⟩, waitSpace := false } }).raiseVia none (some job)
    { Event.of (rowStatus row) with
      nodef := nodeF 1 0 0, noder := nodeR 1 0 0
      d0 := BitVec.ofNat 64 (seq + 2 ^ 32 * p.rd), d1 := BitVec.ofNat 64 off }

/-- Chunk header row 1 (R35). -/
def chunkHeaderOk (h : Word) : Bool :=
  fld 15 0 h == 0x4843 && fld 23 16 h == 1 && fld 127 98 h == 0 &&
    (if bitAt 97 h then fld 95 24 h == 0 else fld 63 48 h != 0)

/-- An accepted chunk: the state it leaves, the pair kept, the slot free (R34, R38). -/
def Chunk.accept (c : Chunk) (seq : Nat) (crc : BitVec 64) (next : Nat) : State :=
  let s1 := c.s.onJobs fun j => { j with parser := { j.parser with
    rd := next, exp := seq + 1, last := some seq, stall := none, waitSpace := false, ctx := c.ctx
    kept := (j.parser.kept ++ [(seq, crc)]).drop (j.parser.kept.length + 1 - 16) } }
  if c.ended then
    let p := s1.jobs.parser
    (s1.onJob c.job fun j => { j with final := some (p.last, p.rd, p.repeats) }).onJobs fun j =>
      { j with parser := { j.parser with job := none } }
  else s1

/-- The slot at the read offset (Table 2-3). A wrap word is followed once the fed part reaches the ring end,
where the slot it stands in ends (DESIGN CHOICE, log entry 33); a slot that the fed part holds only in part
fails row 2 (DEDUCED, log entry 38). While stack A does not answer the parser waits (Table 7-3); a chunk with a word
that was lost while its unit was copied fails its CRC (R198). -/
def State.parseSlot (s : State) : State :=
  let p := s.jobs.parser
  match p.job with
  | none => s
  | some job =>
    if p.stall.isSome ∨ p.fed = 0 ∨ (s.job? job).any (·.st == .aborting) = true ∨ s.stackReads .a = false then s
    else
      let h := (s.mem.words spLanding p.rd 1).getD 0 0
      let len := fld 63 48 h
      let seq := fld 95 64 h
      let size := (len + 2 + 255) / 256 * 4096
      if !chunkHeaderOk h then s.stallAt job 1 seq 0
      else if bitAt 97 h then
        if p.fed < ringLen - p.rd then s
        else s.onJobs fun j => { j with parser := { j.parser with rd := 0 } }
      else if p.fed < size ∨ ringLen < p.rd + 16 * (len + 2) then s.stallAt job 2 seq 0
      else
        let ws := s.mem.words spLanding p.rd (len + 2)
        let t := ws.getD (len + 1) 0
        let body := (ws.drop 1).take len
        let crc := BitVec.ofNat 64 (fld 63 0 t)
        let next := (p.rd + size) % ringLen
        if s.mc.stA.damaged.any (fun w => decide (p.rd ≤ 32 * w ∧ 32 * w < p.rd + size)) = true then
          s.stallAt job 4 seq (len + 1)
        else if fld 127 112 t ≠ 0x5443 ∨ fld 95 64 t ≠ seq ∨ fld 103 96 t ≠ fld 31 24 h then s.stallAt job 3 seq (len + 1)
        else if crc ≠ crc64W (ws.take (len + 1)) then s.stallAt job 4 seq (len + 1)
        else if fld 47 32 h ≠ job.toNat ∨ fld 31 24 h ≠ seq % 256 ∨
            (seq == 0) ≠ (fld 7 0 (body.getD 0 0) == 1) then s.stallAt job 5 seq 0
        else if seq < p.exp then
          if p.kept.contains (seq, crc) then
            s.onJobs fun j => { j with parser := { j.parser with rd := next, repeats := j.parser.repeats + 1 } }
          else s.stallAt job 6 seq 0
        else if p.exp < seq then s.stallAt job 7 seq 0
        else
          let c : Chunk := ⟨s, job, p.ctx, [], 0, recordStore - s.jobs.storeUsed, false⟩
          match c.records (len + 1) (bitAt 96 h) seq 1 body with
          | .inr off => s.stallAt job 8 seq off
          | .inl c1 => match worst c1.bad with
            | none => c1.accept seq crc next
            | some (row, off) =>
              if row = 13 ∧ s.jobs.mayFree = true then
                s.onJobs fun j => { j with parser := { j.parser with waitSpace := true } }
              else s.stallAt job row seq off

/-- PARSE_SLOT. -/
def execParseSlot (s : State) : Answer := .next s.parseSlot

/-! ### JOB.OPEN, JOB.FEED, JOB.QUERY (Table 17-9) -/

/-- The preconditions of JOB.OPEN. A beams job on a plate that R249 refuses answers ST_PLATE_RECORD; the rule names no
status (DESIGN CHOICE, log entry 56). -/
def openPre (job : BitVec 16) (target : BitVec 2) (s : State) : List (Bool × BitVec 16) :=
  [(s.jobs.parser.job.isNone, ST.jobRingBusy), ((s.job? job).isNone, ST.jobExists),
   (decide (s.jobs.jobs.length < 16), ST.jobTooMany),
   (target != 0 || s.plate.attached.isSome, ST.plateNone), (target != 0 || !s.plate.eol, ST.plateEol),
   (target != 0 || !s.plate.refused, ST.plateRecord)]

def Job.opened (src : Src) (job : BitVec 16) (target : BitVec 2) (dual : Bool) (plate : Option (BitVec 64)) : Job :=
  ⟨job, src.port, target, dual, .streaming, none, List.replicate 256 8192, none, none, none, [], 0,
    if target = 0 then plate else none, 0, 0, 0, none⟩

/-- JOB.OPEN: the job is held and the ring reset for it (R31). -/
def execJobOpen (src : Src) (job : BitVec 16) (target : BitVec 2) (dual : Bool) (s : State) : Answer :=
  .next (s.command src (openPre job target s) fun s =>
    ((s.onJobs fun j => { j with
      jobs := j.jobs ++ [Job.opened src job target dual s.plate.attached]
      parser := { Parser.reset with job := some job } }).onAhead 1 fun _ => 0).ok src [packW [(64, 32, ringLen)]])

def Job.mine (j : Job) (src : Src) : Bool := j.owner == src.port

/-- The write pointer a feed may set (R33). -/
def Parser.feedOk (p : Parser) (wp : Nat) : Bool :=
  wp % 16 == 0 && decide (wp < ringLen) && decide (p.fed ≤ (wp + ringLen - p.rd) % ringLen)

/-- The preconditions of JOB.FEED. -/
def feedPre (src : Src) (job : BitVec 16) (wp : Nat) (s : State) : List (Bool × BitVec 16) :=
  let j := s.job? job
  [(j.isSome, ST.jobUnknown), (j.any (·.mine src), ST.sysNotOwner), (j.any (·.st == .streaming), ST.jobState),
   (s.jobs.parser.feedOk wp, ST.jobFeedRange)]

def PassSt.resume : PassSt → PassSt
  | .paused => .running
  | p => p

/-- JOB.FEED: the write pointer moves, a stalled parser reads again, a paused pass fetches again (R37,
R67). -/
def execJobFeed (src : Src) (job : BitVec 16) (wp : BitVec 32) (s : State) : Answer :=
  .next (s.command src (feedPre src job wp.toNat s) fun s =>
    ((s.onAhead 1 (· - (wp.toNat + ringLen - s.jobs.parser.wp) % ringLen)).onJobs fun j => { j with
      parser := { j.parser with wp := wp.toNat, stall := none }
      stripes := j.stripes.map fun x => { x with
        check := x.check.resume, landing := x.landing.resume
        segs := x.segs.map fun g => { g with feedWait := false } } }).ok src [])

/-- JOB.QUERY. -/
def execJobQuery (src : Src) (job : BitVec 16) (s : State) : Answer :=
  .next (s.command src [((s.job? job).isSome, ST.jobUnknown)] fun s =>
    match s.job? job with
    | none => s
    | some j =>
      let p := s.jobs.parser
      let live := p.job = some job
      let q := if live then (p.last, p.rd, p.repeats) else j.final.getD (none, 0, 0)
      let st := if live then p.stall else none
      s.ok src [packW [(0, 32, q.1.getD 0xFFFFFFFF), (32, 32, q.2.1), (64, 32, q.2.2),
          (96, 16, (st.map (·.code.toNat)).getD 0)],
        packW [(0, 32, (st.map (·.seq)).getD 0), (32, 32, (st.map (·.word)).getD 0), (64, 32, j.nStripes)]])

end Sys2Proof.Machine
end

