-- ==== Sys2Proof/Machine/Render.lean ====
section
/-!
DEFINITION. The render side: Canopy, check and landing passes, raster tiles, encode lanes, decode lane
faults and service jobs (chapters 1 and 3 to 5).
-/

namespace Sys2Proof.Machine

/-! ### Tiles (R88, R89, R93) -/

def Stripe.tileVal? (x : Stripe) (k t : Nat) : Option TileVal := x.tiles.find? fun v => v.seg == k && v.tile == t

def Stripe.onTile (x : Stripe) (k t : Nat) (f : TileVal → TileVal) : Stripe :=
  { x with tiles := x.tiles.map fun v => if v.seg = k ∧ v.tile = t then f v else v }

/-- Rank of a tile in the queue (R89). -/
def Tile.rank (t : Tile) : Nat :=
  if t.front || t.pass == .rerun then 0 else if t.pass = .landing then 1 else 2

/-- The place of a tile in the queue: its rank, then stripe, segment and tile number (R89). -/
def Jobs.tileKey (j : Jobs) (t : Tile) : Nat :=
  ((t.rank * 2 ^ 20 + j.stripes.findIdx (·.id == t.st)) * 2 ^ 14 + t.seg) * 2 ^ 5 + t.tile

/-- A tile enters the queue before the first with a greater key. -/
def enqueue (key : Tile → Nat) (t : Tile) : List Tile → List Tile
  | [] => [t]
  | u :: us => if key t < key u then t :: u :: us else u :: enqueue key t us

def State.enqueueAll (s : State) (ts : List Tile) : State :=
  s.onRender fun r => { r with queue := ts.foldl (fun q t => enqueue s.jobs.tileKey t q) r.queue }

/-- The tiles of segment `k` for a pass; those of bins that are not rasterized need no engine (R87). -/
def Stripe.segTiles (x : Stripe) (k : Nat) (pass : TilePass) : List Tile :=
  ((List.range 32).filter fun t => x.rasterized k (t / 2)).map fun t => ⟨x.id, k, t, pass, false, false, 0⟩

/-- The encode lanes have started the segment at coding position `q`, or it is past them. -/
def Stripe.encStarted (x : Stripe) (q : Nat) : Bool :=
  (x.seg? (x.pos q)).any fun g => g.lstate != .none || g.outcome != .notStarted || g.admittedOnce

/-- Landing-pass tiles of a stripe that are queued or in flight. -/
def Render.landTiles (r : Render) (id : StripeId) : List Tile :=
  (r.queue ++ r.engines.filterMap fun e => e).filter fun t => t.st == id && t.pass == .landing

/-- The landing pass queues the tiles of its next segment: at pass start, then when the encode lanes have started
the segment before it, and no tile of a third segment is open (R89). -/
def State.queueLanding (s : State) (id : StripeId) : State :=
  match s.stripe? id with
  | none => s
  | some x =>
    let q := x.landNext
    if x.landing ≠ .running ∨ x.nseg ≤ q ∨
        (q ≠ 0 ∧ (!x.encStarted (q - 1) || (s.render.landTiles id).any fun t => t.seg != x.pos (q - 1))) then s
    else (s.onStripe id fun y => { y with landNext := q + 1 }).enqueueAll
      (if (x.seg? (x.pos q)).any (·.lstate == .withheld) then [] else x.segTiles (x.pos q) .landing)

/-! ### Withheld segments (R95, R105, R141, R151) -/

/-- A segment's panels as none of them has started. -/
def Seg.unencoded (g : Seg) : Seg :=
  { g with panels := g.panels.map fun _ => Panel.idle }

/-- A segment is withheld: its reservation returns, and the next in coding order starts every panel from the
defaults. What the lanes have coded of later segments chained on from it, and is coded again. The pass goes on. -/
def State.withhold (s : State) (id : StripeId) (k : Nat) : State :=
  match s.stripe? id with
  | none => s
  | some x =>
    let q := x.pos k
    let rerender := ((x.seg? k).map (·.old.isSome)).getD false
    let drop (w : LaneWork) : Bool := w.st == id && (w.seg == k || (!rerender && decide (q < x.pos w.seg)))
    let s1 := s.onSeg id k fun g =>
      { g with lstate := .withheld, panels := [], old := none, recA := 0, recB := 0, feedWait := false }
    let s2 := s1.onRender fun r => { r with
      encWork := r.encWork.map fun w => if w.any drop then none else w
      queue := r.queue.filter fun t => !(t.st == id && t.seg == k && t.pass != .check)
      engines := r.engines.map fun e => if e.any (fun t => t.st == id && t.seg == k && t.pass != .check) then none else e }
    let s3 := if rerender then s2
      else
        s2.onStripe id fun y => { y with
          cols := y.cols.map fun _ => (q + 1, CodecCtx.default)
          segs := y.segs.zipIdx.map fun (g : Seg × Nat) =>
            if q < y.pos g.2 ∧ g.1.lstate = .landing ∧ g.1.old.isNone = true then g.1.unencoded else g.1 }
    (s3.queueLanding id).landingDone id

/-! ### Verdicts (R119 to R121, R124) -/

def SegVerdict.apply (v : SegVerdict) (g : Seg) : Seg :=
  { g with pmax := v.pmax, prow := v.prow, pcol := v.pcol, margin := v.margin, unexp := v.unexp, firstBad := v.first }

/-- The verdict on segment `k` of a stripe. -/
def State.verdict (s : State) (x : Stripe) (k : Nat) : SegVerdict :=
  segVerdict x.checkDead x.hdr.ghbound k (x.segRows s.mem (s.mapValue x k) k)

/-- Columns' maxima over a group's segments. -/
def maxCols (a b : List Nat) : List Nat := List.zipWith max a b

/-- The capacity map of a stripe from its segments' maxima (R121). -/
def capMapOf (n : Nat) (vs : List SegVerdict) : List (List Nat) :=
  let g := groupSize n
  (List.range ((n + g - 1) / g)).map fun i =>
    ((vs.drop (g * i)).take g).foldl (fun acc v => maxCols acc v.cols) (List.replicate 8192 0)

/-- A list of segments in an event: how many, the first (Table 17-6). -/
def listEvent (code : BitVec 16) (ks : List Nat) : Event :=
  { Event.of code with
    nodef := nodeF 4 0 0
    noder := nodeR 1 3 0
    d1 := BitVec.ofNat 64 (0xFFFF + 65536 * ks.length + 2 ^ 32 * ks.headD 0) }

/-! ### Canopy passes (R23, R117, R118) -/

/-- The Canopy unit's fault persists (R118, R432). -/
def State.canopyDown (s : State) : Bool := s.rstate (nodeR 1 1 0) != .inService

/-- Stripes before one. Those that the Canopy unit's fault holds back are left out: stripes of jobs with LRC = 0 go
on past them (R118). -/
def State.before (s : State) (id : StripeId) : List Stripe :=
  (s.jobs.stripes.takeWhile fun x => x.id != id).filter fun x =>
    decide (x.canopyFails < 3) && !(s.canopyDown && x.hdr.lrc && x.canopy != .complete)

/-- The Canopy pass of a stripe may run: in stripe order, during the landing pass before it; or again, where both
copies of its map failed (R108). -/
def State.canopyDue (s : State) (x : Stripe) : Bool :=
  x.canopy == .waiting && s.render.canopy.isNone && decide (x.canopyFails < 3) &&
    (x.remap || (x.st == .defined && x.bodyDone && (s.before x.id).all fun y => y.landing != .waiting))

/-- A Canopy fault of a stripe: it stays where it is (R118, R432). -/
def State.canopyStuck (s : State) (id : StripeId) : State :=
  ((s.onStripe id fun y => { y with canopy := .waiting, canopyFails := 3 }).onRender fun r =>
    { r with canopy := none }).faultSt id
    { Event.of ST.jobCanopyFault with nodef := nodeF 2 0 0, noder := nodeR 1 1 0 }

/-- CANOPY_PASS_START. -/
def execCanopyPassStart (id : StripeId) (s : State) : Answer :=
  .next (match s.stripe? id with
    | none => s
    | some x =>
      if !s.canopyDue x then s
      else if !x.hdr.lrc then s.onStripe id fun y => { y with canopy := .complete, canopyTime := 0 }
      else match s.rstate (nodeR 1 1 0) with
        | .failed => s.canopyStuck id
        | .inService => (s.onStripe id fun y => { y with canopy := .running, canopyAt := s.now }).onRender fun r =>
            { r with canopy := some id }
        | _ => s)

/-- CANOPY_PASS_COMPLETE: the dose-factor map stands in both stacks (R108, R113); a pass that its loss held up goes
on. While segment space has no room for the map the pass is not complete. -/
def execCanopyPassComplete (id : StripeId) (s : State) : Answer :=
  .next (match s.stripe? id with
    | none => s
    | some x =>
      match s.mapPlace x with
      | none => s
      | some us =>
        if s.render.canopy = some id ∧ x.canopy = .running ∧ s.thawed = true then
          ((s.onStripe id fun y => { y with
            canopy := .complete, canopyTime := s.now - y.canopyAt, remap := false }).writeMap id us x.nseg
              x.factorMap).onRender fun r => { r with canopy := none }
        else s)

/-- CANOPY_FAULT: the pass runs again from its start; after the third failed run the stripe is stuck. -/
def execCanopyFault (s : State) : Answer :=
  .next (match s.render.canopy.bind s.stripe? with
    | none => s
    | some x =>
      if x.canopyFails + 1 < 3 then s.onStripe x.id fun y => { y with canopyFails := y.canopyFails + 1, canopyAt := s.now }
      else (s.canopyStuck x.id).unitFault (nodeR 1 1 0))

/-! ### Check passes (R23, R24, R120, R121) -/

/-- Bytes of the capacity maps that stripes hold or have reserved (R121). -/
def Jobs.capUsed (j : Jobs) : Nat :=
  (j.stripes.map fun x => if x.check = .waiting ∨ x.st = .done then 0 else capBytes x.nseg).sum

/-- CHECK_PASS_START: room for the capacity map is reserved, the dead-beam list latched and the tiles queued. -/
def execCheckPassStart (id : StripeId) (s : State) : Answer :=
  .next (match s.stripe? id with
    | none => s
    | some x =>
      if x.st = .defined ∧ x.canopy = .complete ∧ x.check = .waiting ∧
          s.jobs.capUsed + capBytes x.nseg ≤ 64 * 2 ^ 20 then
        (s.onStripe id fun y => { y with
          check := .running
          checkDead := s.deadNow
          capPages := s.jobs.capFree (capBytes x.nseg / 8192)
          tiles := ((List.range x.nseg).map fun k => (List.range 32).map fun t =>
            (⟨k, t, none, none, !x.rasterized k (t / 2)⟩ : TileVal)).flatten }).enqueueAll
          ((List.range x.nseg).map fun k => x.segTiles k .check).flatten
      else s)

/-- Raster panels of a segment whose block fails its CRC, or stands in a stack that does not answer (R66, R67). -/
def State.badBlocks (s : State) (x : Stripe) (k : Nat) : List RasterPanel :=
  x.rasters.filter fun r => r.seg == k &&
    (!s.reads r.space r.addr 4194304 || crc64 (s.mem.bytes r.space r.addr 4194304) != r.crc)

/-- The pass that needs a segment's raster block pauses (R67): the check pass, the segment's re-render, or the
landing pass. -/
def Stripe.paused (x : Stripe) (check : Bool) (k : Nat) : Stripe :=
  if check then { x with check := .paused }
  else if (x.seg? k).any (·.old.isSome) then x.onSeg k fun g => { g with feedWait := true }
  else if x.landing = .running then { x with landing := .paused } else x

/-- A raster block fails its CRC three times in a row: the pass that needed it pauses at that segment (R67). -/
def State.pausePass (s : State) (x : Stripe) (check : Bool) (r : RasterPanel) : State :=
  (s.onStripe x.id (·.paused check r.seg)).faultSt x.id
    { rasterEvent ST.jobBlockCrc r.seg 0 0 r.panel 0 with nodef := nodeF 1 0 0, noder := nodeR 1 0 0 }

/-- CHECK_PASS_COMPLETE: verdicts and maxima stored; CHECKED, or REFUSED (R24, R30). -/
def execCheckPassComplete (id : StripeId) (s : State) : Answer :=
  .next (match s.stripe? id with
    | none => s
    | some x =>
      if x.check ≠ .running ∨ x.remap ∨ !(x.tiles.all fun v => v.check.isSome || v.good) ∨ s.thawed = false then s
      else match ((List.range x.nseg).map (s.badBlocks x)).flatten with
        | r :: _ => s.pausePass x true r
        | [] =>
        if !((List.range x.nseg).all (s.mapGood x)) then s.mapLost id
        else
          let vs := (List.range x.nseg).map (s.verdict x)
          let bad := (List.range x.nseg).filter fun k => (vs.getD k ⟨0, 0, 0, 0, false, none, []⟩).unexp
          let s1 := (s.onStripe id fun y => { y with
            check := .complete
            capMap := capMapOf x.nseg vs
            segs := (y.segs.zip vs).zipIdx.map fun (g : (Seg × SegVerdict) × Nat) =>
              { g.1.2.apply g.1.1 with omega := x.omega g.2, checkMism := [] } }).writeCaps x.capPages
              (capMapOf x.nseg vs)
          match bad with
          | [] => (s1.onStripe id fun y => { y with st := .checked }).raiseSt id
              { Event.of ST.stripeChecked with nodef := nodeF 4 0 0, noder := nodeR 1 3 0 }
          | _ :: _ => s1.refuse id none (listEvent ST.stripeUnexposable bad))

/-! ### Landing passes (R23, R149, R152, R156) -/

/-- Service jobs on lanes that are to be bound end as preempted (R156). -/
def State.preempt (s : State) (decode : Bool) (lanes : List Nat) : State :=
  let hit (v : Service) : Bool := v.decode == decode && v.lane.any lanes.contains
  (s.render.services.filter hit).foldl (fun t v =>
    match t.waiter v.mb with
    | none => t
    | some w => (t.unwait v.mb).respond w.src ST.codecPreempted 0 false
        (layoutBody (if decode then 0x0F02 else 0x0F01) [0, 0]))
    (s.onRender fun r => { r with services := r.services.filter fun v => !hit v })

/-- LANDING_PASS_START: encode lanes are spared and bound, the first segment's tiles queued. -/
def execLandingPassStart (id : StripeId) (s : State) : Answer :=
  .next (match s.stripe? id with
    | none => s
    | some x =>
      if (x.st = .checked ∨ x.st = .armed) ∧ x.check = .complete ∧ x.landing = .waiting ∧ s.render.landSt.isNone ∧
          (s.before id).all (fun y => y.landing == .complete) = true then
        let s1 := s.spareRegion 1 4
        let s2 := s1.preempt false (s1.encLanes.filter fun n => s.rstate (nodeR 1 4 n) == .spare)
        ((s2.onRender fun r => { r with landSt := some id, encBind := bindLanes s2.encLanes }).onStripe id fun y =>
          { y with landing := .running, landNext := 0, cols := List.replicate 16 (0, CodecCtx.default) }).queueLanding id
      else s)

/-! ### Engines (R89, R94 to R97) -/

/-- The pass of a tile runs. -/
def Stripe.passRuns (x : Stripe) (t : Tile) : Bool :=
  !x.remap && match t.pass with
  | .check => x.check == .running
  | .landing => x.landing == .running
  | .rerun => (x.seg? t.seg).any fun g => !g.feedWait

/-- An engine may run a tile (R94, R95). -/
def State.mayRun (s : State) (e : Nat) (t : Tile) : Bool :=
  match s.stripe? t.st with
  | none => false
  | some x =>
    let v := x.tileVal? t.seg t.tile
    let c := (v.bind (·.check)).map (·.2)
    let l := (v.bind (·.land)).map (·.2)
    let act := s.engines
    x.passRuns t && (match t.pass with
      | .check => true
      | _ =>
        if t.third then
          !(act.any fun n => some n != c && some n != l) || (some e != c && some e != l)
        else act == [e] || some e != c)

def Render.engine (r : Render) (e : Nat) : Option Tile := r.engines.getD e none

def State.setEngine (s : State) (e : Nat) (t : Option Tile) : State :=
  s.onRender fun r => { r with engines := r.engines.set e t }

/-- TILE_DISPATCH: a free engine takes the first tile it may run. A pass whose raster block fails pauses
(R67). -/
def execTileDispatch (e : BitVec 6) (s : State) : Answer :=
  .next (
    if !(s.engines.contains e.toNat) ∨ (s.render.engine e.toNat).isSome then s
    else match s.render.queue.find? (s.mayRun e.toNat) with
      | none => s
      | some t =>
        match s.stripe? t.st with
        | none => s
        | some x =>
          match s.badBlocks x t.seg with
          | r :: _ => s.pausePass x (t.pass == .check) r
          | [] => (s.onRender fun r => { r with queue := r.queue.erase t }).setEngine e.toNat
            (some { t with since := s.now }))

/-- The quarantine event of an engine, with its tile (Table 3-6). The REPAIR group's detail has no place for a
tile: its number stands in D0 and the segment in SEGMENT, with the stripe (DESIGN CHOICE, log entry 45). -/
def engineEvent (e : Nat) (t : Option Tile) : Event :=
  let ev := repairEvent ST.repairQuarantined (nodeR 1 2 e) .quarantined 0
  match t with
  | none => ev
  | some t => { ev with
      job := t.st.job, stripe := t.st.stripe, segment := BitVec.ofNat 16 t.seg, d0 := BitVec.ofNat 64 t.tile }

/-- An engine leaves dispatch; its tile in flight is run again (R96, R97). -/
def State.quarantineEngine (s : State) (e : Nat) : State :=
  let t := s.render.engine e
  let s1 := match t with
    | some t => (s.setEngine e none).enqueueAll [{ t with front := true }]
    | none => s
  s1.quarantineWith (nodeR 1 2 e) (engineEvent e t)

/-- A segment that no run resolves (R95). The event names no single engine, and the record names a depth-3 node of
each tree: engine E0 stands there (DESIGN CHOICE, log entry 40). -/
def State.unresolved (s : State) (x : Stripe) (t : Tile) (e3 : Nat) : State :=
  let v := x.tileVal? t.seg t.tile
  let eng (o : Option (BitVec 64 × Nat)) : Nat := (o.map (·.2)).getD 255
  (s.faultSt x.id (rasterEvent ST.jobRasterUnresolved t.seg t.tile 0 0
    (eng (v.bind (·.check)) + 256 * eng (v.bind (·.land)) + 65536 * e3))).withhold x.id t.seg

/-- The landing pass's output was adopted: verdict, margin and maxima are computed again (R95, R124). -/
def State.rejudge (s : State) (x : Stripe) (k : Nat) : State × Bool :=
  let v := s.verdict x k
  let g := groupSize x.nseg
  let cols := if g = 1 then v.cols else maxCols (x.capMap.getD (k / g) []) v.cols
  ((s.onStripe x.id fun y => { (y.onSeg k v.apply) with capMap := y.capMap.set (k / g) cols }).writeCap
    (x.capPages.getD (k / g) 0) cols, v.unexp)

/-- The third run of a tile resolves it (R95). -/
def State.thirdRun (s : State) (x : Stripe) (t : Tile) (e : Nat) (val : BitVec 64) : State :=
  let ok (u : State) : State := u.onStripe x.id (·.onTile t.seg t.tile fun w => { w with good := true })
  match (x.tileVal? t.seg t.tile).bind (·.check), (x.tileVal? t.seg t.tile).bind (·.land) with
  | some c, some l =>
    if val = c.1 then
      (ok ((s.quarantineEngine l.2).faultSt x.id (rasterEvent ST.jobRasterMismatch t.seg t.tile l.2 0 0)))
    else if val = l.1 then
      let s1 := (s.quarantineEngine c.2).faultSt x.id (rasterEvent ST.jobRasterMismatch t.seg t.tile c.2 0 0)
      let r := s1.rejudge x t.seg
      if r.2 then r.1.unresolved x t e else ok r.1
    else s.unresolved x t e
  | _, _ => s

/-- A tile is complete with the check value that the engine computes, or an observed one. -/
def State.tileDone (s : State) (e : Nat) (t : Tile) (observed : Option (BitVec 64)) : State :=
  let s1 := s.setEngine e none
  match s.stripe? t.st with
  | none => s1
  | some x =>
    let val := observed.getD (x.tileCheck t.seg t.tile)
    match t.pass with
    | .check => s1.onStripe t.st (·.onTile t.seg t.tile fun v => { v with check := some (val, e) })
    | _ =>
      if t.third then s1.thirdRun x t e val
      else if ((x.tileVal? t.seg t.tile).bind (·.check)).map (·.1) = some val then
        s1.onStripe t.st (·.onTile t.seg t.tile fun v => { v with land := some (val, e), good := true })
      else (s1.onStripe t.st (·.onTile t.seg t.tile fun v => { v with land := some (val, e) })).enqueueAll
        [{ t with third := true, front := true }]

/-- TILE_COMPLETE. -/
def execTileComplete (e : BitVec 6) (observed : Option (BitVec 64)) (s : State) : Answer :=
  .next (match s.render.engine e.toNat with
    | none => s
    | some t => (s.tileDone e.toNat t observed).queueLanding t.st)

/-- The watchdog of a tile in TIME cycles: 2 C_tile + 65,536 CORE cycles, two TIME cycles each (R96, R11). -/
def Stripe.watchdog (x : Stripe) (t : Tile) : Nat := 2 * (2 * x.clocks t.seg t.tile + 65536)

/-- TILE_WATCHDOG_EXPIRY: the tile has been on its engine for longer than its watchdog. -/
def execTileWatchdogExpiry (e : BitVec 6) (s : State) : Answer :=
  .next (match s.render.engine e.toNat with
    | none => s
    | some t => match s.stripe? t.st with
      | none => s
      | some x => if t.since + x.watchdog t < s.now then s.quarantineEngine e.toNat else s)

/-- ENGINE_PARITY_ERROR. -/
def execEngineParityError (e : BitVec 6) (s : State) : Answer :=
  .next (if e.toNat < 34 then s.quarantineEngine e.toNat else s)

/-! ### Encode lanes (R105, R141 to R151, R160 to R163) -/

def Stripe.panel (x : Stripe) (k p : Nat) : Panel := ((x.seg? k).bind fun g => g.panels[p]?).getD Panel.idle

/-- A panel of the landing that a re-render replaces (R180). -/
def Stripe.oldPanel (x : Stripe) (k p : Nat) : Panel :=
  (((x.seg? k).bind (·.old)).bind fun o => o.1[p]?).getD Panel.idle

def Seg.onPanel (g : Seg) (p : Nat) (f : Panel → Panel) : Seg := { g with panels := g.panels.modify p f }

def State.onPanel (s : State) (id : StripeId) (k p : Nat) (f : Panel → Panel) : State :=
  s.onSeg id k (·.onPanel p f)

def Render.encoding (r : Render) (lane : Nat) : Option LaneWork := r.encWork.getD lane none

def State.setEnc (s : State) (lane : Nat) (w : Option LaneWork) : State :=
  s.onRender fun r => { r with encWork := r.encWork.set lane w }

/-- Encode lanes that take panels. -/
def State.encActive (s : State) : List Nat := s.encLanes.filter fun n => !s.render.drainEnc.contains n

/-- An encode lane that takes panels has none in work, and no service job. -/
def State.encFree (s : State) (lane : Nat) : Bool :=
  s.encActive.contains lane && (s.render.encoding lane).isNone &&
    !(s.render.services.any fun v => !v.decode && v.lane == some lane)

/-- Panels that wait to be encoded again (R151). -/
def State.encAgain (s : State) : Bool :=
  s.jobs.stripes.any fun x => x.segs.any fun g => g.lstate == .landing &&
    g.panels.any fun p => p.st == .idle && p.again

/-- A lane that may take panel `p`. A panel encoded again goes to the active lane that falls free first, the lowest
number winning a tie, ahead of that lane's next panel; any other panel to the lane it is bound to, or to such a lane
where that one is out of work (R151). -/
def State.encLaneOk (s : State) (lane p : Nat) (again : Bool) : Bool :=
  let first := (List.range lane).all fun n => !s.encFree n
  s.encFree lane &&
    if again then first
    else !s.encAgain && match s.render.encBind[p]? with
      | some b => b == lane || (!s.encActive.contains b && first)
      | none => first

/-- The lane that took a panel carries the panel's column until the next binding (R151). -/
def State.rebind (s : State) (p lane : Nat) : State :=
  s.onRender fun r => { r with encBind := if s.encActive.contains (r.encBind.getD p 18) then r.encBind else r.encBind.set p lane }

/-- Both tiles of a panel have passed the comparison of R94. -/
def Stripe.tilesGood (x : Stripe) (k p : Nat) : Bool :=
  [2 * p, 2 * p + 1].all fun t => ((x.tileVal? k t).map (·.good)).getD false

/-- The states of a stored state record at a record block, read from a stack and checked (R143). -/
def State.storedStates (s : State) (x : Stripe) (k : Nat) (c : Stack) (addr : Nat) : Option (List CodecCtx) :=
  if s.stackReads c then readStateRecord (x.streamId k 0) 16 (s.mem.words spLanding (addr + 4096) 2946) else none

/-- The segment before `k` in coding order was withheld, or there is none. -/
def Stripe.startsFresh (x : Stripe) (k : Nat) : Bool :=
  x.pos k == 0 || (x.seg? (x.pos (x.pos k - 1))).any (·.lstate == .withheld)

/-- The state a panel starts from (R141); a re-render's is that of the segment's stored state record, from the copy
that passes its check (R143, R180). None while the block before it in coding order is not coded. -/
def State.startState (s : State) (x : Stripe) (k p : Nat) : Option CodecCtx :=
  match (x.seg? k).bind (·.old) with
  | some (_, ra, rb) =>
    ((s.storedStates x k .a ra).orElse fun _ => s.storedStates x k .b rb).bind (·[p]?)
  | none =>
    if x.startsFresh k then some CodecCtx.default
    else match x.cols[p]? with
      | some c => if c.1 = x.pos k then some c.2 else none
      | none => none

/-- The preconditions of a panel's start, its extents aside. -/
def State.panelDue (s : State) (x : Stripe) (k p lane : Nat) : Bool :=
  match x.seg? k with
  | none => false
  | some g =>
    let pan := x.panel k p
    (g.lstate == .landing || (g.lstate == .none && g.outcome == .notStarted)) && pan.st == .idle && !g.feedWait && !x.remap &&
      (g.old.isSome || (s.render.landSt == some x.id && x.landing == .running)) &&
      s.encLaneOk lane p pan.again && x.tilesGood k p && (s.startState x k p).isSome

/-- A panel starts encoding on a lane, 257 extents reserved in each stack (R160 to R162). -/
def execPanelEncodeStart (lane : BitVec 5) (id : StripeId) (seg : BitVec 16) (panel : BitVec 4)
    (extA extB recs : List (BitVec 48)) (s : State) : Answer :=
  .next (match s.stripe? id with
    | none => s
    | some x =>
      let k := seg.toNat
      let p := panel.toNat
      let ea := extA.map (·.toNat)
      let eb := extB.map (·.toNat)
      let first := ((x.seg? k).map (·.panels.isEmpty)).getD false
      let ra := (recs.getD 0 0).toNat
      let rb := (recs.getD 1 0).toNat
      if !s.panelDue x k p lane.toNat ∨ ea.length ≠ 257 ∨ eb.length ≠ 257 ∨ !s.extentsFree .a ea ∨
          !s.extentsFree .b eb then s
      else if first ∧ (recs.length ≠ 2 ∨ (((x.seg? k).bind (·.old)).isNone ∧ 8192 ≤ s.heldCount) ∨
          !s.recordFree .a ra ∨ !s.recordFree .b rb ∨
          ea.any (fun a => a / 65536 * 65536 == ra) = true ∨ eb.any (fun a => a / 65536 * 65536 == rb) = true) then s
      else match (s.badBlocks x k).find? (·.panel == p) with
        | some r => s.pausePass x false r
        | none =>
        if !s.mapGood x k then s.mapLost id
        else
          let s1 := if first then s.onSeg id k fun g => { g with
              lstate := .landing, panels := List.replicate 16 Panel.idle, recA := ra, recB := rb }
            else s
          let s2 := (s1.onPanel id k p fun q => { q with
            st := .encoding, again := false, extA := ea, extB := eb, start := s.startState x k p }).setEnc lane.toNat (some ⟨id, k, p⟩)
          (s2.rebind p lane.toNat).queueLanding id)

/-- Values in coding order (R125). -/
def codingOrder (rev : Bool) (rows : List (List Nat)) : List (List Nat) := if rev then rows.reverse else rows

/-- The signature of R163 over values in coding order. -/
def signature (rows : List (List Nat)) : BitVec 64 := crc64 ((rows.map fun r => (r.map (leBytes 2)).flatten).flatten)

/-- The images of a panel's extents are written. -/
def State.writeImages (s : State) : List (Nat × List Word) → State
  | [] => s
  | i :: is => State.writeImages (s.write spLanding i.1 (wordsBytes i.2)) is

/-- The state record of a segment whose panels all have their starting states (R142). -/
def State.writeStates (s : State) (id : StripeId) (k : Nat) : State :=
  match s.stripe? id, s.seg? id k with
  | some x, some g =>
    if g.panels.length = 16 ∧ g.panels.all (fun p => p.st == .encoded) = true then
      let starts := g.panels.map fun p => p.start.getD CodecCtx.default
      let bs := wordsBytes (stateRecord (x.streamId k 0) starts)
      ((s.write spLanding (g.recA + 4096) bs).write spLanding (g.recB + 4096) bs).onSeg id k fun g =>
        { g with sdef := starts.all (· == CodecCtx.default) }
    else s
  | _, _ => s

/-- The panel a lane has encoded (R138, R144, R161, R163). -/
def State.encodePanel (s : State) (x : Stripe) (w : LaneWork) : State :=
  let pan := x.panel w.seg w.panel
  let rows := codingOrder x.rev (x.panelRows s.mem (s.mapValue x w.seg) w.seg w.panel)
  let e := encodeBlock (x.streamId w.seg w.panel) rows (pan.start.getD CodecCtx.default)
  let n := extentsFor e.words.length
  let ea := pan.extA.take n
  let eb := pan.extB.take n
  let s1 := (s.writeImages (extentImages e ea)).writeImages (extentImages e eb)
  let s2 := s1.onSeg x.id w.seg fun g => { (g.onPanel w.panel fun q => { q with
    st := .encoded, bsig := signature rows, extA := ea, extB := eb, after := some e.after }) with
      ebytes := (if g.panels.all (fun q => q.st != .encoded) then 0 else g.ebytes) + 16 * e.words.length }
  let s3 := if ((x.seg? w.seg).bind (·.old)).isSome then s2
    else s2.onStripe x.id fun y => { y with cols := y.cols.set w.panel (x.pos w.seg + 1, e.after) }
  s3.writeStates x.id w.seg

def Render.decoding (r : Render) (lane : Nat) : Option LaneWork := r.decWork.getD lane none

/-- A lane has neither a panel, nor a service job, nor an arbitration. -/
def Render.laneFree (r : Render) (decode : Bool) (lane : Nat) : Bool :=
  !(r.services.any fun v => v.decode == decode && v.lane == some lane) &&
    if decode then (r.decoding lane).isNone && r.arbs.all (fun a => a.1 != lane) else (r.encoding lane).isNone

/-- A lane under drain is quarantined once what it had in flight is done (R154). -/
def State.settleDrain (s : State) (decode : Bool) (lane : Nat) : State :=
  let drains := if decode then s.render.drainDec else s.render.drainEnc
  if drains.contains lane && s.render.laneFree decode lane then
    (s.onRender fun r =>
      if decode then { r with drainDec := r.drainDec.filter (· != lane) }
      else { r with drainEnc := r.drainEnc.filter (· != lane) }).quarantine
        (if decode then nodeR 2 0 lane else nodeR 1 4 lane)
  else s

/-- A panel whose map cannot be read in either copy is not coded; the Canopy pass runs again (R108). -/
def State.finishPanel (s : State) (x : Stripe) (w : LaneWork) : State :=
  if s.mapGood x w.seg then s.encodePanel x w
  else (s.onPanel x.id w.seg w.panel fun q => { q with st := .idle, extA := [], extB := [], start := none }).mapLost x.id

/-- PANEL_ENCODE_COMPLETE. The lane waits while a stack that it writes to is frozen (Table 7-3). -/
def execPanelEncodeComplete (lane : BitVec 5) (s : State) : Answer :=
  .next (match s.render.encoding lane.toNat with
    | none => s
    | some w =>
      if s.thawed = false then s
      else
      let s1 := s.setEnc lane.toNat none
      match s.stripe? w.st with
      | none => s1.settleDrain false lane.toNat
      | some x => ((s1.finishPanel x w).queueLanding x.id).settleDrain false lane.toNat)

/-- A CODEC event: lane, panel, status. -/
def codecEvent (code : BitVec 16) (lane panel : Nat) (decode : Bool) : Event :=
  { Event.of code with
    nodef := nodeF 5 (b2n decode) lane
    noder := if decode then nodeR 2 0 lane else nodeR 1 4 lane
    d0 := BitVec.ofNat 64 lane
    d1 := BitVec.ofNat 64 panel
    d2 := BitVec.ofNat 64 code.toNat }

/-- The panel in flight on an encode lane is discarded, to be encoded again from the same state. -/
def State.discardPanel (s : State) (lane : Nat) (mism : Nat) : State :=
  match s.render.encoding lane with
  | none => s
  | some w => (s.setEnc lane none).onPanel w.st w.seg w.panel fun q => { q with
      st := .idle, again := true, extA := [], extB := [], start := none, encodeMism := q.encodeMism + mism }

/-- The service job on a lane fails as a whole (R157). -/
def State.failService (s : State) (decode : Bool) (lane : Nat) (st : BitVec 16) : State :=
  match s.render.services.find? fun v => v.decode == decode && v.lane == some lane with
  | none => s
  | some v =>
    let s1 := s.onRender fun r => { r with services := r.services.filter fun u => u.mb != v.mb }
    match s1.waiter v.mb with
    | none => s1
    | some w => (s1.unwait v.mb).respond w.src st 0 false (layoutBody (if decode then 0x0F02 else 0x0F01) [0, 0])

/-- ENCODE_MISMATCH (R151, R158). -/
def execEncodeMismatch (lane : BitVec 5) (s : State) : Answer :=
  .next (
    if 18 ≤ lane.toNat then s
    else
      let n := lane.toNat
      let w := s.render.encoding n
      let s1 := ((s.discardPanel n 1).failService false n ST.codecEncodeMismatch).quarantine (nodeR 1 4 n)
      match w with
      | none => s1
      | some w => match s1.stripe? w.st with
        | none => s1
        | some x =>
          if 2 ≤ (x.panel w.seg w.panel).encodeMism then
            (s1.faultSt w.st { codecEvent ST.codecEncodeMismatch n w.panel false with segment := BitVec.ofNat 16 w.seg }).withhold
              w.st w.seg
          else s1)

/-- A second difference in one panel withholds the segment (R105). -/
def State.graderWithhold (s : State) (id : StripeId) (k p : Nat) : State :=
  (s.faultSt id { rasterEvent ST.jobGraderMismatch k 0 0 p 0 with nodef := nodeF 4 0 0, noder := nodeR 1 3 0 }).withhold id k

/-- GRADER_MISMATCH: the panel is composed again; in the landing pass it is encoded again. A second difference in it
withholds the segment, also where the check pass finds it (R105). A compare does not tell which of the two datapaths
is at fault: instance 0 is named (DESIGN CHOICE, log entry 42). -/
def execGraderMismatch (id : StripeId) (seg : BitVec 16) (panel : BitVec 4) (s : State) : Answer :=
  let k := seg.toNat
  let p := panel.toNat
  .next (match s.stripe? id, s.seg? id k with
    | some x, some g =>
      if (x.panel k p).st = .encoding then
        let s1 := (s.onPanel id k p fun q => { q with graderMism := q.graderMism + 1 }).unitFault (nodeR 1 3 0)
        if (x.panel k p).graderMism = 0 then s1 else s1.graderWithhold id k p
      else if x.check = .running ∧ g.lstate = .none then
        let s1 := (s.onSeg id k fun g => { g with checkMism := g.checkMism ++ [p] }).unitFault (nodeR 1 3 0)
        if g.checkMism.contains p then s1.graderWithhold id k p else s1
      else s
    | _, _ => s)

/-! ### Decode lanes (R153) -/

/-- The boundary at which a decode lane leaves a running stripe: that of the segment it decodes, or the
next where that one is being exposed; an idle bound lane's is the first segment not prepared (R153). -/
def State.laneBoundary (s : State) (x : Stripe) (lane : Nat) : Option Nat :=
  match s.render.decoding lane with
  | some w =>
    if w.st ≠ x.id then none
    else some (x.pos w.seg + b2n (((x.seg? w.seg).map (·.lstate == .exposing)).getD false))
  | none =>
    if ((x.latched.map (·.decBind)).getD []).contains lane then
      (upto (s.nextPosOf x) x.nseg).find? fun q => !x.readyAt q
    else none

/-- The panel columns of a lane that decodes a segment in EXPOSING: the rows that no placed flash has needed
are not delivered, and their beams are blanked. A lane carries up to two columns (R149). -/
def State.blankLane (s : State) (r : Run) (x : Stripe) (lane : Nat) : State :=
  match s.render.decoding lane with
  | none => s
  | some w =>
    if w.st = x.id ∧ (x.seg? w.seg).any (·.lstate == .exposing) = true then
      let cols := (List.range 16).filter fun p => ((x.latched.map (·.decBind)).getD [])[p]? == some lane
      s.onPlay fun p => { p with run := some { r with
        laneBlank := r.laneBlank ++ cols.map fun c => (c, max (4096 * x.pos w.seg) ((r.next : Int) - r.f0).toNat) } }
    else s

/-- The stripe that is RUNNING or STOPPING stops for a decode lane. -/
def State.stopForLane (s : State) (lane : Nat) : State :=
  match s.run? with
  | none => s
  | some (r, x) => match s.laneBoundary x lane with
    | none => s
    | some b => (s.blankLane r x lane).stopCause 14 none (some b)

def State.setDec (s : State) (lane : Nat) (w : Option LaneWork) : State :=
  s.onRender fun r => { r with decWork := r.decWork.set lane w }

/-- A lane is idle: no service job, no segment work, no arbitration, no drain. -/
def State.laneIdle (s : State) (decode : Bool) (lane : Nat) : Bool :=
  s.render.laneFree decode lane && !(if decode then s.render.drainDec else s.render.drainEnc).contains lane

/-- The decode lane that arbitration of a panel takes: an idle spare in service, or else the lane bound to the panel
(R177). -/
def State.arbLane (s : State) (x : Stripe) (p : Nat) : Nat :=
  ((List.range 18).find? fun n => s.rstate (nodeR 2 0 n) == .spare && s.laneIdle true n).getD
    (((x.latched.map (·.decBind)).getD (bindLanes s.decLanes)).getD p 0)

/-- Arbitration of a panel starts on its lane; a panel has at most one (R177). -/
def State.callArb (s : State) (x : Stripe) (k p : Nat) : State :=
  if s.render.arbs.any (fun a => a.2 == ⟨x.id, k, p⟩) then s
  else (s.onPanel x.id k p fun q => { q with arb := true }).onRender fun r =>
    { r with arbs := r.arbs ++ [(s.arbLane x p, ⟨x.id, k, p⟩)] }

/-- Arbitrations leave a lane for others. -/
def State.moveArbs (s : State) (n : Nat) : State :=
  (s.render.arbs.filter (·.1 == n)).foldl (fun t a => match t.stripe? a.2.st with
    | some x => t.callArb x a.2.seg a.2.panel
    | none => t) (s.onRender fun r => { r with arbs := r.arbs.filter (·.1 != n) })

/-- DECODE_LANE_FAULT. -/
def execDecodeLaneFault (lane : BitVec 5) (s : State) : Answer :=
  .next (
    if 18 ≤ lane.toNat then s
    else
      let n := lane.toNat
      ((((s.stopForLane n).failService true n ST.codecPreempted).setDec n none).quarantine (nodeR 2 0 n)).moveArbs n)

/-- DECODE_BUFFER_RESUME: the next output buffer of a decode service job (R147). -/
def execDecodeBufferResume (lane : BitVec 5) (addr : BitVec 48) (space : BitVec 4) (len : BitVec 32) (s : State) : Answer :=
  let add (v : Service) : Service :=
    if v.decode && v.lane == some lane.toNat then { v with bufs := v.bufs ++ [(addr, space, len)] } else v
  .next (s.onRender fun r => { r with services := r.services.map add })

/-! ### Service jobs (R155 to R157) -/

/-- Spaces and lengths of a descriptor (Table 5-8). -/
def descOk (decode : Bool) (d : CodecDesc) : Bool :=
  rangeOk d.inSpace d.inAddr.toNat d.inLen.toNat && rangeOk d.outSpace d.outAddr.toNat d.outLen.toNat &&
    decide (32 ≤ d.outLen.toNat ∧ d.outLen.toNat ≤ 16842816) &&
    (!d.sinUse || rangeOk d.sinSpace d.sinAddr.toNat (16 * 186)) &&
    (!d.soutUse || rangeOk d.soutSpace d.soutAddr.toNat (16 * 186)) &&
    (decode || decide (1 ≤ d.rows.toNat ∧ d.rows.toNat ≤ 16384 ∧ d.inLen.toNat = 1024 * d.rows.toNat))

def descStream (d : CodecDesc) : StreamId :=
  ⟨d.panel.toNat, d.rev, d.job.toNat, d.stripe.toNat, d.segment.toNat⟩

/-- CODEC.ENCODE. -/
def execCodecEncode (src : Src) (desc : CodecDesc) (s : State) : Answer :=
  .next (s.command src [(descOk false desc, ST.codecDescriptor)] fun s =>
    (s.wait src (.codecEncode src desc)).onRender fun r => { r with
      services := r.services ++ [⟨src.mb, false, desc, none, []⟩] })

/-- CODEC.DECODE. -/
def execCodecDecode (src : Src) (desc : CodecDesc) (s : State) : Answer :=
  .next (s.command src [(descOk true desc, ST.codecDescriptor)] fun s =>
    (s.wait src (.codecDecode src desc)).onRender fun r => { r with
      services := r.services ++ [⟨src.mb, true, desc, none, []⟩] })

/-- Segment work stands queued for an encode lane: a panel of a column it carries that the landing pass has still to
code, or one to be coded again, by a re-render or under R151. -/
def State.encQueued (s : State) (lane : Nat) : Bool :=
  s.encAgain ||
  s.jobs.stripes.any fun x =>
    (List.range 16).any fun p => s.render.encBind[p]? == some lane &&
      ((s.render.landSt == some x.id && x.landing != .complete && (x.cols[p]?).any fun c => decide (c.1 < x.nseg)) ||
        x.segs.any fun g => g.lstate == .landing && g.old.isSome && (g.panels[p]?).all fun q => q.st != .encoded)

/-- A lane qualifies for a service job (R156). -/
def State.qualifies (s : State) (decode : Bool) (lane : Nat) : Bool :=
  let node (n : Nat) : BitVec 32 := if decode then nodeR 2 0 n else nodeR 1 4 n
  let spares := (List.range 18).filter fun n => s.rstate (node n) == .spare && s.laneIdle decode n
  if spares.isEmpty then
    decide (lane < 18) && s.rstate (node lane) == .inService && s.laneIdle decode lane &&
      (if decode then s.active?.isNone else !s.encQueued lane)
  else spares.contains lane

/-- SERVICE_JOB_START. -/
def execServiceJobStart (mb : BitVec 4) (lane : BitVec 5) (s : State) : Answer :=
  .next (match s.render.services.find? fun v => v.mb == mb && v.lane.isNone with
    | none => s
    | some v =>
      if s.qualifies v.decode lane.toNat then
        s.onRender fun r => { r with services := r.services.map fun u =>
          if u.mb == mb && u.lane.isNone then { u with lane := some lane.toNat } else u }
      else s)

/-- The buffers that a service job reads answer. -/
def State.serviceReads (s : State) (v : Service) : Bool :=
  s.reads v.desc.inSpace v.desc.inAddr.toNat v.desc.inLen.toNat &&
    (!v.desc.sinUse || s.reads v.desc.sinSpace v.desc.sinAddr.toNat 2976)

/-- What a service job yields: bytes to write, the end state, bytes consumed; or its status. The manual names none for a
buffer that a stack does not answer for (DESIGN CHOICE, log entry 61). -/
def State.serviceResult (s : State) (v : Service) : Except (BitVec 16) (List Byte × CodecCtx × Nat) :=
  let d := v.desc
  let start : Option CodecCtx :=
    if d.sinUse then ((readStateRecord (descStream d) 1 (s.mem.words d.sinSpace d.sinAddr.toNat 186)).map (·.headD CodecCtx.default))
    else some CodecCtx.default
  if !s.serviceReads v then .error ST.sysBuffer
  else match start with
  | none => .error ST.codecState
  | some s0 =>
    if v.decode then
      match decodeBlock (descStream d) none d.outLen.toNat (s.mem.words d.inSpace d.inAddr.toNat (d.inLen.toNat / 16)) s0 with
      | .error e => .error e
      | .ok r => .ok ((r.lines.map fun l => (l.map (leBytes 2)).flatten).flatten, r.after, 16 * r.taken)
    else
      let lines := (List.range d.rows.toNat).map fun (i : Nat) => (List.range 512).map fun (c : Nat) =>
        leNat (s.mem.bytes d.inSpace (d.inAddr.toNat + 1024 * i + 2 * c) 2)
      let e := encodeBlock (descStream d) lines s0
      if d.outLen.toNat < 16 * e.words.length then .error ST.codecOutputFull
      else .ok (wordsBytes e.words, e.after, d.inLen.toNat)

/-- Bytes written over consecutive buffers as over one unbroken buffer (R147). -/
def State.writeOver (s : State) (bs : List Byte) : List (BitVec 48 × BitVec 4 × BitVec 32) → State
  | [] => s
  | b :: r => State.writeOver (s.write b.2.1 b.1.toNat (bs.take b.2.2.toNat)) (bs.drop b.2.2.toNat) r

/-- The buffers of a service job take its writes at once: none stands in a frozen stack (Table 7-3). -/
def State.serviceWrites (s : State) (v : Service) : Bool :=
  (((v.desc.outAddr, v.desc.outSpace, v.desc.outLen) :: v.bufs).all fun b => s.writesNow b.2.1 b.1.toNat b.2.2.toNat) &&
    (!v.desc.soutUse || s.writesNow v.desc.soutSpace v.desc.soutAddr.toNat 2976)

/-- SERVICE_JOB_COMPLETE: it succeeds or fails as a whole (R157). A mismatch quarantines the lane (R151). -/
def execServiceJobComplete (mb : BitVec 4) (mismatch : Bool) (s : State) : Answer :=
  .next (match s.render.services.find? fun v => v.mb == mb && v.lane.isSome with
    | none => s
    | some v =>
      let lane := v.lane.getD 0
      let op := if v.decode then 0x0F02 else 0x0F01
      if !s.serviceWrites v then s
      else if mismatch then
        (s.failService v.decode lane ST.codecEncodeMismatch).quarantine
          (if v.decode then nodeR 2 0 lane else nodeR 1 4 lane)
      else match s.serviceResult v with
        | .error e => (s.failService v.decode lane e).settleDrain v.decode lane
        | .ok (bs, after, used) =>
          let s1 := s.writeOver bs ((v.desc.outAddr, v.desc.outSpace, v.desc.outLen) :: v.bufs)
          let s2 := if v.desc.soutUse then
              s1.write v.desc.soutSpace v.desc.soutAddr.toNat (wordsBytes (stateRecord (descStream v.desc) [after]))
            else s1
          let s3 := (s2.onRender fun r => { r with services := r.services.filter fun u => u.mb != mb }).settleDrain
            v.decode lane
          match s3.waiter mb with
          | none => s3
          | some w => (s3.unwait mb).ok w.src (layoutBody op [bs.length, used]))

/-- A lane stops at once: its panel and its service job are discarded (R154). -/
def State.abortLane (s : State) (decode : Bool) (n : Nat) : State :=
  let s1 := s.failService decode n ST.codecPreempted
  if decode then (((s1.stopForLane n).setDec n none).quarantine (nodeR 2 0 n)).moveArbs n
  else (s1.discardPanel n 0).quarantine (nodeR 1 4 n)

/-- A lane drains: at once when idle, else once the panel in flight is done (R154). -/
def State.drainLane (s : State) (src : Src) (decode : Bool) (n : Nat) (c : Instr) : State :=
  let node := if decode then nodeR 2 0 n else nodeR 1 4 n
  let s0 := if decode then s.stopForLane n else s
  if s.laneIdle decode n then (s0.quarantine node).ok src []
  else (s0.onRender fun r =>
    if decode then { r with drainDec := r.drainDec ++ [n] } else { r with drainEnc := r.drainEnc ++ [n] }).wait src c

/-- CODEC.DISABLE. The decode lanes of a running stripe leave in drain form. -/
def execCodecDisable (src : Src) (lane : BitVec 5) (decode abort : Bool) (s : State) : Answer :=
  let n := lane.toNat
  let node := if decode then nodeR 2 0 n else nodeR 1 4 n
  .next (s.command src [(decide (n < 18) && s.rstate node == .inService, ST.codecState)] fun s =>
    if abort && !(decode && s.run?.isSome) then (s.abortLane decode n).ok src []
    else s.drainLane src decode n (.codecDisable src lane decode abort))

end Sys2Proof.Machine
end

