-- ==== Sys2Proof/Machine/Landing.lean ====
section
/-!
DEFINITION. From landed to exposed: seal read-back, preparation, arbitration, rewrites, scrubbing,
unverifiable segments and re-render (chapter 6).
-/

namespace Sys2Proof.Machine

/-! ### Reading a copy (R145, R163, R173) -/

/-- First extent of a panel's copy. -/
def Panel.head (p : Panel) (k : Stack) : Nat := (p.exts k).headD 0

/-- The payload words of a panel's copy, where its stack answers and its chain holds. -/
def State.copyWords (s : State) (p : Panel) (k : Stack) : Option (List Word) :=
  if s.stackReads k ∧ (p.exts k).length ≠ 0 then readChain 257 s.mem (p.head k) 0 else none

/-- The starting states of a segment, read from the state record of a copy (R143). -/
def State.copyStates (s : State) (x : Stripe) (k : Nat) (g : Seg) (c : Stack) : Option (List CodecCtx) :=
  s.storedStates x k c (g.recAt c)

/-- The decode of a panel's copy: its lines in coding order, or the status of the first check of Table 5-7 that
fails. It loads the state record of the same copy, and the chain's last extent holds the end word (R143, R145,
R148). -/
def State.copyDecode (s : State) (x : Stripe) (k p : Nat) (c : Stack) : Dec (List (List Nat)) :=
  match x.seg? k with
  | none => .error ST.codecState
  | some g =>
    match s.copyStates x k g c, s.copyWords (g.panels.getD p Panel.idle) c with
    | none, _ => .error ST.codecState
    | _, none => .error ST.codecChain
    | some st, some ws =>
      match decodeBlock (x.streamId k p) (some 4096) 4194304 ws (st.getD p CodecCtx.default) with
      | .ok r => if 1023 * extentsFor r.taken = ws.length then .ok r.lines else .error ST.codecChain
      | .error e => .error e

/-- The lines of a panel's copy, where every check passes. -/
def State.copyLines (s : State) (x : Stripe) (k p : Nat) (c : Stack) : Option (List (List Nat)) :=
  match s.copyDecode x k p c with
  | .ok ls => some ls
  | .error _ => none

/-- What the seal read-back and the scrubber check of a panel's copy, memory ECC aside: the chain of extents, TAIL and
ECRC (R166, R178). -/
def State.copySound (s : State) (p : Panel) (c : Stack) : Bool :=
  match s.copyWords p c with
  | some ws => endWordOk ws
  | none => false

/-- A copy decodes to the birth signature. -/
def State.copyGood (s : State) (x : Stripe) (k p : Nat) (c : Stack) : Bool :=
  match s.copyLines x k p c with
  | some ls => signature ls == (x.panel k p).bsig
  | none => false

/-- The two copies' stream words are identical. -/
def State.copiesSame (s : State) (x : Stripe) (k p : Nat) : Bool :=
  match s.copyWords (x.panel k p) .a, s.copyWords (x.panel k p) .b with
  | some a, some b => a == b
  | _, _ => false

/-- Panels named by a mask. -/
def inMask (m : BitVec 16) (p : Nat) : Bool := m.getLsbD p

/-! ### Unverifiable segments (R179, Table 6-6) -/

/-- A segment becomes unverifiable: one in EXPOSING halts its stripe, any other leaves play. -/
def State.unverifiable (s : State) (id : StripeId) (k panel cause : Nat) : State :=
  match s.seg? id k with
  | none => s
  | some g =>
    let ev := segEvent ST.memUnverifiable k panel 0 cause 0
    let s1 := s.onLand fun l => { l with unverifs := l.unverifs + 1 }
    if g.lstate = .exposing then s1.stopCause 10 (some { ev with job := id.job, stripe := id.stripe }) none
    else (((((s1.freeSlot id k).dropArbs id k).onSeg id k fun g => { g with lstate := .unverifiable }).faultSt id
      ev).landingDone id).dueUnverifiable id

/-! ### Landed and sealed (R166, R167) -/

/-- SEGMENT_LANDED: streams and state record stand in both stacks; the records are written. -/
def execSegmentLanded (id : StripeId) (seg : BitVec 16) (s : State) : Answer :=
  .next (match s.seg? id seg.toNat with
    | none => s
    | some g =>
      if g.lstate = .landing ∧ g.old.isNone ∧ g.panels.length = 16 ∧
          g.panels.all (fun p => p.st == .encoded) = true ∧ (s.stackReads .a && s.stackReads .b) = true then
        (s.onSeg id seg.toNat fun g => { g with lstate := .landed, tland := s.now, lastScrub := s.now }).writeLanding id
          seg.toNat
      else s)

/-- Arbitration of a panel has ended. -/
def State.endArb (s : State) (id : StripeId) (k p : Nat) : State :=
  (s.onRender fun r => { r with arbs := r.arbs.filter fun a => a.2 != ⟨id, k, p⟩ }).onPanel id k p fun q =>
    { q with arb := false }

/-- A rewrite of a bad copy of a panel is called for (R176). -/
def State.callRewrite (s : State) (id : StripeId) (k p : Nat) (c : Stack) : State :=
  (s.endArb id k p).onPanel id k p fun q => { q with rewrite := some c, badCopy := some c }

/-- A segment's landing record in a stack passes its CRC (R165). -/
def State.recordOk (s : State) (g : Seg) (c : Stack) : Bool :=
  let ws := s.mem.words spLanding (g.recAt c) 29
  s.stackReads c && fld 63 0 (ws.getD 28 0) == (crc64W (ws.take 28)).toNat

/-- SEAL_READBACK_COMPLETE: both copies bad, one copy bad, or sealed (Table 6-3). A landing record that fails its CRC
is written again and the read-back repeated (DEDUCED, log entry 46). -/
def execSealReadbackComplete (id : StripeId) (seg badA badB : BitVec 16) (s : State) : Answer :=
  let k := seg.toNat
  .next (match s.stripe? id, s.seg? id k with
    | some x, some g =>
      if g.lstate ≠ .landed ∨ g.panels.any (fun p => p.rewrite.isSome) = true then s
      else
        let bad (c : Stack) (p : Nat) : Bool :=
          inMask (match c with
            | .a => badA
            | .b => badB) p || !s.copySound (x.panel k p) c
        match (List.range 16).find? fun p => bad .a p && bad .b p with
        | some p => s.unverifiable id k p 1
        | none =>
          let s1 := (List.range 16).foldl (fun t p =>
            if bad .a p then t.callRewrite id k p .a else if bad .b p then t.callRewrite id k p .b else t) s
          if (List.range 16).any (fun p => bad .a p || bad .b p) then s1
          else if s.recordOk g .a && s.recordOk g .b then s1.seal id k
          else s1.writeLanding id k
    | _, _ => s)

/-- The signatures in a copy's landing record, where its CRC holds. -/
def State.recordSigs (s : State) (g : Seg) (c : Stack) : Option (List Word) :=
  if s.recordOk g c then some (((s.mem.words spLanding (g.recAt c) 29).drop 2).take 8) else none

/-- The states whose signatures stand in the signature table (R164). -/
def LState.tabled : LState → Bool
  | .landed | .sealed | .admitted | .ready | .exposing => true
  | _ => false

/-- SIGNATURE_TABLE_PARITY: the entry is reloaded from both records, or the segment is unverifiable
(R164). The table's row is quarantined (Table 6-9). -/
def execSignatureTableParity (id : StripeId) (seg : BitVec 16) (badA badB : Bool) (s : State) : Answer :=
  let k := seg.toNat
  .next (match s.seg? id k with
    | none => s
    | some g =>
      if !g.lstate.tabled then s
      else
        let s1 := (s.onLand fun l => { l with reloads := l.reloads + 1 }).quarantine (nodeR 2 5 (k % 8192 / 32))
        match s.recordSigs g .a, s.recordSigs g .b with
        | some a, some b =>
          if badA || badB || a != b then s1.unverifiable id k 0 4
          else s1.onSeg id k fun g => { g with panels := g.panels.zipIdx.map fun (p : Panel × Nat) =>
            { p.1 with bsig := BitVec.ofNat 64 (fld (64 * (p.2 % 2) + 63) (64 * (p.2 % 2)) (a.getD (p.2 / 2) 0)) } }
        | _, _ => s1.unverifiable id k 0 4)

/-! ### Preparation (R169, R173, R203, R206) -/

/-- The segment at exposure position `q` holds a slot or has been exposed. -/
def State.slotOrExposed (s : State) (x : Stripe) (q : Nat) : Bool :=
  match x.seg? (x.pos q) with
  | none => false
  | some g => g.lstate == .exposing || (g.lstate == .none && g.outcome != .notStarted) ||
      s.land.slots.any fun t => t.any fun y => y.st == x.id && y.seg == x.pos q

/-- Lanes take a segment's panels: each decode lane its first bound panel. -/
def State.bindDecode (s : State) (x : Stripe) (k : Nat) : State :=
  let b := (x.latched.map (·.decBind)).getD []
  let take (w : Option LaneWork × Nat) : Option LaneWork :=
    if b.contains w.2 then some ⟨x.id, k, b.idxOf w.2⟩ else w.1
  s.onRender fun r => { r with decWork := r.decWork.zipIdx.map take }

/-- PREPARATION_START: a free slot is taken and the fit record latched (R206). -/
def execPreparationStart (id : StripeId) (seg : BitVec 16) (slot : BitVec 2) (s : State) : Answer :=
  let k := seg.toNat
  .next (match s.stripe? id, s.seg? id k with
    | some x, some g =>
      let b := (x.latched.map (·.decBind)).getD []
      if g.lstate = .admitted ∧ s.land.slots[slot.toNat]? = some none ∧
          ((s.prepFrom x).any fun q => decide (q ≤ x.pos k) && (upto q (x.pos k)).all (s.slotOrExposed x)) = true ∧
          s.land.slots.all (fun t => !t.any fun y => y.st == id && y.seg == k) = true ∧
          b.all (fun n => s.rstate (nodeR 2 0 n) == .inService && s.laneIdle true n) = true then
        (((s.onLand fun l => { l with slots := l.slots.set slot.toNat (some ⟨id, k, false⟩) }).onSeg id k fun g =>
          { g with fit := some s.beam.fit }).onStripe id fun y => { y with fgen := s.beam.fit.fgen.toNat }).bindDecode x k
      else s
    | _, _ => s)

/-- The lanes of a prepared segment fall idle; drained ones are quarantined (R154). -/
def State.releaseDecode (s : State) (id : StripeId) (k : Nat) : State :=
  let here := (List.range 18).filter fun n => (s.render.decoding n).any fun w => w.st == id && w.seg == k
  here.foldl (fun t n => (t.setDec n none).settleDrain true n) s

/-- The verification mode *signature plus dual read* of the job that JOB.OPEN gives. -/
def Stripe.dualRead (x : Stripe) : Bool := x.dual

/-- A panel that preparation sends to arbitration (R173). -/
def State.prepFails (s : State) (x : Stripe) (k p : Nat) (badRead : BitVec 16) : Bool :=
  inMask badRead p || !s.copyGood x k p .a || (x.dualRead && !s.copiesSame x k p)

/-- The 4,096 rows of a segment in exposure order, each panel from copy A, or from copy B where copy A was found
bad. -/
def State.segValues (s : State) (x : Stripe) (k : Nat) : List (List Nat) :=
  let panels := (List.range 16).map fun p =>
    let c := if (x.panel k p).badCopy = some .a then Stack.b else .a
    ((s.copyLines x k p c).getD []).toArray
  (List.range 4096).map fun r => (panels.map fun ls => ls.getD r []).flatten

/-- Every panel has passed: the segment is READY. While a stack is frozen the slot's writes wait, and the segment with
them (Table 7-3). -/
def State.prepDone (s : State) (id : StripeId) (k : Nat) : State :=
  match s.stripe? id, s.seg? id k with
  | some x, some g =>
    if g.lstate ≠ .admitted ∨ g.panels.any (·.arb) = true ∨ s.thawed = false then s
    else
      let slot := s.land.slots.findIdx fun t => t.any fun y => y.st == id && y.seg == k
      ((s.fillSlot slot (s.segValues x k)).onLand fun l => { l with slots := l.slots.map fun t => match t with
        | some y => if y.st = id ∧ y.seg = k then some { y with ready := true } else some y
        | none => none }).onSeg id k fun g => { g with lstate := .ready }
  | _, _ => s

/-- A slot that waits for its segment's panels. -/
def State.slotWaits (s : State) (id : StripeId) (k : Nat) : Bool :=
  s.land.slots.any fun t => t.any fun y => y.st == id && y.seg == k && !y.ready

/-- The lanes bound to the segment decode it. -/
def State.decodes (s : State) (id : StripeId) (k : Nat) : Bool :=
  s.render.decWork.any fun w => w.any fun v => v.st == id && v.seg == k

/-- A decode of copy A that fails is reported with its status (Table 5-11). -/
def State.decodeFault (s : State) (x : Stripe) (k p : Nat) : State :=
  match s.copyDecode x k p .a with
  | .ok _ => s
  | .error e => s.faultSt x.id
      { codecEvent e (((x.latched.map (·.decBind)).getD []).getD p 0) p true with segment := BitVec.ofNat 16 k }

/-- SEGMENT_READY: the lanes have decoded the segment; a panel that fails its check goes to arbitration. -/
def execSegmentReady (id : StripeId) (seg badRead : BitVec 16) (s : State) : Answer :=
  let k := seg.toNat
  .next (match s.stripe? id with
    | none => s
    | some x =>
      let b := (x.latched.map (·.decBind)).getD []
      if s.slotWaits id k ∧ s.decodes id k ∧
          b.all (fun n => (s.render.decoding n).any fun w => w.st == id && w.seg == k) = true then
        let bad := (List.range 16).filter fun p => s.prepFails x k p badRead
        let s1 := bad.foldl (fun t p => (t.decodeFault x k p).callArb x k p) (s.releaseDecode id k)
        s1.prepDone id k
      else s)

/-! ### Arbitration and rewrites (R175 to R177) -/

/-- A segment whose panels arbitration may decide on (R171, R178). -/
def LState.arbitrated : LState → Bool
  | .landed | .sealed | .admitted | .ready | .exposing => true
  | _ => false

/-- ARBITRATION_COMPLETE: Table 6-5. -/
def execArbitrationComplete (id : StripeId) (seg : BitVec 16) (panel : BitVec 4) (badA badB : Bool) (s : State) :
    Answer :=
  let k := seg.toNat
  let p := panel.toNat
  .next (match s.stripe? id with
    | none => s
    | some x =>
      if !(x.panel k p).arb || !(x.seg? k).any (·.lstate.arbitrated) then s
      else
        let lane := ((s.render.arbs.find? fun w => w.2 == ⟨id, k, p⟩).map (·.1)).getD 18
        let a := !badA && s.copyGood x k p .a
        let b := !badB && s.copyGood x k p .b
        let done (t : State) : State :=
          (if t.slotWaits id k && !t.decodes id k then t.prepDone id k else t).settleDrain true lane
        if a && b then
          if s.copiesSame x k p then
            done ((s.endArb id k p).onLand fun l => { l with transient := l.transient + 1 })
          else (s.endArb id k p).unverifiable id k p 3
        else if a then done (s.callRewrite id k p .b)
        else if b then done (s.callRewrite id k p .a)
        else (s.endArb id k p).unverifiable id k p 2)

/-- The stream words of a copy in new extents: each extent's words with the new chain. -/
def State.chainImages (s : State) (src dst : List Nat) : List (Nat × List Word) :=
  (src.zip dst).zipIdx.map fun (e : (Nat × Nat) × Nat) =>
    let ws := s.mem.words spLanding e.1.1 1024
    let t := ws.getD 1023 0
    let next := if e.2 + 1 = dst.length then 0 else dst.getD (e.2 + 1) 0
    (e.1.2, ws.take 1023 ++ [BitVec.ofNat 128 (t.toNat / 2 ^ 48 * 2 ^ 48 + next)])

def otherStack : Stack → Stack
  | .a => .b
  | .b => .a

def Panel.setExts (p : Panel) (c : Stack) (es : List Nat) : Panel :=
  match c with
  | .a => { p with extA := es }
  | .b => { p with extB := es }

/-- An encoded copy has an extent in a range that retirement empties (R198). -/
def StackCtl.evicts (c : StackCtl) (k : Stack) (p : Panel) : Bool := p.st == .encoded && (p.exts k).any (c.unbacked k)

/-- The copy that a rewrite reads: the other one where the target was found bad or does not match BSIG, else the
target's own old one (R176, R198). A copy of an unverifiable panel that leaves a retired range is moved as it stands
(DESIGN CHOICE, log entry 60). -/
def State.rewriteFrom (s : State) (x : Stripe) (k p : Nat) (c : Stack) : Stack :=
  let o := otherStack c
  if (x.panel k p).badCopy = some c ∨ (!s.copyGood x k p c && s.copyGood x k p o) = true then o else c

/-- The panel whose copy a rewrite of panel `p` concerns: that of the landing in force, or of the one that a re-render
replaces, where that one has to leave a retired range (R198). -/
def State.evictsOld (s : State) (g : Seg) (p : Nat) (c : Stack) : Bool :=
  let m := s.mc.stack c
  (g.old.any fun o => m.evicts c (o.1.getD p Panel.idle)) &&
    !((g.panels.getD p Panel.idle).rewrite == some c || m.evicts c (g.panels.getD p Panel.idle))

/-- A copy of the landing that a re-render replaces moves to fresh extents as it stands. -/
def State.moveOld (s : State) (id : StripeId) (k p : Nat) (c : Stack) (es : List Nat) : State :=
  match (s.seg? id k).bind (·.old) with
  | none => s
  | some (ps, ra, rb) =>
    let src := (ps.getD p Panel.idle).exts c
    ((s.writeImages (s.chainImages src es)).onSeg id k fun g =>
      { g with old := some (ps.modify p fun q => q.setExts c es, ra, rb) }).onLand fun l =>
        { l with testing := l.testing ++ src.map fun e => (c, e) }

/-- COPY_REWRITE_COMPLETE: the copy stands in fresh extents, its old ones await the pattern test. A target
that is frozen waits for the thaw (R176). Copies are rewritten after arbitration, and out of the range of a channel
that retires (R198). -/
def execCopyRewriteComplete (id : StripeId) (seg : BitVec 16) (panel : BitVec 4) (copy : Stack)
    (exts : List (BitVec 48)) (ok : Bool) (s : State) : Answer :=
  let k := seg.toNat
  let p := panel.toNat
  .next (match s.stripe? id with
    | none => s
    | some x =>
      let pan := x.panel k p
      let es := exts.map (·.toNat)
      let from_ := s.rewriteFrom x k p copy
      let old := (x.seg? k).any fun g => s.evictsOld g p copy
      let n := if old then ((x.oldPanel k p).exts copy).length else (pan.exts from_).length
      if (pan.rewrite = some copy ∨ (s.mc.stack copy).evicts copy pan = true ∨ old = true) ∧ ok ∧ es.length = n ∧
          s.extentsFree copy es ∧ s.stackReads copy ∧ s.stackReads from_ ∧
          ((s.mc.stack copy).inRfc s.now || (s.mc.stack from_).inRfc s.now) = false then
        let s3 :=
          if old then s.moveOld id k p copy es
          else
            let s0 := if copy = .b ∧ from_ = .a then
                s.write spLanding stackB (wordsBytes ((s.copyWords pan from_).getD []))
              else s
            let s1 := s0.writeImages (s.chainImages (pan.exts from_) es)
            let s2 := s1.onSeg id k fun g =>
              { (g.onPanel p fun q => { (q.setExts copy es) with rewrite := none, badCopy := none }) with
                repairs := satInc 16 g.repairs }
            s2.onLand fun l => { l with testing := l.testing ++ (pan.exts copy).map fun e => (copy, e) }
        (if (x.seg? k).any (·.tland != 0) then s3.writeLanding id k else s3).faultSt id
          (segEvent ST.memCopyRepaired k p (stackNum copy) 0 0)
      else s)

/-- EXTENT_PATTERN_TEST: a good extent is free again, a bad one leaves allocation and counts toward its
channel's retirement (Table 7-7). -/
def execExtentPatternTest (st : Stack) (addr : BitVec 48) (pass : Bool) (s : State) : Answer :=
  let a := addr.toNat
  .next (
    if s.land.testing.contains (st, a) ∧ s.stackReads st = true ∧ (s.mc.stack st).inRfc s.now = false then
      let s1 := s.onLand fun l => { l with testing := l.testing.filter (· != (st, a)) }
      if pass then s1
      else (s1.onLand fun l => { l with removed := l.removed ++ [(st, a)] }).onMc fun m => m.onStack st fun c =>
        c.onChan (c.channelOf st a) fun h => { h with patBad := h.patBad + 1 }
    else s)

/-! ### Scrubbing (R178) -/

def LState.scrubbed : LState → Bool
  | .landed | .sealed | .admitted | .ready => true
  | _ => false

/-- No held segment waits for the scrubber since longer: it visits segments oldest first, each again in its turn
(R178; DEDUCED, log entry 47). -/
def State.scrubNext (s : State) (g : Seg) : Bool :=
  s.jobs.stripes.all fun x => x.segs.all fun h => !h.lstate.scrubbed || decide (g.lastScrub ≤ h.lastScrub)

/-- A panel's two copies pass the scrubber's checks and are the same word for word. -/
def State.scrubGood (s : State) (p : Panel) : Bool :=
  s.copySound p .a && s.copySound p .b && s.copyWords p .a == s.copyWords p .b

/-- SCRUB_SEGMENT: a failure or a difference starts arbitration. Panels already under it are skipped, and so is a
segment in preparation, which has precedence (R177). -/
def execScrubSegment (id : StripeId) (seg badA badB : BitVec 16) (s : State) : Answer :=
  let k := seg.toNat
  .next (match s.stripe? id, s.seg? id k with
    | some x, some g =>
      if !g.lstate.scrubbed || s.slotWaits id k || !s.scrubNext g then s
      else
        let bad (p : Nat) : Bool :=
          (x.panel k p).rewrite.isNone && (inMask badA p || inMask badB p || !s.scrubGood (x.panel k p))
        ((List.range 16).filter bad).foldl (fun t p => t.callArb x k p)
          (s.onSeg id k fun g => { g with lastScrub := s.now })
    | _, _ => s)

/-- An output row that is still to be written, of a segment in EXPOSING, reads a source word (R212). -/
def State.neededExposing (s : State) (id : StripeId) (k row panel : Nat) : Bool :=
  match s.run? with
  | none => false
  | some (r, x) =>
    let es := 4096 * x.pos k + row
    let w := (((r.unplaced : Int) - r.f0).toNat) + 1
    x.id == id && (upto (max (es - 65) w) (es + 66)).any fun e =>
      decide (e < 4096 * x.nseg) && ((x.seg? (x.pos (e / 4096))).map (·.lstate == .exposing)).getD false &&
        x.readsWord e es panel

/-- PLAY_BUFFER_ECC: a word failed in both copies of the play buffer, of a READY or an EXPOSING segment (R174). A row
of a segment in EXPOSING that needs it halts the stripe, wherever the word lies (R212). -/
def execPlayBufferEcc (id : StripeId) (seg : BitVec 16) (word : PlayWord) (s : State) : Answer :=
  let k := seg.toNat
  let panel := word.panel
  let row := word.row
  .next (match s.seg? id k with
    | none => s
    | some g =>
      if g.lstate = .ready ∨ g.lstate = .exposing then
        let ev := { segEvent ST.memPlaybufEcc k panel.toNat 0 0 0 with nodef := nodeF 6 4 0 }
        let s1 := (s.faultSt id ev).unverifiable id k panel.toNat 5
        if g.lstate = .ready ∧ s.neededExposing id k row.toNat panel.toNat = true then s1.stopCause 10 none none else s1
      else s)

/-! ### Re-render (R180) -/

/-- RERENDER_START: the segment is rasterized, composed and encoded again from its stored states. -/
def execRerenderStart (id : StripeId) (seg : BitVec 16) (s : State) : Answer :=
  let k := seg.toNat
  .next (match s.stripe? id, s.seg? id k with
    | some x, some g =>
      if g.lstate = .unverifiable ∧ !x.started ∧ x.landing ≠ .complete ∧ g.old.isNone ∧ s.heldCount < 8192 then
        (s.onStripe id fun y =>
          { (y.onSeg k fun g => { g with
              lstate := .landing, old := some (g.panels, g.recA, g.recB), panels := [], recA := 0, recB := 0, tadm := 0
              feedWait := false }) with
            tiles := y.tiles.map fun v =>
              if v.seg = k then { v with land := none, good := !y.rasterized k (v.tile / 2) } else v }).enqueueAll
          (x.segTiles k .rerun)
      else s
    | _, _ => s)

/-- RERENDER_COMPLETE: the new signatures and the next segment's state record equal the stored ones, or the
segment is withheld. -/
def execRerenderComplete (id : StripeId) (seg : BitVec 16) (equal : Bool) (s : State) : Answer :=
  let k := seg.toNat
  .next (match s.seg? id k with
    | none => s
    | some g =>
      match g.old with
      | none => s
      | some (ps, _, _) =>
        if g.panels.length ≠ 16 ∨ g.panels.all (fun p => p.st == .encoded) ≠ true ∨ g.lstate ≠ .landing ∨
            (s.stackReads .a && s.stackReads .b) ≠ true then s
        else if equal && (g.panels.map fun p => (p.bsig, p.after)) == (ps.map fun p => (p.bsig, p.after)) then
          (s.onSeg id k fun g => { g with old := none, lstate := .landed, tland := s.now, lastScrub := s.now }).writeLanding
            id k
        else (s.faultSt id (segEvent ST.memRerenderMismatch k 0 0 0 0)).withhold id k)

end Sys2Proof.Machine
end

