-- ==== Sys2Proof/Machine/MemCtl.lean ====
section
/-!
DEFINITION. The memory controller's events and commands: refresh, the refresh band, freeze and thaw,
channel retirement, MEM.STATUS and MEM.LANDING.READ (chapter 7).
-/

namespace Sys2Proof.Machine

/-! ### Refresh (R185 to R187) -/

/-- REFRESH: at its instant every channel of the stack that is in service is refreshed, all together. -/
def execRefresh (st : Stack) (s : State) : Answer :=
  let c := s.mc.stack st
  let due := s.mc.refreshDue st
  .next (
    if due ≤ 4 * s.now ∧ !c.failed ∧ !s.mc.pllDown then
      (s.onMc fun m => m.onStack st fun c => c.refresh due s.now).emit (.refresh st c.served)
    else s)

/-- STRIPE.DISARM's transition (Table 1-6). The values latched stay readable as those of the last arm. -/
def State.disarm (s : State) (id : StripeId) : State :=
  (((s.freeSlots id).onStripe id fun x => { x with st := .checked }).onRender fun r =>
    { r with decWork := r.decWork.map fun w => if w.any (·.st == id) then none else w }).leaveActive

/-- A sample above the latched band (R187). The cause is raised once until a placement resolves it (R301). -/
def State.bandStop (s : State) (x : Stripe) : State :=
  let ev := memEvent ST.memBandStop .a 0 0 0 0
  let ev := { ev with nodef := nodeF 28 0 0, noder := nodeR 3 0 regionLogic }
  match x.st with
  | .armed => (s.raiseSt x.id ev).disarm x.id
  | .running | .stopping =>
    if (s.play.run.map fun r => r.causes.any fun c => c.rank == 13).getD false then s
    else s.stopCause 13 (some ev) none
  | _ => s

/-- A sample while no stripe is ARMED, RUNNING or STOPPING: hotter at once, colder after 100 ms (R186). Timing
is re-centred at a change, and where the case has moved by 20 °C (R195). -/
def State.idleBand (s : State) : State :=
  let b := s.mc.stA.band
  let t := s.tB
  let s1 :=
    if b < bandOf t then (s.changeBand (bandOf t)).onMc fun m => { m with coldSince := none }
    else if b ≠ 0 ∧ t ≤ bandLimit (b - 1) - 32 then
      match s.mc.coldSince with
      | none => s.onMc fun m => { m with coldSince := some s.now }
      | some t0 =>
        if t0 + cycMs 100 ≤ s.now then (s.changeBand (b - 1)).onMc fun m => { m with coldSince := none } else s
    else s.onMc fun m => { m with coldSince := none }
  if 320 ≤ (s.tCase - s.power.trainedAt).natAbs then s1.centre else s1

/-- TEMP_BAND_SAMPLE, every 1 ms. -/
def execTempBandSample (s : State) : Answer :=
  let s1 := s.onMc fun m => { m with bandAt := some s.now }
  .next (if !s.due s.mc.bandAt (cycMs 1) then s
  else match s.active? with
    | none => s1.idleBand
    | some x =>
      if bandLimit ((x.latched.map (·.band)).getD s.mc.stA.band) < s.tB then s1.bandStop x else s1)

/-! ### Freeze (R192 to R194) -/

/-- OVF counts a further uncorrectable error. -/
def StackCtl.overflow (c : StackCtl) : StackCtl :=
  { c with frz := (c.frz &&& ~~~0xFF00#64) ||| BitVec.ofNat 64 (256 * satInc 8 (fld 15 8 c.frz)) }

/-- MEM.CAPLOC as a location fills it: bit 7 and the bits above COL have no field and read 0 (Tables 0-4 and 7-6). -/
def capLocOf (loc : BitVec 31) : BitVec 64 := loc.setWidth 64 &&& 0x7FFFFF7F#64

/-- The controller freezes with its capture. AUTO goes on telling of the last thaw (Table 7-5). -/
def StackCtl.freeze (c : StackCtl) (ch addr : Nat) (remap : Bool) (loc : BitVec 31) (src syn now : Nat) : StackCtl :=
  { c with
    frz := (c.frz &&& 2#64) ||| BitVec.ofNat 64 (1 + 4 + ch * 2 ^ 16)
    capAddr := BitVec.ofNat 64 (addr + b2n remap * 2 ^ 48)
    capLoc := capLocOf loc
    capSrc := BitVec.ofNat 64 (src + syn * 2 ^ 32)
    capTime := BitVec.ofNat 64 now
    frozeAt := now }

/-- The address is one of the stack's. -/
def ofStack (k : Stack) (a : Nat) : Bool := decide (stackBase k ≤ a ∧ a < stackBase k + stackSize)

/-- MEM_UNCORRECTABLE: the stack freezes unless one is frozen already. The error counts for the channel that backs
the address (R197). -/
def execMemUncorrectable (st : Stack) (addr : BitVec 48) (loc : BitVec 31) (src syn : BitVec 32) (s : State) :
    Answer :=
  let ch := (s.mc.stack st).channelOf st addr.toNat
  let s0 := s.onMc fun m => m.onStack st fun c => c.onChan ch fun h =>
    { h with uncorr := (h.uncorr.filter fun t => decide (s.now - t < cycH 24)) ++ [s.now] }
  .next (
    if !ofStack st addr.toNat then s
    else if s.mc.stA.frozen then s0.onMc fun m => { m with stA := m.stA.overflow }
    else if s.mc.stB.frozen then s0.onMc fun m => { m with stB := m.stB.overflow }
    else (s0.onMc fun m => m.onStack st fun c =>
        c.freeze ch addr.toNat (c.remapped st addr.toNat) loc src.toNat syn.toNat s.now).fault none
      (memEvent ST.memUncorrectable st ch addr.toNat 0 0))

/-- Held writes resume in order. -/
def State.resumeWrites (s : State) : List Host.Cell → State
  | [] => s
  | c :: cs => State.resumeWrites (s.onMem fun m => m.write spLanding c.1 [c.2]) cs

/-- Slots whose writes waited for a thaw are complete, and their segments READY (R169). -/
def State.prepResume (s : State) : State :=
  s.land.slots.foldl (fun t (y : Option Slot) => match y with
    | some v => if !v.ready && !t.decodes v.st v.seg then t.prepDone v.st v.seg else t
    | none => t) s

/-- A frozen stack thaws; the duration and AUTO are reported. -/
def State.thaw (s : State) (k : Stack) (auto : Bool) : State :=
  let c := s.mc.stack k
  if !c.frozen then s
  else
    let s1 := s.onMc fun m => m.onStack k fun c => { c with
      frz := (c.frz &&& ~~~3#64) ||| BitVec.ofNat 64 (2 * b2n auto)
      heldWrites := [] }
    ((s1.resumeWrites c.heldWrites).raise
      (memEvent ST.memThawed k (fld 19 16 c.frz) (fld 47 0 c.capAddr) (256 * b2n auto)
        ((s.now - c.frozeAt) * 2 / 5))).prepResume

/-- The capture that the active Marshal writes to the fault log before it thaws a stack: address, location, source
with syndrome and time (R194). The entry has no status (log entry 21). -/
def StackCtl.capture (c : StackCtl) (k : Stack) : Event :=
  { memEvent (Config.logCode 6) k (fld 19 16 c.frz) 0 0 0 with
    d0 := c.capAddr, d1 := c.capLoc, d2 := c.capSrc, d3 := c.capTime }

/-- A write of MEM.THAW by the active Marshal: GO thaws a frozen stack, its capture logged first. -/
def State.thawWrite (s : State) (k : Stack) (value : BitVec 64) : State :=
  if value.getLsbD 0 && (s.mc.stack k).frozen then (s.logEntry ((s.mc.stack k).capture k)).thaw k false else s

/-- A write of MEM.THAW. -/
def execMemThaw (st : Stack) (value : BitVec 64) (s : State) : Answer := .next (s.thawWrite st value)

/-- MEM_AUTO_THAW: 2 ms after the freeze. -/
def execMemAutoThaw (st : Stack) (s : State) : Answer :=
  .next (if (s.mc.stack st).frozeAt + cycMs 2 ≤ s.now then s.thaw st true else s)

/-! ### Channel retirement (R196 to R199) -/

/-- A unit in use (R198): one of the fixed areas, an extent that a segment holds or that waits for its pattern test, a
unit of a dose-factor map or of a record block. One removed from allocation holds nothing. -/
def State.unitUsed (s : State) (k : Stack) (u : Nat) : Bool :=
  let a := stackBase k + 16384 * u
  decide (16384 * u < segBase) || (s.allExtents k).contains a && !s.land.removed.contains (k, a) ||
    (s.mapUnits k).contains a || (s.allRecords k).contains (a / 65536 * 65536)

/-- The units in use below the unbacked range that stand on the channel `order` begins with: they have to be copied
(R198). -/
def State.unitsOn (s : State) (k : Stack) (order : List Nat) : List Nat :=
  match order with
  | [] => []
  | x :: older => (List.range (firstUnbacked order.length)).filter fun u =>
      (u % 16 == x || backedBy older u % 16 == x) && s.unitUsed k u

/-- Retirement of a channel starts; a fifth puts the stack out of service (R198, R199). Free units are remapped at
once. -/
def State.startRetire (s : State) (k : Stack) (ch : Nat) : State :=
  let c := s.mc.stack k
  let h := c.chan ch
  if h.retired || h.retiring then s
  else if 4 ≤ c.order.length then s.stackFail k
  else
    let us := s.unitsOn k (ch :: c.order)
    (s.onMc fun m => m.onStack k fun c => { c.onChan ch fun h =>
        { h with retiring := true, suspect := false, unmoved := us } with order := ch :: c.order }).fault none
      (memEvent ST.memChannelRetiring k ch 0 0 us.length)

/-- The trigger's count has been reached (Table 7-7). Uncorrectable errors and failed pattern tests are counted here;
corrected and parity errors by the controller, which gives its count and from when it ran. Training triggers at
start-up alone. -/
def State.triggered (s : State) (k : Stack) (ch : Nat) : RetireTrigger → Bool
  | .uncorrectable =>
    decide (3 ≤ (((s.mc.stack k).chan ch).uncorr.filter fun t => decide (s.now - t < cycH 24)).length)
  | .patternTest => decide (64 < ((s.mc.stack k).chan ch).patBad)
  | .corrected n t => decide (4096 ≤ n.toNat ∧ s.now ≤ t.toNat + cycH 1)
  | .parity n t => decide (16 ≤ n.toNat ∧ s.now ≤ t.toNat + cycS 1)
  | .training => false

/-- CHANNEL_RETIRE_TRIGGER: retirement starts, or in manual sparing the channel is suspect (R197). A channel that fails
training before READY is retired with no data to move (R195). -/
def execChannelRetireTrigger (st : Stack) (ch : BitVec 4) (trigger : RetireTrigger) (s : State) : Answer :=
  let n := ch.toNat
  let h := (s.mc.stack st).chan n
  .next (
    if trigger = .training ∧ !s.power.ready then s.untrained st n .finalRun
    else if h.retired || h.retiring || h.suspect || !s.triggered st n trigger then s
    else if s.repair.manual then
      (s.onMc fun m => m.onStack st fun c => c.onChan n fun h => { h with suspect := true }).setRState
        (nodeR (3 + stackNum st) 0 n) .suspect
    else s.startRetire st n)

/-- The area of a unit stands in both stacks: all but the stream ring and the rewrite staging (Table 6-1). -/
def unitMirrored (u : Nat) : Bool := decide (0x04000000 ≤ 16384 * u)

/-- The unit that will back a unit in use, once it is free: the range that it lies in has been emptied (R198). -/
def State.targetFree (s : State) (k : Stack) (x u : Nat) : Bool :=
  let c := s.mc.stack k
  let older := (c.order.dropWhile (· != x)).drop 1
  let t := backedBy (x :: older) u
  (((List.range 98304).map (firstUnbacked (older.length + 1) + ·)).filter fun v =>
    c.backing older v == t).all fun v => !s.unitUsed k v

/-- UNIT_MIGRATION_COMPLETE: a unit in use of a retiring channel stands on its target. A word of it that failed ECC is
refilled from the other stack where the area is mirrored; in the stream ring the parser stalls on the damaged chunk
(R198). -/
def execUnitMigrationComplete (st : Stack) (unit : BitVec 21) (bad : Option (BitVec 9)) (s : State) : Answer :=
  let u := unit.toNat
  let c := s.mc.stack st
  .next (match c.order.find? fun x => (c.chan x).retiring && (c.chan x).unmoved.contains u with
    | none => s
    | some x =>
      if s.stackReads st = false ∨ c.inRfc s.now = true ∨ s.targetFree st x u = false ∨
          (bad.isSome ∧ unitMirrored u = true ∧ s.stackReads (otherStack st) = false) then s
      else
        let hurt := if unitMirrored u || st == .b then [] else (bad.map fun w => 512 * u + w.toNat).toList
        s.onMc fun m => m.onStack st fun c =>
          { c.onChan x fun h => { h with unmoved := h.unmoved.filter (· != u) } with damaged := c.damaged ++ hurt })

/-- The lowest free record block of a stack. -/
def State.findRecord (s : State) (k : Stack) : Option Nat :=
  ((List.range (segSize / 65536)).map fun i => stackBase k + segBase + 65536 * i).find? (s.recordFree k)

/-- The bytes a moved record block takes: its own, or those of the other stack's block where its own record is bad
(R198). -/
def State.recordBytes (s : State) (g : Seg) (k : Stack) : List Byte :=
  let o := otherStack k
  s.mem.bytes spLanding (if !s.recordOk g k && s.recordOk g o then g.recAt o else g.recAt k) 65536

/-- A record block in the unbacked range moves with its content, while a block is free (R198). -/
def State.moveRecord (s : State) (k : Stack) (id : StripeId) (n : Nat) : State :=
  match s.seg? id n with
  | none => s
  | some g =>
    if g.panels.isEmpty || !(s.mc.stack k).unbacked k (g.recAt k) then s
    else match s.findRecord k with
      | none => s
      | some a =>
        let s1 := (s.write spLanding a (s.recordBytes g k)).onSeg id n fun g =>
          match k with
          | .a => { g with recA := a }
          | .b => { g with recB := a }
        if g.tland = 0 then s1 else s1.writeLanding id n

/-- So does the block of a landing that a re-render replaces. -/
def State.moveOldRecord (s : State) (k : Stack) (id : StripeId) (n : Nat) : State :=
  match (s.seg? id n).bind (·.old), s.findRecord k with
  | some (ps, ra, rb), some a =>
    let r := match k with
      | .a => ra
      | .b => rb
    if !(s.mc.stack k).unbacked k r then s
    else (s.write spLanding a (s.mem.bytes spLanding r 65536)).onSeg id n fun g =>
      { g with old := some (match k with
        | .a => (ps, a, rb)
        | .b => (ps, ra, a)) }
  | _, _ => s

def State.moveRecords (s : State) (k : Stack) : State :=
  (s.jobs.stripes.map fun x => (List.range x.nseg).map fun n => (x.id, n)).flatten.foldl
    (fun t p => (t.moveRecord k p.1 p.2).moveOldRecord k p.1 p.2) s

/-- Nothing that is in use stands in the range that retirement has emptied. -/
def State.rangeEmpty (s : State) (k : Stack) : Bool :=
  let c := s.mc.stack k
  ((s.allExtents k).filter fun a => !s.land.removed.contains (k, a)).all (fun a => !c.unbacked k a) &&
    (s.allRecords k ++ s.mapUnits k).all fun a => !c.unbacked k a

/-- CHANNEL_RETIRED: the range is empty and every unit remapped. Records in the range move first. -/
def execChannelRetired (st : Stack) (ch : BitVec 4) (s : State) : Answer :=
  let n := ch.toNat
  let c := s.mc.stack st
  .next (
    if (c.chan n).retiring ∧ s.stackReads st = true then
      let s1 := s.moveRecords st
      if s1.rangeEmpty st && (c.chan n).unmoved.all (fun u => !s1.unitUsed st u) then
        ((s1.onMc fun m => m.onStack st fun c => c.onChan n fun h =>
          { h with retiring := false, retired := true, unmoved := [] }).setRState (nodeR (3 + stackNum st) 0 n)
            .retired).raise (memEvent ST.memChannelRetired st n 0 0 0)
      else s1
    else s)

/-! ### Commands (Table 17-13) -/

/-- Values of MEM.STATUS: freeze states and captures, channel states, band, free space, counters. -/
def State.memStatus (s : State) : List Nat :=
  let one (k : Stack) : List Nat :=
    let c := s.mc.stack k
    [c.frz.toNat, c.capAddr.toNat, c.capLoc.toNat, c.capSrc.toNat, c.capTime.toNat, b2n c.failed, c.band, c.refreshes] ++
      c.chans.map (fun h => b2n h.retired + 2 * b2n h.retiring + 4 * b2n h.suspect) ++ [s.freeSpace k]
  one .a ++ one .b ++ [s.land.transient, s.land.reloads, s.land.unverifs]

/-- MEM.STATUS. -/
def execMemStatus (src : Src) (s : State) : Answer := .next (s.ok src (layoutBody 0x0901 s.memStatus))

/-- MEM.LANDING.READ: the landing record of copy A (Table 6-2). -/
def execMemLandingRead (src : Src) (id : StripeId) (seg : BitVec 16) (s : State) : Answer :=
  .next (match s.stripe? id, s.seg? id seg.toNat with
    | some x, some g =>
      if g.lstate.isHeld then s.ok src (x.landingRecord seg.toNat g 0) else s.fail src ST.memNoSegment
    | _, _ => s.fail src ST.memNoSegment)

end Sys2Proof.Machine
end

