-- ==== Sys2Proof/Machine/Arm.lean ====
section
/-!
DEFINITION. STRIPE.ARM and STRIPE.RESUME: the lane map, sparing, the conditions, and what an arm latches
(R28, R30, R122, R207, R210, R229 to R232, R256, R325, R360).
-/

namespace Sys2Proof.Machine

/-! ### The lane map (R325) -/

/-- A lane counts as up for the map; in the loopback target unless retired or suspect. -/
def Link.upFor (l : Link) (loop : Bool) (n : Nat) : Bool :=
  if loop then
    decide (n < 68) && (l.lane n).st != .retired && (l.lane n).st != .suspect && (l.lane n).st != .suspectPassed
  else l.up n

/-- A lane that the map may give a group: up, and not quarantined by a command. -/
def State.laneFor (s : State) (loop : Bool) (n : Nat) : Bool :=
  s.link.upFor loop n && s.rstate (nodeR 5 0 n) != .quarantined

/-- A repair command has given the carrier's group to a spare (R431, manual sparing). -/
def State.laneOrdered (s : State) (cur : Option Nat) : Bool :=
  match cur with
  | some n => ((s.repairRec (nodeR 5 0 n)).map (·.manualSpare)).getD false
  | none => false

/-- What the map does for a group. -/
inductive MapStep where
  | keep
  | spare (lane : Nat)
  | passed
  | none
  deriving DecidableEq, Repr

/-- The case of R325 for one group, given the lanes already assigned. -/
def State.mapStep (s : State) (loop : Bool) (used : List (Option Nat)) (cur : Option Nat) : MapStep :=
  let l := s.link
  let remap := loop || l.headField 0 48 48 == 1
  if cur.any (fun n => s.laneFor loop n && (!s.repair.manual || !s.laneOrdered cur)) then .keep
  else
    let spare := if remap && (!s.repair.manual || s.laneOrdered cur) then
        (List.range 68).find? fun n => s.laneFor loop n && (loop || (l.lane n).st == .spare) && !used.contains (some n)
      else none
    match spare with
    | some n => .spare n
    | none =>
      if cur.any (fun n => ((l.lane n).st == .suspectPassed && (loop || l.retUp n)) || s.laneFor loop n) then .passed
      else .none

/-- Groups in ascending order: the new map and what was done for each. -/
def State.buildMap (s : State) (loop : Bool) : List (Option Nat) → List (Option Nat) → List MapStep → List (Option Nat) × List MapStep
  | [], acc, st => (acc, st)
  | cur :: rest, acc, st =>
    let m := s.mapStep loop (acc ++ cur :: rest) cur
    let lane := match m with
      | .keep | .passed => cur
      | .spare n => some n
      | .none => none
    State.buildMap s loop rest (acc ++ [lane]) (st ++ [m])

/-- Events of the map: for each remapped group the remap and the sparing of its old carrier (Table 18-2), and one
for each group without a carrier. -/
def State.mapEvents (s : State) (src : Src) (map : List (Option Nat)) (st : List MapStep) : State :=
  (st.zip map).zipIdx.foldl (fun (t : State) (p : (MapStep × Option Nat) × Nat) => match p.1.1 with
    | .spare n =>
      let t1 := t.raiseVia (some src) none (linkEvent ST.linkRemap n (retOf n) p.2 0)
      match s.link.map.getD p.2 none with
      | some o => t1.raiseVia (some src) none (repairEvent ST.repairSpared (nodeR 5 0 o) .retired (nodeR 5 0 n))
      | none => t1
    | .none => t.raiseVia (some src) none (linkEvent ST.linkNoSpare (((s.link.map.getD p.2 none)).getD 255) 0 p.2 0)
    | _ => t) s

/-- Groups without a carrier. -/
def mapDead (map : List (Option Nat)) : List Nat :=
  map.zipIdx.filterMap fun (p : Option Nat × Nat) => if p.1.isNone then some p.2 else none

/-- The 68 bytes of MAPSET: the group of input p, 0xFF for none (Table 12-6). -/
def mapsetBody (map : List (Option Nat)) : List Byte :=
  (List.range 68).map fun n => match map.findIdx? (· == some n) with
    | some g => BitVec.ofNat 8 g
    | none => 0xFF

/-- The map in force becomes the map built, and the lanes take the states of Table 12-9. -/
def State.commitMap (s : State) (map : List (Option Nat)) : State :=
  ((s.onLink fun l => { l with
    map := map
    latchedOff := []
    lanes := l.lanes.zipIdx.map fun (p : Lane × Nat) =>
      let used := map.contains (some p.2)
      match p.1.st with
      | .spare | .carrier => { p.1 with st := if used then .carrier else .spare }
      | .suspectPassed => { p.1 with st := if used then .carrier else .spare }
      | _ => p.1 }).onBeam fun b => { b with groupDead := mapDead map }).onRepair fun r =>
    { r with recs := r.recs.map fun x =>
        if nodeI1 x.node = 5 ∧ nodeI2 x.node = 0 ∧ map.contains (some (nodeI3 x.node)) = false then
          { x with manualSpare := false } else x }

/-! ### Sparing at the arm (R431) -/

/-- Window banks: the logical bank of each bank spared takes the spare (R213, R216). -/
def State.remapBanks (s : State) : State :=
  let due := s.repair.recs.filterMap fun r =>
    if nodeI1 r.node = 2 ∧ nodeI2 r.node = 2 then r.by_.map fun c => (nodeI3 r.node, nodeI3 c) else none
  s.onPlay fun p => { p with
    bankBad := []
    bankMap := due.foldl (fun m d =>
      match m.find? fun q => q.2 == d.1 with
      | some q => if m.any fun z => z.2 == d.2 then m else (m.filter (· != q)) ++ [(q.1, d.2)]
      | none => if d.1 < 2048 ∧ (m.any fun z => z.2 == d.2 || z.1 == d.1) = false then m ++ [(d.1, d.2)] else m) p.bankMap }

/-- Every region whose switch point is STRIPE.ARM. -/
def State.spareAtArm (s : State) : State :=
  let banks := s.play.bankBad.foldl (fun t b => t.quarantine (nodeR 2 2 b)) s
  ([(1, 2), (2, 0), (2, 2), (2, 3), (2, 4), (2, 5), (7, 1)].foldl (fun (t : State) (r : Nat × Nat) =>
    t.spareRegion r.1 r.2) banks).remapBanks

/-- Coupled trim runs are aborted and start again at the next idle (R357). -/
def State.abortTrims (s : State) (src : Src) : State :=
  let hit := s.meas.trimSet.any fun k => decide (68 ≤ k) && s.meas.items.zipIdx.any fun (t : Trim × Nat) => t.2 == k && t.1.running
  let s1 := s.onMeas fun m => { m with
    trimBad := if hit && m.trimBad == 0 then ST.calAborted else m.trimBad
    items := m.items.zipIdx.map fun (t : Trim × Nat) =>
      if 68 ≤ t.2 && t.1.running then { t.1 with running := false, restart := true } else t.1 }
  s.meas.items.zipIdx.foldl (fun (t : State) (p : Trim × Nat) =>
    if 68 ≤ p.2 && p.1.running then t.raiseVia (some src) none (trimEvent ST.calAborted p.2 0 0) else t) s1

/-! ### Conditions -/

/-- The first live beam whose gain bound fails (R230). -/
def gainBad (t : GainTable) (dead : List Nat) (ghbound : Nat) : Option Nat :=
  let isDead := (Array.replicate 262144 false)
  let marks := dead.foldl (fun (a : Array Bool) b => a.setIfInBounds b true) isDead
  (t.g.zipIdx.find? fun (p : Nat × Nat) => !(marks.getD p.2 true) && p.1 * (65536 - t.alpha) < ghbound * 65536).map (·.2)

/-- Segments at or after position `q0` in groups that fail the placement check (R210). -/
def Stripe.placementBad (x : Stripe) (dead : List Nat) (q0 : Nat) : List Nat :=
  let gs := groupSize x.nseg
  let at' (i : Nat) : List Nat := x.capMap.getD i []
  let worst (i : Nat) : List Nat :=
    let m := maxCols (maxCols (at' i) (if i = 0 then at' i else at' (i - 1)))
      (if i + 1 < x.capMap.length then at' (i + 1) else at' i)
    (List.range 8192).map fun c => ((m.drop (c - 33)).take (c + 34 - (c - 33))).foldl max 0
  (List.range x.nseg).filter fun k => decide (q0 ≤ x.pos k) && groupFails dead (worst (k / gs))

/-- An axis has a present port in its role (R256). -/
def Stage.axisHeld (g : Stage) (ax : Axis) : Bool := g.ports.any fun p => roleAxis p.cfg.role == some ax && p.present

/-- Some instance of a region has failed. -/
def State.regionFailed (s : State) (i1 i2 : Nat) : Bool :=
  s.repair.recs.any fun r => nodeI1 r.node == i1 && nodeI2 r.node == i2 && r.st == .failed

/-- The Grader, resampler, split unit or quantizer has failed (R432). -/
def State.beamPathFailed (s : State) : Bool :=
  s.regionFailed 1 3 || s.regionFailed 2 1 || s.unitFailed (nodeR 2 3 regionLogic) || s.unitFailed (nodeR 2 4 regionLogic)

/-- The conditions that follow capacity and placement, in their listed order (Table 17-9). -/
def State.armRest (s : State) (x : Stripe) : List (Bool × BitVec 16) :=
  let loop := x.target == 2
  let beams := x.target == 0
  [(loop || (s.stage.axisHeld .scan && s.stage.axisHeld .cross), ST.stageAxisLost),
   (loop || (!s.stage.integrity && !(s.stage.ports.any (·.heldOut))), ST.stageIntegrity),
   (!(s.regionFailed 8 1), ST.stageDatapath),
   (!s.beamPathFailed, ST.beamDatapath),
   (!beams || s.beam.stuckOn.isEmpty, ST.beamStuckOn),
   (!beams || (s.plate.attached.isSome && s.plate.attached == (s.job? x.id.job).bind (·.plate)), ST.plateChanged),
   (!s.mc.stA.failed && !s.mc.stB.failed && !s.mc.pllDown, ST.memStackFailed),
   (loop || s.link.headPresent, ST.linkNoHead),
   (loop || !(s.link.thermal.any fun c => c.declared && decide (2 ≤ c.level)), ST.stripeHeadStop),
   (s.meas.gain.isNone, ST.calBusy),
   (!(beams && s.meas.policy.reqconf && (((s.meas.items.getD 70 Trim.reset).prov) ||
      (s.meas.items.getD 68 Trim.reset).prov || (s.meas.items.getD 69 Trim.reset).prov)), ST.calProvisional)]

/-- The state in which the arm's conditions are judged: pending coefficients in force, the sparing of this
switch point made, the pending gain table active, the new map in force. -/
def State.prepareArm (s : State) (map : List (Option Nat)) (mapped : Bool) : State :=
  let s1 := s.applyTrims.spareAtArm.onBeam fun b => { b with activeT := b.table, pendingT := none }
  if mapped then s1.commitMap map else s1

/-! ### Latching (R28) -/

/-- What an arm latches. -/
def State.latch (s : State) (x : Stripe) : Latched :=
  let t := s.beam.activeT.getD ⟨0, 0, 0, 0, []⟩
  let tmin := if s.decLanes.length < 16 then 1024 else 625
  { gen := t.gen, alpha := t.alpha, tau := t.tau, g := t.g, dead := s.deadNow, lambda := lambdaOf tmin t.tau
    tmin := tmin, band := bandAtArm s.tB, laneMap := s.link.map, timeMode := s.time.mode, target := x.target
    decBind := bindLanes s.decLanes }

/-- The controller takes the band and the capacity of this arm (R186, R199). -/
def State.latchMem (s : State) (band : Nat) : State :=
  let cap (c : StackCtl) : StackCtl := { c with removed := c.order.filter fun n => (c.chan n).retired }
  (s.setBand band).onMc fun m => { m with stA := cap m.stA, stB := cap m.stB, coldSince := none }

/-- ARMED: the values latched, the run's traces of an earlier stop settled, blocks cleared (R30, R275,
Table 18-5). `spares` are the decode lanes that were spare before. -/
def State.armed (s : State) (x : Stripe) (q : Nat) (spares : List Nat) : State :=
  let l := s.latch x
  let s1 := s.finishHalt x.id none
  let s2 := s1.onStripe x.id fun y => { y with
    st := .armed, kStart := y.pos q, boundary := none, latched := some l
    segs := y.segs.map fun g => { g with unexp := false } }
  let s3 := (s2.latchMem l.band).onBeam fun b => { b with tauArm := some l.tau }
  let s4 := (s3.onStage fun g => { g with recovery := false }).dropReentry.onPlay fun p =>
    { p with tail := none, staging := [], window := [], winRows := [] }
  let s5 := if x.target = 0 then s4.onLink fun k => { k with tripBlock := false } else s4
  s5.preempt true (spares.filter l.decBind.contains)

/-- STRIPE.ARM and STRIPE.RESUME from a mailbox. `echo` is the map of the MAPSET that the head has echoed. -/
def State.armStripe (s : State) (src : Src) (id : StripeId) (resume : Bool) (echo : Option (List (Option Nat))) : State :=
  match s.stripe? id with
  | none => s.fail src ST.stripeUnknown
  | some x =>
    let echoed := echo.isSome
    let cmd : Instr := if resume then .stripeResume src id else .stripeArm src id
    let mine := ((s.job? id.job).map (·.mine src)).getD false
    let inSt := if resume then x.st == .stopped || x.st == .halted else x.st == .checked
    match firstFail [(mine, ST.sysNotOwner), (inSt, ST.stripeState),
        (s.quiet && (echoed || s.link.arm.isNone), ST.stripeOtherActive), (x.firstOpen.isSome, ST.stripeState),
        (s.beam.table.isSome, ST.beamNoGainTable)] with
    | some st => s.fail src st
    | none =>
      let q := x.firstOpen.getD 0
      let loop := x.target == 2
      let mapped := loop || s.link.headPresent
      let m := match echo with
        | some map => (map, [])
        | none => s.buildMap loop s.link.map [] []
      let spares := (List.range 18).filter fun n => s.rstate (nodeR 2 0 n) == .spare
      let s0 := if mapped && !echoed then s.mapEvents src m.1 m.2 else s
      let t := s0.prepareArm m.1 mapped
      let dead := t.deadNow
      match gainBad (t.beam.activeT.getD ⟨0, 0, 0, 0, []⟩) dead x.hdr.ghbound with
      | some b =>
        (s0.raiseVia (some src) (some id.job) { stripeEvent ST.stripeArmGain b none with
          stripe := id.stripe, dry := x.target != 0 }).respond src ST.stripeArmGain b false []
      | none =>
        let mark (u : State) (bad : List Nat) : State := u.onStripe id fun y =>
          { y with segs := y.segs.zipIdx.map fun (g : Seg × Nat) => { g.1 with unexp := bad.contains g.2 } }
        match x.capacityBad dead q with
        | k :: ks =>
          ((mark (s0.finishHalt id none) (k :: ks)).refuse id (some src)
            (listEvent ST.stripeArmCapacity (k :: ks))).fail src ST.stripeArmCapacity
        | [] =>
          if !x.offsetOk s.beam.fit then s0.fail src ST.stripeArmRange
          else match (if x.hdr.place then x.placementBad dead q else []) with
            | k :: ks =>
              ((mark (s0.finishHalt id none) (k :: ks)).refuse id (some src)
                (listEvent ST.stripeArmPlacement (k :: ks))).fail src ST.stripeArmPlacement
            | [] => match firstFail (t.armRest x) with
              | some st => s0.fail src st
              | none =>
                if loop || echoed then ((t.abortTrims src).armed x q spares).ok src []
                else ((s0.sendHead 0x02 (mapsetBody m.1)).onLink fun l =>
                  { l with arm := some ⟨src, id, s.now, resume, m.1⟩ }).wait src cmd

/-- STRIPE.ARM. -/
def execStripeArm (src : Src) (id : StripeId) (s : State) : Answer := .next (s.armStripe src id false none)

/-- STRIPE.RESUME. -/
def execStripeResume (src : Src) (id : StripeId) (s : State) : Answer := .next (s.armStripe src id true none)

/-- The head's echo of MAPSET: the arm that waits is completed (R325). -/
def State.mapsetEcho (s : State) (body : List Byte) : State :=
  match s.link.arm with
  | none => s
  | some a =>
    if body = mapsetBody a.map then
      ((s.unwait a.src.mb).armStripe a.src a.st a.resume (some a.map)).onLink fun l => { l with arm := none }
    else s

/-- MAPSET_ECHO_TIMEOUT: no echo within 10 ms fails the arm. -/
def execMapsetEchoTimeout (s : State) : Answer :=
  .next (match s.link.arm with
    | none => s
    | some a =>
      if a.sentAt + cycMs 10 ≤ s.now then
        (((s.unwait a.src.mb).onLink fun l => { l with arm := none, mgmt := l.mgmt.filter fun w => w.mtype != 0x02 }).raiseVia
          (some a.src) (some a.st.job) (linkEvent ST.linkMap 0 0 0 0)).fail a.src ST.linkMap
      else s)

/-! ### Management answers (R318, R321, R323, R325) -/

/-- A complete management message from a lane's input. -/
def State.mgmtMessage (s : State) (lane : Nat) (msg : List Byte) : State :=
  let mtype := (msg.getD 0 0).toNat
  let body := (msg.drop 4).take (leNat ((msg.drop 2).take 2))
  match s.link.mgmt.find? fun w => w.lane == lane && w.mtype == mtype with
  | none => s
  | some w =>
    let s1 := s.onLink fun l => { l with mgmt := l.mgmt.filter (· != w) }
    if mtype = 0x01 then s1.acceptIdentity lane body
    else if mtype = 0x02 then s1.mapsetEcho body
    else if mtype = 0x07 then s1.laneTestDone lane (leNat (body.take 8)) (leNat ((body.drop 8).take 1))
    else s1.plateReply mtype body

/-- MGMT_RECORD: a piece by its MSEQ; LAST completes the message, and a gap in MSEQ discards it. -/
def execMgmtRecord (q : BitVec 2) (w : BitVec 256) (s : State) : Answer :=
  .next (s.record q w 4 fun s =>
    let lane := fld 15 8 w
    let l := s.link.lane lane
    let mseq := BitVec.ofNat 8 (fld 23 16 w)
    let first := bitAt 24 w
    if !first ∧ (mseq ≠ l.mseqRx + 1 ∨ l.rx.isEmpty) then s.onLane lane fun x => { x with mseqRx := mseq, rx := [] }
    else
      let rx := (if first then [] else l.rx) ++ (leBytes 16 (fld 191 64 w)).take (fld 36 32 w)
      let s1 := s.onLane lane fun x => { x with mseqRx := mseq, rx := if bitAt 25 w then [] else rx }
      if bitAt 25 w then s1.mgmtMessage lane rx else s1)

end Sys2Proof.Machine
end

