-- ==== Sys2Proof/Machine/Stripes.lean ====
section
/-!
DEFINITION. The other commands of the JOB and STRIPE groups: DISARM, GO, STOP, RELEASE, STATUS, the ledger,
ABORT and CLOSE (Table 17-9).
-/

namespace Sys2Proof.Machine

/-- The port owns the job of a held stripe (R492). -/
def State.owns (s : State) (src : Src) (job : BitVec 16) : Bool := ((s.job? job).map (·.mine src)).getD false

/-- A command on a held stripe: held, owned, and in one of some states. -/
def State.onHeld (s : State) (src : Src) (id : StripeId) (ok : StripeSt → Bool) (k : Stripe → State) : State :=
  match s.stripe? id with
  | none => s.fail src ST.stripeUnknown
  | some x =>
    if !s.owns src id.job then s.fail src ST.sysNotOwner
    else if !ok x.st then s.fail src ST.stripeState
    else k x

/-- STRIPE.DISARM: ARMED to CHECKED. -/
def execStripeDisarm (src : Src) (id : StripeId) (s : State) : Answer :=
  .next (s.onHeld src id (· == .armed) fun _ => (s.disarm id).ok src [])

/-! ### STRIPE.GO (R29, R241, R283) -/

/-- The scan position lies far enough before the start row (R283). -/
def State.goPosition (s : State) (x : Stripe) (yref : BitVec 48) (sense : Bool) : Bool :=
  let g := gridNm x.hdr
  let sg : Int := if sense then -1 else 1
  let xn := toU 48 ((yref.toNat : Int) + sg * 64 * g * (4096 * x.pos x.kStart))
  !s.stage.axScan.posInvalid && decide ((64 * g : Int) ≤ sg * wrap48 ((xn : Int) - s.stage.axScan.x))

/-- The first unmet condition of 1 lead, 2 idle and 3 origin; 0 for none. -/
def State.goUnmet (s : State) (x : Stripe) : Nat :=
  let q := x.pos x.kStart
  if x.run q < min x.hdr.lgo (x.nseg - q) then 1
  else if s.beam.idleEnd.any (fun t => decide (s.now < t)) then 2
  else if s.beam.reqZero && x.target == 0 && !s.beam.hist.isEmpty then 3
  else 0

/-- The preconditions of GO in their order; the position is judged at the command's arrival. -/
def State.goPre (s : State) (x : Stripe) (arrival : Bool) (yref : BitVec 48) (sense : Bool) : List (Bool × BitVec 16) :=
  let loop := x.target == 2
  [(!s.ref.safe, ST.stripeSafe), (x.target != 0 || s.ref.permitIn, ST.stripeNoPermit),
   (loop || !s.stage.integrity, ST.stageIntegrity), (loop || s.pacer.mcPresent, ST.stageMcAbsent),
   (loop || !arrival || s.goPosition x yref sense, ST.stripeGoPosition),
   (loop || !(s.link.thermal.any fun c => c.declared && decide (2 ≤ c.level)), ST.stripeHeadStop)]

/-- RUNNING: f0 set, the shadow array cleared, PERMIT_OUT asserted for a beams target (R235, R283, R434). -/
def State.goStart (s : State) (x : Stripe) (yref : BitVec 48) (sense : Bool) (crossmax : BitVec 23) (xcref : BitVec 48)
    (tlb : BitVec 32) : State :=
  let q := x.pos x.kStart
  let fn : Nat := ((s.job? x.id.job).map (·.fNext)).getD 0
  let f0 : Int := (fn : Int) - 4096 * q
  let r : Run := {
    st := x.id, qs := q, f0 := f0, yref := yref.toNat, sense := if sense then -1 else 1, xcref := xcref.toNat
    crossmax := crossmax.toNat, tlb := tlb.toNat, goAt := s.now, permitAt := s.now, next := fn, placed := false
    mPrev := none, fix := none, flash := FlashAcc.none, boundary := none, causes := [], halt := none, reentryOk := false
    awaiting := [], taken := [], deadGroups := [], storeGroup := none, stuckOff := [], recorded := 0
    laneBlank := [], runNo := x.runs }
  let s1 := (s.onStripe x.id fun y => { y with st := .running, f0 := some f0, runs := y.runs + 1 }).onPlay fun p =>
    { p with run := some r, deficit := [] }
  let s2 := if x.target = 0 then s1 else s1.onBeam fun b => { b with shadow := [] }
  if x.target = 0 && s2.permitHolds then s2.onRef fun z => { z with permitOut := true } else s2

/-- GO from a mailbox or after a wait: the ranges of Table 11-1, its preconditions, then lead, idle and origin. -/
def State.goTry (s : State) (src : Src) (id : StripeId) (waitmax : BitVec 16) (yref : BitVec 48) (sense : Bool)
    (crossmax : BitVec 23) (xcref : BitVec 48) (tlb : BitVec 32) (arrival : Bool) : State :=
  if crossmax = 0 then s.fail src ST.sysField
  else s.onHeld src id (· == .armed) fun x =>
    let tlbOk := tlb == 0 || decide (x.tmin ≤ tlb.toNat)
    match firstFail ((!arrival || tlbOk, ST.sysField) :: s.goPre x arrival yref sense) with
    | some st => s.fail src st
    | none =>
      let u := s.goUnmet x
      if u = 0 then (s.goStart x yref sense crossmax xcref tlb).ok src []
      else if arrival && waitmax == 0 then s.respond src ST.stripeGoTimeout u false []
      else s.wait src (.stripeGo src id waitmax yref sense crossmax xcref tlb)

/-- STRIPE.GO. -/
def execStripeGo (src : Src) (id : StripeId) (waitmax : BitVec 16) (yref : BitVec 48) (sense : Bool)
    (crossmax : BitVec 23) (xcref : BitVec 48) (tlb : BitVec 32) (s : State) : Answer :=
  .next (s.goTry src id waitmax yref sense crossmax xcref tlb true)

/-- GO_WAITMAX_EXPIRY: WAITMAX ms with lead, idle or origin unmet. -/
def execGoWaitmaxExpiry (mb : BitVec 4) (s : State) : Answer :=
  .next (match s.waiter mb with
    | some ⟨src, .stripeGo _ id w y sn c xc t, since⟩ =>
      if s.now < since + cycMs w.toNat then s
      else
        let u := match s.stripe? id with
          | some x => if x.st = .armed then s.goUnmet x else 0
          | none => 0
        if u ≠ 0 then (s.unwait mb).respond src ST.stripeGoTimeout u false []
        else (s.unwait mb).goTry src id w y sn c xc t false
    | _ => s)

/-! ### STRIPE.STOP and STRIPE.RELEASE -/

/-- STRIPE.STOP: a drain or a halt; the command waits for the end of the run (R298, R299). -/
def execStripeStop (src : Src) (id : StripeId) (abort : Bool) (s : State) : Answer :=
  .next (s.onHeld src id (fun st => st == .running || st == .stopping) fun _ =>
    (s.stopCause (if abort then 11 else 20) none none).wait src (.stripeStop src id abort))

/-- A stripe leaves with its space: the records owed are written, a landing pass that was open completes
(R30, R181, R302). -/
def State.releaseStripe (s : State) (id : StripeId) : State :=
  let s1 := s.finishHalt id none
  let open_ := ((s1.stripe? id).map fun x => x.landing != .complete).getD false
  let s2 := if open_ then s1.raiseSt id
      { Event.of ST.stripeLanded with nodef := nodeF 6 1 0, noder := nodeR 2 5 regionLogic }
    else s1
  (((s2.freeSlots id).onRender fun r => r.drop id).onPlay fun p => { p with
      reentry := match p.reentry with
        | some e => if e.run.st = id then none else some e
        | none => none }).onJobs fun j => { j with stripes := j.stripes.filter (·.id != id) }

/-- STRIPE.RELEASE. -/
def execStripeRelease (src : Src) (id : StripeId) (s : State) : Answer :=
  .next (s.onHeld src id (fun st => st == .refused || st == .done || st == .stopped || st == .halted) fun _ =>
    (s.releaseStripe id).ok src [])

/-! ### Buffers (R417) -/

/-- An output buffer of at least `n` bytes with a CRC word of 0. -/
def outBuf (b : BufRef) (n : Nat) : Bool :=
  rangeOk b.space b.addr.toNat b.len.toNat && b.crc == 0 && decide (n ≤ b.len.toNat)

def State.writeBuf (s : State) (b : BufRef) (ws : List Word) : State := s.write b.space b.addr.toNat (wordsBytes ws)

/-- The last precondition of a command whose object fixes its buffer's length: a buffer too short gives the length
required in words, and nothing is written (R417). -/
def State.sized (s : State) (src : Src) (b : BufRef) (words : Nat) (k : State) : State :=
  if 16 * words ≤ b.len.toNat then k else s.respond src ST.sysBuffer words false []

/-! ### STRIPE.STATUS (Tables 6-4, 17-10 and 17-19) -/

/-- LSTATE of Table 17-10. -/
def LState.code : LState → Nat
  | .landing => 0
  | .withheld => 1
  | .landed => 2
  | .admitted => 3
  | .sealed => 4
  | .unverifiable => 5
  | .witnessFailed => 6
  | .ready => 7
  | .exposing => 8
  | .none => 15

/-- The entry of a segment (Table 17-10): ROW is the row within the segment. -/
def Seg.entry (g : Seg) : Word :=
  packW [(0, 16, g.omega), (16, 16, g.pmax), (32, 12, g.prow % 4096), (44, 13, g.pcol), (57, 7, toU 7 g.margin),
    (64, 4, g.lstate.code), (68, 4, g.outcome.code), (72, 1, b2n g.unexp)]

/-- Segments of the device in some landing states. -/
def State.countSegs (s : State) (f : LState → Bool) : Nat :=
  (s.jobs.stripes.map fun x => (x.segs.filter fun g => f g.lstate).length).sum

def State.readyCount (s : State) : Nat := s.countSegs (· == .ready)
def State.awaitCount (s : State) : Nat := s.countSegs fun l => l == .landed || l == .sealed
def State.unavailCount (s : State) : Nat :=
  s.countSegs fun l => l == .withheld || l == .witnessFailed || l == .unverifiable

/-- The contiguous lead in ns. -/
def State.leadNs (s : State) (lead : Nat) : Nat := lead * 4096 * s.flashPeriod * 2 / 5

/-- The seven words of STRIPE.STATUS (Table 17-19). -/
def State.statusWords (s : State) (x : Stripe) (entries : Nat) : List Word :=
  let l := x.latched
  [packW [(0, 16, x.id.job.toNat), (16, 16, x.id.stripe.toNat), (32, 4, x.st.code), (36, 1, b2n x.carried),
     (37, 1, b2n x.rev), (48, 16, x.nseg), (64, 16, x.kStart), (80, 16, x.boundary.getD 0xFFFF),
     (96, 32, (l.map (·.lambda)).getD 0)],
   packW [(0, 32, s.renderLead), (32, 32, s.contiguousLead), (64, 64, s.leadNs s.contiguousLead)],
   packW [(0, 32, s.readyCount), (32, 32, s.awaitCount), (64, 32, s.unavailCount), (96, 32, s.heldCount)],
   packW [(0, 64, s.freeSpace .a), (64, 64, s.freeSpace .b)],
   packW [(0, 64, x.canopyTime * 2 / 5), (64, 32, (l.map (·.gen)).getD 0), (96, 32, x.fgen)],
   packW [(0, 2, (l.map (·.band)).getD 0), (64, 64, match x.f0 with
     | some f => toU 64 f
     | none => 2 ^ 64 - 1)],
   packW [(0, 32, entries)]]

/-- STRIPE.STATUS. -/
def execStripeStatus (src : Src) (id : StripeId) (buf : Option BufRef) (s : State) : Answer :=
  .next (s.command src [(buf.all (outBuf · 0), ST.sysBuffer), ((s.stripe? id).isSome, ST.stripeUnknown)] fun s =>
    match s.stripe? id, buf with
    | none, _ => s
    | some x, none => s.ok src (s.statusWords x 0)
    | some x, some b =>
      s.sized src b x.nseg ((s.writeBuf b (x.segs.map Seg.entry)).ok src (s.statusWords x x.nseg)))

/-! ### The ledger (R444) -/

/-- A record as a read returns it: one that the ring has overwritten has OUTCOME 7 and its identifiers. -/
def Ledger.read (l : Ledger) (i : Nat) (ws : List Word) : List Word :=
  if i + 262144 < l.count then [packW [(0, 48, fld 47 0 (ws.getD 0 0)), (48, 3, 7)], 0, 0, 0] else ws

/-- The annex word in ring place `i`: the latest written there. -/
def Ledger.annexAt (l : Ledger) (i : Nat) : Word :=
  l.annex.getD (l.annexCount - 1 - (l.annexCount - 1 - i) % 524288) 0

/-- Records of a stripe's segments in log order. -/
def Ledger.find (l : Ledger) (id : StripeId) (first count : Nat) : List (List Word) :=
  (l.recs.zipIdx.filter fun (p : List Word × Nat) =>
    let w := p.1.getD 0 0
    fld 15 0 w == id.job.toNat && fld 31 16 w == id.stripe.toNat && decide (first ≤ fld 47 32 w) &&
      decide (fld 47 32 w < first + count)).map fun (p : List Word × Nat) => l.read p.2 p.1

/-- The annex words of the records read. -/
def Ledger.annexOf (l : Ledger) (rs : List (List Word)) : List Word :=
  (rs.map fun r => (List.range (fld 103 96 (r.getD 2 0))).map fun i =>
    l.annexAt ((fld 122 104 (r.getD 2 0) + i) % 524288)).flatten

/-- JOB.LEDGER.READ. -/
def execJobLedgerRead (src : Src) (id : StripeId) (first count : BitVec 16) (buf : BufRef) (s : State) : Answer :=
  .next (s.command src [(outBuf buf 0, ST.sysBuffer), ((s.stripe? id).isSome, ST.stripeUnknown)] fun s =>
    let rs := s.ledger.find id first.toNat count.toNat
    let an := s.ledger.annexOf rs
    let n := 4 * rs.length + an.length
    s.sized src buf n ((s.writeBuf buf (rs.flatten ++ an)).ok src
      [packW [(0, 32, rs.length), (32, 32, an.length), (64, 32, 16 * n)]]))

/-! ### JOB.ABORT and JOB.CLOSE -/

/-- The job's stream stops: its reader stands still, and the ring's channels are unbound (R383). -/
def State.stopStream (s : State) (job : BitVec 16) : State :=
  if s.jobs.parser.job = some job then s.unbindQueue 1 else s

/-- The ring is released once its reserved bursts are complete (R383). -/
def State.releaseRing (s : State) (job : BitVec 16) : State :=
  if s.jobs.parser.job = some job then
    (s.onJobs fun j => { j with parser := Parser.reset }).onAhead 1 fun _ => 0
  else s

/-- A job leaves with its stripes and their records. -/
def State.releaseJob (s : State) (job : BitVec 16) : State :=
  let ids := (s.jobs.stripes.filter (·.id.job == job)).map (·.id)
  (ids.foldl (fun t id => t.releaseStripe id) s).onJobs fun j => { j with jobs := j.jobs.filter (·.id != job) }

/-- The stripe of a job that is RUNNING or STOPPING. -/
def State.jobRuns (s : State) (job : BitVec 16) : Bool := s.run?.any fun r => r.2.id.job == job

/-- The abort waits: a stripe of the job runs, or a reserved burst of its ring is to complete. -/
def State.abortWaits (s : State) (job : BitVec 16) : Bool :=
  s.jobRuns job || (s.jobs.parser.job == some job && s.queueBusy 1)

/-- The abort completes once no stripe of the job runs and the ring is released. -/
def State.finishAbort (s0 : State) (job : BitVec 16) (via : Option Src) : State :=
  let s := s0.releaseRing job
  let own := (s.job? job).map (·.owner)
  let ev := { Event.of ST.jobAborted with job := job, nodef := nodeF 1 0 0, noder := nodeR 1 0 0 }
  let s1 := match via, own with
    | some v, _ => s.raiseVia (some v) (some job) ev
    | none, _ => s.raiseVia none (some job) ev
  s1.releaseJob job

/-- Stream and stripes stop: an armed stripe is disarmed, a running one stopped in the form named. -/
def State.beginAbort (s : State) (job : BitVec 16) (abort : Bool) : State :=
  let s1 := (s.stopStream job).onJob job fun j => { j with st := .aborting }
  let s2 := match s1.active? with
    | some x => if x.id.job == job && x.st == StripeSt.armed then s1.disarm x.id else s1
    | none => s1
  if s2.jobRuns job then s2.stopCause (if abort then 11 else 20) none none else s2

/-- JOB.ABORT. -/
def execJobAbort (src : Src) (job : BitVec 16) (abort : Bool) (s : State) : Answer :=
  .next (match s.job? job with
    | none => s.fail src ST.jobUnknown
    | some j =>
      if !j.mine src then s.fail src ST.sysNotOwner
      else
        let s1 := s.beginAbort job abort
        if s1.abortWaits job then s1.wait src (.jobAbort src job abort)
        else (s1.finishAbort job (some src)).ok src [])

/-- JOB.CLOSE. -/
def execJobClose (src : Src) (job : BitVec 16) (s : State) : Answer :=
  .next (match s.job? job with
    | none => s.fail src ST.jobUnknown
    | some j =>
      if !j.mine src then s.fail src ST.sysNotOwner
      else if j.st ≠ .ended ∨ s.jobs.stripes.any (fun x => x.id.job == job && x.st.active) = true then
        s.fail src ST.jobState
      else (s.releaseJob job).ok src [])

end Sys2Proof.Machine
end

