-- ==== Sys2Proof/Machine/BeamCmd.lean ====
section
/-!
DEFINITION. The BEAM commands, the history between runs, and the faults of gain, history and the duplicated
datapaths (chapters 8 and 9).
-/

namespace Sys2Proof.Machine

/-! ### Gain tables (R227, R228) -/

/-- Words of a gain table record. -/
abbrev gainWords : Nat := 32770

/-- The format part of R228: MAGIC, VERSION, SRC and GEN 0, reserved bits, CRC. -/
def gainFormatOk (ws : List Word) : Bool :=
  let w0 := ws.getD 0 0
  let wl := ws.getD 32769 0
  ws.length == gainWords && fld 15 0 w0 == 0x4754 && fld 23 16 w0 == 1 && fld 63 24 w0 == 0 &&
    fld 127 112 w0 == 0 && fld 127 64 wl == 0 && fld 63 0 wl == (crc64W (ws.take 32769)).toNat

/-- G[b] of every beam. -/
def gainValues (ws : List Word) : List Nat :=
  (((ws.drop 1).take 32768).map fun w => (List.range 8).map fun i => fld (16 * i + 15) (16 * i) w).flatten

/-- The first field out of range: all ones for ALPHA or TAU, else the first beam (R228). -/
def gainRangeBad (alpha tau : Nat) (g : List Nat) : Option Nat :=
  if 16384 < alpha || tau < 10000 || 10000000 < tau then some 0xFFFFFFFF
  else g.findIdx? fun v => v != 0 && decide (v < 16384)

/-- A table accepted into the pending bank with the next generation. -/
def Beam.accept (b : Beam) (src : BitVec 2) (alpha tau : Nat) (g : List Nat) : Beam :=
  { b with pendingT := some ⟨src, b.lastGen + 1, alpha, tau, g⟩, lastGen := b.lastGen + 1 }

/-- BEAM.GAIN.LOAD. -/
def execBeamGainLoad (src : Src) (buf : BufRef) (s : State) : Answer :=
  let ws := s.mem.words buf.space buf.addr.toNat gainWords
  .next (if !s.bufReads buf then s.fail src ST.sysBuffer
  else if !gainFormatOk ws then s.fail src ST.beamGainFormat
  else
    let alpha := fld 79 64 (ws.getD 0 0)
    let tau := fld 111 80 (ws.getD 0 0)
    match gainRangeBad alpha tau (gainValues ws) with
    | some b => s.respond src ST.beamGainRange b false []
    | none =>
      let s1 := s.onBeam (·.accept 0 alpha tau (gainValues ws))
      s1.ok src [packW [(0, 32, s1.beam.lastGen)]])

/-! ### The dead and stuck lists (R231, R242, R243) -/

/-- The first entry that names no beam. -/
def beamsBad (bs : List (BitVec 32)) : Option Nat := bs.findIdx? fun b => decide (262144 ≤ b.toNat)

/-- BEAM.DEAD.SET: DEFERRED to the next arm. -/
def execBeamDeadSet (src : Src) (bs : List (BitVec 32)) (s : State) : Answer :=
  .next (match beamsBad bs with
    | some i => s.respond src ST.beamBeamRange i false []
    | none => (s.onBeam fun b => { b with
        hostDead := b.hostDead ++ ((bs.map (·.toNat)).eraseDups.filter fun n => !b.hostDead.contains n) }).respond
          src ST.ok 0 true [])

/-- BEAM.DEAD.CLEAR: the beams named, or the whole host set. -/
def execBeamDeadClear (src : Src) (bs : Option (List (BitVec 32))) (s : State) : Answer :=
  .next (match bs.bind beamsBad with
    | some i => s.respond src ST.beamBeamRange i false []
    | none => (s.onBeam fun b => { b with
        hostDead := match bs with
          | none => []
          | some l => b.hostDead.filter fun n => !l.any (·.toNat == n) }).respond src ST.ok 0 true [])

/-- BEAM.STUCK.CLEAR: the head has reported the beam recovered. PERMIT_OUT is not asserted (R435). -/
def execBeamStuckClear (src : Src) (b : BitVec 18) (s : State) : Answer :=
  let n := b.toNat
  .next (s.command src [(s.beam.recovered.contains n, ST.beamNotRecovered)] fun s =>
    (s.onBeam fun x => { x with
      stuckOn := x.stuckOn.filter (· ≠ n)
      stuckOff := x.stuckOff.filter (· ≠ n)
      recovered := x.recovered.filter (· ≠ n) }).ok src [])

/-! ### History commands (R234, R241) -/

/-- The array as 262,144 entries of 32 bits. -/
def historyBytes (h : List (Nat × Nat)) : List Byte :=
  ((List.range 262144).map fun b => leBytes 4 (sparse h b)).flatten

/-- BEAM.HISTORY.READ: the array at the first flash of the stripe's latest run. -/
def execBeamHistoryRead (src : Src) (id : StripeId) (buf : BufRef) (s : State) : Answer :=
  .next (match s.beam.snap with
    | some (n, h) =>
      if n = id then (s.write buf.space buf.addr.toNat (historyBytes h)).ok src [] else s.fail src ST.beamNoSnapshot
    | none => s.fail src ST.beamNoSnapshot)

/-- BEAM.HISTORY.POLICY. -/
def execBeamHistoryPolicy (src : Src) (reqzero : Bool) (s : State) : Answer :=
  .next ((s.onBeam fun b => { b with reqZero := reqzero }).ok src [])

/-! ### The fit record (R204, R207) -/

/-- SIGMA in −63 to 63, and the bound of R207 for the active stripe. -/
def State.fitOk (s : State) (f : FitRec) : Bool :=
  decide (-63 ≤ fitSigma f) && decide (fitSigma f ≤ 63) && (match s.active? with
    | some x => x.offsetOk f
    | none => true)

/-- A seal: FGEN raised by 1, the event. -/
def State.sealFit (s : State) (via : Option Src) (f : FitRec) : State :=
  let g := s.beam.fit.fgen + 1
  (s.onBeam fun b => { b with fit := { f with fgen := g } }).raiseVia via none
    { beamEvent ST.beamFitSealed 0 0 0 g.toNat with d0 := 0, nodef := nodeF 7 0 0, noder := nodeR 2 1 0 }

/-- BEAM.FIT.SEAL. -/
def execBeamFitSeal (src : Src) (f : FitRec) (s : State) : Answer :=
  .next (s.command src [(s.fitOk f, ST.beamFitRange)] fun s =>
    let s1 := s.sealFit (some src) f
    s1.ok src [packW [(0, 32, s1.beam.fit.fgen.toNat)]])

/-- Time left of the enforced idle, µs. -/
def State.idleLeft (s : State) : Nat := ((s.beam.idleEnd.getD 0) - s.now + 2499) / 2500

/-- BEAM.STATUS. -/
def execBeamStatus (src : Src) (s : State) : Answer :=
  let b := s.beam
  .next (s.ok src (layoutBody 0x0408 ([(b.activeT.map (·.gen)).getD 0, (b.pendingT.map (·.gen)).getD 0,
    ((b.table.map (·.zero)).getD []).length, b.stuckOff.length, b.hostDead.length, b.groupDead.length,
    s.deadNow.length, b2n (!b.hist.isEmpty), s.idleLeft] ++ b.stuckOn)))

/-! ### History between runs (R234, R239, R240) -/

/-- τ of R234, ns. -/
def Beam.tau (b : Beam) : Nat := b.tauArm.getD 10000000

/-- 5τ in TIME cycles. -/
def Beam.fiveTau (b : Beam) : Nat := cycNs (5 * b.tau)

/-- A beams-target run has placed its first flash and has not ended, or a gain run fires its frames. -/
def State.beamsFlashing (s : State) : Bool :=
  (match s.run? with
    | some (r, x) => x.target == 0 && (r.placed || r.mPrev.isSome)
    | none => false) || s.meas.gain.any (·.mLast.isSome)

/-- HISTORY_IDLE_DECAY: one update with code 0 at `floor(m_L / 64) + 625 j`. -/
def execHistoryIdleDecay (s : State) : Answer :=
  .next (match s.beam.lastM with
    | none => s
    | some m =>
      if s.beamsFlashing || decide (s.now < m / 64 + 625 * (s.beam.decays + 1)) then s
      else s.onBeam fun b => { b with
        hist := histStep (lambdaOf 625 b.tau) b.hist []
        decays := b.decays + 1 })

/-- HISTORY_ZERO: 5τ without a beams-target flash. -/
def execHistoryZero (s : State) : Answer :=
  .next (match s.beam.lastM with
    | none => s
    | some m =>
      let pending := match s.run? with
        | some (r, x) => x.target == 0 && r.placed
        | none => false
      if pending || decide (s.now < m / 64 + s.beam.fiveTau) then s
      else s.onBeam fun b => { b with hist := [] })

/-- A beams-target flash is placed whose marker is still to come. -/
def State.beamsPlaced (s : State) : Bool :=
  match s.run? with
  | some (r, x) => x.target == 0 && r.placed
  | none => false

/-- Loss of history: every entry 0, and the enforced idle where a flash is recent (R240). -/
def State.loseHistory (s : State) : State :=
  let last := if s.beamsPlaced then some (64 * s.now) else s.beam.lastM
  s.onBeam fun b => { b with
    hist := []
    idleEnd := match last with
      | some m => if s.now < m / 64 + b.fiveTau then some (m / 64 + b.fiveTau) else b.idleEnd
      | none => b.idleEnd }

/-- A reset of the gain and history unit loses the history; a beams-target run halts (R240). No entry is named: b
reads all ones (DESIGN CHOICE, log entry 55). -/
def State.resetHistory (s : State) : State :=
  let t := s.loseHistory
  match s.run? with
  | some (r, x) =>
    if x.target = 0 then t.stopCause 10 (some { beamEvent ST.beamHistoryLost r.next 0xFFFFFFFF 0 0 with
      nodef := nodeF 9 0 0, noder := nodeR 2 4 regionLogic }) none
    else t
  | none => t

/-- Beams of the placed flash take code 0 (R216, R240, Table 9-7). -/
def State.blankBeams (s : State) (f : Nat → Bool) : State :=
  s.onPlay fun p => { p with run := p.run.map fun r => { r with
    flash := { r.flash with codes := r.flash.codes.filter fun c => !f c.1 } } }

/-- The flash that a fault of the beam path falls in; 0 outside a run. -/
def State.faultFlash (s : State) : Nat :=
  match s.run? with
  | some (r, _) => r.next
  | none => 0

/-- A fault of the beam path: a running stripe halts at rank 10 of Table 11-8; outside a run the event and
the fault log. -/
def State.beamFault (s : State) (e : Event) : State :=
  match s.run? with
  | some _ => s.stopCause 10 (some e) none
  | none => s.fault none e

/-- HISTORY_PARITY_ERROR: the history is lost; a beams-target run halts, with code 0 for the beam. 32
entries stand in one SRAM row (DEDUCED, log entry 23). -/
def execHistoryParityError (b : BitVec 18) (s : State) : Answer :=
  let n := b.toNat
  let row := nodeR 2 4 (n / 32)
  let e := { beamEvent ST.beamHistoryLost s.faultFlash n 0 0 with nodef := nodeF 9 1 0, noder := row }
  let beams := match s.run? with
    | some (_, x) => x.target == 0
    | none => false
  let s1 := s.loseHistory.quarantine row
  .next (if beams then
      (s1.blankBeams (· == n)).stopCause 10 (some e) none
    else s1.fault none e)

/-- ENFORCED_IDLE_END: STRIPE.GO no longer waits on it. -/
def execEnforcedIdleEnd (s : State) : Answer :=
  .next (match s.beam.idleEnd with
    | some t => if s.now < t then s else s.onBeam fun b => { b with idleEnd := none }
    | none => s)

/-- GAIN_PARITY_ERROR: code 0 for the beam, a halt, the active generation discarded (Table 9-7). -/
def execGainParityError (b : BitVec 18) (s : State) : Answer :=
  let n := b.toNat
  let gen := (s.beam.activeT.map (·.gen)).getD 0
  let e := { beamEvent ST.beamGainParity s.faultFlash n 0 gen with
    nodef := nodeF 9 0 0, noder := nodeR 2 4 (n / 32) }
  .next (if s.beam.activeT.isNone then s
  else
    (((s.onBeam fun x => { x with activeT := none }).onRepairRec (nodeR 2 4 (n / 32)) fun r =>
      { r with selfTest := true }).blankBeams (· == n)).beamFault e)

/-! ### The window and the datapaths (R216, R226) -/

/-- The beam row that reads a row slot in the placed flash (R213). -/
def Run.slotReader (r : Run) (rev : Bool) (slot : Nat) : Option Nat :=
  (List.range 512).find? fun u =>
    let e := expRow rev ((r.next : Int) - r.f0) u
    decide (0 ≤ e) && e.toNat % 8192 == slot

/-- The beams that read a word of a bank in a row slot in the placed flash: the four beam columns of the word, where
its class is that of the beam row that reads the slot (R213). -/
def Play.wordBeams (p : Play) (u bank slot word : Nat) : List Nat :=
  let i := 4 * word
  let j := 4 * (i / 512)
  if (List.range 4).any fun k => p.physical (winBank slot (j + k)) == bank && u % 16 == j + k then
    (List.range 4).map fun v => beamIx u (i % 512 + v)
  else []

/-- A read with a corrected error is counted: sixteen in one bank within 1 s mark it for replacement at the next arm
(R216). -/
def State.softError (s : State) (b : Nat) : State :=
  let old := (((s.play.bankErr.find? (·.1 == b)).map (·.2)).getD []).filter fun z => decide (s.now < z + cycS 1)
  let new := old ++ [s.now]
  let s1 := s.onPlay fun p => { p with bankErr := (p.bankErr.filter (·.1 != b)) ++ [(b, new)] }
  if 16 ≤ new.length ∧ s1.play.bankBad.contains b = false then
    (s1.onPlay fun p => { p with bankBad := p.bankBad ++ [b] }).quarantine (nodeR 2 2 b)
  else s1

/-- A read with an uncorrectable error: every beam that the word serves takes code 0; a halt; the physical bank is
replaced at the next arm (R216). -/
def State.windowLost (s : State) (n r word : Nat) : State :=
  let e := { beamEvent ST.beamWindowEcc s.faultFlash 0 (n * 2 ^ 32 + r * 2 ^ 48) 0 with
    nodef := nodeF 7 2 n, noder := nodeR 2 2 n }
  let s1 := (s.onPlay fun p => { p with
    bankBad := if p.bankBad.contains n then p.bankBad else p.bankBad ++ [n] }).quarantine (nodeR 2 2 n)
  match s.run? with
  | none => s1.fault none e
  | some (run, x) =>
    let hit := match run.slotReader x.rev r with
      | some u => s.play.wordBeams u n r word
      | none => []
    (s1.blankBeams fun b => hit.contains b).beamFault e

/-- WINDOW_ECC_UNCORRECTABLE: a window read with an error, which the operand says is corrected or not (R216). -/
def execWindowEccUncorrectable (bank : BitVec 12) (read : WindowRead) (s : State) : Answer :=
  .next (match read with
    | .corrected => s.softError bank.toNat
    | .uncorrectable slot word => s.windowLost bank.toNat slot.toNat word.toNat)

/-- A parity error of a deficit entry that the next placement reads: the entry counts as irreparable and is emptied;
its row, which holds 1,024 entries (DEDUCED, log entry 23), is tested again at idle (Table 8-8). -/
def State.deficitParity (s : State) (k : Nat) : State :=
  match s.run? with
  | some (r, x) => match r.storeGroup with
    | some g =>
      let n : Int := (r.next : Int) - r.f0
      let m := defStep n k
      let u := 8 * g + k % 4096 / 512
      let v := k % 4096 % 512
      if r.placed = false ∧ [256, 512, 768].contains (n - m) ∧ (relay x r s.play m u v).isSome then
        ((((s.onStripe x.id (·.account ⟨[], [], [], [], [defPixel x g m (k % 4096)]⟩)).onPlay fun p =>
          { p with deficit := sparseSet p.deficit k 0 }).onRepairRec (nodeR 2 3 (k / 1024)) fun z =>
            { z with selfTest := true }).faultSt x.id { beamEvent ST.beamDeficitParity r.next (beamIx u v) g 0 with
              nodef := nodeF 8 1 0, noder := nodeR 2 3 (k / 1024), dry := x.target != 0 })
      else s
    | none => s
  | none => s

/-- DATAPATH_MISMATCH: the interpolator, split and quantizer halt the run; fusion and speed raise a
position-integrity fault (R226, R253, R274, R281); a deficit entry is lost (Table 8-8). -/
def execDatapathMismatch (unit : Datapath) (s : State) : Answer :=
  let beam (f r : BitVec 32) : State :=
    (s.unitFault r).beamFault { beamEvent ST.beamDatapath s.faultFlash 0 0 0 with nodef := f, noder := r }
  let stage (i2 : Nat) (a : Axis) : State :=
    let r := nodeR 8 1 (axisNum a)
    (s.unitFault r).integrityFault { stageEvent ST.stageDatapath (axisNum a) (s.stage.axis a).x 0 s.now with
      nodef := nodeF 13 i2 (axisNum a), noder := r }
  .next (match unit with
    | .interpolator => beam (nodeF 7 1 0) (nodeR 2 1 0)
    | .split => beam (nodeF 8 0 0) (nodeR 2 3 regionLogic)
    | .quantizer => beam (nodeF 9 2 0) (nodeR 2 4 regionLogic)
    | .deficit k => s.deficitParity k.toNat
    | .fusion a => stage 0 a
    | .speed a => stage 1 a)

end Sys2Proof.Machine
end

