-- ==== Sys2Proof/Machine/Cams.lean ====
section
/-!
DEFINITION. Cameras: ports, settings and generations, the line pipeline, whole-frame drops, correction,
statistics, locator, spot sums and the result ring (chapter 13).
-/

namespace Sys2Proof.Machine

def State.cam (s : State) (n : Nat) : Cam := s.cams.cams.getD n Cam.reset

def State.onCam (s : State) (n : Nat) (f : Cam → Cam) : State :=
  s.onCams fun c => { c with cams := c.cams.modify n f }

/-- A CAM event (Table 17-6): port, frame, generation, cause or ID. -/
def camEvent (code : BitVec 16) (n frame gen cause : Nat) : Event :=
  { Event.of code with
    nodef := nodeF 14 0 n
    noder := nodeR 10 0 n
    d0 := BitVec.ofNat 64 n
    d1 := BitVec.ofNat 64 frame
    d2 := BitVec.ofNat 64 gen
    d3 := BitVec.ofNat 64 cause }

/-- No processing, and no frame that is not published (R332). -/
def Cam.stopped (c : Cam) : Bool := !c.running && c.work.isEmpty

/-! ### The record of Table 13-1 (R332) -/

def camRecOk (r : CamRec) : Bool :=
  let lw := r.linew.toNat
  let ln := r.lines.toNat
  decide (8 ≤ r.wbits.toNat ∧ r.wbits.toNat ≤ 16) && decide (100 ≤ r.mdiv.toNat ∧ r.mdiv.toNat ≤ 2000) &&
    r.i2cspeed != 3 && decide (64 ≤ lw ∧ lw ≤ 8192) && decide (64 ≤ ln ∧ ln ≤ 8192) &&
    decide (16 ≤ r.ww.toNat ∧ 16 ≤ r.wh.toNat) && decide (r.wx.toNat + r.ww.toNat ≤ lw) &&
    decide (r.wy.toNat + r.wh.toNat ≤ ln)

/-- CAM.CONFIG: a stopped port only. -/
def execCamConfig (src : Src) (cam : BitVec 2) (r : CamRec) (s : State) : Answer :=
  let n := cam.toNat
  .next (s.command src [((s.cam n).stopped, ST.camBusy), (camRecOk r, ST.camConfig)] fun s =>
    (s.onCam n fun c => { c with cfg := r }).ok src [])

/-! ### The result ring (R345, R346) -/

/-- Words in use: written and not read, and reserved. -/
def Cam.ringUsed (c : Cam) : Nat :=
  (c.ringWp + c.ringWords - c.ringRp.toNat % c.ringWords) % c.ringWords + (c.work.map (·.reserved)).sum

/-- Free words; one word is never used. -/
def Cam.ringFree (c : Cam) : Nat := c.ringWords - 1 - c.ringUsed

/-- Words written at the write pointer, wrapping. -/
def State.ringPut (s : State) (n : Nat) : List Word → State
  | [] => s
  | w :: ws =>
    let c := s.cam n
    State.ringPut ((s.write c.ringSpace (c.ringBase.toNat + 16 * c.ringWp) (wordBytes w)).onCam n fun c =>
      { c with ringWp := (c.ringWp + 1) % c.ringWords }) n ws

/-- Word 0 of a result record (Table 13-4). -/
def recordHead (type n nw frame gen info : Nat) : Word :=
  packW [(0, 8, type), (8, 2, n), (12, 20, nw), (32, 32, frame), (64, 32, gen), (96, 32, info)]

/-- Dropped frames at the head of the list leave, each with its DROP record. -/
def State.flushDrops (s : State) (n : Nat) : Nat → State
  | 0 => s
  | fuel + 1 =>
    match (s.cam n).work with
    | [] => s
    | f :: fs =>
      match f.drop with
      | none => s
      | some cause =>
        let s1 := if f.reserved = 0 then s
          else s.ringPut n [recordHead 6 n 1 f.num f.gen.toNat cause]
        State.flushDrops (s1.onCam n fun c => { c with work := fs }) n fuel

/-- A port whose count has run out, or that drains, stops once no frame is left (R340). -/
def State.settleCam (s : State) (n : Nat) : State :=
  s.onCam n fun c =>
    if c.work.isEmpty && (c.draining || c.left == some 0) then { c with running := false, draining := false } else c

/-- A CAM2 frame that a gain run waits for is taken again, up to 3 times (R366). -/
def State.gainRetry (s : State) (n num : Nat) : State :=
  match s.meas.gain with
  | none => s
  | some g =>
    if n ≠ 2 ∨ g.useFrame ≠ some num ∨ g.got = true then s
    else if g.retries < 3 then
      s.onMeas fun m => { m with gain := some { g with
        retries := g.retries + 1, useFrame := some ((s.cam 2).frames + 1) } }
    else s.endPair .camera

/-- A frame is dropped whole (R339). -/
def State.dropFrame (s : State) (n num cause : Nat) : State :=
  let s1 := s.onCam n fun c =>
    let f (w : CamFrame) : CamFrame := if w.num = num ∧ w.drop.isNone then
      { w with drop := some cause, reserved := min 1 w.reserved, rows := [] } else w
    { c with
      drops := satInc 64 c.drops
      lastDrop := cause
      ignore := c.ignore || (c.inFrame && c.frames == num)
      buf := c.buf.filter (·.frame != num)
      work := c.work.map f }
  let s2 := s1.onCams fun c => { c with locQueue := c.locQueue.filter (· != (n, num)) }
  ((s2.flushDrops n (s2.cam n).work.length).settleCam n).gainRetry n num

/-- The frame under FV, taken and not dropped. -/
def Cam.current (c : Cam) : Option CamFrame := c.work.find? fun f => f.num == c.frames && f.drop.isNone && !f.ended

/-- A cause drops the newest frame that is not published. -/
def State.dropNewest (s : State) (n cause : Nat) : State :=
  match (s.cam n).work.reverse.find? (·.drop.isNone) with
  | some f => s.dropFrame n f.num cause
  | none => s

/-! ### Clocks and discovery (R330, R334) -/

/-- A reading outside ±0.5 % of MCLK · PCLKRATIO / 256, or above 202 MHz. -/
def clockFault (r : CamRec) (khz : Nat) : Bool :=
  let want : Int := 10000000 * r.pclkratio.toNat
  let got : Int := khz * r.mdiv.toNat * 256
  r.mdiv == 0 || decide (5 * want < 1000 * (got - want).natAbs) || decide (202000 < khz)

/-- Bytes of an I2C address and register (R333). -/
def i2cReg (r : CamRec) (reg : Nat) : List Byte :=
  BitVec.ofNat 8 (2 * r.i2caddr.toNat) :: (if r.ra16 then [BitVec.ofNat 8 (reg / 256), BitVec.ofNat 8 reg]
    else [BitVec.ofNat 8 reg])

/-- The ID read of a port. -/
def State.readId (s : State) (n : Nat) : State :=
  let r := (s.cam n).cfg
  s.emit (.i2c n (i2cReg r r.idreg.toNat ++ [BitVec.ofNat 8 (2 * r.i2caddr.toNat + 1)]))

/-- Transfers that wait are answered when their port is absent (DESIGN CHOICE, log entry 27). -/
def State.failXfers (s : State) (n : Nat) : State :=
  let xs := (s.cam n).xfers
  xs.foldl (fun t x => (t.unwait x.src.mb).fail x.src ST.camAbsent) (s.onCam n fun c =>
    { c with xfers := [], xferOpen := false })

/-- A port departs. -/
def State.camDeparts (s : State) (n : Nat) : State :=
  let s1 := (s.onCam n fun c => { c with present := false, flight := none, healthBad := 0 }).failXfers n
  s1.raise (camEvent ST.camPortDeparted n (s.cam n).frames (s.cam n).curGen.toNat 0)

/-- PCLK_CHECK, every 1 ms: a reading speaks for its millisecond (DEDUCED, log entry 27). -/
def execPclkCheck (cam : BitVec 2) (khz : BitVec 32) (s : State) : Answer :=
  let n := cam.toNat
  let c := s.cam n
  let s0 := s.onCam n fun c => { c with khz := khz, pclkAt := some s.now }
  .next (if !s.due c.pclkAt (cycMs 1) then s
  else if clockFault c.cfg khz.toNat then
    let s1 := s0.onCam n fun c => { c with clockOk := false, idSeen := false }
    let s2 := match c.current with
      | some f => s1.dropFrame n f.num 5
      | none => s1
    if c.present then s2.camDeparts n else s2
  else
    let s1 := s0.onCam n fun c => { c with clockOk := true }
    if !c.present && !c.clockOk then s1.readId n else s1)

/-- A port arrives: the latest accepted slot goes out in its first blank (R337). -/
def State.camArrives (s : State) (n id : Nat) : State :=
  (s.onCam n fun c => { c with
    present := true, healthBad := 0, curGen := 0, genQueue := [], mixFrom := none
    pending := c.latest.map fun l => (l.1, l.2, 0) }).raise (camEvent ST.camPortArrived n (s.cam n).frames 0 id)

/-- The ID that a read returns, first byte highest. -/
def idOf (bs : List Byte) : Nat := bs.foldl (fun a b => 256 * a + b.toNat) 0

/-- The ID read of discovery ends. -/
def State.idRead (s : State) (n : Nat) (ack : Bool) (data : List Byte) : State :=
  let c := s.cam n
  let s1 := s.onCam n fun c => { c with idSeen := true }
  let id := idOf (data.take (c.cfg.idlen.toNat + 1))
  if !ack then s1
  else if c.cfg.idval = 0 ∨ c.cfg.idval.toNat = id then s1.camArrives n id
  else s1.raise (camEvent ST.camIdMismatch n c.frames 0 id)

/-- CAM_HEALTH_POLL, every 1 s in a vertical blank: the ID read goes out and is acknowledged or not; after three in a
row without acknowledgement the port departs. -/
def execCamHealthPoll (cam : BitVec 2) (ack : Bool) (s : State) : Answer :=
  let n := cam.toNat
  let c := s.cam n
  .next (if !c.present || c.inFrame || !s.due c.pollAt (cycS 1) then s
  else
    let s1 := (s.readId n).onCam n fun c => { c with
      pollAt := some s.now, healthBad := if ack then 0 else c.healthBad + 1 }
    if ack || decide (c.healthBad + 1 < 3) then s1
    else (s1.onCam n fun c => { c with idSeen := false, clockOk := false }).camDeparts n)

/-! ### Settings and transfers (R333, R335 to R337) -/

/-- CAM.SETTINGS: the pending slot replaced, the next generation. -/
def execCamSettings (src : Src) (cam : BitVec 2) (slot : SettingsSlot) (s : State) : Answer :=
  let n := cam.toNat
  .next (s.command src [(decide (1 ≤ slot.entries.length ∧ slot.entries.length ≤ 256), ST.camConfig)] fun s =>
    let g := (s.cam n).genAcc + 1
    (s.onCam n fun c => { c with genAcc := g, pending := some (slot, g, 0), latest := some (slot, g) }).ok src
      (layoutBody 0x0602 [g.toNat]))

/-- Bytes of a slot's writes, most significant byte first. -/
def slotBytes (r : CamRec) (slot : SettingsSlot) : List Byte :=
  (slot.entries.map fun e => i2cReg r e.1.toNat ++
    (if r.rd16 then [BitVec.ofNat 8 (e.2.toNat / 256), BitVec.ofNat 8 e.2.toNat] else [BitVec.ofNat 8 e.2.toNat])).flatten

/-- Bytes of a raw transfer. -/
def xferBytes (r : CamRec) (x : I2cXfer) : List Byte :=
  (if x.wdata.isEmpty then [] else BitVec.ofNat 8 (2 * r.i2caddr.toNat) :: x.wdata) ++
    (if x.rlen = 0 then [] else [BitVec.ofNat 8 (2 * r.i2caddr.toNat + 1)])

/-- The next queued transfer goes out; with none left the queue closes. -/
def State.nextXfer (s : State) (n : Nat) : State :=
  let c := s.cam n
  match c.xfers with
  | x :: _ => (s.onCam n fun c => { c with xferOpen := true }).emit (.i2c n (xferBytes c.cfg x))
  | [] => s.onCam n fun c => { c with xferOpen := false }

/-- CAM.I2C.XFER: queued for the next send window, or sent at once on a stopped port without FV. -/
def execCamI2cXfer (src : Src) (cam : BitVec 2) (wdata : List Byte) (rlen : BitVec 7) (s : State) : Answer :=
  let n := cam.toNat
  .next (s.command src [((s.cam n).present, ST.camAbsent)] fun s =>
    let c := s.cam n
    let s1 := (s.onCam n fun c => { c with xfers := c.xfers ++ [⟨src, wdata, rlen.toNat⟩] }).wait src
      (.camI2cXfer src cam wdata rlen)
    if c.stopped && !c.inFrame && c.flight.isNone && !c.xferOpen then s1.nextXfer n else s1)

/-- The send window opens at the end of frame k when a slot is pending; a stopped port without one sends its queued
transfers. -/
def State.openWindow (s : State) (n : Nat) : State :=
  let c := s.cam n
  match c.pending with
  | some p =>
    if c.present && c.flight.isNone && !c.xferOpen then
      (s.onCam n fun c => { c with flight := some p, pending := none, sendFrame := c.frames }).emit
        (.i2c n (slotBytes c.cfg p.1))
    else s
  | none => if c.present && c.stopped && c.flight.isNone && !c.xferOpen then s.nextXfer n else s

def minOpt (a : Option Nat) (b : Nat) : Option Nat := some (match a with
  | some x => min x b
  | none => b)

/-- The slot's send ends (R336, R337). -/
def State.slotSent (s : State) (n : Nat) (p : SettingsSlot × BitVec 32 × Nat) (ack : Bool) : State :=
  let c := s.cam n
  let first := c.sendFrame + 1 + c.cfg.lat.toNat
  let s1 :=
    if ack then
      let late := decide (c.sendFrame < c.frames)
      let s1 := s.onCam n fun c => { c with
        flight := none
        genSent := p.2.1
        genQueue := c.genQueue ++ [(if late then first + 1 else first, p.2.1)]
        mixFrom := if late then minOpt c.mixFrom first else c.mixFrom }
      if late then s1.raise { camEvent ST.camSettingsLate n c.frames p.2.1.toNat 0 with nodef := nodeF 14 4 n } else s1
    else
      let s1 := s.onCam n fun c => { c with
        flight := none
        mixFrom := minOpt c.mixFrom first
        pending := match c.pending with
          | some q => some q
          | none => if p.2.2 + 1 < 3 then some (p.1, p.2.1, p.2.2 + 1) else none }
      if p.2.2 + 1 < 3 then s1
      else s1.fault none { camEvent ST.camI2c n c.frames p.2.1.toNat 0 with nodef := nodeF 14 4 n }
  s1.nextXfer n

/-- A queued transfer ends and its command is answered. -/
def State.xferDone (s : State) (n : Nat) (x : I2cXfer) (ack : Bool) (data : List Byte) : State :=
  let s1 := (s.onCam n fun c => { c with xfers := c.xfers.drop 1 }).unwait x.src.mb
  let s2 := if ack then s1.ok x.src (layoutBody 0x0603 ((data.take x.rlen).map (·.toNat)))
    else s1.fail x.src ST.camI2c
  s2.nextXfer n

/-- I2C_TRANSFER_COMPLETE: the transfer under way on the port's bus ends. -/
def execI2cTransferComplete (cam : BitVec 2) (ack : Bool) (data : List Byte) (s : State) : Answer :=
  let n := cam.toNat
  let c := s.cam n
  .next (if !c.present then (if c.clockOk && !c.idSeen then s.idRead n ack data else s)
  else match c.flight with
    | some p => s.slotSent n p ack
    | none =>
      if c.xferOpen then match c.xfers with
        | x :: _ => s.xferDone n x ack data
        | [] => s
      else s)

/-! ### Pixel correction (R341) -/

/-- Node S(i, j) of the shading table. -/
def Cam.shade (c : Cam) (i j : Nat) : Nat := c.shading.getD (33 * j + i) 16384

/-- A defective pixel replaced from its nearest good neighbours. -/
def mendPixel (bad : Nat → Bool) (b : List Nat) (w x : Nat) : Nat :=
  let l := [1, 2, 3, 4].find? fun d => decide (d ≤ x) && !bad (x - d)
  let r := [1, 2, 3, 4].find? fun d => decide (x + d < w) && !bad (x + d)
  match l, r with
  | some i, some j => (b.getD (x - i) 0 + b.getD (x + j) 0 + 1) / 2
  | some i, none => b.getD (x - i) 0
  | none, some j => b.getD (x + j) 0
  | none, none => 0

/-- One corrected line. -/
def Cam.correct (c : Cam) (y : Nat) (ps : List Nat) : List Nat :=
  if !c.cfg.corren then ps
  else
    let w := c.cfg.linew.toNat
    let gx := (w + 31) / 32
    let gy := (c.cfg.lines.toNat + 31) / 32
    let raw := ps.map fun p => p - c.cfg.black.toNat
    let here := (c.defects.filter fun d => d.2 == y).map (·.1)
    let b := raw.zipIdx.map fun (p : Nat × Nat) =>
      if here.contains p.2 then mendPixel here.contains raw w p.2 else p.1
    b.zipIdx.map fun (p : Nat × Nat) =>
      let i := p.2 / gx
      let fx := p.2 - i * gx
      let j := y / gy
      let fy := y - j * gy
      let t := (gx - fx) * (gy - fy) * c.shade i j + fx * (gy - fy) * c.shade (i + 1) j
        + (gx - fx) * fy * c.shade i (j + 1) + fx * fy * c.shade (i + 1) (j + 1)
      min 65535 (rshr (p.1 * divr t (gx * gy) : Nat) 14).toNat

/-! ### Lines and the pipeline (R331, R338) -/

/-- A line of a port is eligible. -/
def Cam.eligible (c : Cam) : Option CamLine := c.buf.head?.filter (·.received)

/-- The pipeline takes the eligible line of the highest PRIO; among equals, cyclic order (R338). -/
def Cams.take (c : Cams) : Cams :=
  if c.busy.isSome then c
  else
    let order := [1, 2, 3].map fun i => (c.served + i) % 3
    let pick := order.foldl (fun (best : Option (Nat × Nat)) n =>
      let k := c.cams.getD n Cam.reset
      match k.eligible with
      | none => best
      | some _ => match best with
        | none => some (n, k.cfg.prio.toNat)
        | some b => if b.2 < k.cfg.prio.toNat then some (n, k.cfg.prio.toNat) else best) none
    match pick with
    | none => c
    | some (n, _) => match (c.cams.getD n Cam.reset).eligible with
      | some l => { c with busy := some (n, l.frame), served := n }
      | none => c

/-- CAM_LINE_START: an entry is taken, or the frame dropped (OVERFLOW, FORMAT). -/
def execCamLineStart (cam : BitVec 2) (s : State) : Answer :=
  let n := cam.toNat
  let c := s.cam n
  .next (if !c.present then s
  else if !c.inFrame then s.dropNewest n 2
  else match c.current with
    | none => s
    | some f =>
      if 4 ≤ c.buf.length then s.dropFrame n f.num 1
      else if c.cfg.lines.toNat ≤ f.lines then s.dropFrame n f.num 2
      else s.onCam n fun c => { c with
        buf := c.buf ++ [⟨f.num, false, []⟩]
        work := c.work.map fun w => if w.num = f.num then { w with lines := w.lines + 1 } else w })

/-- CAM_LINE_RECEIVED: WBITS data bits of each pixel; the line is eligible, or not well formed. -/
def execCamLineReceived (cam : BitVec 2) (pixels : List (BitVec 16)) (s : State) : Answer :=
  let n := cam.toNat
  let c := s.cam n
  .next (match c.current, c.buf.find? (fun l => !l.received) with
    | some f, some l =>
      if l.frame ≠ f.num then s
      else if pixels.length ≠ c.cfg.linew.toNat then s.dropFrame n f.num 2
      else
        let ps := pixels.map fun p => p.toNat % 2 ^ c.cfg.wbits.toNat
        let g (z : CamLine) : CamLine := if z.received then z else { z with received := true, pixels := ps }
        (s.onCam n fun c => { c with buf := c.buf.map g }).onCams (·.take)
    | _, _ => s)

/-- PIPELINE_LINE_COMPLETE: the corrected line joins its frame, its entry is freed, the next is taken. -/
def execPipelineLineComplete (s : State) : Answer :=
  .next (match s.cams.busy with
    | none => s
    | some (n, num) =>
      let s0 := s.onCams fun c => { c with busy := none }
      let c := s.cam n
      match c.eligible with
      | none => s0.onCams (·.take)
      | some l =>
        if l.frame ≠ num then s0.onCams (·.take)
        else
          let g (w : CamFrame) : CamFrame :=
            if w.num = num then { w with rows := w.rows ++ [c.correct w.rows.length l.pixels] } else w
          (s0.onCam n fun c => { c with buf := c.buf.drop 1, work := c.work.map g }).onCams (·.take))

/-! ### Statistics, locator, spots (R342 to R344) -/

/-- A corrected pixel of a frame. -/
def px (rows : List (List Nat)) (x y : Nat) : Nat := (rows.getD y []).getD x 0

/-- The pixels of a rectangle. -/
def rectPixels (rows : List (List Nat)) (x0 x1 y0 y1 : Nat) : List Nat :=
  ((upto y0 y1).map fun y => (upto x0 x1).map fun x => px rows x y).flatten

/-- Values packed `k` to a word, `b` bits each. -/
def packN (k b : Nat) (vs : List Nat) : List Word :=
  (List.range ((vs.length + k - 1) / k)).map fun i =>
    packW ((List.range k).map fun j => (b * j, b, vs.getD (k * i + j) 0))

/-- The histogram over the statistics window. -/
def Cam.histogram (c : Cam) (rows : List (List Nat)) : List Nat :=
  let r := c.cfg
  (rectPixels rows r.wx.toNat (r.wx.toNat + r.ww.toNat) r.wy.toNat (r.wy.toNat + r.wh.toNat)).foldl
    (fun h q => h.modify (q / 64) (· + 1)) (List.replicate 1024 0)

/-- The 256 zone averages. -/
def Cam.zones (c : Cam) (rows : List (List Nat)) : List Nat :=
  let r := c.cfg
  let edge (o w z : Nat) : Nat := o + z * w / 16
  (List.range 256).map fun z =>
    let ps := rectPixels rows (edge r.wx.toNat r.ww.toNat (z % 16)) (edge r.wx.toNat r.ww.toNat (z % 16 + 1))
      (edge r.wy.toNat r.wh.toNat (z / 16)) (edge r.wy.toNat r.wh.toNat (z / 16 + 1))
    divr ps.sum ps.length

/-- The sum of absolute differences of a template at an origin. -/
def sad (rows : List (List Nat)) (img : List (List Nat)) (x y : Nat) : Nat :=
  (img.zipIdx.map fun (r : List Nat × Nat) => (r.1.zipIdx.map fun (p : Nat × Nat) =>
    ((px rows (x + p.2) (y + r.2) : Int) - p.1).natAbs).sum).sum

/-- What a template search gives: EDGE, NOTFOUND, X, Y, SAD. -/
structure Located where
  edge : Bool
  lost : Bool
  x : Nat
  y : Nat
  sad : Nat
  deriving DecidableEq, Repr

/-- The sub-pixel offset along one axis: 0 with EDGE where a neighbour is missing or the curve is flat. -/
def subPixel (m z p : Option Nat) : Int × Bool :=
  match m, z, p with
  | some a, some b, some c =>
    let den : Int := (a : Int) - 2 * b + c
    if den ≤ 0 then (0, true) else (clampI (-32) 32 (rdiv (32 * ((a : Int) - c)) den), false)
  | _, _, _ => (0, true)

/-- One template's search (R343). -/
def Cam.locate (c : Cam) (rows : List (List Nat)) (t : Template) (fresh : Nat) : Located :=
  let r : Int := t.cfg.r.toNat
  let tw := t.cfg.tw.toNat
  let th := t.cfg.th.toNat
  let at' (dx dy : Int) : Option Nat :=
    let x := (t.cfg.sx.toNat : Int) + dx
    let y := (t.cfg.sy.toNat : Int) + dy
    if dx.natAbs ≤ t.cfg.r.toNat ∧ dy.natAbs ≤ t.cfg.r.toNat ∧ 0 ≤ x ∧ 0 ≤ y ∧ x.toNat + tw ≤ c.cfg.linew.toNat ∧
        y.toNat + th ≤ c.cfg.lines.toNat then some (sad rows t.img x.toNat y.toNat) else none
  let ds := (List.range (2 * t.cfg.r.toNat + 1)).map fun (i : Nat) => (i : Int) - r
  let best := (ds.map fun dy => ds.map fun dx => (dx, dy)).flatten.foldl
    (fun (b : Option (Int × Int × Nat)) d => match at' d.1 d.2 with
      | none => b
      | some v => match b with
        | none => some (d.1, d.2, v)
        | some w => if v < w.2.2 then some (d.1, d.2, v) else b) none
  match best with
  | none =>
    let z := Config.noMatch fresh
    ⟨true, true, fld 31 0 z, fld 63 32 z, fld 95 64 z⟩
  | some (dx, dy, v) =>
    let ox := subPixel (at' (dx - 1) dy) (some v) (at' (dx + 1) dy)
    let oy := subPixel (at' dx (dy - 1)) (some v) (at' dx (dy + 1))
    ⟨ox.2 || oy.2, decide (t.cfg.sadmax.toNat < v), toU 32 (64 * ((t.cfg.sx.toNat : Int) + dx) + ox.1),
      toU 32 (64 * ((t.cfg.sy.toNat : Int) + dy) + oy.1), v⟩

/-- The sum of spot `(i, j)`: its box, inside the frame. -/
def Cam.spot (c : Cam) (rows : List (List Nat)) (g : SpotGrid) (i j : Nat) : Nat :=
  let sg (b : BitVec 32) : Int := signedOf 32 b.toNat
  let cx := sg g.ox + i * sg g.aix + j * sg g.ajx
  let cy := sg g.oy + i * sg g.aiy + j * sg g.ajy
  let bw := g.bwm1.toNat + 1
  let bh := g.bhm1.toNat + 1
  let x0 := cx / 64 - (bw / 2 : Nat)
  let y0 := cy / 64 - (bh / 2 : Nat)
  ((List.range bh).map fun (dy : Nat) => ((List.range bw).map fun (dx : Nat) =>
    let x : Int := x0 + dx
    let y : Int := y0 + dy
    if 0 ≤ x ∧ x < c.cfg.linew.toNat ∧ 0 ≤ y ∧ y < c.cfg.lines.toNat then px rows x.toNat y.toNat else 0).sum).sum

/-- Every spot sum, index j · NI + i. -/
def Cam.spots (c : Cam) (rows : List (List Nat)) (g : SpotGrid) : List Nat :=
  let ni := g.nim1.toNat + 1
  (List.range (ni * (g.njm1.toNat + 1))).map fun k => c.spot rows g (k % ni) (k / ni) % 2 ^ 32

/-! ### Frames (R336, R339, R340, R345) -/

/-- Words of the result set of a frame taken now (R345). -/
def Cam.setWords (c : Cam) : Nat :=
  (if c.cfg.staten then 290 else 0) + (if c.cfg.locen then 3 * c.templates.length else 0) +
    (if c.cfg.spoten then (match c.grid with
      | some g => 1 + ((g.nim1.toNat + 1) * (g.njm1.toNat + 1) + 3) / 4
      | none => 0) else 0) + 4

/-- Frames whose regions hold the locator queue. -/
def Cams.regions (c : Cams) : Nat :=
  (c.cams.map fun k => (k.work.filter fun f => f.drop.isNone && !f.located).length).sum

/-- The generation in force at a frame (R336). -/
def Cam.generations (c : Cam) (num : Nat) : Cam :=
  c.genQueue.foldl (fun (k : Cam) e =>
    if e.1 ≤ num then { k with
      curGen := e.2
      mixFrom := k.mixFrom.filter fun m => decide (e.1 ≤ m)
      genQueue := k.genQueue.filter (· != e) } else k) c

/-- CAM_FRAME_START: the frame is counted, and taken where the port runs; RING and LOCATOR drop it. -/
def execCamFrameStart (cam : BitVec 2) (s : State) : Answer :=
  let n := cam.toNat
  let c0 := s.cam n
  .next (if !c0.present then s.onCam n fun c => { c with inFrame := true, ignore := true }
  else
    let num := c0.frames + 1
    let c := c0.generations num
    let take := c.running && !c.draining && c.left != some 0
    if !take then s.onCam n fun _ => { c with frames := num, inFrame := true, ignore := true }
    else
      let mixed := c.mixFrom.any (fun m => decide (m ≤ num)) ||
        (c.flight.isSome && decide (c.sendFrame + 1 + c.cfg.lat.toNat ≤ num))
      let need := if c.ringWords = 0 then 0 else c.setWords
      let short := decide (c.ringWords ≠ 0 ∧ c.ringFree < need)
      let loc := c.cfg.locen && !c.templates.isEmpty
      let full := loc && decide (4 ≤ s.cams.regions)
      let f : CamFrame := ⟨num, c.curGen, mixed, s.fwStamp, 0, [], false, 0, !loc,
        if short then min 1 c.ringFree else need, none, c.templates, c.grid⟩
      let s1 := (s.onCam n fun _ => { c with
        frames := num, inFrame := true, ignore := false, left := c.left.map (· - 1), work := c.work ++ [f] }).draw
      if short then s1.dropFrame n num 3 else if full then s1.dropFrame n num 4 else s1)

/-- The firing of a gain run changes at an inactive FV edge of CAM2 (R363). -/
def State.gainEdge (s : State) (n : Nat) : State :=
  match s.meas.gain with
  | some g =>
    if n = 2 ∧ 65 ≤ g.step ∧ g.step ≤ 72 ∧ g.useFrame.isNone ∧ g.got = false then
      s.onMeas fun m => { m with gain := some { g with fired := g.step, useFrame := some ((s.cam 2).frames + 2) } }
    else s
  | none => s

/-- CAM_FRAME_END: the frame is complete or not well formed; the send window opens. -/
def execCamFrameEnd (cam : BitVec 2) (s : State) : Answer :=
  let n := cam.toNat
  let c := s.cam n
  let s1 := s.onCam n fun c => { c with inFrame := false }
  let s2 := match c.current with
    | none => s1.gainRetry n c.frames
    | some f =>
      if f.lines ≠ c.cfg.lines.toNat ∨ c.buf.any (fun l => !l.received) then s1.dropFrame n f.num 2
      else
        let g (w : CamFrame) : CamFrame := if w.num = f.num then { w with ended := true, tend := s.fwStamp } else w
        let s2 := (s1.onCam n fun c => { c with work := c.work.map g }).draw
        if f.located then s2 else s2.onCams fun k => { k with locQueue := k.locQueue ++ [(n, f.num)] }
  .next ((s2.openWindow n).gainEdge n)

/-- LOCATOR_COMPLETE: the searches of the first frame of the queue, once the pipeline has finished it. -/
def execLocatorComplete (s : State) : Answer :=
  .next (match s.cams.locQueue with
    | [] => s
    | (n, num) :: rest =>
      let c := s.cam n
      if c.work.any (fun f => f.num == num && f.ended && f.rows.length == c.cfg.lines.toNat) then
        (s.onCam n fun c => { c with
          work := c.work.map fun w => if w.num = num then { w with located := true } else w }).onCams fun k =>
            { k with locQueue := rest }
      else s)

/-- The located templates of a frame. -/
def Cam.search (c : Cam) (f : CamFrame) (fresh : Nat) : List (Template × Located) :=
  if c.cfg.locen then f.tpls.map fun t => (t, c.locate f.rows t fresh) else []

/-- The result set of a frame (R345, R346). -/
def Cam.resultSet (c : Cam) (n : Nat) (f : CamFrame) (fresh : Nat) : List Word :=
  let h (type nw info : Nat) : Word := recordHead type n nw f.num f.gen.toNat info
  let st := if c.cfg.staten then
    (h 2 257 0 :: packN 4 32 (c.histogram f.rows)) ++ (h 3 33 0 :: packN 8 16 (c.zones f.rows)) else []
  let found := c.search f fresh
  let loc := (found.map fun (l : Template × Located) =>
    [h 4 3 (l.1.cfg.slot.toNat + 8 * b2n l.2.edge + 16 * b2n l.2.lost),
     packW [(0, 32, l.2.x), (32, 32, l.2.y), (64, 32, l.2.sad)], 0]).flatten
  let sp := if c.cfg.spoten then (match f.grid with
    | some g =>
      let vs := c.spots f.rows g
      h 5 (1 + (vs.length + 3) / 4) (g.nim1.toNat + 256 * g.njm1.toNat) :: packN 4 32 vs
    | none => []) else []
  let count := (if c.cfg.staten then 2 else 0) + found.length + (if sp.isEmpty then 0 else 1) + 1
  let head := [h 1 4 (b2n f.mixed + 2 * b2n (Config.clockRatio fresh) + 256 * (count % 256)),
    packW [(0, 64, f.tstart.toNat), (64, 64, f.tend.toNat)],
    packW [(0, 16, c.cfg.linew.toNat), (16, 16, c.cfg.lines.toNat), (32, 32, c.khz.toNat)]]
  let body := st ++ loc ++ sp ++ head
  body ++ [packW [(0, 64, (crc64W body).toNat)]]

/-- A fit record from its three words (Table 8-2). -/
def fitOfWords (w0 w1 w2 : Word) : FitRec :=
  let f (hi lo : Nat) (w : Word) : BitVec 32 := BitVec.ofNat 32 (fld hi lo w)
  ⟨f 31 0 w0, f 63 32 w0, BitVec.ofNat 8 (fld 71 64 w0), f 127 96 w0, f 31 0 w1, f 63 32 w1, f 95 64 w1,
    f 127 96 w1, f 31 0 w2, f 63 32 w2⟩

/-- The firmware's alignment procedure over the locator results of CAM0 or CAM1 (R204): a free value. -/
def State.align (s : State) (n : Nat) (found : List (Template × Located)) : State :=
  if 2 ≤ n ∨ found.isEmpty then s
  else match Config.alignment (n :: (found.map fun l => [l.1.cfg.slot.toNat, l.2.x, l.2.y, l.2.sad]).flatten)
      s.fresh with
    | none => s
    | some w =>
      let f := fitOfWords w.1 w.2.1 w.2.2
      if s.fitOk f then s.sealFit none f
      else s.raise { beamEvent ST.beamFitRange 0 0 0 f.fgen.toNat with
        d0 := 0, nodef := nodeF 7 0 0, noder := nodeR 2 1 0 }

/-- A CAM2 frame of a gain run (R363, R366): used, or taken again up to 3 times. -/
def State.gainFrame (s : State) (n num : Nat) (good : Bool) (spots : List Nat) : State :=
  match s.meas.gain with
  | none => s
  | some g =>
    if n ≠ 2 ∨ g.useFrame ≠ some num ∨ g.got = true then s
    else if good then
      let set := (g.step - 65) / 2
      let m : List (Nat × Int) := if g.step % 2 = 1 then []
        else (List.range 65536).filterMap fun k =>
          let b := 512 * (2 * (k / 256) + set % 2) + (2 * (k % 256) + set / 2)
          if g.dead.contains b then none
          else some (b, (spots.getD k 0 : Int) - (g.spotDark.getD k 0 : Nat))
      s.onMeas fun x => { x with gain := some { g with
        got := true
        spotDark := if g.step % 2 = 1 then spots else g.spotDark
        spots := g.spots ++ m } }
    else s.gainRetry n num

/-- The oldest frame that may be published: complete, searched, not dropped. -/
def Cam.ripe (c : Cam) : Option CamFrame :=
  c.work.head?.filter fun f => f.drop.isNone && f.ended && f.located && f.rows.length == c.cfg.lines.toNat

/-- CAM_FRAME_PUBLISH: the set is written, the write pointer advances, ST_CAM_FRAME is raised. -/
def execCamFramePublish (cam : BitVec 2) (s : State) : Answer :=
  let n := cam.toNat
  let c := s.cam n
  .next (match c.ripe with
    | none => s
    | some f =>
      let ws := c.resultSet n f s.fresh
      let s1 := s.onCam n fun c => { c with work := c.work.drop 1, published := c.published + 1 }
      let s2 := if c.ringWords = 0 then s1 else s1.ringPut n ws
      let s3 := ((s2.flushDrops n (s2.cam n).work.length).settleCam n).raise
        (camEvent ST.camFrame n f.num f.gen.toNat 0)
      let s4 := (s3.align n (c.search f s.fresh)).draw
      let good := match s4.meas.gain with
        | some g => !f.mixed && f.gen == g.camGen
        | none => true
      s4.gainFrame n f.num good (match f.grid with
        | some g => c.spots f.rows g
        | none => []))

/-- CAM_PARITY_ERROR: pipeline (0), locator (1) or spot unit (2) parity drops the frame in work (R348). -/
def execCamParityError (cam : BitVec 2) (unit : BitVec 2) (s : State) : Answer :=
  let n := cam.toNat
  let u := unit.toNat
  if 3 ≤ u then .next s
  else
    let r := nodeR 10 1 u
    let c := s.cam n
    let s1 := match c.work.find? (·.drop.isNone) with
      | some f => s.dropFrame n f.num 7
      | none => s
    .next ((s1.unitFault r).fault none { camEvent ST.camParity n c.frames c.curGen.toNat 7 with
      nodef := nodeF 14 (1 + u) 0, noder := r })

/-! ### CAM commands (R340, R341, R343 to R345, R347) -/

/-- CAM.START. -/
def execCamStart (src : Src) (cam : BitVec 2) (frames : BitVec 32) (s : State) : Answer :=
  let n := cam.toNat
  let c := s.cam n
  .next (s.command src [(c.present, ST.camAbsent),
      (decide (c.ringWords ≠ 0) || !(c.cfg.staten || c.cfg.locen || c.cfg.spoten), ST.camConfig),
      (!(s.regionFailed 10 1), ST.camParity)] fun s =>
    (s.onCam n fun c => { c with
      running := true, draining := false, left := if frames = 0 then none else some frames.toNat }).ok src [])

/-- CAM.STOP: abort drops the frame in progress; drain waits for its publication. -/
def execCamStop (src : Src) (cam : BitVec 2) (abort : Bool) (s : State) : Answer :=
  let n := cam.toNat
  let c := s.cam n
  .next (s.command src [(c.running, ST.camBusy)] fun s =>
    if abort then
      let s1 := s.onCam n fun c => { c with running := false, draining := false }
      ((c.work.filter (·.drop.isNone)).foldl (fun t f => t.dropFrame n f.num 6) s1).ok src []
    else
      let s1 := (s.onCam n fun c => { c with draining := true }).settleCam n
      if (s1.cam n).running then s1.wait src (.camStop src cam abort) else s1.ok src [])

/-- Entries in ascending (y, x). -/
def sortedDefects : List (Nat × Nat) → Bool
  | a :: b :: r => (decide (a.2 < b.2) || (a.2 == b.2 && decide (a.1 < b.1))) && sortedDefects (b :: r)
  | _ => true

/-- CAM.DEFECTS. -/
def execCamDefects (src : Src) (cam : BitVec 2) (buf : BufRef) (s : State) : Answer :=
  let n := cam.toNat
  let k := buf.len.toNat / 4
  let bs := s.mem.bytes buf.space buf.addr.toNat (4 * k)
  let ds := (List.range k).map fun i => (leNat ((bs.drop (4 * i)).take 2), leNat ((bs.drop (4 * i + 2)).take 2))
  .next (s.command src [(s.bufReads buf, ST.sysBuffer), ((s.cam n).stopped, ST.camBusy),
    (decide (k ≤ 4096) && sortedDefects ds, ST.camConfig)] fun s =>
    (s.onCam n fun c => { c with defects := ds }).ok src [])

/-- 16-bit values of a buffer, byte 0 first. -/
def State.read16 (s : State) (buf : BufRef) (k : Nat) : List Nat :=
  (List.range k).map fun i => leNat (s.mem.bytes buf.space (buf.addr.toNat + 2 * i) 2)

/-- CAM.SHADING: node S(i, j) at 33 j + i (DESIGN CHOICE, log entry 28). -/
def execCamShading (src : Src) (cam : BitVec 2) (buf : BufRef) (s : State) : Answer :=
  let n := cam.toNat
  let t := s.read16 buf 1089
  .next (s.command src [(s.bufReads buf, ST.sysBuffer), ((s.cam n).stopped, ST.camBusy)] fun s =>
    (s.onCam n fun c => { c with shading := t }).ok src [])

/-- Limits of a template (R343). -/
def templateOk (t : TemplateRec) : Bool :=
  decide (8 ≤ t.tw.toNat ∧ t.tw.toNat ≤ 64 ∧ 8 ≤ t.th.toNat ∧ t.th.toNat ≤ 64 ∧ 1 ≤ t.r.toNat ∧ t.r.toNat ≤ 32)

/-- Templates in ascending slot with one replaced. -/
def setTemplate (ts : List Template) (t : Template) : List Template :=
  ts.filter (fun u => u.cfg.slot < t.cfg.slot) ++ [t] ++ ts.filter (fun u => t.cfg.slot < u.cfg.slot)

/-- CAM.TEMPLATE: from the next active FV edge; the image holds 16 bits a pixel, row by row (DESIGN CHOICE,
log entry 28). -/
def execCamTemplate (src : Src) (cam : BitVec 2) (t : TemplateRec) (buf : BufRef) (s : State) : Answer :=
  let n := cam.toNat
  let tw := t.tw.toNat
  let vs := s.read16 buf (tw * t.th.toNat)
  let img := (List.range t.th.toNat).map fun j => (vs.drop (tw * j)).take tw
  .next (s.command src [(s.bufReads buf, ST.sysBuffer), (templateOk t, ST.camConfig)] fun s =>
    (s.onCam n fun c => { c with templates := setTemplate c.templates ⟨t, img⟩ }).ok src [])

/-- CAM.SPOTGRID: from the next active FV edge. -/
def execCamSpotgrid (src : Src) (cam : BitVec 2) (g : SpotGrid) (s : State) : Answer :=
  .next ((s.onCam cam.toNat fun c => { c with grid := some g }).ok src [])

/-- CAM.RING: pointers 0. -/
def State.setRing (s : State) (src : Src) (n : Nat) (buf : BufRef) : State :=
  ((s.onAhead (n + 2) fun _ => 0).onCam n fun c => { c with
    ringBase := buf.addr, ringSpace := buf.space, ringWords := buf.len.toNat / 16, ringWp := 0, ringRp := 0 }).ok src []

/-- CAM.RING: the queue of the ring is reset, which waits for its reserved bursts (R383). -/
def execCamRing (src : Src) (cam : BitVec 2) (buf : BufRef) (s : State) : Answer :=
  let n := cam.toNat
  .next (s.command src [((s.cam n).stopped, ST.camBusy)] fun s =>
    let s1 := s.unbindQueue (n + 2)
    if s1.queueBusy (n + 2) then s1.wait src (.camRing src cam buf) else s1.setRing src n buf)

/-- CAM.STATUS (Table 13-6). -/
def Cam.status (c : Cam) : Nat :=
  b2n c.present + 2 * b2n c.running + 4 * b2n c.inFrame + 8 * b2n c.flight.isSome + 16 * c.buf.length +
    128 * b2n (c.mixFrom.any fun m => decide (m ≤ c.frames)) + 256 * c.lastDrop

/-- The registers of a port (R347). -/
def Cam.regs (c : Cam) : List Nat :=
  [c.status, c.frames % 2 ^ 32 + 2 ^ 32 * (c.published % 2 ^ 32), c.drops, c.genAcc.toNat + 2 ^ 32 * c.genSent.toNat,
    c.khz.toNat, c.ringWp, c.ringRp.toNat]

/-- CAM.STATUS command: the port's registers. -/
def execCamStatus (src : Src) (cam : BitVec 2) (s : State) : Answer :=
  .next (s.ok src (layoutBody 0x060B (s.cam cam.toNat).regs))

end Sys2Proof.Machine
end

