-- ==== Sys2Proof/Machine/Meas.lean ====
section
/-!
DEFINITION. Beam-current samples, acquisitions, temperature inputs, monitors, trim runs and the gain loop
(chapter 14).
-/

namespace Sys2Proof.Machine

/-- No stripe is ARMED, RUNNING or STOPPING. -/
def State.idle (s : State) : Bool := s.active?.isNone

/-! ### Trim items (Table 14-4, Table 14-9) -/

/-- The BC channel of an item: offset and gain, channel by channel in range order (DESIGN CHOICE, log entry
29). -/
def itemChannel (k : Nat) : Option Nat := if k < 64 then some (k % 32 / 4) else none

/-- Monitor converter offset and gain, and the delay-line reference. -/
def coupledItem (k : Nat) : Bool := decide (68 ≤ k)

def Meas.item (m : Meas) (k : Nat) : Trim := m.items.getD k Trim.reset

def State.onItem (s : State) (k : Nat) (f : Trim → Trim) : State :=
  s.onMeas fun m => { m with items := m.items.modify k f }

/-- A trim run is in progress on a BC channel, an RTD channel, the monitor converter. -/
def Meas.trimming (m : Meas) (n : Nat) : Bool :=
  (List.range 64).any fun k => itemChannel k == some n && (m.item k).running
def Meas.rtdTrimming (m : Meas) (n : Nat) : Bool := (m.item (64 + n)).running
def Meas.monTrimming (m : Meas) : Bool := (m.item 68).running || (m.item 69).running

/-! ### Beam-current samples (R349 to R352) -/

/-- A channel takes a range; a change opens 20 settling samples (R351). -/
def Meas.setRange (m : Meas) (n : Nat) (r : BitVec 2) : Meas :=
  if m.bcRange.getD n 0 = r then m
  else { m with bcRange := m.bcRange.set n r, bcSettle := m.bcSettle.set n 20 }

/-- Channels of a mask, ascending. -/
def maskChannels (mask : BitVec 8) : List Nat := (List.range 8).filter fun n => mask.getLsbD n

/-- The range of a channel in a descriptor. -/
def acqRange (d : AcqDesc) (n : Nat) : BitVec 2 := BitVec.ofNat 2 (d.range.toNat / 4 ^ n)

/-- The least code and the greatest; beyond them a sample saturates with OVR (R350). -/
abbrev codeMax : Int := 8388607

/-- Full scale in fA (Table 14-1). -/
def fullScale (r : BitVec 2) : Int := 10 ^ (7 + r.toNat)

/-- A sample's current in 1/256 fA (R350). -/
def current (x : Int) (r : BitVec 2) : Int := rdiv (x * fullScale r) 32768

/-- One channel's sample. -/
structure Sample where
  code : Int
  range : BitVec 2
  ovr : Bool
  settling : Bool
  deriving DecidableEq, Repr

/-- The sample of channel `n` from its raw code. -/
def Meas.sample (m : Meas) (n : Nat) (x : Int) : Sample :=
  ⟨clampI (-codeMax) codeMax x, m.bcRange.getD n 0, decide (codeMax < x ∨ x < -codeMax),
    decide (0 < m.bcSettle.getD n 0)⟩

/-- Low 28 bits of an entry and of CAL.BC[n]: code, range, OVR, SETTLING. -/
def Sample.bits (x : Sample) : Nat :=
  toU 24 x.code + 2 ^ 24 * x.range.toNat + 2 ^ 26 * b2n x.ovr + 2 ^ 27 * b2n x.settling

/-- A sample joins a summary; SETTLING samples are left out (R351). -/
def addSample (a : Option (Int × Int × Int × Nat)) (x : Sample) : Option (Int × Int × Int × Nat) :=
  if x.settling then a
  else some (match a with
    | none => (x.code, x.code, x.code, b2n x.ovr)
    | some v => (min v.1 x.code, max v.2.1 x.code, v.2.2.1 + x.code, min 65535 (v.2.2.2 + b2n x.ovr)))

/-- One instant of an acquisition: an entry per channel, four per word (R352). -/
def State.acquire (s : State) (xs : List Sample) (a : Acq) : State × Acq :=
  let chs := maskChannels a.desc.chmask
  let due := decide (a.desc.tstart = 0 ∨ a.desc.tstart.toNat ≤ s.now / 25000 * 25000) && decide (a.taken < a.desc.count.toNat) &&
    !chs.any s.meas.trimming
  if !due then (s, a)
  else
    let here := chs.map fun n => xs.getD n ⟨0, 0, false, false⟩
    let s1 := if a.desc.bufAddr = 0 then s
      else s.write a.desc.bufSpace (a.desc.bufAddr.toNat + 4 * chs.length * a.taken)
        ((here.map fun x => leBytes 4 x.bits).flatten)
    (s1, { a with taken := a.taken + 1, sums := (a.sums.zip here).map fun p => addSample p.1 p.2 })

/-- Every acquisition takes the instant. -/
def State.acquireAll (s : State) (xs : List Sample) : State :=
  s.meas.acqs.foldl (fun (t : State) a =>
    let r := t.acquire xs a
    r.1.onMeas fun m => { m with acqs := m.acqs ++ [r.2] }) (s.onMeas fun m => { m with acqs := [] })

/-- The cup sample of a gain run: waits, then the mean; OVR ends the pair (R363). -/
def State.cupSample (s : State) (xs : List Sample) : State :=
  match s.meas.gain with
  | none => s
  | some g =>
    let x := xs.getD g.policy.cupch.toNat ⟨0, 0, false, false⟩
    if 64 < g.step ∨ x.settling = true ∨ g.policy.mcup.toNat ≤ g.cupN then s
    else if x.ovr then s.endPair .cupRange
    else if 0 < g.wait then s.onMeas fun m => { m with gain := some { g with wait := g.wait - 1 } }
    else s.onMeas fun m => { m with gain := some { g with cupN := g.cupN + 1, cupSum := g.cupSum + current x.code x.range } }

/-- CAL.BC[n] after a sample; a channel in a trim run, or one whose converter has failed, holds its value with STALE
(R357, Table 14-10). -/
def Meas.latch (m : Meas) (t : Nat) (out : Nat → Bool) (xs : List Sample) : Meas :=
  { m with
    bcAt := t / 25000
    bc := m.bc.zipIdx.map fun (p : BitVec 64 × Nat) =>
      if m.trimming p.2 || out p.2 then p.1 ||| 0x10000000#64
      else BitVec.ofNat 64 ((xs.getD p.2 ⟨0, 0, false, false⟩).bits + 2 ^ 32 * (t / 2 ^ 15 % 2 ^ 32))
    bcSettle := m.bcSettle.map (· - 1) }

/-- An input or converter of the measurement front end is out of service: its outputs are STALE (Table 14-10). -/
def State.frontEndOut (s : State) (n : Nat) : Bool := s.rstate (nodeR 9 0 n) != .inService

/-- BC_SAMPLE: all eight channels end a sample, once the counter has reached a further multiple of 25,000 (R350). -/
def execBcSample (codes : List Int) (s : State) : Answer :=
  let xs := (List.range 8).map fun n => s.meas.sample n (codes.getD n 0)
  let t := s.now / 25000 * 25000
  .next (if s.now / 25000 ≤ s.meas.bcAt then s
    else ((s.acquireAll xs).onMeas (·.latch t s.frontEndOut xs)).cupSample xs)

/-- CAL.ACQUIRE (R352). -/
def execCalAcquire (src : Src) (d : AcqDesc) (s : State) : Answer :=
  let chs := maskChannels d.chmask
  let busy := chs.any (fun n => s.meas.acqs.any (·.desc.chmask.getLsbD n)) ||
    s.meas.gain.any (fun g => chs.contains g.policy.cupch.toNat)
  let ok := decide (1 ≤ d.count.toNat ∧ d.count.toNat ≤ 2 ^ 24) && d.chmask != 0 &&
    (d.bufAddr == 0 || (rangeOk d.bufSpace d.bufAddr.toNat d.bufLen.toNat &&
      decide (4 * chs.length * d.count.toNat ≤ d.bufLen.toNat)))
  .next (s.command src [(!busy, ST.calBusy), (ok, ST.calDescriptor)] fun s =>
    (s.onMeas fun m =>
      let m1 := chs.foldl (fun (m : Meas) n => m.setRange n (acqRange d n)) m
      { m1 with acqs := m1.acqs ++ [⟨src, d, 0, chs.map fun _ => none⟩] }).wait src (.calAcquire src d))

/-- The summary word of a channel (Table 14-2). -/
def summaryWord (fresh : Nat) : Option (Int × Int × Int × Nat) → Word
  | some v => packW [(0, 24, toU 24 v.1), (24, 24, toU 24 v.2.1), (48, 64, toU 64 v.2.2.1), (112, 16, v.2.2.2)]
  | none => (Config.emptySummary fresh).setWidth 128

/-- ACQUISITION_COMPLETE: the last sample is taken, or a converter's parity fails (Table 14-10). -/
def execAcquisitionComplete (mb : BitVec 4) (parity : Bool) (s : State) : Answer :=
  .next (match s.meas.acqs.find? (·.src.mb == mb) with
    | none => s
    | some a =>
      let s1 := (s.onMeas fun m => { m with acqs := m.acqs.filter (·.src.mb != mb) }).unwait mb
      if parity then
        let n := (maskChannels a.desc.chmask).headD 0
        let s2 := s1.onMeas fun m => { m with bc := m.bc.modify n (· ||| 0x10000000#64) }
        ((s2.unitFault (nodeR 9 0 n)).fault none { calEvent ST.calParity n 0 0 0 with
          nodef := nodeF 15 0 n, noder := nodeR 9 0 n }).fail a.src ST.calParity
      else if a.desc.count.toNat ≤ a.taken then (s1.ok a.src (a.sums.map (summaryWord s.fresh))).draw
      else s)

/-! ### Temperature inputs (R353, R354) -/

/-- R(n/32 °C) of IEC 60751 for 1,000 Ω, in mΩ · 10^9 · 2^20 (R353). -/
def rtdScaled (n : Int) : Int :=
  10 ^ 15 * 2 ^ 20 + 3908300000000 * n * 2 ^ 15 - 577500000 * n ^ 2 * 2 ^ 10 -
    (if n < 0 then 4183 * (n - 3200) * n ^ 3 else 0)

/-- The greatest `k` with R((2k − 1)/32 °C) at most the resistance, by bisection above `lo`. -/
def rtdSearch (r : Int) : Nat → Int → Int
  | 0, lo => lo
  | k + 1, lo => rtdSearch r k (if rtdScaled (2 * (lo + 2 ^ k) - 1) ≤ r then lo + 2 ^ k else lo)

/-- Temperature in 1/16 °C, rounded half away from zero. -/
def rtdTemp (mohm : Nat) : Int :=
  let r : Int := mohm * 10 ^ 9 * 2 ^ 20
  let k := rtdSearch r 15 (-3840)
  if k ≤ 0 ∧ rtdScaled (2 * k - 1) = r then k - 1 else k

/-- RTD_CONVERSION, every 10 ms: reading, resistance, OPEN and the limits; a trim run, or an input that has failed,
holds the last value. An input that stays open raises its event once (DESIGN CHOICE, log entry 62). -/
def execRtdConversion (ch : BitVec 2) (mohm : BitVec 32) (s : State) : Answer :=
  let n := ch.toNat
  let old := s.meas.ts.getD n 0
  let set (w : BitVec 64) (out : Bool) : State := s.onMeas fun m => { m with
    ts := m.ts.set n w, tsOut := m.tsOut.set n out, tsAt := m.tsAt.set n (some s.now) }
  let was := s.meas.tsOut.getD n false
  let ev (t : State) (code : BitVec 16) (temp : Int) : State :=
    t.raise { calEvent code n temp mohm.toNat 0 with nodef := nodeF 15 1 n, noder := nodeR 9 0 (8 + n) }
  .next (if !s.due (s.meas.tsAt.getD n none) (cycMs 10) then s
  else if s.meas.rtdTrimming n || s.frontEndOut (8 + n) then set (old ||| 0x1000000000000#64) was
  else if 4000000 < mohm.toNat ∨ mohm.toNat < 500000 then
    let s1 := set (BitVec.ofNat 64 (0x8000 + 2 ^ 16 * mohm.toNat + 2 ^ 49)) was
    if bitAt 49 old then s1
    else s1.fault none { calEvent ST.calRtdOpen n 0 mohm.toNat 0 with nodef := nodeF 15 1 n, noder := nodeR 9 0 (8 + n) }
  else
    let t := rtdTemp mohm.toNat
    let lim := s.meas.tsLimits.getD n (0, 0)
    let out := decide (t < lim.1 ∨ lim.2 < t)
    let s1 := set (BitVec.ofNat 64 (toU 16 t + 2 ^ 16 * mohm.toNat)) out
    if out == was then s1 else ev s1 ST.calTsLimit t)

/-- CAL.TS.LIMITS. -/
def execCalTsLimits (src : Src) (limits : List (BitVec 16 × BitVec 16)) (s : State) : Answer :=
  let l : List (Int × Int) := limits.map fun p => (signedOf 16 p.1.toNat, signedOf 16 p.2.toNat)
  .next (s.command src [(l.all fun p => decide (p.1 ≤ p.2), ST.calConfig)] fun s =>
    (s.onMeas fun m => { m with tsLimits := (List.range 4).map fun n => l.getD n (m.tsLimits.getD n (0, 0)) }).ok src [])

/-- Ranges of VIN and of the rails at points 0 to 7, in mV (R449, Table 19-1, Table 14-3). -/
def supplyRanges : List (Int × Int) :=
  [(10800, 13200), (720, 780), (720, 780), (1067, 1133), (1067, 1133), (873, 927), (825, 875), (1746, 1854)]

/-- VIN and every rail read within range. -/
def supplyInRange (values : List (BitVec 16)) : Bool :=
  supplyRanges.zipIdx.all fun (p : (Int × Int) × Nat) =>
    let v := (values.getD p.2 0).toInt
    decide (p.1.1 ≤ v ∧ v ≤ p.1.2)

/-- MONITOR_READ, every 1 ms: every point of Table 14-3; points 20 to 31 read 0. A supply out of range is noted (R441, R451). -/
def execMonitorRead (values : List (BitVec 16)) (s : State) : Answer :=
  let s0 := if supplyInRange values then s else s.onPower fun p => { p with supplyBad := p.supplyBad.map fun _ => s.now }
  .next (if !s.due s.meas.monAt (cycMs 1) then s else s0.onMeas fun m => { m with
    monAt := some s.now
    mon := m.mon.zipIdx.map fun (p : BitVec 64 × Nat) =>
      if 20 ≤ p.2 then 0
      else if m.monTrimming || s.frontEndOut 12 then p.1 ||| 0x10000#64
      else ((values.getD p.2 0).setWidth 64) })

/-! ### Trim runs (R356 to R359, R367) -/

/-- A run of an item may start now (R357). -/
def State.mayTrim (s : State) (k : Nat) : Bool :=
  if coupledItem k then s.idle
  else !(itemChannel k).any fun n => s.meas.acqs.any (·.desc.chmask.getLsbD n)

/-- Items a CAL.TRIM.RUN names: one, or 0xFF for all. -/
def trimItems (item : BitVec 8) : List Nat := if item = 0xFF then List.range 71 else [item.toNat]

/-- CAL.TRIM.RUN: the runs start; the command waits for them. -/
def execCalTrimRun (src : Src) (item : BitVec 8) (s : State) : Answer :=
  let ks := trimItems item
  .next (s.command src [(decide (item = 0xFF ∨ item.toNat < 71), ST.sysField),
      (ks.all s.mayTrim && ks.all (fun k => !(s.meas.item k).running) && s.meas.trimWait.isNone, ST.calBusy)] fun s =>
    ((ks.foldl (fun (t : State) k => t.onItem k fun x => { x with running := true, restart := false }) s).onMeas fun m =>
      { m with trimWait := some src, trimSet := ks, trimAcc := 0, trimBad := 0 }).wait src (.calTrimRun src item))

/-- AUTO_TRIM_START: TRIMPER minutes have passed; what may not start now starts later. -/
def execAutoTrimStart (s : State) : Answer :=
  let per := s.meas.policy.trimper.toNat
  .next (if per = 0 ∨ s.now < s.meas.lastAuto + cycS (60 * per) then s
  else
    ((List.range 71).foldl (fun (t : State) k =>
      if (s.meas.item k).running then t
      else if s.mayTrim k then t.onItem k fun x => { x with running := true, restart := false }
      else if coupledItem k then t.onItem k fun x => { x with restart := true }
      else t) s).onMeas fun m => { m with lastAuto := s.now })

/-- Agreement tolerances of Table 14-4, in the units in which an item's results are given: 1/256 LSB for a BC
offset, ppm for BC gain and RTD excitation, µV for the monitor, fs for the delay line. -/
def trimTolerance (k : Nat) : Nat :=
  if k < 32 then 512 else if k < 68 then 100 else 500

/-- The coefficient set as its record: the 71 accepted coefficients, those that are pending included (R359). -/
def Meas.coefs (m : Meas) : List (BitVec 16) := m.items.map fun t => (t.pend.map (·.1)).getD t.coef

/-- The calibration records are written, one copy and then the other (R359). -/
def State.writeNv (s : State) (ok : Bool) : State :=
  let next := s.meas.nvNext
  if ok then s.onMeas fun m =>
    if next then { m with nvB := m.coefs, nvNext := false } else { m with nvA := m.coefs, nvNext := true }
  else
    (s.sectorFails (b2n next)).fault none { calEvent ST.calNv 0 0 0 0 with
      nodef := nodeF 22 1 0, noder := s.standIn 64 (nodeR 11 1 (b2n next)) }

/-- The waiting CAL.TRIM.RUN is answered once its runs have ended. -/
def State.trimAnswer (s : State) : State :=
  match s.meas.trimWait with
  | none => s
  | some src =>
    if s.meas.trimSet.any fun k => (s.meas.item k).running then s
    else
      let m := s.meas
      let s1 := (s.onMeas fun m => { m with trimWait := none, trimSet := [] }).unwait src.mb
      if m.trimBad = 0 then s1.ok src (layoutBody 0x0703 [m.trimAcc]) else s1.fail src m.trimBad

/-- The result of one item of the waiting command. -/
def Meas.trimResult (m : Meas) (k : Nat) (st : BitVec 16) : Meas :=
  if !m.trimSet.contains k then m
  else if st = 0 then { m with trimAcc := m.trimAcc + 1 }
  else { m with trimBad := if m.trimBad = 0 then st else m.trimBad }

/-- TRIM_RUN_COMPLETE: accepted, at the limit, or disagreeing (R358). -/
def execTrimRunComplete (item : BitVec 8) (inRange : Bool) (c1 c2 : BitVec 16) (r1 r2 : Int) (nvOk : Bool) (s : State) :
    Answer :=
  let k := item.toNat
  let t := s.meas.item k
  .next (if 71 ≤ k ∨ t.running = false then s
  else
    let bad (st : BitVec 16) : State :=
      (((s.onItem k fun x => { x with running := false, failed := true }).fault none (trimEvent st k r1 r2)).onMeas
        (·.trimResult k st)).trimAnswer
    if !inRange then bad ST.calTrimLimit
    else if trimTolerance k < (r1 - r2).natAbs then bad ST.calDisagree
    else
      let c : BitVec 16 := BitVec.ofNat 16 ((c1.toNat + c2.toNat + 1) / 2)
      let s1 := s.onItem k fun x => { x with
        coef := if s.idle then c else x.coef
        pend := if s.idle then none else some (c, r1, r2)
        prov := false, failed := false, running := false, accAt := some s.now }
      let s2 := if s.idle then s1.raise (trimEvent ST.calAccepted k r1 r2) else s1
      ((s2.writeNv nvOk).onMeas (·.trimResult k 0)).trimAnswer)

/-- AGEMAX_EXPIRY: an item becomes provisional again (R359). -/
def execAgemaxExpiry (item : BitVec 8) (s : State) : Answer :=
  let k := item.toNat
  let h := s.meas.policy.agemax.toNat
  .next (if h = 0 ∨ 71 ≤ k then s
  else match (s.meas.item k).accAt with
    | some t => if t + cycH h < s.now then s.onItem k fun x => { x with prov := true } else s
    | none => s)

/-- CAL.POLICY (R367). -/
def execCalPolicy (src : Src) (p : CalPolicy) (s : State) : Answer :=
  let ok := decide (1 ≤ p.ccal.toNat) && decide (10 ≤ p.mcup.toNat ∧ p.mcup.toNat ≤ 10000) &&
    decide (1 ≤ p.ibeam.toNat) && decide (p.alpha0.toNat ≤ 16384) &&
    decide (10000 ≤ p.tau0.toNat ∧ p.tau0.toNat ≤ 10000000)
  .next (s.command src [(ok, ST.calConfig)] fun s => (s.onMeas fun m => { m with policy := p }).ok src [])

/-- CAL.STATUS (Table 14-8). -/
def Meas.status (m : Meas) : Nat :=
  b2n (m.items.any (·.running)) + 2 * b2n m.gain.isSome + 4 * b2n (m.items.any (·.prov)) +
    8 * b2n (m.items.any (·.failed)) + 16 * b2n (m.items.any (·.pend.isSome))

/-- The registers of Table 14-7, in address order. -/
def Meas.regs (m : Meas) : List Nat :=
  m.status :: ((m.bc ++ m.ts ++ m.mon).map (·.toNat))

/-- CAL.STATUS command: registers and item states. -/
def execCalStatus (src : Src) (s : State) : Answer :=
  .next (s.ok src (layoutBody 0x0707 (s.meas.regs ++ s.meas.items.map fun t =>
    t.coef.toNat + 2 ^ 16 * b2n t.prov + 2 ^ 17 * b2n t.failed + 2 ^ 18 * b2n t.running + 2 ^ 19 * b2n t.pend.isSome)))

/-! ### The gain loop (R361 to R366) -/

/-- The first condition of R361 that fails, counted from 1; 0 for none. -/
def State.gainUnmet (s : State) : Nat :=
  let c := s.cam 2
  let still (a : AxisS) : Bool := a.hadPort && a.st == .still
  let cs := [s.idle && s.meas.gain.isNone,
    s.ref.permitIn && s.noBlock && !s.beam.idleEnd.any (fun t => decide (s.now < t)), s.beam.stuckOn.isEmpty,
    s.link.headPresent && s.plate.attached.isSome, c.present && c.cfg.spoten && decide (c.ringWords ≠ 0),
    still s.stage.axScan && still s.stage.axCross]
  match cs.findIdx? (!·) with
  | some i => i + 1
  | none => 0

/-- CAL.GAIN.RUN: MAPSET, the first run, PERMIT_OUT; the command waits for the pair. CAM2 processes frames
from here on (DESIGN CHOICE, log entry 30). -/
def execCalGainRun (src : Src) (grid : BeamGrid) (s : State) : Answer :=
  let u := s.gainUnmet
  .next (if u ≠ 0 then s.respond src ST.calPrecond u false []
  else
    let p := s.meas.policy
    let g : GainPair := ⟨src, grid, p, false, 0, 0, 0, 0, 0, [], 0, none, false, [], [], 0, 64 * (s.now + 5000), none, 0,
      (s.cam 2).curGen, s.deadNow, [], []⟩
    let s1 := (s.sendHead 0x02 (mapsetBody s.link.map)).onMeas fun m =>
      { m.setRange p.cupch.toNat p.cuprange with gain := some g }
    let s2 := s1.onCam 2 fun c => if c.running then c else { c with running := true, draining := false, left := none }
    let s3 := if s2.permitHolds then s2.onRef fun r => { r with permitOut := true } else s2
    s3.wait src (.calGainRun src grid))

/-- CAL.GAIN.ABORT: both forms end the pair as abort. -/
def execCalGainAbort (src : Src) (_abort : Bool) (s : State) : Answer := .next ((s.endPair .abort).ok src [])

/-- The spot grid of set P (R363). -/
def setGrid (g : BeamGrid) (p : Nat) : SpotGrid :=
  let k (n : Nat) : BitVec 32 := BitVec.ofNat 32 n
  ⟨g.ox + k (p % 2) * g.ux + k (p / 2) * g.vx, g.oy + k (p % 2) * g.uy + k (p / 2) * g.vy,
    k 2 * g.vx, k 2 * g.vy, k 2 * g.ux, k 2 * g.uy, 255, 255, g.bwm1, g.bhm1⟩

/-- Sample periods of ceil(5τ / 10 µs). -/
def settlePeriods (tau : Nat) : Nat := (5 * tau + 9999) / 10000

/-- The mean of a step, 1/256 fA (DESIGN CHOICE, log entry 30: rounded by rdiv). -/
def GainPair.mean (g : GainPair) : Int := rdiv g.cupSum (max 1 g.policy.mcup.toNat)

/-- Sum of S over the fired beams of each region. -/
def regionSums (spots : List (Nat × Int)) : List Int :=
  spots.foldl (fun (l : List Int) p => l.modify (regionOf p.1) (· + p.2)) (List.replicate 64 0)

/-- One beam's gain before its range is judged (R364). -/
def gainOf (alpha ibeam ccal : Nat) (i sb sr : Int) : Int :=
  let hcal := 65536 - rdiv (alpha * ccal : Nat) 64
  if i ≤ 0 ∨ sb ≤ 0 ∨ sr ≤ 0 then 0 else rdiv (2 ^ 37 * i * sb) (ibeam * ccal * sr * hcal)

/-- Gains of a run, and the fired beams that leave the range (R364). -/
def GainPair.gains (g : GainPair) (alpha : Nat) : List Nat × List Nat :=
  let sr := regionSums g.spots
  let raw := g.spots.map fun p => (p.1, gainOf alpha g.policy.ibeam.toNat g.policy.ccal.toNat
    (g.current.getD (regionOf p.1) 0) p.2 (sr.getD (regionOf p.1) 0))
  let good (v : Int) : Bool := decide (16384 ≤ v ∧ v ≤ 65535)
  let kept := raw.filter fun p => good p.2
  (kept.foldl (fun (l : List Nat) p => l.set p.1 p.2.toNat) (List.replicate 262144 0),
    (raw.filter fun p => !good p.2).map (·.1))

/-- Count and first beam of a list, as D3 of a CAL event. -/
def countFirst (bs : List Nat) : Nat := bs.length % 2 ^ 32 + 2 ^ 32 * (bs.foldl min (bs.headD 0))

/-- The next step of a run. -/
def State.gainNext (s : State) (g : GainPair) : State :=
  let put (t : State) (h : GainPair) : State := t.onMeas fun m => { m with gain := some h }
  let k := g.step + 1
  let clear := { g with step := k, wait := 0, cupSum := 0, cupN := 0, useFrame := none, got := false, retries := 0 }
  if g.step = 0 then
    put s { clear with dark := g.mean, fired := 1, wait := settlePeriods (s.gainParams g).2 }
  else if g.step < 64 then
    put s { clear with
      current := g.current ++ [g.mean - g.dark], fired := k, wait := settlePeriods (s.gainParams g).2 }
  else if g.step = 64 then
    (put s { clear with current := g.current ++ [g.mean - g.dark] }).onCam 2 fun c => { c with grid := some (setGrid g.grid 0) }
  else if g.step < 72 then
    let t := put s clear
    if k % 2 = 1 then t.onCam 2 fun c => { c with grid := some (setGrid g.grid ((k - 65) / 2)) } else t
  else if g.step = 72 then put s { clear with fired := 0 }
  else
    let r := g.gains (s.gainParams g).1
    let s1 := s.plateCommit
    let s2 := if r.2.isEmpty then s1
      else s1.raiseVia (some g.src) none (gainEvent ST.calBeamRange 0 0 (countFirst r.2))
    if g.second then put s2 { clear with out := r.1 }
    else put s2 { clear with step := 0, second := true, first := r.1, current := [], spots := [], fired := 0 }

/-- GAIN_RUN_STEP_COMPLETE: the samples or the frame of the step are in. -/
def execGainRunStepComplete (s : State) : Answer :=
  .next (match s.meas.gain with
    | none => s
    | some g =>
      if g.step ≤ 64 then (if g.policy.mcup.toNat ≤ g.cupN then s.gainNext g else s)
      else if g.step ≤ 72 then (if g.got then s.gainNext g else s)
      else if g.step = 73 then s.gainNext g
      else s)

/-- The two runs differ at a beam (R365). -/
def gainDiffers (a b : Nat) : Bool :=
  ((a == 0) != (b == 0)) || decide (a + b < 1000 * ((a : Int) - b).natAbs)

/-- GAIN_PAIR_END: the runs agree and a table goes to the pending bank, or they disagree. -/
def execGainPairEnd (s : State) : Answer :=
  .next (match s.meas.gain with
    | none => s
    | some g =>
      if g.step ≠ 74 then s
      else
        let pairs := g.first.zip g.out
        let bad := pairs.zipIdx.filterMap fun (p : (Nat × Nat) × Nat) =>
          if gainDiffers p.1.1 p.1.2 then some p.2 else none
        if bad.isEmpty then
          let gs := pairs.map fun p => (p.1 + p.2 + 1) / 2
          let ps := s.gainParams g
          let s1 := s.onBeam (·.accept 1 ps.1 ps.2 gs)
          let gen := s1.beam.lastGen
          let s2 := s1.raiseVia (some g.src) none (gainEvent ST.calAccepted gen 0 (gs.filter (· == 0)).length)
          s2.closePair g ST.ok (layoutBody 0x0704 [gen])
        else
          (s.raiseVia (some g.src) none (gainEvent ST.calDisagree 0 0 (countFirst bad))).closePair g ST.calDisagree [])

end Sys2Proof.Machine
end

