-- ==== Sys2Proof/Machine/Regs.lean ====
section
/-!
DEFINITION. The DEVREG space: check-value units, the channels' registers, and the read and the write of a
64-bit register (R7, R347, R368, R389, R392, R408, Table 7-4).
-/

namespace Sys2Proof.Machine

def State.dmaCh (s : State) (n : Nat) : Dma := s.dma.chans.getD n Dma.reset
def State.onCh (s : State) (n : Nat) (f : Dma → Dma) : State :=
  s.onDma fun d => { d with chans := d.chans.modify n f }
def State.cvu (s : State) (n : Nat) : Cvu := s.dma.cvus.getD n Cvu.reset
def State.onCvu (s : State) (n : Nat) (f : Cvu → Cvu) : State :=
  s.onDma fun d => { d with cvus := d.cvus.modify n f }

/-! ### Check-value units (R389, R390) -/

/-- INIT: register and count start again, ERR clears, a binding is cancelled. -/
def Cvu.init (u : Cvu) : Cvu := { u with value := BitVec.allOnes 64, count := 0, bound := none, err := false }

/-- Bytes fed in their order. -/
def Cvu.feed (u : Cvu) (bs : List Byte) : Cvu :=
  { u with value := crcRun u.value bs, count := u.count + BitVec.ofNat 48 bs.length }

/-- A register write other than INIT: while bound it is ignored and sets ERR. -/
def Cvu.write (u : Cvu) (f : Cvu → Cvu) : Cvu := if u.bound.isSome then { u with err := true } else f u

/-- A write of CVU.DATA: its NBYTES low bytes. -/
def Cvu.data (u : Cvu) (v : BitVec 64) : Cvu := u.write fun u => u.feed (leBytes (u.nbm1.toNat + 1) v.toNat)

/-- A write of CVU.CMD. -/
def Cvu.cmd (u : Cvu) (v : BitVec 64) : Cvu :=
  let nb := BitVec.ofNat 3 (fld 3 1 v)
  if v.getLsbD 0 then { u.init with nbm1 := nb } else u.write fun u => { u with nbm1 := nb }

/-- CVU.STATUS (Table 15-9). -/
def Cvu.status (u : Cvu) : Nat := b2n u.bound.isSome + 2 * (u.bound.getD 0).toNat + 128 * b2n u.err

/-- CVU_DATA_FEED. -/
def execCvuDataFeed (unit : BitVec 5) (data : BitVec 64) (s : State) : Answer :=
  .next (s.onCvu unit.toNat (·.data data))

/-- CVU_CMD_INIT. -/
def execCvuCmdInit (unit : BitVec 5) (nbm1 : BitVec 3) (s : State) : Answer :=
  .next (s.onCvu unit.toNat (·.cmd (BitVec.ofNat 64 (1 + 2 * nbm1.toNat))))

/-- The preconditions of a CVU command: a host unit that works, and for some not bound (R432). -/
def cvuPre (unit : BitVec 5) (free : Bool) (s : State) : List (Bool × BitVec 16) :=
  [(decide (unit.toNat < 16), ST.cvuUnit), (s.rstate (nodeR 7 2 unit.toNat) == .inService, ST.cvuParity),
   (!free || (s.cvu unit.toNat).bound.isNone, ST.cvuBound)]

/-- CVU.COMPUTE: the buffer's bytes are fed. A buffer that cannot be read fails its CRC (R192, R417). -/
def execCvuCompute (src : Src) (unit : BitVec 5) (init : Bool) (buf : BufRef) (s : State) : Answer :=
  .next (s.command src ((s.bufReads buf, ST.sysBuffer) :: cvuPre unit true s) fun s =>
    let u0 := s.cvu unit.toNat
    let u := (if init then u0.init else u0).feed (s.mem.bytes buf.space buf.addr.toNat buf.len.toNat)
    (s.onCvu unit.toNat fun _ => u).ok src
      (layoutBody 0x0B01 [u.value.toNat, u.count.toNat, (crcResult u.value).toNat]))

/-- CVU.SAVE. -/
def execCvuSave (src : Src) (unit : BitVec 5) (s : State) : Answer :=
  .next (s.command src (cvuPre unit false s) fun s =>
    let u := s.cvu unit.toNat
    s.ok src (layoutBody 0x0B02 [u.value.toNat, u.count.toNat]))

/-- CVU.RESTORE. -/
def execCvuRestore (src : Src) (unit : BitVec 5) (value : BitVec 64) (count : BitVec 48) (s : State) : Answer :=
  .next (s.command src (cvuPre unit true s) fun s =>
    (s.onCvu unit.toNat fun u => { u with value := value, count := count }).ok src [])

/-! ### A channel's registers (Table 15-9) -/

def Dma.seq0 (c : Dma) : BitVec 16 := BitVec.ofNat 16 (fld 31 16 c.cfg)
def Dma.hopMax (c : Dma) : Nat := fld 47 32 c.cfg
def Dma.burstSize (c : Dma) : Nat := 256 * 2 ^ fld 4 2 c.cfg
def Dma.startT (c : Dma) : Nat := fld 31 0 c.pace
def Dma.stopT (c : Dma) : Nat := fld 63 32 c.pace

def DmaSt.code : DmaSt → Nat
  | .idle => 0
  | .pacedOff => 1
  | .active => 2
  | .draining => 3
  | .stopped => 4
  | .halted => 5

/-- IDLE, STOPPED or HALTED: START and configuration are accepted. -/
def DmaSt.rest : DmaSt → Bool
  | .idle | .stopped | .halted => true
  | _ => false

/-- Entries of the completion ring. -/
def Dma.ringSize (c : Dma) : Nat := 2 ^ fld 56 52 c.cring

/-- The ring is full (R386). -/
def Dma.ringFull (c : Dma) : Bool := (c.wp + 1) % c.ringSize == fld 15 0 c.crrp

/-- DMA.STATUS. -/
def Dma.status (c : Dma) : Nat :=
  c.st.code + 2 ^ 8 * c.haltst.toNat + 2 ^ 16 * c.expseq.toNat + 2 ^ 32 * (c.wp % 2 ^ 16) + 2 ^ 48 * b2n c.phase +
    2 ^ 49 * b2n c.ringFull

/-- DMA.CRING written: index 0, phase 1 (R385). -/
def Dma.setCring (c : Dma) (v : BitVec 64) : Dma :=
  { c with cring := v &&& 0x01FFFFFFFFFFFFFF#64, wp := 0, phase := true }

/-- DMA.CFG written: a rebinding (R383). -/
def Dma.setCfg (c : Dma) (v : BitVec 64) : Dma := { c with cfg := v &&& 0x0000FFFFFFFF01FF#64, unbound := false }

/-- A queue and a burst size a configuration may name (Table 15-5, Table 15-9): the stream ring for host
channels, the event staging queue for firmware channels. -/
def cfgFieldsOk (host : Bool) (cfg : BitVec 64) : Bool :=
  let q := fld 8 5 cfg
  decide (fld 4 2 cfg ≤ 4) && decide (q ≤ 6) && !(host && q == 6) && !(!host && q == 1)

/-! ### Fetching, records and the channel's boundaries (R373 to R387) -/

/-- A descriptor that waits is requested once no record waits (R386). -/
def State.dmaKick (s : State) (n : Nat) : State :=
  s.onCh n fun c =>
    match c.next with
    | some (a, sp) =>
      if c.recWait.isNone && (c.st == .active || c.st == .pacedOff) then
        { c with fetching := some (a, sp, s.now), next := none }
      else c
    | none => c

/-- A DMA event (Table 17-6). -/
def dmaEvent (code : BitVec 16) (n seq addr halt : Nat) : Event :=
  { Event.of code with
    nodef := nodeF 17 0 n
    noder := nodeR 7 1 n
    d0 := BitVec.ofNat 64 n
    d1 := BitVec.ofNat 64 seq
    d2 := BitVec.ofNat 64 addr
    d3 := BitVec.ofNat 64 halt }

/-- A bus error on a completion record: the channel halts and the record is lost (Table 15-11). -/
def State.ringError (s : State) (n seq addr : Nat) : State :=
  (s.onCh n fun c => { c with
      st := .halted, haltst := 0x16, next := none, fetching := none, desc := none, off := 0, recWait := none
      abortPend := false, resumable := false, closed := false, redo := false }).fault none
    (dmaEvent ST.dmaRingError n seq addr 0x16)

/-- A completion record (Table 15-6) without its PHASE. -/
def dmaRec (n status : Nat) (halt : Bool) (seq bytes addr space : Nat) : Word :=
  packW [(0, 8, status), (9, 1, b2n halt), (10, 6, n), (16, 16, seq), (32, 32, bytes), (64, 48, addr), (112, 4, space)]

/-- A record is written at the write index, the index advances, the interrupt is raised (R385, R386). -/
def State.putRec (s : State) (n : Nat) (w : Word) : State :=
  let c := s.dmaCh n
  let sp := BitVec.ofNat 4 (fld 51 48 c.cring)
  let a := fld 47 0 c.cring + 16 * c.wp
  if spaceEnd sp < a + 16 ∨ sp = spDevreg then s.ringError n (fld 31 16 w) (fld 111 64 w)
  else
    let wp := (c.wp + 1) % c.ringSize
    ((s.write sp a (wordBytes (w ||| packW [(8, 1, b2n c.phase)]))).onCh n fun c =>
      { c with wp := wp, phase := if wp = 0 then !c.phase else c.phase }).emit (.dmaIrq n)

/-- A record is due: a full ring makes it wait (R386). -/
def State.dmaRecord (s : State) (n : Nat) (w : Word) : State :=
  if (s.dmaCh n).ringFull then s.onCh n fun c => { c with recWait := some w } else s.putRec n w

def Desc.len (d : Desc) : Nat := fld 31 0 d.w1
def Desc.srcSp (d : Desc) : BitVec 4 := BitVec.ofNat 4 (fld 35 32 d.w1)
def Desc.dstSp (d : Desc) : BitVec 4 := BitVec.ofNat 4 (fld 39 36 d.w1)
def Desc.seq (d : Desc) : Nat := fld 59 44 d.w1
def Desc.last (d : Desc) : Bool := bitAt 61 d.w1
/-- The unit a descriptor feeds. -/
def Desc.cvu (d : Desc) : Option Nat := if bitAt 63 d.w1 then some (fld 68 64 d.w1) else none

/-- The feed of a descriptor closes: the binding is released; any end but DONE sets ERR (R390). -/
def State.closeCvu (s : State) (n : Nat) (d : Desc) (ok : Bool) : State :=
  match d.cvu with
  | none => s
  | some u => s.onCvu u fun v =>
    if v.bound = some (BitVec.ofNat 6 n) then { v with bound := none, err := v.err || !ok } else v

/-- The descriptor in progress ends with a status: write-back, CVU closed, record, NEXT (R372, R379, R386). `lost`: the
record meets a bus error. -/
def State.finishDesc (s : State) (n status bytes : Nat) (lost : Bool) : State :=
  match (s.dmaCh n).desc with
  | none => s
  | some d =>
    let c := s.dmaCh n
    let s1 := (s.write d.space (d.addr + 16) (wordBytes ((d.w1 &&& ~~~packW [(72, 8, 255)]) ||| packW [(72, 8, status)]))).closeCvu
      n d (status == 1)
    let due := bitAt 62 d.w1 || status != 1 || c.redo
    let s2 := s1.onCh n fun c =>
      if status = 6 then { c with closed := true }
      else { c with
        desc := none, off := 0, closed := false, redo := false
        next := if d.last then none else some (fld 127 80 d.w1, BitVec.ofNat 4 (fld 43 40 d.w1))
        st := if d.last && c.st != .draining then .idle else c.st }
    if due && lost then s2.ringError n d.seq d.addr
    else if due then s2.dmaRecord n (dmaRec n status false d.seq bytes d.addr d.space.toNat)
    else s2

/-- A channel that drains or aborts stops once nothing is in flight and no record waits (R387). -/
def State.dmaSettle (s0 : State) (n : Nat) : State :=
  let s := s0.dmaKick n
  let c := s.dmaCh n
  let ready (c : Dma) : Bool := c.st == .draining && c.burst.isNone && c.fetching.isNone && c.recWait.isNone
  if !ready c then s
  else
    let s1 :=
      if c.desc.isNone then s
      else if c.abortPend then s.finishDesc n 7 c.off false
      else if 0 < c.off && !c.closed then s.finishDesc n 6 c.off false
      else s
    if ready (s1.dmaCh n) then
      s1.onCh n fun c => { c with
        st := .stopped, resumable := !c.abortPend, next := if c.abortPend then none else c.next, abortPend := false }
    else s1

/-- DMA.CRRP written: a record that waits is written once there is room (R386). -/
def State.setCrrp (s : State) (n : Nat) (v : BitVec 64) : State :=
  let s1 := s.onCh n fun c => { c with crrp := v &&& 0xFFFF#64 }
  let c := s1.dmaCh n
  match c.recWait with
  | some w =>
    if c.ringFull then s1 else ((s1.onCh n fun c => { c with recWait := none }).putRec n w).dmaSettle n
  | none => s1

/-- The channel halts on a fetch: record with HALT, nothing further is fetched (R373). -/
def State.dmaHalt (s : State) (n : Nat) (code : BitVec 8) (st : BitVec 16) (addr : Nat) (space : BitVec 4) : State :=
  let seq := (s.dmaCh n).expseq.toNat
  ((s.onCh n fun c => { c with
      st := .halted, haltst := code, next := none, fetching := none, desc := none, off := 0, abortPend := false
      resumable := false, closed := false, redo := false }).dmaRecord n
    (dmaRec n code.toNat true seq 0 addr space.toNat)).fault none (dmaEvent st n seq addr code.toNat)

/-! ### The four actions (Table 15-7) -/

/-- START. -/
def State.dmaStart (s : State) (n : Nat) : State :=
  if (s.dmaCh n).st.rest then
    (s.onCh n fun c => { c with
      st := if c.qid = 0 && !c.unbound then .active else .pacedOff
      expseq := c.seq0, hops := 0, pacedOn := false, fetching := none, desc := none, off := 0, abortPend := false
      resumable := false, closed := false, redo := false
      next := some (fld 47 0 c.head, BitVec.ofNat 4 (fld 51 48 c.head)) }).dmaKick n
  else s

/-- RESUME is accepted in STOPPED after DRAIN. -/
def Dma.canResume (c : Dma) : Bool := c.st == .stopped && c.resumable

/-- RESUME: the descriptor in progress continues, or the held one starts; with neither, NEXT is fetched. -/
def State.dmaResume (s : State) (n : Nat) : State :=
  if (s.dmaCh n).canResume then
    (s.onCh n fun c => { c with
      st := if c.desc.isNone && c.next.isNone then .idle
        else if c.qid = 0 && !c.unbound then .active else .pacedOff
      pacedOn := false, resumable := false, redo := c.redo || c.closed, closed := false }).dmaKick n
  else s

/-- DRAIN is accepted in ACTIVE and PACED_OFF. -/
def Dma.canDrain (c : Dma) : Bool := c.st == .active || c.st == .pacedOff

/-- DRAIN. -/
def State.dmaDrain (s : State) (n : Nat) : State :=
  if (s.dmaCh n).canDrain then (s.onCh n fun c => { c with st := .draining }).dmaSettle n else s

/-- ABORT: a fetch in flight is dropped. -/
def State.dmaAbort (s : State) (n : Nat) : State :=
  if (s.dmaCh n).st = .idle then s
  else (s.onCh n fun c => { c with st := .draining, abortPend := true, fetching := none, next := none }).dmaSettle n

/-- A firmware write of DMA.CMD: more than one bit set is ignored. -/
def State.dmaCmd (s : State) (n : Nat) (v : BitVec 64) : State :=
  match fld 3 0 v with
  | 1 => s.dmaStart n
  | 2 => s.dmaResume n
  | 4 => s.dmaDrain n
  | 8 => s.dmaAbort n
  | _ => s

/-- DMA_CMD_START, a firmware channel's. -/
def execDmaCmdStart (chan : BitVec 6) (s : State) : Answer :=
  .next (if 32 ≤ chan.toNat ∧ chan.toNat < 48 then s.dmaStart chan.toNat else s)

/-- DMA_CMD_RESUME. -/
def execDmaCmdResume (chan : BitVec 6) (s : State) : Answer :=
  .next (if 32 ≤ chan.toNat ∧ chan.toNat < 48 then s.dmaResume chan.toNat else s)

/-- DMA_CMD_DRAIN. -/
def execDmaCmdDrain (chan : BitVec 6) (s : State) : Answer :=
  .next (if 32 ≤ chan.toNat ∧ chan.toNat < 48 then s.dmaDrain chan.toNat else s)

/-- DMA_CMD_ABORT. -/
def execDmaCmdAbort (chan : BitVec 6) (s : State) : Answer :=
  .next (if 32 ≤ chan.toNat ∧ chan.toNat < 48 then s.dmaAbort chan.toNat else s)

/-! ### Reads and writes of DEVREG -/

def StackCtl.reg (c : StackCtl) (i : Nat) : Nat :=
  match i with
  | 0 => c.frz.toNat
  | 1 => c.capAddr.toNat
  | 2 => c.capLoc.toNat
  | 3 => c.capSrc.toNat
  | 4 => c.capTime.toNat
  | _ => 0

def Meas.reg (m : Meas) (i : Nat) : Nat :=
  if i < 13 then m.regs.getD i 0 else if 32 ≤ i ∧ i < 64 then m.regs.getD (i - 19) 0 else 0

def Dma.reg (c : Dma) (i : Nat) : Nat :=
  match i with
  | 0 => c.cfg.toNat
  | 1 => c.pace.toNat
  | 2 => c.head.toNat
  | 3 => c.cring.toNat
  | 4 => c.crrp.toNat
  | 5 => c.status
  | _ => 0

def Cvu.reg (u : Cvu) (i : Nat) : Nat :=
  match i with
  | 0 => u.value.toNat
  | 1 => u.count.toNat
  | 4 => (crcResult u.value).toNat
  | 5 => u.status
  | _ => 0

/-- What the 64-bit register at a DEVREG address reads; an address without a register reads 0. -/
def State.devRead (s : State) (a : Nat) : Nat :=
  let i := a % 4096
  match a / 4096 with
  | 0x90 => s.mc.stA.reg (i / 8)
  | 0x91 => s.mc.stB.reg (i / 8)
  | 0xA0 => if i / 256 < 3 then (s.cam (i / 256)).regs.getD (i % 256 / 8) 0 else 0
  | 0xB0 => s.meas.reg (i / 8)
  | 0xC0 => (s.dmaCh (i / 64)).reg (i % 64 / 8)
  | 0xD0 => (s.cvu (i / 64)).reg (i % 64 / 8)
  | 0xE0 => s.time.regs.getD (i / 8) 0
  | _ => 0

/-- CAM.RINGRP written: the words freed leave the pacing queue. -/
def State.setRingrp (s : State) (n : Nat) (v : BitVec 64) : State :=
  let c := s.cam n
  let rp := BitVec.ofNat 32 v.toNat
  let d := if c.ringWords = 0 then 0 else (rp.toNat % c.ringWords + c.ringWords - c.ringRp.toNat % c.ringWords) % c.ringWords
  (s.onAhead (n + 2) (· - 16 * d)).onCam n fun c => { c with ringRp := rp }

/-- A firmware write of a channel register. A host channel's registers change only through the DMA group
commands; DMA.CFG, PACE, HEAD and CRING only in IDLE, STOPPED and HALTED (R392). -/
def State.dmaRegWrite (s : State) (n i : Nat) (v : BitVec 64) : State :=
  if n < 32 then s
  else
    let rest := (s.dmaCh n).st.rest
    match i with
    | 0 => if rest && cfgFieldsOk false v then s.onCh n (·.setCfg v) else s
    | 1 => if rest then s.onCh n fun c => { c with pace := v } else s
    | 2 => if rest then s.onCh n fun c => { c with head := v &&& 0x000FFFFFFFFFFFFF#64 } else s
    | 3 => if rest then s.onCh n (·.setCring v) else s
    | 4 => s.setCrrp n v
    | 6 => s.dmaCmd n v
    | _ => s

/-- A write of a unit's register. -/
def State.cvuRegWrite (s : State) (n i : Nat) (v : BitVec 64) : State :=
  s.onCvu n fun u =>
    match i with
    | 0 => u.write fun u => { u with value := v }
    | 1 => u.write fun u => { u with count := BitVec.ofNat 48 v.toNat }
    | 2 => u.data v
    | 3 => u.cmd v
    | _ => u.write id

/-- A 64-bit write to the DEVREG space; a register that is RO, or no register, ignores it (Table 0-4). -/
def State.devWrite (s : State) (a : Nat) (v : BitVec 64) : State :=
  let i := a % 4096
  match a / 4096 with
  | 0x90 => if i = 0x28 then s.thawWrite .a v else s
  | 0x91 => if i = 0x28 then s.thawWrite .b v else s
  | 0xA0 => if i / 256 < 3 && i % 256 == 0x30 then s.setRingrp (i / 256) v else s
  | 0xC0 => s.dmaRegWrite (i / 64) (i % 64 / 8) v
  | 0xD0 => s.cvuRegWrite (i / 64) (i % 64 / 8) v
  | _ => s

/-- The registers a host channel may write: CAM.RINGRP and those of CVU0 to CVU15. -/
def hostDevOk (a : Nat) : Bool :=
  a == 0xA0030 || a == 0xA0130 || a == 0xA0230 || (decide (0xD0000 ≤ a) && decide (a < 0xD0400))

end Sys2Proof.Machine
end

