-- ==== Sys2Proof/Machine/DmaOps.lean ====
section
/-!
DEFINITION. The DMA engine: fetch checks, bursts, pacing and the DMA group commands (chapter 15).
-/

namespace Sys2Proof.Machine

/-! ### Reads and writes on the five spaces (R370) -/

/-- A HOST space answers while its port's link is up. -/
def State.hostUp (s : State) (sp : BitVec 4) : Bool :=
  !(sp == spHostA && !s.host.portA.linkUp) && !(sp == spHostB && !s.host.portB.linkUp)

/-- Bytes read by the engine; none on a bus error: outside the space, a stack that does not read, a host whose link
is down. -/
def State.busRead (s : State) (sp : BitVec 4) (a n : Nat) : Option (List Byte) :=
  if spaceEnd sp < a + n ∨ s.hostUp sp = false then none
  else if sp = spDevreg then
    some ((List.range n).map fun i => BitVec.ofNat 8 (s.devRead ((a + i) / 8 * 8) / 256 ^ ((a + i) % 8)))
  else if sp = spLanding && !(s.stackReads (stackOf a) && s.stackReads (stackOf (a + n - 1))) then none
  else some (s.mem.bytes sp a n)

/-- The 64-bit writes a burst to DEVREG makes. -/
def State.devWrites (s : State) (host : Bool) (a : Nat) : List (BitVec 64) → State
  | [] => s
  | v :: vs => State.devWrites (if !host || hostDevOk a then s.devWrite a v else s) host (a + 8) vs

/-- The 64-bit values of a byte string. -/
def bytes64 : Nat → List Byte → List (BitVec 64)
  | 0, _ => []
  | n + 1, bs => BitVec.ofNat 64 (leNat (bs.take 8)) :: bytes64 n (bs.drop 8)

/-- Bytes written by channel `n`. -/
def State.busWrite (s : State) (n : Nat) (sp : BitVec 4) (a : Nat) (bs : List Byte) : State :=
  if sp = spDevreg then s.devWrites (decide (n < 32)) a (bytes64 (bs.length / 8) bs) else s.write sp a bs

/-- A write that channel `n` may make: a host channel reaches few device registers. -/
def State.busWriteOk (s : State) (n : Nat) (sp : BitVec 4) (a len : Nat) : Bool :=
  decide (a + len ≤ spaceEnd sp) && s.hostUp sp &&
    !(sp == spDevreg && decide (n < 32) && !((List.range (len / 8)).all fun i => hostDevOk (a + 8 * i)))

/-! ### Descriptors (R372 to R375) -/

/-- A space selector channel `n` may name. -/
def spaceOk (n : Nat) (sp : BitVec 4) : Bool := decide (sp.toNat ≤ 4) && !(decide (n < 32) && sp == spCtrl)

/-- Row 6 of Table 15-4: the transfer fields. -/
def Desc.ok (d : Desc) (n : Nat) : Bool :=
  let src := fld 63 0 d.w0
  let dst := fld 127 64 d.w0
  let reg (sp : BitVec 4) (a : Nat) : Bool := sp != spDevreg || (a % 8 == 0 && d.len % 8 == 0)
  fld 71 69 d.w1 == 0 && d.len != 0 && spaceOk n d.srcSp && spaceOk n d.dstSp && reg d.srcSp src && reg d.dstSp dst &&
    decide (src + d.len ≤ spaceEnd d.srcSp) && decide (dst + d.len ≤ spaceEnd d.dstSp)

/-- Rows 3 to 5: the halt status of the first that fails. -/
def Desc.haltCode (d : Desc) (c : Dma) (n : Nat) : Option (BitVec 8) :=
  if fld 79 72 d.w1 ≠ 0 then some 0x12
  else if d.seq ≠ c.expseq.toNat then some 0x10
  else if c.hopMax < c.hops + 1 then some 0x11
  else if !d.last && !spaceOk n (BitVec.ofNat 4 (fld 43 40 d.w1)) then some 0x15
  else none

/-- A descriptor that passes row 5 advances sequence and hops, and is taken. -/
def State.takeDesc (s : State) (n : Nat) (d : Desc) : State :=
  s.onCh n fun c => { c with
    fetching := none, desc := some d, off := 0, closed := false, redo := false, expseq := c.expseq + 1
    hops := if bitAt 60 d.w1 then 0 else c.hops + 1 }

/-- DESCRIPTOR_FETCH: the response is checked (Table 15-4); a late one is discarded. -/
def execDescriptorFetch (chan : BitVec 6) (busErr : Bool) (s : State) : Answer :=
  let n := chan.toNat
  let c := s.dmaCh n
  .next (match c.fetching with
    | none => s
    | some (a, sp, t) =>
      if t + cycUs 16 < s.now then s
      else match (if busErr then none else s.busRead sp a 32) with
        | none => s.dmaHalt n 0x14 ST.dmaFetchError a sp
        | some bs =>
          let ws := bytesWords 2 bs
          let d : Desc := ⟨ws.getD 0 0, ws.getD 1 0, a, sp⟩
          match d.haltCode c n with
          | some h => s.dmaHalt n h ST.dmaChainLoop a sp
          | none =>
            let s1 := s.takeDesc n d
            (if d.ok n then s1 else s1.finishDesc n 4 0 false).dmaSettle n)

/-- FETCH_TIMEOUT: 16 µs without a response (R375). -/
def execFetchTimeout (chan : BitVec 6) (s : State) : Answer :=
  let n := chan.toNat
  .next (match (s.dmaCh n).fetching with
    | some (a, sp, t) => if t + cycUs 16 ≤ s.now then s.dmaHalt n 0x13 ST.dmaFetchTimeout a sp else s
    | none => s)

/-! ### Pacing (R381 to R384) -/

/-- Words written and not yet read in a result ring. -/
def Cam.ringFill (c : Cam) : Nat :=
  if c.ringWords = 0 then 0
  else (c.ringWp + c.ringWords - c.ringRp.toNat % c.ringWords) % c.ringWords

/-- Bytes of queue `q` before any reservation (Table 15-5). -/
def State.queueBytes (s : State) (q : Nat) : Nat :=
  match q with
  | 1 => ringLen - s.jobs.parser.fed
  | 2 => 16 * (s.cam 0).ringFill
  | 3 => 16 * (s.cam 1).ringFill
  | 4 => 16 * (s.cam 2).ringFill
  | 5 => 32 * s.trace.written - s.trace.taken
  | 6 => 64 * s.stagedCount
  | _ => 0

/-- Bytes reserved by bursts in flight. -/
def State.reserved (s : State) (q : Nat) : Nat :=
  (s.dma.chans.map fun c => if c.qid = q then c.burst.getD 0 else 0).sum

/-- The credit of queue `q`. -/
def State.credit (s : State) (q : Nat) : Nat := s.queueBytes q - s.dma.ahead.getD q 0 - s.reserved q

/-- A paced channel at its burst boundary goes paced-on or paced-off (R382). -/
def Dma.pace1 (c : Dma) (credit : Nat) : Dma :=
  if c.qid = 0 || c.burst.isSome || c.unbound || !c.canDrain then c
  else if c.startT ≤ credit then { c with pacedOn := true, st := .active }
  else if credit < c.stopT then { c with pacedOn := false, st := .pacedOff }
  else c

/-- Every channel at a boundary; the staging queue's account never exceeds its fill. -/
def State.paceAll (s : State) : State :=
  let s1 := s.onAhead 6 (min (64 * s.stagedCount))
  s1.onDma fun d => { d with chans := d.chans.map fun c => c.pace1 (s1.credit c.qid) }

/-! ### Issue (R376 to R378) -/

/-- Bytes to the next 4 KiB boundary. -/
def toBoundary (a : Nat) : Nat := 4096 - a % 4096

/-- Length of a channel's next burst (R376). -/
def Dma.nextLen (c : Dma) (d : Desc) : Nat :=
  min (min c.burstSize (d.len - c.off))
    (min (toBoundary (fld 63 0 d.w0 + c.off)) (toBoundary (fld 127 64 d.w0 + c.off)))

/-- A channel may be given an issue slot. -/
def State.dmaEligible (s : State) (c : Dma) : Bool :=
  c.st == .active && c.burst.isNone && c.recWait.isNone && !c.unbound &&
    match c.desc with
    | some d => c.qid == 0 || (c.pacedOn && decide (c.nextLen d ≤ s.credit c.qid))
    | none => false

/-- The first eligible channel of a level after the one served last. -/
def State.pickAt (s : State) (level : Nat) : Option Nat :=
  let last := s.dma.served.getD level 47
  ((List.range 48).map fun (i : Nat) => (last + 1 + i) % 48).find? fun n =>
    let c := s.dmaCh n
    fld 1 0 c.cfg == level && s.dmaEligible c

/-- The arbiter's choice: level 3 first. -/
def State.pick (s : State) : Option Nat := [3, 2, 1, 0].findSome? s.pickAt

/-- The unit a descriptor must wait for is bound to another channel (R390). -/
def State.cvuTaken (s : State) (n : Nat) (d : Desc) : Bool :=
  match d.cvu with
  | some u => (s.cvu u).bound.any (· != BitVec.ofNat 6 n)
  | none => false

/-- The unit is bound at the first burst. -/
def State.bindCvu (s : State) (n : Nat) (d : Desc) : State :=
  match d.cvu with
  | some u => s.onCvu u fun v => { v with bound := some (BitVec.ofNat 6 n) }
  | none => s

/-- A burst of channel `n` is issued, or its descriptor finds its unit bound and takes CVU_BUSY. -/
def State.issue (s : State) (n : Nat) : State :=
  let c := s.dmaCh n
  match c.desc with
  | none => s
  | some d =>
    let first := c.off == 0 && !c.redo
    let s1 := s.onDma fun u => { u with served := u.served.modify (fld 1 0 c.cfg) fun _ => n }
    if first && s.cvuTaken n d then (s1.finishDesc n 5 0 false).dmaSettle n
    else (if first then s1.bindCvu n d else s1).onCh n fun c => { c with burst := some (c.nextLen d) }

/-- BURST_ISSUE. -/
def execBurstIssue (s : State) : Answer :=
  let s1 := s.paceAll
  .next (
    if 16 ≤ (s1.dma.chans.filter (·.burst.isSome)).length then s1
    else match s1.pick with
      | some n => s1.issue n
      | none => s1)

/-! ### Completion (R377, R379, R380, R383) -/

/-- A reservation becomes the final change of its queue's state. -/
def State.settleQueue (s : State) (c : Dma) (len : Nat) : State :=
  if c.unbound || c.qid = 0 then s
  else if c.qid = 5 then s.onTrace fun t => { t with taken := t.taken + len }
  else s.onAhead c.qid (· + len)

/-- A burst that met an error: its bytes are undefined at the destination (R380). -/
def State.junk (s : State) (n : Nat) (d : Desc) (off len : Nat) : State :=
  let bs := (List.range len).map fun (i : Nat) => Config.burstJunk (4096 * s.fresh + i)
  let a := fld 127 64 d.w0 + off
  (if s.busWriteOk n d.dstSp a len then s.busWrite n d.dstSp a bs else s).draw

/-- The faults of the engine and of the unit fed (Table 15-11). -/
def State.dmaParity (s : State) (n : Nat) (d : Desc) (how : BurstEnd) : State :=
  match how, d.cvu with
  | .parity, _ =>
    (s.unitFault (nodeR 7 1 regionLogic)).fault none
      { dmaEvent ST.dmaParity n d.seq d.addr 0 with nodef := nodeF 17 1 0, noder := nodeR 7 1 regionLogic }
  | .unitParity, some u =>
    ((s.onCvu u fun v => { v with err := true, bound := none }).unitFault (nodeR 7 2 u)).fault none
      { dmaEvent ST.cvuParity u d.seq d.addr 0 with nodef := nodeF 18 0 u, noder := nodeR 7 2 u }
  | _, _ => s

/-- The moved bytes feed the bound unit. -/
def State.feedCvu (s : State) (n : Nat) (d : Desc) (bs : List Byte) : State :=
  match d.cvu with
  | some u => s.onCvu u fun v => if v.bound = some (BitVec.ofNat 6 n) then v.feed bs else v
  | none => s

/-- A word of the stream ring that a write covers whole is good again (R198). -/
def StackCtl.mend (c : StackCtl) (a n : Nat) : StackCtl :=
  { c with damaged := c.damaged.filter fun w => !decide (a ≤ 32 * w ∧ 32 * w + 32 ≤ a + n) }

/-- The burst's bytes and the status its descriptor takes, none where the burst went well. -/
def State.moveBurst (s : State) (n : Nat) (d : Desc) (off len : Nat) (how : BurstEnd) : State × Option Nat :=
  let dst := fld 127 64 d.w0 + off
  let rd := s.busRead d.srcSp (fld 63 0 d.w0 + off) len
  match how, rd with
  | .srcErr, _ => (s.junk n d off len, some 2)
  | _, none => (s.junk n d off len, some 2)
  | .dstErr, _ => (s.junk n d off len, some 3)
  | .parity, _ => (s.junk n d off len, some 3)
  | _, some bs =>
    if s.busWriteOk n d.dstSp dst len then
      let s1 := if d.dstSp = spLanding then s.onMc fun m => { m with stA := m.stA.mend dst len } else s
      ((s1.busWrite n d.dstSp dst bs).feedCvu n d bs, none)
    else (s.junk n d off len, some 3)

/-- The writes of a burst, of its descriptor's status and of its record complete: none goes to a frozen stack, where it
would be held and the channel would wait (Table 7-3, R191). -/
def State.burstWrites (s : State) (c : Dma) (d : Desc) (len : Nat) : Bool :=
  s.writesNow d.dstSp (fld 127 64 d.w0 + c.off) len && s.writesNow d.space d.addr 32 &&
    s.writesNow (BitVec.ofNat 4 (fld 51 48 c.cring)) (fld 47 0 c.cring + 16 * c.wp) 16

/-- BURST_COMPLETE. -/
def execBurstComplete (chan : BitVec 6) (how : BurstEnd) (s : State) : Answer :=
  let n := chan.toNat
  let c := s.dmaCh n
  .next (match c.burst, c.desc with
    | some len, some d =>
      if !s.burstWrites c d len then s
      else
      let m := s.moveBurst n d c.off len how
      let s1 := ((m.1.settleQueue c len).onCh n fun c => { c with burst := none }).dmaParity n d how
      match m.2 with
      | some e =>
        ((s1.finishDesc n e c.off (how == .ringErr)).onCh n fun c => { c with
          abortPend := c.abortPend || c.st == .draining }).dmaSettle n
      | none =>
        let s2 := s1.onCh n fun c => { c with off := c.off + len }
        (if c.off + len = d.len then s2.finishDesc n 1 d.len (how == .ringErr) else s2).dmaSettle n
    | _, _ => s)

/-! ### The DMA group (Table 17-13) -/

/-- What DMA.CONFIG refuses (R382, R385, Table 15-5, Table 15-9). -/
def dmaConfigOk (cfg pace head cring : BitVec 64) : Bool :=
  let burst := 256 * 2 ^ fld 4 2 cfg
  cfgFieldsOk true cfg && decide (1 ≤ fld 47 32 cfg) && decide (burst ≤ fld 63 32 pace) &&
    decide (fld 63 32 pace ≤ fld 31 0 pace) && spaceOk 0 (BitVec.ofNat 4 (fld 51 48 head)) &&
    spaceOk 0 (BitVec.ofNat 4 (fld 51 48 cring)) && decide (4 ≤ fld 56 52 cring ∧ fld 56 52 cring ≤ 16) &&
    fld 11 0 cring == 0

/-- DMA.CONFIG. -/
def execDmaConfig (src : Src) (chan : BitVec 5) (cfg pace head cring : BitVec 64) (s : State) : Answer :=
  let n := chan.toNat
  .next (s.command src [((s.dmaCh n).st.rest, ST.dmaState), (dmaConfigOk cfg pace head cring, ST.dmaConfig)] fun s =>
    (s.onCh n fun c => ({ c with pace := pace, head := head &&& 0x000FFFFFFFFFFFFF#64 }.setCfg cfg).setCring cring).ok
      src [])

/-- A channel that is out of service takes no START. -/
def State.chanServes (s : State) (n : Nat) : Bool := s.rstate (nodeR 7 1 n) == .inService

/-- DMA.START: START or RESUME. -/
def execDmaStart (src : Src) (chan : BitVec 5) (resume : Bool) (s : State) : Answer :=
  let n := chan.toNat
  let c := s.dmaCh n
  .next (s.command src [(s.chanServes n && if resume then c.canResume else c.st.rest, ST.dmaState)] fun s =>
    (if resume then s.dmaResume n else s.dmaStart n).ok src [])

/-- DMA.STOP: DRAIN or ABORT; the command returns when the channel has stopped (R423). -/
def execDmaStop (src : Src) (chan : BitVec 5) (abort : Bool) (s : State) : Answer :=
  let n := chan.toNat
  let c := s.dmaCh n
  .next (s.command src [(if abort then c.st != .idle else c.canDrain, ST.dmaState)] fun s =>
    let s1 := if abort then s.dmaAbort n else s.dmaDrain n
    if (s1.dmaCh n).st = .draining then s1.wait src (.dmaStop src chan abort) else s1.ok src [])

/-- DMA.RING.ADVANCE. -/
def execDmaRingAdvance (src : Src) (chan : BitVec 5) (rp : BitVec 16) (s : State) : Answer :=
  .next ((s.setCrrp chan.toNat (rp.setWidth 64)).ok src [])

/-- DMA.STATUS. -/
def execDmaStatus (src : Src) (chan : BitVec 5) (s : State) : Answer :=
  .next (s.ok src (layoutBody 0x0A05 [(s.dmaCh chan.toNat).status]))

end Sys2Proof.Machine
end

