-- ==== Sys2Proof/Machine/Control.lean ====
section
/-!
DEFINITION. The control plane: Marshals, failover, the Referee's safe state and its commands, the fault log's
flush, management ports (R434 to R448, R478, R479, R489, R490).
-/

namespace Sys2Proof.Machine

/-! ### The fault log (R446 to R448) -/

/-- Buffered entries go to the ring of 16,384. -/
def FaultLog.flush (l : FaultLog) : FaultLog :=
  if l.buffer.isEmpty then l
  else
    let all := l.nv ++ l.buffer
    { l with nv := all.drop (all.length - 16384), buffer := [], clean := false }

/-- An entry that reports no status: its kind is a free CODE. -/
def logOnly (kind d0 d1 d2 : Nat) : Event :=
  { Event.of (Config.logCode kind) with
    nodef := nodeF 25 0 0
    noder := nodeR 11 0 0
    d0 := BitVec.ofNat 64 d0
    d1 := BitVec.ofNat 64 d1
    d2 := BitVec.ofNat 64 d2 }

/-- A clean-stop entry, written after everything that was buffered (R448). -/
def State.cleanStop (s : State) : State :=
  ((s.onLog (·.flush)).logEntry (logOnly 1 0 0 0)).onLog fun l => { l.flush with clean := true }

/-- Buffered entries are written. Whether the write verifies is free; where it does not, the entries stay in SRAM, and
the log's sector takes a spare (Table 18-4). The log begins in sector 3 (DESIGN CHOICE, log entry 54). -/
def State.flushLog (s : State) : State :=
  if s.log.buffer.isEmpty then s
  else
    let t := s.draw
    if Config.nvWrite s.fresh then t.onLog (·.flush) else t.sectorFails 3

/-- FAULT_LOG_FLUSH. -/
def execFaultLogFlush (s : State) : Answer := .next s.flushLog

/-! ### The safe state (R439) -/

/-- Vector 17, to both ports (R487). -/
def State.msix17 (s : State) : State := (s.msix .hostA 17).msix .hostB 17

/-- Entry: PERMIT_OUT drops, a running stripe halts at rank 1, a gain pair ends, HOLD_N and SMBALERT_N are asserted,
the plate commit is made; causes 0x03 and 0x06 latch. A held safe state keeps its cause. -/
def State.safeEnter (s : State) (cause : BitVec 8) : State :=
  let latch := if cause = 3 || cause = 6 then some cause else s.ref.latchedC
  if s.ref.safe then s.onRef fun r => { r with latchedC := latch }
  else
    let s1 := s.onRef fun r => { r with
      safe := true, cause := cause, latchedC := latch, safeAt := s.now, permitOut := false, activeSince := none
      replayed := false, alert := true }
    let s2 := if s1.run?.isSome then s1.stopCause 1 none none else s1.dropReentry
    let s3 := ((s2.endPair .abort).plateCommit).onStage fun g => { g with recovery := true }
    (s3.logEntry (logOnly 0 0 cause.toNat 0)).msix17

/-! ### Marshals (R436, R438) -/

/-- Running trim runs end with ST_CAL_ABORTED; the old coefficients stay (R438). -/
def State.endTrims (s : State) : State :=
  let s1 := s.onMeas fun m => { m with
    trimBad := if m.trimWait.isSome && m.trimBad == 0 then ST.calAborted else m.trimBad
    items := m.items.map fun t => { t with running := false, restart := false } }
  let s2 := s.meas.items.zipIdx.foldl (fun (t : State) (p : Trim × Nat) =>
    if p.1.running then t.raise (trimEvent ST.calAborted p.2 0 0) else t) s1
  s2.trimAnswer

def marshalNum : Marshal → Nat
  | .a => 0
  | .b => 1

/-- An event of the control plane about a Marshal. -/
def marshalEvent (code : BitVec 16) (m : Marshal) (ver : Nat) : Event :=
  { Event.of code with
    nodef := nodeF 24 0 (marshalNum m)
    noder := nodeR 7 0 (marshalNum m)
    d2 := BitVec.ofNat 64 ver }

/-- The slot of the running image, and the other. -/
def Firmware.slot (f : Firmware) (s1 : Bool) : FwSlot := if s1 then f.slot1 else f.slot0
def Firmware.onSlot (f : Firmware) (s1 : Bool) (g : FwSlot → FwSlot) : Firmware :=
  if s1 then { f with slot1 := g f.slot1 } else { f with slot0 := g f.slot0 }

def State.runVersion (s : State) : Nat := (s.fw.slot s.fw.run).version.toNat

/-- The items of the Referee snapshot, as the active heartbeat writes them (R436). -/
def State.snapshotItems (s : State) : List Nat :=
  [s.ref.journal] ++ s.host.mbs.map (fun m => (m.lastAlive.map (·.toNat)).getD 0) ++
    (s.jobs.stripes.filter fun x => x.st.active || x.st == .stopped || x.st == .halted).flatMap (fun x =>
      [x.id.job.toNat, x.id.stripe.toNat, x.st.code, x.kStart, toU 64 (x.f0.getD (-1))]) ++
    s.host.mbs.map fun m => match m.owner with
      | none => 0
      | some p => 1 + portNum p

/-- MARSHAL_HEARTBEAT: the active one's also writes the snapshot. -/
def execMarshalHeartbeat (m : Marshal) (s : State) : Answer :=
  .next (if !(s.ref.marshal m).healthy then s
  else
    let items := s.snapshotItems
    s.onRef fun r =>
      let r1 := r.onMarshal m fun x => { x with lastBeat := s.now }
      if m = r.active && !r.failover then { r1 with snap := items } else r1)

/-- The standby fails: it is reset, at most 3 times in 24 h, then failed (Table 18-4). -/
def State.standbyFail (s : State) (m : Marshal) : State :=
  (s.onRef fun r => r.onMarshal m fun x =>
    let old := x.resets.filter fun t => decide (s.now - t < cycH 24)
    if old.length < 3 then { x with healthy := false, booting := true, failed := false, resets := old ++ [s.now] }
    else { x with healthy := false, booting := false, failed := true, resets := old }).fault none
    (marshalEvent ST.sysStandby m 0)

/-- What a failover does to a firmware switch: during step 5 the old image is back and the new one invalid; a standby
that waits on the new image takes it over (R442). -/
def State.switchFailed (s : State) (m : Marshal) : State :=
  if s.fw.sw = 5 then
    (s.onFw fun f => { (f.onSlot f.run fun t => { t with valid := false }) with run := !f.run, sw := 0 }).raise
      (marshalEvent ST.sysFwImage m s.runVersion)
  else if s.fw.sw = 2 then s.onFw fun f => { f with run := !f.run, sw := 5, swAt := s.now }
  else s

/-- Steps 1 and 2 of Table 18-6: the failed Marshal is isolated and reset, the standby promoted. -/
def State.failover (s : State) (m : Marshal) : State :=
  let o := otherMarshal m
  let s1 := s.onRef fun r =>
    let r1 := (r.onMarshal m fun x => { x with healthy := false, booting := true, failed := false }).onMarshal o fun x =>
      { x with lastBeat := s.now }
    { r1 with active := o, failover := true, replayed := false }
  (((s1.endPair .abort).endTrims).onStage fun g => { g with recovery := true }).switchFailed m

/-- HEARTBEAT_TIMEOUT: a Marshal is failed: failover, the standby's reset, or the safe state. -/
def execHeartbeatTimeout (m : Marshal) (selfReported : Bool) (s : State) : Answer :=
  let x := s.ref.marshal m
  let act := m == s.ref.active
  let bound := if act then cycMs 1 else cycMs 10
  .next (
    if !x.healthy || !(selfReported || decide (x.lastBeat + bound ≤ s.now)) then s
    else if !act then s.standbyFail m
    else if !s.ref.failover && (s.ref.marshal (otherMarshal m)).healthy then s.failover m
    else (((s.onRef fun r => { (r.onMarshal m fun x => { x with healthy := false, failed := true }) with
      failover := false }).endTrims).safeEnter 1))

/-- MARSHAL_BOOT_COMPLETE: a reset Marshal becomes standby, or active where the active one is not healthy. -/
def execMarshalBootComplete (m : Marshal) (ok : Bool) (s : State) : Answer :=
  let x := s.ref.marshal m
  let lead := !(s.ref.marshal s.ref.active).healthy
  .next (
    if !x.booting then s
    else if ok then
      let s1 := s.onRef fun r =>
        let r1 := r.onMarshal m fun x => { x with healthy := true, booting := false, failed := false, lastBeat := s.now }
        if lead then { r1 with active := m, activeSince := some s.now, replayed := false } else r1
      if s1.fw.sw = 1 && !lead then s1.onFw fun f => { f with sw := 2 } else s1
    else if s.fw.sw = 1 && !lead then
      (s.onFw fun f => { f with sw := 0 }).raise (marshalEvent ST.sysFwImage m 0)
    else if lead then s.onRef fun r => r.onMarshal m fun x => { x with booting := false, failed := true }
    else s.standbyFail m)

/-- FW_SWITCH_ROLE_SWAP: with no stripe ARMED, RUNNING or STOPPING the roles swap (Table 18-9). -/
def execFwSwitchRoleSwap (s : State) : Answer :=
  .next (if s.fw.sw ≠ 2 ∨ s.active?.isSome = true ∨ s.ref.failover = true then s
  else
    let s1 := (s.onRef fun r => { r with active := otherMarshal r.active }).onFw fun f =>
      { f with run := !f.run, sw := 5, swAt := s.now }
    s1.raise (marshalEvent ST.sysFwSwitched s1.ref.active s1.runVersion))

/-- FW_SWITCH_OLD_REBOOT: after 60 s the old Marshal reboots with the new image, which is marked active (R459). -/
def execFwSwitchOldReboot (s : State) : Answer :=
  .next (if s.fw.sw ≠ 5 ∨ s.now < s.fw.swAt + cycS 60 then s
  else
    (s.onFw fun f => { (f.onSlot f.run fun t => { t with actseq := (f.slot (!f.run)).actseq + 1 }) with sw := 0 }).onRef
      fun r => r.onMarshal (otherMarshal r.active) fun x => { x with healthy := false, booting := true, failed := false })

/-! ### Leaving the safe state (R441) -/

/-- A Marshal has run as active for 100 ms after a reset and has replayed the journal; no cause is latched; the
supply has been in range for 100 ms. -/
def State.safeMayEnd (s : State) : Bool :=
  s.ref.safe && s.firmware && s.ref.replayed && s.ref.latchedC.isNone && !s.power.shutdown &&
    (match s.ref.activeSince with
      | some t => decide (t + cycMs 100 ≤ s.now)
      | none => false) &&
    decide (s.now ≤ (s.ref.marshal s.ref.active).lastBeat + cycMs 1) &&
    (match s.power.supplyBad with
      | some t => decide (t + cycMs 100 ≤ s.now)
      | none => true)

/-- ST_SYS_READY: start cause and image version (R458). -/
def State.readyEvent (s : State) : Event :=
  { marshalEvent ST.sysReady s.ref.active s.runVersion with d1 := BitVec.ofNat 64 s.power.cause.toNat }

/-- SAFE_STATE_EXIT. -/
def execSafeStateExit (s : State) : Answer :=
  .next (if !s.safeMayEnd then s
  else
    let s1 := (s.onRef fun r => { r with safe := false, cause := 0, alert := false }).onPower fun p =>
      { p with ready := true, supplyBad := none }
    ((s1.raise s1.readyEvent).logEntry s1.readyEvent).msix17)

/-! ### The supervisor's commands (R440, R489, R490) -/

/-- The heartbeat of a Marshal is within its bound. -/
def State.beats (s : State) (m : Marshal) : Bool :=
  let x := s.ref.marshal m
  x.healthy && decide (s.now ≤ x.lastBeat + if m = s.ref.active then cycMs 1 else cycMs 10)

/-- STRIPE of SUPV.STATUS: the latest armed stripe, 0 for none. -/
def State.supvStripe (s : State) : Nat :=
  match s.active? with
  | some x => x.st.code
  | none => match (s.jobs.stripes.filter fun x => x.latched.isSome).getLast? with
    | some x => x.st.code
    | none => 0

/-- STATUS bytes 0 to 7 (Table 21-6). -/
def State.supvStatus (s : State) : Nat :=
  b2n s.ref.safe + 2 ^ 8 * s.ref.cause.toNat + 2 ^ 16 * marshalNum s.ref.active + 2 ^ 17 * b2n (s.beats s.ref.active) +
    2 ^ 18 * b2n (s.beats (otherMarshal s.ref.active)) + 2 ^ 19 * b2n s.ref.failover + 2 ^ 20 * b2n s.ref.permitIn +
    2 ^ 21 * b2n s.ref.permitOut + 2 ^ 22 * b2n s.holdN + 2 ^ 24 * s.supvStripe + 2 ^ 28 * b2n s.power.ready

def viaNum : Via → Nat
  | .window p => portNum p
  | .smbus => 2

/-- SUPV.RESULT reaches DONE or REFUSED; vector 17 goes to both ports; on SMBus a refusal is a NAK. -/
def State.supvDone (s : State) (via : Via) (code : Nat) (ok : Bool) (data : List (BitVec 64)) : State :=
  let ign := fld 47 32 s.ref.supvResult
  let s1 := s.onRef fun r => { r with
    supvResult := BitVec.ofNat 64 ((if ok then 2 else 3) + 2 ^ 8 * code + 2 ^ 16 * viaNum via + 2 ^ 32 * ign)
    supvData := if ok then (List.range 4).map fun i => data.getD i 0 else r.supvData }
  let s2 := match via with
    | .smbus => if ok then s1.emit (.smbus ((data.map fun (v : BitVec 64) => leBytes 8 v.toNat).flatten)) else s1
    | .window _ => s1
  s2.msix17

/-- A command over the window or SMBus; a thermal shutdown serves STATUS and RESET_ALL only. -/
def State.supv (s : State) (via : Via) (code : Nat) (ok : Bool) (data : List (BitVec 64)) (k : State → State) : State :=
  let served := ok && (!s.power.shutdown || code == 0x51 || code == 0x54)
  if !s.power.powered then s
  else if served then (k s).supvDone via code true data else s.supvDone via code false []

/-- STATUS. -/
def execStatus (via : Via) (s : State) : Answer :=
  .next (s.supv via 0x51 true [BitVec.ofNat 64 s.supvStatus, BitVec.ofNat 64 s.now] id)

/-- 32 bytes of the snapshot from an offset. -/
def State.snapshotData (s : State) (off : Nat) : List (BitVec 64) :=
  (List.range 4).map fun k =>
    BitVec.ofNat 64 (leNat ((List.range 8).map fun i => Config.snapshotByte s.ref.snap (off + 8 * k + i)))

/-- SNAPSHOT: an offset above 992 is refused. -/
def execSnapshot (via : Via) (offset : BitVec 16) (s : State) : Answer :=
  .next (s.supv via 0x52 (decide (offset.toNat ≤ 992)) (s.snapshotData offset.toNat) id)

/-- That Marshal is reset, self-tested and booted. -/
def State.resetM (s : State) (m : Marshal) : State :=
  s.onRef fun r => r.onMarshal m fun x => { x with healthy := false, booting := true, failed := false }

/-- RESET_MARSHAL: not the active one outside the safe state. -/
def execResetMarshal (via : Via) (arg : BitVec 8) (s : State) : Answer :=
  let m : Marshal := if arg = 0 then .a else .b
  .next (s.supv via 0x53 (decide (arg.toNat ≤ 1) && !(m == s.ref.active && !s.ref.safe)) [] fun s => s.resetM m)

/-- Every die sensor below 110 °C and T_case below 125 °C (R466). -/
def State.cool (s : State) : Bool :=
  let t (i : Nat) : Int := signedOf 16 ((s.meas.mon.getD i 0).toNat)
  decide (t 9 < 125 * 16) && (List.range 8).all fun i => decide (t (10 + i) < 110 * 16)

/-- RESET_ALL: the safe state is entered if not held, a clean stop is written, latched causes and BOOTFAIL clear;
the module reset follows 1 ms after DONE. -/
def execResetAll (via : Via) (arg : BitVec 16) (s : State) : Answer :=
  .next (s.supv via 0x54 (arg == 0x5AA5#16 && (!s.power.shutdown || s.cool)) [] fun s =>
    (((s.safeEnter 7).cleanStop).onRef fun r => { r with latchedC := none, resetPend := some (s.now + cycMs 1) }).onFw
      fun f => { f with slot0 := { f.slot0 with bootfail := 0 }, slot1 := { f.slot1 with bootfail := 0 } })

/-- A window write of a CODE that Table 18-7 does not list, or of a listed one with its argument bytes. -/
def State.supvWrite (s : State) (p : Port) (v : BitVec 64) : Answer :=
  match fld 7 0 v with
  | 0x51 => execStatus (.window p) s
  | 0x52 => execSnapshot (.window p) (BitVec.ofNat 16 (fld 23 8 v)) s
  | 0x53 => execResetMarshal (.window p) (BitVec.ofNat 8 (fld 15 8 v)) s
  | 0x54 => execResetAll (.window p) (BitVec.ofNat 16 (fld 23 8 v)) s
  | c => .next (s.supv (.window p) c false [] id)

/-- SUPV_STATUS_READ: SUPV.TIME takes the counter. -/
def execSupvStatusRead (_port : Port) (s : State) : Answer :=
  .next (s.onRef fun r => { r with supvTime := BitVec.ofNat 64 s.now })

/-! ### Faults of the counter and of the Referee -/

/-- COUNTER_FAULT (Table 16-8). -/
def execCounterFault (which : TimeFault) (s : State) : Answer :=
  .next (match which with
    | .counter =>
      (s.fault none { Event.of ST.timeParity with
        nodef := nodeF 19 0 0, noder := nodeR 6 0 0, d2 := BitVec.ofNat 64 s.now }).safeEnter 6
    | .domain d =>
      ((s.domUnlock d).fault none { Event.of ST.timeParity with
        nodef := nodeF 19 1 d.toNat, noder := nodeR 6 0 0, d0 := d.setWidth 64, d2 := BitVec.ofNat 64 s.now }).reselect)

/-- REFEREE_SELF_CHECK: the safe state, latched. -/
def execRefereeSelfCheck (s : State) : Answer := .next (s.safeEnter 3)

/-! ### Management ports (R478, R479) -/

/-- SMBUS_ALERT_RESPONSE: while SMBALERT_N is held low, the block answers with its address. -/
def execSmbusAlertResponse (s : State) : Answer :=
  .next (if s.ref.alert && s.power.powered then
    let a := BitVec.ofNat 8 (0x5C + s.mgmt.smbAddr.toNat)
    (s.onMgmt fun m => { m with smbReply := some a }).emit (.smbus [a])
  else s)

/-- The JTAG IDCODE register (R479). -/
def jtagIdcode : Nat := 1 + 2 * 0x4D9 + 2 ^ 12 * 0xA512 + 2 ^ 28 * Config.stepping.toNat

/-- JTAG_INSTRUCTION: EXTEST, INTEST and CLAMP only before READY or in the safe state. -/
def execJtagInstruction (i : JtagInstr) (s : State) : Answer :=
  let drives := i == .extest || i == .intest || i == .clamp
  .next (s.onMgmt fun m => { m with jtag := if drives && s.power.ready && !s.ref.safe then .bypass else i })

end Sys2Proof.Machine
end

