-- ==== Sys2Proof/Machine/PowerOps.lean ====
section
/-!
DEFINITION. Supply, clocks, resets, start-up and thermal shutdown (chapter 19, R476).
-/

namespace Sys2Proof.Machine

/-! ### What a module reset keeps (R460, Table 19-5) -/

/-- Trim items after a start: the newest valid copy of the coefficients is loaded, each item keeps its status
(R359). Age counts from the start where the counter starts again. -/
def Meas.kept (m : Meas) (keepTime : Bool) : Meas :=
  let newest := if m.nvNext then m.nvA else m.nvB
  { Meas.reset with
    items := m.items.zipIdx.map fun (p : Trim × Nat) =>
      ⟨newest.getD p.2 0, none, p.1.prov, p.1.failed, if keepTime then p.1.accAt else p.1.accAt.map fun _ => 0, false,
        false⟩
    nvA := m.nvA
    nvB := m.nvB
    nvNext := m.nvNext }

/-- The plate's keys and store are non-volatile; after an unclean shutdown the plate that was attached is owed the
counts of R250. -/
def Plate.kept (p : Plate) (unclean : Bool) : Plate :=
  { Plate.reset with
    keyM := p.keyM
    keySvc := p.keySvc
    store := p.store
    unclean := match unclean, p.attached with
      | true, some a => p.unclean ++ [a]
      | _, _ => p.unclean }

/-- Retired channels and an out-of-service stack are left by module service alone (R199, Table 18-2): the remapping
stays, and a retirement under way goes on. -/
def StackCtl.kept (c : StackCtl) : StackCtl :=
  { StackCtl.reset with
    chans := c.chans.map fun h => { Chan.reset with
      retiring := h.retiring, retired := h.retired, suspect := h.suspect, unmoved := h.unmoved }
    failed := c.failed
    order := c.order
    removed := c.removed }

def MemCtl.kept (m : MemCtl) : MemCtl := { MemCtl.reset with stA := m.stA.kept, stB := m.stB.kept }

/-- The module reset: jobs, stripes, landing store and ledger are dropped; the fault log, the calibration records,
the plate's keys and store, the repair states and the firmware slots persist. `aon`: the AON island is not reset. -/
def State.moduleReset (s : State) (cause : BitVec 3) (keepTime aon unclean : Bool) (beam : Beam) : State :=
  { State.reset with
    time := if keepTime then { TimeBase.reset with ctr := s.time.ctr, running := s.time.running } else TimeBase.reset
    beam := beam
    plate := s.plate.kept unclean
    meas := s.meas.kept keepTime
    repair := { s.repair with manual := false }
    fw := { s.fw with sw := 0 }
    log := if aon then s.log else { s.log with buffer := [], lost := 0 }
    mem := { s.mem with landing := [], ctrl := [] }
    mc := s.mc.kept
    mgmt := { Mgmt.reset with smbAddr := if aon then s.mgmt.smbAddr else 0 }
    ref :=
      let r := { Referee.reset with permitIn := s.ref.permitIn }
      if aon then { r with
        supvResult := s.ref.supvResult, supvData := s.ref.supvData, supvTime := s.ref.supvTime } else r
    power := { Power.reset with
      qualified := s.power.qualified
      railsOn := s.power.railsOn
      refOk := s.power.refOk
      lost := if keepTime then s.power.lost else []
      cause := cause }
    fresh := s.fresh
    out := s.out
    pending := s.pending }

/-- The history after a reset whose prior τ is not known: 50 ms of enforced idle (R240, Table 19-5). -/
def Beam.idle50 : Beam := { Beam.reset with idleEnd := some (cycMs 50) }

/-- The host-commanded reset: the counter runs on, τ and the last beams-target flash are known for the enforced idle
(R240, R460). After it no flash and no arm of the new start is known (R234). After a thermal shutdown the counter
starts again. -/
def State.hostReset (s : State) (cause : BitVec 3) : State :=
  if s.power.shutdown then s.moduleReset 5 false true false Beam.idle50
  else
    s.moduleReset cause true true false { Beam.reset with idleEnd := s.loseHistory.beam.idleEnd }

/-! ### Supply (R449 to R452) -/

/-- VIN_QUALIFIED: a module that is unpowered, stopped or not yet qualified starts as from power-on. -/
def execVinQualified (s : State) : Answer :=
  let p := s.power
  .next (if p.powered && p.qualified && !p.stopped then s
  else
    let cause : BitVec 3 := if s.log.clean then 0 else 1
    (s.moduleReset cause false false (!s.log.clean) Beam.reset).onPower fun q => { q with
      powered := true, qualified := true, railsOn := false })

/-- The rails are being enabled: before READY, with VIN qualified. -/
def Power.ramps (p : Power) : Bool := p.powered && p.qualified && !p.ready && !p.railsHeld && !p.stopped && !p.shutdown

/-- RAIL_ENABLE_TIMEOUT: the rail and every later one are switched off; after the third failure they are held off. -/
def execRailEnableTimeout (rail : BitVec 3) (s : State) : Answer :=
  .next (if !s.power.ramps || s.power.railOffAt.isSome || s.power.railsOn then s
  else
    (s.logEntry (logOnly 2 rail.toNat 0 0)).onPower fun p => { p with
      railTries := p.railTries + 1
      railOffAt := some s.now
      railsHeld := decide (3 ≤ p.railTries + 1) })

/-- RAIL_RETRY: 1 s later the sequence is tried again. -/
def execRailRetry (s : State) : Answer :=
  .next (if s.power.ramps && s.power.railOffAt.isSome then s.onPower fun p => { p with railOffAt := none } else s)

/-- SUPPLY_OUT_OF_RANGE: the safe state, cause 0x05; the entry gives VIN and the rail. -/
def execSupplyOutOfRange (rail : BitVec 3) (s : State) : Answer :=
  .next (if !s.power.railsOn then s
  else
    ((s.onPower fun p => { p with supplyBad := some s.now }).logEntry
      (logOnly 3 rail.toNat (fld 15 0 (s.meas.mon.getD 0 0)) 0)).safeEnter 5)

/-- Islands without power: everything volatile is lost, the log and the monitor readings stay. -/
def State.powerDown (s : State) (unclean : Bool) : State :=
  (s.moduleReset s.power.cause false true unclean Beam.idle50).onMeas fun m => { m with mon := s.meas.mon }

/-- SUPPLY_LOSS_WARNING: the safe state is held or entered, the log is flushed with a clean stop, and every rail but
AON and Analog goes off. -/
def execSupplyLossWarning (s : State) : Answer :=
  .next (if !s.power.powered || s.power.stopped then s
  else
    ((((s.safeEnter 5).cleanStop).powerDown false).onPower fun p => { p with
      qualified := false, railsOn := false, stopped := true }).onRef fun r => { r with
        safe := true, cause := 5, permitOut := false, alert := true })

/-- AON_RAIL_OFF: the module is unpowered, HOLD_N asserted. -/
def execAonRailOff (s : State) : Answer :=
  .next (if !s.power.powered then s
  else
    (s.moduleReset 0 false false (!s.log.clean) Beam.reset).onPower fun p => { p with
      powered := false, qualified := false, railsOn := false })

/-! ### Clocks (R453 to R455) -/

/-- The PCIe link of a port goes down. -/
def State.linkDown (s : State) (p : Port) : State :=
  if (s.port p).linkUp then s.onPort p fun q => { q with linkUp := false, downAt := s.now } else s

/-- The effect of a lost clock (Table 19-3). -/
def State.clockLost (s : State) (c : Clock) : State :=
  if s.power.lost.contains c then s
  else
    let s1 := s.onPower fun p => { p with lost := p.lost ++ [c] }
    match c with
    | .pllC | .pllL | .beamTree | .timeTree => s1.safeEnter 4
    | .pllM => s1.onMc fun m => { m with pllDown := true }
    | .pllN => ((s1.netDown .netA).netDown .netB).reselect
    | .pcie => (s1.linkDown .hostA).linkDown .hostB

/-- PLL_UNLOCK: a PLL or a tree monitor. -/
def execPllUnlock (clk : Clock) (s : State) : Answer := .next (if s.power.railsOn then s.clockLost clk else s)

/-- REF_LOST: AON runs on its own oscillator, every PLL unlocks. -/
def execRefLost (s : State) : Answer :=
  let s1 := s.onPower fun p => { p with refOk := false }
  .next (if s.power.railsOn && s.power.refOk then [Clock.pllC, .pllM, .pllL, .pllN, .pcie].foldl State.clockLost s1 else s1)

/-- REF_RESTORED. -/
def execRefRestored (s : State) : Answer := .next (s.onPower fun p => { p with refOk := true })

/-- Landed data is lost: a run halts with its records, and every job is aborted (Table 19-3). -/
def State.loseLanded (s : State) : State :=
  let s1 := match s.run? with
    | some (r, x) => s.haltRun r x (r.haltFlash s.now)
    | none => s
  ((s1.jobs.jobs.map (·.id)).foldl (fun t j => t.finishAbort j none) s1).onMem fun m => { m with landing := [] }

/-- Training of every channel that is not retired: the steps in order, then the final PRBS-31 run of 2^32 beats
(R195). -/
def StackCtl.trainAll (c : StackCtl) : StackCtl :=
  { c with chans := c.chans.map fun h =>
      if h.retired then h else { h with step := .passed, pattern := .prbs31, beats := 2 ^ 32 } }

/-- PLL_RELOCK_ATTEMPT: every 10 ms while REF is present; after PLL-M both stacks are retrained. -/
def execPllRelockAttempt (clk : Clock) (locked : Bool) (s : State) : Answer :=
  let due := s.due ((s.power.triedAt.find? (·.1 == clk)).map (·.2)) (cycMs 10)
  .next (if !s.power.refOk || !s.power.lost.contains clk || !due then s
  else if !locked then s.onPower fun p => { p with triedAt := p.triedAt.filter (·.1 != clk) ++ [(clk, s.now)] }
  else
    let s1 := s.onPower fun p => { p with lost := p.lost.filter (· != clk), triedAt := p.triedAt.filter (·.1 != clk) }
    match clk with
    | .pllM => (s1.onMc fun m => { m with pllDown := false, stA := m.stA.trainAll, stB := m.stB.trainAll }).centre.loseLanded
    | .pllN => s1.onTime fun t => { t with netA := true, netB := true }
    | _ => s1)

/-! ### Resets (R460, R461, R466, R476) -/

/-- RESET_N: permit drops, the module resets at release, AON logic included; no clean stop is written. -/
def execResetN (s : State) : Answer :=
  .next (if !s.power.powered then s
  else s.moduleReset 2 false false true Beam.idle50)

/-- PERST_N: the link of the port alone. -/
def execPerstN (p : Port) (s : State) : Answer := .next (s.linkDown p)

/-- THERMAL_SHUTDOWN: power leaves every island but AON, after the plate commit, an entry and a clean stop. -/
def execThermalShutdown (s : State) : Answer :=
  .next (if !s.power.powered || s.power.shutdown then s
  else
    let s1 := ((((s.onRef fun r => { r with permitOut := false }).plateCommit).logEntry (logOnly 4 0 0 0)).cleanStop)
    (s1.powerDown false).onPower fun p => { p with railsOn := false, shutdown := true })

/-! ### Start-up (R456 to R459) -/

/-- The image the Referee selects: the candidate with the greater ACTSEQ, slot 0 on equal (R459). -/
def Firmware.select (f : Firmware) : Option Bool :=
  let cand (t : FwSlot) : Bool := t.valid && decide (t.bootfail.toNat < 3)
  match cand f.slot0, cand f.slot1 with
  | true, true => some (decide (f.slot0.actseq.toNat < f.slot1.actseq.toNat))
  | true, false => some false
  | false, true => some true
  | false, false => none

/-- The slot with the greater valid ACTSEQ. -/
def Firmware.newest (f : Firmware) : Bool :=
  f.slot1.valid && (!f.slot0.valid || decide (f.slot0.actseq.toNat < f.slot1.actseq.toNat))

/-- An instance failed its self-test at start: retired with a spare in its place, or failed; each failure has its
entry in the fault log (R99, R158, R457, Tables 3-6 and 5-11). An instance that is retired or failed already is in
no place to fail from. -/
def State.startFailure (s : State) (r : BitVec 32) : State :=
  let i1 := nodeI1 r
  let i2 := nodeI2 r
  let engine := i1 == 1 && i2 == 2
  let lane := (i1 == 1 && i2 == 4) || (i1 == 2 && i2 == 0)
  let entry := repairEvent (Config.logCode 5) r .retired 0
  if i1 == 7 && i2 == 0 then s
  else if i1 == 3 || i1 == 4 then s.untrained (if i1 = 3 then .a else .b) (nodeI3 r) .finalRun
  else match s.rstate r with
    | .retired => s
    | .failed => s
    | .spare => if engine || lane then (s.setRState r .retired).logEntry entry
        else (s.onRepairRec r fun x => { x with st := .failed, pool := true }).logEntry entry
    | _ =>
      if regionSpared i1 i2 then
        let s1 := s.setRState r .quarantined
        (if (s1.freeSpare r).isSome then s1.assignSpare r else s1.setRState r .retired).logEntry entry
      else (s.setRState r .failed).logEntry { entry with d1 := BitVec.ofNat 64 RState.failed.code }

/-- Failures of self-test, march test and training (R457), and of a stack's controller (R199). -/
def State.startFailures (s : State) (rep : StartReport) : State :=
  let s1 := (rep.failed.filterMap instanceOf).foldl State.startFailure s
  let s2 := rep.badBanks.foldl (fun t b => t.startFailure (nodeR 2 2 b.toNat)) s1
  let s3 := if 64 < rep.badBanks.length then s2.setRState (nodeR 2 1 0) .failed else s2
  let s4 := s3.onMc fun m => { m with stA := m.stA.trainAll, stB := m.stB.trainAll }
  let s5 := rep.untrained.foldl (fun (t : State) (u : Stack × BitVec 4 × TrainStep) =>
    t.untrained u.1 u.2.1.toNat u.2.2) s4
  rep.badStacks.foldl State.stackFail s5

/-- Both Marshals boot from the selected image; A is active unless it fails (R457, R459). -/
def State.bootMarshals (s : State) (rep : StartReport) : State :=
  match s.fw.select with
  | none => s.onRef fun r => { r with
      active := .a, ma := { r.ma with healthy := false, booting := false, failed := true }
      mbS := { r.mbS with healthy := false, booting := false, failed := true } }
  | some slot =>
    let st (x : MarshalS) (ok : Bool) : MarshalS :=
      { x with healthy := ok, booting := false, failed := !ok, lastBeat := s.now }
    (s.onFw fun f => { (f.onSlot slot fun t => { t with bootfail := t.bootfail + 1 }) with run := slot }).onRef fun r =>
      { r with
        active := if !rep.marshalAOk && rep.marshalBOk then .b else .a
        ma := st r.ma rep.marshalAOk
        mbS := st r.mbS rep.marshalBOk }

/-- READY: BOOTFAIL of the running slot is 0; ST_SYS_READY and the start entry carry cause, version and, where fewer
than all run, the numbers of active engines and lanes (R99, R152, R458). No field of the event is named for the
numbers; D3 holds them (DESIGN CHOICE, log entry 41). -/
def State.reachReady (s : State) : State :=
  let s1 := (s.onPower fun p => { p with ready := true }).onFw fun f =>
    f.onSlot f.run fun t => { t with bootfail := 0 }
  let e := s1.readyEvent
  let n := [s1.engines.length, s1.encLanes.length, s1.decLanes.length]
  let e := if n = [32, 16, 16] then e
    else { e with d3 := BitVec.ofNat 64 (n.getD 0 0 + 2 ^ 8 * n.getD 1 0 + 2 ^ 16 * n.getD 2 0) }
  let s2 := (s1.raise e).logEntry e
  if s2.fw.run = s2.fw.newest then s2 else s2.raise (marshalEvent ST.sysFwImage s2.ref.active s2.runVersion)

/-- Partner discovery: every output lane that is not retired begins its bring-up, all in parallel (R319). -/
def State.startLanes (s : State) : State :=
  (List.range 68).foldl (fun t n => if (t.link.lane n).st = .retired then t else t.startTraining n) s

/-- Steps 1 to 9 of Table 19-4. -/
def State.startUp (s : State) (rep : StartReport) : State :=
  let s1 := (s.onPower fun p => { p with railsOn := true, railTries := 0, lost := [] }).onMgmt fun m =>
    { m with smbAddr := rep.smbAddr }
  let s2 := ((s1.bootMarshals rep).onTime fun t => { t with running := true }).startFailures rep
  let s3 := s2.startLanes.centre
  if !rep.refereeOk then s3.safeEnter 3
  else if !s3.ref.ma.healthy && !s3.ref.mbS.healthy then s3.safeEnter 1
  else s3.reachReady

/-- Start-up may run. -/
def State.mayStart (s : State) : Bool :=
  s.power.ramps && s.power.refOk && s.power.railOffAt.isNone && !s.ref.safe

/-- START_INSTANT: a commanded reset that is due takes effect, then the steps of Table 19-4 run to READY. -/
def execStartInstant (rep : StartReport) (s : State) : Answer :=
  let due := match s.ref.resetPend with
    | some t => !s.time.running || decide (t ≤ s.now)
    | none => false
  let s1 := if due then s.hostReset 4 else s
  .next (if s1.mayStart then s1.startUp rep else s1)

end Sys2Proof.Machine
end

