-- ==== Sys2Proof/Machine/Service.lean ====
section
/-!
DEFINITION. The REPAIR and TRACE groups and the self-test at idle (R22, R429 to R432, Table 17-14).
-/

namespace Sys2Proof.Machine

/-! ### Nodes of both trees -/

/-- Depth-3 functional instances: subsystem, unit, count (the node tables of the chapters). -/
def funcUnits : List (Nat × Nat × Nat) :=
  [(1, 0, 1), (2, 0, 1), (3, 0, 34), (4, 0, 2), (5, 0, 18), (5, 1, 18), (6, 0, 1), (6, 1, 1), (6, 2, 1), (6, 3, 1),
   (6, 4, 1), (7, 0, 1), (7, 1, 1), (7, 2, 2112), (8, 0, 1), (8, 1, 1), (9, 0, 1), (9, 1, 1), (9, 2, 1), (10, 0, 1)] ++
  [(11, 0, 68), (11, 1, 4), (11, 2, 1), (11, 3, 1), (12, 0, 6), (12, 1, 2), (13, 0, 2), (13, 1, 2), (14, 0, 3),
   (14, 1, 1), (14, 2, 1), (14, 3, 1), (14, 4, 3), (15, 0, 8), (15, 1, 4), (15, 2, 1), (15, 3, 71), (16, 0, 1),
   (17, 0, 48), (17, 1, 1)] ++
  [(18, 0, 32), (19, 0, 1), (19, 1, 2), (19, 2, 1), (22, 0, 1), (22, 1, 1), (22, 2, 1), (23, 0, 16), (23, 1, 2),
   (24, 0, 2), (25, 0, 1), (28, 0, 16), (28, 1, 16)]

/-- Regions of the repair tree with the range of their instances (Table 18-1). -/
def repairRegions : List (Nat × Nat × Nat) :=
  [(1, 0, 1), (1, 1, 1), (1, 2, 34), (1, 3, 2), (1, 4, 18), (2, 0, 18), (2, 1, 1), (2, 2, 2112), (2, 3, 4160),
   (2, 4, 8256), (2, 5, 272), (3, 0, 16), (4, 0, 16), (5, 0, 68), (5, 1, 4), (5, 2, 1), (6, 0, 1), (6, 1, 1)] ++
  [(7, 0, 2), (7, 1, 112), (7, 2, 32), (7, 3, 16), (8, 0, 8), (8, 1, 2), (9, 0, 13), (9, 1, 71), (9, 2, 1), (10, 0, 3),
   (10, 1, 3), (11, 0, 1), (11, 1, 1024), (12, 0, 2), (13, 0, 2)]

/-- The instance is listed in its tree. -/
def nodeListed (n : BitVec 32) : Bool :=
  if nodeTree n then instanceExists (nodeI1 n) (nodeI2 n) (nodeI3 n)
  else funcUnits.any fun u => u.1 == nodeI1 n && u.2.1 == nodeI2 n && decide (nodeI3 n < u.2.2)

/-- The repair instance a REPAIR command names. -/
def repairNode (n : BitVec 32) : Option (BitVec 32) := if nodeListed n then instanceOf n else none

/-- A unit or region lies under a node; indices below the node's depth are 0 (R21). -/
def under (n : BitVec 32) (u : Nat × Nat × Nat) : Bool :=
  match nodeDepth n with
  | 0 => nodeI1 n == 0 && nodeI2 n == 0 && nodeI3 n == 0
  | 1 => u.1 == nodeI1 n && nodeI2 n == 0 && nodeI3 n == 0
  | 2 => u.1 == nodeI1 n && u.2.1 == nodeI2 n && nodeI3 n == 0
  | _ => u.1 == nodeI1 n && u.2.1 == nodeI2 n && decide (nodeI3 n < u.2.2)

/-- The instances of a region, the one that stands for its logic last (R429). -/
def regionInstances (u : Nat × Nat × Nat) : List Nat :=
  List.range u.2.2 ++ if instanceExists u.1 u.2.1 regionLogic then [regionLogic] else []

/-- The node exists. The subsystems of Table 1-1 are nodes of depth 1, those without a listed unit too: nothing
lies beneath them (DEDUCED, log entry 31). -/
def nodeExists (n : BitVec 32) : Bool :=
  match nodeDepth n with
  | 0 => under n (0, 0, 0)
  | 1 => nodeI2 n == 0 && nodeI3 n == 0 &&
      if nodeTree n then repairRegions.any (·.1 == nodeI1 n) else decide (1 ≤ nodeI1 n ∧ nodeI1 n ≤ 28)
  | 2 => (if nodeTree n then repairRegions else funcUnits).any (under n)
  | _ => (repairNode n).isSome

/-- The pairs of references beneath a node, functional first (R22). -/
def nodePairs (n : BitVec 32) : List (BitVec 32 × BitVec 32) :=
  if nodeDepth n = 3 then
    match repairNode n with
    | some r => [(if nodeTree n then funcPath r else n, r)]
    | none => []
  else if nodeTree n then
    ((repairRegions.filter (under n)).map fun (u : Nat × Nat × Nat) =>
      (regionInstances u).map fun i => (funcOf u.1 u.2.1 i, nodeR u.1 u.2.1 i)).flatten
  else
    ((funcUnits.filter (under n)).map fun (u : Nat × Nat × Nat) =>
      (List.range u.2.2).map fun i => (nodeF u.1 u.2.1 i, repairOf u.1 u.2.1 i)).flatten

/-- What REPAIR.QUERY says of a pair: both paths, state, spare, and whether a fault is counted. -/
def State.repairVals (s : State) (p : BitVec 32 × BitVec 32) : List Nat :=
  let r := s.repairRec p.2
  [p.1.toNat, p.2.toNat, (s.rstate p.2).code, ((r.bind (·.by_)).getD 0).toNat, b2n (r.bind (·.faultAt)).isSome]

/-! ### Commands (Table 17-14) -/

/-- REPAIR.QUERY: of a depth-3 node its values; of a node above, the list of the pairs beneath, one word each, into
the buffer. Without a buffer the list stands in the response where its 126 words hold it (log entry 31). -/
def execRepairQuery (src : Src) (node : BitVec 32) (buf : Option BufRef) (s : State) : Answer :=
  let ps := nodePairs node
  .next (s.command src [(buf.all (outBuf · 0), ST.sysBuffer), (nodeExists node, ST.repairNode)] fun s =>
    let list := ps.map fun p => Config.layout 0x0E01 0x100 (s.repairVals p)
    match buf with
    | none =>
      if nodeDepth node = 3 then s.ok src (layoutBody 0x0E01 (ps.map s.repairVals).flatten)
      else if ps.length ≤ 126 then s.ok src list
      else s.respond src ST.sysBuffer ps.length false []
    | some b => s.sized src b ps.length ((s.writeBuf b list).ok src (layoutBody 0x0E01 [ps.length])))

/-- REPAIR.POLICY. -/
def execRepairPolicy (src : Src) (manual : Bool) (s : State) : Answer :=
  .next ((s.onRepair fun r => { r with manual := manual }).ok src [])

/-- A memory channel's stack and number. -/
def memChannel (r : BitVec 32) : Option (Stack × Nat) :=
  if nodeI1 r = 3 then some (.a, nodeI3 r) else if nodeI1 r = 4 then some (.b, nodeI3 r) else none

/-- REPAIR.SPARE: at the region's switch point; a memory channel starts retirement at once (R198), a non-volatile
sector is replaced at once (R431). -/
def execRepairSpare (src : Src) (node : BitVec 32) (s : State) : Answer :=
  .next (match repairNode node with
    | none => s.fail src ST.repairNode
    | some r =>
      let st := s.rstate r
      let lane := nodeI1 r = 5 ∧ nodeI2 r = 0
      let may := st == .quarantined || st == .suspect || st == .failed ||
        (lane && st == .retired && s.link.map.contains (some (nodeI3 r)))
      match memChannel r with
      | some (k, n) =>
        s.command src [(may, ST.repairState)] fun s => (s.startRetire k n).respond src ST.ok 0 true []
      | none =>
        s.command src [(may, ST.repairState), ((s.freeSpare r).isSome, ST.repairNoSpare)] fun s =>
          let s1 := s.onRepairRec r fun x => { x with manualSpare := true }
          (if nodeI1 r = 11 then s1.assignSpare r else s1).respond src ST.ok 0 true [])

/-- An instance of a region with spares, its logic aside. -/
def sparedNode (r : BitVec 32) : Bool := regionSpared (nodeI1 r) (nodeI2 r) && nodeI3 r != regionLogic

/-- The repair record after a self-test (Table 18-2). A quarantined instance of a region with spares returns to
service only by the repair command (R98, R152); `cmd` says that REPAIR.RETURN ran the test. -/
def RepairRec.tested (x : RepairRec) (cmd pass : Bool) : RepairRec :=
  let st' : RState := match x.st, pass with
    | .quarantined, true => if cmd || !sparedNode x.node then .inService else .quarantined
    | .quarantined, false => if sparedNode x.node then .quarantined else .failed
    | .retired, true => if cmd then .spare else .retired
    | .spare, false => .failed
    | t, _ => t
  { x with
    selfTest := false
    pool := x.pool || (x.st == .spare && !pass)
    by_ := if st' = .spare then none else x.by_
    manualSpare := x.manualSpare && st' != .inService
    st := st' }

/-- REPAIR.RETURN of a retired lane that passes its test: a spare, down until it is brought up where its head or
return lane is gone (R323, Table 12-9). The test's end is not awaited (DESIGN CHOICE, log entry 53). -/
def State.laneReturn (s : State) (r : BitVec 32) (cmd pass : Bool) : State :=
  let n := nodeI3 r
  if nodeI1 r = 5 ∧ nodeI2 r = 0 ∧ cmd = true ∧ pass = true ∧ (s.link.lane n).st = .retired then
    s.onLane n fun x => { x with st := if x.ident.isSome && s.link.retUp n then .spare else .down, fails := 0, step := 0 }
  else s

/-- A per-unit reset: the self-test, with the transitions of Table 18-2. The history is lost where the instance is in
the gain and history unit (R240, Table 19-5). The Canopy unit's return lets the stripes that its fault held back
advance (R118). -/
def State.unitReset (s : State) (r : BitVec 32) (cmd pass : Bool) : State :=
  let s1 := if nodeI1 r = 2 ∧ nodeI2 r = 4 then s.resetHistory else s
  let s2 := (s1.onRepairRec r (·.tested cmd pass)).laneReturn r cmd pass
  if r = nodeR 1 1 0 ∧ s2.rstate r = .inService then
    s2.onJobs fun j => { j with stripes := j.stripes.map fun x => { x with canopyFails := 0 } }
  else s2

/-- REPAIR.RETURN: quarantined or retired; self-test. -/
def execRepairReturn (src : Src) (node : BitVec 32) (s : State) : Answer :=
  .next (match repairNode node with
    | none => s.fail src ST.repairNode
    | some r =>
      let st := s.rstate r
      s.command src [(st == .quarantined || st == .retired, ST.repairState), (s.active?.isNone, ST.repairBusy)] fun s =>
        let pass := Config.selfTest r s.fresh
        let s1 := (s.unitReset r true pass).draw
        if pass then s1.ok src [] else s1.fail src ST.repairSelftest)

/-- The instance is quarantined on a command; the event goes to the port that rang. -/
def State.quarantineBy (s : State) (src : Src) (r : BitVec 32) : State :=
  if s.rstate r = .inService then
    (s.setRState r .quarantined).raiseVia (some src) none (repairEvent ST.repairQuarantined r .quarantined 0)
  else s

/-- The unit of an instance begins to stop in a form (R423); a unit that Table 17-7 does not list stops at once. -/
def State.stopUnit (s : State) (r : BitVec 32) (abort : Bool) : State :=
  let n := nodeI3 r
  match nodeI1 r, nodeI2 r with
  | 7, 1 => if 48 ≤ n then s else if abort then s.dmaAbort n else s.dmaDrain n
  | 10, 0 =>
    if !(s.cam n).running then s
    else if abort then
      (((s.cam n).work.filter (·.drop.isNone)).foldl (fun t f => t.dropFrame n f.num 6)
        (s.onCam n fun c => { c with running := false, draining := false }))
    else (s.onCam n fun c => { c with draining := true }).settleCam n
  | 1, 2 => s.quarantineEngine n
  | _, _ => s

/-- The unit has reached its boundary. -/
def State.unitStopped (s : State) (r : BitVec 32) : Bool :=
  let n := nodeI3 r
  match nodeI1 r, nodeI2 r with
  | 7, 1 => decide (48 ≤ n) || (s.dmaCh n).st != .draining
  | 10, 0 => !(s.cam n).running
  | 1, 4 => s.rstate r != .inService
  | 2, 0 => s.rstate r != .inService
  | _, _ => true

/-- REPAIR.DISABLE: quarantined at the boundary of its unit's form. -/
def execRepairDisable (src : Src) (node : BitVec 32) (abort : Bool) (s : State) : Answer :=
  let cmd := Instr.repairDisable src node abort
  .next (match repairNode node with
    | none => s.fail src ST.repairNode
    | some r =>
      s.command src [(s.rstate r == .inService, ST.repairState)] fun s =>
        let lane := (nodeI1 r == 1 && nodeI2 r == 4) || (nodeI1 r == 2 && nodeI2 r == 0)
        let dec := nodeI1 r == 2
        if lane then
          if abort && !(dec && s.run?.isSome) then (s.abortLane dec (nodeI3 r)).ok src []
          else s.drainLane src dec (nodeI3 r) cmd
        else
          let s1 := s.stopUnit r abort
          if s1.unitStopped r then (s1.quarantineBy src r).ok src [] else s1.wait src cmd)

/-- SELF_TEST_AT_IDLE: a faulted unit whose region has no spare, or a spare, with no stripe ARMED, RUNNING or
STOPPING (R432). -/
def execSelfTestAtIdle (node : BitVec 32) (pass : Bool) (s : State) : Answer :=
  .next (match repairNode node with
    | none => s
    | some r =>
      let due := (s.repairRec r).any (·.selfTest) || s.rstate r == .spare
      if due && s.active?.isNone then s.unitReset r false pass else s)

/-! ### Trace -/

/-- A ring that records of two words fill, and sources 1 to 5 (Table 17-14). -/
def traceOk (mask : BitVec 8) (buf : BufRef) : Bool :=
  decide (32 ≤ buf.len.toNat) && buf.len.toNat % 32 == 0 && mask &&& 0xC1#8 == 0

/-- TRACE.START. -/
def execTraceStart (src : Src) (srcmask : BitVec 8) (buf : BufRef) (s : State) : Answer :=
  .next (s.command src [(!s.trace.running, ST.traceState), (traceOk srcmask buf, ST.traceConfig)] fun s =>
    (s.onTrace fun _ => { Trace.reset with
      running := true, mask := srcmask, base := buf.addr, space := buf.space, words := buf.len.toNat / 16 }).ok src [])

/-- TRACE.STOP: at the record boundary in either form. -/
def execTraceStop (src : Src) (_abort : Bool) (s : State) : Answer :=
  .next (s.command src [(s.trace.running, ST.traceState)] fun s =>
    (s.onTrace fun t => { t with running := false }).ok src [])

/-- TRACE.STATUS. -/
def execTraceStatus (src : Src) (s : State) : Answer :=
  .next (s.ok src (layoutBody 0x1003 [s.trace.off, s.trace.written, s.trace.lost]))

end Sys2Proof.Machine
end

