-- ==== Sys2Proof/Machine/Hosts.lean ====
section
/-!
DEFINITION. Hosts: the SYS group, the roll call, ports that come and go, the event queue's read index, and the
commands that wait (chapters 17 and 21).
-/

namespace Sys2Proof.Machine

/-! ### Identity and ownership (R411, R412, R416) -/

def State.standbyOk (s : State) : Bool := (s.ref.marshal (otherMarshal s.ref.active)).healthy

/-- Partners: present or not, with the identity where one is known (R457, Table 17-17). -/
def State.partners (s : State) : List (Nat × Nat × Bool × Nat) :=
  [(0, 0, s.link.headPresent, s.link.serial.getD 0),
   (1, 0, s.plate.attached.isSome, (s.plate.attached.map (·.toNat)).getD 0), (2, 0, s.pacer.mcPresent, s.pacer.mcId.toNat)] ++
  ((List.range 6).map fun (i : Nat) => (3, i, (s.stage.ports.map (·.present)).getD i false, 0)) ++
  ((List.range 3).map fun (i : Nat) => (4, i, (s.cam i).present, (s.cam i).cfg.idval.toNat)) ++
  [(5, 0, s.time.domA.master.isSome, (s.time.domA.master.map (·.toNat)).getD 0),
   (5, 1, s.time.domB.master.isSome, (s.time.domB.master.map (·.toNat)).getD 0)] ++
  ((List.range 68).map fun (i : Nat) => (6, i, (s.link.lanes.map (·.st == .carrier)).getD i false, 0)) ++
  ((List.range 4).map fun (i : Nat) => (7, i, (s.link.rets.map (·.lock)).getD i false, 0)) ++
  [(8, 0, !s.host.portA.departed, 0), (8, 1, !s.host.portB.departed, 0)]

/-- SYS.IDENT: 4 words. -/
def execSysIdent (src : Src) (s : State) : Answer :=
  .next (s.ok src (layoutBody 0x0101
    [0xA512, Config.stepping.toNat, Config.serial.toNat, s.fw.slot0.version.toNat, s.fw.slot1.version.toNat,
     marshalNum s.ref.active, b2n s.standbyOk, (s.partners.filter (·.2.2.1)).length]))

/-- A lease of 0 or 10 to 60,000 ms (Table 17-8). -/
def leaseOk (lease : BitVec 32) : Bool := lease == 0 || decide (10 ≤ lease.toNat ∧ lease.toNat ≤ 60000)

/-- SYS.CLAIM. -/
def execSysClaim (src : Src) (lease : BitVec 32) (s : State) : Answer :=
  .next (s.command src [((s.mb src.mb).owner.isNone, ST.sysClaimed)] fun s =>
    ((s.onMb src.mb fun m => { m with owner := some src.port, lease := lease }).onPort src.port fun p =>
      { p with lease := lease, lastBell := s.now }).ok src [])

/-- SYS.RELEASE: the mailbox has no owner and no last ALIVE. -/
def execSysRelease (src : Src) (s : State) : Answer :=
  .next ((s.ok src []).onMb src.mb fun m => { m with owner := none, lastAlive := none, lease := 0 })

/-- The mailbox is owned by a port that has departed. -/
def State.takeable (s : State) (n : Nat) : Bool :=
  match (s.mb (BitVec.ofNat 4 n)).owner with
  | some p => (s.port p).departed
  | none => false

/-- SYS.TAKEOVER: mailboxes, jobs and the routing of their events (R412). -/
def execSysTakeover (src : Src) (mbmask : BitVec 16) (lease : BitVec 32) (s : State) : Answer :=
  let ns := (List.range 16).filter fun n => mbmask.getLsbD n
  .next (s.command src [(ns.all s.takeable, ST.sysOwnerPresent)] fun s =>
    let olds := ns.filterMap fun n => (s.mb (BitVec.ofNat 4 n)).owner
    let f (m : Mailbox × Nat) : Mailbox :=
      if ns.contains m.2 then { m.1 with owner := some src.port, lease := lease } else m.1
    let g (x : Job) : Job := if olds.contains x.owner then { x with owner := src.port } else x
    let s1 := s.onHost fun h => { h with mbs := h.mbs.zipIdx.map f }
    let s2 := s1.onJobs fun j => { j with jobs := j.jobs.map g }
    (s2.onPort src.port fun p => { p with lease := lease, lastBell := s.now }).ok src [])

/-- What a queue may be (R420). -/
def eventqOk (base : BitVec 48) (space : BitVec 4) (log2n : BitVec 5) : Bool :=
  decide (8 ≤ log2n.toNat ∧ log2n.toNat ≤ 16) && base.toNat % 4096 == 0 &&
    rangeOk space base.toNat (64 * 2 ^ log2n.toNat)

/-- SYS.EVENTQ: indices, phase and ESEQ start again; staged events are then written. -/
def execSysEventq (src : Src) (base : BitVec 48) (space : BitVec 4) (log2n : BitVec 5) (s : State) : Answer :=
  .next (s.command src [(eventqOk base space log2n, ST.sysField)] fun s =>
    let s1 := s.onPort src.port fun p => { p with evq := { p.evq with
      base := base, space := space, log2n := log2n, wp := 0, phase := true, rp := 0, eseq := 0 } }
    (State.drainEvents ((s1.port src.port).evq.staged.length + 2) src.port s1).ok src [])

/-- EVQ_RP_WRITE (R486). -/
def execEvqRpWrite (port : Port) (value : BitVec 64) (s : State) : Answer :=
  let q := (s.port port).evq
  let v := if q.size = 0 then 0 else fld 31 0 value % q.size
  .next (
    if q.size = 0 then s
    else if (v + q.size - q.rp) % q.size ≤ (q.wp + q.size - q.rp) % q.size then
      State.drainEvents (q.staged.length + 2) port (s.onPort port fun p => { p with evq := { p.evq with rp := v } })
    else s)

/-! ### The roll call (R427, Table 17-17) -/

/-- A section: SID, its words, its maximum. -/
def section_ (sid max : Nat) (ws : List Word) : List Word :=
  packW [(0, 8, sid), (32, 16, min ws.length max), (48, 1, b2n (decide (max < ws.length)))] :: ws.take max

/-- Entries of 64 bits, two to a word. -/
def pairWords : List Nat → List Word
  | [] => []
  | [a] => [packW [(0, 64, a)]]
  | a :: b :: r => packW [(0, 64, a), (64, 64, b)] :: pairWords r

/-- Entries of 32 bits, four to a word. -/
def quadWords : List Nat → List Word
  | a :: b :: c :: d :: r => packW [(0, 32, a), (32, 32, b), (64, 32, c), (96, 32, d)] :: quadWords r
  | a :: b :: c :: [] => [packW [(0, 32, a), (32, 32, b), (64, 32, c)]]
  | a :: b :: [] => [packW [(0, 32, a), (32, 32, b)]]
  | a :: [] => [packW [(0, 32, a)]]
  | [] => []

/-- Neighbours that are equal under a key are one run: first, count, key. -/
def runsOf {α : Type} [DecidableEq α] : List (Nat × α) → List (Nat × Nat × α)
  | [] => []
  | (n, k) :: r =>
    match runsOf r with
    | (m, c, k') :: t => if k = k' && m == n + 1 then (n, c + 1, k) :: t else (n, 1, k) :: (m, c, k') :: t
    | [] => [(n, 1, k)]

def sat16 (n : Nat) : Nat := min n 65535

def ownerNum : Option Port → Nat
  | none => 0
  | some p => 1 + portNum p

def JState.code : JState → Nat
  | .streaming => 0
  | .ended => 1
  | .aborting => 2

/-- Sections 1 to 4. -/
def State.rollA (s : State) : List (List Word) :=
  [section_ 1 1 [packW [(0, 1, b2n s.ref.safe), (1, 1, marshalNum s.ref.active), (2, 1, b2n s.standbyOk),
      (3, 1, b2n s.power.ready), (32, 32, s.fw.slot0.version.toNat), (64, 32, s.fw.slot1.version.toNat)]],
   section_ 2 16 (s.host.mbs.zipIdx.map fun (m : Mailbox × Nat) =>
      let la := (m.1.lastAlive.map (·.toNat)).getD 0
      packW [(0, 4, m.2), (4, 2, ownerNum m.1.owner), (6, 1, b2n m.1.busy), (8, 8, la),
        (16, 8, if m.1.lastAlive.isSome then la + 1 else 0), (32, 16, m.1.overrun), (64, 32, m.1.lease.toNat)]),
   section_ 3 2 ([s.host.portA.evq, s.host.portB.evq].map fun (q : EventQueue) =>
      packW [(0, 32, q.wp), (32, 1, b2n q.phase), (64, 32, q.eseq.toNat), (96, 16, sat16 q.staged.length),
        (112, 16, sat16 q.lost)]),
   section_ 4 16 (s.jobs.jobs.map fun (j : Job) =>
      let live := s.jobs.parser.job == some j.id
      packW [(0, 16, j.id.toNat), (16, 2, ownerNum (some j.owner)), (18, 2, j.target.toNat), (20, 1, b2n j.dual),
        (21, 3, j.st.code), (24, 16, j.nStripes), (40, 32, if live then s.jobs.parser.exp else 0)])]

/-- The figures of Table 6-4 with the render lead as a time (R25, R172), and the verifier's counters (Table 6-9). -/
def State.leadFigures (s : State) : List Nat :=
  [s.renderLead, s.leadNs s.renderLead, s.contiguousLead, s.leadNs s.contiguousLead, s.readyCount, s.awaitCount,
    s.unavailCount, s.heldCount, s.freeSpace .a, s.freeSpace .b, s.land.transient, s.land.reloads, s.land.unverifs]

/-- The active stripe's figures and its segment runs. The figures of Table 6-4 stand in every summary, one without
an active stripe too (R172). -/
def State.rollActive (s : State) : List Word :=
  let own (x : Stripe) : List Nat :=
    let l := x.latched
    [x.id.job.toNat + 2 ^ 16 * x.id.stripe.toNat, x.st.code, x.kStart, toU 64 (x.f0.getD (-1)),
      (s.play.run.map (·.next)).getD 0, x.boundary.getD 0xFFFF, x.fh.getD 0, (l.map (·.lambda)).getD 0, b2n x.carried,
      (l.map (·.gen)).getD 0, x.fgen, (l.map (·.band)).getD 0]
  let runs (x : Stripe) : List Word :=
    pairWords ((runsOf (x.segs.zipIdx.map fun (g : Seg × Nat) => (g.2, (g.1.lstate.code, g.1.outcome.code)))).map
      fun r => (Config.layout 0x0106 0x610 [r.1, r.2.1, r.2.2.1, r.2.2.2]).toNat % 2 ^ 64)
  let fig := s.leadFigures ++ ((s.active?.map own).getD [])
  ((List.range 4).map fun (i : Nat) => Config.layout 0x0106 (0x600 + i) fig) ++ ((s.active?.map runs).getD [])

/-- Sections 5 to 8. -/
def State.rollB (s : State) : List (List Word) :=
  [section_ 5 512 (pairWords ((s.jobs.jobs.map fun (j : Job) =>
      (runsOf ((s.jobs.stripes.filter (·.id.job == j.id)).map fun x => (x.id.stripe.toNat, x.st.code))).map
        fun (r : Nat × Nat × Nat) => j.id.toNat + 2 ^ 16 * r.1 + 2 ^ 32 * r.2.1 + 2 ^ 48 * r.2.2).flatten)),
   section_ 6 516 s.rollActive,
   section_ 7 9 (packW [(0, 32, s.ledger.count)] :: quadWords ((List.range 32).map fun (n : Nat) =>
      let c := s.dmaCh n
      c.wp % 2 ^ 16 + 2 ^ 16 * b2n c.phase + 2 ^ 17 * c.st.code)),
   section_ 8 96 (s.partners.map fun (p : Nat × Nat × Bool × Nat) =>
      packW [(0, 8, (Config.partnerKind p.1).toNat), (8, 8, p.2.1), (16, 1, b2n p.2.2.1), (64, 64, p.2.2.2)])]

/-- An entry of the repair map. -/
def State.repairEntry (s : State) (r : BitVec 32) : Word :=
  packW [(0, 32, (funcPath r).toNat), (32, 32, r.toNat), (64, 4, (s.rstate r).code),
    (96, 32, (((s.repairRec r).bind (·.by_)).getD 0).toNat)]

/-- Instances of the map: engines, lanes, channels and Marshals, then rows and sectors whose state has changed. -/
def State.mapInstances (s : State) : List (BitVec 32) :=
  let all (a b n : Nat) : List (BitVec 32) := (List.range n).map fun i => nodeR a b i
  all 1 2 34 ++ all 1 4 18 ++ all 2 0 18 ++ all 5 0 68 ++ all 7 0 2 ++ all 3 0 16 ++ all 4 0 16 ++
    ((s.repair.recs.map (·.node)).filter fun r =>
      let i := (nodeI1 r, nodeI2 r)
      i == (2, 3) || i == (2, 4) || i == (2, 5) || i == (7, 1) || i == (11, 1))

/-- The window-bank bitmap, a bit set for a bank that is not in service, and the 64 spare assignments. -/
def State.bankMap (s : State) : List Word :=
  let bank (i : Nat) : BitVec 32 := nodeR 2 2 i
  ((List.range 17).map fun (w : Nat) => packW ((List.range 128).map fun (b : Nat) =>
      (b, 1, b2n (decide (128 * w + b < 2112) && s.rstate (bank (128 * w + b)) != .inService)))) ++
    quadWords ((List.range 64).map fun (i : Nat) =>
      ((s.repair.recs.find? fun x => x.by_ == some (bank (2048 + i))).map fun x => x.node.toNat).getD 0)

/-- Sections 9 to 13. -/
def State.rollC (s : State) : List (List Word) :=
  let prov := (s.meas.items.filter (·.prov)).length
  let failed := (s.meas.items.filter (·.failed)).length
  let last := ((s.log.nv ++ s.log.buffer).getLast?.map fun e => e.getD 0 0).getD 0
  [section_ 9 289 ((s.mapInstances.take 256).map s.repairEntry ++ s.bankMap),
   section_ 10 3 (pairWords [s.time.selReg.toNat,
      toU 64 (clampI (-2 ^ 63) (2 ^ 63 - 1) (if s.time.initial then 0 else s.time.resid s.now)), s.time.domA.reg,
      toU 64 s.time.domA.rate, s.time.domB.reg, toU 64 s.time.domB.rate]),
   section_ 11 1 [packW [(0, 32, s.log.lseq), (32, 16, fld 15 0 last), (64, 64, fld 127 64 last)]],
   section_ 12 1 [packW [(0, 32, (s.beam.activeT.map (·.gen)).getD 0), (32, 32, (s.beam.pendingT.map (·.gen)).getD 0),
      (64, 32, s.beam.fit.fgen.toNat), (96, 8, prov), (104, 8, failed)]],
   section_ 13 2 [s.stage.axisWord .scan s.now, s.stage.axisWord .cross s.now]]

/-- The summary: MAGIC, CRC over every later word, the counter, 13 sections. -/
def State.rollcall (s : State) : List Word :=
  let body := (s.rollA ++ s.rollB ++ s.rollC).flatten
  let w1 := packW [(64, 64, s.now)]
  [packW [(0, 16, 0x5243), (16, 8, 1), (24, 8, 13), (32, 32, body.length + 2)],
   w1 ||| packW [(0, 64, (crc64W body).toNat)]] ++ body

/-- SYS.ROLLCALL. -/
def execSysRollcall (src : Src) (buf : BufRef) (s : State) : Answer :=
  .next (s.command src [(outBuf buf 65536, ST.sysBuffer)] fun s =>
    let ws := s.rollcall
    (s.writeBuf buf ws).ok src [packW [(0, 32, 16 * ws.length)]])

/-! ### Resets, firmware and the fault log (Table 17-8) -/

/-- SYS.RESET: the module, the standby Marshal, or a unit (Table 19-5). -/
def execSysReset (src : Src) (scope : BitVec 2) (node : BitVec 32) (s : State) : Answer :=
  .next (
    if scope = 0 then
      s.command src [(s.active?.isNone, ST.sysState)] fun s => ((s.cleanStop).ok src []).hostReset 3
    else if scope = 1 then (s.resetM (otherMarshal s.ref.active)).ok src []
    else if scope = 2 then
      match repairNode node with
      | some r => s.command src [(s.rstate r == .quarantined, ST.sysState)] fun s =>
        ((s.unitReset r false (Config.selfTest r s.fresh)).draw).ok src []
      | none => s.fail src ST.sysState
    else s.fail src ST.sysField)

/-- SYS.FW.STAGE: the image goes to the inactive slot. -/
def execSysFwStage (src : Src) (buf : BufRef) (s : State) : Answer :=
  let bs := s.mem.bytes buf.space buf.addr.toNat buf.len.toNat
  .next (s.command src [(s.bufReads buf, ST.sysBuffer), (s.fw.sw == 0, ST.sysState),
      (Config.imageValid bs, ST.sysFwImage)] fun s =>
    (s.onFw fun f => f.onSlot (!f.run) fun t =>
      { t with version := Config.imageVersion bs, bootfail := 0, valid := true }).ok src [])

/-- SYS.FW.SWITCH: step 1 of Table 18-9; deferred. -/
def execSysFwSwitch (src : Src) (s : State) : Answer :=
  .next (s.command src [((s.fw.slot (!s.fw.run)).valid, ST.sysFwImage), (s.standbyOk, ST.sysStandby)] fun s =>
    (((s.resetM (otherMarshal s.ref.active)).onFw fun f => { f with sw := 1, swAt := s.now })).respond src ST.ok 0 true
      [])

/-- SYS.FAULTLOG.READ: entries of the ring from sequence FIRST. -/
def execSysFaultlogRead (src : Src) (first count : BitVec 32) (buf : BufRef) (s : State) : Answer :=
  .next (s.command src [(outBuf buf (64 * count.toNat), ST.sysBuffer)] fun s =>
    let base := s.log.lseq - s.log.buffer.length - s.log.nv.length
    let es := (s.log.nv.drop (first.toNat - base)).take (if base ≤ first.toNat then count.toNat else count.toNat - (base - first.toNat))
    (s.writeBuf buf es.flatten).ok src (layoutBody 0x010A [es.length]))

/-! ### Ports that come and go (R412) -/

/-- A port's event (Table 17-6). -/
def portHostEvent (code : BitVec 16) (p : Port) : Event :=
  { Event.of code with
    nodef := nodeF 23 1 (portNum p), noder := nodeR 12 0 (portNum p), d0 := BitVec.ofNat 64 (portNum p) }

def State.depart (s : State) (p : Port) : State :=
  if (s.port p).departed then s
  else (s.onPort p fun q => { q with departed := true }).raise (portHostEvent ST.sysHostDeparted p)

/-- HOST_LINK_DOWN: the link has been down for 100 ms. -/
def execHostLinkDown (p : Port) (s : State) : Answer :=
  .next (if (s.port p).linkUp then (s.linkDown p).depart p
  else if (s.port p).downAt + cycMs 100 ≤ s.now then s.depart p else s)

/-- HOST_LINK_UP. -/
def execHostLinkUp (p : Port) (s : State) : Answer :=
  .next (if (s.port p).linkUp then s
  else (s.onPort p fun q => { q with linkUp := true, departed := false }).raise (portHostEvent ST.sysHostArrived p))

/-- HOST_LEASE_EXPIRY: no doorbell of the port for its lease time. -/
def execHostLeaseExpiry (p : Port) (s : State) : Answer :=
  let q := s.port p
  .next (if q.lease != 0 && decide (q.lastBell + cycMs q.lease.toNat ≤ s.now) then s.depart p else s)

/-! ### Commands that wait (R418) -/

/-- A command that waits on a stripe it stops. -/
def State.stopWaits (s : State) (id : StripeId) : Bool :=
  (s.stripe? id).any fun x => x.st == .running || x.st == .stopping

/-- The waiting command is answered, or waits on. -/
def State.recheck (s : State) (mb : BitVec 4) (w : Waiting) : State :=
  let s1 := s.unwait mb
  match w.cmd with
  | .stripeGo src id wm y sn c xc t =>
    match s.stripe? id with
    | some x =>
      if x.st == .armed && s.owns src id.job && (firstFail (s.goPre x false y sn)).isNone && s.goUnmet x != 0 then s
      else s1.goTry src id wm y sn c xc t false
    | none => s1.fail src ST.stripeUnknown
  | .stripeStop src id _ =>
    if s.stopWaits id then s
    else if (s.stripe? id).isSome then s1.ok src [] else s1.fail src ST.stripeUnknown
  | .jobAbort src job _ =>
    if (s.job? job).isNone then s1.fail src ST.jobUnknown
    else if s.abortWaits job then s else (s1.finishAbort job (some src)).ok src []
  | .codecDisable src lane dec _ =>
    let s2 := s1.settleDrain dec lane.toNat
    let drains := if dec then s2.render.drainDec else s2.render.drainEnc
    if drains.contains lane.toNat then s else s2.ok src []
  | .camStop src cam _ => if (s.cam cam.toNat).running then s else s1.ok src []
  | .camRing src cam buf => if s.queueBusy (cam.toNat + 2) then s else s1.setRing src cam.toNat buf
  | .dmaStop src chan _ => if (s.dmaCh chan.toNat).st = .draining then s else s1.ok src []
  | .repairDisable src node _ =>
    match repairNode node with
    | some r => if s.unitStopped r then (s1.quarantineBy src r).ok src [] else s
    | none => s1.fail src ST.repairNode
  | .calTrimRun _ _ => s.trimAnswer
  | _ => s

/-- WAITING_COMMAND_COMPLETE: the firmware judges a waiting command again. -/
def execWaitingCommandComplete (mb : BitVec 4) (s : State) : Answer :=
  .next (match s.waiter mb with
    | some w => if s.firmware then s.recheck mb w else s
    | none => s)

end Sys2Proof.Machine
end

