-- ==== Sys2Proof/Machine/Mailbox.lean ====
section
/-!
DEFINITION. The mailbox window: what a doorbell accepts, how the words of a command are read, and the register
writes that have no row of their own (chapters 17 and 21).
-/

namespace Sys2Proof.Machine

/-! ### Words of a command -/

/-- The field of a word that begins at bit `lo`; its width is that of what it fills. -/
def bf {n : Nat} (lo : Nat) (w : Word) : BitVec n := BitVec.ofNat n (w.toNat / 2 ^ lo)

/-- Only the fields listed, as first bit and width, may be other than 0. -/
def onlyBits (fs : List (Nat × Nat)) (w : Word) : Bool :=
  w &&& ~~~ (BitVec.ofNat 128 ((fs.map fun (f : Nat × Nat) => 2 ^ f.1 * (2 ^ f.2 - 1)).sum)) == 0

/-- What a buffer reference must be (R417). -/
inductive Want where
  | inp (len : Option Nat)
  | inNoCrc
  | out (least : Nat)

/-- A buffer reference is two words. -/
def bufAt (a b : Word) : BufRef := ⟨bf 0 a, bf 48 a, bf 64 a, bf 0 b⟩

def bufBits (a b : Word) : Bool := onlyBits [(0, 52), (64, 32)] a && onlyBits [(0, 64)] b

def State.wanted (s : State) (b : BufRef) : Want → Bool
  | .inp l => rangeOk b.space b.addr.toNat b.len.toNat && l.all (fun n => b.len.toNat == n) && s.bufReads b &&
      crc64 (s.mem.bytes b.space b.addr.toNat b.len.toNat) == b.crc
  | .inNoCrc => rangeOk b.space b.addr.toNat b.len.toNat && b.crc == 0
  | .out n => outBuf b n && b.crc == 0

/-- A command as its words give it: its body size, whether it has an abort form, whether its reserved bits are 0 and
its fields in range, its buffers, and its effect. -/
structure Cmd where
  len  : Nat
  disable : Bool := false
  bits : Bool := true
  field : Bool := true
  bufs : List (BufRef × Want) := []
  bufOk : Bool := true
  run  : State → Answer

/-- W0s: JOB and STRIPE. -/
def stripeIdAt (w : Word) : StripeId := ⟨bf 0 w, bf 16 w⟩

/-- The body words of a mailbox command. -/
abbrev Body := List Word

def Body.w (b : Body) (i : Nat) : Word := b.getD i 0

/-- A buffer reference in words `i` and `i + 1` of a body. -/
def Body.buf (b : Body) (i : Nat) : BufRef := bufAt (b.w i) (b.w (i + 1))

def Body.bufBits (b : Body) (i : Nat) : Bool := Machine.bufBits (b.w i) (b.w (i + 1))

/-! ### SYS, JOB and STRIPE (Tables 17-8 and 17-9) -/

def cmdSys (op : Nat) (src : Src) (b : Body) : Option Cmd :=
  let w0 := b.w 0
  match op with
  | 0x01 => some { len := 0, run := execSysIdent src }
  | 0x02 => some { len := 1, bits := onlyBits [(0, 32)] w0, field := leaseOk (bf 0 w0), run := execSysClaim src (bf 0 w0) }
  | 0x03 => some { len := 0, run := execSysRelease src }
  | 0x04 => some
      { len := 1, bits := onlyBits [(0, 16), (32, 32)] w0, field := leaseOk (bf 32 w0)
        run := execSysTakeover src (bf 0 w0) (bf 32 w0) }
  | 0x05 => some
      { len := 1, bits := onlyBits [(0, 52), (56, 5)] w0, field := eventqOk (bf 0 w0) (bf 48 w0) (bf 56 w0)
        run := execSysEventq src (bf 0 w0) (bf 48 w0) (bf 56 w0) }
  | 0x06 => some
      { len := 2, bits := b.bufBits 0, bufs := [(b.buf 0, .out 65536)], run := execSysRollcall src (b.buf 0) }
  | 0x07 => some
      { len := 1, bits := onlyBits [(0, 2), (32, 32)] w0, field := fld 1 0 w0 != 3
        run := execSysReset src (bf 0 w0) (bf 32 w0) }
  | 0x08 => some
      { len := 2, bits := b.bufBits 0, bufs := [(b.buf 0, .inp none)], run := execSysFwStage src (b.buf 0) }
  | 0x09 => some { len := 0, run := execSysFwSwitch src }
  | 0x0A => some
      { len := 3, bits := onlyBits [(0, 64)] w0 && b.bufBits 1, bufs := [(b.buf 1, .out (64 * fld 63 32 w0))]
        run := execSysFaultlogRead src (bf 0 w0) (bf 32 w0) (b.buf 1) }
  | _ => none

def cmdJob (op : Nat) (src : Src) (abort : Bool) (b : Body) : Option Cmd :=
  let w0 := b.w 0
  let job := onlyBits [(0, 16)] w0
  match op with
  | 0x01 => some
      { len := 1, bits := onlyBits [(0, 19)] w0, field := fld 17 16 w0 != 3
        run := execJobOpen src (bf 0 w0) (bf 16 w0) (bitAt 18 w0) }
  | 0x02 => some { len := 1, bits := onlyBits [(0, 16), (64, 32)] w0, run := execJobFeed src (bf 0 w0) (bf 64 w0) }
  | 0x03 => some { len := 1, bits := job, run := execJobQuery src (bf 0 w0) }
  | 0x04 => some { len := 1, disable := true, bits := job, run := execJobAbort src (bf 0 w0) abort }
  | 0x05 => some { len := 1, bits := job, run := execJobClose src (bf 0 w0) }
  | 0x06 => some
      { len := 3, bits := onlyBits [(0, 64)] w0 && b.bufBits 1, bufs := [(b.buf 1, .out 0)]
        run := execJobLedgerRead src (stripeIdAt w0) (bf 32 w0) (bf 48 w0) (b.buf 1) }
  | _ => none

def cmdStripe (op : Nat) (src : Src) (abort : Bool) (n : Nat) (b : Body) : Option Cmd :=
  let w0 := b.w 0
  let id := stripeIdAt w0
  let bits := onlyBits [(0, 32)] w0
  match op with
  | 0x01 =>
    if n ≤ 1 then some { len := 1, bits := bits, run := execStripeStatus src id none }
    else some
      { len := 3, bits := bits && b.bufBits 1, bufs := [(b.buf 1, .out 0)]
        run := execStripeStatus src id (some (b.buf 1)) }
  | 0x02 => some { len := 1, bits := bits, run := execStripeArm src id }
  | 0x03 => some { len := 1, bits := bits, run := execStripeDisarm src id }
  | 0x04 => some
      { len := 3
        bits := onlyBits [(0, 32), (48, 16)] w0 && onlyBits [(0, 72)] (b.w 1) && onlyBits [(0, 48), (64, 32)] (b.w 2)
        field := fld 71 49 (b.w 1) != 0
        run := execStripeGo src id (bf 48 w0) (bf 0 (b.w 1)) (bitAt 48 (b.w 1)) (bf 49 (b.w 1)) (bf 0 (b.w 2))
          (bf 64 (b.w 2)) }
  | 0x05 => some { len := 1, disable := true, bits := bits, run := execStripeStop src id abort }
  | 0x06 => some { len := 1, bits := bits, run := execStripeResume src id }
  | 0x07 => some { len := 1, bits := bits, run := execStripeRelease src id }
  | _ => none

/-! ### BEAM and STAGE (Table 17-11) -/

/-- The fit record of Table 8-2. -/
def fitRecAt (b : Body) : FitRec :=
  ⟨bf 0 (b.w 0), bf 32 (b.w 0), bf 64 (b.w 0), bf 96 (b.w 0), bf 0 (b.w 1), bf 32 (b.w 1), bf 64 (b.w 1), bf 96 (b.w 1),
    bf 0 (b.w 2), bf 32 (b.w 2)⟩

/-- The beam numbers of BEAM.DEAD.SET, 32 bits each, four to a word from W1. -/
def beamsAt (b : Body) (n : Nat) : List (BitVec 32) :=
  (List.range n).map fun i => bf (32 * (i % 4)) (b.w (1 + i / 4))

/-- The unused fields of the last word are 0. -/
def beamsBits (b : Body) (n : Nat) : Bool := n % 4 == 0 || onlyBits [(0, 32 * (n % 4))] (b.w (n / 4 + 1))

def cmdBeam (op : Nat) (src : Src) (b : Body) : Option Cmd :=
  let w0 := b.w 0
  let n := fld 15 0 w0
  let beams := onlyBits [(0, 16)] w0 && beamsBits b n
  match op with
  | 0x01 => some
      { len := 2, bits := b.bufBits 0, bufs := [(b.buf 0, .inp (some 524320))], run := execBeamGainLoad src (b.buf 0) }
  | 0x02 => some
      { len := 1 + (n + 3) / 4, bits := beams, field := decide (1 ≤ n ∧ n ≤ 504)
        run := execBeamDeadSet src (beamsAt b n) }
  | 0x03 =>
    if n = 0xFFFF then some { len := 1, bits := onlyBits [(0, 16)] w0, run := execBeamDeadClear src none }
    else some
      { len := 1 + (n + 3) / 4, bits := beams, field := decide (1 ≤ n ∧ n ≤ 504)
        run := execBeamDeadClear src (some (beamsAt b n)) }
  | 0x04 => some { len := 1, bits := onlyBits [(0, 18)] w0, run := execBeamStuckClear src (bf 0 w0) }
  | 0x05 => some
      { len := 3, bits := onlyBits [(0, 32)] w0 && b.bufBits 1, bufs := [(b.buf 1, .out (2 ^ 20))]
        run := execBeamHistoryRead src (stripeIdAt w0) (b.buf 1) }
  | 0x06 => some { len := 1, bits := onlyBits [(0, 1)] w0, run := execBeamHistoryPolicy src (bitAt 0 w0) }
  | 0x07 => some
      { len := 3, bits := onlyBits [(0, 72), (96, 32)] w0 && onlyBits [(0, 64)] (b.w 2)
        field := fld 127 96 w0 == 0, run := execBeamFitSeal src (fitRecAt b) }
  | 0x08 => some { len := 0, run := execBeamStatus src }
  | _ => none

/-- The port record of Table 10-1. -/
def portRecAt (a b : Word) : PortRec where
  role := bf 0 a
  lanes := bitAt 3 a
  clkdiv := bf 4 a
  lat := bf 12 a
  wbits := bf 16 a
  dirinv := bitAt 22 a
  idread := bitAt 23 a
  failmax := bf 24 a
  td := bf 32 a
  offset := bf 64 a
  scale := bf 0 b
  jump := bf 32 b
  refen := bitAt 64 b
  refpol := bitAt 65 b
  missact := bf 66 b
  swpol := bf 68 b
  excl := bitAt 71 b
  edgemin := bf 72 b

def portRecBits (a b : Word) : Bool :=
  onlyBits [(0, 48), (64, 48)] a && onlyBits [(0, 56), (64, 24)] b

/-- One axis of Table 10-5. -/
def axisRecAt (a b : Word) : AxisRec :=
  ⟨bf 0 a, bf 16 a, bf 32 a, bf 53 a, bf 57 a, bf 60 a, bf 0 b, bf 48 b⟩

def axisRecBits (a b : Word) : Bool := onlyBits [(0, 7), (16, 16), (32, 32)] a && onlyBits [(0, 72)] b

/-- A mark entry (R271). -/
def markAt (w : Word) : MarkEntry := ⟨bf 0 w, bf 48 w, bf 72 w, bitAt 96 w⟩

def cmdStage (op : Nat) (src : Src) (b : Body) : Option Cmd :=
  let w0 := b.w 0
  let n := fld 20 16 w0
  match op with
  | 0x01 => some
      { len := 17
        bits := (List.range 6).all (fun i => portRecBits (b.w (2 * i)) (b.w (2 * i + 1))) && onlyBits [(0, 18)] (b.w 12) &&
          axisRecBits (b.w 13) (b.w 14) && axisRecBits (b.w 15) (b.w 16)
        run := execStageConfig src ((List.range 6).map fun i => portRecAt (b.w (2 * i)) (b.w (2 * i + 1)))
          ⟨bf 0 (b.w 12), axisRecAt (b.w 13) (b.w 14), axisRecAt (b.w 15) (b.w 16)⟩ }
  | 0x02 => some
      { len := 1 + n
        bits := onlyBits [(0, 3), (16, 5)] w0 && (List.range n).all fun i => onlyBits [(0, 97)] (b.w (1 + i))
        run := execStageMarks src (bf 0 w0) ((List.range n).map fun i => markAt (b.w (1 + i))) }
  | 0x03 => some { len := 0, run := execStageStatus src }
  | 0x04 => some { len := 0, run := execStageFaultClear src }
  | 0x05 => some { len := 1, bits := onlyBits [(0, 1)] w0, run := execStageSwitchTest src (bitAt 0 w0) }
  | 0x06 => some { len := 1, bits := onlyBits [(0, 42)] w0, run := execStagePacePolicy src (bf 0 w0) }
  | 0x07 => some
      { len := 1, bits := onlyBits [(0, 11), (16, 59), (80, 48)] w0, run := execStageEmu src (bf 0 w0) (bf 64 w0) }
  | _ => none

/-! ### CAM and CAL (Table 17-12) -/

/-- The camera port record of Table 13-1. -/
def camRecAt (a b : Word) : CamRec where
  wbits := bf 0 a
  pedge := bitAt 5 a
  lvpol := bitAt 6 a
  fvpol := bitAt 7 a
  prio := bf 8 a
  lat := bf 10 a
  mdiv := bf 12 a
  mclken := bitAt 23 a
  pclkratio := bf 32 a
  i2caddr := bf 48 a
  i2cspeed := bf 56 a
  ra16 := bitAt 58 a
  rd16 := bitAt 59 a
  staten := bitAt 60 a
  locen := bitAt 61 a
  spoten := bitAt 62 a
  corren := bitAt 63 a
  linew := bf 64 a
  lines := bf 80 a
  idreg := bf 96 a
  idlen := bf 112 a
  idval := bf 0 b
  wx := bf 32 b
  wy := bf 48 b
  ww := bf 64 b
  wh := bf 80 b
  black := bf 96 b

def camRecBits (a b : Word) : Bool :=
  onlyBits [(0, 24), (32, 23), (56, 58)] a && onlyBits [(0, 112)] b

/-- Entries of a settings slot (Table 13-2); `h` is its W0. -/
def slotEntries (h : Word) : Nat := fld 31 24 h + 1

def slotAt (b : Body) : SettingsSlot :=
  ⟨(List.range (slotEntries (b.w 1))).map fun e =>
    (bf (32 * (e % 4)) (b.w (2 + e / 4)), bf (32 * (e % 4) + 16) (b.w (2 + e / 4)))⟩

/-- A slot whose MAGIC or VERSION is wrong is refused with ST_CAM_CONFIG. -/
def runSettings (src : Src) (b : Body) (s : State) : Answer :=
  if fld 15 0 (b.w 1) == 0x4353 && fld 23 16 (b.w 1) == 1 then execCamSettings src (bf 0 (b.w 0)) (slotAt b) s
  else .next (s.fail src ST.camConfig)

/-- Bytes of the body from W2 on. -/
def bodyBytes (b : Body) (n : Nat) : List Byte := (wordsBytes (b.drop 2)).take n

def spotGridAt (b : Body) : SpotGrid :=
  ⟨bf 0 (b.w 1), bf 32 (b.w 1), bf 64 (b.w 1), bf 96 (b.w 1), bf 0 (b.w 2), bf 32 (b.w 2), bf 0 (b.w 3), bf 8 (b.w 3),
    bf 16 (b.w 3), bf 20 (b.w 3)⟩

def templateAt (w : Word) : TemplateRec := ⟨bf 0 w, bf 8 w, bf 16 w, bf 24 w, bf 32 w, bf 48 w, bf 64 w⟩

/-- A result ring: a multiple of 4 KiB up to 256 MiB (R345). -/
def ringOk (r : BufRef) : Bool := decide (0 < r.len.toNat ∧ r.len.toNat ≤ 2 ^ 28) && r.len.toNat % 4096 == 0

def cmdCam (op : Nat) (src : Src) (abort : Bool) (b : Body) : Option Cmd :=
  let w0 := b.w 0
  let w1 := b.w 1
  let cam : BitVec 2 := bf 0 w0
  let bits := onlyBits [(0, 2)] w0
  let port := cam != 3
  match op with
  | 0x01 => some
      { len := 3, bits := bits && camRecBits w1 (b.w 2), field := port, run := execCamConfig src cam (camRecAt w1 (b.w 2)) }
  | 0x02 => some
      { len := 2 + (slotEntries w1 + 3) / 4, bits := bits && onlyBits [(0, 32)] w1 && (slotEntries w1 % 4 == 0 ||
          onlyBits [(0, 32 * (slotEntries w1 % 4))] (b.w (2 + slotEntries w1 / 4)))
        field := port, run := runSettings src b }
  | 0x03 => some
      { len := 2 + (fld 6 0 w1 + 15) / 16
        bits := bits && onlyBits [(0, 15)] w1 &&
          (fld 6 0 w1 % 16 == 0 || onlyBits [(0, 8 * (fld 6 0 w1 % 16))] (b.w (2 + fld 6 0 w1 / 16)))
        field := port && decide (fld 6 0 w1 ≤ 64 ∧ fld 14 8 w1 ≤ 64)
        run := execCamI2cXfer src cam (bodyBytes b (fld 6 0 w1)) (bf 8 w1) }
  | 0x04 => some { len := 2, bits := bits && onlyBits [(0, 32)] w1, field := port, run := execCamStart src cam (bf 0 w1) }
  | 0x05 => some { len := 1, disable := true, bits := bits, field := port, run := execCamStop src cam abort }
  | 0x06 => some
      { len := 3, bits := bits && b.bufBits 1, field := port, bufs := [(b.buf 1, .inp none)]
        bufOk := (b.buf 1).len.toNat % 4 == 0, run := execCamDefects src cam (b.buf 1) }
  | 0x07 => some
      { len := 3, bits := bits && b.bufBits 1, field := port, bufs := [(b.buf 1, .inp (some 2178))]
        run := execCamShading src cam (b.buf 1) }
  | 0x08 => some
      { len := 4, bits := bits && onlyBits [(0, 3), (8, 7), (16, 7), (24, 6), (32, 64)] w1 && b.bufBits 2, field := port
        bufs := [(b.buf 2, .inp (some (2 * fld 14 8 w1 * fld 22 16 w1)))]
        run := execCamTemplate src cam (templateAt w1) (b.buf 2) }
  | 0x09 => some
      { len := 4, bits := bits && onlyBits [(0, 64)] (b.w 2) && onlyBits [(0, 24)] (b.w 3), field := port
        run := execCamSpotgrid src cam (spotGridAt b) }
  | 0x0A => some
      { len := 3, bits := bits && b.bufBits 1, field := port, bufs := [(b.buf 1, .out 0)], bufOk := ringOk (b.buf 1)
        run := execCamRing src cam (b.buf 1) }
  | 0x0B => some { len := 1, bits := bits, field := port, run := execCamStatus src cam }
  | _ => none

/-- The acquisition descriptor of Table 14-2. -/
def acqAt (b : Body) : AcqDesc :=
  ⟨bf 0 (b.w 0), bf 8 (b.w 0), bf 24 (b.w 0), bf 64 (b.w 0), bf 0 (b.w 1), bf 48 (b.w 1), bf 64 (b.w 1)⟩

def beamGridAt (b : Body) : BeamGrid :=
  ⟨bf 0 (b.w 0), bf 32 (b.w 0), bf 64 (b.w 0), bf 96 (b.w 0), bf 0 (b.w 1), bf 32 (b.w 1), bf 64 (b.w 1), bf 68 (b.w 1)⟩

/-- The policy record of Table 14-6. -/
def calPolicyAt (b : Body) : CalPolicy :=
  ⟨bf 0 (b.w 0), bf 3 (b.w 0), bf 5 (b.w 0), bf 11 (b.w 0), bf 25 (b.w 0), bf 41 (b.w 0), bitAt 57 (b.w 0),
    bf 64 (b.w 0), bf 0 (b.w 1), bf 16 (b.w 1)⟩

def cmdCal (op : Nat) (src : Src) (abort : Bool) (b : Body) : Option Cmd :=
  let w0 := b.w 0
  match op with
  | 0x01 => some
      { len := 2, bits := onlyBits [(0, 52), (64, 32)] (b.w 1), run := execCalAcquire src (acqAt b) }
  | 0x02 => some
      { len := 1
        run := execCalTsLimits src ((List.range 4).map fun n => (bf (32 * n) w0, bf (32 * n + 16) w0)) }
  | 0x03 => some { len := 1, bits := onlyBits [(0, 8)] w0, run := execCalTrimRun src (bf 0 w0) }
  | 0x04 => some { len := 2, bits := onlyBits [(0, 72)] (b.w 1), run := execCalGainRun src (beamGridAt b) }
  | 0x05 => some { len := 0, disable := true, run := execCalGainAbort src abort }
  | 0x06 => some
      { len := 2, bits := onlyBits [(0, 58), (64, 32)] w0 && onlyBits [(0, 48)] (b.w 1)
        run := execCalPolicy src (calPolicyAt b) }
  | 0x07 => some { len := 0, run := execCalStatus src }
  | _ => none

/-! ### LINK, MEM, DMA, CVU, TIME and PLATE (Table 17-13) -/

def cmdLink (op : Nat) (src : Src) (b : Body) : Option Cmd :=
  let w0 := b.w 0
  match op with
  | 0x01 => some
      { len := 1, bits := onlyBits [(0, 4), (16, 48)] w0
        run := execLinkThermal src (bf 0 w0) (bf 16 w0) (bf 32 w0) (bf 48 w0) }
  | 0x02 => some { len := 0, run := execLinkStatus src }
  | 0x03 => some { len := 1, bits := onlyBits [(0, 7)] w0, run := execLinkTest src (bf 0 w0) }
  | _ => none

def cmdMem (op : Nat) (src : Src) (b : Body) : Option Cmd :=
  match op with
  | 0x01 => some { len := 0, run := execMemStatus src }
  | 0x02 => some
      { len := 1, bits := onlyBits [(0, 48)] (b.w 0)
        run := execMemLandingRead src (stripeIdAt (b.w 0)) (bf 32 (b.w 0)) }
  | _ => none

def cmdDma (op : Nat) (src : Src) (abort : Bool) (b : Body) : Option Cmd :=
  let w0 := b.w 0
  let chan : BitVec 5 := bf 0 w0
  let bits := onlyBits [(0, 5)] w0
  match op with
  | 0x01 => some
      { len := 3, bits := bits
        run := execDmaConfig src chan (bf 0 (b.w 1)) (bf 64 (b.w 1)) (bf 0 (b.w 2)) (bf 64 (b.w 2)) }
  | 0x02 => some { len := 1, bits := onlyBits [(0, 5), (8, 1)] w0, run := execDmaStart src chan (bitAt 8 w0) }
  | 0x03 => some { len := 1, disable := true, bits := bits, run := execDmaStop src chan abort }
  | 0x04 => some { len := 1, bits := onlyBits [(0, 5), (16, 16)] w0, run := execDmaRingAdvance src chan (bf 16 w0) }
  | 0x05 => some { len := 1, bits := bits, run := execDmaStatus src chan }
  | _ => none

def cmdCvu (op : Nat) (src : Src) (b : Body) : Option Cmd :=
  let w0 := b.w 0
  match op with
  | 0x01 => some
      { len := 3, bits := onlyBits [(0, 5), (8, 1)] w0 && b.bufBits 1, bufs := [(b.buf 1, .inNoCrc)]
        run := execCvuCompute src (bf 0 w0) (bitAt 8 w0) (b.buf 1) }
  | 0x02 => some { len := 1, bits := onlyBits [(0, 5)] w0, run := execCvuSave src (bf 0 w0) }
  | 0x03 => some
      { len := 2, bits := onlyBits [(0, 5)] w0 && onlyBits [(0, 112)] (b.w 1)
        run := execCvuRestore src (bf 0 w0) (bf 0 (b.w 1)) (bf 64 (b.w 1)) }
  | _ => none

/-- The domain record of Table 16-2. -/
def domainRecAt (a b : Word) : DomainRec :=
  ⟨bf 0 a, if bitAt 8 a then .netB else .netA, bitAt 9 a, bitAt 10 a, bf 11 a, bf 19 a, bf 32 a, bf 64 a, bf 96 a, bf 0 b⟩

def cmdTime (op : Nat) (src : Src) (b : Body) : Option Cmd :=
  let w0 := b.w 0
  match op with
  | 0x01 => some
      { len := 3
        bits := onlyBits [(0, 1)] w0 && onlyBits [(0, 7), (8, 19), (32, 96)] (b.w 1) && onlyBits [(0, 32)] (b.w 2)
        run := execTimeDomain src (bf 0 w0) (domainRecAt (b.w 1) (b.w 2)) }
  | 0x02 => some
      { len := 1, bits := onlyBits [(0, 4), (8, 8)] w0
        run := execTimeSelect src (bf 0 w0) (bf 2 w0) (bitAt 3 w0) (bf 8 w0) }
  | 0x03 => some { len := 0, run := execTimeStatus src }
  | _ => none

def cmdPlate (op : Nat) (src : Src) (b : Body) : Option Cmd :=
  match op with
  | 0x01 => some
      { len := 3, bits := onlyBits [(0, 1)] (b.w 0)
        run := execPlateProvision src (bitAt 0 (b.w 0)) (b.w 2 ++ b.w 1) }
  | 0x02 => some
      { len := 6, bits := onlyBits [(0, 25), (64, 32)] (b.w 0)
        run := execPlateToken src ⟨b.w 0, b.w 1, b.w 2, b.w 3, b.w 5 ++ b.w 4⟩ }
  | 0x03 => some { len := 0, run := execPlateStatus src }
  | _ => none

/-! ### REPAIR, CODEC and TRACE (Table 17-14) -/

def cmdRepair (op : Nat) (src : Src) (abort : Bool) (n : Nat) (b : Body) : Option Cmd :=
  let w0 := b.w 0
  let bits := onlyBits [(0, 32)] w0
  match op with
  | 0x01 =>
    if n ≤ 1 then some { len := 1, bits := bits, run := execRepairQuery src (bf 0 w0) none }
    else some
      { len := 3, bits := bits && b.bufBits 1, bufs := [(b.buf 1, .out 0)]
        run := execRepairQuery src (bf 0 w0) (some (b.buf 1)) }
  | 0x02 => some { len := 1, bits := onlyBits [(0, 1)] w0, run := execRepairPolicy src (bitAt 0 w0) }
  | 0x03 => some { len := 1, bits := bits, run := execRepairSpare src (bf 0 w0) }
  | 0x04 => some { len := 1, bits := bits, run := execRepairReturn src (bf 0 w0) }
  | 0x05 => some { len := 1, disable := true, bits := bits, run := execRepairDisable src (bf 0 w0) abort }
  | _ => none

/-- The service job descriptor of Table 5-8. -/
def codecDescAt (b : Body) : CodecDesc where
  inAddr := bf 0 (b.w 0)
  inSpace := bf 48 (b.w 0)
  inLen := bf 64 (b.w 0)
  outAddr := bf 0 (b.w 1)
  outSpace := bf 48 (b.w 1)
  outLen := bf 64 (b.w 1)
  sinAddr := bf 0 (b.w 2)
  sinSpace := bf 48 (b.w 2)
  sinUse := bitAt 64 (b.w 2)
  soutAddr := bf 0 (b.w 3)
  soutSpace := bf 48 (b.w 3)
  soutUse := bitAt 64 (b.w 3)
  job := bf 0 (b.w 4)
  stripe := bf 16 (b.w 4)
  segment := bf 32 (b.w 4)
  panel := bf 48 (b.w 4)
  rev := bitAt 52 (b.w 4)
  rows := bf 64 (b.w 4)

def codecBits (b : Body) : Bool :=
  onlyBits [(0, 52), (64, 32)] (b.w 0) && onlyBits [(0, 52), (64, 32)] (b.w 1) && onlyBits [(0, 52), (64, 1)] (b.w 2) &&
    onlyBits [(0, 52), (64, 1)] (b.w 3) && onlyBits [(0, 53), (64, 16)] (b.w 4)

def cmdCodec (op : Nat) (src : Src) (abort : Bool) (b : Body) : Option Cmd :=
  match op with
  | 0x01 => some { len := 5, bits := codecBits b, run := execCodecEncode src (codecDescAt b) }
  | 0x02 => some { len := 5, bits := codecBits b, run := execCodecDecode src (codecDescAt b) }
  | 0x03 => some
      { len := 1, disable := true, bits := onlyBits [(0, 6)] (b.w 0)
        run := execCodecDisable src (bf 0 (b.w 0)) (bitAt 5 (b.w 0)) abort }
  | _ => none

def cmdTrace (op : Nat) (src : Src) (abort : Bool) (b : Body) : Option Cmd :=
  match op with
  | 0x01 => some
      { len := 3, bits := onlyBits [(0, 8)] (b.w 0) && b.bufBits 1, bufs := [(b.buf 1, .out 0)]
        run := execTraceStart src (bf 0 (b.w 0)) (b.buf 1) }
  | 0x02 => some { len := 0, disable := true, run := execTraceStop src abort }
  | 0x03 => some { len := 0, run := execTraceStatus src }
  | _ => none

/-- The command of an opcode; `n` is LEN. -/
def command? (op : Nat) (src : Src) (abort : Bool) (n : Nat) (b : Body) : Option Cmd :=
  let lo := op % 256
  match op / 256 with
  | 0x01 => cmdSys lo src b
  | 0x02 => cmdJob lo src abort b
  | 0x03 => cmdStripe lo src abort n b
  | 0x04 => cmdBeam lo src b
  | 0x05 => cmdStage lo src b
  | 0x06 => cmdCam lo src abort b
  | 0x07 => cmdCal lo src abort b
  | 0x08 => cmdLink lo src b
  | 0x09 => cmdMem lo src b
  | 0x0A => cmdDma lo src abort b
  | 0x0B => cmdCvu lo src b
  | 0x0C => cmdTime lo src b
  | 0x0D => cmdPlate lo src b
  | 0x0E => cmdRepair lo src abort n b
  | 0x0F => cmdCodec lo src abort b
  | 0x10 => cmdTrace lo src abort b
  | _ => none

/-! ### Acceptance (R414 to R416) -/

/-- Word `i` of a mailbox's command area. -/
def Mailbox.word (m : Mailbox) (i : Nat) : Word :=
  BitVec.ofNat 128 (leNat ((List.range 16).map fun j => readCell m.cmdArea (16 * i + j)))

/-- The two commands that are executed whatever their ALIVE (R416). -/
def anyAlive (op : Nat) : Bool := op == 0x0102 || op == 0x0106

/-- Checks 4 to 8 of Table 17-4: the status of the first that fails, or the command. -/
def State.checked (s : State) (c : Option Cmd) (h : Word) : Except (BitVec 16) Cmd :=
  match c with
  | none => .error ST.sysOpcode
  | some c =>
    if c.len ≠ fld 47 32 h then .error ST.sysLength
    else if (bitAt 56 h && !c.disable) || fld 63 57 h != 0 then .error ST.sysFlags
    else if !c.bits || !c.field then .error ST.sysField
    else if !c.bufOk || !(c.bufs.all fun x => s.wanted x.1 x.2) then .error ST.sysBuffer
    else .ok c

/-- A response that is not the stored response of an accepted command: failures at checks 1 to 3 (R415). -/
def State.turnAway (s : State) (src : Src) (st : BitVec 16) (detail : Nat) : State :=
  let m := s.mb src.mb
  (s.respond src st detail false []).onMb src.mb fun x => { x with kept0 := m.kept0, kept1 := m.kept1, keptBody := m.keptBody }

/-- The stored response again, with REPEAT = 1 (R415). -/
def State.repeatResponse (s : State) (src : Src) : State :=
  (s.onMb src.mb fun m =>
    { m with busy := false, done := true, resp0 := m.kept0, resp1 := m.kept1 ||| BitVec.ofNat 128 (2 ^ 16), respBody := m.keptBody }).msix
      src.port src.mb.toNat

/-- What a meaning leaves. -/
def stateOf (a : Answer) (s : State) : State :=
  match a with
  | .next t => t
  | .fault _ => s
  | .refused _ => s

/-- The command is journalled and executed; a mailbox without an owner has no last ALIVE (R416, R419). -/
def State.perform (s : State) (src : Src) (h : Word) (c : Option Cmd) : State :=
  let s1 := s.onMb src.mb fun m => { m with lastAlive := some (bf 48 h) }
  let s2 := match s1.checked c h with
    | .error st => s1.fail src st
    | .ok c => let t := s1.onRef fun r => { r with journal := r.journal + 1 }
      stateOf (c.run t) t
  s2.onMb src.mb fun m => if m.owner.isNone then { m with lastAlive := none } else m

/-- An accepted doorbell: DONE clears, BUSY is set, the command area is copied and judged (R413, Table 17-4). -/
def State.acceptBell (s : State) (src : Src) : State :=
  let m := s.mb src.mb
  let h := m.word 0
  let n := fld 47 32 h
  let b : Body := (List.range (min n 127)).map fun i => m.word (i + 1)
  let s1 := (s.onMb src.mb fun m => { m with busy := true, done := false, header := h }).onPort src.port fun p =>
    { p with lastBell := s.now, departed := false }
  let next := (m.lastAlive.map (· + 1)).getD 0
  if 127 < n then s1.turnAway src ST.sysLength 0
  else if fld 127 64 h ≠ (if n = 0 then 0 else (crc64W b).toNat) then s1.turnAway src ST.sysBodyCrc 0
  else if anyAlive (fld 15 0 h) || fld 55 48 h == next.toNat then
    s1.perform src h (command? (fld 15 0 h) src (bitAt 56 h) n b)
  else if m.lastAlive == some (bf 48 h) then s1.repeatResponse src
  else s1.turnAway src ST.sysAliveGap next.toNat

/-! ### Doorbells (R411, R485) -/

/-- A doorbell that is ignored and counted. -/
def State.ignoreBell (s : State) (mb : BitVec 4) : State := s.onMb mb fun m => { m with ignored := satInc 16 m.ignored }

/-- HELD (R485): once for a mailbox and port. -/
def State.holdBell (s : State) (src : Src) : State :=
  if s.host.held.contains (src.port, src.mb) then s
  else s.onHost fun h => { h with held := h.held ++ [(src.port, src.mb)] }

/-- A doorbell judged at its arrival. -/
def State.ring (s : State) (src : Src) : State :=
  let m := s.mb src.mb
  if !s.power.ready then s.ignoreBell src.mb
  else match m.owner with
    | none =>
      if fld 15 0 (m.word 0) ≠ 0x0102 then s.ignoreBell src.mb
      else if !s.firmware then s.holdBell src
      else s.acceptBell src
    | some p =>
      if p ≠ src.port then
        let e := { Event.of ST.sysNotOwner with
          d0 := BitVec.ofNat 64 src.mb.toNat, d1 := BitVec.ofNat 64 (satInc 16 m.ignored), stamp := s.fwStamp }
        (s.ignoreBell src.mb).draw.raiseAt p e
      else if m.busy then s.onMb src.mb fun m => { m with overrun := satInc 16 m.overrun }
      else if !s.firmware then s.holdBell src
      else s.acceptBell src
/-- What a host writes into its own memory. -/
def State.hostWrite (s : State) (w : HostWrite) : State :=
  if w.addr.toNat + w.bytes.length ≤ spaceEnd spHostA then
    s.write (if w.port = .hostA then spHostA else spHostB) w.addr.toNat w.bytes
  else s

/-- MB_DOORBELL: the host's writes to its memory come first (R413). -/
def execMbDoorbell (port : Port) (mb : BitVec 4) (value : BitVec 64) (writes : List HostWrite) (s : State) : Answer :=
  let s1 := writes.foldl State.hostWrite s
  .next (if value.getLsbD 0 && (s1.port port).linkUp then s1.ring ⟨port, mb⟩ else s1)

/-! ### Registers written directly (R410, R483, R487) -/

/-- A write to the MSI-X table; a vector that is unmasked sends what is pending. -/
def State.msixWrite (s : State) (p : Port) (off size : Nat) (v : BitVec 64) : State :=
  let n := off / 16
  let e := (s.port p).msix.getD n ⟨0, 0, true⟩
  let lo : Nat := fld 31 0 v
  let hi : Nat := fld 63 32 v
  let e1 : MsixEntry :=
    match off % 16, size with
    | 0, 8 => { e with addr := v }
    | 0, _ => { e with addr := BitVec.ofNat 64 (e.addr.toNat / 2 ^ 32 * 2 ^ 32 + lo) }
    | 4, _ => { e with addr := BitVec.ofNat 64 (e.addr.toNat % 2 ^ 32 + lo * 2 ^ 32) }
    | 8, 8 => { e with data := BitVec.ofNat 32 lo, masked := decide (hi % 2 = 1) }
    | 8, _ => { e with data := BitVec.ofNat 32 lo }
    | _, _ => { e with masked := decide (lo % 2 = 1) }
  let s1 := s.onPort p fun q => { q with msix := q.msix.set n e1 }
  if !e1.masked && (s1.port p).msixPend.getLsbD n then
    (s1.onPort p fun q => { q with msixPend := q.msixPend &&& ~~~ (BitVec.ofNat 18 (2 ^ n)) }).emit (.msix p n)
  else s1

/-- A BAR0 write of 4 or 8 bytes, naturally aligned; any other is ignored, and so are the registers that are not
written directly (R483). -/
def State.bar0Write (s : State) (p : Port) (off size : Nat) (v : BitVec 64) : Answer :=
  if (size ≠ 4 ∧ size ≠ 8) ∨ off % size ≠ 0 then .next s
  else if 0x1000 ≤ off ∧ off < 0x1080 then
    if off % 8 = 0 then execMbDoorbell p (BitVec.ofNat 4 ((off - 0x1000) / 8)) v [] s else .next s
  else if off = 0x210 then execEvqRpWrite p (BitVec.ofNat 64 (fld 31 0 v)) s
  else if off = 0x2010 then s.supvWrite p (if size = 4 then BitVec.ofNat 64 (fld 31 0 v) else v)
  else if 0x8000 ≤ off ∧ off < 0x8120 then .next (s.msixWrite p (off - 0x8000) size v)
  else .next s

/-- BAR2 bytes land in the command areas; the response areas ignore them (R410). -/
def State.bar2Write (s : State) (off : Nat) (bs : List Byte) : State :=
  (bs.zipIdx off).foldl (fun (t : State) (x : Byte × Nat) =>
    if x.2 < 65536 ∧ x.2 % 4096 < 2048 then
      t.onMb (BitVec.ofNat 4 (x.2 / 4096)) fun m => { m with cmdArea := writeCells m.cmdArea (x.2 % 4096) [x.1] }
    else t) s

/-! ### What BAR0 reads (R7, R483 to R490, Tables 21-1 to 21-6) -/

/-- ID.STATE as a port reads it. -/
def State.idState (s : State) (p : Port) : Nat :=
  let f := s.fw
  b2n s.power.ready + 2 * b2n s.ref.safe + 4 * marshalNum s.ref.active + 8 * b2n s.standbyOk + 16 * portNum p +
    2 ^ 8 * s.power.cause.toNat + 2 ^ 12 * b2n f.run + 2 ^ 13 * b2n f.slot0.valid + 2 ^ 14 * b2n f.slot1.valid +
    2 ^ 16 * f.slot0.bootfail.toNat + 2 ^ 24 * f.slot1.bootfail.toNat

/-- ID.FW[s]. -/
def FwSlot.idReg (f : FwSlot) : Nat := (if f.valid then f.version.toNat else 0) + 2 ^ 32 * f.actseq.toNat

/-- MB.STAT[n] as a port reads it (Table 21-3). -/
def State.mbStat (s : State) (p : Port) (n : BitVec 4) : Nat :=
  let m := s.mb n
  b2n m.busy + 2 * b2n m.done + 4 * (m.owner.map fun o => portNum o + 1).getD 0 + 16 * b2n (m.owner == some p) +
    32 * b2n (s.host.held.contains (p, n)) + 2 ^ 8 * (m.lastAlive.getD 0).toNat + 2 ^ 16 * m.overrun + 2 ^ 32 * m.ignored

/-- MB.MAP as a port reads it. -/
def State.mbMap (s : State) (p : Port) : Nat :=
  ((List.range 16).map fun n =>
    let m := s.mb (BitVec.ofNat 4 n)
    if m.owner = some p then 2 ^ n * b2n m.done + 2 ^ (16 + n) * b2n m.busy else 0).sum

/-- The event queue registers of a port (Table 21-4). -/
def EventQueue.reg (q : EventQueue) : Nat → Nat
  | 0 => q.base.toNat + 2 ^ 48 * q.space.toNat + 2 ^ 56 * q.log2n.toNat
  | 1 => q.wp + 2 ^ 32 * b2n q.phase
  | 2 => q.rp
  | 3 => min q.staged.length 65535 + 2 ^ 16 * min q.lost 65535 + 2 ^ 32 * q.eseq.toNat
  | _ => 0

/-- The 64-bit register at an offset of BAR0 as a port reads it: an RO or RW register its value, a WO register and
an offset without a register 0. TSNAP.CTR gives the latched counter; the latch is TSNAP_CTR_READ's. -/
def State.bar0Reg (s : State) (p : Port) (off : Nat) : Nat :=
  let q := s.port p
  if off = 0x0 then 0xA512 + 2 ^ 16 * Config.stepping.toNat + 2 ^ 20
  else if off = 0x8 then Config.serial.toNat
  else if off = 0x10 then s.fw.slot0.idReg
  else if off = 0x18 then s.fw.slot1.idReg
  else if off = 0x20 then s.idState p
  else if off = 0x100 then q.tsCtr.toNat
  else if off = 0x108 then q.tsStamp.toNat
  else if off = 0x110 then q.tsSel.toNat
  else if 0x200 ≤ off ∧ off < 0x220 then q.evq.reg ((off - 0x200) / 8)
  else if 0x1080 ≤ off ∧ off < 0x1100 then s.mbStat p (BitVec.ofNat 4 ((off - 0x1080) / 8))
  else if off = 0x1100 then s.mbMap p
  else if off = 0x2000 then s.supvStatus
  else if off = 0x2008 then s.ref.supvTime.toNat
  else if off = 0x2018 then s.ref.supvResult.toNat
  else if 0x2020 ≤ off ∧ off < 0x2040 then (s.ref.supvData.getD ((off - 0x2020) / 8) 0).toNat
  else if 0x8000 ≤ off ∧ off < 0x8120 then
    let e := q.msix.getD ((off - 0x8000) / 16) ⟨0, 0, true⟩
    if off % 16 = 0 then e.addr.toNat else e.data.toNat + 2 ^ 32 * b2n e.masked
  else if off = 0x9000 then q.msixPend.toNat
  else 0

/-- A BAR0 read of 4 or 8 bytes; any other size or alignment reads 0 (R483). -/
def State.bar0Read (s : State) (p : Port) (off size : Nat) : Nat :=
  if (size ≠ 4 ∧ size ≠ 8) ∨ off % size ≠ 0 then 0
  else
    let v := s.bar0Reg p (off / 8 * 8)
    if size = 8 then v else v / 2 ^ (32 * (off / 4 % 2)) % 2 ^ 32

/-- A BAR2 read: bytes of the command area as the host left them, and of the response area: header, word 1 and
the body of the response (R410). -/
def State.bar2Byte (s : State) (off : Nat) : Byte :=
  let m := s.mb (BitVec.ofNat 4 (off / 4096))
  let o := off % 4096
  if o < 2048 then readCell m.cmdArea o
  else (wordBytes (([m.resp0, m.resp1] ++ m.respBody).getD ((o - 2048) / 16) 0)).getD (o % 16) 0

/-- REGISTER_WRITE. -/
def execRegisterWrite (t : RegTarget) (s : State) : Answer :=
  match t with
  | .bar0 p off size v => if (s.port p).linkUp then s.bar0Write p off.toNat size.toNat v else .next s
  | .bar2 p off bs => .next (if (s.port p).linkUp then s.bar2Write off.toNat bs else s)
  | .devreg a v => .next (s.devWrite a.toNat v)

/-! ### The end of a failover (Table 18-6, R419) -/

/-- Held doorbells are accepted in order. -/
def State.acceptHeld (s : State) : State :=
  s.host.held.foldl (fun (t : State) (x : Port × BitVec 4) => t.ring ⟨x.1, x.2⟩)
    (s.onHost fun h => { h with held := [] })

/-- A command in flight without a journalled outcome is answered with ST_SYS_FAILOVER. -/
def State.answerFlight (s : State) : State :=
  s.host.waiting.foldl (fun (t : State) (w : Waiting) =>
    match w.cmd with
    | .stripeGo .. => (t.unwait w.src.mb).fail w.src ST.sysFailover
    | _ => t) s

def State.drainAll (s : State) : State :=
  let s1 := State.drainEvents (s.host.portA.evq.staged.length + 2) .hostA s
  State.drainEvents (s1.host.portB.evq.staged.length + 2) .hostB s1

/-- FAILOVER_REPLAY_COMPLETE: step 4 of Table 18-6, or the replay that R441 asks for in the safe state. -/
def execFailoverReplayComplete (replayed : Bool) (s : State) : Answer :=
  .next (
    if s.ref.failover then
      if replayed then
        let s1 := ((s.onRef fun r => { r with failover := false, replayed := true }).answerFlight).acceptHeld.drainAll
        let s2 := s1.fault none (marshalEvent ST.sysFailover (otherMarshal s1.ref.active) s1.runVersion)
        if s2.plate.dirty then s2.plateCommit else s2
      else (s.onRef fun r => { r with failover := false }).safeEnter 2
    else if s.ref.safe && (s.ref.marshal s.ref.active).healthy && !s.ref.replayed then
      if replayed then ((s.onRef fun r => { r with replayed := true }).acceptHeld).drainAll else s.safeEnter 2
    else s)

end Sys2Proof.Machine
end

