-- ==== Sys2Proof/Machine/Dispatch.lean ====
section
/-!
DEFINITION. The dispatch of a command to its meaning: one arm per constructor.
-/

namespace Sys2Proof.Machine

def exec (i : Instr) (s : State) : Host.Outcome State Fault Refusal :=
  match i with
  | .sysIdent src => Sys2Proof.Machine.execSysIdent src s
  | .sysClaim src lease => Sys2Proof.Machine.execSysClaim src lease s
  | .sysRelease src => Sys2Proof.Machine.execSysRelease src s
  | .sysTakeover src mbmask lease => Sys2Proof.Machine.execSysTakeover src mbmask lease s
  | .sysEventq src base space log2n => Sys2Proof.Machine.execSysEventq src base space log2n s
  | .sysRollcall src buf => Sys2Proof.Machine.execSysRollcall src buf s
  | .sysReset src scope node => Sys2Proof.Machine.execSysReset src scope node s
  | .sysFwStage src buf => Sys2Proof.Machine.execSysFwStage src buf s
  | .sysFwSwitch src => Sys2Proof.Machine.execSysFwSwitch src s
  | .sysFaultlogRead src first count buf => Sys2Proof.Machine.execSysFaultlogRead src first count buf s
  | .jobOpen src job target dual => Sys2Proof.Machine.execJobOpen src job target dual s
  | .jobFeed src job wp => Sys2Proof.Machine.execJobFeed src job wp s
  | .jobQuery src job => Sys2Proof.Machine.execJobQuery src job s
  | .jobAbort src job abort => Sys2Proof.Machine.execJobAbort src job abort s
  | .jobClose src job => Sys2Proof.Machine.execJobClose src job s
  | .jobLedgerRead src st first count buf => Sys2Proof.Machine.execJobLedgerRead src st first count buf s
  | .stripeStatus src st buf => Sys2Proof.Machine.execStripeStatus src st buf s
  | .stripeArm src st => Sys2Proof.Machine.execStripeArm src st s
  | .stripeDisarm src st => Sys2Proof.Machine.execStripeDisarm src st s
  | .stripeGo src st waitmax yref sense crossmax xcref tlb => Sys2Proof.Machine.execStripeGo src st waitmax yref sense crossmax xcref tlb s
  | .stripeStop src st abort => Sys2Proof.Machine.execStripeStop src st abort s
  | .stripeResume src st => Sys2Proof.Machine.execStripeResume src st s
  | .stripeRelease src st => Sys2Proof.Machine.execStripeRelease src st s
  | .beamGainLoad src buf => Sys2Proof.Machine.execBeamGainLoad src buf s
  | .beamDeadSet src beams => Sys2Proof.Machine.execBeamDeadSet src beams s
  | .beamDeadClear src beams => Sys2Proof.Machine.execBeamDeadClear src beams s
  | .beamStuckClear src b => Sys2Proof.Machine.execBeamStuckClear src b s
  | .beamHistoryRead src st buf => Sys2Proof.Machine.execBeamHistoryRead src st buf s
  | .beamHistoryPolicy src reqzero => Sys2Proof.Machine.execBeamHistoryPolicy src reqzero s
  | .beamFitSeal src fit => Sys2Proof.Machine.execBeamFitSeal src fit s
  | .beamStatus src => Sys2Proof.Machine.execBeamStatus src s
  | .stageConfig src ports tracker => Sys2Proof.Machine.execStageConfig src ports tracker s
  | .stageMarks src port marks => Sys2Proof.Machine.execStageMarks src port marks s
  | .stageStatus src => Sys2Proof.Machine.execStageStatus src s
  | .stageFaultClear src => Sys2Proof.Machine.execStageFaultClear src s
  | .stageSwitchTest src on => Sys2Proof.Machine.execStageSwitchTest src on s
  | .stagePacePolicy src policy => Sys2Proof.Machine.execStagePacePolicy src policy s
  | .stageEmu src emu0 emu1 => Sys2Proof.Machine.execStageEmu src emu0 emu1 s
  | .camConfig src cam rec => Sys2Proof.Machine.execCamConfig src cam rec s
  | .camSettings src cam slot => Sys2Proof.Machine.execCamSettings src cam slot s
  | .camI2cXfer src cam wdata rlen => Sys2Proof.Machine.execCamI2cXfer src cam wdata rlen s
  | .camStart src cam frames => Sys2Proof.Machine.execCamStart src cam frames s
  | .camStop src cam abort => Sys2Proof.Machine.execCamStop src cam abort s
  | .camDefects src cam buf => Sys2Proof.Machine.execCamDefects src cam buf s
  | .camShading src cam buf => Sys2Proof.Machine.execCamShading src cam buf s
  | .camTemplate src cam tpl buf => Sys2Proof.Machine.execCamTemplate src cam tpl buf s
  | .camSpotgrid src cam grid => Sys2Proof.Machine.execCamSpotgrid src cam grid s
  | .camRing src cam buf => Sys2Proof.Machine.execCamRing src cam buf s
  | .camStatus src cam => Sys2Proof.Machine.execCamStatus src cam s
  | .calAcquire src desc => Sys2Proof.Machine.execCalAcquire src desc s
  | .calTsLimits src limits => Sys2Proof.Machine.execCalTsLimits src limits s
  | .calTrimRun src item => Sys2Proof.Machine.execCalTrimRun src item s
  | .calGainRun src grid => Sys2Proof.Machine.execCalGainRun src grid s
  | .calGainAbort src abort => Sys2Proof.Machine.execCalGainAbort src abort s
  | .calPolicy src policy => Sys2Proof.Machine.execCalPolicy src policy s
  | .calStatus src => Sys2Proof.Machine.execCalStatus src s
  | .linkThermal src ch warn stop trip => Sys2Proof.Machine.execLinkThermal src ch warn stop trip s
  | .linkStatus src => Sys2Proof.Machine.execLinkStatus src s
  | .linkTest src lane => Sys2Proof.Machine.execLinkTest src lane s
  | .memStatus src => Sys2Proof.Machine.execMemStatus src s
  | .memLandingRead src st seg => Sys2Proof.Machine.execMemLandingRead src st seg s
  | .dmaConfig src chan cfg pace head cring => Sys2Proof.Machine.execDmaConfig src chan cfg pace head cring s
  | .dmaStart src chan resume => Sys2Proof.Machine.execDmaStart src chan resume s
  | .dmaStop src chan abort => Sys2Proof.Machine.execDmaStop src chan abort s
  | .dmaRingAdvance src chan rp => Sys2Proof.Machine.execDmaRingAdvance src chan rp s
  | .dmaStatus src chan => Sys2Proof.Machine.execDmaStatus src chan s
  | .cvuCompute src unit init buf => Sys2Proof.Machine.execCvuCompute src unit init buf s
  | .cvuSave src unit => Sys2Proof.Machine.execCvuSave src unit s
  | .cvuRestore src unit value count => Sys2Proof.Machine.execCvuRestore src unit value count s
  | .timeDomain src d rec => Sys2Proof.Machine.execTimeDomain src d rec s
  | .timeSelect src mode pref revert slew => Sys2Proof.Machine.execTimeSelect src mode pref revert slew s
  | .timeStatus src => Sys2Proof.Machine.execTimeStatus src s
  | .plateProvision src svc key => Sys2Proof.Machine.execPlateProvision src svc key s
  | .plateToken src token => Sys2Proof.Machine.execPlateToken src token s
  | .plateStatus src => Sys2Proof.Machine.execPlateStatus src s
  | .repairQuery src node buf => Sys2Proof.Machine.execRepairQuery src node buf s
  | .repairPolicy src manual => Sys2Proof.Machine.execRepairPolicy src manual s
  | .repairSpare src node => Sys2Proof.Machine.execRepairSpare src node s
  | .repairReturn src node => Sys2Proof.Machine.execRepairReturn src node s
  | .repairDisable src node abort => Sys2Proof.Machine.execRepairDisable src node abort s
  | .codecEncode src desc => Sys2Proof.Machine.execCodecEncode src desc s
  | .codecDecode src desc => Sys2Proof.Machine.execCodecDecode src desc s
  | .codecDisable src lane decode abort => Sys2Proof.Machine.execCodecDisable src lane decode abort s
  | .traceStart src srcmask buf => Sys2Proof.Machine.execTraceStart src srcmask buf s
  | .traceStop src abort => Sys2Proof.Machine.execTraceStop src abort s
  | .traceStatus src => Sys2Proof.Machine.execTraceStatus src s
  | .status via => Sys2Proof.Machine.execStatus via s
  | .snapshot via offset => Sys2Proof.Machine.execSnapshot via offset s
  | .resetMarshal via arg => Sys2Proof.Machine.execResetMarshal via arg s
  | .resetAll via arg => Sys2Proof.Machine.execResetAll via arg s
  | .mbDoorbell port mb value writes => Sys2Proof.Machine.execMbDoorbell port mb value writes s
  | .evqRpWrite port value => Sys2Proof.Machine.execEvqRpWrite port value s
  | .tsnapCtrRead port byte0 => Sys2Proof.Machine.execTsnapCtrRead port byte0 s
  | .supvStatusRead port => Sys2Proof.Machine.execSupvStatusRead port s
  | .memThaw st value => Sys2Proof.Machine.execMemThaw st value s
  | .dmaCmdStart chan => Sys2Proof.Machine.execDmaCmdStart chan s
  | .dmaCmdResume chan => Sys2Proof.Machine.execDmaCmdResume chan s
  | .dmaCmdDrain chan => Sys2Proof.Machine.execDmaCmdDrain chan s
  | .dmaCmdAbort chan => Sys2Proof.Machine.execDmaCmdAbort chan s
  | .cvuDataFeed unit data => Sys2Proof.Machine.execCvuDataFeed unit data s
  | .cvuCmdInit unit nbm1 => Sys2Proof.Machine.execCvuCmdInit unit nbm1 s
  | .registerWrite target => Sys2Proof.Machine.execRegisterWrite target s
  | .parseSlot => Sys2Proof.Machine.execParseSlot s
  | .canopyPassStart st => Sys2Proof.Machine.execCanopyPassStart st s
  | .canopyPassComplete st => Sys2Proof.Machine.execCanopyPassComplete st s
  | .canopyFault => Sys2Proof.Machine.execCanopyFault s
  | .checkPassStart st => Sys2Proof.Machine.execCheckPassStart st s
  | .checkPassComplete st => Sys2Proof.Machine.execCheckPassComplete st s
  | .landingPassStart st => Sys2Proof.Machine.execLandingPassStart st s
  | .tileDispatch engine => Sys2Proof.Machine.execTileDispatch engine s
  | .tileComplete engine observed => Sys2Proof.Machine.execTileComplete engine observed s
  | .tileWatchdogExpiry engine => Sys2Proof.Machine.execTileWatchdogExpiry engine s
  | .engineParityError engine => Sys2Proof.Machine.execEngineParityError engine s
  | .graderMismatch st seg panel => Sys2Proof.Machine.execGraderMismatch st seg panel s
  | .panelEncodeStart lane st seg panel extA extB recs => Sys2Proof.Machine.execPanelEncodeStart lane st seg panel extA extB recs s
  | .panelEncodeComplete lane => Sys2Proof.Machine.execPanelEncodeComplete lane s
  | .encodeMismatch lane => Sys2Proof.Machine.execEncodeMismatch lane s
  | .decodeLaneFault lane => Sys2Proof.Machine.execDecodeLaneFault lane s
  | .decodeBufferResume lane addr space len => Sys2Proof.Machine.execDecodeBufferResume lane addr space len s
  | .serviceJobStart mb lane => Sys2Proof.Machine.execServiceJobStart mb lane s
  | .serviceJobComplete mb mismatch => Sys2Proof.Machine.execServiceJobComplete mb mismatch s
  | .segmentLanded st seg => Sys2Proof.Machine.execSegmentLanded st seg s
  | .sealReadbackComplete st seg badA badB => Sys2Proof.Machine.execSealReadbackComplete st seg badA badB s
  | .signatureTableParity st seg badA badB => Sys2Proof.Machine.execSignatureTableParity st seg badA badB s
  | .preparationStart st seg slot => Sys2Proof.Machine.execPreparationStart st seg slot s
  | .segmentReady st seg badRead => Sys2Proof.Machine.execSegmentReady st seg badRead s
  | .arbitrationComplete st seg panel badA badB => Sys2Proof.Machine.execArbitrationComplete st seg panel badA badB s
  | .copyRewriteComplete st seg panel copy exts ok => Sys2Proof.Machine.execCopyRewriteComplete st seg panel copy exts ok s
  | .extentPatternTest st addr pass => Sys2Proof.Machine.execExtentPatternTest st addr pass s
  | .scrubSegment st seg badA badB => Sys2Proof.Machine.execScrubSegment st seg badA badB s
  | .playBufferEcc st seg word => Sys2Proof.Machine.execPlayBufferEcc st seg word s
  | .rerenderStart st seg => Sys2Proof.Machine.execRerenderStart st seg s
  | .rerenderComplete st seg equal => Sys2Proof.Machine.execRerenderComplete st seg equal s
  | .refresh st => Sys2Proof.Machine.execRefresh st s
  | .tempBandSample => Sys2Proof.Machine.execTempBandSample s
  | .memUncorrectable st addr loc src syn => Sys2Proof.Machine.execMemUncorrectable st addr loc src syn s
  | .memAutoThaw st => Sys2Proof.Machine.execMemAutoThaw st s
  | .channelRetireTrigger st ch trigger => Sys2Proof.Machine.execChannelRetireTrigger st ch trigger s
  | .unitMigrationComplete st unit bad => Sys2Proof.Machine.execUnitMigrationComplete st unit bad s
  | .channelRetired st ch => Sys2Proof.Machine.execChannelRetired st ch s
  | .flashPlace => Sys2Proof.Machine.execFlashPlace s
  | .fireMarker => Sys2Proof.Machine.execFireMarker s
  | .voidMarker => Sys2Proof.Machine.execVoidMarker s
  | .paceFrameSend => Sys2Proof.Machine.execPaceFrameSend s
  | .paceReply payload crc => Sys2Proof.Machine.execPaceReply payload crc s
  | .mcAbsentTimeout => Sys2Proof.Machine.execMcAbsentTimeout s
  | .encoderTick => Sys2Proof.Machine.execEncoderTick s
  | .positionFrame port frame => Sys2Proof.Machine.execPositionFrame port frame s
  | .axisFusion ax => Sys2Proof.Machine.execAxisFusion ax s
  | .encoderIdentityRead port answer => Sys2Proof.Machine.execEncoderIdentityRead port answer s
  | .referenceMarkEdge port rising => Sys2Proof.Machine.execReferenceMarkEdge port rising s
  | .markResolve port => Sys2Proof.Machine.execMarkResolve port s
  | .switchEdge port input level => Sys2Proof.Machine.execSwitchEdge port input level s
  | .emuStep emu => Sys2Proof.Machine.execEmuStep emu s
  | .permitInChange level => Sys2Proof.Machine.execPermitInChange level s
  | .ackRecord ret rec => Sys2Proof.Machine.execAckRecord ret rec s
  | .statusTimeout lane => Sys2Proof.Machine.execStatusTimeout lane s
  | .tempRecord ret rec => Sys2Proof.Machine.execTempRecord ret rec s
  | .thermalStaleTimeout ch => Sys2Proof.Machine.execThermalStaleTimeout ch s
  | .stuckRecord ret rec => Sys2Proof.Machine.execStuckRecord ret rec s
  | .mgmtRecord ret rec => Sys2Proof.Machine.execMgmtRecord ret rec s
  | .mgmtRetryTimeout lane => Sys2Proof.Machine.execMgmtRetryTimeout lane s
  | .linkstatRecord ret rec => Sys2Proof.Machine.execLinkstatRecord ret rec s
  | .laneDegradedExit lane => Sys2Proof.Machine.execLaneDegradedExit lane s
  | .returnLaneLost loss => Sys2Proof.Machine.execReturnLaneLost loss s
  | .laneDown lane => Sys2Proof.Machine.execLaneDown lane s
  | .laneBringupRetry lane => Sys2Proof.Machine.execLaneBringupRetry lane s
  | .laneTestComplete lane errors margin => Sys2Proof.Machine.execLaneTestComplete lane errors margin s
  | .mapsetEchoTimeout => Sys2Proof.Machine.execMapsetEchoTimeout s
  | .syncBlockSend => Sys2Proof.Machine.execSyncBlockSend s
  | .blankFrame => Sys2Proof.Machine.execBlankFrame s
  | .plateAttachTimeout => Sys2Proof.Machine.execPlateAttachTimeout s
  | .historyIdleDecay => Sys2Proof.Machine.execHistoryIdleDecay s
  | .historyZero => Sys2Proof.Machine.execHistoryZero s
  | .historyParityError b => Sys2Proof.Machine.execHistoryParityError b s
  | .enforcedIdleEnd => Sys2Proof.Machine.execEnforcedIdleEnd s
  | .gainParityError b => Sys2Proof.Machine.execGainParityError b s
  | .windowEccUncorrectable bank read => Sys2Proof.Machine.execWindowEccUncorrectable bank read s
  | .datapathMismatch unit => Sys2Proof.Machine.execDatapathMismatch unit s
  | .pclkCheck cam khz => Sys2Proof.Machine.execPclkCheck cam khz s
  | .camFrameStart cam => Sys2Proof.Machine.execCamFrameStart cam s
  | .camFrameEnd cam => Sys2Proof.Machine.execCamFrameEnd cam s
  | .camLineStart cam => Sys2Proof.Machine.execCamLineStart cam s
  | .camLineReceived cam pixels => Sys2Proof.Machine.execCamLineReceived cam pixels s
  | .pipelineLineComplete => Sys2Proof.Machine.execPipelineLineComplete s
  | .locatorComplete => Sys2Proof.Machine.execLocatorComplete s
  | .camFramePublish cam => Sys2Proof.Machine.execCamFramePublish cam s
  | .i2cTransferComplete cam ack data => Sys2Proof.Machine.execI2cTransferComplete cam ack data s
  | .camHealthPoll cam ack => Sys2Proof.Machine.execCamHealthPoll cam ack s
  | .camParityError cam unit => Sys2Proof.Machine.execCamParityError cam unit s
  | .bcSample codes => Sys2Proof.Machine.execBcSample codes s
  | .acquisitionComplete mb parity => Sys2Proof.Machine.execAcquisitionComplete mb parity s
  | .rtdConversion ch mohm => Sys2Proof.Machine.execRtdConversion ch mohm s
  | .monitorRead values => Sys2Proof.Machine.execMonitorRead values s
  | .autoTrimStart => Sys2Proof.Machine.execAutoTrimStart s
  | .trimRunComplete item inRange c1 c2 r1 r2 nvOk => Sys2Proof.Machine.execTrimRunComplete item inRange c1 c2 r1 r2 nvOk s
  | .gainRunStepComplete => Sys2Proof.Machine.execGainRunStepComplete s
  | .gainPairEnd => Sys2Proof.Machine.execGainPairEnd s
  | .descriptorFetch chan busErr => Sys2Proof.Machine.execDescriptorFetch chan busErr s
  | .fetchTimeout chan => Sys2Proof.Machine.execFetchTimeout chan s
  | .burstIssue => Sys2Proof.Machine.execBurstIssue s
  | .burstComplete chan how => Sys2Proof.Machine.execBurstComplete chan how s
  | .ptpMessageReceive port msg => Sys2Proof.Machine.execPtpMessageReceive port msg s
  | .delayReqSend d => Sys2Proof.Machine.execDelayReqSend d s
  | .announceTimeout d => Sys2Proof.Machine.execAnnounceTimeout d s
  | .domainRevert => Sys2Proof.Machine.execDomainRevert s
  | .hostLinkDown port => Sys2Proof.Machine.execHostLinkDown port s
  | .hostLinkUp port => Sys2Proof.Machine.execHostLinkUp port s
  | .hostLeaseExpiry port => Sys2Proof.Machine.execHostLeaseExpiry port s
  | .waitingCommandComplete mb => Sys2Proof.Machine.execWaitingCommandComplete mb s
  | .marshalHeartbeat m => Sys2Proof.Machine.execMarshalHeartbeat m s
  | .heartbeatTimeout m selfReported => Sys2Proof.Machine.execHeartbeatTimeout m selfReported s
  | .failoverReplayComplete replayed => Sys2Proof.Machine.execFailoverReplayComplete replayed s
  | .marshalBootComplete m ok => Sys2Proof.Machine.execMarshalBootComplete m ok s
  | .safeStateExit => Sys2Proof.Machine.execSafeStateExit s
  | .faultLogFlush => Sys2Proof.Machine.execFaultLogFlush s
  | .fwSwitchRoleSwap => Sys2Proof.Machine.execFwSwitchRoleSwap s
  | .fwSwitchOldReboot => Sys2Proof.Machine.execFwSwitchOldReboot s
  | .selfTestAtIdle node pass => Sys2Proof.Machine.execSelfTestAtIdle node pass s
  | .vinQualified => Sys2Proof.Machine.execVinQualified s
  | .startInstant report => Sys2Proof.Machine.execStartInstant report s
  | .railEnableTimeout rail => Sys2Proof.Machine.execRailEnableTimeout rail s
  | .railRetry => Sys2Proof.Machine.execRailRetry s
  | .supplyOutOfRange rail => Sys2Proof.Machine.execSupplyOutOfRange rail s
  | .supplyLossWarning => Sys2Proof.Machine.execSupplyLossWarning s
  | .refLost => Sys2Proof.Machine.execRefLost s
  | .pllUnlock clk => Sys2Proof.Machine.execPllUnlock clk s
  | .pllRelockAttempt clk locked => Sys2Proof.Machine.execPllRelockAttempt clk locked s
  | .resetN => Sys2Proof.Machine.execResetN s
  | .perstN port => Sys2Proof.Machine.execPerstN port s
  | .thermalShutdown => Sys2Proof.Machine.execThermalShutdown s
  | .smbusAlertResponse => Sys2Proof.Machine.execSmbusAlertResponse s
  | .jtagInstruction ins => Sys2Proof.Machine.execJtagInstruction ins s
  | .netPortDown port => Sys2Proof.Machine.execNetPortDown port s
  | .refRestored => Sys2Proof.Machine.execRefRestored s
  | .aonRailOff => Sys2Proof.Machine.execAonRailOff s
  | .counterFault which => Sys2Proof.Machine.execCounterFault which s
  | .refereeSelfCheck => Sys2Proof.Machine.execRefereeSelfCheck s
  | .agemaxExpiry item => Sys2Proof.Machine.execAgemaxExpiry item s
  | .goWaitmaxExpiry mb => Sys2Proof.Machine.execGoWaitmaxExpiry mb s
  | .returnBlockLock ret => Sys2Proof.Machine.execReturnBlockLock ret s
  | .trainPresetExpiry lane margin => Sys2Proof.Machine.execTrainPresetExpiry lane margin s

end Sys2Proof.Machine
end

