-- ==== Sys2Proof/Machine/Step.lean ====
section
/-!
DEFINITION. One step: the command at the front of the queue is executed; on an empty queue the block
idles and the TIME counter advances (DESIGN CHOICE, log entry 1).
-/

namespace Sys2Proof.Machine

/-- The block with nothing commanded: one TIME cycle passes where the counter runs (R394). -/
def State.idleTick (s : State) : State :=
  if s.time.running then s.onTime fun t => { t with ctr := (t.ctr + 1) % 2 ^ 64 } else s

def step (s : State) : Host.Outcome State Fault Refusal :=
  match s.pending with
  | [] => .next s.idleTick
  | c :: cs => exec c { s with pending := cs }

/-- The state with the command that a word of the table spells at the front of its queue. -/
def State.withFetchWord (s : State) (nbits w : Nat) : State :=
  match decodeTableWord nbits w with
  | some c => { s with pending := c :: s.pending }
  | none => s

end Sys2Proof.Machine
end

