-- ==== Sys2Proof/Safety.lean ====
section
/-!
DEFINITION. What a sound state of the block is, the parts of the state, and what two states share, in the
terms the statements use.
-/

namespace Sys2Proof.Machine

/-- Every memory space is a list in canonical form. -/
def State.memWf (s : State) : Prop := Memory.wf s.mem

/-- Sixteen mailboxes (R410). -/
def State.mbsWf (s : State) : Prop := s.host.mbs.length = 16

/-- In the safe state PERMIT_OUT is dropped (R439). -/
def State.safePermit (s : State) : Prop := s.ref.safe = true → s.ref.permitOut = false

/-- The step ends in a next state of which `P` holds. -/
def Reaches (a : Answer) (P : State → Prop) : Prop := ∃ t, a = .next t ∧ P t

/-- A byte of a memory space. -/
def State.byte (s : State) (sp : BitVec 4) (a : Nat) : Byte := readCell (s.mem.space sp) a

/-- An address that the device may write an event record to: an entry of the queue. -/
def EventQueue.has (q : EventQueue) (sp : BitVec 4) (a : Nat) : Prop :=
  q.size ≠ 0 ∧ q.space = sp ∧ q.base.toNat ≤ a ∧ a < q.base.toNat + 64 * max q.size (q.wp + 1)

/-- An entry of one of the two event queues (R420). -/
def State.inQueue (s : State) (sp : BitVec 4) (a : Nat) : Prop :=
  s.host.portA.evq.has sp a ∨ s.host.portB.evq.has sp a

/-- A port without what an event moves: the queue's position, its staged and lost events, and the
pending bits of its vectors. -/
def PortS.fixed (p : PortS) : PortS :=
  { p with msixPend := 0, evq := { p.evq with wp := 0, phase := false, rp := 0, eseq := 0, staged := [], lost := 0 } }

/-- A stack's controller without the writes that a freeze holds. -/
def StackCtl.fixed (c : StackCtl) : StackCtl := { c with heldWrites := [] }

/-- The parts of the state: one for each unit of the block. `queues` is what an event moves at the ports
(queue positions and entries, staged events, pending vectors), `bytes` the memory outside the event queues
with the writes a freeze holds back. -/
inductive Part where
  | time | ports | queues | mailboxes | waiting | bells | jobs | render | land | bytes | mc | play | beam
  | stage | pacer | link | plate | cams | meas | dma | repair | ref | fw | power | log | ledger | trace
  | mgmt | out | pending
  deriving DecidableEq, Repr

/-- The part is the same in two states. -/
def Part.same (p : Part) (s t : State) : Prop :=
  match p with
  | .time => t.time = s.time
  | .ports => t.host.portA.fixed = s.host.portA.fixed ∧ t.host.portB.fixed = s.host.portB.fixed
  | .queues => t.host.portA.evq = s.host.portA.evq ∧ t.host.portB.evq = s.host.portB.evq ∧
      t.host.portA.msixPend = s.host.portA.msixPend ∧ t.host.portB.msixPend = s.host.portB.msixPend
  | .mailboxes => t.host.mbs = s.host.mbs
  | .waiting => t.host.waiting = s.host.waiting
  | .bells => t.host.held = s.host.held
  | .jobs => t.jobs = s.jobs
  | .render => t.render = s.render
  | .land => t.land = s.land
  | .bytes => (∀ sp a, ¬ s.inQueue sp a → ¬ t.inQueue sp a ∧ t.byte sp a = s.byte sp a) ∧
      (∀ c ∈ t.mc.stA.heldWrites, c ∈ s.mc.stA.heldWrites ∨ s.inQueue spLanding c.1) ∧
      (∀ c ∈ t.mc.stB.heldWrites, c ∈ s.mc.stB.heldWrites ∨ s.inQueue spLanding c.1)
  | .mc => t.mc.stA.fixed = s.mc.stA.fixed ∧ t.mc.stB.fixed = s.mc.stB.fixed ∧
      t.mc.coldSince = s.mc.coldSince ∧ t.mc.pllDown = s.mc.pllDown
  | .play => t.play = s.play
  | .beam => t.beam = s.beam
  | .stage => t.stage = s.stage
  | .pacer => t.pacer = s.pacer
  | .link => t.link = s.link
  | .plate => t.plate = s.plate
  | .cams => t.cams = s.cams
  | .meas => t.meas = s.meas
  | .dma => t.dma = s.dma
  | .repair => t.repair = s.repair
  | .ref => t.ref = s.ref
  | .fw => t.fw = s.fw
  | .power => t.power = s.power
  | .log => t.log = s.log
  | .ledger => t.ledger = s.ledger
  | .trace => t.trace = s.trace
  | .mgmt => t.mgmt = s.mgmt
  | .out => t.out = s.out
  | .pending => t.pending = s.pending

/-- Nothing but the parts named may differ. -/
def OnlyParts (ps : List Part) (s t : State) : Prop := ∀ p : Part, p ∈ ps ∨ p.same s t

/-- A sound state: the memory in canonical form, sixteen mailboxes, PERMIT_OUT dropped in the safe state. -/
def State.sound (s : State) : Prop := s.memWf ∧ s.mbsWf ∧ s.safePermit

/-- The mailbox holds a response with status `st` (R413). -/
def State.answered (t : State) (src : Src) (st : BitVec 16) : Prop :=
  (t.mb src.mb).done = true ∧ (t.mb src.mb).busy = false ∧ fld 15 0 (t.mb src.mb).resp1 = st.toNat

/-- The mailbox's command waits: BUSY is set and the response is yet to come (R418). -/
def State.waits (t : State) (src : Src) (c : Instr) : Prop :=
  (t.mb src.mb).busy = true ∧ (t.mb src.mb).done = false ∧ ∃ w ∈ t.host.waiting, w.src = src ∧ w.cmd = c

/-- Every part but the queue of commands. -/
def Part.all : List Part :=
  [.time, .ports, .queues, .mailboxes, .waiting, .bells, .jobs, .render, .land, .bytes, .mc, .play, .beam,
    .stage, .pacer, .link, .plate, .cams, .meas, .dma, .repair, .ref, .fw, .power, .log, .ledger, .trace,
    .mgmt, .out]

/-- The parts that a command may change. -/
def mayTouch (i : Instr) : List Part :=
  match i with
  | .sysIdent .. => [.queues, .mailboxes, .out]
  | .sysClaim .. => [.ports, .queues, .mailboxes, .out]
  | .sysRelease .. => [.queues, .mailboxes, .out]
  | .sysTakeover .. => [.ports, .queues, .mailboxes, .jobs, .out]
  | .sysEventq .. => [.ports, .queues, .mailboxes, .bytes, .out]
  | .sysRollcall .. => [.queues, .mailboxes, .bytes, .out]
  | .sysReset .. => Part.all
  | .sysFwStage .. => [.queues, .mailboxes, .fw, .out]
  | .sysFwSwitch .. => [.queues, .mailboxes, .ref, .fw, .out]
  | .sysFaultlogRead .. => [.queues, .mailboxes, .bytes, .out]
  | .jobOpen .. => [.queues, .mailboxes, .jobs, .dma, .out]
  | .jobFeed .. => [.queues, .mailboxes, .jobs, .dma, .out]
  | .jobQuery .. => [.queues, .mailboxes, .out]
  | .jobAbort .. =>
      [.time, .queues, .mailboxes, .waiting, .jobs, .render, .land, .bytes, .mc, .play, .meas, .dma, .ref, .power,
      .log, .ledger, .out]
  | .jobClose .. => [.queues, .mailboxes, .jobs, .render, .land, .bytes, .play, .ledger, .out]
  | .jobLedgerRead .. => [.queues, .mailboxes, .bytes, .out]
  | .stripeStatus .. => [.queues, .mailboxes, .bytes, .out]
  | .stripeArm .. =>
      [.queues, .mailboxes, .waiting, .jobs, .render, .land, .bytes, .mc, .play, .beam, .stage, .link, .meas,
      .repair, .log, .ledger, .out]
  | .stripeDisarm .. => [.time, .queues, .mailboxes, .jobs, .render, .land, .mc, .meas, .ref, .power, .out]
  | .stripeGo .. => [.queues, .mailboxes, .waiting, .jobs, .play, .beam, .ref, .out]
  | .stripeStop .. => [.queues, .mailboxes, .waiting, .jobs, .render, .land, .play, .log, .out]
  | .stripeResume .. =>
      [.queues, .mailboxes, .waiting, .jobs, .render, .land, .bytes, .mc, .play, .beam, .stage, .link, .meas,
      .repair, .log, .ledger, .out]
  | .stripeRelease .. => [.queues, .mailboxes, .jobs, .render, .land, .bytes, .play, .ledger, .out]
  | .beamGainLoad .. => [.queues, .mailboxes, .beam, .out]
  | .beamDeadSet .. => [.queues, .mailboxes, .beam, .out]
  | .beamDeadClear .. => [.queues, .mailboxes, .beam, .out]
  | .beamStuckClear .. => [.queues, .mailboxes, .beam, .out]
  | .beamHistoryRead .. => [.queues, .mailboxes, .bytes, .out]
  | .beamHistoryPolicy .. => [.queues, .mailboxes, .beam, .out]
  | .beamFitSeal .. => [.queues, .mailboxes, .beam, .out]
  | .beamStatus .. => [.queues, .mailboxes, .out]
  | .stageConfig .. => [.queues, .mailboxes, .stage, .out]
  | .stageMarks .. => [.queues, .mailboxes, .stage, .out]
  | .stageStatus .. => [.queues, .mailboxes, .out]
  | .stageFaultClear .. => [.queues, .mailboxes, .stage, .out]
  | .stageSwitchTest .. => [.queues, .mailboxes, .stage, .out]
  | .stagePacePolicy .. => [.queues, .mailboxes, .pacer, .out]
  | .stageEmu .. => [.queues, .mailboxes, .stage, .out]
  | .camConfig .. => [.queues, .mailboxes, .cams, .out]
  | .camSettings .. => [.queues, .mailboxes, .cams, .out]
  | .camI2cXfer .. => [.queues, .mailboxes, .waiting, .cams, .out]
  | .camStart .. => [.queues, .mailboxes, .cams, .out]
  | .camStop .. => [.queues, .mailboxes, .waiting, .bytes, .link, .plate, .cams, .meas, .repair, .ref, .log, .out]
  | .camDefects .. => [.queues, .mailboxes, .cams, .out]
  | .camShading .. => [.queues, .mailboxes, .cams, .out]
  | .camTemplate .. => [.queues, .mailboxes, .cams, .out]
  | .camSpotgrid .. => [.queues, .mailboxes, .cams, .out]
  | .camRing .. => [.queues, .mailboxes, .waiting, .cams, .dma, .out]
  | .camStatus .. => [.queues, .mailboxes, .out]
  | .calAcquire .. => [.queues, .mailboxes, .waiting, .meas, .out]
  | .calTsLimits .. => [.queues, .mailboxes, .meas, .out]
  | .calTrimRun .. => [.queues, .mailboxes, .waiting, .meas, .out]
  | .calGainRun .. => [.queues, .mailboxes, .waiting, .link, .cams, .meas, .ref, .out]
  | .calGainAbort .. => [.queues, .mailboxes, .waiting, .link, .plate, .meas, .repair, .ref, .log, .out]
  | .calPolicy .. => [.queues, .mailboxes, .meas, .out]
  | .calStatus .. => [.queues, .mailboxes, .out]
  | .linkThermal .. => [.queues, .mailboxes, .link, .out]
  | .linkStatus .. => [.queues, .mailboxes, .out]
  | .linkTest .. => [.queues, .mailboxes, .waiting, .link, .out]
  | .memStatus .. => [.queues, .mailboxes, .out]
  | .memLandingRead .. => [.queues, .mailboxes, .out]
  | .dmaConfig .. => [.queues, .mailboxes, .dma, .out]
  | .dmaStart .. => [.queues, .mailboxes, .dma, .out]
  | .dmaStop .. => [.queues, .mailboxes, .waiting, .bytes, .dma, .log, .out]
  | .dmaRingAdvance .. => [.queues, .mailboxes, .bytes, .dma, .log, .out]
  | .dmaStatus .. => [.queues, .mailboxes, .out]
  | .cvuCompute .. => [.queues, .mailboxes, .dma, .out]
  | .cvuSave .. => [.queues, .mailboxes, .out]
  | .cvuRestore .. => [.queues, .mailboxes, .dma, .out]
  | .timeDomain .. => [.time, .queues, .mailboxes, .out]
  | .timeSelect .. => [.time, .queues, .mailboxes, .out]
  | .timeStatus .. => [.queues, .mailboxes, .out]
  | .plateProvision .. => [.queues, .mailboxes, .plate, .out]
  | .plateToken .. => [.queues, .mailboxes, .link, .plate, .repair, .log, .out]
  | .plateStatus .. => [.queues, .mailboxes, .out]
  | .repairQuery .. => [.queues, .mailboxes, .bytes, .out]
  | .repairPolicy .. => [.queues, .mailboxes, .repair, .out]
  | .repairSpare .. => [.queues, .mailboxes, .mc, .repair, .log, .out]
  | .repairReturn .. => [.queues, .mailboxes, .jobs, .render, .land, .play, .beam, .link, .repair, .log, .out]
  | .repairDisable .. =>
      [.queues, .mailboxes, .waiting, .jobs, .render, .land, .bytes, .play, .link, .plate, .cams, .meas, .dma,
      .repair, .ref, .log, .out]
  | .codecEncode .. => [.queues, .mailboxes, .waiting, .render, .out]
  | .codecDecode .. => [.queues, .mailboxes, .waiting, .render, .out]
  | .codecDisable .. => [.queues, .mailboxes, .waiting, .jobs, .render, .land, .play, .repair, .log, .out]
  | .traceStart .. => [.queues, .mailboxes, .trace, .out]
  | .traceStop .. => [.queues, .mailboxes, .trace, .out]
  | .traceStatus .. => [.queues, .mailboxes, .out]
  | .status .. => [.queues, .ref, .out]
  | .snapshot .. => [.queues, .ref, .out]
  | .resetMarshal .. => [.queues, .ref, .out]
  | .resetAll .. =>
      [.queues, .mailboxes, .waiting, .jobs, .render, .land, .play, .stage, .link, .plate, .meas, .repair, .ref,
      .fw, .log, .out]
  | .mbDoorbell .. => Part.all
  | .evqRpWrite .. => [.queues, .out]
  | .tsnapCtrRead .. => [.ports]
  | .supvStatusRead .. => [.ref]
  | .memThaw .. => [.queues, .jobs, .land, .bytes, .mc, .log, .out]
  | .dmaCmdStart .. => [.dma]
  | .dmaCmdResume .. => [.dma]
  | .dmaCmdDrain .. => [.queues, .bytes, .dma, .log, .out]
  | .dmaCmdAbort .. => [.queues, .bytes, .dma, .log, .out]
  | .cvuDataFeed .. => [.dma]
  | .cvuCmdInit .. => [.dma]
  | .registerWrite .. => Part.all
  | .parseSlot => [.queues, .jobs, .render, .bytes, .log, .out]
  | .canopyPassStart .. => [.queues, .jobs, .render, .log, .out]
  | .canopyPassComplete .. => [.jobs, .render, .bytes]
  | .canopyFault => [.queues, .jobs, .render, .repair, .log, .out]
  | .checkPassStart .. => [.jobs, .render]
  | .checkPassComplete .. => [.queues, .jobs, .render, .land, .bytes, .log, .out]
  | .landingPassStart .. => [.queues, .mailboxes, .waiting, .jobs, .render, .repair, .out]
  | .tileDispatch .. => [.queues, .jobs, .render, .log, .out]
  | .tileComplete .. => [.queues, .jobs, .render, .bytes, .repair, .log, .out]
  | .tileWatchdogExpiry .. => [.queues, .render, .repair, .log, .out]
  | .engineParityError .. => [.queues, .render, .repair, .log, .out]
  | .graderMismatch .. => [.queues, .jobs, .render, .repair, .log, .out]
  | .panelEncodeStart .. => [.queues, .jobs, .render, .log, .out]
  | .panelEncodeComplete .. => [.queues, .jobs, .render, .bytes, .repair, .log, .out]
  | .encodeMismatch .. => [.queues, .mailboxes, .waiting, .jobs, .render, .repair, .log, .out]
  | .decodeLaneFault .. => [.queues, .mailboxes, .waiting, .jobs, .render, .land, .play, .repair, .log, .out]
  | .decodeBufferResume .. => [.render]
  | .serviceJobStart .. => [.render]
  | .serviceJobComplete .. => [.queues, .mailboxes, .waiting, .render, .bytes, .repair, .log, .out]
  | .segmentLanded .. => [.jobs, .bytes]
  | .sealReadbackComplete .. => [.queues, .jobs, .render, .land, .bytes, .play, .log, .out]
  | .signatureTableParity .. => [.queues, .jobs, .render, .land, .play, .repair, .log, .out]
  | .preparationStart .. => [.jobs, .render, .land]
  | .segmentReady .. => [.queues, .jobs, .render, .land, .bytes, .repair, .log, .out]
  | .arbitrationComplete .. => [.queues, .jobs, .render, .land, .bytes, .play, .repair, .log, .out]
  | .copyRewriteComplete .. => [.queues, .jobs, .land, .bytes, .log, .out]
  | .extentPatternTest .. => [.land, .mc]
  | .scrubSegment .. => [.jobs, .render]
  | .playBufferEcc .. => [.queues, .jobs, .render, .land, .play, .log, .out]
  | .rerenderStart .. => [.jobs, .render]
  | .rerenderComplete .. => [.queues, .jobs, .render, .bytes, .log, .out]
  | .refresh .. => [.mc, .out]
  | .tempBandSample => [.time, .queues, .jobs, .render, .land, .mc, .play, .meas, .ref, .power, .log, .out]
  | .memUncorrectable .. => [.queues, .mc, .log, .out]
  | .memAutoThaw .. => [.queues, .jobs, .land, .bytes, .mc, .out]
  | .channelRetireTrigger .. => [.queues, .mc, .repair, .log, .out]
  | .unitMigrationComplete .. => [.mc]
  | .channelRetired .. => [.queues, .jobs, .bytes, .mc, .repair, .out]
  | .flashPlace => [.queues, .jobs, .render, .land, .play, .beam, .log, .out]
  | .fireMarker =>
      [.time, .queues, .jobs, .render, .land, .bytes, .mc, .play, .beam, .link, .plate, .meas, .repair, .ref,
      .power, .log, .ledger, .trace, .out]
  | .voidMarker =>
      [.time, .queues, .jobs, .render, .land, .bytes, .mc, .play, .beam, .link, .plate, .meas, .repair, .ref,
      .power, .log, .ledger, .out]
  | .paceFrameSend => [.queues, .bytes, .pacer, .trace, .out]
  | .paceReply .. => [.queues, .jobs, .render, .land, .bytes, .play, .pacer, .log, .trace, .out]
  | .mcAbsentTimeout => [.queues, .jobs, .render, .land, .play, .pacer, .log, .out]
  | .encoderTick => [.queues, .stage, .out]
  | .positionFrame .. => [.queues, .jobs, .render, .land, .play, .stage, .log, .out]
  | .axisFusion .. =>
      [.queues, .mailboxes, .waiting, .jobs, .render, .land, .bytes, .play, .stage, .link, .plate, .meas, .repair,
      .ref, .log, .ledger, .trace, .out]
  | .encoderIdentityRead .. => [.queues, .stage, .log, .out]
  | .referenceMarkEdge .. => [.stage]
  | .markResolve .. => [.queues, .jobs, .render, .land, .play, .stage, .log, .out]
  | .switchEdge .. => [.queues, .jobs, .render, .land, .play, .stage, .log, .out]
  | .emuStep .. => [.stage, .out]
  | .permitInChange .. =>
      [.queues, .mailboxes, .waiting, .jobs, .render, .land, .play, .link, .plate, .meas, .repair, .ref, .log, .out]
  | .ackRecord .. =>
      [.queues, .mailboxes, .waiting, .jobs, .render, .land, .bytes, .play, .link, .plate, .meas, .repair, .ref,
      .log, .ledger, .out]
  | .statusTimeout .. => [.queues, .jobs, .render, .land, .bytes, .play, .link, .plate, .log, .ledger, .out]
  | .tempRecord .. => [.queues, .jobs, .render, .land, .play, .link, .plate, .ref, .log, .out]
  | .thermalStaleTimeout .. => [.queues, .jobs, .render, .land, .play, .link, .ref, .log, .out]
  | .stuckRecord .. =>
      [.queues, .mailboxes, .waiting, .jobs, .render, .land, .play, .beam, .link, .plate, .meas, .repair, .ref,
      .log, .out]
  | .mgmtRecord .. =>
      [.queues, .mailboxes, .waiting, .jobs, .render, .land, .bytes, .mc, .play, .beam, .stage, .link, .plate,
      .meas, .repair, .log, .ledger, .out]
  | .mgmtRetryTimeout .. => [.queues, .mailboxes, .waiting, .link, .plate, .log, .out]
  | .linkstatRecord .. => [.queues, .link, .plate, .log, .out]
  | .laneDegradedExit .. => [.queues, .link, .out]
  | .returnLaneLost .. => [.queues, .link, .plate, .log, .out]
  | .laneDown .. => [.queues, .mailboxes, .waiting, .link, .plate, .log, .out]
  | .laneBringupRetry .. => [.link, .out]
  | .laneTestComplete .. => [.queues, .mailboxes, .waiting, .link, .plate, .log, .out]
  | .mapsetEchoTimeout => [.queues, .mailboxes, .waiting, .link, .out]
  | .syncBlockSend => [.link, .out]
  | .blankFrame => [.link, .out]
  | .plateAttachTimeout => [.queues, .plate, .log, .out]
  | .historyIdleDecay => [.beam]
  | .historyZero => [.beam]
  | .historyParityError .. => [.queues, .jobs, .render, .land, .play, .beam, .repair, .log, .out]
  | .enforcedIdleEnd => [.beam]
  | .gainParityError .. => [.queues, .jobs, .render, .land, .play, .beam, .repair, .log, .out]
  | .windowEccUncorrectable .. => [.queues, .jobs, .render, .land, .play, .repair, .log, .out]
  | .datapathMismatch .. => [.queues, .jobs, .render, .land, .play, .stage, .repair, .log, .out]
  | .pclkCheck .. => [.queues, .mailboxes, .waiting, .bytes, .link, .plate, .cams, .meas, .repair, .ref, .log, .out]
  | .camFrameStart .. =>
      [.queues, .mailboxes, .waiting, .bytes, .link, .plate, .cams, .meas, .repair, .ref, .log, .out]
  | .camFrameEnd .. => [.queues, .mailboxes, .waiting, .bytes, .link, .plate, .cams, .meas, .repair, .ref, .log, .out]
  | .camLineStart .. =>
      [.queues, .mailboxes, .waiting, .bytes, .link, .plate, .cams, .meas, .repair, .ref, .log, .out]
  | .camLineReceived .. =>
      [.queues, .mailboxes, .waiting, .bytes, .link, .plate, .cams, .meas, .repair, .ref, .log, .out]
  | .pipelineLineComplete => [.cams]
  | .locatorComplete => [.cams]
  | .camFramePublish .. =>
      [.queues, .mailboxes, .waiting, .bytes, .beam, .link, .plate, .cams, .meas, .repair, .ref, .log, .out]
  | .i2cTransferComplete .. => [.queues, .mailboxes, .waiting, .cams, .log, .out]
  | .camHealthPoll .. => [.queues, .mailboxes, .waiting, .cams, .out]
  | .camParityError .. =>
      [.queues, .mailboxes, .waiting, .bytes, .link, .plate, .cams, .meas, .repair, .ref, .log, .out]
  | .bcSample .. => [.queues, .mailboxes, .waiting, .bytes, .link, .plate, .meas, .repair, .ref, .log, .out]
  | .acquisitionComplete .. => [.queues, .mailboxes, .waiting, .meas, .repair, .log, .out]
  | .rtdConversion .. => [.queues, .meas, .log, .out]
  | .monitorRead .. => [.meas, .power]
  | .autoTrimStart => [.meas]
  | .trimRunComplete .. => [.queues, .mailboxes, .waiting, .meas, .repair, .log, .out]
  | .gainRunStepComplete => [.queues, .link, .plate, .cams, .meas, .repair, .log, .out]
  | .gainPairEnd => [.queues, .mailboxes, .waiting, .beam, .link, .plate, .meas, .repair, .ref, .log, .out]
  | .descriptorFetch .. => [.queues, .bytes, .dma, .log, .out]
  | .fetchTimeout .. => [.queues, .bytes, .dma, .log, .out]
  | .burstIssue => [.queues, .bytes, .dma, .log, .out]
  | .burstComplete .. => [.queues, .jobs, .land, .bytes, .mc, .cams, .dma, .repair, .log, .trace, .out]
  | .ptpMessageReceive .. => [.time, .queues, .log, .out]
  | .delayReqSend .. => [.time, .out]
  | .announceTimeout .. => [.time, .queues, .log, .out]
  | .domainRevert => [.time, .queues, .out]
  | .hostLinkDown .. => [.ports, .queues, .out]
  | .hostLinkUp .. => [.ports, .queues, .out]
  | .hostLeaseExpiry .. => [.ports, .queues, .out]
  | .waitingCommandComplete .. =>
      [.queues, .mailboxes, .waiting, .jobs, .render, .land, .bytes, .play, .beam, .cams, .meas, .dma, .repair,
      .ref, .log, .ledger, .out]
  | .marshalHeartbeat .. => [.ref]
  | .heartbeatTimeout .. =>
      [.queues, .mailboxes, .waiting, .jobs, .render, .land, .play, .stage, .link, .plate, .meas, .repair, .ref,
      .fw, .log, .out]
  | .failoverReplayComplete .. => Part.all
  | .marshalBootComplete .. => [.queues, .ref, .fw, .log, .out]
  | .safeStateExit => [.queues, .ref, .power, .log, .out]
  | .faultLogFlush => [.queues, .repair, .log, .out]
  | .fwSwitchRoleSwap => [.queues, .ref, .fw, .out]
  | .fwSwitchOldReboot => [.ref, .fw]
  | .selfTestAtIdle .. => [.queues, .jobs, .render, .land, .play, .beam, .link, .repair, .log, .out]
  | .vinQualified => Part.all.erase .out
  | .startInstant .. => Part.all
  | .railEnableTimeout .. => [.power, .log]
  | .railRetry => [.power]
  | .supplyOutOfRange .. =>
      [.queues, .mailboxes, .waiting, .jobs, .render, .land, .play, .stage, .link, .plate, .meas, .repair, .ref,
      .power, .log, .out]
  | .supplyLossWarning => Part.all
  | .refLost =>
      [.time, .ports, .queues, .mailboxes, .waiting, .jobs, .render, .land, .mc, .play, .stage, .link, .plate,
      .meas, .repair, .ref, .power, .log, .out]
  | .pllUnlock .. =>
      [.time, .ports, .queues, .mailboxes, .waiting, .jobs, .render, .land, .mc, .play, .stage, .link, .plate,
      .meas, .repair, .ref, .power, .log, .out]
  | .pllRelockAttempt .. =>
      [.time, .queues, .jobs, .render, .land, .bytes, .mc, .play, .beam, .link, .plate, .meas, .dma, .repair, .ref,
      .power, .log, .ledger, .out]
  | .resetN => Part.all.erase .out
  | .perstN .. => [.ports]
  | .thermalShutdown => Part.all
  | .smbusAlertResponse => [.mgmt, .out]
  | .jtagInstruction .. => [.mgmt]
  | .netPortDown .. => [.time, .queues, .log, .out]
  | .refRestored => [.power]
  | .aonRailOff => Part.all.erase .out
  | .counterFault .. =>
      [.time, .queues, .mailboxes, .waiting, .jobs, .render, .land, .play, .stage, .link, .plate, .meas, .repair,
      .ref, .log, .out]
  | .refereeSelfCheck =>
      [.queues, .mailboxes, .waiting, .jobs, .render, .land, .play, .stage, .link, .plate, .meas, .repair, .ref,
      .log, .out]
  | .agemaxExpiry .. => [.meas]
  | .goWaitmaxExpiry .. => [.queues, .mailboxes, .waiting, .jobs, .play, .beam, .ref, .out]
  | .returnBlockLock .. => [.link, .out]
  | .trainPresetExpiry .. => [.link, .out]

end Sys2Proof.Machine
end

