-- ==== Sys2Proof/Certificates/Slice0/Obligations.lean ====
section
/-!
DEFINITION. The statements for the provers.
-/

open Sys2Proof Sys2Proof.Machine

/-- The front command of the queue is executed on the state with the rest of the queue. -/
def Obligations.FrontCommandRuns : Prop :=
  (∀ (c : Instr) (s : State), step { s with pending := c :: s.pending } = exec c s) ∧
  ∀ (c : Instr) (cs : List Instr) (s : State), s.pending = c :: cs → step s = exec c { s with pending := cs }

/-- With nothing commanded one TIME cycle passes where the counter runs, and nothing else changes (the model's
choice, log entry 1). -/
def Obligations.IdleStepCounts : Prop :=
  ∀ s : State, s.pending = [] → Reaches (step s) fun t =>
    t = { s with time := { s.time with ctr := if s.time.running then (s.time.ctr + 1) % 2 ^ 64 else s.time.ctr } }

/-- Right after reset the state is sound and nothing is commanded. -/
def Obligations.ResetIsSound : Prop := State.reset.sound ∧ State.reset.pending = []

/-- A step keeps the memory in canonical form, the sixteen mailboxes, and PERMIT_OUT dropped in the safe state. -/
def Obligations.StepKeepsSound : Prop :=
  ∀ s t : State, s.sound → step s = .next t → t.sound

/-- A command changes only the parts of the state that its row has an effect on; the queue of commands is none. -/
def Obligations.CommandFrame : Prop :=
  ∀ (c : Instr) (s t : State), exec c s = .next t → OnlyParts (mayTouch c) s t

/-- No command of the table stops the block, in any state. -/
def Obligations.EveryCommandAnswers : Prop := ∀ (c : Instr) (s : State), ∃ t, exec c s = .next t

/-- A write to memory that is neither frozen nor without its clock stores the bytes from its address on, and no
other byte of any space changes. -/
def Obligations.WriteStores : Prop :=
  ∀ (s : State) (sp : BitVec 4) (a : Nat) (bs : List Byte), sp.toNat < 4 →
    (sp = spLanding → s.mc.pllDown = false ∧ (s.mc.stack (stackOf a)).frozen = false) →
    (∀ i, i < bs.length → (s.write sp a bs).byte sp (a + i) = bs.getD i 0) ∧
    (∀ sq x, (sq = sp → x < a ∨ a + bs.length ≤ x) → (s.write sp a bs).byte sq x = s.byte sq x)

/-- A write to a frozen stack is held behind the earlier ones and changes no byte of memory. -/
def Obligations.FrozenWriteIsHeld : Prop :=
  ∀ (s : State) (a : Nat) (bs : List Byte), s.mc.pllDown = false → (s.mc.stack (stackOf a)).frozen = true →
    (s.write spLanding a bs).mem = s.mem ∧
    ((s.write spLanding a bs).mc.stack (stackOf a)).heldWrites.map (·.2) =
      (s.mc.stack (stackOf a)).heldWrites.map (·.2) ++ bs

/-- A response: BUSY cleared, DONE set, STATUS and DETAIL in word 1, LEN and the body's check value in word 0, the
same words stored, the other mailboxes as they were. -/
def Obligations.ResponseIsWritten : Prop :=
  ∀ (s : State) (src : Src) (st : BitVec 16) (detail : Nat) (body : List Word), s.mbsWf → detail < 2 ^ 32 →
    let t := s.respond src st detail false body
    let m := t.mb src.mb
    t.answered src st ∧ fld 63 32 m.resp1 = detail ∧ m.resp0 = respHeader (s.mb src.mb).header body ∧
      m.respBody = body ∧ m.kept0 = m.resp0 ∧ m.kept1 = m.resp1 ∧ m.keptBody = body ∧
      ∀ n, n ≠ src.mb → t.mb n = s.mb n

/-- SYS.CLAIM, SYS.RELEASE, SYS.TAKEOVER and SYS.EVENTQ: ownership, leases and the event queue. -/
def Obligations.OwnershipCommands : Prop :=
  (∀ (s : State) (src : Src) (lease : BitVec 32), s.mbsWf → (s.mb src.mb).owner = none →
    Reaches (exec (.sysClaim src lease) s) fun t => t.answered src ST.ok ∧
      (t.mb src.mb).owner = some src.port ∧ (t.mb src.mb).lease = lease ∧ (t.port src.port).lease = lease ∧
      ∀ n, n ≠ src.mb → t.mb n = s.mb n) ∧
  (∀ (s : State) (src : Src), s.mbsWf →
    Reaches (exec (.sysRelease src) s) fun t => t.answered src ST.ok ∧
      (t.mb src.mb).owner = none ∧ (t.mb src.mb).lastAlive = none ∧ ∀ n, n ≠ src.mb → t.mb n = s.mb n) ∧
  (∀ (s : State) (src : Src) (mask : BitVec 16) (lease : BitVec 32), s.mbsWf →
    (∀ n : BitVec 4, mask.getLsbD n.toNat = true → ∃ p, (s.mb n).owner = some p ∧ (s.port p).departed = true) →
    Reaches (exec (.sysTakeover src mask lease) s) fun t => t.answered src ST.ok ∧
      (∀ n : BitVec 4, mask.getLsbD n.toNat = true → (t.mb n).owner = some src.port ∧ (t.mb n).lease = lease) ∧
      (∀ n : BitVec 4, mask.getLsbD n.toNat = false → (t.mb n).owner = (s.mb n).owner) ∧
      t.jobs.jobs.length = s.jobs.jobs.length) ∧
  (∀ (s : State) (src : Src) (base : BitVec 48) (space : BitVec 4) (log2n : BitVec 5), s.mbsWf →
    eventqOk base space log2n = true → (s.port src.port).evq.staged = [] → (s.port src.port).evq.lost = 0 →
    Reaches (exec (.sysEventq src base space log2n) s) fun t => t.answered src ST.ok ∧
      (t.port src.port).evq = ⟨base, space, log2n, 0, true, 0, 0, [], 0⟩)

/-- SYS.IDENT answers four words, SYS.ROLLCALL writes the roll call to its buffer and answers its length,
SYS.FAULTLOG.READ answers, and writes the entries from FIRST on. -/
def Obligations.SystemReports : Prop :=
  (∀ (s : State) (src : Src), s.mbsWf →
    Reaches (exec (.sysIdent src) s) fun t => t.answered src ST.ok ∧ (t.mb src.mb).respBody.length = 4 ∧ t.mem = s.mem) ∧
  (∀ (s : State) (src : Src) (buf : BufRef), outBuf buf 65536 = true →
    exec (.sysRollcall src buf) s =
      .next ((s.writeBuf buf s.rollcall).ok src [packW [(0, 32, 16 * s.rollcall.length)]])) ∧
  (∀ (s : State) (src : Src) (first count : BitVec 32) (buf : BufRef), s.mbsWf → outBuf buf (64 * count.toNat) = true →
    let base := s.log.lseq - s.log.buffer.length - s.log.nv.length
    Reaches (exec (.sysFaultlogRead src first count buf) s) fun t => t.answered src ST.ok ∧
      (base ≤ first.toNat → t.mem =
        (s.writeBuf buf ((s.log.nv.drop (first.toNat - base)).take count.toNat).flatten).mem))

/-- SYS.RESET in each scope, SYS.FW.STAGE and SYS.FW.SWITCH. -/
def Obligations.ResetAndFirmwareCommands : Prop :=
  (∀ (s : State) (src : Src) (node : BitVec 32), s.active? = none → s.power.shutdown = false →
    Reaches (exec (.sysReset src 0 node) s) fun t => t.jobs = Jobs.reset ∧ t.host = HostIf.reset ∧
      t.mem.landing = [] ∧ t.mem.hostA = s.mem.hostA ∧ t.power.cause = 3 ∧ t.time.ctr = s.time.ctr) ∧
  (∀ (s : State) (src : Src) (node : BitVec 32), s.mbsWf →
    Reaches (exec (.sysReset src 1 node) s) fun t => t.answered src ST.ok ∧
      (t.ref.marshal (otherMarshal s.ref.active)).booting = true ∧
      (t.ref.marshal (otherMarshal s.ref.active)).healthy = false ∧
      t.ref.marshal s.ref.active = s.ref.marshal s.ref.active) ∧
  (∀ (s : State) (src : Src) (node r : BitVec 32), s.mbsWf → repairNode node = some r → s.rstate r = .quarantined →
    (outputLane r = true → sparedNode r = true) →
    Reaches (exec (.sysReset src 2 node) s) fun t => t.answered src ST.ok ∧
      t.rstate r = if sparedNode r then .quarantined else if Config.selfTest r s.fresh then .inService else .failed) ∧
  (∀ (s : State) (src : Src) (buf : BufRef), s.mbsWf → s.fw.sw = 0 → s.bufReads buf = true →
    let image := s.mem.bytes buf.space buf.addr.toNat buf.len.toNat
    Reaches (exec (.sysFwStage src buf) s) fun t => t.fw.slot s.fw.run = s.fw.slot s.fw.run ∧ t.fw.run = s.fw.run ∧
      if Config.imageValid image then t.answered src ST.ok ∧ (t.fw.slot (!s.fw.run)).valid = true ∧
        (t.fw.slot (!s.fw.run)).version = Config.imageVersion image
      else t.answered src ST.sysFwImage ∧ t.fw = s.fw) ∧
  (∀ (s : State) (src : Src), s.mbsWf → (s.fw.slot (!s.fw.run)).valid = true → s.standbyOk = true →
    Reaches (exec (.sysFwSwitch src) s) fun t => t.answered src ST.ok ∧ t.fw.sw = 1 ∧ t.fw.swAt = s.now ∧
      (t.ref.marshal (otherMarshal s.ref.active)).booting = true)

/-- STATUS, SNAPSHOT, RESET_MARSHAL, RESET_ALL and the read of SUPV.STATUS: the supervisor's answers. -/
def Obligations.SupervisorCommands : Prop :=
  (∀ (s : State) (via : Via), s.power.powered = true →
    Reaches (exec (.status via) s) fun t => fld 7 0 t.ref.supvResult = 2 ∧ fld 15 8 t.ref.supvResult = 0x51 ∧
      t.ref.supvData = [BitVec.ofNat 64 s.supvStatus, BitVec.ofNat 64 s.now, 0, 0]) ∧
  (∀ (s : State) (via : Via) (off : BitVec 16), s.power.powered = true → s.power.shutdown = false → off.toNat ≤ 992 →
    Reaches (exec (.snapshot via off) s) fun t => fld 7 0 t.ref.supvResult = 2 ∧ fld 15 8 t.ref.supvResult = 0x52 ∧
      t.ref.supvData = s.snapshotData off.toNat) ∧
  (∀ (s : State) (via : Via) (off : BitVec 16), s.power.powered = true → 992 < off.toNat →
    Reaches (exec (.snapshot via off) s) fun t => fld 7 0 t.ref.supvResult = 3 ∧ t.ref.supvData = s.ref.supvData) ∧
  (∀ (s : State) (via : Via) (arg : BitVec 8) (m : Marshal), s.power.powered = true → s.power.shutdown = false →
    arg = BitVec.ofNat 8 (marshalNum m) → (m ≠ s.ref.active ∨ s.ref.safe = true) →
    Reaches (exec (.resetMarshal via arg) s) fun t => fld 7 0 t.ref.supvResult = 2 ∧
      (t.ref.marshal m).booting = true ∧ (t.ref.marshal m).healthy = false) ∧
  (∀ (s : State) (via : Via), s.power.powered = true → s.power.shutdown = false →
    Reaches (exec (.resetAll via 0x5AA5#16) s) fun t => fld 7 0 t.ref.supvResult = 2 ∧ t.ref.safe = true ∧
      t.ref.latchedC = none ∧ t.ref.resetPend = some (s.now + cycMs 1) ∧ t.fw.slot0.bootfail = 0 ∧
      t.fw.slot1.bootfail = 0 ∧ t.log.clean = true) ∧
  (∀ (s : State) (port : Port), exec (.supvStatusRead port) s =
    .next (s.onRef fun r => { r with supvTime := BitVec.ofNat 64 s.now }))

/-- JOB.OPEN, JOB.FEED, JOB.QUERY, JOB.CLOSE, JOB.ABORT and JOB.LEDGER.READ complete. -/
def Obligations.JobCommands : Prop :=
  (∀ (s : State) (src : Src) (job : BitVec 16) (target : BitVec 2) (dual : Bool), s.mbsWf →
    s.jobs.parser.job = none → s.job? job = none → s.jobs.jobs.length < 16 →
    (target = 0 → s.plate.attached.isSome = true ∧ s.plate.eol = false ∧ s.plate.refused = false) →
    Reaches (exec (.jobOpen src job target dual) s) fun t => t.answered src ST.ok ∧
      (∃ j, t.job? job = some j ∧ j.owner = src.port ∧ j.target = target ∧ j.dual = dual ∧ j.st = .streaming) ∧
      t.jobs.parser = { Parser.reset with job := some job } ∧ (∀ i, i ≠ job → t.job? i = s.job? i)) ∧
  (∀ (s : State) (src : Src) (job : BitVec 16) (wp : BitVec 32) (j : Job), s.mbsWf → s.job? job = some j →
    j.owner = src.port → j.st = .streaming → s.jobs.parser.feedOk wp.toNat = true →
    Reaches (exec (.jobFeed src job wp) s) fun t => t.answered src ST.ok ∧
      t.jobs.parser = { s.jobs.parser with wp := wp.toNat, stall := none } ∧ t.jobs.jobs = s.jobs.jobs) ∧
  (∀ (s : State) (src : Src) (job : BitVec 16) (j : Job), s.mbsWf → s.job? job = some j →
    Reaches (exec (.jobQuery src job) s) fun t => t.answered src ST.ok ∧ (t.mb src.mb).respBody.length = 2 ∧
      t.jobs = s.jobs) ∧
  (∀ (s : State) (src : Src) (job : BitVec 16) (j : Job), s.mbsWf → s.job? job = some j →
    j.owner = src.port → j.st = .ended → (s.jobs.stripes.any fun x => x.id.job == job && x.st.active) = false →
    Reaches (exec (.jobClose src job) s) fun t => t.answered src ST.ok ∧ t.job? job = none ∧
      ∀ i, i ≠ job → t.job? i = s.job? i) ∧
  (∀ (s : State) (src : Src) (job : BitVec 16) (abort : Bool) (j : Job), s.mbsWf → s.job? job = some j →
    j.owner = src.port → (s.beginAbort job abort).abortWaits job = false →
    Reaches (exec (.jobAbort src job abort) s) fun t => t.answered src ST.ok ∧ t.job? job = none) ∧
  (∀ (s : State) (src : Src) (id : StripeId) (first count : BitVec 16) (buf : BufRef) (x : Stripe),
    s.stripe? id = some x →
    let rs := s.ledger.find id first.toNat count.toNat
    let an := s.ledger.annexOf rs
    let n := 4 * rs.length + an.length
    outBuf buf 0 = true →
    exec (.jobLedgerRead src id first count buf) s = .next
      (if 16 * n ≤ buf.len.toNat then (s.writeBuf buf (rs.flatten ++ an)).ok src
        [packW [(0, 32, rs.length), (32, 32, an.length), (64, 32, 16 * n)]]
      else s.respond src ST.sysBuffer n false []))

/-- STRIPE.DISARM, GO, STOP, RELEASE and STATUS of a held stripe of the sender's job. -/
def Obligations.StripeCommands : Prop :=
  (∀ (s : State) (src : Src) (id : StripeId) (x : Stripe), s.mbsWf → s.stripe? id = some x →
    s.owns src id.job = true → x.st = .armed →
    Reaches (exec (.stripeDisarm src id) s) fun t => t.answered src ST.ok ∧
      (t.stripe? id).map (·.st) = some .checked) ∧
  (∀ (s : State) (src : Src) (id : StripeId) (w : BitVec 16) (yref : BitVec 48) (sense : Bool) (cm : BitVec 23)
      (xc : BitVec 48) (tlb : BitVec 32) (x : Stripe), s.mbsWf → s.stripe? id = some x →
    s.owns src id.job = true → x.st = .armed → cm ≠ 0 → (tlb = 0 ∨ x.tmin ≤ tlb.toNat) →
    firstFail (s.goPre x true yref sense) = none → s.goUnmet x = 0 →
    Reaches (exec (.stripeGo src id w yref sense cm xc tlb) s) fun t => t.answered src ST.ok ∧
      (t.stripe? id).map (·.st) = some .running ∧ t.play.deficit = [] ∧
      (∃ r, t.play.run = some r ∧ r.st = id ∧ r.yref = yref.toNat ∧ r.sense = (if sense then -1 else 1) ∧
        r.crossmax = cm.toNat ∧ r.xcref = xc.toNat ∧ r.tlb = tlb.toNat ∧ r.goAt = s.now) ∧
      (x.target ≠ 0 → t.beam.shadow = [] ∧ t.ref.permitOut = s.ref.permitOut)) ∧
  (∀ (s : State) (src : Src) (id : StripeId) (abort : Bool) (x : Stripe) (r : Run), s.mbsWf → s.stripe? id = some x →
    s.owns src id.job = true → (x.st = .running ∨ x.st = .stopping) → s.run? = some (r, x) →
    Reaches (exec (.stripeStop src id abort) s) fun t => t.waits src (.stripeStop src id abort) ∧
      ∃ q, t.play.run = some q ∧ ⟨if abort then 11 else 20, none, none⟩ ∈ q.causes) ∧
  (∀ (s : State) (src : Src) (id : StripeId) (x : Stripe), s.mbsWf → s.stripe? id = some x →
    s.owns src id.job = true → (x.st = .refused ∨ x.st = .done ∨ x.st = .stopped ∨ x.st = .halted) →
    Reaches (exec (.stripeRelease src id) s) fun t => t.answered src ST.ok ∧ t.stripe? id = none) ∧
  (∀ (s : State) (src : Src) (id : StripeId) (x : Stripe), s.stripe? id = some x →
    exec (.stripeStatus src id none) s = .next (s.ok src (s.statusWords x 0)) ∧
    ∀ buf, outBuf buf 0 = true → exec (.stripeStatus src id (some buf)) s =
      .next (if 16 * x.nseg ≤ buf.len.toNat then
        (s.writeBuf buf (x.segs.map Seg.entry)).ok src (s.statusWords x x.nseg)
      else s.respond src ST.sysBuffer x.nseg false []))

/-- STRIPE.ARM and STRIPE.RESUME: a loopback stripe is ARMED at once; any other waits for the head's echo of
MAPSET, once every condition of the arm holds. -/
def Obligations.ArmCommands : Prop :=
  ∀ (s : State) (src : Src) (id : StripeId) (resume : Bool) (x : Stripe) (q : Nat), s.mbsWf → s.stripe? id = some x →
    s.owns src id.job = true → (if resume then x.st = .stopped ∨ x.st = .halted else x.st = .checked) →
    s.quiet = true → s.link.arm = none → x.firstOpen = some q → s.beam.table.isSome = true →
    let loop := x.target == 2
    let mapped := loop || s.link.headPresent
    let m := s.buildMap loop s.link.map [] []
    let t := (if mapped then s.mapEvents src m.1 m.2 else s).prepareArm m.1 mapped
    gainBad (t.beam.activeT.getD ⟨0, 0, 0, 0, []⟩) t.deadNow x.hdr.ghbound = none →
    x.capacityBad t.deadNow q = [] → x.offsetOk s.beam.fit = true →
    (x.hdr.place = true → x.placementBad t.deadNow q = []) → firstFail (t.armRest x) = none →
    let c : Instr := if resume then .stripeResume src id else .stripeArm src id
    Reaches (exec c s) fun u =>
      if loop then u.answered src ST.ok ∧ (u.stripe? id).map (·.st) = some .armed
      else u.waits src c ∧ u.link.arm = some ⟨src, id, s.now, resume, m.1⟩

/-- BEAM.GAIN.LOAD, DEAD.SET, DEAD.CLEAR, STUCK.CLEAR, HISTORY.POLICY and FIT.SEAL: tables and lists. -/
def Obligations.BeamTableCommands : Prop :=
  (∀ (s : State) (src : Src) (buf : BufRef), s.mbsWf →
    let ws := s.mem.words buf.space buf.addr.toNat gainWords
    let alpha := fld 79 64 (ws.getD 0 0)
    let tau := fld 111 80 (ws.getD 0 0)
    s.bufReads buf = true → gainFormatOk ws = true → gainRangeBad alpha tau (gainValues ws) = none →
    Reaches (exec (.beamGainLoad src buf) s) fun t => t.answered src ST.ok ∧
      t.beam.pendingT = some ⟨0, s.beam.lastGen + 1, alpha, tau, gainValues ws⟩ ∧
      t.beam.lastGen = s.beam.lastGen + 1 ∧ t.beam.activeT = s.beam.activeT) ∧
  (∀ (s : State) (src : Src) (bs : List (BitVec 32)), s.mbsWf → (∀ b ∈ bs, b.toNat < 262144) →
    Reaches (exec (.beamDeadSet src bs) s) fun t => t.answered src ST.ok ∧ (t.mb src.mb).resp1.getLsbD 17 = true ∧
      ∀ n, n ∈ t.beam.hostDead ↔ n ∈ s.beam.hostDead ∨ ∃ b ∈ bs, b.toNat = n) ∧
  (∀ (s : State) (src : Src) (bs : List (BitVec 32)), s.mbsWf → (∀ b ∈ bs, b.toNat < 262144) →
    Reaches (exec (.beamDeadClear src (some bs)) s) fun t => t.answered src ST.ok ∧
      ∀ n, n ∈ t.beam.hostDead ↔ n ∈ s.beam.hostDead ∧ ∀ b ∈ bs, b.toNat ≠ n) ∧
  (∀ (s : State) (src : Src), s.mbsWf →
    Reaches (exec (.beamDeadClear src none) s) fun t => t.answered src ST.ok ∧ t.beam.hostDead = []) ∧
  (∀ (s : State) (src : Src) (b : BitVec 18), s.mbsWf → b.toNat ∈ s.beam.recovered →
    Reaches (exec (.beamStuckClear src b) s) fun t => t.answered src ST.ok ∧ b.toNat ∉ t.beam.stuckOn ∧
      b.toNat ∉ t.beam.stuckOff ∧ t.ref.permitOut = s.ref.permitOut ∧
      ∀ n, n ≠ b.toNat → (n ∈ t.beam.stuckOn ↔ n ∈ s.beam.stuckOn) ∧ (n ∈ t.beam.stuckOff ↔ n ∈ s.beam.stuckOff)) ∧
  (∀ (s : State) (src : Src) (z : Bool), s.mbsWf →
    Reaches (exec (.beamHistoryPolicy src z) s) fun t => t.answered src ST.ok ∧ t.beam.reqZero = z ∧
      t.beam.hist = s.beam.hist) ∧
  (∀ (s : State) (src : Src) (f : FitRec), s.mbsWf → s.fitOk f = true →
    Reaches (exec (.beamFitSeal src f) s) fun t => t.answered src ST.ok ∧
      t.beam.fit = { f with fgen := s.beam.fit.fgen + 1 })

/-- BEAM.HISTORY.READ of the stripe whose run the snapshot is of, and BEAM.STATUS. -/
def Obligations.BeamReports : Prop :=
  (∀ (s : State) (src : Src) (id : StripeId) (buf : BufRef) (h : List (Nat × Nat)), s.beam.snap = some (id, h) →
    exec (.beamHistoryRead src id buf) s =
      .next ((s.write buf.space buf.addr.toNat (historyBytes h)).ok src [])) ∧
  (∀ (s : State) (src : Src), s.mbsWf →
    Reaches (exec (.beamStatus src) s) fun t => t.answered src ST.ok ∧ t.beam = s.beam ∧ t.mem = s.mem)

/-- The STAGE commands: a configuration and a policy wait for the next tick or frame. -/
def Obligations.StageCommands : Prop :=
  (∀ (s : State) (src : Src) (ps : List PortRec) (tr : TrackerRec), s.mbsWf → s.active? = none →
    stageCfgOk ps tr = true →
    Reaches (exec (.stageConfig src ps tr) s) fun t => t.answered src ST.ok ∧
      t.stage = { s.stage with nextCfg := some (ps, tr) }) ∧
  (∀ (s : State) (src : Src) (port : BitVec 3) (ms : List MarkEntry), s.mbsWf → s.active? = none →
    port.toNat < 6 → ms.length ≤ 16 → (∀ m ∈ ms, m.mtol.toNat ≤ m.mwin.toNat) → s.stage.ports.length = 6 →
    Reaches (exec (.stageMarks src port ms) s) fun t => t.answered src ST.ok ∧
      t.stage.port port.toNat = { s.stage.port port.toNat with nextMarks := some ms } ∧
      ∀ n, n ≠ port.toNat → t.stage.port n = s.stage.port n) ∧
  (∀ (s : State) (src : Src), s.mbsWf →
    Reaches (exec (.stageStatus src) s) fun t => t.answered src ST.ok ∧ t.stage = s.stage) ∧
  (∀ (s : State) (src : Src), s.mbsWf → s.stage.persists .scan = false → s.stage.persists .cross = false →
    Reaches (exec (.stageFaultClear src) s) fun t => t.answered src ST.ok ∧
      t.stage = { s.stage with integrity := false }) ∧
  (∀ (s : State) (src : Src) (on : Bool), s.mbsWf → s.active? = none →
    Reaches (exec (.stageSwitchTest src on) s) fun t => t.answered src ST.ok ∧ t.stage.swTest = on ∧
      (on = true → ∀ p ∈ t.stage.ports, p.swCount = [0, 0, 0])) ∧
  (∀ (s : State) (src : Src) (w : BitVec 64), s.mbsWf → fld 63 42 w = 0 → policyOk w = true →
    Reaches (exec (.stagePacePolicy src w) s) fun t => t.answered src ST.ok ∧
      t.pacer = { s.pacer with policyNext := some w }) ∧
  (∀ (s : State) (src : Src) (w0 w1 : BitVec 64), s.mbsWf → fld 15 11 w0 = 0 → fld 15 11 w1 = 0 →
    emuWordOk w0 = true → emuWordOk w1 = true → s.stage.emus.length = 2 →
    Reaches (exec (.stageEmu src w0 w1) s) fun t => t.answered src ST.ok ∧
      t.stage.emus.map (·.next) = [some w0, some w1])

/-- The CAM commands on a port. -/
def Obligations.CameraCommands : Prop :=
  ∀ (s : State) (src : Src) (cam : BitVec 2), s.mbsWf → cam.toNat < s.cams.cams.length →
    let c := s.cam cam.toNat
    (∀ r, c.stopped = true → camRecOk r = true → Reaches (exec (.camConfig src cam r) s) fun t =>
      t.answered src ST.ok ∧ t.cam cam.toNat = { c with cfg := r }) ∧
    (∀ slot, 1 ≤ slot.entries.length → slot.entries.length ≤ 256 →
      Reaches (exec (.camSettings src cam slot) s) fun t => t.answered src ST.ok ∧ t.cam cam.toNat =
        { c with genAcc := c.genAcc + 1, pending := some (slot, c.genAcc + 1, 0), latest := some (slot, c.genAcc + 1) }) ∧
    (∀ w rl, c.present = true → Reaches (exec (.camI2cXfer src cam w rl) s) fun t =>
      t.waits src (.camI2cXfer src cam w rl) ∧ (t.cam cam.toNat).xfers = c.xfers ++ [⟨src, w, rl.toNat⟩]) ∧
    (∀ n, c.present = true → c.ringWords ≠ 0 → s.regionFailed 10 1 = false →
      Reaches (exec (.camStart src cam n) s) fun t => t.answered src ST.ok ∧ t.cam cam.toNat =
        { c with running := true, draining := false, left := if n = 0 then none else some n.toNat }) ∧
    (c.running = true → c.work = [] → Reaches (exec (.camStop src cam true) s) fun t => t.answered src ST.ok ∧
      t.cam cam.toNat = { c with running := false, draining := false }) ∧
    (c.running = true → c.work ≠ [] → Reaches (exec (.camStop src cam false) s) fun t =>
      t.waits src (.camStop src cam false) ∧ t.cam cam.toNat = { c with draining := true }) ∧
    (∀ buf, let k := buf.len.toNat / 4
      let bs := s.mem.bytes buf.space buf.addr.toNat (4 * k)
      let ds := (List.range k).map fun i => (leNat ((bs.drop (4 * i)).take 2), leNat ((bs.drop (4 * i + 2)).take 2))
      s.bufReads buf = true → c.stopped = true → k ≤ 4096 → sortedDefects ds = true →
      Reaches (exec (.camDefects src cam buf) s) fun t =>
        t.answered src ST.ok ∧ t.cam cam.toNat = { c with defects := ds }) ∧
    (∀ buf, s.bufReads buf = true → c.stopped = true → Reaches (exec (.camShading src cam buf) s) fun t =>
      t.answered src ST.ok ∧ t.cam cam.toNat = { c with shading := s.read16 buf 1089 }) ∧
    (∀ tp buf, s.bufReads buf = true → templateOk tp = true → Reaches (exec (.camTemplate src cam tp buf) s) fun t =>
      t.answered src ST.ok ∧ ∃ u ∈ (t.cam cam.toNat).templates, u.cfg = tp ∧ u.img.length = tp.th.toNat) ∧
    (∀ g, Reaches (exec (.camSpotgrid src cam g) s) fun t => t.answered src ST.ok ∧
      t.cam cam.toNat = { c with grid := some g }) ∧
    (∀ buf, c.stopped = true → s.queueBusy (cam.toNat + 2) = false → Reaches (exec (.camRing src cam buf) s) fun t =>
      t.answered src ST.ok ∧ t.cam cam.toNat = { c with
        ringBase := buf.addr, ringSpace := buf.space, ringWords := buf.len.toNat / 16, ringWp := 0, ringRp := 0 }) ∧
    Reaches (exec (.camStatus src cam) s) fun t => t.answered src ST.ok ∧ t.cams = s.cams

/-- The CAL commands: an acquisition, a trim run and a gain run wait for their ends. -/
def Obligations.CalibrationCommands : Prop :=
  (∀ (s : State) (src : Src) (d : AcqDesc), s.mbsWf →
    (∀ n ∈ maskChannels d.chmask, (∀ a ∈ s.meas.acqs, a.desc.chmask.getLsbD n = false) ∧
      ∀ g, s.meas.gain = some g → g.policy.cupch.toNat ≠ n) →
    1 ≤ d.count.toNat → d.count.toNat ≤ 2 ^ 24 → d.chmask ≠ 0 →
    (d.bufAddr = 0 ∨ rangeOk d.bufSpace d.bufAddr.toNat d.bufLen.toNat = true ∧
      4 * (maskChannels d.chmask).length * d.count.toNat ≤ d.bufLen.toNat) →
    Reaches (exec (.calAcquire src d) s) fun t => t.waits src (.calAcquire src d) ∧
      t.meas.acqs = s.meas.acqs ++ [⟨src, d, 0, (maskChannels d.chmask).map fun _ => none⟩]) ∧
  (∀ (s : State) (src : Src) (l : List (BitVec 16 × BitVec 16)), s.mbsWf →
    (∀ p ∈ l, signedOf 16 p.1.toNat ≤ signedOf 16 p.2.toNat) →
    Reaches (exec (.calTsLimits src l) s) fun t => t.answered src ST.ok ∧
      ∀ n, n < 4 → t.meas.tsLimits.getD n (0, 0) =
        (l.map fun p => (signedOf 16 p.1.toNat, signedOf 16 p.2.toNat)).getD n (s.meas.tsLimits.getD n (0, 0))) ∧
  (∀ (s : State) (src : Src) (item : BitVec 8), s.mbsWf → s.meas.items.length = 71 →
    (item = 0xFF ∨ item.toNat < 71) → s.meas.trimWait = none →
    (∀ k ∈ trimItems item, s.mayTrim k = true ∧ (s.meas.item k).running = false) →
    Reaches (exec (.calTrimRun src item) s) fun t => t.waits src (.calTrimRun src item) ∧
      (∀ k, (t.meas.item k).running = true ↔ (s.meas.item k).running = true ∨ k ∈ trimItems item) ∧
      t.meas.trimSet = trimItems item ∧ t.meas.trimWait = some src) ∧
  (∀ (s : State) (src : Src) (g : BeamGrid), s.mbsWf → s.gainUnmet = 0 →
    Reaches (exec (.calGainRun src g) s) fun t => t.waits src (.calGainRun src g) ∧
      ∃ p, t.meas.gain = some p ∧ p.src = src ∧ p.grid = g ∧ p.policy = s.meas.policy ∧ p.second = false ∧ p.step = 0) ∧
  (∀ (s : State) (src : Src) (abort : Bool), s.mbsWf → Reaches (exec (.calGainAbort src abort) s) fun t =>
    t.answered src ST.ok ∧ t.meas.gain = none) ∧
  (∀ (s : State) (src : Src) (p : CalPolicy), s.mbsWf → 1 ≤ p.ccal.toNat → 10 ≤ p.mcup.toNat → p.mcup.toNat ≤ 10000 →
    1 ≤ p.ibeam.toNat → p.alpha0.toNat ≤ 16384 → 10000 ≤ p.tau0.toNat → p.tau0.toNat ≤ 10000000 →
    Reaches (exec (.calPolicy src p) s) fun t => t.answered src ST.ok ∧ t.meas = { s.meas with policy := p }) ∧
  (∀ (s : State) (src : Src), s.mbsWf → Reaches (exec (.calStatus src) s) fun t => t.answered src ST.ok ∧
    t.meas = s.meas)

/-- The LINK, TIME and PLATE commands. -/
def Obligations.LinkTimePlateCommands : Prop :=
  (∀ (s : State) (src : Src) (ch : BitVec 4) (warn stop trip : BitVec 16) (c : Thermal), s.mbsWf →
    s.link.headPresent = true → s.link.thermal[ch.toNat]? = some c →
    c.boundsOk (signedOf 16 warn.toNat) (signedOf 16 stop.toNat) (signedOf 16 trip.toNat) = true →
    Reaches (exec (.linkThermal src ch warn stop trip) s) fun t => t.answered src ST.ok ∧
      t.link.thermal[ch.toNat]? = some { c with
        warn := signedOf 16 warn.toNat, stop := signedOf 16 stop.toNat, trip := signedOf 16 trip.toNat } ∧ ∀ n, n ≠ ch.toNat → t.link.thermal[n]? = s.link.thermal[n]?) ∧
  (∀ (s : State) (src : Src), s.mbsWf → Reaches (exec (.linkStatus src) s) fun t => t.answered src ST.ok ∧
    t.link = s.link) ∧
  (∀ (s : State) (src : Src) (lane : BitVec 7), s.mbsWf → lane.toNat < 68 → s.laneBusy lane.toNat = false →
    s.link.lanes.length = 68 →
    Reaches (exec (.linkTest src lane) s) fun t => t.waits src (.linkTest src lane) ∧
      (t.link.lane lane.toNat).testing = true) ∧
  (∀ (s : State) (src : Src) (d : BitVec 1) (r : DomainRec), s.mbsWf →
    domainRecOk r (s.time.dom (d + 1)).cfg = true →
    Reaches (exec (.timeDomain src d r) s) fun t => t.answered src ST.ok ∧ (t.time.dom d).cfg = r ∧
      t.time.ctr = s.time.ctr) ∧
  (∀ (s : State) (src : Src) (mode : BitVec 2) (pref : BitVec 1) (rev : Bool) (slew : BitVec 8), s.mbsWf →
    mode.toNat ≤ 2 → 1 ≤ slew.toNat → slew.toNat ≤ 50 →
    Reaches (exec (.timeSelect src mode pref rev slew) s) fun t => t.answered src ST.ok ∧
      if s.active? = none then t.time.mode = mode ∧ t.time.pref = pref ∧ t.time.revert = rev ∧ t.time.slew = slew ∧
        t.time.deferred = none
      else t.time = { s.time with deferred := some (mode, pref, rev, slew) } ∧
        (t.mb src.mb).resp1.getLsbD 17 = true) ∧
  (∀ (s : State) (src : Src), s.mbsWf → Reaches (exec (.timeStatus src) s) fun t => t.answered src ST.ok ∧
    t.time = s.time) ∧
  (∀ (s : State) (src : Src) (svc : Bool) (key : BitVec 256), s.mbsWf →
    (if svc then s.plate.keySvc else s.plate.keyM) = none →
    Reaches (exec (.plateProvision src svc key) s) fun t => t.answered src ST.ok ∧
      (if svc then t.plate.keySvc else t.plate.keyM) = some key ∧
      (if svc then t.plate.keyM else t.plate.keySvc) = if svc then s.plate.keyM else s.plate.keySvc) ∧
  (∀ (s : State) (src : Src) (tk : TokenRec), s.mbsWf → s.plate.attached.isSome = true → s.plate.tokenOk tk = true →
    Reaches (exec (.plateToken src tk) s) fun t => t.answered src ST.ok ∧ t.plate.hardFlash = fld 63 0 tk.w2 ∧
      t.plate.hardOn = fld 127 64 tk.w2 ∧ t.plate.usage.tserial = fld 95 64 tk.w0 ∧
      (fld 24 24 tk.w0 = 1 → t.plate.refused = false ∧ t.plate.usage.flashes = fld 63 0 tk.w3)) ∧
  (∀ (s : State) (src : Src), s.mbsWf → s.plate.attached.isSome = true →
    Reaches (exec (.plateStatus src) s) fun t => t.answered src ST.ok ∧ t.plate = s.plate)

/-- The MEM and DMA commands, on a host channel in service. -/
def Obligations.MemoryAndDmaCommands : Prop :=
  (∀ (s : State) (src : Src), s.mbsWf → Reaches (exec (.memStatus src) s) fun t => t.answered src ST.ok ∧
    t.mem = s.mem ∧ t.mc = s.mc) ∧
  (∀ (s : State) (src : Src) (id : StripeId) (seg : BitVec 16) (x : Stripe) (g : Seg), s.mbsWf →
    s.stripe? id = some x → x.seg? seg.toNat = some g → g.lstate.isHeld = true →
    Reaches (exec (.memLandingRead src id seg) s) fun t => t.answered src ST.ok ∧
      (t.mb src.mb).respBody = x.landingRecord seg.toNat g 0) ∧
  ∀ (s : State) (src : Src) (chan : BitVec 5), s.mbsWf → s.dma.chans.length = 48 →
    let n := chan.toNat
    let c := s.dmaCh n
    (∀ cfg pace head cring, c.st.rest = true → dmaConfigOk cfg pace head cring = true →
      Reaches (exec (.dmaConfig src chan cfg pace head cring) s) fun t => t.answered src ST.ok ∧
        (t.dmaCh n).pace = pace ∧ (t.dmaCh n).wp = 0 ∧ (t.dmaCh n).phase = true ∧ (t.dmaCh n).unbound = false ∧
        (t.dmaCh n).st = c.st) ∧
    (s.chanServes n = true → c.st.rest = true → c.recWait = none →
      Reaches (exec (.dmaStart src chan false) s) fun t => t.answered src ST.ok ∧
        (t.dmaCh n).st = (if c.qid = 0 ∧ c.unbound = false then .active else .pacedOff) ∧
        (t.dmaCh n).expseq = c.seq0 ∧ (t.dmaCh n).hops = 0 ∧
        (t.dmaCh n).fetching = some (fld 47 0 c.head, BitVec.ofNat 4 (fld 51 48 c.head), s.now)) ∧
    (s.chanServes n = true → c.st = .stopped → c.resumable = true → c.desc.isSome = true →
      Reaches (exec (.dmaStart src chan true) s) fun t => t.answered src ST.ok ∧
        (t.dmaCh n).st = (if c.qid = 0 ∧ c.unbound = false then .active else .pacedOff) ∧
        (t.dmaCh n).desc = c.desc ∧ (t.dmaCh n).off = c.off) ∧
    (c.canDrain = true → c.burst.isSome = true →
      Reaches (exec (.dmaStop src chan false) s) fun t => t.waits src (.dmaStop src chan false) ∧
        (t.dmaCh n).st = .draining ∧ (t.dmaCh n).desc = c.desc) ∧
    (c.st ≠ .idle → c.burst = none → c.desc = none → c.recWait = none →
      Reaches (exec (.dmaStop src chan true) s) fun t => t.answered src ST.ok ∧ (t.dmaCh n).st = .stopped ∧
        (t.dmaCh n).resumable = false ∧ (t.dmaCh n).fetching = none) ∧
    (∀ rp, c.recWait = none → Reaches (exec (.dmaRingAdvance src chan rp) s) fun t => t.answered src ST.ok ∧
      t.dmaCh n = { c with crrp := rp.setWidth 64 }) ∧
    Reaches (exec (.dmaStatus src chan) s) fun t => t.answered src ST.ok ∧ t.dma = s.dma

/-- The four DMA.CMD writes of a firmware channel do what START, RESUME, DRAIN and ABORT do. -/
def Obligations.FirmwareDmaCommands : Prop :=
  ∀ (s : State) (chan : BitVec 6), s.dma.chans.length = 48 → 32 ≤ chan.toNat → chan.toNat < 48 →
    let n := chan.toNat
    let c := s.dmaCh n
    (c.st.rest = true → c.recWait = none → Reaches (exec (.dmaCmdStart chan) s) fun t =>
      (t.dmaCh n).st = (if c.qid = 0 ∧ c.unbound = false then .active else .pacedOff) ∧
      (t.dmaCh n).fetching = some (fld 47 0 c.head, BitVec.ofNat 4 (fld 51 48 c.head), s.now)) ∧
    (c.st = .stopped → c.resumable = true → c.desc.isSome = true → Reaches (exec (.dmaCmdResume chan) s) fun t =>
      (t.dmaCh n).st = (if c.qid = 0 ∧ c.unbound = false then .active else .pacedOff) ∧ (t.dmaCh n).desc = c.desc) ∧
    (c.canDrain = true → c.burst.isSome = true → Reaches (exec (.dmaCmdDrain chan) s) fun t =>
      (t.dmaCh n).st = .draining ∧ (t.dmaCh n).desc = c.desc) ∧
    (c.st ≠ .idle → c.burst = none → c.desc = none → c.recWait = none →
      Reaches (exec (.dmaCmdAbort chan) s) fun t => (t.dmaCh n).st = .stopped ∧ (t.dmaCh n).resumable = false)

/-- The check-value units: COMPUTE and the data register feed bytes in their order, SAVE reports, RESTORE loads,
INIT starts again; a unit that is bound ignores a write and sets ERR. -/
def Obligations.CheckValueUnits : Prop :=
  (∀ (s : State) (src : Src) (unit : BitVec 5) (init : Bool) (buf : BufRef), s.mbsWf → s.dma.cvus.length = 32 →
    unit.toNat < 16 → s.rstate (nodeR 7 2 unit.toNat) = .inService → (s.cvu unit.toNat).bound = none →
    s.bufReads buf = true →
    let u := s.cvu unit.toNat
    let bs := s.mem.bytes buf.space buf.addr.toNat buf.len.toNat
    Reaches (exec (.cvuCompute src unit init buf) s) fun t => t.answered src ST.ok ∧
      (t.cvu unit.toNat).value = crcRun (if init then BitVec.allOnes 64 else u.value) bs ∧
      (t.cvu unit.toNat).count = (if init then 0 else u.count) + BitVec.ofNat 48 buf.len.toNat) ∧
  (∀ (s : State) (src : Src) (unit : BitVec 5), s.mbsWf → unit.toNat < 16 →
    s.rstate (nodeR 7 2 unit.toNat) = .inService →
    Reaches (exec (.cvuSave src unit) s) fun t => t.answered src ST.ok ∧ t.dma = s.dma) ∧
  (∀ (s : State) (src : Src) (unit : BitVec 5) (v : BitVec 64) (n : BitVec 48), s.mbsWf → s.dma.cvus.length = 32 →
    unit.toNat < 16 → s.rstate (nodeR 7 2 unit.toNat) = .inService → (s.cvu unit.toNat).bound = none →
    Reaches (exec (.cvuRestore src unit v n) s) fun t => t.answered src ST.ok ∧
      t.cvu unit.toNat = { s.cvu unit.toNat with value := v, count := n }) ∧
  (∀ (s : State) (unit : BitVec 5) (d : BitVec 64), s.dma.cvus.length = 32 →
    let u := s.cvu unit.toNat
    Reaches (exec (.cvuDataFeed unit d) s) fun t => t.cvu unit.toNat =
      if u.bound.isSome then { u with err := true }
      else { u with
        value := crcRun u.value (leBytes (u.nbm1.toNat + 1) d.toNat)
        count := u.count + BitVec.ofNat 48 (u.nbm1.toNat + 1) }) ∧
  ∀ (s : State) (unit : BitVec 5) (nb : BitVec 3), s.dma.cvus.length = 32 →
    Reaches (exec (.cvuCmdInit unit nb) s) fun t => t.cvu unit.toNat = ⟨BitVec.allOnes 64, 0, nb, none, false⟩

/-- The REPAIR commands on an instance of the repair tree: a list of more than 126 pairs needs a buffer, a retired
carrier may be spared, a sector is replaced at once, RETURN of an instance that fails its test changes only what the
test says, and a lane returns as a lane. -/
def Obligations.RepairCommands : Prop :=
  (∀ (s : State) (src : Src) (node : BitVec 32), s.mbsWf → nodeExists node = true →
    let n := (nodePairs node).length
    (Reaches (exec (.repairQuery src node none) s) fun t => t.repair = s.repair ∧ t.mem = s.mem ∧
      if nodeDepth node = 3 ∨ n ≤ 126 then t.answered src ST.ok else t.answered src ST.sysBuffer) ∧
    ∀ buf, outBuf buf 0 = true → Reaches (exec (.repairQuery src node (some buf)) s) fun t => t.repair = s.repair ∧
      if 16 * n ≤ buf.len.toNat then t.answered src ST.ok else t.answered src ST.sysBuffer ∧ t.mem = s.mem) ∧
  (∀ (s : State) (src : Src) (manual : Bool), s.mbsWf → Reaches (exec (.repairPolicy src manual) s) fun t =>
    t.answered src ST.ok ∧ t.repair = { s.repair with manual := manual }) ∧
  (∀ (s : State) (src : Src) (node r c : BitVec 32), s.mbsWf → repairNode node = some r → memChannel r = none →
    (s.rstate r = .quarantined ∨ s.rstate r = .suspect ∨ s.rstate r = .failed ∨
      nodeI1 r = 5 ∧ nodeI2 r = 0 ∧ s.rstate r = .retired ∧ some (nodeI3 r) ∈ s.link.map) →
    s.freeSpare r = some c →
    Reaches (exec (.repairSpare src node) s) fun t => t.answered src ST.ok ∧
      if nodeI1 r = 11 then t.rstate c = .inService ∧ (t.repairRec r).map (·.by_) = some (some c)
      else (t.repairRec r).map (·.manualSpare) = some true) ∧
  (∀ (s : State) (src : Src) (node r : BitVec 32) (k : Stack) (n : Nat), s.mbsWf → repairNode node = some r →
    memChannel r = some (k, n) → (s.rstate r = .quarantined ∨ s.rstate r = .suspect ∨ s.rstate r = .failed) →
    Reaches (exec (.repairSpare src node) s) fun t => t.answered src ST.ok ∧ t.mc = (s.startRetire k n).mc) ∧
  (∀ (s : State) (src : Src) (node r : BitVec 32), s.mbsWf → repairNode node = some r → s.active? = none →
    (s.rstate r = .quarantined ∨ s.rstate r = .retired) → outputLane r = false →
    Reaches (exec (.repairReturn src node) s) fun t =>
      if Config.selfTest r s.fresh then t.answered src ST.ok ∧
        t.rstate r = (if s.rstate r = .quarantined then .inService else .spare)
      else t.answered src ST.repairSelftest ∧ t.rstate r =
        (if s.rstate r = .retired then .retired else if sparedNode r then .quarantined else .failed)) ∧
  (∀ (s : State) (src : Src) (node r : BitVec 32), s.mbsWf → repairNode node = some r → s.active? = none →
    outputLane r = true → s.rstate r = .retired → s.link.lanes.length = 68 →
    let x := s.link.lane (nodeI3 r)
    Reaches (exec (.repairReturn src node) s) fun t =>
      if Config.selfTest r s.fresh then t.answered src ST.ok ∧ t.link.lane (nodeI3 r) = { x with
        st := if x.ident.isSome = true ∧ s.link.retUp (nodeI3 r) = true then .spare else .down
        fails := 0
        step := 0 }
      else t.answered src ST.repairSelftest ∧ t.link.lane (nodeI3 r) = x) ∧
  ∀ (s : State) (src : Src) (node r : BitVec 32) (abort : Bool), s.mbsWf → repairNode node = some r →
    s.rstate r = .inService → (nodeI1 r, nodeI2 r) ∉ [(1, 2), (1, 4), (2, 0), (7, 1), (10, 0)] →
    Reaches (exec (.repairDisable src node abort) s) fun t => t.answered src ST.ok ∧ t.rstate r = .quarantined

/-- The CODEC commands: a service job is queued and its command waits, a lane that is idle is quarantined at once;
and TRACE. -/
def Obligations.CodecAndTraceCommands : Prop :=
  (∀ (s : State) (src : Src) (d : CodecDesc), s.mbsWf → descOk false d = true →
    Reaches (exec (.codecEncode src d) s) fun t => t.waits src (.codecEncode src d) ∧
      t.render.services = s.render.services ++ [⟨src.mb, false, d, none, []⟩]) ∧
  (∀ (s : State) (src : Src) (d : CodecDesc), s.mbsWf → descOk true d = true →
    Reaches (exec (.codecDecode src d) s) fun t => t.waits src (.codecDecode src d) ∧
      t.render.services = s.render.services ++ [⟨src.mb, true, d, none, []⟩]) ∧
  (∀ (s : State) (src : Src) (lane : BitVec 5), s.mbsWf → lane.toNat < 18 →
    s.rstate (nodeR 1 4 lane.toNat) = .inService → s.laneIdle false lane.toNat = true →
    Reaches (exec (.codecDisable src lane false false) s) fun t => t.answered src ST.ok ∧
      t.rstate (nodeR 1 4 lane.toNat) = .quarantined) ∧
  (∀ (s : State) (src : Src) (mask : BitVec 8) (buf : BufRef), s.mbsWf → s.trace.running = false →
    traceOk mask buf = true →
    Reaches (exec (.traceStart src mask buf) s) fun t => t.answered src ST.ok ∧ t.trace.running = true ∧
      t.trace.mask = mask ∧ t.trace.base = buf.addr ∧ t.trace.space = buf.space ∧ t.trace.words = buf.len.toNat / 16 ∧
      t.trace.off = 0 ∧ t.trace.written = 0 ∧ t.trace.lost = 0) ∧
  (∀ (s : State) (src : Src) (abort : Bool), s.mbsWf → s.trace.running = true →
    Reaches (exec (.traceStop src abort) s) fun t => t.answered src ST.ok ∧
      t.trace = { s.trace with running := false }) ∧
  ∀ (s : State) (src : Src), s.mbsWf → Reaches (exec (.traceStatus src) s) fun t => t.answered src ST.ok ∧
    t.trace = s.trace

/-- The registers written directly: a doorbell of a busy mailbox is counted as OVERRUN, one that brings SYS.IDENT with
the next ALIVE is answered; a write of EVQ.RP returns entries; TSNAP.CTR latches the counter, its stamp and the
selection; a write of THAW thaws a frozen stack; a write of DMA.PACE reaches its firmware channel at rest. -/
def Obligations.DirectRegisters : Prop :=
  (∀ (s : State) (p : Port) (mb : BitVec 4) (v : BitVec 64), s.mbsWf → v.getLsbD 0 = true → (s.port p).linkUp = true →
    s.power.ready = true → (s.mb mb).owner = some p → (s.mb mb).busy = true →
    Reaches (exec (.mbDoorbell p mb v []) s) fun t =>
      t.mb mb = { s.mb mb with overrun := satInc 16 (s.mb mb).overrun } ∧ ∀ n, n ≠ mb → t.mb n = s.mb n) ∧
  (∀ (s : State) (p : Port) (mb : BitVec 4) (v : BitVec 64), s.mbsWf → v.getLsbD 0 = true → (s.port p).linkUp = true →
    s.power.ready = true → s.firmware = true → (s.mb mb).owner = some p → (s.mb mb).busy = false →
    (s.mb mb).word 0 = packW [(0, 16, 0x0101), (48, 8, (((s.mb mb).lastAlive.map (· + 1)).getD 0).toNat)] →
    Reaches (exec (.mbDoorbell p mb v []) s) fun t => t.answered ⟨p, mb⟩ ST.ok ∧
      (t.mb mb).lastAlive = some (((s.mb mb).lastAlive.map (· + 1)).getD 0) ∧ t.ref.journal = s.ref.journal + 1) ∧
  (∀ (s : State) (p : Port) (v : BitVec 64),
    let q := (s.port p).evq
    let w := fld 31 0 v % q.size
    q.size ≠ 0 → q.staged = [] → q.lost = 0 → (w + q.size - q.rp) % q.size ≤ (q.wp + q.size - q.rp) % q.size →
    Reaches (exec (.evqRpWrite p v) s) fun t => (t.port p).evq = { q with rp := w }) ∧
  (∀ (s : State) (p : Port), Reaches (exec (.tsnapCtrRead p true) s) fun t =>
    (t.port p).tsCtr = BitVec.ofNat 64 s.now ∧ (t.port p).tsStamp = s.time.stampAt s.now 0 ∧
      (t.port p).tsSel = s.time.selReg) ∧
  (∀ (s : State) (st : Stack) (v : BitVec 64), v.getLsbD 0 = true → (s.mc.stack st).frozen = true →
    Reaches (exec (.memThaw st v) s) fun t => (t.mc.stack st).frozen = false ∧ (t.mc.stack st).heldWrites = []) ∧
  ∀ (s : State) (chan : BitVec 6) (v : BitVec 64), s.dma.chans.length = 48 → 32 ≤ chan.toNat → chan.toNat < 48 →
    (s.dmaCh chan.toNat).st.rest = true →
    Reaches (exec (.registerWrite (.devreg (BitVec.ofNat 32 (0xC0000 + 64 * chan.toNat + 8)) v)) s) fun t =>
      t.dmaCh chan.toNat = { s.dmaCh chan.toNat with pace := v }

/-- PARSE_SLOT at the slot that the parser of a streaming job reads: a wrap word sends it to offset 0, a chunk
already accepted is passed over, the chunk that is due is applied and its slot is free; a slot fed only in part, and a
chunk whose check value fails, stall the parser. -/
def Obligations.SlotsAreParsed : Prop :=
  ∀ (s : State) (job : BitVec 16),
    let p := s.jobs.parser
    let h := (s.mem.words spLanding p.rd 1).getD 0 0
    let len := fld 63 48 h
    let seq := fld 95 64 h
    let size := (len + 2 + 255) / 256 * 4096
    let ws := s.mem.words spLanding p.rd (len + 2)
    let t := ws.getD (len + 1) 0
    let body := (ws.drop 1).take len
    p.job = some job → p.stall = none → p.fed ≠ 0 → (s.job? job).any (·.st == .aborting) = false →
    s.stackReads .a = true → chunkHeaderOk h = true →
    (bitAt 97 h = true → ringLen - p.rd ≤ p.fed → Reaches (exec .parseSlot s) fun u =>
      u.jobs = { s.jobs with parser := { p with rd := 0 } }) ∧
    (bitAt 97 h = false → p.fed < size ∨ ringLen < p.rd + 16 * (len + 2) → Reaches (exec .parseSlot s) fun u =>
      u.jobs = { s.jobs with parser := { p with
        stall := some ⟨ST.jobChunkFormat, seq, p.rd, 0⟩, waitSpace := false } }) ∧
    (bitAt 97 h = false → p.rd + 16 * (len + 2) ≤ ringLen → size ≤ p.fed →
      (∀ w ∈ s.mc.stA.damaged, 32 * w < p.rd ∨ p.rd + size ≤ 32 * w) → fld 127 112 t = 0x5443 →
      fld 95 64 t = seq → fld 103 96 t = fld 31 24 h →
      (BitVec.ofNat 64 (fld 63 0 t) ≠ crc64W (ws.take (len + 1)) → Reaches (exec .parseSlot s) fun u =>
        u.jobs = { s.jobs with parser := { p with
          stall := some ⟨ST.jobChunkCrc, seq, p.rd, len + 1⟩, waitSpace := false } }) ∧
      (BitVec.ofNat 64 (fld 63 0 t) = crc64W (ws.take (len + 1)) → fld 47 32 h = job.toNat →
        fld 31 24 h = seq % 256 → (seq == 0) = (fld 7 0 (body.getD 0 0) == 1) →
        (seq < p.exp → p.kept.contains (seq, BitVec.ofNat 64 (fld 63 0 t)) = true →
          Reaches (exec .parseSlot s) fun u =>
            u.jobs = { s.jobs with parser := { p with rd := (p.rd + size) % ringLen, repeats := p.repeats + 1 } }) ∧
        (∀ c, seq = p.exp →
          Chunk.records (len + 1) (bitAt 96 h) seq 1 body ⟨s, job, p.ctx, [], 0, recordStore - s.jobs.storeUsed, false⟩ =
            .inl c →
          c.bad = [] → Reaches (exec .parseSlot s) fun u => u.jobs.parser.rd = (p.rd + size) % ringLen ∧
            u.jobs.parser.exp = seq + 1 ∧ u.jobs.parser.last = some seq ∧ u.jobs.parser.stall = none ∧
            u.jobs.parser.ctx = c.ctx ∧ u.jobs.parser.job = (if c.ended then none else c.s.jobs.parser.job) ∧
            u.jobs.stripes = c.s.jobs.stripes)))

/-- The passes of a held stripe: Canopy, check and landing pass. -/
def Obligations.RenderPasses : Prop :=
  ∀ (s : State) (id : StripeId) (x : Stripe), s.stripe? id = some x →
    (s.canopyDue x = true → (x.hdr.lrc = true → s.rstate (nodeR 1 1 0) = .inService) →
      Reaches (exec (.canopyPassStart id) s) fun t =>
        if x.hdr.lrc then t.stripe? id = some { x with canopy := .running, canopyAt := s.now } ∧
          t.render.canopy = some id
        else t.stripe? id = some { x with canopy := .complete, canopyTime := 0 } ∧ t.render = s.render) ∧
    (∀ us, s.render.canopy = some id → x.canopy = .running → s.thawed = true → s.mapPlace x = some us →
      Reaches (exec (.canopyPassComplete id) s) fun t => ∃ f, f.unitsA = us.1 ∧ f.unitsB = us.2 ∧
        f.crcs.length = x.nseg ∧ t.stripe? id = some { x with
          canopy := .complete, canopyTime := s.now - x.canopyAt, remap := false, fmap := some f } ∧
        t.render = { s.render with canopy := none }) ∧
    (s.render.canopy = some id → Reaches (exec .canopyFault s) fun t =>
      if x.canopyFails < 2 then t.stripe? id = some { x with canopyFails := x.canopyFails + 1, canopyAt := s.now } ∧
        t.render = s.render
      else t.stripe? id = some { x with canopyFails := 3, canopy := .waiting } ∧
        t.render = { s.render with canopy := none } ∧
        (t.rstate (nodeR 1 1 0) = .quarantined ∨ t.rstate (nodeR 1 1 0) = .failed)) ∧
    (x.st = .defined → x.canopy = .complete → x.check = .waiting → s.jobs.capUsed + capBytes x.nseg ≤ 64 * 2 ^ 20 →
      Reaches (exec (.checkPassStart id) s) fun t =>
        (∃ y, t.stripe? id = some y ∧ y.check = .running ∧ y.checkDead = s.deadNow ∧ y.tiles.length = 32 * x.nseg ∧
          y.st = .defined) ∧ t.beam = s.beam) ∧
    (x.check = .running → x.remap = false → s.thawed = true → (x.tiles.all fun v => v.check.isSome || v.good) = true →
      ((List.range x.nseg).map (s.badBlocks x)).flatten = [] → (List.range x.nseg).all (s.mapGood x) = true →
      Reaches (exec (.checkPassComplete id) s) fun t => ∃ y, t.stripe? id = some y ∧ y.check = .complete ∧
          y.capMap = capMapOf x.nseg ((List.range x.nseg).map (s.verdict x)) ∧
          y.st = if (List.range x.nseg).any (fun k => (s.verdict x k).unexp) then .refused else .checked) ∧
    ((x.st = .checked ∨ x.st = .armed) → x.check = .complete → x.landing = .waiting → s.render.landSt = none →
      (s.before id).all (fun y => y.landing == .complete) = true →
      Reaches (exec (.landingPassStart id) s) fun t =>
        (∃ y, t.stripe? id = some y ∧ y.landing = .running ∧ y.st = x.st) ∧ t.render.landSt = some id)

/-- Raster tiles: a free engine takes the first tile it may run; its check value is stored, compared, and a
difference calls a third run in front of the queue; an engine that fails leaves dispatch and its tile is
queued again in front. -/
def Obligations.RasterTiles : Prop :=
  ∀ (s : State) (e : BitVec 6), e.toNat < s.render.engines.length →
    (∀ t x, s.engines.contains e.toNat = true → s.render.engine e.toNat = none →
      s.render.queue.find? (s.mayRun e.toNat) = some t → s.stripe? t.st = some x → s.badBlocks x t.seg = [] →
      Reaches (exec (.tileDispatch e) s) fun u => u.render.engine e.toNat = some { t with since := s.now } ∧
        u.render.queue = s.render.queue.erase t ∧ u.jobs = s.jobs) ∧
    (∀ t x v obs, s.render.engine e.toNat = some t → s.stripe? t.st = some x → x.tileVal? t.seg t.tile = some v →
      let val := Option.getD obs (x.tileCheck t.seg t.tile)
      Reaches (exec (.tileComplete e obs) s) fun u => u.render.engine e.toNat = none ∧
        (t.pass = .check →
          (u.stripe? t.st).bind (·.tileVal? t.seg t.tile) = some { v with check := some (val, e.toNat) } ∧
          ∀ r ∈ u.render.queue, r ∈ s.render.queue ∨ r.st = t.st ∧ r.pass = .landing) ∧
        (t.pass ≠ .check → t.third = false → v.check.map (·.1) = some val →
          (u.stripe? t.st).bind (·.tileVal? t.seg t.tile) = some { v with land := some (val, e.toNat), good := true } ∧
          ∀ r ∈ u.render.queue, r ∈ s.render.queue ∨ r.st = t.st ∧ r.pass = .landing) ∧
        (t.pass ≠ .check → t.third = false → v.check.map (·.1) ≠ some val →
          (u.stripe? t.st).bind (·.tileVal? t.seg t.tile) = some { v with land := some (val, e.toNat) } ∧
          { t with third := true, front := true } ∈ u.render.queue)) ∧
    (∀ t c l x, s.render.engine e.toNat = some t → s.stripe? t.st = some x →
      (x.tileVal? t.seg t.tile).bind (·.check) = some c → (x.tileVal? t.seg t.tile).bind (·.land) = some l →
      t.pass ≠ .check → t.third = true → s.rstate (nodeR 1 2 l.2) = .inService →
      Reaches (exec (.tileComplete e (some c.1)) s) fun u =>
        ((u.stripe? t.st).bind (·.tileVal? t.seg t.tile)).map (·.good) = some true ∧
        u.rstate (nodeR 1 2 l.2) = .quarantined) ∧
    (∀ t x, s.render.engine e.toNat = some t → s.stripe? t.st = some x →
      (t.since + x.watchdog t < s.now → s.rstate (nodeR 1 2 e.toNat) = .inService →
        Reaches (exec (.tileWatchdogExpiry e) s) fun u => u.render.engine e.toNat = none ∧
          { t with front := true } ∈ u.render.queue ∧ u.rstate (nodeR 1 2 e.toNat) = .quarantined ∧ u.jobs = s.jobs) ∧
      (s.now ≤ t.since + x.watchdog t → Reaches (exec (.tileWatchdogExpiry e) s) fun u => u = s)) ∧
    (e.toNat < 34 → s.rstate (nodeR 1 2 e.toNat) = .inService → Reaches (exec (.engineParityError e) s) fun u =>
      u.render.engine e.toNat = none ∧ u.rstate (nodeR 1 2 e.toNat) = .quarantined ∧
      ∀ t, s.render.engine e.toNat = some t → { t with front := true } ∈ u.render.queue)

/-- Encode lanes: a panel starts with its extents, is coded into them, and is discarded when its lane fails. -/
def Obligations.EncodeLanes : Prop :=
  ∀ (s : State) (lane : BitVec 5), lane.toNat < 18 → s.render.encWork.length = 18 →
    (∀ (id : StripeId) (seg : BitVec 16) (p : BitVec 4) (ea eb recs : List (BitVec 48)) (x : Stripe) (g : Seg),
      s.stripe? id = some x → x.seg? seg.toNat = some g → g.panels.length = 16 →
      s.panelDue x seg.toNat p.toNat lane.toNat = true → ea.length = 257 → eb.length = 257 →
      s.extentsFree .a (ea.map (·.toNat)) = true → s.extentsFree .b (eb.map (·.toNat)) = true →
      s.badBlocks x seg.toNat = [] → s.mapGood x seg.toNat = true →
      Reaches (exec (.panelEncodeStart lane id seg p ea eb recs) s) fun t =>
        t.render.encoding lane.toNat = some ⟨id, seg.toNat, p.toNat⟩ ∧
        ((t.seg? id seg.toNat).map (·.panels)) = some (g.panels.modify p.toNat fun q => { q with
          st := .encoding, again := false, extA := ea.map (·.toNat), extB := eb.map (·.toNat),
          start := s.startState x seg.toNat p.toNat })) ∧
    (∀ (w : LaneWork) (x : Stripe) (g : Seg), s.render.encoding lane.toNat = some w → s.stripe? w.st = some x →
      x.seg? w.seg = some g → w.panel < g.panels.length → s.thawed = true → s.mapGood x w.seg = true →
      let rows := codingOrder x.rev (x.panelRows s.mem (s.mapValue x w.seg) w.seg w.panel)
      let b := encodeBlock (x.streamId w.seg w.panel) rows ((x.panel w.seg w.panel).start.getD CodecCtx.default)
      Reaches (exec (.panelEncodeComplete lane) s) fun t =>
        t.render.encoding lane.toNat = none ∧
        ∃ q, (t.seg? w.st w.seg).bind (·.panels[w.panel]?) = some q ∧ q.st = .encoded ∧ q.bsig = signature rows ∧
          q.after = some b.after ∧ q.extA = (x.panel w.seg w.panel).extA.take (extentsFor b.words.length)) ∧
    (∀ (w : LaneWork) (x : Stripe) (g : Seg) (q : Panel), s.render.encoding lane.toNat = some w →
      s.stripe? w.st = some x → x.seg? w.seg = some g → g.panels[w.panel]? = some q → q.encodeMism = 0 →
      s.rstate (nodeR 1 4 lane.toNat) = .inService → Reaches (exec (.encodeMismatch lane) s) fun t =>
        t.render.encoding lane.toNat = none ∧ t.rstate (nodeR 1 4 lane.toNat) = .quarantined ∧
        (t.seg? w.st w.seg).map (·.panels) = some (g.panels.modify w.panel fun q => { q with
          st := .idle, again := true, extA := [], extB := [], start := none, encodeMism := 1 })) ∧
    (∀ (id : StripeId) (seg : BitVec 16) (p : BitVec 4) (x : Stripe) (g : Seg) (q : Panel), s.stripe? id = some x →
      x.seg? seg.toNat = some g → g.panels[p.toNat]? = some q → q.st = .encoding → q.graderMism = 0 →
      Reaches (exec (.graderMismatch id seg p) s) fun t =>
        (t.seg? id seg.toNat).map (·.panels) = some (g.panels.modify p.toNat fun q => { q with graderMism := 1 }) ∧
        (t.rstate (nodeR 1 3 0) = .quarantined ∨ t.rstate (nodeR 1 3 0) = .failed))

/-- Decode lanes and service jobs. -/
def Obligations.DecodeLanesAndServiceJobs : Prop :=
  (∀ (s : State) (lane : BitVec 5), lane.toNat < 18 → s.rstate (nodeR 2 0 lane.toNat) = .inService →
    Reaches (exec (.decodeLaneFault lane) s) fun t =>
      t.rstate (nodeR 2 0 lane.toNat) = .quarantined ∧ t.render.decoding lane.toNat = none) ∧
  (∀ (s : State) (lane : BitVec 5) (addr : BitVec 48) (space : BitVec 4) (len : BitVec 32) (v : Service),
    v ∈ s.render.services → v.decode = true → v.lane = some lane.toNat →
    Reaches (exec (.decodeBufferResume lane addr space len) s) fun t =>
      { v with bufs := v.bufs ++ [(addr, space, len)] } ∈ t.render.services ∧ t.jobs = s.jobs) ∧
  (∀ (s : State) (mb : BitVec 4) (lane : BitVec 5) (v : Service),
    (s.render.services.find? fun v => v.mb == mb && v.lane.isNone) = some v →
    s.qualifies v.decode lane.toNat = true → Reaches (exec (.serviceJobStart mb lane) s) fun t =>
      { v with lane := some lane.toNat } ∈ t.render.services) ∧
  ∀ (s : State) (mb : BitVec 4) (v : Service) (w : Waiting), s.mbsWf →
    (s.render.services.find? fun v => v.mb == mb && v.lane.isSome) = some v → s.waiter mb = some w →
    s.serviceWrites v = true →
    (∀ r, s.serviceResult v = .ok r → Reaches (exec (.serviceJobComplete mb false) s) fun t =>
      t.answered w.src ST.ok ∧ (∀ u ∈ t.render.services, u.mb ≠ mb) ∧ t.waiter mb = none) ∧
    (∀ e, s.serviceResult v = .error e → (∀ u ∈ s.render.services, u.decode = v.decode → u.lane = v.lane → u = v) →
      Reaches (exec (.serviceJobComplete mb false) s) fun t =>
        t.answered w.src e ∧ t.render.services.all (fun u => u.mb != v.mb) = true)

/-- Landing: streams that stand in both stacks make a segment LANDED; the seal read-back admits it, seals it for
its witness, calls a rewrite of one bad copy, or finds it unverifiable; a landing record that fails its check value is
written again (the model's choice, log entry 46); the signature table is reloaded. -/
def Obligations.SegmentsLandAndSeal : Prop :=
  ∀ (s : State) (id : StripeId) (seg : BitVec 16) (x : Stripe) (g : Seg), s.stripe? id = some x →
    x.seg? seg.toNat = some g →
    let k := seg.toNat
    (g.lstate = .landing → g.old = none → g.panels.length = 16 → g.panels.all (fun p => p.st == .encoded) = true →
      s.stackReads .a = true → s.stackReads .b = true → Reaches (exec (.segmentLanded id seg) s) fun t =>
        t.seg? id k = some { g with lstate := .landed, tland := s.now, lastScrub := s.now }) ∧
    (∀ badA badB : BitVec 16, g.lstate = .landed → g.panels.any (fun p => p.rewrite.isSome) = false →
      let bad (c : Stack) (p : Nat) : Bool := inMask (match c with
        | .a => badA
        | .b => badB) p || !s.copySound (x.panel k p) c
      ((∀ p, p < 16 → bad .a p = false ∧ bad .b p = false) → s.recordOk g .a = true → s.recordOk g .b = true →
        Reaches (exec (.sealReadbackComplete id seg badA badB) s) fun t =>
          (x.hdr.witness = false →
            t.seg? id k = some { g with lstate := .admitted, tadm := s.now, admittedOnce := true }) ∧
          (x.hdr.witness = true → (x.witnesses.find? (·.seg == k)) = none →
            t.seg? id k = some { g with lstate := .sealed })) ∧
      ((∀ p, p < 16 → bad .a p = false ∧ bad .b p = false) → s.recordOk g .a = false ∨ s.recordOk g .b = false →
        exec (.sealReadbackComplete id seg badA badB) s = .next (s.writeLanding id k)) ∧
      (∀ p, p < 16 → bad .a p = true → bad .b p = true → Reaches (exec (.sealReadbackComplete id seg badA badB) s) fun t =>
        (t.seg? id k).map (·.lstate) = some .unverifiable ∧ t.land.unverifs = s.land.unverifs + 1) ∧
      (∀ p, p < 16 → (∀ q, q < 16 → (q = p ↔ bad .a q = true) ∧ bad .b q = false) →
        Reaches (exec (.sealReadbackComplete id seg badA badB) s) fun t =>
          t.seg? id k = some { g with panels := g.panels.modify p fun q => { q with
            rewrite := some .a, badCopy := some .a, arb := false } })) ∧
    (g.lstate.tabled = true → (∀ a, s.recordSigs g .a = some a → s.recordSigs g .b = some a →
      Reaches (exec (.signatureTableParity id seg false false) s) fun t =>
        (t.seg? id k).map (·.panels) = some (g.panels.zipIdx.map fun (p : Panel × Nat) =>
          { p.1 with bsig := BitVec.ofNat 64 (fld (64 * (p.2 % 2) + 63) (64 * (p.2 % 2)) (a.getD (p.2 / 2) 0)) }) ∧
        t.land.reloads = s.land.reloads + 1)) ∧
    (g.lstate.tabled = true → g.lstate ≠ .exposing → s.recordSigs g .a = none →
      Reaches (exec (.signatureTableParity id seg false false) s) fun t =>
        (t.seg? id k).map (·.lstate) = some .unverifiable)

/-- From admitted to READY: preparation takes a slot and latches the fit record; a panel that fails goes to
arbitration, which clears it, calls a rewrite or finds the segment unverifiable. -/
def Obligations.PreparationAndArbitration : Prop :=
  ∀ (s : State) (id : StripeId) (seg : BitVec 16) (x : Stripe) (g : Seg), s.stripe? id = some x →
    x.seg? seg.toNat = some g →
    let k := seg.toNat
    let b := (x.latched.map (·.decBind)).getD []
    (∀ (slot : BitVec 2) (q : Nat), s.prepFrom x = some q → g.lstate = .admitted →
      s.land.slots[slot.toNat]? = some none → q ≤ x.pos k → (upto q (x.pos k)).all (s.slotOrExposed x) = true →
      s.land.slots.all (fun t => !t.any fun y => y.st == id && y.seg == k) = true →
      b.all (fun n => s.rstate (nodeR 2 0 n) == .inService && s.laneIdle true n) = true →
      Reaches (exec (.preparationStart id seg slot) s) fun t =>
        t.land.slots[slot.toNat]? = some (some ⟨id, k, false⟩) ∧
        (t.seg? id k) = some { g with fit := some s.beam.fit } ∧
        (t.stripe? id).map (·.fgen) = some s.beam.fit.fgen.toNat ∧
        ∀ n, b.contains n = true → n < s.render.decWork.length → t.render.decoding n = some ⟨id, k, b.idxOf n⟩) ∧
    (g.lstate = .admitted → g.panels.any (·.arb) = false → s.slotWaits id k = true → s.decodes id k = true →
      s.thawed = true → b.all (fun n => (s.render.decoding n).any fun w => w.st == id && w.seg == k) = true →
      Reaches (exec (.segmentReady id seg 0) s) fun t => (∀ p, p < 16 → s.prepFails x k p 0 = false) →
        t.seg? id k = some { g with lstate := .ready } ∧
        (∃ y, some y ∈ t.land.slots ∧ y.st = id ∧ y.seg = k ∧ y.ready = true)) ∧
    (∀ panel : BitVec 4, (x.panel k panel.toNat).arb = true → g.lstate.arbitrated = true →
      let p := panel.toNat
      let a := s.copyGood x k p .a
      let c := s.copyGood x k p .b
      Reaches (exec (.arbitrationComplete id seg panel false false) s) fun t =>
        (a = true → c = true → s.copiesSame x k p = true → s.slotWaits id k = false →
          t.seg? id k = some { g with panels := g.panels.modify p fun q => { q with arb := false } } ∧
          t.land.transient = s.land.transient + 1) ∧
        (a ≠ c → s.slotWaits id k = false → t.seg? id k = some { g with panels := g.panels.modify p fun q =>
          { q with rewrite := some (if a then .b else .a), badCopy := some (if a then .b else .a), arb := false } }) ∧
        (a = c → (a = true → s.copiesSame x k p = false) → g.lstate ≠ .exposing →
          (t.seg? id k).map (·.lstate) = some .unverifiable)) ∧
    (∀ badA badB : BitVec 16, g.lstate.scrubbed = true → s.slotWaits id k = false → s.scrubNext g = true →
      Reaches (exec (.scrubSegment id seg badA badB) s) fun t =>
        ∃ h, t.seg? id k = some h ∧ h.lastScrub = s.now ∧ h.lstate = g.lstate ∧ ∀ p : Nat, p < 16 →
          h.panels[p]? = (g.panels[p]?).map fun q => if q.rewrite.isNone && (inMask badA p || inMask badB p ||
            !s.scrubGood q) && !(s.render.arbs.any fun a => a.2 == ⟨id, k, p⟩) then { q with arb := true } else q) ∧
    (∀ (panel : BitVec 4) (row : BitVec 12),
      (g.lstate = .ready → Reaches (exec (.playBufferEcc id seg ⟨panel, row⟩) s) fun t =>
        (t.seg? id k).map (·.lstate) = some .unverifiable ∧ t.land.unverifs = s.land.unverifs + 1) ∧
      (∀ r y, s.run? = some (r, y) →
        g.lstate = .exposing ∨ (g.lstate = .ready ∧ s.neededExposing id k row.toNat panel.toNat = true) →
        Reaches (exec (.playBufferEcc id seg ⟨panel, row⟩) s) fun t =>
          ∃ z c, t.play.run = some z ∧ c ∈ z.causes ∧ c.rank = 10 ∧ z.halt.isSome = true))

/-- A copy is rewritten into fresh extents, its old ones are tested, and an unverifiable segment is rendered
again from its stored states. -/
def Obligations.RewritesAndRerender : Prop :=
  (∀ (s : State) (id : StripeId) (seg : BitVec 16) (x : Stripe) (g : Seg), s.stripe? id = some x →
    x.seg? seg.toNat = some g →
    let k := seg.toNat
    (∀ (panel : BitVec 4) (copy : Stack) (exts : List (BitVec 48)) (q : Panel), g.panels[panel.toNat]? = some q →
      let src := s.rewriteFrom x k panel.toNat copy
      q.rewrite = some copy → exts.length = (q.exts src).length →
      s.extentsFree copy (exts.map (·.toNat)) = true → s.stackReads copy = true → s.stackReads src = true →
      (s.mc.stack copy).inRfc s.now = false → (s.mc.stack src).inRfc s.now = false →
      Reaches (exec (.copyRewriteComplete id seg panel copy exts true) s) fun t =>
        (∃ r, (t.seg? id k).bind (·.panels[panel.toNat]?) = some r ∧ r.exts copy = exts.map (·.toNat) ∧
          r.exts (otherStack copy) = q.exts (otherStack copy) ∧ r.rewrite = none) ∧
        t.land.testing = s.land.testing ++ (q.exts copy).map fun e => (copy, e)) ∧
    (g.lstate = .unverifiable → x.started = false → x.landing ≠ .complete → g.old = none → s.heldCount < 8192 →
      Reaches (exec (.rerenderStart id seg) s) fun t =>
        t.seg? id k = some { g with
          lstate := .landing, old := some (g.panels, g.recA, g.recB), panels := [], recA := 0, recB := 0, tadm := 0,
          feedWait := false }) ∧
    (∀ (ps : List Panel) (ra rb : Nat), g.old = some (ps, ra, rb) → g.panels.length = 16 →
      g.panels.all (fun p => p.st == .encoded) = true → g.lstate = .landing →
      s.stackReads .a = true → s.stackReads .b = true →
      Reaches (exec (.rerenderComplete id seg true) s) fun t =>
        if (g.panels.map fun p => (p.bsig, p.after)) = (ps.map fun p => (p.bsig, p.after)) then
          t.seg? id k = some { g with old := none, lstate := .landed, tland := s.now, lastScrub := s.now }
        else (t.seg? id k).map (·.lstate) = some .withheld)) ∧
  ∀ (s : State) (st : Stack) (addr : BitVec 48), s.land.testing.contains (st, addr.toNat) = true →
    s.stackReads st = true → (s.mc.stack st).inRfc s.now = false →
    Reaches (exec (.extentPatternTest st addr true) s) (fun t => t.land.testing.contains (st, addr.toNat) = false ∧
      t.land.removed = s.land.removed ∧ t.mc = s.mc) ∧
    Reaches (exec (.extentPatternTest st addr false) s) (fun t => t.land.testing.contains (st, addr.toNat) = false ∧
      t.land.removed = s.land.removed ++ [(st, addr.toNat)])

/-- The memory controller: refresh, the refresh band, freeze and thaw, channel retirement. -/
def Obligations.MemoryController : Prop :=
  ∀ (s : State) (st : Stack),
    let c := s.mc.stack st
    (s.mc.refreshDue st ≤ 4 * s.now → c.failed = false → s.mc.pllDown = false →
      Reaches (exec (.refresh st) s) fun t => t.mc.stack st = c.refresh (s.mc.refreshDue st) s.now ∧
        (t.mc.stack st).refreshes = c.refreshes + 1 ∧
        (4 * s.now < s.mc.refreshDue st + tRefi c.band → (t.mc.stack st).lastRefresh = s.mc.refreshDue st) ∧
        t.mc.stack (otherStack st) = s.mc.stack (otherStack st) ∧ .refresh st c.served ∈ t.out) ∧
    (s.active? = none → s.due s.mc.bandAt (cycMs 1) = true → s.mc.stA.band < bandOf s.tB →
      Reaches (exec .tempBandSample s) fun t => t.mc.stA.band = bandOf s.tB ∧ t.mc.stB.band = bandOf s.tB ∧
        t.mc.coldSince = none ∧ t.mc.stA.centredAt = s.now ∧ t.mc.stB.centredAt = s.now) ∧
    (∀ x, s.active? = some x → s.stripe? x.id = some x → x.st = .armed → s.due s.mc.bandAt (cycMs 1) = true →
      bandLimit ((x.latched.map (·.band)).getD s.mc.stA.band) < s.tB → Reaches (exec .tempBandSample s) fun t =>
        (t.stripe? x.id).map (·.st) = some .checked) ∧
    (∀ (addr : BitVec 48) (loc : BitVec 31) (src syn : BitVec 32), s.mc.stA.frozen = false → s.mc.stB.frozen = false →
      ofStack st addr.toNat = true →
      let ch := c.channelOf st addr.toNat
      Reaches (exec (.memUncorrectable st addr loc src syn) s) fun t =>
        (t.mc.stack st).frozen = true ∧ (t.mc.stack st).frozeAt = s.now ∧
        (t.mc.stack st).capTime = BitVec.ofNat 64 s.now ∧ (t.mc.stack st).capLoc = capLocOf loc ∧
        (t.mc.stack st).capSrc = BitVec.ofNat 64 (src.toNat + syn.toNat * 2 ^ 32) ∧
        (t.mc.stack (otherStack st)).frozen = false ∧
        (t.mc.stack st).capAddr.toNat = addr.toNat + (if c.remapped st addr.toNat then 2 ^ 48 else 0) ∧
        fld 19 16 (t.mc.stack st).frz = ch) ∧
    (∀ (addr : BitVec 48) (loc : BitVec 31) (src syn : BitVec 32), ofStack st addr.toNat = true → s.mc.stA.frozen = true →
      Reaches (exec (.memUncorrectable st addr loc src syn) s) fun t =>
        t.mc.stA.frz = s.mc.stA.overflow.frz ∧ t.mc.stA.capAddr = s.mc.stA.capAddr ∧ t.mc.stB.frz = s.mc.stB.frz) ∧
    (c.frozen = true → c.frozeAt + cycMs 2 ≤ s.now → Reaches (exec (.memAutoThaw st) s) fun t =>
      (t.mc.stack st).frozen = false ∧ (t.mc.stack st).heldWrites = [] ∧ bitAt 1 (t.mc.stack st).frz = true) ∧
    (∀ (ch : BitVec 4) (tr : RetireTrigger), c.chans.length = 16 → (c.chan ch.toNat).retired = false →
      (c.chan ch.toNat).retiring = false → (c.chan ch.toNat).suspect = false → s.triggered st ch.toNat tr = true →
      c.order.length < 4 → Reaches (exec (.channelRetireTrigger st ch tr) s) fun t =>
        if s.repair.manual then ((t.mc.stack st).chan ch.toNat).suspect = true ∧
          t.rstate (nodeR (3 + stackNum st) 0 ch.toNat) = .suspect
        else ((t.mc.stack st).chan ch.toNat).retiring = true ∧
          ((t.mc.stack st).chan ch.toNat).unmoved = s.unitsOn st (ch.toNat :: c.order)) ∧
    (∀ (u : BitVec 21) (bad : Option (BitVec 9)) (x : Nat), x < c.chans.length →
      (c.order.find? fun x => (c.chan x).retiring && (c.chan x).unmoved.contains u.toNat) = some x →
      s.stackReads st = true → c.inRfc s.now = false → s.targetFree st x u.toNat = true →
      (bad = none ∨ unitMirrored u.toNat = false ∨ s.stackReads (otherStack st) = true) →
      Reaches (exec (.unitMigrationComplete st u bad) s) fun t =>
        (t.mc.stack st).chan x = { c.chan x with unmoved := (c.chan x).unmoved.filter (· != u.toNat) } ∧
        (∀ w, bad = some w → unitMirrored u.toNat = false → st = .a →
          (t.mc.stack st).damaged = c.damaged ++ [512 * u.toNat + w.toNat]) ∧ t.mem = s.mem) ∧
    (∀ ch : BitVec 4, c.chans.length = 16 → (c.chan ch.toNat).retiring = true → s.stackReads st = true →
      let u := s.moveRecords st
      u.rangeEmpty st = true → (c.chan ch.toNat).unmoved.all (fun n => !u.unitUsed st n) = true →
      Reaches (exec (.channelRetired st ch) s) fun t =>
        ((t.mc.stack st).chan ch.toNat).retired = true ∧ ((t.mc.stack st).chan ch.toNat).retiring = false ∧
        t.rstate (nodeR (3 + stackNum st) 0 ch.toNat) = .retired)

/-- A run: the first flash placed gives the run's origin; a flash placed after another takes its codes from the Relay,
the gain and history unit and the deficit store, and its SOF blocks are sent; its marker sends what follows, makes its
duty, deficits and codes those of the run and leaves the next flash to be placed; the void marker ends a halted run; a GO
that waits WAITMAX with a condition unmet is answered. -/
def Obligations.FlashesAndMarkers : Prop :=
  (∀ (s : State) (r : Run) (x : Stripe), s.run? = some (r, x) →
    r.mayPlace x = true → r.mPrev = none → Reaches (exec .flashPlace s) fun t =>
      (∃ q, t.play.run = some q ∧ q.placed = true ∧ q.next = r.next) ∧ t.beam.snap = some (x.id, s.dutyOf x) ∧
      ∃ y, t.stripe? x.id = some y ∧ y.started = true ∧ y.f0 = some r.f0 ∧ y.carried = !(s.dutyOf x).isEmpty) ∧
  (∀ (s : State) (r : Run) (x : Stripe), s.run? = some (r, x) →
    r.mayPlace x = true → r.mPrev.isSome = true → ∀ (r1 : Run) (x1 : Stripe),
    let s1 := s.takeDrains
    let n : Int := (r1.next : Int) - r1.f0
    s1.run? = some (r1, x1) → Reaches (exec .flashPlace s) fun t =>
      (∃ q, t.play.run = some q ∧ q.placed = true ∧ q.next = r.next ∧
        q.flash = flashBeams x1 r1 (s1.writeRow x1 (n.toNat + 1)).play (s.dutyOf x) n) ∧
      t.beam = s.beam ∧ ∀ o ∈ sofOutputs x1 r1 (s.carriers x1 r1), o ∈ t.out) ∧
  (∀ (s : State) (r : Run) (x : Stripe) (m : Nat) (fs : BitVec 64), s.meas.gain = none → s.run? = some (r, x) →
    r.fix = some (m, fs) → r.placed = true → m ≤ 64 * s.now + 63 → r.halt = none →
    (r.next : Int) ≠ r.lastAt (r.endPos x) → Reaches (exec .fireMarker s) fun t =>
      (∃ q, t.play.run = some q ∧ q.next = r.next + 1 ∧ q.placed = false ∧ q.fix = none ∧ q.mPrev = some m) ∧
      (if x.target = 0 then t.beam.hist = histStep x.lambda s.beam.hist r.flash.codes ∧ t.beam.lastM = some m
       else t.beam.shadow = histStep x.lambda s.beam.shadow r.flash.codes ∧ t.beam.hist = s.beam.hist) ∧
      (x.target ≠ 2 → t.play.deficit = r.flash.deficit) ∧
      ∀ o ∈ flashOutputs x r (s.carriers x r) m fs, o ∈ t.out) ∧
  (∀ (s : State) (g : GainPair), s.meas.gain = some g → g.mNext ≤ 64 * s.now + 63 →
    Reaches (exec .fireMarker s) fun t =>
      t.meas.gain = some { g with flash := g.flash + 1, mLast := some g.mNext, mNext := g.mNext + 40000 } ∧
      t.beam.hist = histStep (lambdaOf 625 (s.gainParams g).2) s.beam.hist g.codes ∧
      ∀ o ∈ calibrationOutputs g.flash g.mNext s.link.carriers g.codes, o ∈ t.out) ∧
  (∀ (s : State) (r : Run) (x : Stripe) (t0 : Nat), s.run? = some (r, x) → r.halt = some (r.next, t0) →
    r.voidAt x.tmin t0 ≤ 64 * s.now + 63 → Reaches (exec .voidMarker s) fun t =>
      t.play.run = none ∧ (t.stripe? x.id).map (·.st) = some .halted) ∧
  ∀ (s : State) (mb : BitVec 4) (src : Src) (id : StripeId) (w : BitVec 16) (y : BitVec 48) (sn : Bool) (c : BitVec 23)
    (xc : BitVec 48) (tl : BitVec 32) (since : Nat) (x : Stripe), s.mbsWf →
    s.waiter mb = some ⟨src, .stripeGo src id w y sn c xc tl, since⟩ → since + cycMs w.toNat ≤ s.now →
    s.stripe? id = some x → x.st = .armed → s.goUnmet x ≠ 0 → Reaches (exec (.goWaitmaxExpiry mb) s) fun t =>
      t.answered src ST.stripeGoTimeout ∧ t.waiter mb = none

/-- The pacer: a PACE frame carries the ceiling and its binding term; a reply that counts makes or keeps
the motion controller present, and eight silent periods make it absent. -/
def Obligations.PacerEvents : Prop :=
  ∀ s : State,
    (s.pacer.sentAt.all (fun t => decide (t + 25000 ≤ s.now)) = true →
      let policy := s.pacer.policyNext.getD s.pacer.policy
      let c := s.ceiling policy
      let u := s.onPacer fun p => { p with
        policy := policy, policyNext := none, ceil := BitVec.ofNat 32 c.1, bind := BitVec.ofNat 4 c.2 }
      Reaches (exec .paceFrameSend s) fun t => t.pacer.policy = policy ∧ t.pacer.ceil = BitVec.ofNat 32 c.1 ∧
        t.pacer.bind = BitVec.ofNat 4 c.2 ∧ t.pacer.seq = s.pacer.seq + 1 ∧ t.pacer.sentAt = some s.now ∧
        .pace (paceFrame u.pacePayload) ∈ t.out) ∧
    (∀ (w : Word) (crc : BitVec 16), s.pacer.goodReply w crc = false → Reaches (exec (.paceReply w crc) s) fun t =>
      t.pacer = { s.pacer with mcGood := 0 }) ∧
    (∀ (w : Word) (crc : BitVec 16), s.pacer.goodReply w crc = true → Reaches (exec (.paceReply w crc) s) fun t =>
      t.pacer.mcGood = s.pacer.mcGood + 1 ∧ t.pacer.mcLast = s.now ∧
      t.pacer.mcPresent = (s.pacer.mcPresent || decide (16 ≤ s.pacer.mcGood + 1)) ∧
      (s.pacer.mcPresent = true → t.pacer.mcState = BitVec.ofNat 2 (fld 13 12 w) ∧
        t.pacer.mcCmdv = BitVec.ofNat 32 (fld 47 16 w) ∧ t.pacer.mcId = BitVec.ofNat 16 (fld 63 48 w))) ∧
    (s.pacer.mcPresent = true → s.pacer.mcLast + 200000 ≤ s.now → Reaches (exec .mcAbsentTimeout s) fun t =>
      t.pacer = { s.pacer with mcPresent := false, mcGood := 0 } ∧
      ∀ r x, s.run? = some (r, x) → x.target ≠ 2 → ∃ q c, t.play.run = some q ∧ c ∈ q.causes ∧ c.rank = 17)

/-- A position port: the tick asks every port, a frame passes or fails as it is judged, the identity
is read, and its marks and switches are followed. -/
def Obligations.PositionPorts : Prop :=
  (∀ s : State, (s.stage.tracker.treq ≠ 0 ∨ s.stage.nextCfg.isSome = true) →
    (s.stage.tracker.treq ≠ 0 → s.stage.tick + s.stage.tracker.treq.toNat ≤ s.now) →
    let g := s.stage.applyCfg
    Reaches (exec .encoderTick s) fun t => t.stage.tick = s.now ∧ t.stage.prevTick = s.stage.tick ∧
      t.stage.nextCfg = none ∧ t.stage.tracker = g.tracker ∧
      t.stage.ports = g.ports.map (fun p => { p.takeMarks with ended := false, cur := none }) ∧
      ∀ (n : Nat) (p : PosPort), g.ports[n]? = some p → p.cfg.role ≠ 0 → .posRequest n p.wantsId s.now ∈ t.out) ∧
  (∀ (s : State) (port : BitVec 3) (f : Option PosFrame),
    let n := port.toNat
    let p := s.stage.port n
    n < s.stage.ports.length → p.cfg.role ≠ 0 → p.ended = false → Reaches (exec (.positionFrame port f) s) fun t =>
      let q := t.stage.port n
      match judgeFrame s.stage p f with
      | .pass x _ => q.cur = some x ∧ q.last = some (x, s.stage.tick) ∧ q.fails = 0 ∧ q.passes = p.passes + 1 ∧
          q.ended = true
      | .noResp => q.fails = p.fails + 1 ∧ q.cNoResp = p.cNoResp + 1 ∧ q.cur = none ∧ q.passes = 0
      | .crc => q.fails = p.fails + 1 ∧ q.cCrc = p.cCrc + 1 ∧ q.cur = none ∧ q.passes = 0
      | .err => q.fails = p.fails + 1 ∧ q.cErr = p.cErr + 1 ∧ q.cur = none ∧ q.passes = 0
      | .jump => q.fails = p.fails + 1 ∧ q.cJump = p.cJump + 1 ∧ q.cur = none ∧ q.passes = 0) ∧
  (∀ (s : State) (port : BitVec 3) (a : IdAnswer),
    let n := port.toNat
    let p := s.stage.port n
    n < s.stage.ports.length → p.cfg.role ≠ 0 → p.wantsId = true → identityOk a = true →
    Reaches (exec (.encoderIdentityRead port (some a)) s) fun t =>
      if fld 103 96 a.bits = p.cfg.lat.toNat ∧ fld 119 104 a.bits = p.cfg.td.toNat then (t.stage.port n).idRead = true
      else (t.stage.port n).heldOut = true) ∧
  (∀ (s : State) (port : BitVec 3) (rising : Bool),
    let n := port.toNat
    let p := s.stage.port n
    n < s.stage.ports.length → p.cfg.role ≠ 0 → p.cfg.refen = true → rising ≠ p.cfg.refpol →
    Reaches (exec (.referenceMarkEdge port rising) s) fun t =>
      if p.edgeSeen.any (fun t0 => decide (s.now < t0 + cycUs 1)) then (t.stage.port n).edgeIgn = p.edgeIgn + 1 ∧
        (t.stage.port n).edges = p.edges
      else (t.stage.port n).edges = p.edges ++ [s.now] ∧ (t.stage.port n).edgeSeen = some s.now) ∧
  (∀ (s : State) (port : BitVec 3) (e : Nat) (m : MarkS),
    let n := port.toNat
    let p := s.stage.port n
    let l := s.stage.latch p e
    n < s.stage.ports.length → s.stage.resolvable p = true → p.edges = [e] → e < s.stage.tick → p.homeEdge = none →
    (p.marks.find? fun m => m.e.used && m.within l m.e.mtol.toNat) = some m →
    Reaches (exec (.markResolve port) s) fun t => (t.stage.port n).edges = [] ∧
      (t.stage.port n).markDev = some (wrap48 ((l : Int) - m.e.mpos.toNat))) ∧
  ∀ (s : State) (port : BitVec 3) (i : SwitchInput) (level : Bool),
    let n := port.toNat
    let p := s.stage.port n
    let active := level != p.cfg.swpol.getLsbD (inputIx i)
    n < s.stage.ports.length → p.swLevel.getD (inputIx i) false ≠ active →
    Reaches (exec (.switchEdge port i level) s) fun t =>
      (t.stage.port n).swLevel = p.swLevel.set (inputIx i) active ∧
      (t.stage.port n).swLast = p.swLast.set (inputIx i) (some s.now)

/-- Fusion, the emulation outputs and the permit input. -/
def Obligations.StageAxes : Prop :=
  (∀ (s : State) (ax : Axis), s.stage.tracker.treq ≠ 0 → (s.stage.axis ax).tk ≠ some s.stage.tick →
    s.stage.framesEnded ax = true → Reaches (exec (.axisFusion ax) s) fun t =>
      t.stage.axis ax = (s.stage.fuse ax).1 ∧ (t.stage.axis ax).tk = some s.stage.tick) ∧
  (∀ (s : State) (k : BitVec 1) (e : Emu), s.stage.emus[k.toNat]? = some e → e.enabled = true →
    Reaches (exec (.emuStep k) s) fun t => ∃ e1, t.stage.emus[k.toNat]? = some e1 ∧
      e1.m = (if e.todo ≠ 0 ∧ e.lastStep + e.gap ≤ s.now then e.m + e.todo.sign else e.m) ∧
      t.out = s.out ++ [.emu k.toNat (quadA e1.m) (quadB e1.m) (e1.zLevel s.now)]) ∧
  ∀ (s : State) (level : Bool), Reaches (exec (.permitInChange level) s) fun t => t.ref.permitIn = level ∧
    (level = false → t.ref.permitOut = false) ∧
    (level = false → ∀ r x, s.run? = some (r, x) → x.target = 0 →
      ∃ q c, t.play.run = some q ∧ c ∈ q.causes ∧ c.rank = 4 ∧ q.halt.isSome = true)

/-- Between runs the history decays and ends; a fault of the beam path loses what it names, and a run halts. -/
def Obligations.BeamPathEvents : Prop :=
  ∀ s : State,
    (∀ m, s.beam.lastM = some m → s.beamsFlashing = false → m / 64 + 625 * (s.beam.decays + 1) ≤ s.now →
      Reaches (exec .historyIdleDecay s) fun t => t.beam = { s.beam with
        hist := histStep (lambdaOf 625 s.beam.tau) s.beam.hist [], decays := s.beam.decays + 1 }) ∧
    (∀ m, s.beam.lastM = some m → s.beamsPlaced = false → m / 64 + s.beam.fiveTau ≤ s.now →
      Reaches (exec .historyZero s) fun t => t.beam = { s.beam with hist := [] }) ∧
    (∀ t0, s.beam.idleEnd = some t0 → t0 ≤ s.now → Reaches (exec .enforcedIdleEnd s) fun t =>
      t.beam = { s.beam with idleEnd := none }) ∧
    (∀ (b : BitVec 18) (m : Nat), (if s.beamsPlaced then some (64 * s.now) else s.beam.lastM) = some m →
      s.now < m / 64 + s.beam.fiveTau →
      s.rstate (nodeR 2 4 (b.toNat / 32)) = .inService → Reaches (exec (.historyParityError b) s) fun t =>
        t.beam = { s.beam with hist := [], idleEnd := some (m / 64 + s.beam.fiveTau) } ∧
        t.rstate (nodeR 2 4 (b.toNat / 32)) = .quarantined ∧
        ∀ r x, s.run? = some (r, x) → x.target = 0 → ∃ q, t.play.run = some q ∧ q.halt.isSome = true ∧
          q.flash.codes = r.flash.codes.filter fun c => c.1 != b.toNat) ∧
    (∀ b : BitVec 18, s.beam.activeT.isSome = true → Reaches (exec (.gainParityError b) s) fun t =>
      t.beam = { s.beam with activeT := none } ∧
      ∀ r x, s.run? = some (r, x) → ∃ q, t.play.run = some q ∧ q.halt.isSome = true ∧
        q.flash.codes = r.flash.codes.filter fun c => c.1 != b.toNat) ∧
    (∀ (bank : BitVec 12) (slot : BitVec 13) (word : BitVec 9), s.rstate (nodeR 2 2 bank.toNat) = .inService →
      Reaches (exec (.windowEccUncorrectable bank (.uncorrectable slot word)) s) fun t => t.play.bankBad.contains bank.toNat = true ∧
        t.rstate (nodeR 2 2 bank.toNat) = .quarantined ∧
        ∀ r x, s.run? = some (r, x) → ∃ q, t.play.run = some q ∧ q.halt.isSome = true ∧
          (∀ u, r.slotReader x.rev slot.toNat = some u → q.flash.codes = r.flash.codes.filter fun c =>
            !(s.play.wordBeams u bank.toNat slot.toNat word.toNat).contains c.1) ∧
          (r.slotReader x.rev slot.toNat = none → q.flash.codes = r.flash.codes)) ∧
    (∀ bank : BitVec 12, Reaches (exec (.windowEccUncorrectable bank .corrected) s) fun t =>
      let old := (((s.play.bankErr.find? (·.1 == bank.toNat)).map (·.2)).getD []).filter fun z =>
        decide (s.now < z + cycS 1)
      (t.play.bankErr.find? (·.1 == bank.toNat)).map (·.2) = some (old ++ [s.now]) ∧ t.play.run = s.play.run ∧
      (15 ≤ old.length → t.play.bankBad.contains bank.toNat = true ∧ (s.play.bankBad.contains bank.toNat = false →
        s.rstate (nodeR 2 2 bank.toNat) = .inService → t.rstate (nodeR 2 2 bank.toNat) = .quarantined))) ∧
    ∀ unit : Datapath, Reaches (exec (.datapathMismatch unit) s) fun t =>
      match unit with
      | .interpolator => t.rstate (nodeR 2 1 0) = .quarantined ∨ t.rstate (nodeR 2 1 0) = .failed
      | .split => t.rstate (nodeR 2 3 regionLogic) = .quarantined ∨ t.rstate (nodeR 2 3 regionLogic) = .failed
      | .quantizer => t.rstate (nodeR 2 4 regionLogic) = .quarantined ∨ t.rstate (nodeR 2 4 regionLogic) = .failed
      | .deficit k => ∀ (r : Run) (x : Stripe) (g : Nat), s.run? = some (r, x) → r.storeGroup = some g →
          r.placed = false →
          let n : Int := (r.next : Int) - r.f0
          let m := defStep n k.toNat
          [256, 512, 768].contains (n - m) = true →
          (relay x r s.play m (8 * g + k.toNat % 4096 / 512) (k.toNat % 512)).isSome = true →
          t.play.deficit = sparseSet s.play.deficit k.toNat 0 ∧ t.play.run = s.play.run
      | .fusion a => t.stage.integrity = true ∧
          (t.rstate (nodeR 8 1 (axisNum a)) = .quarantined ∨ t.rstate (nodeR 8 1 (axisNum a)) = .failed)
      | .speed a => t.stage.integrity = true ∧
          (t.rstate (nodeR 8 1 (axisNum a)) = .quarantined ∨ t.rstate (nodeR 8 1 (axisNum a)) = .failed)

/-- Records of a return lane. Without block lock one that passes its CRC-16 counts toward lock; under lock one that
fails it is discarded and counted, and the fourth in a row loses lock. A good ACK record settles the statuses it
carries; a TEMP record gives each channel its reading and level; a STUCK record lists the beam; a LINKSTAT record gives
each lane its figures; the first piece of a management message opens the lane's input. -/
def Obligations.LinkRecords : Prop :=
  ∀ (s : State) (q : BitVec 2) (w : BitVec 256),
    let r := s.link.rets.getD q.toNat RetLane.reset
    let on (f : RetLane → RetLane) : List RetLane := s.link.rets.modify q.toNat f
    (∀ c ∈ [Instr.ackRecord q w, .tempRecord q w, .stuckRecord q w, .mgmtRecord q w, .linkstatRecord q w],
      (r.lock = false → recordOk w = false → Reaches (exec c s) fun t =>
        t.link = { s.link with rets := on fun z => { z with good := 0 } }) ∧
      (r.lock = false → recordOk w = true → r.good < 7 → Reaches (exec c s) fun t =>
        t.link = { s.link with rets := on fun z => { z with good := z.good + 1 } }) ∧
      (r.lock = true → recordOk w = false → r.bad < 3 → Reaches (exec c s) fun t =>
        t.link.rets = on fun z => { z with bad := z.bad + 1, discarded := z.discarded + 1 }) ∧
      (r.lock = true → recordOk w = false → 3 ≤ r.bad → Reaches (exec c s) fun t =>
        t.link.rets = on fun z => { z with lock := false, good := 0, bad := 0, discarded := z.discarded + 1 })) ∧
    (r.lock = true → recordOk w = true →
      (fld 7 0 w = 1 → ∀ (z : Run) (x : Stripe), s.run? = some (z, x) → x.target = 0 → s.play.tail = none →
        (∀ i < 17, fld (64 + 4 * i + 3) (64 + 4 * i) w = 1 ∧ fld (132 + 4 * i + 3) (132 + 4 * i) w = 1) →
        (∀ y ∈ z.taken, y.2.2 = 1) →
        (∀ y ∈ z.awaiting, z.flashAt z.qs ≤ y.2.1 ∧ y.2.1 < z.next ∧ ∀ u ∈ z.taken, ¬ (u.1 = y.1 ∧ u.2.1 = y.2.1)) →
        let f := fullFlash (fld 63 32 w) z.next
        Reaches (exec (.ackRecord q w) s) fun t => t.jobs = s.jobs ∧ t.link.lanes = s.link.lanes ∧
          ∃ p, t.play.run = some p ∧ ∀ y, y ∈ p.awaiting ↔ y ∈ z.awaiting ∧
            ¬ ((∃ g < 64, x.carrierOf g = some y.1) ∧ retOf y.1 = q.toNat ∧ ((y.2.1 : Int) = f ∨ (y.2.1 : Int) = f - 1))) ∧
      (fld 7 0 w = 2 → Reaches (exec (.tempRecord q w) s) fun t =>
        ∀ (c : Nat) (h : Thermal), s.link.thermal[c]? = some h →
          let k := c - fld 11 8 w
          let raw := fld (64 + 16 * k + 15) (64 + 16 * k) w
          t.link.thermal[c]? = some (if fld 11 8 w ≤ c ∧ k < 8 ∧ h.declared = true ∧ raw ≠ 0x8000 then
            { h with reading := some (signedOf 16 raw), lastAt := s.now, stale := false,
                     level := h.judge (signedOf 16 raw) }
            else h)) ∧
      (fld 7 0 w = 3 → ∀ g : Nat, s.groupOf (fld 15 8 w) = some g →
        let b := beamIx (8 * g + fld 27 16 w / 512) (fld 27 16 w % 512)
        Reaches (exec (.stuckRecord q w) s) fun t =>
          (fld 29 28 w = 1 → b ∈ t.beam.stuckOn ∧ b ∉ t.beam.recovered) ∧
          (fld 29 28 w = 2 → b ∈ t.beam.stuckOff ∧ b ∉ t.beam.recovered) ∧
          (fld 29 28 w = 3 → b ∈ t.beam.recovered)) ∧
      (fld 7 0 w = 5 → Reaches (exec (.linkstatRecord q w) s) fun t =>
        ∀ i < 17, 17 * q.toNat + i < s.link.lanes.length →
          (t.link.lane (17 * q.toNat + i)).margin = fld (8 + 8 * i + 7) (8 + 8 * i) w ∧
          (t.link.lane (17 * q.toNat + i)).errs = fld (144 + 4 * i + 3) (144 + 4 * i) w) ∧
      (fld 7 0 w = 4 → bitAt 24 w = true → bitAt 25 w = false →
        fld 15 8 w < s.link.lanes.length → Reaches (exec (.mgmtRecord q w) s) fun t =>
          (t.link.lane (fld 15 8 w)).mseqRx = BitVec.ofNat 8 (fld 23 16 w) ∧
          (t.link.lane (fld 15 8 w)).rx = (leBytes 16 (fld 191 64 w)).take (fld 36 32 w)))

/-- Lanes: a lost lane goes down and three failed bring-ups retire it; it tries again after 1 s and trains its
eight presets for 2 ms each, the best kept, once its return lane is up; a test that fails retires its lane, one that
passes gives a suspect lane back and leaves a retired one; 10 s without a reason end DEGRADED. -/
def Obligations.LaneLife : Prop :=
  (∀ (s : State) (n : BitVec 7),
    let k := n.toNat
    let l := s.link.lane k
    k < 68 → s.link.lanes.length = 68 →
    ((l.st = .spare ∨ l.st = .carrier) → l.testing = false → Reaches (exec (.laneDown n) s) fun t =>
      (t.link.lane k).st = .down ∧ (t.link.lane k).step = 0 ∧ (t.link.lane k).ident = none ∧
      (t.link.lane k).downAt = s.now) ∧
    (l.st = .down → l.step ≠ 0 → l.testing = false → Reaches (exec (.laneDown n) s) fun t =>
      (t.link.lane k).fails = l.fails + 1 ∧ (t.link.lane k).st = (if 3 ≤ l.fails + 1 then .retired else .down)) ∧
    (l.testing = true → ∀ (errors : BitVec 64) (margin : BitVec 8),
      let pass := errors = 0 ∧ 32 ≤ margin.toNat
      Reaches (exec (.laneTestComplete n errors margin) s) fun t => (t.link.lane k).testing = false ∧
        (t.link.lane k).margin = margin.toNat ∧
        (¬ pass → (t.link.lane k).st = .retired) ∧
        (pass → l.st = .suspect → (t.link.lane k).st =
          if s.link.map.contains (some k) then .suspectPassed else .spare) ∧
        (pass → l.st ≠ .suspect → (t.link.lane k).st = l.st)) ∧
    (l.st = .down → l.step = 0 → l.downAt + cycS 1 ≤ s.now → Reaches (exec (.laneBringupRetry n) s) fun t =>
      (t.link.lane k).step = (if s.link.retUp k then 2 else 1) ∧ (t.link.lane k).preset = 0 ∧
      (t.link.lane k).margins = [] ∧ (t.link.lane k).stepAt = s.now ∧
      (s.link.retUp k = true → .block k (trainBlock 0) ∈ t.out ∧ .block k idleBlock ∈ t.out)) ∧
    (l.step = 2 → l.stepAt + cycMs 2 ≤ s.now → ∀ m : BitVec 8, Reaches (exec (.trainPresetExpiry n m) s) fun t =>
      (t.link.lane k).margins = l.margins ++ [m.toNat] ∧
      (l.preset < 7 → (t.link.lane k).preset = l.preset + 1 ∧ (t.link.lane k).step = 2) ∧
      (7 ≤ l.preset → (t.link.lane k).preset = (bestPreset (l.margins ++ [m.toNat])).1 ∧
        (t.link.lane k).step = (if l.testing then 0 else 5))) ∧
    (l.degraded = true → 32 ≤ l.margin → l.lastBad + cycS 10 ≤ s.now → Reaches (exec (.laneDegradedExit n) s) fun t =>
      t.link = s.link.onLane k fun x => { x with degraded := false })) ∧
  ∀ (s : State) (q : BitVec 2), s.link.rets.length = 4 → s.link.lanes.length = 68 →
    (Reaches (exec (.returnBlockLock q) s) fun t =>
      t.link.rets = (s.link.rets.modify q.toNat fun r => { r with lock := true, good := 8, bad := 0, lastAt := s.now }) ∧
      ∀ k, k < 68 → retOf k = q.toNat → (s.link.lane k).step = 1 →
        (t.link.lane k).step = 2 ∧ (t.link.lane k).preset = 0 ∧ .block k (trainBlock 0) ∈ t.out) ∧
    (∀ lock : Bool, (s.link.rets.getD q.toNat RetLane.reset).lock = true →
      (lock = true ∨ (s.link.rets.getD q.toNat RetLane.reset).lastAt + cycUs 1 ≤ s.now) →
      Reaches (exec (.returnLaneLost ⟨q, lock⟩) s) fun t =>
        (t.link.rets = s.link.rets.modify q.toNat fun r => { r with lock := false, good := 0, bad := 0 }) ∧
        ∀ k, k < 68 → retOf k = q.toNat → ((s.link.lane k).st = .spare ∨ (s.link.lane k).st = .carrier) →
          (t.link.lane k).st = .down ∧ (t.link.lane k).step = 1)

/-- Times of the links: a status that stays away declares the group dead, a silent temperature channel is held at
the stop level, a management message is repeated, an arm without the echo of its map fails, SYNC blocks follow
the epochs on each lane that no frame occupies, blank frames follow the safe state, and an attach step that overruns its
bound ends the attach. -/
def Obligations.LinkTimes : Prop :=
  ∀ s : State,
    (∀ (n : BitVec 7) (r : Run) (x : Stripe) (z : Nat × Nat × Nat) (g : Nat), s.run? = some (r, x) →
      (r.awaiting.find? fun w => w.1 = n.toNat ∧ w.2.2 + 64 * cycUs 2 ≤ 64 * s.now) = some z →
      x.groupOf z.1 = some g → r.deadGroup g = false → r.halt = none → Reaches (exec (.statusTimeout n) s) fun t =>
        ∃ p, t.play.run = some p ∧ p.deadGroups = r.deadGroups ++ [(g, z.1, z.2.1)] ∧
          p.awaiting = (r.awaiting.filter fun w => w.1 ≠ z.1) ∧ g ∈ t.link.latchedOff ∧
          (x.target ≠ 2 → .block z.1 (killBlock z.2.1) ∈ t.out)) ∧
    (∀ (ch : BitVec 4) (h : Thermal), s.link.thermal[ch.toNat]? = some h → h.declared = true → h.stale = false →
      h.lastAt + cycMs 1 ≤ s.now → Reaches (exec (.thermalStaleTimeout ch) s) fun t =>
        t.link.thermal[ch.toNat]? = some { h with stale := true, level := 2 }) ∧
    (∀ (n : BitVec 7) (w : MgmtWait),
      (s.link.mgmt.find? fun w => w.lane = n.toNat ∧ w.sentAt + w.bound ≤ s.now) = some w → w.tries < 3 →
      Reaches (exec (.mgmtRetryTimeout n) s) fun t =>
        ⟨w.lane, w.mtype, w.body, w.tries + 1, s.now⟩ ∈ t.link.mgmt) ∧
    (∀ a : ArmWait, s.mbsWf → s.link.arm = some a → a.sentAt + cycMs 10 ≤ s.now →
      Reaches (exec .mapsetEchoTimeout s) fun t => t.answered a.src ST.linkMap ∧ t.link.arm = none ∧
        t.waiter a.src.mb = none) ∧
    (s.now % 1028 = 0 → s.link.lanes.length = 68 → Reaches (exec .syncBlockSend s) fun t => ∀ n, n < 68 →
      if (s.link.lane n).synced < s.now / 262144 ∧ s.frameLanes.contains n = false then
        (t.link.lane n).synced = s.now / 262144 ∧ .block n (syncBlock s.now) ∈ t.out
      else t.link.lane n = s.link.lane n) ∧
    (s.ref.safe = true → s.run? = none → s.link.lastBlank + 625 ≤ s.now → s.link.nextMark ≤ 64 * s.now →
      Reaches (exec .blankFrame s) fun t =>
        t.link = { s.link with lastBlank := s.now, nextMark := 64 * (s.now + 625) } ∧
        ∀ g l : Nat, s.link.map[g]? = some (some l) → .block l (sofBlock 0 g true 0 0) ∈ t.out ∧
          (∀ o ∈ payloadBlocks l (frameWords 0 g true 0 0 0 []), o ∈ t.out) ∧
          .block l (markerBlock 0 (64 * s.now) true) ∈ t.out) ∧
    (s.plate.step = 1 → s.plate.stepAt + cycMs 2 ≤ s.now → Reaches (exec .plateAttachTimeout s) fun t =>
      t.plate.step = 0 ∧ t.plate.attached = none)

/-- Camera ports: once a millisecond a clock in range makes the port ready for its ID read, one out of range makes it
depart; three health polls without acknowledgement, one a second, do too, each an ID read; neither acts before its
period has passed; a transfer that ends sends its slot's generation into force or
answers its command; a parity fault drops the frame in work and takes the unit out of service. -/
def Obligations.CameraPorts : Prop :=
  ∀ (s : State) (cam : BitVec 2),
    let n := cam.toNat
    let c := s.cam n
    n < s.cams.cams.length →
    let idRead : Output :=
      .i2c n (i2cReg c.cfg c.cfg.idreg.toNat ++ [BitVec.ofNat 8 (2 * c.cfg.i2caddr.toNat + 1)])
    (∀ khz : BitVec 32, Reaches (exec (.pclkCheck cam khz) s) fun t =>
      if s.due c.pclkAt (cycMs 1) = false then t = s
      else if clockFault c.cfg khz.toNat = false then
        t.cam n = { c with khz := khz, pclkAt := some s.now, clockOk := true } ∧
        (c.present = false → c.clockOk = false → idRead ∈ t.out)
      else (t.cam n).khz = khz ∧ (t.cam n).clockOk = false ∧ (t.cam n).idSeen = false ∧ (t.cam n).present = false) ∧
    (c.present = true → c.inFrame = false → ∀ ack : Bool, Reaches (exec (.camHealthPoll cam ack) s) fun t =>
      if s.due c.pollAt (cycS 1) = false then t = s
      else if ack = true ∨ c.healthBad + 1 < 3 then
        t.cam n = { c with pollAt := some s.now, healthBad := if ack then 0 else c.healthBad + 1 } ∧ idRead ∈ t.out
      else (t.cam n).present = false ∧ (t.cam n).clockOk = false) ∧
    (∀ (data : List Byte), c.present = false → c.clockOk = true → c.idSeen = false →
      let id := idOf (data.take (c.cfg.idlen.toNat + 1))
      Reaches (exec (.i2cTransferComplete cam true data) s) fun t => (t.cam n).idSeen = true ∧
        ((t.cam n).present = true ↔ c.cfg.idval = 0 ∨ c.cfg.idval.toNat = id)) ∧
    (∀ (p : SettingsSlot × BitVec 32 × Nat) (data : List Byte), c.present = true → c.flight = some p →
      Reaches (exec (.i2cTransferComplete cam true data) s) fun t => (t.cam n).flight = none ∧
        (t.cam n).genSent = p.2.1 ∧
        (t.cam n).genQueue = c.genQueue ++
          [(if c.sendFrame < c.frames then c.sendFrame + 2 + c.cfg.lat.toNat else c.sendFrame + 1 + c.cfg.lat.toNat,
            p.2.1)]) ∧
    (∀ (x : I2cXfer) (xs : List I2cXfer) (ack : Bool) (data : List Byte), s.mbsWf → c.present = true → c.flight = none →
      c.xferOpen = true → c.xfers = x :: xs → Reaches (exec (.i2cTransferComplete cam ack data) s) fun t =>
        t.answered x.src (if ack then ST.ok else ST.camI2c) ∧ (t.cam n).xfers = xs) ∧
    ∀ unit : BitVec 2, unit.toNat < 3 → Reaches (exec (.camParityError cam unit) s) fun t =>
      (t.rstate (nodeR 10 1 unit.toNat) = .quarantined ∨ t.rstate (nodeR 10 1 unit.toNat) = .failed) ∧
      ((c.work.find? (·.drop.isNone)).isSome = true →
        (t.cam n).lastDrop = 7 ∧ (t.cam n).drops = satInc 64 c.drops)

/-- Camera frames: a frame is taken at FV with its reserve in the ring, its lines are entered at LV, received,
corrected and joined to it, its end queues it for the locator, and the oldest ripe frame is published. -/
def Obligations.CameraFrames : Prop :=
  ∀ (s : State) (cam : BitVec 2),
    let n := cam.toNat
    let c := s.cam n
    n < s.cams.cams.length → c.present = true →
    (c.running = true → c.draining = false → c.left ≠ some 0 → (c.ringWords = 0 ∨ c.setWords ≤ c.ringFree) →
      s.cams.regions < 4 → Reaches (exec (.camFrameStart cam) s) fun t =>
        (t.cam n).frames = c.frames + 1 ∧ (t.cam n).inFrame = true ∧ (t.cam n).ignore = false ∧
        (t.cam n).left = c.left.map (· - 1) ∧ ∃ f, (t.cam n).work = c.work ++ [f] ∧ f.num = c.frames + 1 ∧
          f.drop = none ∧ f.reserved = if c.ringWords = 0 then 0 else c.setWords) ∧
    (c.running = false → Reaches (exec (.camFrameStart cam) s) fun t =>
      (t.cam n).frames = c.frames + 1 ∧ (t.cam n).ignore = true ∧ (t.cam n).work = c.work) ∧
    (∀ f : CamFrame, c.current = some f → c.inFrame = true → Reaches (exec (.camLineStart cam) s) fun t =>
      if 4 ≤ c.buf.length then (t.cam n).lastDrop = 1 ∧ (t.cam n).drops = satInc 64 c.drops
      else if c.cfg.lines.toNat ≤ f.lines then (t.cam n).lastDrop = 2 ∧ (t.cam n).drops = satInc 64 c.drops
      else (t.cam n).buf = c.buf ++ [⟨f.num, false, []⟩] ∧
        (t.cam n).work = c.work.map fun w => if w.num = f.num then { w with lines := w.lines + 1 } else w) ∧
    (∀ (f : CamFrame) (l : CamLine) (ps : List (BitVec 16)), c.current = some f →
      (c.buf.find? fun l => !l.received) = some l → l.frame = f.num →
      Reaches (exec (.camLineReceived cam ps) s) fun t =>
        if ps.length = c.cfg.linew.toNat then (t.cam n).buf = c.buf.map fun z => if z.received then z
          else { z with received := true, pixels := ps.map fun p => p.toNat % 2 ^ c.cfg.wbits.toNat }
        else (t.cam n).lastDrop = 2 ∧ (t.cam n).drops = satInc 64 c.drops) ∧
    (∀ l : CamLine, c.eligible = some l → s.cams.busy = some (n, l.frame) →
      Reaches (exec .pipelineLineComplete s) fun t => (t.cam n).buf = c.buf.drop 1 ∧
        (t.cam n).work = c.work.map fun w => if w.num = l.frame then
          { w with rows := w.rows ++ [c.correct w.rows.length l.pixels] } else w) ∧
    (∀ f : CamFrame, c.current = some f → f.lines = c.cfg.lines.toNat → c.buf.all (·.received) = true →
      Reaches (exec (.camFrameEnd cam) s) fun t => (t.cam n).inFrame = false ∧
        ((t.cam n).work = c.work.map fun w => if w.num = f.num then { w with ended := true, tend := s.fwStamp } else w) ∧
        (f.located = false → t.cams.locQueue = s.cams.locQueue ++ [(n, f.num)])) ∧
    (∀ (num : Nat) (rest : List (Nat × Nat)), s.cams.locQueue = (n, num) :: rest →
      (c.work.any fun f => f.num == num && f.ended && f.rows.length == c.cfg.lines.toNat) = true →
      Reaches (exec .locatorComplete s) fun t => t.cams.locQueue = rest ∧
        (t.cam n).work = c.work.map fun w => if w.num = num then { w with located := true } else w) ∧
    ∀ f : CamFrame, c.ripe = some f → Reaches (exec (.camFramePublish cam) s) fun t =>
      (t.cam n).published = c.published + 1 ∧ ∀ w ∈ (t.cam n).work, w ∈ c.work.drop 1

/-- Measurement: a sample latches the eight current registers, holds those of a channel in a trim run or out of
service, and joins every acquisition; an acquisition that has all its samples is answered; a temperature conversion
and a monitor read latch what they read. None of the three acts twice in its period. -/
def Obligations.Measurements : Prop :=
  (∀ (s : State) (codes : List Int),
    let xs := (List.range 8).map fun n => s.meas.sample n (codes.getD n 0)
    let at_ := s.now / 25000 * 25000
    Reaches (exec (.bcSample codes) s) fun t =>
      if s.now / 25000 ≤ s.meas.bcAt then t = s
      else (∀ n v, s.meas.bc[n]? = some v → t.meas.bc[n]? = some (
          if s.meas.trimming n = true ∨ s.rstate (nodeR 9 0 n) ≠ .inService then v ||| 0x10000000#64
          else BitVec.ofNat 64 ((xs.getD n ⟨0, 0, false, false⟩).bits + 2 ^ 32 * (at_ / 2 ^ 15 % 2 ^ 32)))) ∧
        t.meas.bcSettle = s.meas.bcSettle.map (· - 1) ∧ t.meas.bcAt = s.now / 25000 ∧
        t.meas.acqs = s.meas.acqs.map fun a => (s.acquire xs a).2) ∧
  (∀ (s : State) (mb : BitVec 4) (a : Acq), s.mbsWf → (s.meas.acqs.find? (·.src.mb == mb)) = some a →
    (a.desc.count.toNat ≤ a.taken → Reaches (exec (.acquisitionComplete mb false) s) fun t =>
      t.answered a.src ST.ok ∧ (t.mb a.src.mb).respBody = a.sums.map (summaryWord s.fresh) ∧
      t.meas.acqs = s.meas.acqs.filter (·.src.mb != mb)) ∧
    Reaches (exec (.acquisitionComplete mb true) s) fun t =>
      let n := (maskChannels a.desc.chmask).headD 0
      t.answered a.src ST.calParity ∧ t.meas.acqs = s.meas.acqs.filter (·.src.mb != mb) ∧
      (t.rstate (nodeR 9 0 n) = .quarantined ∨ t.rstate (nodeR 9 0 n) = .failed)) ∧
  (∀ (s : State) (ch : BitVec 2) (mohm : BitVec 32),
    let n := ch.toNat
    Reaches (exec (.rtdConversion ch mohm) s) fun t =>
      if s.due (s.meas.tsAt.getD n none) (cycMs 10) = false then t = s
      else t.meas.ts = s.meas.ts.set n (
        if s.meas.rtdTrimming n = true ∨ s.rstate (nodeR 9 0 (8 + n)) ≠ .inService then
          s.meas.ts.getD n 0 ||| 0x1000000000000#64
        else if 500000 ≤ mohm.toNat ∧ mohm.toNat ≤ 4000000 then
          BitVec.ofNat 64 (toU 16 (rtdTemp mohm.toNat) + 2 ^ 16 * mohm.toNat)
        else BitVec.ofNat 64 (0x8000 + 2 ^ 16 * mohm.toNat + 2 ^ 49))) ∧
  ∀ (s : State) (values : List (BitVec 16)), Reaches (exec (.monitorRead values) s) fun t =>
    if s.due s.meas.monAt (cycMs 1) = false then t = s
    else (∀ p v, s.meas.mon[p]? = some v → t.meas.mon[p]? = some (if 20 ≤ p then 0
        else if s.meas.monTrimming = true ∨ s.rstate (nodeR 9 0 12) ≠ .inService then v ||| 0x10000#64
        else (values.getD p 0).setWidth 64)) ∧
      (supplyInRange values = true → t.power = s.power) ∧
      (supplyInRange values = false → t.power.supplyBad = s.power.supplyBad.map fun _ => s.now)

/-- Trim runs: they start by themselves after TRIMPER minutes; one that ends inside its range with agreeing
results sets the coefficient, at once where the device is idle;
one that does not fails its item; an old acceptance makes the item provisional. -/
def Obligations.TrimRuns : Prop :=
  ∀ s : State, s.meas.items.length = 71 →
    (s.meas.policy.trimper.toNat ≠ 0 → s.meas.lastAuto + cycS (60 * s.meas.policy.trimper.toNat) ≤ s.now →
      Reaches (exec .autoTrimStart s) fun t => t.meas.lastAuto = s.now ∧ ∀ k < 71,
        (t.meas.item k).running = ((s.meas.item k).running || s.mayTrim k) ∧
        (t.meas.item k).coef = (s.meas.item k).coef) ∧
    (∀ (item : BitVec 8) (ok nv : Bool) (c1 c2 : BitVec 16) (r1 r2 : Int),
      let k := item.toNat
      let x := s.meas.item k
      k < 71 → x.running = true → Reaches (exec (.trimRunComplete item ok c1 c2 r1 r2 nv) s) fun t =>
        if ok = true ∧ (r1 - r2).natAbs ≤ trimTolerance k then
          let c : BitVec 16 := BitVec.ofNat 16 ((c1.toNat + c2.toNat + 1) / 2)
          (t.meas.item k).coef = (if s.idle then c else x.coef) ∧
          (t.meas.item k).pend = (if s.idle then none else some (c, r1, r2)) ∧ (t.meas.item k).running = false ∧
          (t.meas.item k).failed = false ∧ (t.meas.item k).prov = false ∧ (t.meas.item k).accAt = some s.now
        else t.meas.item k = { x with running := false, failed := true }) ∧
    ∀ (item : BitVec 8) (t0 : Nat), item.toNat < 71 → (s.meas.item item.toNat).accAt = some t0 →
      s.meas.policy.agemax.toNat ≠ 0 → t0 + cycH s.meas.policy.agemax.toNat < s.now →
      Reaches (exec (.agemaxExpiry item) s) fun t => (t.meas.item item.toNat).prov = true

/-- The gain loop: each step ends when its samples or its frame are in, the two runs follow each other, and the
pair ends with a table in the pending bank or with the beams that differ. -/
def Obligations.GainLoop : Prop :=
  ∀ (s : State) (g : GainPair), s.meas.gain = some g →
    (g.step ≤ 64 → g.policy.mcup.toNat ≤ g.cupN → Reaches (exec .gainRunStepComplete s) fun t =>
      ∃ h, t.meas.gain = some h ∧ h.step = g.step + 1 ∧ h.cupN = 0 ∧ h.cupSum = 0 ∧
        (g.step = 0 → h.dark = g.mean ∧ h.fired = 1 ∧ h.wait = settlePeriods (s.gainParams g).2) ∧
        (0 < g.step → h.current = g.current ++ [g.mean - g.dark] ∧
          (g.step < 64 → h.fired = g.step + 1 ∧ h.wait = settlePeriods (s.gainParams g).2))) ∧
    (65 ≤ g.step → g.step ≤ 72 → g.got = true → Reaches (exec .gainRunStepComplete s) fun t =>
      ∃ h, t.meas.gain = some h ∧ h.step = g.step + 1 ∧ h.got = false ∧ h.useFrame = none ∧
        (g.step = 72 → h.fired = 0)) ∧
    (g.step = 73 → Reaches (exec .gainRunStepComplete s) fun t =>
      ∃ h, t.meas.gain = some h ∧ (if g.second then h.step = 74 ∧ h.out = (g.gains (s.gainParams g).1).1
        else h.step = 0 ∧ h.second = true ∧ h.first = (g.gains (s.gainParams g).1).1 ∧ h.spots = [])) ∧
    (g.step = 74 → s.mbsWf →
      let pairs := g.first.zip g.out
      let bad := pairs.zipIdx.filterMap fun (p : (Nat × Nat) × Nat) =>
        if gainDiffers p.1.1 p.1.2 then some p.2 else none
      Reaches (exec .gainPairEnd s) fun t => t.meas.gain = none ∧
        (bad = [] → t.answered g.src ST.ok ∧ t.beam =
          s.beam.accept 1 (s.gainParams g).1 (s.gainParams g).2 (pairs.map fun p => (p.1 + p.2 + 1) / 2)) ∧
        (bad ≠ [] → t.answered g.src ST.calDisagree ∧ t.beam = s.beam))

/-- The DMA engine: a fetched descriptor is taken or the channel halts with the code of the first check that
fails; a fetch without a response halts it; the arbiter's channel gets a burst of its next length; a burst that
goes well moves its bytes and nothing else, one whose writes go to a frozen stack waits, one that meets an error ends
its descriptor. -/
def Obligations.DmaTransfers : Prop :=
  ∀ (s : State) (chan : BitVec 6),
    let n := chan.toNat
    let c := s.dmaCh n
    let rsp := BitVec.ofNat 4 (fld 51 48 c.cring)
    let recordFits := c.ringFull = true ∨ (fld 47 0 c.cring + 16 * c.wp + 16 ≤ spaceEnd rsp ∧ rsp ≠ spDevreg)
    n < s.dma.chans.length →
    (∀ (a : Nat) (sp : BitVec 4) (t0 : Nat) (bs : List Byte),
      let d : Desc := ⟨(bytesWords 2 bs).getD 0 0, (bytesWords 2 bs).getD 1 0, a, sp⟩
      c.fetching = some (a, sp, t0) → s.now ≤ t0 + cycUs 16 → s.busRead sp a 32 = some bs →
      (d.haltCode c n = none → d.ok n = true → c.next = none → (c.st = .active ∨ c.st = .pacedOff) →
        Reaches (exec (.descriptorFetch chan false) s) fun t =>
          t.dmaCh n = { c with fetching := none, desc := some d, off := 0, closed := false, redo := false,
                               expseq := c.expseq + 1, hops := if bitAt 60 d.w1 then 0 else c.hops + 1 }) ∧
      ∀ h, d.haltCode c n = some h → Reaches (exec (.descriptorFetch chan false) s) fun t =>
        (t.dmaCh n).st = .halted ∧ (t.dmaCh n).desc = none ∧ (recordFits → (t.dmaCh n).haltst = h)) ∧
    (∀ (a : Nat) (sp : BitVec 4) (t0 : Nat), c.fetching = some (a, sp, t0) →
      (s.now ≤ t0 + cycUs 16 → Reaches (exec (.descriptorFetch chan true) s) fun t =>
        (t.dmaCh n).st = .halted ∧ (recordFits → (t.dmaCh n).haltst = 0x14)) ∧
      (t0 + cycUs 16 ≤ s.now → Reaches (exec (.fetchTimeout chan) s) fun t =>
        (t.dmaCh n).st = .halted ∧ (recordFits → (t.dmaCh n).haltst = 0x13))) ∧
    (∀ d : Desc, (s.paceAll.dma.chans.filter (·.burst.isSome)).length < 16 → s.paceAll.pick = some n →
      (s.paceAll.dmaCh n).desc = some d → s.paceAll.cvuTaken n d = false → Reaches (exec .burstIssue s) fun t =>
        (t.dmaCh n).burst = some ((s.paceAll.dmaCh n).nextLen d) ∧ (t.dmaCh n).desc = some d ∧ t.mem = s.mem) ∧
    (∀ (d : Desc) (len : Nat) (bs : List Byte), c.burst = some len → c.desc = some d → c.off + len < d.len →
      (c.st = .active ∨ c.st = .pacedOff) → d.dstSp ≠ spDevreg →
      s.busRead d.srcSp (fld 63 0 d.w0 + c.off) len = some bs →
      s.busWriteOk n d.dstSp (fld 127 64 d.w0 + c.off) len = true → s.burstWrites c d len = true →
      Reaches (exec (.burstComplete chan .ok) s) fun t =>
        (t.dmaCh n).off = c.off + len ∧ (t.dmaCh n).burst = none ∧ (t.dmaCh n).desc = some d ∧
        t.mem = (s.write d.dstSp (fld 127 64 d.w0 + c.off) bs).mem) ∧
    (∀ (d : Desc) (len : Nat) (how : BurstEnd), c.burst = some len → c.desc = some d → s.burstWrites c d len = false →
      Reaches (exec (.burstComplete chan how) s) fun t => t = s) ∧
    ∀ (d : Desc) (len : Nat) (how : BurstEnd), c.burst = some len → c.desc = some d → d.dstSp ≠ spDevreg →
      s.burstWrites c d len = true → (how = .srcErr ∨ how = .dstErr ∨ how = .parity) → Reaches (exec (.burstComplete chan how) s) fun t =>
        (t.dmaCh n).burst = none ∧ (t.dmaCh n).desc = none ∧ (t.dmaCh n).off = 0

/-- Network time: messages outside the supported parts are counted, an Announce gives an unlocked domain its
master, a two-step Sync and a Delay_Resp give their times, Delay_Req goes out when due, a master or port that is
lost puts the domain in HOLDOVER, the preferred domain is selected again, and a fault of a domain unlocks it. -/
def Obligations.NetworkTime : Prop :=
  ∀ s : State,
    (∀ (p : NetPort) (m : PtpMsg), m.kind = .other → Reaches (exec (.ptpMessageReceive p m) s) fun t =>
      t.time.ignored = s.time.ignored + 1 ∧ t.time.domA = s.time.domA ∧ t.time.domB = s.time.domB) ∧
    (∀ (p : NetPort) (m : PtpMsg), s.time.domA.hears p m = true → s.time.domB.hears p m = false →
      (m.kind = .announce → s.time.domA.st = .unlocked → Reaches (exec (.ptpMessageReceive p m) s) fun t =>
        t.time.domA.master = some m.master ∧ t.time.domA.lastAnnounce = s.now ∧
        t.time.domA.clockClass = m.clockClass ∧ t.time.domA.st = .acquiring ∧ t.time.domB = s.time.domB) ∧
      (m.kind = .sync → m.twoStep = true → s.time.domA.master = some m.master → s.time.domA.st.following = true →
        Reaches (exec (.ptpMessageReceive p m) s) fun t =>
          t.time.domA.syncT2 = some ((s.time.domA.recvTime s.now m.rsFec).toNat, signedOf 64 m.correction.toNat)) ∧
      (∀ t3 : Nat, m.kind = .delayResp → s.time.domA.master = some m.master → s.time.domA.st.following = true →
        s.time.domA.cfg.delaymech = false → s.time.domA.delayT3 = some t3 →
        Reaches (exec (.ptpMessageReceive p m) s) fun t => t.time.domA.delayT3 = none ∧ t.time.domA.pathDelay =
          (s.time.domA.t1t2 + ((m.originTs.toNat : Int) - t3 - signedOf 64 m.correction.toNat +
            signedOf 32 s.time.domA.cfg.asym.toNat)) / 2)) ∧
    (∀ d : BitVec 1,
      let x := s.time.dom d
      (x.st.following = true → (∀ t0, x.lastReq = some t0 → t0 + pow2s x.reqInterval ≤ s.now) →
        ((x.cfg.port = .netA ∧ s.time.netA = true) ∨ (x.cfg.port = .netB ∧ s.time.netB = true)) →
        Reaches (exec (.delayReqSend d) s) fun t => (t.time.dom d).delayT3 = some (x.sendTime s.now).toNat ∧
          (t.time.dom d).lastReq = some s.now ∧ t.out = s.out ++ [.delayReq x.cfg.port s.now]) ∧
      (x.st.following = true → x.lastAnnounce + x.cfg.annto.toNat * pow2s x.annInterval ≤ s.now →
        Reaches (exec (.announceTimeout d) s) fun t => (t.time.dom d).st = .holdover ∧
          (t.time.dom d).rate = x.rate ∧ (t.time.dom d).value = x.value ∧ (t.time.dom d).anchor = x.anchor) ∧
      (x.st.following = true → Reaches (exec (.netPortDown x.cfg.port) s) fun t => (t.time.dom d).st = .holdover) ∧
      Reaches (exec (.counterFault (.domain d)) s) fun t => (t.time.dom d).st = .unlocked ∧
        (t.time.dom d).value = 0 ∧ (t.time.dom d).rate = 0 ∧ (t.time.dom d).master = none) ∧
    (s.safePermit → Reaches (exec (.counterFault .counter) s) fun t => t.ref.safe = true ∧ t.ref.permitOut = false) ∧
    ∀ t0 : Nat, s.time.mode = 2 → s.time.revert = true → s.time.sel ≠ s.time.pref →
      (s.time.dom s.time.pref).goodSince = some t0 → t0 + cycS 60 ≤ s.now →
      Reaches (exec .domainRevert s) fun t => t.time.sel = s.time.pref

/-- Host ports depart when their link has been down or their lease has run out, and arrive with their link; a
waiting DMA.STOP is answered once its channel has stopped. -/
def Obligations.HostPorts : Prop :=
  ∀ (s : State) (p : Port),
    ((s.port p).linkUp = true → Reaches (exec (.hostLinkDown p) s) fun t =>
      (t.port p).linkUp = false ∧ (t.port p).departed = true) ∧
    ((s.port p).linkUp = false → (s.port p).downAt + cycMs 100 ≤ s.now → Reaches (exec (.hostLinkDown p) s) fun t =>
      (t.port p).departed = true) ∧
    ((s.port p).linkUp = false → Reaches (exec (.hostLinkUp p) s) fun t =>
      (t.port p).linkUp = true ∧ (t.port p).departed = false) ∧
    ((s.port p).lease ≠ 0 → (s.port p).lastBell + cycMs (s.port p).lease.toNat ≤ s.now →
      Reaches (exec (.hostLeaseExpiry p) s) fun t => (t.port p).departed = true) ∧
    ((s.port p).linkUp = true → Reaches (exec (.perstN p) s) fun t =>
      (t.port p).linkUp = false ∧ (t.port p).downAt = s.now) ∧
    ∀ (mb : BitVec 4) (src : Src) (chan : BitVec 5) (ab : Bool) (since : Nat), s.mbsWf → src.mb = mb →
      s.waiter mb = some ⟨src, .dmaStop src chan ab, since⟩ → s.firmware = true →
      Reaches (exec (.waitingCommandComplete mb) s) fun t =>
        if (s.dmaCh chan.toNat).st = .draining then t = s else t.answered src ST.ok ∧ t.waiter mb = none

/-- The two Marshals: the active one's heartbeat keeps the snapshot; a silent active one is replaced by a healthy
standby and else the machine goes to the safe state; the end of the replay ends the failover; a booted Marshal is
healthy again; a firmware switch swaps the roles and then reboots the old one; an instance that has no spare and passes
its self-test at idle goes back into service, one of a region with spares stays quarantined. -/
def Obligations.MarshalLife : Prop :=
  ∀ s : State,
    (∀ m : Marshal, (s.ref.marshal m).healthy = true → Reaches (exec (.marshalHeartbeat m) s) fun t =>
      (t.ref.marshal m).lastBeat = s.now ∧
      (m = s.ref.active → s.ref.failover = false → t.ref.snap = s.snapshotItems)) ∧
    (∀ (m : Marshal) (self : Bool), (s.ref.marshal m).healthy = true →
      (self = true ∨ (s.ref.marshal m).lastBeat + (if m = s.ref.active then cycMs 1 else cycMs 10) ≤ s.now) →
      Reaches (exec (.heartbeatTimeout m self) s) fun t =>
        (m = s.ref.active → s.ref.failover = false → (s.ref.marshal (otherMarshal m)).healthy = true →
          t.ref.active = otherMarshal m ∧ t.ref.failover = true ∧ (t.ref.marshal m).healthy = false ∧
          (t.ref.marshal m).booting = true ∧ t.stage.recovery = true) ∧
        (m = s.ref.active → s.ref.failover = true ∨ (s.ref.marshal (otherMarshal m)).healthy = false →
          t.ref.safe = true) ∧
        (m ≠ s.ref.active → (t.ref.marshal m).healthy = false ∧ t.ref.active = s.ref.active)) ∧
    (s.ref.failover = true →
      (s.host.held = [] → Reaches (exec (.failoverReplayComplete true) s) fun t =>
        t.ref.failover = false ∧ t.ref.replayed = true) ∧
      Reaches (exec (.failoverReplayComplete false) s) fun t => t.ref.failover = false ∧ t.ref.safe = true) ∧
    (∀ m : Marshal, (s.ref.marshal m).booting = true → Reaches (exec (.marshalBootComplete m true) s) fun t =>
      (t.ref.marshal m).healthy = true ∧ (t.ref.marshal m).booting = false ∧
      ((s.ref.marshal s.ref.active).healthy = false → t.ref.active = m ∧ t.ref.activeSince = some s.now) ∧
      ((s.ref.marshal s.ref.active).healthy = true → t.ref.active = s.ref.active ∧
        t.fw.sw = if s.fw.sw = 1 then 2 else s.fw.sw)) ∧
    (s.fw.sw = 2 → s.active? = none → s.ref.failover = false → Reaches (exec .fwSwitchRoleSwap s) fun t =>
      t.ref.active = otherMarshal s.ref.active ∧ t.fw.run = (!s.fw.run) ∧ t.fw.sw = 5 ∧ t.fw.swAt = s.now) ∧
    (s.fw.sw = 5 → s.fw.swAt + cycS 60 ≤ s.now → Reaches (exec .fwSwitchOldReboot s) fun t =>
      t.fw.sw = 0 ∧ (t.fw.slot t.fw.run).actseq = (s.fw.slot (!s.fw.run)).actseq + 1 ∧
      (t.ref.marshal (otherMarshal s.ref.active)).booting = true) ∧
    ∀ (node r : BitVec 32) (pass : Bool), repairNode node = some r → s.active? = none → s.rstate r = .quarantined →
      ((s.repairRec r).any (·.selfTest)) = true → (outputLane r = true → sparedNode r = true) →
      Reaches (exec (.selfTestAtIdle node pass) s) fun t =>
        t.rstate r = if sparedNode r then .quarantined else if pass then .inService else .failed

/-- The safe state is entered for a Referee fault and for a supply out of range, and left when its conditions to leave
hold; the fault log is flushed; the SMBus answers an alert; JTAG drives no pin after READY outside the safe state. -/
def Obligations.SafeStateEvents : Prop :=
  ∀ s : State,
    (s.safeMayEnd = true → Reaches (exec .safeStateExit s) fun t => t.ref.safe = false ∧ t.ref.cause = 0 ∧
      t.ref.alert = false ∧ t.power.ready = true ∧ t.power.supplyBad = none) ∧
    (s.safeMayEnd = false → Reaches (exec .safeStateExit s) fun t => t = s) ∧
    (s.safePermit → Reaches (exec .refereeSelfCheck s) fun t => t.ref.safe = true ∧ t.ref.permitOut = false ∧
      t.ref.latchedC = some 3) ∧
    (∀ rail : BitVec 3, s.safePermit → s.power.railsOn = true → Reaches (exec (.supplyOutOfRange rail) s) fun t =>
      t.ref.safe = true ∧ t.ref.permitOut = false ∧ t.power.supplyBad = some s.now) ∧
    (s.log.buffer ≠ [] → Reaches (exec .faultLogFlush s) fun t => if Config.nvWrite s.fresh then t.log.buffer = [] ∧
        t.log.nv = (s.log.nv ++ s.log.buffer).drop ((s.log.nv ++ s.log.buffer).length - 16384)
      else t.log.nv = s.log.nv ∧ s.log.buffer <+: t.log.buffer) ∧
    (s.ref.alert = true → s.power.powered = true → Reaches (exec .smbusAlertResponse s) fun t =>
      t.out = s.out ++ [.smbus [BitVec.ofNat 8 (0x5C + s.mgmt.smbAddr.toNat)]]) ∧
    ∀ i : JtagInstr, Reaches (exec (.jtagInstruction i) s) fun t =>
      t.mgmt.jtag = if (i = .extest ∨ i = .intest ∨ i = .clamp) ∧ s.power.ready = true ∧ s.ref.safe = false then .bypass
        else i

/-- Supply: VIN starts an unpowered module afresh, a good start reaches READY, rails that fail are tried again up
to three times, and a supply that is lost, a shutdown and the resets leave the parts that are named. -/
def Obligations.SupplyAndResets : Prop :=
  ∀ s : State,
    (s.power.powered = false → Reaches (exec .vinQualified s) fun t => t.power.powered = true ∧
      t.power.qualified = true ∧ t.power.railsOn = false ∧ t.jobs = Jobs.reset ∧ t.mem.landing = [] ∧
      t.log.nv = s.log.nv ∧ t.power.cause = if s.log.clean then 0 else 1) ∧
    (∀ (rep : StartReport) (slot : Bool), s.ref.resetPend = none → s.mayStart = true → rep.refereeOk = true →
      rep.marshalAOk = true → s.fw.select = some slot → Reaches (exec (.startInstant rep) s) fun t =>
        t.power.ready = true ∧ t.power.railsOn = true ∧ t.time.running = true ∧ t.ref.active = .a ∧
        t.ref.ma.healthy = true ∧ t.fw.run = slot ∧ (t.fw.slot slot).bootfail = 0) ∧
    (∀ rail : BitVec 3, s.power.ramps = true → s.power.railOffAt = none → s.power.railsOn = false →
      Reaches (exec (.railEnableTimeout rail) s) fun t => t.power = { s.power with
        railTries := s.power.railTries + 1, railOffAt := some s.now, railsHeld := decide (3 ≤ s.power.railTries + 1) }) ∧
    (s.power.ramps = true → s.power.railOffAt.isSome = true → Reaches (exec .railRetry s) fun t =>
      t.power = { s.power with railOffAt := none }) ∧
    (s.power.powered = true → s.power.stopped = false → Reaches (exec .supplyLossWarning s) fun t =>
      t.ref.safe = true ∧ t.ref.permitOut = false ∧ t.power.stopped = true ∧ t.power.railsOn = false ∧
      t.power.qualified = false ∧ t.log.clean = true ∧ t.log.buffer = []) ∧
    (s.power.powered = true → s.power.shutdown = false → Reaches (exec .thermalShutdown s) fun t =>
      t.power.shutdown = true ∧ t.power.railsOn = false ∧ t.ref.permitOut = false ∧ t.log.clean = true ∧
      t.log.buffer = []) ∧
    (s.power.powered = true → Reaches (exec .resetN s) fun t => t.jobs = Jobs.reset ∧ t.mem.landing = [] ∧
      t.ref.permitOut = false ∧ t.repair.recs = s.repair.recs ∧ t.fw.slot0 = s.fw.slot0 ∧ t.fw.slot1 = s.fw.slot1 ∧
      t.plate.keyM = s.plate.keyM ∧ t.beam.idleEnd = some (cycMs 50)) ∧
    (s.power.powered = true → Reaches (exec .aonRailOff s) fun t => t.power.powered = false ∧
      t.power.railsOn = false ∧ t.ref.permitOut = false ∧ t.log.nv = s.log.nv)

/-- Clocks: a lost reference unlocks every PLL; a PLL that unlocks enters the safe state or stops its memory, nets or
host links; a relocked one is
no longer lost, and the landing memory is empty after PLL-M. -/
def Obligations.ClockEvents : Prop :=
  ∀ s : State,
    (s.power.railsOn = true → s.power.refOk = true → Reaches (exec .refLost s) fun t => t.power.refOk = false ∧
      (s.power.lost.contains .pllC = false → t.ref.safe = true) ∧
      ∀ c ∈ [Clock.pllC, .pllM, .pllL, .pllN, .pcie], c ∈ t.power.lost) ∧
    (Reaches (exec .refRestored s) fun t => t.power = { s.power with refOk := true }) ∧
    (∀ c : Clock, s.power.railsOn = true → s.power.lost.contains c = false →
      Reaches (exec (.pllUnlock c) s) fun t => t.power.lost = s.power.lost ++ [c] ∧
        (c = .pllC ∨ c = .pllL ∨ c = .beamTree ∨ c = .timeTree → t.ref.safe = true) ∧
        (c = .pllM → t.mc.pllDown = true) ∧
        (c = .pllN → t.time.netA = false ∧ t.time.netB = false) ∧
        (c = .pcie → t.host.portA.linkUp = false ∧ t.host.portB.linkUp = false)) ∧
    ∀ c : Clock, s.power.refOk = true → s.power.lost.contains c = true →
      s.due ((s.power.triedAt.find? (·.1 == c)).map (·.2)) (cycMs 10) = true →
      (Reaches (exec (.pllRelockAttempt c false) s) fun t => t.power.lost = s.power.lost ∧
        t.power.triedAt = s.power.triedAt.filter (·.1 != c) ++ [(c, s.now)]) ∧
      Reaches (exec (.pllRelockAttempt c true) s) fun t => c ∉ t.power.lost ∧
        (c = .pllM → t.mc.pllDown = false ∧ t.mem.landing = []) ∧
        (c = .pllN → t.time.netA = true ∧ t.time.netB = true)

/-- ALIVE of an accepted doorbell: LEN and the body's check value are judged first; the ALIVE of the last command
plus 1 makes the command the last, which is judged further and executed; the last ALIVE again gets the stored
response with REPEAT = 1 and no execution, whatever the command; any other ALIVE is a gap. SYS.CLAIM and
SYS.ROLLCALL, which pass with any ALIVE, are left out. -/
def Obligations.NewRepeatOrGap : Prop :=
  ∀ (s : State) (p : Port) (mb : BitVec 4) (v : BitVec 64),
    let src : Src := ⟨p, mb⟩
    let m := s.mb mb
    let h := m.word 0
    let n := fld 47 32 h
    let a : BitVec 8 := BitVec.ofNat 8 (fld 55 48 h)
    let b := (List.range (min n 127)).map fun i => m.word (i + 1)
    let crc := if n = 0 then 0 else (crc64W b).toNat
    let next := (m.lastAlive.map (· + 1)).getD 0
    let rung := (s.onMb mb fun x => { x with busy := true, done := false, header := h }).onPort p fun q =>
      { q with lastBell := s.now, departed := false }
    let newest := rung.onMb mb fun x => { x with lastAlive := some a }
    let begun := newest.onRef fun r => { r with journal := r.journal + 1 }
    let judged := newest.checked (command? (fld 15 0 h) src (bitAt 56 h) n b) h
    s.mbsWf → v.getLsbD 0 = true → (s.port p).linkUp = true → s.power.ready = true → s.firmware = true →
    m.owner = some p → m.busy = false →
    (127 < n → Reaches (exec (.mbDoorbell p mb v []) s) fun t =>
      t.answered src ST.sysLength ∧ (t.mb mb).lastAlive = m.lastAlive) ∧
    (n ≤ 127 → fld 127 64 h ≠ crc → Reaches (exec (.mbDoorbell p mb v []) s) fun t =>
      t.answered src ST.sysBodyCrc ∧ (t.mb mb).lastAlive = m.lastAlive) ∧
    (n ≤ 127 → fld 127 64 h = crc → anyAlive (fld 15 0 h) = false →
      (m.lastAlive = some a → Reaches (exec (.mbDoorbell p mb v []) s) fun t =>
        OnlyParts [.ports, .queues, .mailboxes, .out] s t ∧ (∀ k, k ≠ mb → t.mb k = s.mb k) ∧
        t.mb mb = { m with header := h, done := true, resp0 := m.kept0, resp1 := m.kept1 ||| 0x10000, respBody := m.keptBody }) ∧
      (a ≠ next → m.lastAlive ≠ some a → Reaches (exec (.mbDoorbell p mb v []) s) fun t =>
        t.answered src ST.sysAliveGap ∧ fld 63 32 (t.mb mb).resp1 = next.toNat ∧ (t.mb mb).lastAlive = m.lastAlive ∧
        (t.mb mb).kept0 = m.kept0 ∧ (t.mb mb).kept1 = m.kept1 ∧ (t.mb mb).keptBody = m.keptBody) ∧
      (a = next →
        (∀ st, judged = .error st → Reaches (exec (.mbDoorbell p mb v []) s) fun t =>
          t.answered src st ∧ (t.mb mb).lastAlive = some a ∧ (t.mb mb).kept0 = (t.mb mb).resp0 ∧
          (t.mb mb).kept1 = (t.mb mb).resp1) ∧
        ∀ k t, judged = .ok k → k.run begun = .next t → (t.mb mb).owner.isSome = true →
          exec (.mbDoorbell p mb v []) s = .next t ∧ (begun.mb mb).lastAlive = some a))

/-- RESET_ALL, SYS.RESET of scope 0 and the supply-loss warning end the fault log with a clean-stop entry, all of it
written; a power-on whose log does not end so gives the start cause of an unclean shutdown, and the plate that was
attached is listed for the tracker. -/
def Obligations.CleanStops : Prop :=
  let clean (t : State) : Prop := t.log.clean = true ∧ t.log.buffer = [] ∧
    ∃ e, t.log.nv.getLast? = some e ∧ fld 15 0 (e.getD 0 0) = (Config.logCode 1).toNat
  (∀ (s : State) (via : Via), s.power.powered = true → s.power.shutdown = false →
    Reaches (exec (.resetAll via 0x5AA5#16) s) clean) ∧
  (∀ (s : State) (src : Src) (node : BitVec 32), s.active? = none → s.power.shutdown = false →
    Reaches (exec (.sysReset src 0 node) s) clean) ∧
  (∀ s : State, s.power.powered = true → s.power.stopped = false → Reaches (exec .supplyLossWarning s) clean) ∧
  ∀ s : State, s.power.powered = false → Reaches (exec .vinQualified s) fun t =>
    t.power.cause = (if s.log.clean then 0 else 1) ∧
    t.plate.unclean = if s.log.clean then s.plate.unclean else s.plate.unclean ++ s.plate.attached.toList

/-- With REQCONF = 1 an arm of a beams target that meets every condition before it is refused while the delay-line
reference or an item of the monitor converter is provisional. -/
def Obligations.ProvisionalItemRefusesArm : Prop :=
  ∀ (s : State) (src : Src) (id : StripeId) (x : Stripe) (q : Nat), s.mbsWf → s.stripe? id = some x →
    s.owns src id.job = true → x.st = .checked → s.quiet = true → s.link.arm = none → x.firstOpen = some q →
    s.beam.table.isSome = true → x.target = 0 →
    let m := s.buildMap false s.link.map [] []
    let t := (if s.link.headPresent then s.mapEvents src m.1 m.2 else s).prepareArm m.1 s.link.headPresent
    gainBad (t.beam.activeT.getD ⟨0, 0, 0, 0, []⟩) t.deadNow x.hdr.ghbound = none →
    x.capacityBad t.deadNow q = [] → x.offsetOk s.beam.fit = true →
    (x.hdr.place = true → x.placementBad t.deadNow q = []) → firstFail (t.armRest x).dropLast = none →
    t.meas.policy.reqconf = true →
    ((t.meas.item 70).prov = true ∨ (t.meas.item 68).prov = true ∨ (t.meas.item 69).prov = true) →
    Reaches (exec (.stripeArm src id) s) fun u => u.answered src ST.calProvisional ∧ u.jobs = s.jobs
end

