-- ==== Sys2Proof/Laws/Exec.lean ====
section
/-!
SUPPORT. Each command's meaning, cited without unfolding the dispatch.
-/

namespace Sys2Proof.Machine

@[simp] theorem exec_sysIdent {s : State} {src} : exec (.sysIdent src) s = execSysIdent src s := rfl
@[simp] theorem exec_sysClaim {s : State} {src lease} : exec (.sysClaim src lease) s = execSysClaim src lease s := rfl
@[simp] theorem exec_sysRelease {s : State} {src} : exec (.sysRelease src) s = execSysRelease src s := rfl
@[simp] theorem exec_sysTakeover {s : State} {src mbmask lease} : exec (.sysTakeover src mbmask lease) s = execSysTakeover src mbmask lease s := rfl
@[simp] theorem exec_sysEventq {s : State} {src base space log2n} : exec (.sysEventq src base space log2n) s = execSysEventq src base space log2n s := rfl
@[simp] theorem exec_sysRollcall {s : State} {src buf} : exec (.sysRollcall src buf) s = execSysRollcall src buf s := rfl
@[simp] theorem exec_sysReset {s : State} {src scope node} : exec (.sysReset src scope node) s = execSysReset src scope node s := rfl
@[simp] theorem exec_sysFwStage {s : State} {src buf} : exec (.sysFwStage src buf) s = execSysFwStage src buf s := rfl
@[simp] theorem exec_sysFwSwitch {s : State} {src} : exec (.sysFwSwitch src) s = execSysFwSwitch src s := rfl
@[simp] theorem exec_sysFaultlogRead {s : State} {src first count buf} : exec (.sysFaultlogRead src first count buf) s = execSysFaultlogRead src first count buf s := rfl
@[simp] theorem exec_jobOpen {s : State} {src job target dual} : exec (.jobOpen src job target dual) s = execJobOpen src job target dual s := rfl
@[simp] theorem exec_jobFeed {s : State} {src job wp} : exec (.jobFeed src job wp) s = execJobFeed src job wp s := rfl
@[simp] theorem exec_jobQuery {s : State} {src job} : exec (.jobQuery src job) s = execJobQuery src job s := rfl
@[simp] theorem exec_jobAbort {s : State} {src job abort} : exec (.jobAbort src job abort) s = execJobAbort src job abort s := rfl
@[simp] theorem exec_jobClose {s : State} {src job} : exec (.jobClose src job) s = execJobClose src job s := rfl
@[simp] theorem exec_jobLedgerRead {s : State} {src st first count buf} : exec (.jobLedgerRead src st first count buf) s = execJobLedgerRead src st first count buf s := rfl
@[simp] theorem exec_stripeStatus {s : State} {src st buf} : exec (.stripeStatus src st buf) s = execStripeStatus src st buf s := rfl
@[simp] theorem exec_stripeArm {s : State} {src st} : exec (.stripeArm src st) s = execStripeArm src st s := rfl
@[simp] theorem exec_stripeDisarm {s : State} {src st} : exec (.stripeDisarm src st) s = execStripeDisarm src st s := rfl
@[simp] theorem exec_stripeGo {s : State} {src st waitmax yref sense crossmax xcref tlb} : exec (.stripeGo src st waitmax yref sense crossmax xcref tlb) s = execStripeGo src st waitmax yref sense crossmax xcref tlb s := rfl
@[simp] theorem exec_stripeStop {s : State} {src st abort} : exec (.stripeStop src st abort) s = execStripeStop src st abort s := rfl
@[simp] theorem exec_stripeResume {s : State} {src st} : exec (.stripeResume src st) s = execStripeResume src st s := rfl
@[simp] theorem exec_stripeRelease {s : State} {src st} : exec (.stripeRelease src st) s = execStripeRelease src st s := rfl
@[simp] theorem exec_beamGainLoad {s : State} {src buf} : exec (.beamGainLoad src buf) s = execBeamGainLoad src buf s := rfl
@[simp] theorem exec_beamDeadSet {s : State} {src beams} : exec (.beamDeadSet src beams) s = execBeamDeadSet src beams s := rfl
@[simp] theorem exec_beamDeadClear {s : State} {src beams} : exec (.beamDeadClear src beams) s = execBeamDeadClear src beams s := rfl
@[simp] theorem exec_beamStuckClear {s : State} {src b} : exec (.beamStuckClear src b) s = execBeamStuckClear src b s := rfl
@[simp] theorem exec_beamHistoryRead {s : State} {src st buf} : exec (.beamHistoryRead src st buf) s = execBeamHistoryRead src st buf s := rfl
@[simp] theorem exec_beamHistoryPolicy {s : State} {src reqzero} : exec (.beamHistoryPolicy src reqzero) s = execBeamHistoryPolicy src reqzero s := rfl
@[simp] theorem exec_beamFitSeal {s : State} {src fit} : exec (.beamFitSeal src fit) s = execBeamFitSeal src fit s := rfl
@[simp] theorem exec_beamStatus {s : State} {src} : exec (.beamStatus src) s = execBeamStatus src s := rfl
@[simp] theorem exec_stageConfig {s : State} {src ports tracker} : exec (.stageConfig src ports tracker) s = execStageConfig src ports tracker s := rfl
@[simp] theorem exec_stageMarks {s : State} {src port marks} : exec (.stageMarks src port marks) s = execStageMarks src port marks s := rfl
@[simp] theorem exec_stageStatus {s : State} {src} : exec (.stageStatus src) s = execStageStatus src s := rfl
@[simp] theorem exec_stageFaultClear {s : State} {src} : exec (.stageFaultClear src) s = execStageFaultClear src s := rfl
@[simp] theorem exec_stageSwitchTest {s : State} {src on} : exec (.stageSwitchTest src on) s = execStageSwitchTest src on s := rfl
@[simp] theorem exec_stagePacePolicy {s : State} {src policy} : exec (.stagePacePolicy src policy) s = execStagePacePolicy src policy s := rfl
@[simp] theorem exec_stageEmu {s : State} {src emu0 emu1} : exec (.stageEmu src emu0 emu1) s = execStageEmu src emu0 emu1 s := rfl
@[simp] theorem exec_camConfig {s : State} {src cam rec} : exec (.camConfig src cam rec) s = execCamConfig src cam rec s := rfl
@[simp] theorem exec_camSettings {s : State} {src cam slot} : exec (.camSettings src cam slot) s = execCamSettings src cam slot s := rfl
@[simp] theorem exec_camI2cXfer {s : State} {src cam wdata rlen} : exec (.camI2cXfer src cam wdata rlen) s = execCamI2cXfer src cam wdata rlen s := rfl
@[simp] theorem exec_camStart {s : State} {src cam frames} : exec (.camStart src cam frames) s = execCamStart src cam frames s := rfl
@[simp] theorem exec_camStop {s : State} {src cam abort} : exec (.camStop src cam abort) s = execCamStop src cam abort s := rfl
@[simp] theorem exec_camDefects {s : State} {src cam buf} : exec (.camDefects src cam buf) s = execCamDefects src cam buf s := rfl
@[simp] theorem exec_camShading {s : State} {src cam buf} : exec (.camShading src cam buf) s = execCamShading src cam buf s := rfl
@[simp] theorem exec_camTemplate {s : State} {src cam tpl buf} : exec (.camTemplate src cam tpl buf) s = execCamTemplate src cam tpl buf s := rfl
@[simp] theorem exec_camSpotgrid {s : State} {src cam grid} : exec (.camSpotgrid src cam grid) s = execCamSpotgrid src cam grid s := rfl
@[simp] theorem exec_camRing {s : State} {src cam buf} : exec (.camRing src cam buf) s = execCamRing src cam buf s := rfl
@[simp] theorem exec_camStatus {s : State} {src cam} : exec (.camStatus src cam) s = execCamStatus src cam s := rfl
@[simp] theorem exec_calAcquire {s : State} {src desc} : exec (.calAcquire src desc) s = execCalAcquire src desc s := rfl
@[simp] theorem exec_calTsLimits {s : State} {src limits} : exec (.calTsLimits src limits) s = execCalTsLimits src limits s := rfl
@[simp] theorem exec_calTrimRun {s : State} {src item} : exec (.calTrimRun src item) s = execCalTrimRun src item s := rfl
@[simp] theorem exec_calGainRun {s : State} {src grid} : exec (.calGainRun src grid) s = execCalGainRun src grid s := rfl
@[simp] theorem exec_calGainAbort {s : State} {src abort} : exec (.calGainAbort src abort) s = execCalGainAbort src abort s := rfl
@[simp] theorem exec_calPolicy {s : State} {src policy} : exec (.calPolicy src policy) s = execCalPolicy src policy s := rfl
@[simp] theorem exec_calStatus {s : State} {src} : exec (.calStatus src) s = execCalStatus src s := rfl
@[simp] theorem exec_linkThermal {s : State} {src ch warn stop trip} : exec (.linkThermal src ch warn stop trip) s = execLinkThermal src ch warn stop trip s := rfl
@[simp] theorem exec_linkStatus {s : State} {src} : exec (.linkStatus src) s = execLinkStatus src s := rfl
@[simp] theorem exec_linkTest {s : State} {src lane} : exec (.linkTest src lane) s = execLinkTest src lane s := rfl
@[simp] theorem exec_memStatus {s : State} {src} : exec (.memStatus src) s = execMemStatus src s := rfl
@[simp] theorem exec_memLandingRead {s : State} {src st seg} : exec (.memLandingRead src st seg) s = execMemLandingRead src st seg s := rfl
@[simp] theorem exec_dmaConfig {s : State} {src chan cfg pace head cring} : exec (.dmaConfig src chan cfg pace head cring) s = execDmaConfig src chan cfg pace head cring s := rfl
@[simp] theorem exec_dmaStart {s : State} {src chan resume} : exec (.dmaStart src chan resume) s = execDmaStart src chan resume s := rfl
@[simp] theorem exec_dmaStop {s : State} {src chan abort} : exec (.dmaStop src chan abort) s = execDmaStop src chan abort s := rfl
@[simp] theorem exec_dmaRingAdvance {s : State} {src chan rp} : exec (.dmaRingAdvance src chan rp) s = execDmaRingAdvance src chan rp s := rfl
@[simp] theorem exec_dmaStatus {s : State} {src chan} : exec (.dmaStatus src chan) s = execDmaStatus src chan s := rfl
@[simp] theorem exec_cvuCompute {s : State} {src unit init buf} : exec (.cvuCompute src unit init buf) s = execCvuCompute src unit init buf s := rfl
@[simp] theorem exec_cvuSave {s : State} {src unit} : exec (.cvuSave src unit) s = execCvuSave src unit s := rfl
@[simp] theorem exec_cvuRestore {s : State} {src unit value count} : exec (.cvuRestore src unit value count) s = execCvuRestore src unit value count s := rfl
@[simp] theorem exec_timeDomain {s : State} {src d rec} : exec (.timeDomain src d rec) s = execTimeDomain src d rec s := rfl
@[simp] theorem exec_timeSelect {s : State} {src mode pref revert slew} : exec (.timeSelect src mode pref revert slew) s = execTimeSelect src mode pref revert slew s := rfl
@[simp] theorem exec_timeStatus {s : State} {src} : exec (.timeStatus src) s = execTimeStatus src s := rfl
@[simp] theorem exec_plateProvision {s : State} {src svc key} : exec (.plateProvision src svc key) s = execPlateProvision src svc key s := rfl
@[simp] theorem exec_plateToken {s : State} {src token} : exec (.plateToken src token) s = execPlateToken src token s := rfl
@[simp] theorem exec_plateStatus {s : State} {src} : exec (.plateStatus src) s = execPlateStatus src s := rfl
@[simp] theorem exec_repairQuery {s : State} {src node buf} : exec (.repairQuery src node buf) s = execRepairQuery src node buf s := rfl
@[simp] theorem exec_repairPolicy {s : State} {src manual} : exec (.repairPolicy src manual) s = execRepairPolicy src manual s := rfl
@[simp] theorem exec_repairSpare {s : State} {src node} : exec (.repairSpare src node) s = execRepairSpare src node s := rfl
@[simp] theorem exec_repairReturn {s : State} {src node} : exec (.repairReturn src node) s = execRepairReturn src node s := rfl
@[simp] theorem exec_repairDisable {s : State} {src node abort} : exec (.repairDisable src node abort) s = execRepairDisable src node abort s := rfl
@[simp] theorem exec_codecEncode {s : State} {src desc} : exec (.codecEncode src desc) s = execCodecEncode src desc s := rfl
@[simp] theorem exec_codecDecode {s : State} {src desc} : exec (.codecDecode src desc) s = execCodecDecode src desc s := rfl
@[simp] theorem exec_codecDisable {s : State} {src lane decode abort} : exec (.codecDisable src lane decode abort) s = execCodecDisable src lane decode abort s := rfl
@[simp] theorem exec_traceStart {s : State} {src srcmask buf} : exec (.traceStart src srcmask buf) s = execTraceStart src srcmask buf s := rfl
@[simp] theorem exec_traceStop {s : State} {src abort} : exec (.traceStop src abort) s = execTraceStop src abort s := rfl
@[simp] theorem exec_traceStatus {s : State} {src} : exec (.traceStatus src) s = execTraceStatus src s := rfl
@[simp] theorem exec_status {s : State} {via} : exec (.status via) s = execStatus via s := rfl
@[simp] theorem exec_snapshot {s : State} {via offset} : exec (.snapshot via offset) s = execSnapshot via offset s := rfl
@[simp] theorem exec_resetMarshal {s : State} {via arg} : exec (.resetMarshal via arg) s = execResetMarshal via arg s := rfl
@[simp] theorem exec_resetAll {s : State} {via arg} : exec (.resetAll via arg) s = execResetAll via arg s := rfl
@[simp] theorem exec_mbDoorbell {s : State} {port mb value writes} : exec (.mbDoorbell port mb value writes) s = execMbDoorbell port mb value writes s := rfl
@[simp] theorem exec_evqRpWrite {s : State} {port value} : exec (.evqRpWrite port value) s = execEvqRpWrite port value s := rfl
@[simp] theorem exec_tsnapCtrRead {s : State} {port byte0} : exec (.tsnapCtrRead port byte0) s = execTsnapCtrRead port byte0 s := rfl
@[simp] theorem exec_supvStatusRead {s : State} {port} : exec (.supvStatusRead port) s = execSupvStatusRead port s := rfl
@[simp] theorem exec_memThaw {s : State} {st value} : exec (.memThaw st value) s = execMemThaw st value s := rfl
@[simp] theorem exec_dmaCmdStart {s : State} {chan} : exec (.dmaCmdStart chan) s = execDmaCmdStart chan s := rfl
@[simp] theorem exec_dmaCmdResume {s : State} {chan} : exec (.dmaCmdResume chan) s = execDmaCmdResume chan s := rfl
@[simp] theorem exec_dmaCmdDrain {s : State} {chan} : exec (.dmaCmdDrain chan) s = execDmaCmdDrain chan s := rfl
@[simp] theorem exec_dmaCmdAbort {s : State} {chan} : exec (.dmaCmdAbort chan) s = execDmaCmdAbort chan s := rfl
@[simp] theorem exec_cvuDataFeed {s : State} {unit data} : exec (.cvuDataFeed unit data) s = execCvuDataFeed unit data s := rfl
@[simp] theorem exec_cvuCmdInit {s : State} {unit nbm1} : exec (.cvuCmdInit unit nbm1) s = execCvuCmdInit unit nbm1 s := rfl
@[simp] theorem exec_registerWrite {s : State} {target} : exec (.registerWrite target) s = execRegisterWrite target s := rfl
@[simp] theorem exec_parseSlot {s : State} : exec (.parseSlot) s = execParseSlot s := rfl
@[simp] theorem exec_canopyPassStart {s : State} {st} : exec (.canopyPassStart st) s = execCanopyPassStart st s := rfl
@[simp] theorem exec_canopyPassComplete {s : State} {st} : exec (.canopyPassComplete st) s = execCanopyPassComplete st s := rfl
@[simp] theorem exec_canopyFault {s : State} : exec (.canopyFault) s = execCanopyFault s := rfl
@[simp] theorem exec_checkPassStart {s : State} {st} : exec (.checkPassStart st) s = execCheckPassStart st s := rfl
@[simp] theorem exec_checkPassComplete {s : State} {st} : exec (.checkPassComplete st) s = execCheckPassComplete st s := rfl
@[simp] theorem exec_landingPassStart {s : State} {st} : exec (.landingPassStart st) s = execLandingPassStart st s := rfl
@[simp] theorem exec_tileDispatch {s : State} {engine} : exec (.tileDispatch engine) s = execTileDispatch engine s := rfl
@[simp] theorem exec_tileComplete {s : State} {engine observed} : exec (.tileComplete engine observed) s = execTileComplete engine observed s := rfl
@[simp] theorem exec_tileWatchdogExpiry {s : State} {engine} : exec (.tileWatchdogExpiry engine) s = execTileWatchdogExpiry engine s := rfl
@[simp] theorem exec_engineParityError {s : State} {engine} : exec (.engineParityError engine) s = execEngineParityError engine s := rfl
@[simp] theorem exec_graderMismatch {s : State} {st seg panel} : exec (.graderMismatch st seg panel) s = execGraderMismatch st seg panel s := rfl
@[simp] theorem exec_panelEncodeStart {s : State} {lane st seg panel extA extB recs} : exec (.panelEncodeStart lane st seg panel extA extB recs) s = execPanelEncodeStart lane st seg panel extA extB recs s := rfl
@[simp] theorem exec_panelEncodeComplete {s : State} {lane} : exec (.panelEncodeComplete lane) s = execPanelEncodeComplete lane s := rfl
@[simp] theorem exec_encodeMismatch {s : State} {lane} : exec (.encodeMismatch lane) s = execEncodeMismatch lane s := rfl
@[simp] theorem exec_decodeLaneFault {s : State} {lane} : exec (.decodeLaneFault lane) s = execDecodeLaneFault lane s := rfl
@[simp] theorem exec_decodeBufferResume {s : State} {lane addr space len} : exec (.decodeBufferResume lane addr space len) s = execDecodeBufferResume lane addr space len s := rfl
@[simp] theorem exec_serviceJobStart {s : State} {mb lane} : exec (.serviceJobStart mb lane) s = execServiceJobStart mb lane s := rfl
@[simp] theorem exec_serviceJobComplete {s : State} {mb mismatch} : exec (.serviceJobComplete mb mismatch) s = execServiceJobComplete mb mismatch s := rfl
@[simp] theorem exec_segmentLanded {s : State} {st seg} : exec (.segmentLanded st seg) s = execSegmentLanded st seg s := rfl
@[simp] theorem exec_sealReadbackComplete {s : State} {st seg badA badB} : exec (.sealReadbackComplete st seg badA badB) s = execSealReadbackComplete st seg badA badB s := rfl
@[simp] theorem exec_signatureTableParity {s : State} {st seg badA badB} : exec (.signatureTableParity st seg badA badB) s = execSignatureTableParity st seg badA badB s := rfl
@[simp] theorem exec_preparationStart {s : State} {st seg slot} : exec (.preparationStart st seg slot) s = execPreparationStart st seg slot s := rfl
@[simp] theorem exec_segmentReady {s : State} {st seg badRead} : exec (.segmentReady st seg badRead) s = execSegmentReady st seg badRead s := rfl
@[simp] theorem exec_arbitrationComplete {s : State} {st seg panel badA badB} : exec (.arbitrationComplete st seg panel badA badB) s = execArbitrationComplete st seg panel badA badB s := rfl
@[simp] theorem exec_copyRewriteComplete {s : State} {st seg panel copy exts ok} : exec (.copyRewriteComplete st seg panel copy exts ok) s = execCopyRewriteComplete st seg panel copy exts ok s := rfl
@[simp] theorem exec_extentPatternTest {s : State} {st addr pass} : exec (.extentPatternTest st addr pass) s = execExtentPatternTest st addr pass s := rfl
@[simp] theorem exec_scrubSegment {s : State} {st seg badA badB} : exec (.scrubSegment st seg badA badB) s = execScrubSegment st seg badA badB s := rfl
@[simp] theorem exec_playBufferEcc {s : State} {st seg word} : exec (.playBufferEcc st seg word) s = execPlayBufferEcc st seg word s := rfl
@[simp] theorem exec_rerenderStart {s : State} {st seg} : exec (.rerenderStart st seg) s = execRerenderStart st seg s := rfl
@[simp] theorem exec_rerenderComplete {s : State} {st seg equal} : exec (.rerenderComplete st seg equal) s = execRerenderComplete st seg equal s := rfl
@[simp] theorem exec_refresh {s : State} {st} : exec (.refresh st) s = execRefresh st s := rfl
@[simp] theorem exec_tempBandSample {s : State} : exec (.tempBandSample) s = execTempBandSample s := rfl
@[simp] theorem exec_memUncorrectable {s : State} {st addr loc src syn} : exec (.memUncorrectable st addr loc src syn) s = execMemUncorrectable st addr loc src syn s := rfl
@[simp] theorem exec_memAutoThaw {s : State} {st} : exec (.memAutoThaw st) s = execMemAutoThaw st s := rfl
@[simp] theorem exec_channelRetireTrigger {s : State} {st ch trigger} : exec (.channelRetireTrigger st ch trigger) s = execChannelRetireTrigger st ch trigger s := rfl
@[simp] theorem exec_unitMigrationComplete {s : State} {st unit bad} : exec (.unitMigrationComplete st unit bad) s = execUnitMigrationComplete st unit bad s := rfl
@[simp] theorem exec_channelRetired {s : State} {st ch} : exec (.channelRetired st ch) s = execChannelRetired st ch s := rfl
@[simp] theorem exec_flashPlace {s : State} : exec (.flashPlace) s = execFlashPlace s := rfl
@[simp] theorem exec_fireMarker {s : State} : exec (.fireMarker) s = execFireMarker s := rfl
@[simp] theorem exec_voidMarker {s : State} : exec (.voidMarker) s = execVoidMarker s := rfl
@[simp] theorem exec_paceFrameSend {s : State} : exec (.paceFrameSend) s = execPaceFrameSend s := rfl
@[simp] theorem exec_paceReply {s : State} {payload crc} : exec (.paceReply payload crc) s = execPaceReply payload crc s := rfl
@[simp] theorem exec_mcAbsentTimeout {s : State} : exec (.mcAbsentTimeout) s = execMcAbsentTimeout s := rfl
@[simp] theorem exec_encoderTick {s : State} : exec (.encoderTick) s = execEncoderTick s := rfl
@[simp] theorem exec_positionFrame {s : State} {port frame} : exec (.positionFrame port frame) s = execPositionFrame port frame s := rfl
@[simp] theorem exec_axisFusion {s : State} {ax} : exec (.axisFusion ax) s = execAxisFusion ax s := rfl
@[simp] theorem exec_encoderIdentityRead {s : State} {port answer} : exec (.encoderIdentityRead port answer) s = execEncoderIdentityRead port answer s := rfl
@[simp] theorem exec_referenceMarkEdge {s : State} {port rising} : exec (.referenceMarkEdge port rising) s = execReferenceMarkEdge port rising s := rfl
@[simp] theorem exec_markResolve {s : State} {port} : exec (.markResolve port) s = execMarkResolve port s := rfl
@[simp] theorem exec_switchEdge {s : State} {port input level} : exec (.switchEdge port input level) s = execSwitchEdge port input level s := rfl
@[simp] theorem exec_emuStep {s : State} {emu} : exec (.emuStep emu) s = execEmuStep emu s := rfl
@[simp] theorem exec_permitInChange {s : State} {level} : exec (.permitInChange level) s = execPermitInChange level s := rfl
@[simp] theorem exec_ackRecord {s : State} {ret rec} : exec (.ackRecord ret rec) s = execAckRecord ret rec s := rfl
@[simp] theorem exec_statusTimeout {s : State} {lane} : exec (.statusTimeout lane) s = execStatusTimeout lane s := rfl
@[simp] theorem exec_tempRecord {s : State} {ret rec} : exec (.tempRecord ret rec) s = execTempRecord ret rec s := rfl
@[simp] theorem exec_thermalStaleTimeout {s : State} {ch} : exec (.thermalStaleTimeout ch) s = execThermalStaleTimeout ch s := rfl
@[simp] theorem exec_stuckRecord {s : State} {ret rec} : exec (.stuckRecord ret rec) s = execStuckRecord ret rec s := rfl
@[simp] theorem exec_mgmtRecord {s : State} {ret rec} : exec (.mgmtRecord ret rec) s = execMgmtRecord ret rec s := rfl
@[simp] theorem exec_mgmtRetryTimeout {s : State} {lane} : exec (.mgmtRetryTimeout lane) s = execMgmtRetryTimeout lane s := rfl
@[simp] theorem exec_linkstatRecord {s : State} {ret rec} : exec (.linkstatRecord ret rec) s = execLinkstatRecord ret rec s := rfl
@[simp] theorem exec_laneDegradedExit {s : State} {lane} : exec (.laneDegradedExit lane) s = execLaneDegradedExit lane s := rfl
@[simp] theorem exec_returnLaneLost {s : State} {loss} : exec (.returnLaneLost loss) s = execReturnLaneLost loss s := rfl
@[simp] theorem exec_laneDown {s : State} {lane} : exec (.laneDown lane) s = execLaneDown lane s := rfl
@[simp] theorem exec_laneBringupRetry {s : State} {lane} : exec (.laneBringupRetry lane) s = execLaneBringupRetry lane s := rfl
@[simp] theorem exec_laneTestComplete {s : State} {lane errors margin} : exec (.laneTestComplete lane errors margin) s = execLaneTestComplete lane errors margin s := rfl
@[simp] theorem exec_mapsetEchoTimeout {s : State} : exec (.mapsetEchoTimeout) s = execMapsetEchoTimeout s := rfl
@[simp] theorem exec_syncBlockSend {s : State} : exec (.syncBlockSend) s = execSyncBlockSend s := rfl
@[simp] theorem exec_blankFrame {s : State} : exec (.blankFrame) s = execBlankFrame s := rfl
@[simp] theorem exec_plateAttachTimeout {s : State} : exec (.plateAttachTimeout) s = execPlateAttachTimeout s := rfl
@[simp] theorem exec_historyIdleDecay {s : State} : exec (.historyIdleDecay) s = execHistoryIdleDecay s := rfl
@[simp] theorem exec_historyZero {s : State} : exec (.historyZero) s = execHistoryZero s := rfl
@[simp] theorem exec_historyParityError {s : State} {b} : exec (.historyParityError b) s = execHistoryParityError b s := rfl
@[simp] theorem exec_enforcedIdleEnd {s : State} : exec (.enforcedIdleEnd) s = execEnforcedIdleEnd s := rfl
@[simp] theorem exec_gainParityError {s : State} {b} : exec (.gainParityError b) s = execGainParityError b s := rfl
@[simp] theorem exec_windowEccUncorrectable {s : State} {bank read} : exec (.windowEccUncorrectable bank read) s = execWindowEccUncorrectable bank read s := rfl
@[simp] theorem exec_datapathMismatch {s : State} {unit} : exec (.datapathMismatch unit) s = execDatapathMismatch unit s := rfl
@[simp] theorem exec_pclkCheck {s : State} {cam khz} : exec (.pclkCheck cam khz) s = execPclkCheck cam khz s := rfl
@[simp] theorem exec_camFrameStart {s : State} {cam} : exec (.camFrameStart cam) s = execCamFrameStart cam s := rfl
@[simp] theorem exec_camFrameEnd {s : State} {cam} : exec (.camFrameEnd cam) s = execCamFrameEnd cam s := rfl
@[simp] theorem exec_camLineStart {s : State} {cam} : exec (.camLineStart cam) s = execCamLineStart cam s := rfl
@[simp] theorem exec_camLineReceived {s : State} {cam pixels} : exec (.camLineReceived cam pixels) s = execCamLineReceived cam pixels s := rfl
@[simp] theorem exec_pipelineLineComplete {s : State} : exec (.pipelineLineComplete) s = execPipelineLineComplete s := rfl
@[simp] theorem exec_locatorComplete {s : State} : exec (.locatorComplete) s = execLocatorComplete s := rfl
@[simp] theorem exec_camFramePublish {s : State} {cam} : exec (.camFramePublish cam) s = execCamFramePublish cam s := rfl
@[simp] theorem exec_i2cTransferComplete {s : State} {cam ack data} : exec (.i2cTransferComplete cam ack data) s = execI2cTransferComplete cam ack data s := rfl
@[simp] theorem exec_camHealthPoll {s : State} {cam ack} : exec (.camHealthPoll cam ack) s = execCamHealthPoll cam ack s := rfl
@[simp] theorem exec_camParityError {s : State} {cam unit} : exec (.camParityError cam unit) s = execCamParityError cam unit s := rfl
@[simp] theorem exec_bcSample {s : State} {codes} : exec (.bcSample codes) s = execBcSample codes s := rfl
@[simp] theorem exec_acquisitionComplete {s : State} {mb parity} : exec (.acquisitionComplete mb parity) s = execAcquisitionComplete mb parity s := rfl
@[simp] theorem exec_rtdConversion {s : State} {ch mohm} : exec (.rtdConversion ch mohm) s = execRtdConversion ch mohm s := rfl
@[simp] theorem exec_monitorRead {s : State} {values} : exec (.monitorRead values) s = execMonitorRead values s := rfl
@[simp] theorem exec_autoTrimStart {s : State} : exec (.autoTrimStart) s = execAutoTrimStart s := rfl
@[simp] theorem exec_trimRunComplete {s : State} {item inRange c1 c2 r1 r2 nvOk} : exec (.trimRunComplete item inRange c1 c2 r1 r2 nvOk) s = execTrimRunComplete item inRange c1 c2 r1 r2 nvOk s := rfl
@[simp] theorem exec_gainRunStepComplete {s : State} : exec (.gainRunStepComplete) s = execGainRunStepComplete s := rfl
@[simp] theorem exec_gainPairEnd {s : State} : exec (.gainPairEnd) s = execGainPairEnd s := rfl
@[simp] theorem exec_descriptorFetch {s : State} {chan busErr} : exec (.descriptorFetch chan busErr) s = execDescriptorFetch chan busErr s := rfl
@[simp] theorem exec_fetchTimeout {s : State} {chan} : exec (.fetchTimeout chan) s = execFetchTimeout chan s := rfl
@[simp] theorem exec_burstIssue {s : State} : exec (.burstIssue) s = execBurstIssue s := rfl
@[simp] theorem exec_burstComplete {s : State} {chan how} : exec (.burstComplete chan how) s = execBurstComplete chan how s := rfl
@[simp] theorem exec_ptpMessageReceive {s : State} {port msg} : exec (.ptpMessageReceive port msg) s = execPtpMessageReceive port msg s := rfl
@[simp] theorem exec_delayReqSend {s : State} {d} : exec (.delayReqSend d) s = execDelayReqSend d s := rfl
@[simp] theorem exec_announceTimeout {s : State} {d} : exec (.announceTimeout d) s = execAnnounceTimeout d s := rfl
@[simp] theorem exec_domainRevert {s : State} : exec (.domainRevert) s = execDomainRevert s := rfl
@[simp] theorem exec_hostLinkDown {s : State} {port} : exec (.hostLinkDown port) s = execHostLinkDown port s := rfl
@[simp] theorem exec_hostLinkUp {s : State} {port} : exec (.hostLinkUp port) s = execHostLinkUp port s := rfl
@[simp] theorem exec_hostLeaseExpiry {s : State} {port} : exec (.hostLeaseExpiry port) s = execHostLeaseExpiry port s := rfl
@[simp] theorem exec_waitingCommandComplete {s : State} {mb} : exec (.waitingCommandComplete mb) s = execWaitingCommandComplete mb s := rfl
@[simp] theorem exec_marshalHeartbeat {s : State} {m} : exec (.marshalHeartbeat m) s = execMarshalHeartbeat m s := rfl
@[simp] theorem exec_heartbeatTimeout {s : State} {m selfReported} : exec (.heartbeatTimeout m selfReported) s = execHeartbeatTimeout m selfReported s := rfl
@[simp] theorem exec_failoverReplayComplete {s : State} {replayed} : exec (.failoverReplayComplete replayed) s = execFailoverReplayComplete replayed s := rfl
@[simp] theorem exec_marshalBootComplete {s : State} {m ok} : exec (.marshalBootComplete m ok) s = execMarshalBootComplete m ok s := rfl
@[simp] theorem exec_safeStateExit {s : State} : exec (.safeStateExit) s = execSafeStateExit s := rfl
@[simp] theorem exec_faultLogFlush {s : State} : exec (.faultLogFlush) s = execFaultLogFlush s := rfl
@[simp] theorem exec_fwSwitchRoleSwap {s : State} : exec (.fwSwitchRoleSwap) s = execFwSwitchRoleSwap s := rfl
@[simp] theorem exec_fwSwitchOldReboot {s : State} : exec (.fwSwitchOldReboot) s = execFwSwitchOldReboot s := rfl
@[simp] theorem exec_selfTestAtIdle {s : State} {node pass} : exec (.selfTestAtIdle node pass) s = execSelfTestAtIdle node pass s := rfl
@[simp] theorem exec_vinQualified {s : State} : exec (.vinQualified) s = execVinQualified s := rfl
@[simp] theorem exec_startInstant {s : State} {report} : exec (.startInstant report) s = execStartInstant report s := rfl
@[simp] theorem exec_railEnableTimeout {s : State} {rail} : exec (.railEnableTimeout rail) s = execRailEnableTimeout rail s := rfl
@[simp] theorem exec_railRetry {s : State} : exec (.railRetry) s = execRailRetry s := rfl
@[simp] theorem exec_supplyOutOfRange {s : State} {rail} : exec (.supplyOutOfRange rail) s = execSupplyOutOfRange rail s := rfl
@[simp] theorem exec_supplyLossWarning {s : State} : exec (.supplyLossWarning) s = execSupplyLossWarning s := rfl
@[simp] theorem exec_refLost {s : State} : exec (.refLost) s = execRefLost s := rfl
@[simp] theorem exec_pllUnlock {s : State} {clk} : exec (.pllUnlock clk) s = execPllUnlock clk s := rfl
@[simp] theorem exec_pllRelockAttempt {s : State} {clk locked} : exec (.pllRelockAttempt clk locked) s = execPllRelockAttempt clk locked s := rfl
@[simp] theorem exec_resetN {s : State} : exec (.resetN) s = execResetN s := rfl
@[simp] theorem exec_perstN {s : State} {port} : exec (.perstN port) s = execPerstN port s := rfl
@[simp] theorem exec_thermalShutdown {s : State} : exec (.thermalShutdown) s = execThermalShutdown s := rfl
@[simp] theorem exec_smbusAlertResponse {s : State} : exec (.smbusAlertResponse) s = execSmbusAlertResponse s := rfl
@[simp] theorem exec_jtagInstruction {s : State} {ins} : exec (.jtagInstruction ins) s = execJtagInstruction ins s := rfl
@[simp] theorem exec_netPortDown {s : State} {port} : exec (.netPortDown port) s = execNetPortDown port s := rfl
@[simp] theorem exec_refRestored {s : State} : exec (.refRestored) s = execRefRestored s := rfl
@[simp] theorem exec_aonRailOff {s : State} : exec (.aonRailOff) s = execAonRailOff s := rfl
@[simp] theorem exec_counterFault {s : State} {which} : exec (.counterFault which) s = execCounterFault which s := rfl
@[simp] theorem exec_refereeSelfCheck {s : State} : exec (.refereeSelfCheck) s = execRefereeSelfCheck s := rfl
@[simp] theorem exec_agemaxExpiry {s : State} {item} : exec (.agemaxExpiry item) s = execAgemaxExpiry item s := rfl
@[simp] theorem exec_goWaitmaxExpiry {s : State} {mb} : exec (.goWaitmaxExpiry mb) s = execGoWaitmaxExpiry mb s := rfl
@[simp] theorem exec_returnBlockLock {s : State} {ret} : exec (.returnBlockLock ret) s = execReturnBlockLock ret s := rfl
@[simp] theorem exec_trainPresetExpiry {s : State} {lane margin} : exec (.trainPresetExpiry lane margin) s = execTrainPresetExpiry lane margin s := rfl

end Sys2Proof.Machine
end

