-- ==== Sys2Proof/Laws/Memory.lean ====
section
/-!
SUPPORT. The memory operations: reading after writing, what a write leaves, and the canonical form kept.
-/

namespace Sys2Proof.Machine

theorem readCell_append_left {xs ys : List Host.Cell} {a : Nat} (h : ∀ c ∈ xs, c.1 ≠ a) :
    readCell (xs ++ ys) a = readCell ys a := by
  induction xs with
  | nil => rfl
  | cons c cs ih =>
    have h1 : c.1 ≠ a := h c (by simp)
    simp only [List.cons_append, readCell, h1, if_false]
    exact ih fun d hd => h d (by simp [hd])

theorem readCell_none {xs : List Host.Cell} {a : Nat} (h : ∀ c ∈ xs, c.1 ≠ a) : readCell xs a = 0 := by
  have := readCell_append_left (ys := []) h
  simpa [readCell] using this

theorem readCell_append_right {xs ys : List Host.Cell} {a : Nat} (h : ∀ c ∈ ys, c.1 ≠ a) :
    readCell (xs ++ ys) a = readCell xs a := by
  induction xs with
  | nil => simpa [readCell] using readCell_none h
  | cons c cs ih => simp only [List.cons_append, readCell, ih]

theorem readCell_filter {xs : List Host.Cell} {a : Nat} (p : Host.Cell → Bool)
    (h : ∀ c ∈ xs, c.1 = a → p c = true) : readCell (xs.filter p) a = readCell xs a := by
  induction xs with
  | nil => rfl
  | cons c cs ih =>
    have ih := ih fun d hd => h d (by simp [hd])
    by_cases hc : c.1 = a
    · have hp := h c (by simp) hc
      rw [List.filter_cons_of_pos hp]
      simp [readCell, hc]
    · by_cases hp : p c = true
      · rw [List.filter_cons_of_pos hp]
        simp [readCell, hc, ih]
      · rw [List.filter_cons_of_neg hp]
        simp [readCell, hc, ih]

theorem listedCells_key {bs : List Byte} {a : Nat} {c : Host.Cell} (h : c ∈ listedCells a bs) :
    a ≤ c.1 ∧ c.1 < a + bs.length ∧ c.2 ≠ 0 := by
  induction bs generalizing a with
  | nil => simp [listedCells] at h
  | cons b bs ih =>
    simp only [listedCells] at h
    split at h
    · have := ih h
      simp only [List.length_cons]
      exact ⟨by omega, by omega, this.2.2⟩
    · rename_i hb
      simp only [List.mem_cons] at h
      rcases h with rfl | h
      · exact ⟨Nat.le_refl _, by simp, hb⟩
      · have := ih h
        simp only [List.length_cons]
        exact ⟨by omega, by omega, this.2.2⟩

theorem readCell_listedCells {bs : List Byte} {a i : Nat} :
    readCell (listedCells a bs) (a + i) = bs.getD i 0 := by
  induction bs generalizing a i with
  | nil => simp [listedCells, readCell]
  | cons b bs ih =>
    cases i with
    | zero =>
      simp only [listedCells, Nat.add_zero, List.getD_cons_zero]
      split
      · rename_i hb
        rw [hb]
        exact readCell_none fun c hc => by have := listedCells_key hc; omega
      · simp [readCell]
    | succ i =>
      simp only [listedCells, List.getD_cons_succ]
      have e : a + (i + 1) = a + 1 + i := by omega
      split
      · rw [e, ih]
      · have hne : a ≠ a + (i + 1) := by omega
        simp only [readCell, hne, if_false]
        rw [e, ih]

/-- A read of a stored byte answers what was stored. -/
theorem readCell_writeCells_in {m : List Host.Cell} {a i : Nat} {bs : List Byte} (h : i < bs.length) :
    readCell (writeCells m a bs) (a + i) = bs.getD i 0 := by
  unfold writeCells
  rw [readCell_append_right, readCell_append_left, readCell_listedCells]
  · intro c hc
    simp only [List.mem_filter, decide_eq_true_eq] at hc
    omega
  · intro c hc
    simp only [List.mem_filter, decide_eq_true_eq] at hc
    omega

/-- A write leaves every other byte alone. -/
theorem readCell_writeCells_out {m : List Host.Cell} {a x : Nat} {bs : List Byte}
    (h : x < a ∨ a + bs.length ≤ x) : readCell (writeCells m a bs) x = readCell m x := by
  unfold writeCells
  rcases h with h | h
  · rw [readCell_append_right, readCell_append_right, readCell_filter]
    · intro c _ hx
      simp only [decide_eq_true_eq]
      omega
    · intro c hc
      have := listedCells_key hc
      omega
    · intro c hc
      simp only [List.mem_filter, decide_eq_true_eq] at hc
      omega
  · rw [readCell_append_left, readCell_filter]
    · intro c _ hx
      simp only [decide_eq_true_eq]
      omega
    · intro c hc
      simp only [List.mem_append, List.mem_filter, decide_eq_true_eq] at hc
      rcases hc with hc | hc
      · omega
      · have := listedCells_key hc
        omega

theorem listedCells_wf (a : Nat) (bs : List Byte) : cellsWf (listedCells a bs) := by
  refine ⟨?_, fun c hc => (listedCells_key hc).2.2⟩
  induction bs generalizing a with
  | nil => simp [listedCells]
  | cons b bs ih =>
    simp only [listedCells]
    split
    · exact ih (a + 1)
    · refine List.pairwise_cons.2 ⟨fun c hc => ?_, ih (a + 1)⟩
      have := (listedCells_key hc).1
      simp only
      omega

theorem cellsWf_nil : cellsWf [] := ⟨List.Pairwise.nil, fun _ hc => absurd hc List.not_mem_nil⟩

/-- A write keeps the canonical form. -/
theorem writeCells_wf {m : List Host.Cell} (h : cellsWf m) (a : Nat) (bs : List Byte) :
    cellsWf (writeCells m a bs) := by
  obtain ⟨hp, hz⟩ := h
  unfold writeCells
  refine ⟨List.pairwise_append.2 ⟨List.pairwise_append.2
    ⟨hp.filter _, (listedCells_wf a bs).1, ?_⟩, hp.filter _, ?_⟩, ?_⟩
  · intro c hc d hd
    simp only [List.mem_filter, decide_eq_true_eq] at hc
    have := listedCells_key hd
    omega
  · intro c hc d hd
    simp only [List.mem_append, List.mem_filter, decide_eq_true_eq] at hc hd
    rcases hc with hc | hc
    · omega
    · have := listedCells_key hc
      omega
  · intro c hc
    simp only [List.mem_append, List.mem_filter] at hc
    rcases hc with (hc | hc) | hc
    · exact hz c hc.1
    · exact (listedCells_key hc).2.2
    · exact hz c hc.1

theorem Mem.write_wf {m : Mem} (h : Memory.wf m) (sp : BitVec 4) (a : Nat) (bs : List Byte) :
    Memory.wf (m.write sp a bs) := by
  obtain ⟨h1, h2, h3, h4⟩ := h
  unfold Mem.write
  split
  · exact ⟨writeCells_wf h1 a bs, h2, h3, h4⟩
  · split
    · exact ⟨h1, writeCells_wf h2 a bs, h3, h4⟩
    · split
      · exact ⟨h1, h2, writeCells_wf h3 a bs, h4⟩
      · split
        · exact ⟨h1, h2, h3, writeCells_wf h4 a bs⟩
        · exact ⟨h1, h2, h3, h4⟩

theorem Mem.space_write (m : Mem) (sp sq : BitVec 4) (a : Nat) (bs : List Byte) :
    (m.write sp a bs).space sq =
      if sq = sp ∧ sp.toNat < 4 then writeCells (m.space sq) a bs else m.space sq := by
  unfold Mem.write Mem.space spLanding spHostA spHostB spCtrl
  by_cases h : sq = sp
  · subst h
    by_cases h0 : sq = 0#4
    · simp [h0]
    by_cases h1 : sq = 1#4
    · simp [h1]
    by_cases h2 : sq = 2#4
    · simp [h2]
    by_cases h3 : sq = 3#4
    · simp [h3]
    have : ¬ sq.toNat < 4 := by
      simp only [← BitVec.toNat_inj, BitVec.toNat_ofNat] at h0 h1 h2 h3
      omega
    simp [h0, h1, h2, h3, this]
  · simp only [h, false_and, if_false]
    repeat' split
    all_goals first | rfl | (subst_vars; contradiction)

/-- A read of a byte just stored in one of the four spaces. -/
theorem Mem.readCell_write_in (m : Mem) {sp : BitVec 4} (hsp : sp.toNat < 4) {a i : Nat} {bs : List Byte}
    (h : i < bs.length) : readCell ((m.write sp a bs).space sp) (a + i) = bs.getD i 0 := by
  rw [Mem.space_write]
  simp [hsp, readCell_writeCells_in h]

/-- A write leaves every byte of another space, and every other byte of its own. -/
theorem Mem.readCell_write_out (m : Mem) {sp sq : BitVec 4} {a x : Nat} {bs : List Byte}
    (h : sq = sp → x < a ∨ a + bs.length ≤ x) :
    readCell ((m.write sp a bs).space sq) x = readCell (m.space sq) x := by
  rw [Mem.space_write]
  split
  · rename_i hc
    rw [readCell_writeCells_out (h hc.1)]
  · rfl

/-! ### Words read back -/

/-- The number of the bytes of a number. -/
theorem leNat_leBytes (n v : Nat) : leNat (leBytes n v) = v % 256 ^ n := by
  induction n generalizing v with
  | zero => simp [leBytes, leNat, Nat.mod_one]
  | succ n ih =>
    rw [leBytes, leNat, ih, BitVec.toNat_ofNat, Nat.pow_succ 256, Nat.mul_comm (256 ^ n) 256, Nat.mod_mul]

theorem leBytes_length (n v : Nat) : (leBytes n v).length = n := by
  induction n generalizing v with
  | zero => rfl
  | succ n ih => simp [leBytes, ih]

theorem wordsBytes_cons (w : Word) (ws : List Word) : wordsBytes (w :: ws) = wordBytes w ++ wordsBytes ws := rfl

/-- Word `i` of the bytes of a list of words. -/
theorem wordsBytes_getD (ws : List Word) (i j : Nat) (h : i < ws.length) (hj : j < 16) :
    (wordsBytes ws).getD (16 * i + j) 0 = (wordBytes (ws.getD i 0)).getD j 0 := by
  induction ws generalizing i with
  | nil => exact absurd h (Nat.not_lt_zero _)
  | cons w ws ih =>
    have hl : (wordBytes w).length = 16 := leBytes_length _ _
    rw [wordsBytes_cons]
    match i with
    | 0 =>
      rw [List.getD_eq_getElem?_getD, List.getElem?_append_left (by omega), ← List.getD_eq_getElem?_getD]
      simp
    | i + 1 =>
      rw [List.getD_eq_getElem?_getD, List.getElem?_append_right (by omega), hl,
        show 16 * (i + 1) + j - 16 = 16 * i + j by omega, ← List.getD_eq_getElem?_getD,
        ih i (by simpa using h)]
      simp

theorem wordsBytes_length (ws : List Word) : (wordsBytes ws).length = 16 * ws.length := by
  induction ws with
  | nil => rfl
  | cons w ws ih =>
    rw [wordsBytes_cons, List.length_append, ih, List.length_cons, show (wordBytes w).length = 16 from leBytes_length _ _]
    omega

/-- Where a space holds the bytes of some words, those words are read. -/
theorem Mem.words_of_bytes (m : Mem) (sp : BitVec 4) (a : Nat) (ws : List Word)
    (h : ∀ i, i < 16 * ws.length → readCell (m.space sp) (a + i) = (wordsBytes ws).getD i 0) :
    m.words sp a ws.length = ws := by
  have word : ∀ i, i < ws.length → BitVec.ofNat 128 (leNat (m.bytes sp (a + 16 * i) 16)) = ws.getD i 0 := by
    intro i hi
    have hb : m.bytes sp (a + 16 * i) 16 = wordBytes (ws.getD i 0) := by
      apply List.ext_getElem
      · simp [Mem.bytes, wordBytes, leBytes_length]
      · intro j h1 h2
        have hj : j < 16 := by simpa [Mem.bytes] using h1
        simp only [Mem.bytes, List.getElem_map, List.getElem_range]
        rw [Nat.add_assoc, h _ (by omega), wordsBytes_getD ws i j hi hj, List.getD_eq_getElem?_getD,
          List.getElem?_eq_getElem h2]
        rfl
    rw [hb, wordBytes, leNat_leBytes]
    apply BitVec.eq_of_toNat_eq
    rw [BitVec.toNat_ofNat]
    have := (ws.getD i 0).isLt
    omega
  apply List.ext_getElem
  · simp [Mem.words]
  · intro i h1 h2
    simp only [Mem.words, List.getElem_map, List.getElem_range]
    rw [word i h2]
    simp [List.getD_eq_getElem?_getD, h2]

/-- Words stored in an empty space read back. -/
theorem words_listedCells (m : Mem) (sp : BitVec 4) (a : Nat) (ws : List Word)
    (h : m.space sp = listedCells a (wordsBytes ws)) : m.words sp a ws.length = ws :=
  m.words_of_bytes sp a ws fun i _ => by rw [h, readCell_listedCells]

/-- Words just stored read back. -/
theorem Mem.words_write_in (m : Mem) {sp : BitVec 4} (hsp : sp.toNat < 4) (a : Nat) (ws : List Word) :
    (m.write sp a (wordsBytes ws)).words sp a ws.length = ws :=
  Mem.words_of_bytes _ sp a ws fun i hi => m.readCell_write_in hsp (by rw [wordsBytes_length]; exact hi)

/-- Words away from a write read as before. -/
theorem Mem.words_write_out (m : Mem) {sp sq : BitVec 4} {a b n : Nat} {bs : List Byte}
    (h : sq = sp → a + 16 * n ≤ b ∨ b + bs.length ≤ a) : (m.write sp b bs).words sq a n = m.words sq a n := by
  unfold Mem.words Mem.bytes
  apply List.map_congr_left
  intro i hi
  rw [List.mem_range] at hi
  congr 2
  apply List.map_congr_left
  intro j hj
  rw [List.mem_range] at hj
  exact m.readCell_write_out fun e => by have := h e; omega

end Sys2Proof.Machine
end

