-- ==== Sys2Proof/Laws/State.lean ====
section
/-!
SUPPORT. What each update of one part of the state leaves in every field: one lemma a field and update.
-/

namespace Sys2Proof.Machine

section
variable (s : State) (f : TimeBase → TimeBase)
@[simp] theorem State.onTime_time : (s.onTime f).time = f s.time := rfl
@[simp] theorem State.onTime_host : (s.onTime f).host = s.host := rfl
@[simp] theorem State.onTime_jobs : (s.onTime f).jobs = s.jobs := rfl
@[simp] theorem State.onTime_render : (s.onTime f).render = s.render := rfl
@[simp] theorem State.onTime_land : (s.onTime f).land = s.land := rfl
@[simp] theorem State.onTime_mem : (s.onTime f).mem = s.mem := rfl
@[simp] theorem State.onTime_mc : (s.onTime f).mc = s.mc := rfl
@[simp] theorem State.onTime_play : (s.onTime f).play = s.play := rfl
@[simp] theorem State.onTime_beam : (s.onTime f).beam = s.beam := rfl
@[simp] theorem State.onTime_stage : (s.onTime f).stage = s.stage := rfl
@[simp] theorem State.onTime_pacer : (s.onTime f).pacer = s.pacer := rfl
@[simp] theorem State.onTime_link : (s.onTime f).link = s.link := rfl
@[simp] theorem State.onTime_plate : (s.onTime f).plate = s.plate := rfl
@[simp] theorem State.onTime_cams : (s.onTime f).cams = s.cams := rfl
@[simp] theorem State.onTime_meas : (s.onTime f).meas = s.meas := rfl
@[simp] theorem State.onTime_dma : (s.onTime f).dma = s.dma := rfl
@[simp] theorem State.onTime_repair : (s.onTime f).repair = s.repair := rfl
@[simp] theorem State.onTime_ref : (s.onTime f).ref = s.ref := rfl
@[simp] theorem State.onTime_fw : (s.onTime f).fw = s.fw := rfl
@[simp] theorem State.onTime_power : (s.onTime f).power = s.power := rfl
@[simp] theorem State.onTime_log : (s.onTime f).log = s.log := rfl
@[simp] theorem State.onTime_ledger : (s.onTime f).ledger = s.ledger := rfl
@[simp] theorem State.onTime_trace : (s.onTime f).trace = s.trace := rfl
@[simp] theorem State.onTime_mgmt : (s.onTime f).mgmt = s.mgmt := rfl
@[simp] theorem State.onTime_fresh : (s.onTime f).fresh = s.fresh := rfl
@[simp] theorem State.onTime_out : (s.onTime f).out = s.out := rfl
@[simp] theorem State.onTime_pending : (s.onTime f).pending = s.pending := rfl
end

section
variable (s : State) (f : HostIf → HostIf)
@[simp] theorem State.onHost_time : (s.onHost f).time = s.time := rfl
@[simp] theorem State.onHost_host : (s.onHost f).host = f s.host := rfl
@[simp] theorem State.onHost_jobs : (s.onHost f).jobs = s.jobs := rfl
@[simp] theorem State.onHost_render : (s.onHost f).render = s.render := rfl
@[simp] theorem State.onHost_land : (s.onHost f).land = s.land := rfl
@[simp] theorem State.onHost_mem : (s.onHost f).mem = s.mem := rfl
@[simp] theorem State.onHost_mc : (s.onHost f).mc = s.mc := rfl
@[simp] theorem State.onHost_play : (s.onHost f).play = s.play := rfl
@[simp] theorem State.onHost_beam : (s.onHost f).beam = s.beam := rfl
@[simp] theorem State.onHost_stage : (s.onHost f).stage = s.stage := rfl
@[simp] theorem State.onHost_pacer : (s.onHost f).pacer = s.pacer := rfl
@[simp] theorem State.onHost_link : (s.onHost f).link = s.link := rfl
@[simp] theorem State.onHost_plate : (s.onHost f).plate = s.plate := rfl
@[simp] theorem State.onHost_cams : (s.onHost f).cams = s.cams := rfl
@[simp] theorem State.onHost_meas : (s.onHost f).meas = s.meas := rfl
@[simp] theorem State.onHost_dma : (s.onHost f).dma = s.dma := rfl
@[simp] theorem State.onHost_repair : (s.onHost f).repair = s.repair := rfl
@[simp] theorem State.onHost_ref : (s.onHost f).ref = s.ref := rfl
@[simp] theorem State.onHost_fw : (s.onHost f).fw = s.fw := rfl
@[simp] theorem State.onHost_power : (s.onHost f).power = s.power := rfl
@[simp] theorem State.onHost_log : (s.onHost f).log = s.log := rfl
@[simp] theorem State.onHost_ledger : (s.onHost f).ledger = s.ledger := rfl
@[simp] theorem State.onHost_trace : (s.onHost f).trace = s.trace := rfl
@[simp] theorem State.onHost_mgmt : (s.onHost f).mgmt = s.mgmt := rfl
@[simp] theorem State.onHost_fresh : (s.onHost f).fresh = s.fresh := rfl
@[simp] theorem State.onHost_out : (s.onHost f).out = s.out := rfl
@[simp] theorem State.onHost_pending : (s.onHost f).pending = s.pending := rfl
end

section
variable (s : State) (f : Jobs → Jobs)
@[simp] theorem State.onJobs_time : (s.onJobs f).time = s.time := rfl
@[simp] theorem State.onJobs_host : (s.onJobs f).host = s.host := rfl
@[simp] theorem State.onJobs_jobs : (s.onJobs f).jobs = f s.jobs := rfl
@[simp] theorem State.onJobs_render : (s.onJobs f).render = s.render := rfl
@[simp] theorem State.onJobs_land : (s.onJobs f).land = s.land := rfl
@[simp] theorem State.onJobs_mem : (s.onJobs f).mem = s.mem := rfl
@[simp] theorem State.onJobs_mc : (s.onJobs f).mc = s.mc := rfl
@[simp] theorem State.onJobs_play : (s.onJobs f).play = s.play := rfl
@[simp] theorem State.onJobs_beam : (s.onJobs f).beam = s.beam := rfl
@[simp] theorem State.onJobs_stage : (s.onJobs f).stage = s.stage := rfl
@[simp] theorem State.onJobs_pacer : (s.onJobs f).pacer = s.pacer := rfl
@[simp] theorem State.onJobs_link : (s.onJobs f).link = s.link := rfl
@[simp] theorem State.onJobs_plate : (s.onJobs f).plate = s.plate := rfl
@[simp] theorem State.onJobs_cams : (s.onJobs f).cams = s.cams := rfl
@[simp] theorem State.onJobs_meas : (s.onJobs f).meas = s.meas := rfl
@[simp] theorem State.onJobs_dma : (s.onJobs f).dma = s.dma := rfl
@[simp] theorem State.onJobs_repair : (s.onJobs f).repair = s.repair := rfl
@[simp] theorem State.onJobs_ref : (s.onJobs f).ref = s.ref := rfl
@[simp] theorem State.onJobs_fw : (s.onJobs f).fw = s.fw := rfl
@[simp] theorem State.onJobs_power : (s.onJobs f).power = s.power := rfl
@[simp] theorem State.onJobs_log : (s.onJobs f).log = s.log := rfl
@[simp] theorem State.onJobs_ledger : (s.onJobs f).ledger = s.ledger := rfl
@[simp] theorem State.onJobs_trace : (s.onJobs f).trace = s.trace := rfl
@[simp] theorem State.onJobs_mgmt : (s.onJobs f).mgmt = s.mgmt := rfl
@[simp] theorem State.onJobs_fresh : (s.onJobs f).fresh = s.fresh := rfl
@[simp] theorem State.onJobs_out : (s.onJobs f).out = s.out := rfl
@[simp] theorem State.onJobs_pending : (s.onJobs f).pending = s.pending := rfl
end

section
variable (s : State) (f : Render → Render)
@[simp] theorem State.onRender_time : (s.onRender f).time = s.time := rfl
@[simp] theorem State.onRender_host : (s.onRender f).host = s.host := rfl
@[simp] theorem State.onRender_jobs : (s.onRender f).jobs = s.jobs := rfl
@[simp] theorem State.onRender_render : (s.onRender f).render = f s.render := rfl
@[simp] theorem State.onRender_land : (s.onRender f).land = s.land := rfl
@[simp] theorem State.onRender_mem : (s.onRender f).mem = s.mem := rfl
@[simp] theorem State.onRender_mc : (s.onRender f).mc = s.mc := rfl
@[simp] theorem State.onRender_play : (s.onRender f).play = s.play := rfl
@[simp] theorem State.onRender_beam : (s.onRender f).beam = s.beam := rfl
@[simp] theorem State.onRender_stage : (s.onRender f).stage = s.stage := rfl
@[simp] theorem State.onRender_pacer : (s.onRender f).pacer = s.pacer := rfl
@[simp] theorem State.onRender_link : (s.onRender f).link = s.link := rfl
@[simp] theorem State.onRender_plate : (s.onRender f).plate = s.plate := rfl
@[simp] theorem State.onRender_cams : (s.onRender f).cams = s.cams := rfl
@[simp] theorem State.onRender_meas : (s.onRender f).meas = s.meas := rfl
@[simp] theorem State.onRender_dma : (s.onRender f).dma = s.dma := rfl
@[simp] theorem State.onRender_repair : (s.onRender f).repair = s.repair := rfl
@[simp] theorem State.onRender_ref : (s.onRender f).ref = s.ref := rfl
@[simp] theorem State.onRender_fw : (s.onRender f).fw = s.fw := rfl
@[simp] theorem State.onRender_power : (s.onRender f).power = s.power := rfl
@[simp] theorem State.onRender_log : (s.onRender f).log = s.log := rfl
@[simp] theorem State.onRender_ledger : (s.onRender f).ledger = s.ledger := rfl
@[simp] theorem State.onRender_trace : (s.onRender f).trace = s.trace := rfl
@[simp] theorem State.onRender_mgmt : (s.onRender f).mgmt = s.mgmt := rfl
@[simp] theorem State.onRender_fresh : (s.onRender f).fresh = s.fresh := rfl
@[simp] theorem State.onRender_out : (s.onRender f).out = s.out := rfl
@[simp] theorem State.onRender_pending : (s.onRender f).pending = s.pending := rfl
end

section
variable (s : State) (f : Landing → Landing)
@[simp] theorem State.onLand_time : (s.onLand f).time = s.time := rfl
@[simp] theorem State.onLand_host : (s.onLand f).host = s.host := rfl
@[simp] theorem State.onLand_jobs : (s.onLand f).jobs = s.jobs := rfl
@[simp] theorem State.onLand_render : (s.onLand f).render = s.render := rfl
@[simp] theorem State.onLand_land : (s.onLand f).land = f s.land := rfl
@[simp] theorem State.onLand_mem : (s.onLand f).mem = s.mem := rfl
@[simp] theorem State.onLand_mc : (s.onLand f).mc = s.mc := rfl
@[simp] theorem State.onLand_play : (s.onLand f).play = s.play := rfl
@[simp] theorem State.onLand_beam : (s.onLand f).beam = s.beam := rfl
@[simp] theorem State.onLand_stage : (s.onLand f).stage = s.stage := rfl
@[simp] theorem State.onLand_pacer : (s.onLand f).pacer = s.pacer := rfl
@[simp] theorem State.onLand_link : (s.onLand f).link = s.link := rfl
@[simp] theorem State.onLand_plate : (s.onLand f).plate = s.plate := rfl
@[simp] theorem State.onLand_cams : (s.onLand f).cams = s.cams := rfl
@[simp] theorem State.onLand_meas : (s.onLand f).meas = s.meas := rfl
@[simp] theorem State.onLand_dma : (s.onLand f).dma = s.dma := rfl
@[simp] theorem State.onLand_repair : (s.onLand f).repair = s.repair := rfl
@[simp] theorem State.onLand_ref : (s.onLand f).ref = s.ref := rfl
@[simp] theorem State.onLand_fw : (s.onLand f).fw = s.fw := rfl
@[simp] theorem State.onLand_power : (s.onLand f).power = s.power := rfl
@[simp] theorem State.onLand_log : (s.onLand f).log = s.log := rfl
@[simp] theorem State.onLand_ledger : (s.onLand f).ledger = s.ledger := rfl
@[simp] theorem State.onLand_trace : (s.onLand f).trace = s.trace := rfl
@[simp] theorem State.onLand_mgmt : (s.onLand f).mgmt = s.mgmt := rfl
@[simp] theorem State.onLand_fresh : (s.onLand f).fresh = s.fresh := rfl
@[simp] theorem State.onLand_out : (s.onLand f).out = s.out := rfl
@[simp] theorem State.onLand_pending : (s.onLand f).pending = s.pending := rfl
end

section
variable (s : State) (f : Mem → Mem)
@[simp] theorem State.onMem_time : (s.onMem f).time = s.time := rfl
@[simp] theorem State.onMem_host : (s.onMem f).host = s.host := rfl
@[simp] theorem State.onMem_jobs : (s.onMem f).jobs = s.jobs := rfl
@[simp] theorem State.onMem_render : (s.onMem f).render = s.render := rfl
@[simp] theorem State.onMem_land : (s.onMem f).land = s.land := rfl
@[simp] theorem State.onMem_mem : (s.onMem f).mem = f s.mem := rfl
@[simp] theorem State.onMem_mc : (s.onMem f).mc = s.mc := rfl
@[simp] theorem State.onMem_play : (s.onMem f).play = s.play := rfl
@[simp] theorem State.onMem_beam : (s.onMem f).beam = s.beam := rfl
@[simp] theorem State.onMem_stage : (s.onMem f).stage = s.stage := rfl
@[simp] theorem State.onMem_pacer : (s.onMem f).pacer = s.pacer := rfl
@[simp] theorem State.onMem_link : (s.onMem f).link = s.link := rfl
@[simp] theorem State.onMem_plate : (s.onMem f).plate = s.plate := rfl
@[simp] theorem State.onMem_cams : (s.onMem f).cams = s.cams := rfl
@[simp] theorem State.onMem_meas : (s.onMem f).meas = s.meas := rfl
@[simp] theorem State.onMem_dma : (s.onMem f).dma = s.dma := rfl
@[simp] theorem State.onMem_repair : (s.onMem f).repair = s.repair := rfl
@[simp] theorem State.onMem_ref : (s.onMem f).ref = s.ref := rfl
@[simp] theorem State.onMem_fw : (s.onMem f).fw = s.fw := rfl
@[simp] theorem State.onMem_power : (s.onMem f).power = s.power := rfl
@[simp] theorem State.onMem_log : (s.onMem f).log = s.log := rfl
@[simp] theorem State.onMem_ledger : (s.onMem f).ledger = s.ledger := rfl
@[simp] theorem State.onMem_trace : (s.onMem f).trace = s.trace := rfl
@[simp] theorem State.onMem_mgmt : (s.onMem f).mgmt = s.mgmt := rfl
@[simp] theorem State.onMem_fresh : (s.onMem f).fresh = s.fresh := rfl
@[simp] theorem State.onMem_out : (s.onMem f).out = s.out := rfl
@[simp] theorem State.onMem_pending : (s.onMem f).pending = s.pending := rfl
end

section
variable (s : State) (f : MemCtl → MemCtl)
@[simp] theorem State.onMc_time : (s.onMc f).time = s.time := rfl
@[simp] theorem State.onMc_host : (s.onMc f).host = s.host := rfl
@[simp] theorem State.onMc_jobs : (s.onMc f).jobs = s.jobs := rfl
@[simp] theorem State.onMc_render : (s.onMc f).render = s.render := rfl
@[simp] theorem State.onMc_land : (s.onMc f).land = s.land := rfl
@[simp] theorem State.onMc_mem : (s.onMc f).mem = s.mem := rfl
@[simp] theorem State.onMc_mc : (s.onMc f).mc = f s.mc := rfl
@[simp] theorem State.onMc_play : (s.onMc f).play = s.play := rfl
@[simp] theorem State.onMc_beam : (s.onMc f).beam = s.beam := rfl
@[simp] theorem State.onMc_stage : (s.onMc f).stage = s.stage := rfl
@[simp] theorem State.onMc_pacer : (s.onMc f).pacer = s.pacer := rfl
@[simp] theorem State.onMc_link : (s.onMc f).link = s.link := rfl
@[simp] theorem State.onMc_plate : (s.onMc f).plate = s.plate := rfl
@[simp] theorem State.onMc_cams : (s.onMc f).cams = s.cams := rfl
@[simp] theorem State.onMc_meas : (s.onMc f).meas = s.meas := rfl
@[simp] theorem State.onMc_dma : (s.onMc f).dma = s.dma := rfl
@[simp] theorem State.onMc_repair : (s.onMc f).repair = s.repair := rfl
@[simp] theorem State.onMc_ref : (s.onMc f).ref = s.ref := rfl
@[simp] theorem State.onMc_fw : (s.onMc f).fw = s.fw := rfl
@[simp] theorem State.onMc_power : (s.onMc f).power = s.power := rfl
@[simp] theorem State.onMc_log : (s.onMc f).log = s.log := rfl
@[simp] theorem State.onMc_ledger : (s.onMc f).ledger = s.ledger := rfl
@[simp] theorem State.onMc_trace : (s.onMc f).trace = s.trace := rfl
@[simp] theorem State.onMc_mgmt : (s.onMc f).mgmt = s.mgmt := rfl
@[simp] theorem State.onMc_fresh : (s.onMc f).fresh = s.fresh := rfl
@[simp] theorem State.onMc_out : (s.onMc f).out = s.out := rfl
@[simp] theorem State.onMc_pending : (s.onMc f).pending = s.pending := rfl
end

section
variable (s : State) (f : Play → Play)
@[simp] theorem State.onPlay_time : (s.onPlay f).time = s.time := rfl
@[simp] theorem State.onPlay_host : (s.onPlay f).host = s.host := rfl
@[simp] theorem State.onPlay_jobs : (s.onPlay f).jobs = s.jobs := rfl
@[simp] theorem State.onPlay_render : (s.onPlay f).render = s.render := rfl
@[simp] theorem State.onPlay_land : (s.onPlay f).land = s.land := rfl
@[simp] theorem State.onPlay_mem : (s.onPlay f).mem = s.mem := rfl
@[simp] theorem State.onPlay_mc : (s.onPlay f).mc = s.mc := rfl
@[simp] theorem State.onPlay_play : (s.onPlay f).play = f s.play := rfl
@[simp] theorem State.onPlay_beam : (s.onPlay f).beam = s.beam := rfl
@[simp] theorem State.onPlay_stage : (s.onPlay f).stage = s.stage := rfl
@[simp] theorem State.onPlay_pacer : (s.onPlay f).pacer = s.pacer := rfl
@[simp] theorem State.onPlay_link : (s.onPlay f).link = s.link := rfl
@[simp] theorem State.onPlay_plate : (s.onPlay f).plate = s.plate := rfl
@[simp] theorem State.onPlay_cams : (s.onPlay f).cams = s.cams := rfl
@[simp] theorem State.onPlay_meas : (s.onPlay f).meas = s.meas := rfl
@[simp] theorem State.onPlay_dma : (s.onPlay f).dma = s.dma := rfl
@[simp] theorem State.onPlay_repair : (s.onPlay f).repair = s.repair := rfl
@[simp] theorem State.onPlay_ref : (s.onPlay f).ref = s.ref := rfl
@[simp] theorem State.onPlay_fw : (s.onPlay f).fw = s.fw := rfl
@[simp] theorem State.onPlay_power : (s.onPlay f).power = s.power := rfl
@[simp] theorem State.onPlay_log : (s.onPlay f).log = s.log := rfl
@[simp] theorem State.onPlay_ledger : (s.onPlay f).ledger = s.ledger := rfl
@[simp] theorem State.onPlay_trace : (s.onPlay f).trace = s.trace := rfl
@[simp] theorem State.onPlay_mgmt : (s.onPlay f).mgmt = s.mgmt := rfl
@[simp] theorem State.onPlay_fresh : (s.onPlay f).fresh = s.fresh := rfl
@[simp] theorem State.onPlay_out : (s.onPlay f).out = s.out := rfl
@[simp] theorem State.onPlay_pending : (s.onPlay f).pending = s.pending := rfl
end

section
variable (s : State) (f : Beam → Beam)
@[simp] theorem State.onBeam_time : (s.onBeam f).time = s.time := rfl
@[simp] theorem State.onBeam_host : (s.onBeam f).host = s.host := rfl
@[simp] theorem State.onBeam_jobs : (s.onBeam f).jobs = s.jobs := rfl
@[simp] theorem State.onBeam_render : (s.onBeam f).render = s.render := rfl
@[simp] theorem State.onBeam_land : (s.onBeam f).land = s.land := rfl
@[simp] theorem State.onBeam_mem : (s.onBeam f).mem = s.mem := rfl
@[simp] theorem State.onBeam_mc : (s.onBeam f).mc = s.mc := rfl
@[simp] theorem State.onBeam_play : (s.onBeam f).play = s.play := rfl
@[simp] theorem State.onBeam_beam : (s.onBeam f).beam = f s.beam := rfl
@[simp] theorem State.onBeam_stage : (s.onBeam f).stage = s.stage := rfl
@[simp] theorem State.onBeam_pacer : (s.onBeam f).pacer = s.pacer := rfl
@[simp] theorem State.onBeam_link : (s.onBeam f).link = s.link := rfl
@[simp] theorem State.onBeam_plate : (s.onBeam f).plate = s.plate := rfl
@[simp] theorem State.onBeam_cams : (s.onBeam f).cams = s.cams := rfl
@[simp] theorem State.onBeam_meas : (s.onBeam f).meas = s.meas := rfl
@[simp] theorem State.onBeam_dma : (s.onBeam f).dma = s.dma := rfl
@[simp] theorem State.onBeam_repair : (s.onBeam f).repair = s.repair := rfl
@[simp] theorem State.onBeam_ref : (s.onBeam f).ref = s.ref := rfl
@[simp] theorem State.onBeam_fw : (s.onBeam f).fw = s.fw := rfl
@[simp] theorem State.onBeam_power : (s.onBeam f).power = s.power := rfl
@[simp] theorem State.onBeam_log : (s.onBeam f).log = s.log := rfl
@[simp] theorem State.onBeam_ledger : (s.onBeam f).ledger = s.ledger := rfl
@[simp] theorem State.onBeam_trace : (s.onBeam f).trace = s.trace := rfl
@[simp] theorem State.onBeam_mgmt : (s.onBeam f).mgmt = s.mgmt := rfl
@[simp] theorem State.onBeam_fresh : (s.onBeam f).fresh = s.fresh := rfl
@[simp] theorem State.onBeam_out : (s.onBeam f).out = s.out := rfl
@[simp] theorem State.onBeam_pending : (s.onBeam f).pending = s.pending := rfl
end

section
variable (s : State) (f : Stage → Stage)
@[simp] theorem State.onStage_time : (s.onStage f).time = s.time := rfl
@[simp] theorem State.onStage_host : (s.onStage f).host = s.host := rfl
@[simp] theorem State.onStage_jobs : (s.onStage f).jobs = s.jobs := rfl
@[simp] theorem State.onStage_render : (s.onStage f).render = s.render := rfl
@[simp] theorem State.onStage_land : (s.onStage f).land = s.land := rfl
@[simp] theorem State.onStage_mem : (s.onStage f).mem = s.mem := rfl
@[simp] theorem State.onStage_mc : (s.onStage f).mc = s.mc := rfl
@[simp] theorem State.onStage_play : (s.onStage f).play = s.play := rfl
@[simp] theorem State.onStage_beam : (s.onStage f).beam = s.beam := rfl
@[simp] theorem State.onStage_stage : (s.onStage f).stage = f s.stage := rfl
@[simp] theorem State.onStage_pacer : (s.onStage f).pacer = s.pacer := rfl
@[simp] theorem State.onStage_link : (s.onStage f).link = s.link := rfl
@[simp] theorem State.onStage_plate : (s.onStage f).plate = s.plate := rfl
@[simp] theorem State.onStage_cams : (s.onStage f).cams = s.cams := rfl
@[simp] theorem State.onStage_meas : (s.onStage f).meas = s.meas := rfl
@[simp] theorem State.onStage_dma : (s.onStage f).dma = s.dma := rfl
@[simp] theorem State.onStage_repair : (s.onStage f).repair = s.repair := rfl
@[simp] theorem State.onStage_ref : (s.onStage f).ref = s.ref := rfl
@[simp] theorem State.onStage_fw : (s.onStage f).fw = s.fw := rfl
@[simp] theorem State.onStage_power : (s.onStage f).power = s.power := rfl
@[simp] theorem State.onStage_log : (s.onStage f).log = s.log := rfl
@[simp] theorem State.onStage_ledger : (s.onStage f).ledger = s.ledger := rfl
@[simp] theorem State.onStage_trace : (s.onStage f).trace = s.trace := rfl
@[simp] theorem State.onStage_mgmt : (s.onStage f).mgmt = s.mgmt := rfl
@[simp] theorem State.onStage_fresh : (s.onStage f).fresh = s.fresh := rfl
@[simp] theorem State.onStage_out : (s.onStage f).out = s.out := rfl
@[simp] theorem State.onStage_pending : (s.onStage f).pending = s.pending := rfl
end

section
variable (s : State) (f : Pacer → Pacer)
@[simp] theorem State.onPacer_time : (s.onPacer f).time = s.time := rfl
@[simp] theorem State.onPacer_host : (s.onPacer f).host = s.host := rfl
@[simp] theorem State.onPacer_jobs : (s.onPacer f).jobs = s.jobs := rfl
@[simp] theorem State.onPacer_render : (s.onPacer f).render = s.render := rfl
@[simp] theorem State.onPacer_land : (s.onPacer f).land = s.land := rfl
@[simp] theorem State.onPacer_mem : (s.onPacer f).mem = s.mem := rfl
@[simp] theorem State.onPacer_mc : (s.onPacer f).mc = s.mc := rfl
@[simp] theorem State.onPacer_play : (s.onPacer f).play = s.play := rfl
@[simp] theorem State.onPacer_beam : (s.onPacer f).beam = s.beam := rfl
@[simp] theorem State.onPacer_stage : (s.onPacer f).stage = s.stage := rfl
@[simp] theorem State.onPacer_pacer : (s.onPacer f).pacer = f s.pacer := rfl
@[simp] theorem State.onPacer_link : (s.onPacer f).link = s.link := rfl
@[simp] theorem State.onPacer_plate : (s.onPacer f).plate = s.plate := rfl
@[simp] theorem State.onPacer_cams : (s.onPacer f).cams = s.cams := rfl
@[simp] theorem State.onPacer_meas : (s.onPacer f).meas = s.meas := rfl
@[simp] theorem State.onPacer_dma : (s.onPacer f).dma = s.dma := rfl
@[simp] theorem State.onPacer_repair : (s.onPacer f).repair = s.repair := rfl
@[simp] theorem State.onPacer_ref : (s.onPacer f).ref = s.ref := rfl
@[simp] theorem State.onPacer_fw : (s.onPacer f).fw = s.fw := rfl
@[simp] theorem State.onPacer_power : (s.onPacer f).power = s.power := rfl
@[simp] theorem State.onPacer_log : (s.onPacer f).log = s.log := rfl
@[simp] theorem State.onPacer_ledger : (s.onPacer f).ledger = s.ledger := rfl
@[simp] theorem State.onPacer_trace : (s.onPacer f).trace = s.trace := rfl
@[simp] theorem State.onPacer_mgmt : (s.onPacer f).mgmt = s.mgmt := rfl
@[simp] theorem State.onPacer_fresh : (s.onPacer f).fresh = s.fresh := rfl
@[simp] theorem State.onPacer_out : (s.onPacer f).out = s.out := rfl
@[simp] theorem State.onPacer_pending : (s.onPacer f).pending = s.pending := rfl
end

section
variable (s : State) (f : Link → Link)
@[simp] theorem State.onLink_time : (s.onLink f).time = s.time := rfl
@[simp] theorem State.onLink_host : (s.onLink f).host = s.host := rfl
@[simp] theorem State.onLink_jobs : (s.onLink f).jobs = s.jobs := rfl
@[simp] theorem State.onLink_render : (s.onLink f).render = s.render := rfl
@[simp] theorem State.onLink_land : (s.onLink f).land = s.land := rfl
@[simp] theorem State.onLink_mem : (s.onLink f).mem = s.mem := rfl
@[simp] theorem State.onLink_mc : (s.onLink f).mc = s.mc := rfl
@[simp] theorem State.onLink_play : (s.onLink f).play = s.play := rfl
@[simp] theorem State.onLink_beam : (s.onLink f).beam = s.beam := rfl
@[simp] theorem State.onLink_stage : (s.onLink f).stage = s.stage := rfl
@[simp] theorem State.onLink_pacer : (s.onLink f).pacer = s.pacer := rfl
@[simp] theorem State.onLink_link : (s.onLink f).link = f s.link := rfl
@[simp] theorem State.onLink_plate : (s.onLink f).plate = s.plate := rfl
@[simp] theorem State.onLink_cams : (s.onLink f).cams = s.cams := rfl
@[simp] theorem State.onLink_meas : (s.onLink f).meas = s.meas := rfl
@[simp] theorem State.onLink_dma : (s.onLink f).dma = s.dma := rfl
@[simp] theorem State.onLink_repair : (s.onLink f).repair = s.repair := rfl
@[simp] theorem State.onLink_ref : (s.onLink f).ref = s.ref := rfl
@[simp] theorem State.onLink_fw : (s.onLink f).fw = s.fw := rfl
@[simp] theorem State.onLink_power : (s.onLink f).power = s.power := rfl
@[simp] theorem State.onLink_log : (s.onLink f).log = s.log := rfl
@[simp] theorem State.onLink_ledger : (s.onLink f).ledger = s.ledger := rfl
@[simp] theorem State.onLink_trace : (s.onLink f).trace = s.trace := rfl
@[simp] theorem State.onLink_mgmt : (s.onLink f).mgmt = s.mgmt := rfl
@[simp] theorem State.onLink_fresh : (s.onLink f).fresh = s.fresh := rfl
@[simp] theorem State.onLink_out : (s.onLink f).out = s.out := rfl
@[simp] theorem State.onLink_pending : (s.onLink f).pending = s.pending := rfl
end

section
variable (s : State) (f : Plate → Plate)
@[simp] theorem State.onPlate_time : (s.onPlate f).time = s.time := rfl
@[simp] theorem State.onPlate_host : (s.onPlate f).host = s.host := rfl
@[simp] theorem State.onPlate_jobs : (s.onPlate f).jobs = s.jobs := rfl
@[simp] theorem State.onPlate_render : (s.onPlate f).render = s.render := rfl
@[simp] theorem State.onPlate_land : (s.onPlate f).land = s.land := rfl
@[simp] theorem State.onPlate_mem : (s.onPlate f).mem = s.mem := rfl
@[simp] theorem State.onPlate_mc : (s.onPlate f).mc = s.mc := rfl
@[simp] theorem State.onPlate_play : (s.onPlate f).play = s.play := rfl
@[simp] theorem State.onPlate_beam : (s.onPlate f).beam = s.beam := rfl
@[simp] theorem State.onPlate_stage : (s.onPlate f).stage = s.stage := rfl
@[simp] theorem State.onPlate_pacer : (s.onPlate f).pacer = s.pacer := rfl
@[simp] theorem State.onPlate_link : (s.onPlate f).link = s.link := rfl
@[simp] theorem State.onPlate_plate : (s.onPlate f).plate = f s.plate := rfl
@[simp] theorem State.onPlate_cams : (s.onPlate f).cams = s.cams := rfl
@[simp] theorem State.onPlate_meas : (s.onPlate f).meas = s.meas := rfl
@[simp] theorem State.onPlate_dma : (s.onPlate f).dma = s.dma := rfl
@[simp] theorem State.onPlate_repair : (s.onPlate f).repair = s.repair := rfl
@[simp] theorem State.onPlate_ref : (s.onPlate f).ref = s.ref := rfl
@[simp] theorem State.onPlate_fw : (s.onPlate f).fw = s.fw := rfl
@[simp] theorem State.onPlate_power : (s.onPlate f).power = s.power := rfl
@[simp] theorem State.onPlate_log : (s.onPlate f).log = s.log := rfl
@[simp] theorem State.onPlate_ledger : (s.onPlate f).ledger = s.ledger := rfl
@[simp] theorem State.onPlate_trace : (s.onPlate f).trace = s.trace := rfl
@[simp] theorem State.onPlate_mgmt : (s.onPlate f).mgmt = s.mgmt := rfl
@[simp] theorem State.onPlate_fresh : (s.onPlate f).fresh = s.fresh := rfl
@[simp] theorem State.onPlate_out : (s.onPlate f).out = s.out := rfl
@[simp] theorem State.onPlate_pending : (s.onPlate f).pending = s.pending := rfl
end

section
variable (s : State) (f : Cams → Cams)
@[simp] theorem State.onCams_time : (s.onCams f).time = s.time := rfl
@[simp] theorem State.onCams_host : (s.onCams f).host = s.host := rfl
@[simp] theorem State.onCams_jobs : (s.onCams f).jobs = s.jobs := rfl
@[simp] theorem State.onCams_render : (s.onCams f).render = s.render := rfl
@[simp] theorem State.onCams_land : (s.onCams f).land = s.land := rfl
@[simp] theorem State.onCams_mem : (s.onCams f).mem = s.mem := rfl
@[simp] theorem State.onCams_mc : (s.onCams f).mc = s.mc := rfl
@[simp] theorem State.onCams_play : (s.onCams f).play = s.play := rfl
@[simp] theorem State.onCams_beam : (s.onCams f).beam = s.beam := rfl
@[simp] theorem State.onCams_stage : (s.onCams f).stage = s.stage := rfl
@[simp] theorem State.onCams_pacer : (s.onCams f).pacer = s.pacer := rfl
@[simp] theorem State.onCams_link : (s.onCams f).link = s.link := rfl
@[simp] theorem State.onCams_plate : (s.onCams f).plate = s.plate := rfl
@[simp] theorem State.onCams_cams : (s.onCams f).cams = f s.cams := rfl
@[simp] theorem State.onCams_meas : (s.onCams f).meas = s.meas := rfl
@[simp] theorem State.onCams_dma : (s.onCams f).dma = s.dma := rfl
@[simp] theorem State.onCams_repair : (s.onCams f).repair = s.repair := rfl
@[simp] theorem State.onCams_ref : (s.onCams f).ref = s.ref := rfl
@[simp] theorem State.onCams_fw : (s.onCams f).fw = s.fw := rfl
@[simp] theorem State.onCams_power : (s.onCams f).power = s.power := rfl
@[simp] theorem State.onCams_log : (s.onCams f).log = s.log := rfl
@[simp] theorem State.onCams_ledger : (s.onCams f).ledger = s.ledger := rfl
@[simp] theorem State.onCams_trace : (s.onCams f).trace = s.trace := rfl
@[simp] theorem State.onCams_mgmt : (s.onCams f).mgmt = s.mgmt := rfl
@[simp] theorem State.onCams_fresh : (s.onCams f).fresh = s.fresh := rfl
@[simp] theorem State.onCams_out : (s.onCams f).out = s.out := rfl
@[simp] theorem State.onCams_pending : (s.onCams f).pending = s.pending := rfl
end

section
variable (s : State) (f : Meas → Meas)
@[simp] theorem State.onMeas_time : (s.onMeas f).time = s.time := rfl
@[simp] theorem State.onMeas_host : (s.onMeas f).host = s.host := rfl
@[simp] theorem State.onMeas_jobs : (s.onMeas f).jobs = s.jobs := rfl
@[simp] theorem State.onMeas_render : (s.onMeas f).render = s.render := rfl
@[simp] theorem State.onMeas_land : (s.onMeas f).land = s.land := rfl
@[simp] theorem State.onMeas_mem : (s.onMeas f).mem = s.mem := rfl
@[simp] theorem State.onMeas_mc : (s.onMeas f).mc = s.mc := rfl
@[simp] theorem State.onMeas_play : (s.onMeas f).play = s.play := rfl
@[simp] theorem State.onMeas_beam : (s.onMeas f).beam = s.beam := rfl
@[simp] theorem State.onMeas_stage : (s.onMeas f).stage = s.stage := rfl
@[simp] theorem State.onMeas_pacer : (s.onMeas f).pacer = s.pacer := rfl
@[simp] theorem State.onMeas_link : (s.onMeas f).link = s.link := rfl
@[simp] theorem State.onMeas_plate : (s.onMeas f).plate = s.plate := rfl
@[simp] theorem State.onMeas_cams : (s.onMeas f).cams = s.cams := rfl
@[simp] theorem State.onMeas_meas : (s.onMeas f).meas = f s.meas := rfl
@[simp] theorem State.onMeas_dma : (s.onMeas f).dma = s.dma := rfl
@[simp] theorem State.onMeas_repair : (s.onMeas f).repair = s.repair := rfl
@[simp] theorem State.onMeas_ref : (s.onMeas f).ref = s.ref := rfl
@[simp] theorem State.onMeas_fw : (s.onMeas f).fw = s.fw := rfl
@[simp] theorem State.onMeas_power : (s.onMeas f).power = s.power := rfl
@[simp] theorem State.onMeas_log : (s.onMeas f).log = s.log := rfl
@[simp] theorem State.onMeas_ledger : (s.onMeas f).ledger = s.ledger := rfl
@[simp] theorem State.onMeas_trace : (s.onMeas f).trace = s.trace := rfl
@[simp] theorem State.onMeas_mgmt : (s.onMeas f).mgmt = s.mgmt := rfl
@[simp] theorem State.onMeas_fresh : (s.onMeas f).fresh = s.fresh := rfl
@[simp] theorem State.onMeas_out : (s.onMeas f).out = s.out := rfl
@[simp] theorem State.onMeas_pending : (s.onMeas f).pending = s.pending := rfl
end

section
variable (s : State) (f : DmaUnits → DmaUnits)
@[simp] theorem State.onDma_time : (s.onDma f).time = s.time := rfl
@[simp] theorem State.onDma_host : (s.onDma f).host = s.host := rfl
@[simp] theorem State.onDma_jobs : (s.onDma f).jobs = s.jobs := rfl
@[simp] theorem State.onDma_render : (s.onDma f).render = s.render := rfl
@[simp] theorem State.onDma_land : (s.onDma f).land = s.land := rfl
@[simp] theorem State.onDma_mem : (s.onDma f).mem = s.mem := rfl
@[simp] theorem State.onDma_mc : (s.onDma f).mc = s.mc := rfl
@[simp] theorem State.onDma_play : (s.onDma f).play = s.play := rfl
@[simp] theorem State.onDma_beam : (s.onDma f).beam = s.beam := rfl
@[simp] theorem State.onDma_stage : (s.onDma f).stage = s.stage := rfl
@[simp] theorem State.onDma_pacer : (s.onDma f).pacer = s.pacer := rfl
@[simp] theorem State.onDma_link : (s.onDma f).link = s.link := rfl
@[simp] theorem State.onDma_plate : (s.onDma f).plate = s.plate := rfl
@[simp] theorem State.onDma_cams : (s.onDma f).cams = s.cams := rfl
@[simp] theorem State.onDma_meas : (s.onDma f).meas = s.meas := rfl
@[simp] theorem State.onDma_dma : (s.onDma f).dma = f s.dma := rfl
@[simp] theorem State.onDma_repair : (s.onDma f).repair = s.repair := rfl
@[simp] theorem State.onDma_ref : (s.onDma f).ref = s.ref := rfl
@[simp] theorem State.onDma_fw : (s.onDma f).fw = s.fw := rfl
@[simp] theorem State.onDma_power : (s.onDma f).power = s.power := rfl
@[simp] theorem State.onDma_log : (s.onDma f).log = s.log := rfl
@[simp] theorem State.onDma_ledger : (s.onDma f).ledger = s.ledger := rfl
@[simp] theorem State.onDma_trace : (s.onDma f).trace = s.trace := rfl
@[simp] theorem State.onDma_mgmt : (s.onDma f).mgmt = s.mgmt := rfl
@[simp] theorem State.onDma_fresh : (s.onDma f).fresh = s.fresh := rfl
@[simp] theorem State.onDma_out : (s.onDma f).out = s.out := rfl
@[simp] theorem State.onDma_pending : (s.onDma f).pending = s.pending := rfl
end

section
variable (s : State) (f : Repair → Repair)
@[simp] theorem State.onRepair_time : (s.onRepair f).time = s.time := rfl
@[simp] theorem State.onRepair_host : (s.onRepair f).host = s.host := rfl
@[simp] theorem State.onRepair_jobs : (s.onRepair f).jobs = s.jobs := rfl
@[simp] theorem State.onRepair_render : (s.onRepair f).render = s.render := rfl
@[simp] theorem State.onRepair_land : (s.onRepair f).land = s.land := rfl
@[simp] theorem State.onRepair_mem : (s.onRepair f).mem = s.mem := rfl
@[simp] theorem State.onRepair_mc : (s.onRepair f).mc = s.mc := rfl
@[simp] theorem State.onRepair_play : (s.onRepair f).play = s.play := rfl
@[simp] theorem State.onRepair_beam : (s.onRepair f).beam = s.beam := rfl
@[simp] theorem State.onRepair_stage : (s.onRepair f).stage = s.stage := rfl
@[simp] theorem State.onRepair_pacer : (s.onRepair f).pacer = s.pacer := rfl
@[simp] theorem State.onRepair_link : (s.onRepair f).link = s.link := rfl
@[simp] theorem State.onRepair_plate : (s.onRepair f).plate = s.plate := rfl
@[simp] theorem State.onRepair_cams : (s.onRepair f).cams = s.cams := rfl
@[simp] theorem State.onRepair_meas : (s.onRepair f).meas = s.meas := rfl
@[simp] theorem State.onRepair_dma : (s.onRepair f).dma = s.dma := rfl
@[simp] theorem State.onRepair_repair : (s.onRepair f).repair = f s.repair := rfl
@[simp] theorem State.onRepair_ref : (s.onRepair f).ref = s.ref := rfl
@[simp] theorem State.onRepair_fw : (s.onRepair f).fw = s.fw := rfl
@[simp] theorem State.onRepair_power : (s.onRepair f).power = s.power := rfl
@[simp] theorem State.onRepair_log : (s.onRepair f).log = s.log := rfl
@[simp] theorem State.onRepair_ledger : (s.onRepair f).ledger = s.ledger := rfl
@[simp] theorem State.onRepair_trace : (s.onRepair f).trace = s.trace := rfl
@[simp] theorem State.onRepair_mgmt : (s.onRepair f).mgmt = s.mgmt := rfl
@[simp] theorem State.onRepair_fresh : (s.onRepair f).fresh = s.fresh := rfl
@[simp] theorem State.onRepair_out : (s.onRepair f).out = s.out := rfl
@[simp] theorem State.onRepair_pending : (s.onRepair f).pending = s.pending := rfl
end

section
variable (s : State) (f : Referee → Referee)
@[simp] theorem State.onRef_time : (s.onRef f).time = s.time := rfl
@[simp] theorem State.onRef_host : (s.onRef f).host = s.host := rfl
@[simp] theorem State.onRef_jobs : (s.onRef f).jobs = s.jobs := rfl
@[simp] theorem State.onRef_render : (s.onRef f).render = s.render := rfl
@[simp] theorem State.onRef_land : (s.onRef f).land = s.land := rfl
@[simp] theorem State.onRef_mem : (s.onRef f).mem = s.mem := rfl
@[simp] theorem State.onRef_mc : (s.onRef f).mc = s.mc := rfl
@[simp] theorem State.onRef_play : (s.onRef f).play = s.play := rfl
@[simp] theorem State.onRef_beam : (s.onRef f).beam = s.beam := rfl
@[simp] theorem State.onRef_stage : (s.onRef f).stage = s.stage := rfl
@[simp] theorem State.onRef_pacer : (s.onRef f).pacer = s.pacer := rfl
@[simp] theorem State.onRef_link : (s.onRef f).link = s.link := rfl
@[simp] theorem State.onRef_plate : (s.onRef f).plate = s.plate := rfl
@[simp] theorem State.onRef_cams : (s.onRef f).cams = s.cams := rfl
@[simp] theorem State.onRef_meas : (s.onRef f).meas = s.meas := rfl
@[simp] theorem State.onRef_dma : (s.onRef f).dma = s.dma := rfl
@[simp] theorem State.onRef_repair : (s.onRef f).repair = s.repair := rfl
@[simp] theorem State.onRef_ref : (s.onRef f).ref = f s.ref := rfl
@[simp] theorem State.onRef_fw : (s.onRef f).fw = s.fw := rfl
@[simp] theorem State.onRef_power : (s.onRef f).power = s.power := rfl
@[simp] theorem State.onRef_log : (s.onRef f).log = s.log := rfl
@[simp] theorem State.onRef_ledger : (s.onRef f).ledger = s.ledger := rfl
@[simp] theorem State.onRef_trace : (s.onRef f).trace = s.trace := rfl
@[simp] theorem State.onRef_mgmt : (s.onRef f).mgmt = s.mgmt := rfl
@[simp] theorem State.onRef_fresh : (s.onRef f).fresh = s.fresh := rfl
@[simp] theorem State.onRef_out : (s.onRef f).out = s.out := rfl
@[simp] theorem State.onRef_pending : (s.onRef f).pending = s.pending := rfl
end

section
variable (s : State) (f : Firmware → Firmware)
@[simp] theorem State.onFw_time : (s.onFw f).time = s.time := rfl
@[simp] theorem State.onFw_host : (s.onFw f).host = s.host := rfl
@[simp] theorem State.onFw_jobs : (s.onFw f).jobs = s.jobs := rfl
@[simp] theorem State.onFw_render : (s.onFw f).render = s.render := rfl
@[simp] theorem State.onFw_land : (s.onFw f).land = s.land := rfl
@[simp] theorem State.onFw_mem : (s.onFw f).mem = s.mem := rfl
@[simp] theorem State.onFw_mc : (s.onFw f).mc = s.mc := rfl
@[simp] theorem State.onFw_play : (s.onFw f).play = s.play := rfl
@[simp] theorem State.onFw_beam : (s.onFw f).beam = s.beam := rfl
@[simp] theorem State.onFw_stage : (s.onFw f).stage = s.stage := rfl
@[simp] theorem State.onFw_pacer : (s.onFw f).pacer = s.pacer := rfl
@[simp] theorem State.onFw_link : (s.onFw f).link = s.link := rfl
@[simp] theorem State.onFw_plate : (s.onFw f).plate = s.plate := rfl
@[simp] theorem State.onFw_cams : (s.onFw f).cams = s.cams := rfl
@[simp] theorem State.onFw_meas : (s.onFw f).meas = s.meas := rfl
@[simp] theorem State.onFw_dma : (s.onFw f).dma = s.dma := rfl
@[simp] theorem State.onFw_repair : (s.onFw f).repair = s.repair := rfl
@[simp] theorem State.onFw_ref : (s.onFw f).ref = s.ref := rfl
@[simp] theorem State.onFw_fw : (s.onFw f).fw = f s.fw := rfl
@[simp] theorem State.onFw_power : (s.onFw f).power = s.power := rfl
@[simp] theorem State.onFw_log : (s.onFw f).log = s.log := rfl
@[simp] theorem State.onFw_ledger : (s.onFw f).ledger = s.ledger := rfl
@[simp] theorem State.onFw_trace : (s.onFw f).trace = s.trace := rfl
@[simp] theorem State.onFw_mgmt : (s.onFw f).mgmt = s.mgmt := rfl
@[simp] theorem State.onFw_fresh : (s.onFw f).fresh = s.fresh := rfl
@[simp] theorem State.onFw_out : (s.onFw f).out = s.out := rfl
@[simp] theorem State.onFw_pending : (s.onFw f).pending = s.pending := rfl
end

section
variable (s : State) (f : Power → Power)
@[simp] theorem State.onPower_time : (s.onPower f).time = s.time := rfl
@[simp] theorem State.onPower_host : (s.onPower f).host = s.host := rfl
@[simp] theorem State.onPower_jobs : (s.onPower f).jobs = s.jobs := rfl
@[simp] theorem State.onPower_render : (s.onPower f).render = s.render := rfl
@[simp] theorem State.onPower_land : (s.onPower f).land = s.land := rfl
@[simp] theorem State.onPower_mem : (s.onPower f).mem = s.mem := rfl
@[simp] theorem State.onPower_mc : (s.onPower f).mc = s.mc := rfl
@[simp] theorem State.onPower_play : (s.onPower f).play = s.play := rfl
@[simp] theorem State.onPower_beam : (s.onPower f).beam = s.beam := rfl
@[simp] theorem State.onPower_stage : (s.onPower f).stage = s.stage := rfl
@[simp] theorem State.onPower_pacer : (s.onPower f).pacer = s.pacer := rfl
@[simp] theorem State.onPower_link : (s.onPower f).link = s.link := rfl
@[simp] theorem State.onPower_plate : (s.onPower f).plate = s.plate := rfl
@[simp] theorem State.onPower_cams : (s.onPower f).cams = s.cams := rfl
@[simp] theorem State.onPower_meas : (s.onPower f).meas = s.meas := rfl
@[simp] theorem State.onPower_dma : (s.onPower f).dma = s.dma := rfl
@[simp] theorem State.onPower_repair : (s.onPower f).repair = s.repair := rfl
@[simp] theorem State.onPower_ref : (s.onPower f).ref = s.ref := rfl
@[simp] theorem State.onPower_fw : (s.onPower f).fw = s.fw := rfl
@[simp] theorem State.onPower_power : (s.onPower f).power = f s.power := rfl
@[simp] theorem State.onPower_log : (s.onPower f).log = s.log := rfl
@[simp] theorem State.onPower_ledger : (s.onPower f).ledger = s.ledger := rfl
@[simp] theorem State.onPower_trace : (s.onPower f).trace = s.trace := rfl
@[simp] theorem State.onPower_mgmt : (s.onPower f).mgmt = s.mgmt := rfl
@[simp] theorem State.onPower_fresh : (s.onPower f).fresh = s.fresh := rfl
@[simp] theorem State.onPower_out : (s.onPower f).out = s.out := rfl
@[simp] theorem State.onPower_pending : (s.onPower f).pending = s.pending := rfl
end

section
variable (s : State) (f : FaultLog → FaultLog)
@[simp] theorem State.onLog_time : (s.onLog f).time = s.time := rfl
@[simp] theorem State.onLog_host : (s.onLog f).host = s.host := rfl
@[simp] theorem State.onLog_jobs : (s.onLog f).jobs = s.jobs := rfl
@[simp] theorem State.onLog_render : (s.onLog f).render = s.render := rfl
@[simp] theorem State.onLog_land : (s.onLog f).land = s.land := rfl
@[simp] theorem State.onLog_mem : (s.onLog f).mem = s.mem := rfl
@[simp] theorem State.onLog_mc : (s.onLog f).mc = s.mc := rfl
@[simp] theorem State.onLog_play : (s.onLog f).play = s.play := rfl
@[simp] theorem State.onLog_beam : (s.onLog f).beam = s.beam := rfl
@[simp] theorem State.onLog_stage : (s.onLog f).stage = s.stage := rfl
@[simp] theorem State.onLog_pacer : (s.onLog f).pacer = s.pacer := rfl
@[simp] theorem State.onLog_link : (s.onLog f).link = s.link := rfl
@[simp] theorem State.onLog_plate : (s.onLog f).plate = s.plate := rfl
@[simp] theorem State.onLog_cams : (s.onLog f).cams = s.cams := rfl
@[simp] theorem State.onLog_meas : (s.onLog f).meas = s.meas := rfl
@[simp] theorem State.onLog_dma : (s.onLog f).dma = s.dma := rfl
@[simp] theorem State.onLog_repair : (s.onLog f).repair = s.repair := rfl
@[simp] theorem State.onLog_ref : (s.onLog f).ref = s.ref := rfl
@[simp] theorem State.onLog_fw : (s.onLog f).fw = s.fw := rfl
@[simp] theorem State.onLog_power : (s.onLog f).power = s.power := rfl
@[simp] theorem State.onLog_log : (s.onLog f).log = f s.log := rfl
@[simp] theorem State.onLog_ledger : (s.onLog f).ledger = s.ledger := rfl
@[simp] theorem State.onLog_trace : (s.onLog f).trace = s.trace := rfl
@[simp] theorem State.onLog_mgmt : (s.onLog f).mgmt = s.mgmt := rfl
@[simp] theorem State.onLog_fresh : (s.onLog f).fresh = s.fresh := rfl
@[simp] theorem State.onLog_out : (s.onLog f).out = s.out := rfl
@[simp] theorem State.onLog_pending : (s.onLog f).pending = s.pending := rfl
end

section
variable (s : State) (f : Ledger → Ledger)
@[simp] theorem State.onLedger_time : (s.onLedger f).time = s.time := rfl
@[simp] theorem State.onLedger_host : (s.onLedger f).host = s.host := rfl
@[simp] theorem State.onLedger_jobs : (s.onLedger f).jobs = s.jobs := rfl
@[simp] theorem State.onLedger_render : (s.onLedger f).render = s.render := rfl
@[simp] theorem State.onLedger_land : (s.onLedger f).land = s.land := rfl
@[simp] theorem State.onLedger_mem : (s.onLedger f).mem = s.mem := rfl
@[simp] theorem State.onLedger_mc : (s.onLedger f).mc = s.mc := rfl
@[simp] theorem State.onLedger_play : (s.onLedger f).play = s.play := rfl
@[simp] theorem State.onLedger_beam : (s.onLedger f).beam = s.beam := rfl
@[simp] theorem State.onLedger_stage : (s.onLedger f).stage = s.stage := rfl
@[simp] theorem State.onLedger_pacer : (s.onLedger f).pacer = s.pacer := rfl
@[simp] theorem State.onLedger_link : (s.onLedger f).link = s.link := rfl
@[simp] theorem State.onLedger_plate : (s.onLedger f).plate = s.plate := rfl
@[simp] theorem State.onLedger_cams : (s.onLedger f).cams = s.cams := rfl
@[simp] theorem State.onLedger_meas : (s.onLedger f).meas = s.meas := rfl
@[simp] theorem State.onLedger_dma : (s.onLedger f).dma = s.dma := rfl
@[simp] theorem State.onLedger_repair : (s.onLedger f).repair = s.repair := rfl
@[simp] theorem State.onLedger_ref : (s.onLedger f).ref = s.ref := rfl
@[simp] theorem State.onLedger_fw : (s.onLedger f).fw = s.fw := rfl
@[simp] theorem State.onLedger_power : (s.onLedger f).power = s.power := rfl
@[simp] theorem State.onLedger_log : (s.onLedger f).log = s.log := rfl
@[simp] theorem State.onLedger_ledger : (s.onLedger f).ledger = f s.ledger := rfl
@[simp] theorem State.onLedger_trace : (s.onLedger f).trace = s.trace := rfl
@[simp] theorem State.onLedger_mgmt : (s.onLedger f).mgmt = s.mgmt := rfl
@[simp] theorem State.onLedger_fresh : (s.onLedger f).fresh = s.fresh := rfl
@[simp] theorem State.onLedger_out : (s.onLedger f).out = s.out := rfl
@[simp] theorem State.onLedger_pending : (s.onLedger f).pending = s.pending := rfl
end

section
variable (s : State) (f : Trace → Trace)
@[simp] theorem State.onTrace_time : (s.onTrace f).time = s.time := rfl
@[simp] theorem State.onTrace_host : (s.onTrace f).host = s.host := rfl
@[simp] theorem State.onTrace_jobs : (s.onTrace f).jobs = s.jobs := rfl
@[simp] theorem State.onTrace_render : (s.onTrace f).render = s.render := rfl
@[simp] theorem State.onTrace_land : (s.onTrace f).land = s.land := rfl
@[simp] theorem State.onTrace_mem : (s.onTrace f).mem = s.mem := rfl
@[simp] theorem State.onTrace_mc : (s.onTrace f).mc = s.mc := rfl
@[simp] theorem State.onTrace_play : (s.onTrace f).play = s.play := rfl
@[simp] theorem State.onTrace_beam : (s.onTrace f).beam = s.beam := rfl
@[simp] theorem State.onTrace_stage : (s.onTrace f).stage = s.stage := rfl
@[simp] theorem State.onTrace_pacer : (s.onTrace f).pacer = s.pacer := rfl
@[simp] theorem State.onTrace_link : (s.onTrace f).link = s.link := rfl
@[simp] theorem State.onTrace_plate : (s.onTrace f).plate = s.plate := rfl
@[simp] theorem State.onTrace_cams : (s.onTrace f).cams = s.cams := rfl
@[simp] theorem State.onTrace_meas : (s.onTrace f).meas = s.meas := rfl
@[simp] theorem State.onTrace_dma : (s.onTrace f).dma = s.dma := rfl
@[simp] theorem State.onTrace_repair : (s.onTrace f).repair = s.repair := rfl
@[simp] theorem State.onTrace_ref : (s.onTrace f).ref = s.ref := rfl
@[simp] theorem State.onTrace_fw : (s.onTrace f).fw = s.fw := rfl
@[simp] theorem State.onTrace_power : (s.onTrace f).power = s.power := rfl
@[simp] theorem State.onTrace_log : (s.onTrace f).log = s.log := rfl
@[simp] theorem State.onTrace_ledger : (s.onTrace f).ledger = s.ledger := rfl
@[simp] theorem State.onTrace_trace : (s.onTrace f).trace = f s.trace := rfl
@[simp] theorem State.onTrace_mgmt : (s.onTrace f).mgmt = s.mgmt := rfl
@[simp] theorem State.onTrace_fresh : (s.onTrace f).fresh = s.fresh := rfl
@[simp] theorem State.onTrace_out : (s.onTrace f).out = s.out := rfl
@[simp] theorem State.onTrace_pending : (s.onTrace f).pending = s.pending := rfl
end

section
variable (s : State) (f : Mgmt → Mgmt)
@[simp] theorem State.onMgmt_time : (s.onMgmt f).time = s.time := rfl
@[simp] theorem State.onMgmt_host : (s.onMgmt f).host = s.host := rfl
@[simp] theorem State.onMgmt_jobs : (s.onMgmt f).jobs = s.jobs := rfl
@[simp] theorem State.onMgmt_render : (s.onMgmt f).render = s.render := rfl
@[simp] theorem State.onMgmt_land : (s.onMgmt f).land = s.land := rfl
@[simp] theorem State.onMgmt_mem : (s.onMgmt f).mem = s.mem := rfl
@[simp] theorem State.onMgmt_mc : (s.onMgmt f).mc = s.mc := rfl
@[simp] theorem State.onMgmt_play : (s.onMgmt f).play = s.play := rfl
@[simp] theorem State.onMgmt_beam : (s.onMgmt f).beam = s.beam := rfl
@[simp] theorem State.onMgmt_stage : (s.onMgmt f).stage = s.stage := rfl
@[simp] theorem State.onMgmt_pacer : (s.onMgmt f).pacer = s.pacer := rfl
@[simp] theorem State.onMgmt_link : (s.onMgmt f).link = s.link := rfl
@[simp] theorem State.onMgmt_plate : (s.onMgmt f).plate = s.plate := rfl
@[simp] theorem State.onMgmt_cams : (s.onMgmt f).cams = s.cams := rfl
@[simp] theorem State.onMgmt_meas : (s.onMgmt f).meas = s.meas := rfl
@[simp] theorem State.onMgmt_dma : (s.onMgmt f).dma = s.dma := rfl
@[simp] theorem State.onMgmt_repair : (s.onMgmt f).repair = s.repair := rfl
@[simp] theorem State.onMgmt_ref : (s.onMgmt f).ref = s.ref := rfl
@[simp] theorem State.onMgmt_fw : (s.onMgmt f).fw = s.fw := rfl
@[simp] theorem State.onMgmt_power : (s.onMgmt f).power = s.power := rfl
@[simp] theorem State.onMgmt_log : (s.onMgmt f).log = s.log := rfl
@[simp] theorem State.onMgmt_ledger : (s.onMgmt f).ledger = s.ledger := rfl
@[simp] theorem State.onMgmt_trace : (s.onMgmt f).trace = s.trace := rfl
@[simp] theorem State.onMgmt_mgmt : (s.onMgmt f).mgmt = f s.mgmt := rfl
@[simp] theorem State.onMgmt_fresh : (s.onMgmt f).fresh = s.fresh := rfl
@[simp] theorem State.onMgmt_out : (s.onMgmt f).out = s.out := rfl
@[simp] theorem State.onMgmt_pending : (s.onMgmt f).pending = s.pending := rfl
end

section
variable (s : State) (n : BitVec 4) (f : Mailbox → Mailbox)
@[simp] theorem State.onMb_time : (s.onMb n f).time = s.time := rfl
@[simp] theorem State.onMb_host : (s.onMb n f).host = s.host.onMb n f := rfl
@[simp] theorem State.onMb_jobs : (s.onMb n f).jobs = s.jobs := rfl
@[simp] theorem State.onMb_render : (s.onMb n f).render = s.render := rfl
@[simp] theorem State.onMb_land : (s.onMb n f).land = s.land := rfl
@[simp] theorem State.onMb_mem : (s.onMb n f).mem = s.mem := rfl
@[simp] theorem State.onMb_mc : (s.onMb n f).mc = s.mc := rfl
@[simp] theorem State.onMb_play : (s.onMb n f).play = s.play := rfl
@[simp] theorem State.onMb_beam : (s.onMb n f).beam = s.beam := rfl
@[simp] theorem State.onMb_stage : (s.onMb n f).stage = s.stage := rfl
@[simp] theorem State.onMb_pacer : (s.onMb n f).pacer = s.pacer := rfl
@[simp] theorem State.onMb_link : (s.onMb n f).link = s.link := rfl
@[simp] theorem State.onMb_plate : (s.onMb n f).plate = s.plate := rfl
@[simp] theorem State.onMb_cams : (s.onMb n f).cams = s.cams := rfl
@[simp] theorem State.onMb_meas : (s.onMb n f).meas = s.meas := rfl
@[simp] theorem State.onMb_dma : (s.onMb n f).dma = s.dma := rfl
@[simp] theorem State.onMb_repair : (s.onMb n f).repair = s.repair := rfl
@[simp] theorem State.onMb_ref : (s.onMb n f).ref = s.ref := rfl
@[simp] theorem State.onMb_fw : (s.onMb n f).fw = s.fw := rfl
@[simp] theorem State.onMb_power : (s.onMb n f).power = s.power := rfl
@[simp] theorem State.onMb_log : (s.onMb n f).log = s.log := rfl
@[simp] theorem State.onMb_ledger : (s.onMb n f).ledger = s.ledger := rfl
@[simp] theorem State.onMb_trace : (s.onMb n f).trace = s.trace := rfl
@[simp] theorem State.onMb_mgmt : (s.onMb n f).mgmt = s.mgmt := rfl
@[simp] theorem State.onMb_fresh : (s.onMb n f).fresh = s.fresh := rfl
@[simp] theorem State.onMb_out : (s.onMb n f).out = s.out := rfl
@[simp] theorem State.onMb_pending : (s.onMb n f).pending = s.pending := rfl
end

section
variable (s : State) (p : Port) (f : PortS → PortS)
@[simp] theorem State.onPort_time : (s.onPort p f).time = s.time := rfl
@[simp] theorem State.onPort_host : (s.onPort p f).host = s.host.onPort p f := rfl
@[simp] theorem State.onPort_jobs : (s.onPort p f).jobs = s.jobs := rfl
@[simp] theorem State.onPort_render : (s.onPort p f).render = s.render := rfl
@[simp] theorem State.onPort_land : (s.onPort p f).land = s.land := rfl
@[simp] theorem State.onPort_mem : (s.onPort p f).mem = s.mem := rfl
@[simp] theorem State.onPort_mc : (s.onPort p f).mc = s.mc := rfl
@[simp] theorem State.onPort_play : (s.onPort p f).play = s.play := rfl
@[simp] theorem State.onPort_beam : (s.onPort p f).beam = s.beam := rfl
@[simp] theorem State.onPort_stage : (s.onPort p f).stage = s.stage := rfl
@[simp] theorem State.onPort_pacer : (s.onPort p f).pacer = s.pacer := rfl
@[simp] theorem State.onPort_link : (s.onPort p f).link = s.link := rfl
@[simp] theorem State.onPort_plate : (s.onPort p f).plate = s.plate := rfl
@[simp] theorem State.onPort_cams : (s.onPort p f).cams = s.cams := rfl
@[simp] theorem State.onPort_meas : (s.onPort p f).meas = s.meas := rfl
@[simp] theorem State.onPort_dma : (s.onPort p f).dma = s.dma := rfl
@[simp] theorem State.onPort_repair : (s.onPort p f).repair = s.repair := rfl
@[simp] theorem State.onPort_ref : (s.onPort p f).ref = s.ref := rfl
@[simp] theorem State.onPort_fw : (s.onPort p f).fw = s.fw := rfl
@[simp] theorem State.onPort_power : (s.onPort p f).power = s.power := rfl
@[simp] theorem State.onPort_log : (s.onPort p f).log = s.log := rfl
@[simp] theorem State.onPort_ledger : (s.onPort p f).ledger = s.ledger := rfl
@[simp] theorem State.onPort_trace : (s.onPort p f).trace = s.trace := rfl
@[simp] theorem State.onPort_mgmt : (s.onPort p f).mgmt = s.mgmt := rfl
@[simp] theorem State.onPort_fresh : (s.onPort p f).fresh = s.fresh := rfl
@[simp] theorem State.onPort_out : (s.onPort p f).out = s.out := rfl
@[simp] theorem State.onPort_pending : (s.onPort p f).pending = s.pending := rfl
end

section
variable (s : State) (o : Output)
@[simp] theorem State.emit_time : (s.emit o).time = s.time := rfl
@[simp] theorem State.emit_host : (s.emit o).host = s.host := rfl
@[simp] theorem State.emit_jobs : (s.emit o).jobs = s.jobs := rfl
@[simp] theorem State.emit_render : (s.emit o).render = s.render := rfl
@[simp] theorem State.emit_land : (s.emit o).land = s.land := rfl
@[simp] theorem State.emit_mem : (s.emit o).mem = s.mem := rfl
@[simp] theorem State.emit_mc : (s.emit o).mc = s.mc := rfl
@[simp] theorem State.emit_play : (s.emit o).play = s.play := rfl
@[simp] theorem State.emit_beam : (s.emit o).beam = s.beam := rfl
@[simp] theorem State.emit_stage : (s.emit o).stage = s.stage := rfl
@[simp] theorem State.emit_pacer : (s.emit o).pacer = s.pacer := rfl
@[simp] theorem State.emit_link : (s.emit o).link = s.link := rfl
@[simp] theorem State.emit_plate : (s.emit o).plate = s.plate := rfl
@[simp] theorem State.emit_cams : (s.emit o).cams = s.cams := rfl
@[simp] theorem State.emit_meas : (s.emit o).meas = s.meas := rfl
@[simp] theorem State.emit_dma : (s.emit o).dma = s.dma := rfl
@[simp] theorem State.emit_repair : (s.emit o).repair = s.repair := rfl
@[simp] theorem State.emit_ref : (s.emit o).ref = s.ref := rfl
@[simp] theorem State.emit_fw : (s.emit o).fw = s.fw := rfl
@[simp] theorem State.emit_power : (s.emit o).power = s.power := rfl
@[simp] theorem State.emit_log : (s.emit o).log = s.log := rfl
@[simp] theorem State.emit_ledger : (s.emit o).ledger = s.ledger := rfl
@[simp] theorem State.emit_trace : (s.emit o).trace = s.trace := rfl
@[simp] theorem State.emit_mgmt : (s.emit o).mgmt = s.mgmt := rfl
@[simp] theorem State.emit_fresh : (s.emit o).fresh = s.fresh := rfl
@[simp] theorem State.emit_out : (s.emit o).out = s.out ++ [o] := rfl
@[simp] theorem State.emit_pending : (s.emit o).pending = s.pending := rfl
end

section
variable (s : State) (os : List Output)
@[simp] theorem State.emits_time : (s.emits os).time = s.time := rfl
@[simp] theorem State.emits_host : (s.emits os).host = s.host := rfl
@[simp] theorem State.emits_jobs : (s.emits os).jobs = s.jobs := rfl
@[simp] theorem State.emits_render : (s.emits os).render = s.render := rfl
@[simp] theorem State.emits_land : (s.emits os).land = s.land := rfl
@[simp] theorem State.emits_mem : (s.emits os).mem = s.mem := rfl
@[simp] theorem State.emits_mc : (s.emits os).mc = s.mc := rfl
@[simp] theorem State.emits_play : (s.emits os).play = s.play := rfl
@[simp] theorem State.emits_beam : (s.emits os).beam = s.beam := rfl
@[simp] theorem State.emits_stage : (s.emits os).stage = s.stage := rfl
@[simp] theorem State.emits_pacer : (s.emits os).pacer = s.pacer := rfl
@[simp] theorem State.emits_link : (s.emits os).link = s.link := rfl
@[simp] theorem State.emits_plate : (s.emits os).plate = s.plate := rfl
@[simp] theorem State.emits_cams : (s.emits os).cams = s.cams := rfl
@[simp] theorem State.emits_meas : (s.emits os).meas = s.meas := rfl
@[simp] theorem State.emits_dma : (s.emits os).dma = s.dma := rfl
@[simp] theorem State.emits_repair : (s.emits os).repair = s.repair := rfl
@[simp] theorem State.emits_ref : (s.emits os).ref = s.ref := rfl
@[simp] theorem State.emits_fw : (s.emits os).fw = s.fw := rfl
@[simp] theorem State.emits_power : (s.emits os).power = s.power := rfl
@[simp] theorem State.emits_log : (s.emits os).log = s.log := rfl
@[simp] theorem State.emits_ledger : (s.emits os).ledger = s.ledger := rfl
@[simp] theorem State.emits_trace : (s.emits os).trace = s.trace := rfl
@[simp] theorem State.emits_mgmt : (s.emits os).mgmt = s.mgmt := rfl
@[simp] theorem State.emits_fresh : (s.emits os).fresh = s.fresh := rfl
@[simp] theorem State.emits_out : (s.emits os).out = s.out ++ os := rfl
@[simp] theorem State.emits_pending : (s.emits os).pending = s.pending := rfl
end

section
variable (s : State) 
@[simp] theorem State.draw_time : (s.draw).time = s.time := rfl
@[simp] theorem State.draw_host : (s.draw).host = s.host := rfl
@[simp] theorem State.draw_jobs : (s.draw).jobs = s.jobs := rfl
@[simp] theorem State.draw_render : (s.draw).render = s.render := rfl
@[simp] theorem State.draw_land : (s.draw).land = s.land := rfl
@[simp] theorem State.draw_mem : (s.draw).mem = s.mem := rfl
@[simp] theorem State.draw_mc : (s.draw).mc = s.mc := rfl
@[simp] theorem State.draw_play : (s.draw).play = s.play := rfl
@[simp] theorem State.draw_beam : (s.draw).beam = s.beam := rfl
@[simp] theorem State.draw_stage : (s.draw).stage = s.stage := rfl
@[simp] theorem State.draw_pacer : (s.draw).pacer = s.pacer := rfl
@[simp] theorem State.draw_link : (s.draw).link = s.link := rfl
@[simp] theorem State.draw_plate : (s.draw).plate = s.plate := rfl
@[simp] theorem State.draw_cams : (s.draw).cams = s.cams := rfl
@[simp] theorem State.draw_meas : (s.draw).meas = s.meas := rfl
@[simp] theorem State.draw_dma : (s.draw).dma = s.dma := rfl
@[simp] theorem State.draw_repair : (s.draw).repair = s.repair := rfl
@[simp] theorem State.draw_ref : (s.draw).ref = s.ref := rfl
@[simp] theorem State.draw_fw : (s.draw).fw = s.fw := rfl
@[simp] theorem State.draw_power : (s.draw).power = s.power := rfl
@[simp] theorem State.draw_log : (s.draw).log = s.log := rfl
@[simp] theorem State.draw_ledger : (s.draw).ledger = s.ledger := rfl
@[simp] theorem State.draw_trace : (s.draw).trace = s.trace := rfl
@[simp] theorem State.draw_mgmt : (s.draw).mgmt = s.mgmt := rfl
@[simp] theorem State.draw_fresh : (s.draw).fresh = s.fresh + 1 := rfl
@[simp] theorem State.draw_out : (s.draw).out = s.out := rfl
@[simp] theorem State.draw_pending : (s.draw).pending = s.pending := rfl
end

end Sys2Proof.Machine
end

