-- ==== Sys2Proof/Laws/Parts.lean ====
section
/-!
SUPPORT. What a function of the state may change: `Fr ps s t` says that nothing but the parts `ps` differs
between `s` and `t`, and that `t` is as sound as `s`. One lemma a function; a caller cites it.
-/

namespace Sys2Proof.Machine

/-- What is sound of `s` is sound of `t`. -/
def Keeps (s t : State) : Prop := (s.memWf → t.memWf) ∧ (s.mbsWf → t.mbsWf) ∧ (s.safePermit → t.safePermit)

/-- Only the parts `ps` differ, and soundness is kept. -/
def Fr (ps : List Part) (s t : State) : Prop := OnlyParts ps s t ∧ Keeps s t

theorem Part.same_refl (p : Part) (s : State) : p.same s s := by
  cases p
  case bytes => exact ⟨fun _ _ h => ⟨h, rfl⟩, fun _ h => Or.inl h, fun _ h => Or.inl h⟩
  all_goals first | rfl | exact ⟨rfl, rfl⟩ | exact ⟨rfl, rfl, rfl, rfl⟩

theorem Part.same_trans {p : Part} {s t u : State} (h1 : p.same s t) (h2 : p.same t u) : p.same s u := by
  cases p
  case bytes =>
    refine ⟨fun sp a h => ?_, fun c hc => ?_, fun c hc => ?_⟩
    · have a1 := h1.1 sp a h
      have a2 := h2.1 sp a a1.1
      exact ⟨a2.1, a2.2.trans a1.2⟩
    · rcases h2.2.1 c hc with h | h
      · exact h1.2.1 c h
      · exact Or.inr (Classical.byContradiction fun hn => (h1.1 _ _ hn).1 h)
    · rcases h2.2.2 c hc with h | h
      · exact h1.2.2 c h
      · exact Or.inr (Classical.byContradiction fun hn => (h1.1 _ _ hn).1 h)
  case ports => exact ⟨h2.1.trans h1.1, h2.2.trans h1.2⟩
  case queues =>
    exact ⟨h2.1.trans h1.1, h2.2.1.trans h1.2.1, h2.2.2.1.trans h1.2.2.1, h2.2.2.2.trans h1.2.2.2⟩
  case mc =>
    exact ⟨h2.1.trans h1.1, h2.2.1.trans h1.2.1, h2.2.2.1.trans h1.2.2.1, h2.2.2.2.trans h1.2.2.2⟩
  all_goals exact Eq.trans (b := _) h2 h1

theorem Fr.refl (ps : List Part) (s : State) : Fr ps s s :=
  ⟨fun p => Or.inr (p.same_refl s), id, id, id⟩

theorem Fr.trans {ps : List Part} {s t u : State} (h1 : Fr ps s t) (h2 : Fr ps t u) : Fr ps s u := by
  refine ⟨fun p => ?_, fun h => h2.2.1 (h1.2.1 h), fun h => h2.2.2.1 (h1.2.2.1 h),
    fun h => h2.2.2.2 (h1.2.2.2 h)⟩
  rcases h1.1 p with h | h
  · exact Or.inl h
  · rcases h2.1 p with h' | h'
    · exact Or.inl h'
    · exact Or.inr (Part.same_trans h h')

theorem Fr.mono {ps qs : List Part} {s t : State} (h : Fr qs s t) (hq : qs.all ps.contains = true) :
    Fr ps s t := by
  refine ⟨fun p => ?_, h.2⟩
  rcases h.1 p with hp | hp
  · rw [List.all_eq_true] at hq
    exact Or.inl (by simpa using hq p hp)
  · exact Or.inr hp

/-- One function more. -/
theorem Fr.step {ps qs : List Part} {s t u : State} (h2 : Fr qs t u) (hq : qs.all ps.contains = true)
    (h1 : Fr ps s t) : Fr ps s u := h1.trans (h2.mono hq)

theorem Fr.ite {ps : List Part} {c : Prop} [Decidable c] {s a b : State} (ha : Fr ps s a) (hb : Fr ps s b) :
    Fr ps s (if c then a else b) := by
  split
  · exact ha
  · exact hb

theorem Fr.foldl {α : Type} {ps : List Part} {s t : State} {f : State → α → State} {xs : List α}
    (h : Fr ps s t) (hf : ∀ t x, Fr ps s t → Fr ps s (f t x)) : Fr ps s (xs.foldl f t) := by
  induction xs generalizing t with
  | nil => exact h
  | cons x xs ih => exact ih (hf t x h)

/-- From the parts, one by one. -/
theorem Fr.of {ps : List Part} {s t : State} (h : ∀ p : Part, p ∈ ps ∨ p.same s t) (hm : t.mem = s.mem)
    (hb : t.host.mbs.length = s.host.mbs.length) (hr : t.ref = s.ref) : Fr ps s t := by
  refine ⟨h, fun hw => ?_, fun hw => ?_, fun hw => ?_⟩
  · unfold State.memWf at *
    rw [hm]
    exact hw
  · unfold State.mbsWf at *
    rw [hb]
    exact hw
  · unfold State.safePermit at *
    rw [hr]
    exact hw

theorem same_bytes_of {s t : State} (h1 : t.mem = s.mem) (h2 : t.host.portA.evq = s.host.portA.evq)
    (h3 : t.host.portB.evq = s.host.portB.evq) (h4 : t.mc.stA.heldWrites = s.mc.stA.heldWrites)
    (h5 : t.mc.stB.heldWrites = s.mc.stB.heldWrites) : Part.bytes.same s t := by
  refine ⟨fun sp a h => ?_, fun c hc => Or.inl (h4 ▸ hc), fun c hc => Or.inl (h5 ▸ hc)⟩
  unfold State.inQueue at *
  unfold State.byte
  rw [h1, h2, h3]
  exact ⟨h, rfl⟩

theorem State.onTime_fr (s : State) (f : TimeBase → TimeBase) : Fr [.time] s (s.onTime f) := by
  refine Fr.of (fun p => ?_) rfl rfl rfl
  cases p
  case bytes => exact Or.inr (same_bytes_of rfl rfl rfl rfl rfl)
  all_goals first | exact Or.inl (by decide) | exact Or.inr rfl | exact Or.inr ⟨rfl, rfl⟩ | exact Or.inr ⟨rfl, rfl, rfl, rfl⟩

theorem State.onJobs_fr (s : State) (f : Jobs → Jobs) : Fr [.jobs] s (s.onJobs f) := by
  refine Fr.of (fun p => ?_) rfl rfl rfl
  cases p
  case bytes => exact Or.inr (same_bytes_of rfl rfl rfl rfl rfl)
  all_goals first | exact Or.inl (by decide) | exact Or.inr rfl | exact Or.inr ⟨rfl, rfl⟩ | exact Or.inr ⟨rfl, rfl, rfl, rfl⟩

theorem State.onRender_fr (s : State) (f : Render → Render) : Fr [.render] s (s.onRender f) := by
  refine Fr.of (fun p => ?_) rfl rfl rfl
  cases p
  case bytes => exact Or.inr (same_bytes_of rfl rfl rfl rfl rfl)
  all_goals first | exact Or.inl (by decide) | exact Or.inr rfl | exact Or.inr ⟨rfl, rfl⟩ | exact Or.inr ⟨rfl, rfl, rfl, rfl⟩

theorem State.onLand_fr (s : State) (f : Landing → Landing) : Fr [.land] s (s.onLand f) := by
  refine Fr.of (fun p => ?_) rfl rfl rfl
  cases p
  case bytes => exact Or.inr (same_bytes_of rfl rfl rfl rfl rfl)
  all_goals first | exact Or.inl (by decide) | exact Or.inr rfl | exact Or.inr ⟨rfl, rfl⟩ | exact Or.inr ⟨rfl, rfl, rfl, rfl⟩

theorem State.onPlay_fr (s : State) (f : Play → Play) : Fr [.play] s (s.onPlay f) := by
  refine Fr.of (fun p => ?_) rfl rfl rfl
  cases p
  case bytes => exact Or.inr (same_bytes_of rfl rfl rfl rfl rfl)
  all_goals first | exact Or.inl (by decide) | exact Or.inr rfl | exact Or.inr ⟨rfl, rfl⟩ | exact Or.inr ⟨rfl, rfl, rfl, rfl⟩

theorem State.onBeam_fr (s : State) (f : Beam → Beam) : Fr [.beam] s (s.onBeam f) := by
  refine Fr.of (fun p => ?_) rfl rfl rfl
  cases p
  case bytes => exact Or.inr (same_bytes_of rfl rfl rfl rfl rfl)
  all_goals first | exact Or.inl (by decide) | exact Or.inr rfl | exact Or.inr ⟨rfl, rfl⟩ | exact Or.inr ⟨rfl, rfl, rfl, rfl⟩

theorem State.onStage_fr (s : State) (f : Stage → Stage) : Fr [.stage] s (s.onStage f) := by
  refine Fr.of (fun p => ?_) rfl rfl rfl
  cases p
  case bytes => exact Or.inr (same_bytes_of rfl rfl rfl rfl rfl)
  all_goals first | exact Or.inl (by decide) | exact Or.inr rfl | exact Or.inr ⟨rfl, rfl⟩ | exact Or.inr ⟨rfl, rfl, rfl, rfl⟩

theorem State.onPacer_fr (s : State) (f : Pacer → Pacer) : Fr [.pacer] s (s.onPacer f) := by
  refine Fr.of (fun p => ?_) rfl rfl rfl
  cases p
  case bytes => exact Or.inr (same_bytes_of rfl rfl rfl rfl rfl)
  all_goals first | exact Or.inl (by decide) | exact Or.inr rfl | exact Or.inr ⟨rfl, rfl⟩ | exact Or.inr ⟨rfl, rfl, rfl, rfl⟩

theorem State.onLink_fr (s : State) (f : Link → Link) : Fr [.link] s (s.onLink f) := by
  refine Fr.of (fun p => ?_) rfl rfl rfl
  cases p
  case bytes => exact Or.inr (same_bytes_of rfl rfl rfl rfl rfl)
  all_goals first | exact Or.inl (by decide) | exact Or.inr rfl | exact Or.inr ⟨rfl, rfl⟩ | exact Or.inr ⟨rfl, rfl, rfl, rfl⟩

theorem State.onPlate_fr (s : State) (f : Plate → Plate) : Fr [.plate] s (s.onPlate f) := by
  refine Fr.of (fun p => ?_) rfl rfl rfl
  cases p
  case bytes => exact Or.inr (same_bytes_of rfl rfl rfl rfl rfl)
  all_goals first | exact Or.inl (by decide) | exact Or.inr rfl | exact Or.inr ⟨rfl, rfl⟩ | exact Or.inr ⟨rfl, rfl, rfl, rfl⟩

theorem State.onCams_fr (s : State) (f : Cams → Cams) : Fr [.cams] s (s.onCams f) := by
  refine Fr.of (fun p => ?_) rfl rfl rfl
  cases p
  case bytes => exact Or.inr (same_bytes_of rfl rfl rfl rfl rfl)
  all_goals first | exact Or.inl (by decide) | exact Or.inr rfl | exact Or.inr ⟨rfl, rfl⟩ | exact Or.inr ⟨rfl, rfl, rfl, rfl⟩

theorem State.onMeas_fr (s : State) (f : Meas → Meas) : Fr [.meas] s (s.onMeas f) := by
  refine Fr.of (fun p => ?_) rfl rfl rfl
  cases p
  case bytes => exact Or.inr (same_bytes_of rfl rfl rfl rfl rfl)
  all_goals first | exact Or.inl (by decide) | exact Or.inr rfl | exact Or.inr ⟨rfl, rfl⟩ | exact Or.inr ⟨rfl, rfl, rfl, rfl⟩

theorem State.onDma_fr (s : State) (f : DmaUnits → DmaUnits) : Fr [.dma] s (s.onDma f) := by
  refine Fr.of (fun p => ?_) rfl rfl rfl
  cases p
  case bytes => exact Or.inr (same_bytes_of rfl rfl rfl rfl rfl)
  all_goals first | exact Or.inl (by decide) | exact Or.inr rfl | exact Or.inr ⟨rfl, rfl⟩ | exact Or.inr ⟨rfl, rfl, rfl, rfl⟩

theorem State.onRepair_fr (s : State) (f : Repair → Repair) : Fr [.repair] s (s.onRepair f) := by
  refine Fr.of (fun p => ?_) rfl rfl rfl
  cases p
  case bytes => exact Or.inr (same_bytes_of rfl rfl rfl rfl rfl)
  all_goals first | exact Or.inl (by decide) | exact Or.inr rfl | exact Or.inr ⟨rfl, rfl⟩ | exact Or.inr ⟨rfl, rfl, rfl, rfl⟩

/-- The Referee updated; in the safe state PERMIT_OUT stays dropped. -/
theorem State.onRef_fr (s : State) (f : Referee → Referee)
    (hf : ∀ r, (r.safe = true → r.permitOut = false) → (f r).safe = true → (f r).permitOut = false) :
    Fr [.ref] s (s.onRef f) := by
  refine ⟨fun p => ?_, id, id, hf _⟩
  cases p
  case bytes => exact Or.inr (same_bytes_of rfl rfl rfl rfl rfl)
  all_goals first | exact Or.inl (by decide) | exact Or.inr rfl | exact Or.inr ⟨rfl, rfl⟩ | exact Or.inr ⟨rfl, rfl, rfl, rfl⟩

theorem State.onFw_fr (s : State) (f : Firmware → Firmware) : Fr [.fw] s (s.onFw f) := by
  refine Fr.of (fun p => ?_) rfl rfl rfl
  cases p
  case bytes => exact Or.inr (same_bytes_of rfl rfl rfl rfl rfl)
  all_goals first | exact Or.inl (by decide) | exact Or.inr rfl | exact Or.inr ⟨rfl, rfl⟩ | exact Or.inr ⟨rfl, rfl, rfl, rfl⟩

theorem State.onPower_fr (s : State) (f : Power → Power) : Fr [.power] s (s.onPower f) := by
  refine Fr.of (fun p => ?_) rfl rfl rfl
  cases p
  case bytes => exact Or.inr (same_bytes_of rfl rfl rfl rfl rfl)
  all_goals first | exact Or.inl (by decide) | exact Or.inr rfl | exact Or.inr ⟨rfl, rfl⟩ | exact Or.inr ⟨rfl, rfl, rfl, rfl⟩

theorem State.onLog_fr (s : State) (f : FaultLog → FaultLog) : Fr [.log] s (s.onLog f) := by
  refine Fr.of (fun p => ?_) rfl rfl rfl
  cases p
  case bytes => exact Or.inr (same_bytes_of rfl rfl rfl rfl rfl)
  all_goals first | exact Or.inl (by decide) | exact Or.inr rfl | exact Or.inr ⟨rfl, rfl⟩ | exact Or.inr ⟨rfl, rfl, rfl, rfl⟩

theorem State.onLedger_fr (s : State) (f : Ledger → Ledger) : Fr [.ledger] s (s.onLedger f) := by
  refine Fr.of (fun p => ?_) rfl rfl rfl
  cases p
  case bytes => exact Or.inr (same_bytes_of rfl rfl rfl rfl rfl)
  all_goals first | exact Or.inl (by decide) | exact Or.inr rfl | exact Or.inr ⟨rfl, rfl⟩ | exact Or.inr ⟨rfl, rfl, rfl, rfl⟩

theorem State.onTrace_fr (s : State) (f : Trace → Trace) : Fr [.trace] s (s.onTrace f) := by
  refine Fr.of (fun p => ?_) rfl rfl rfl
  cases p
  case bytes => exact Or.inr (same_bytes_of rfl rfl rfl rfl rfl)
  all_goals first | exact Or.inl (by decide) | exact Or.inr rfl | exact Or.inr ⟨rfl, rfl⟩ | exact Or.inr ⟨rfl, rfl, rfl, rfl⟩

theorem State.onMgmt_fr (s : State) (f : Mgmt → Mgmt) : Fr [.mgmt] s (s.onMgmt f) := by
  refine Fr.of (fun p => ?_) rfl rfl rfl
  cases p
  case bytes => exact Or.inr (same_bytes_of rfl rfl rfl rfl rfl)
  all_goals first | exact Or.inl (by decide) | exact Or.inr rfl | exact Or.inr ⟨rfl, rfl⟩ | exact Or.inr ⟨rfl, rfl, rfl, rfl⟩

theorem State.draw_fr (s : State) : Fr [] s (s.draw) := by
  refine Fr.of (fun p => ?_) rfl rfl rfl
  cases p
  case bytes => exact Or.inr (same_bytes_of rfl rfl rfl rfl rfl)
  all_goals first | exact Or.inl (by decide) | exact Or.inr rfl | exact Or.inr ⟨rfl, rfl⟩ | exact Or.inr ⟨rfl, rfl, rfl, rfl⟩

theorem State.emit_fr (s : State) (o : Output) : Fr [.out] s (s.emit o) := by
  refine Fr.of (fun p => ?_) rfl rfl rfl
  cases p
  case bytes => exact Or.inr (same_bytes_of rfl rfl rfl rfl rfl)
  all_goals first | exact Or.inl (by decide) | exact Or.inr rfl | exact Or.inr ⟨rfl, rfl⟩ | exact Or.inr ⟨rfl, rfl, rfl, rfl⟩

theorem State.emits_fr (s : State) (os : List Output) : Fr [.out] s (s.emits os) := by
  refine Fr.of (fun p => ?_) rfl rfl rfl
  cases p
  case bytes => exact Or.inr (same_bytes_of rfl rfl rfl rfl rfl)
  all_goals first | exact Or.inl (by decide) | exact Or.inr rfl | exact Or.inr ⟨rfl, rfl⟩ | exact Or.inr ⟨rfl, rfl, rfl, rfl⟩

end Sys2Proof.Machine
end

