-- ==== Sys2Proof/Laws/Ops.lean ====
section
/-!
SUPPORT. What the shared operations of Machine/Ops.lean may change: mailboxes, ports, memory, events, the
fault log, responses.
-/

namespace Sys2Proof.Machine

theorem State.onMb_fr (s : State) (n : BitVec 4) (f : Mailbox → Mailbox) : Fr [.mailboxes] s (s.onMb n f) := by
  refine Fr.of (fun p => ?_) rfl (by simp [HostIf.onMb]) rfl
  cases p
  case bytes => exact Or.inr (same_bytes_of rfl rfl rfl rfl rfl)
  all_goals first | exact Or.inl (by decide) | exact Or.inr rfl | exact Or.inr ⟨rfl, rfl⟩ | exact Or.inr ⟨rfl, rfl, rfl, rfl⟩

theorem State.onHost_waiting_fr (s : State) (f : HostIf → HostIf)
    (h : ∀ x, (f x).portA = x.portA ∧ (f x).portB = x.portB ∧ (f x).mbs = x.mbs ∧ (f x).held = x.held) :
    Fr [.waiting] s (s.onHost f) := by
  obtain ⟨h1, h2, h3, h4⟩ := h s.host
  refine Fr.of (fun p => ?_) rfl (congrArg List.length h3) rfl
  cases p
  case bytes => exact Or.inr (same_bytes_of rfl (congrArg PortS.evq h1) (congrArg PortS.evq h2) rfl rfl)
  all_goals first
    | exact Or.inl (by decide)
    | (refine Or.inr ?_; simp [Part.same, h1, h2, h3, h4]; done)

theorem State.onHost_bells_fr (s : State) (f : HostIf → HostIf)
    (h : ∀ x, (f x).portA = x.portA ∧ (f x).portB = x.portB ∧ (f x).mbs = x.mbs ∧ (f x).waiting = x.waiting) :
    Fr [.bells] s (s.onHost f) := by
  obtain ⟨h1, h2, h3, h4⟩ := h s.host
  refine Fr.of (fun p => ?_) rfl (congrArg List.length h3) rfl
  cases p
  case bytes => exact Or.inr (same_bytes_of rfl (congrArg PortS.evq h1) (congrArg PortS.evq h2) rfl rfl)
  all_goals first
    | exact Or.inl (by decide)
    | (refine Or.inr ?_; simp [Part.same, h1, h2, h3, h4]; done)

theorem State.onHost_mbs_fr (s : State) (f : HostIf → HostIf)
    (h : ∀ x, (f x).portA = x.portA ∧ (f x).portB = x.portB ∧ (f x).waiting = x.waiting ∧ (f x).held = x.held)
    (hl : ∀ x, (f x).mbs.length = x.mbs.length) : Fr [.mailboxes] s (s.onHost f) := by
  obtain ⟨h1, h2, h3, h4⟩ := h s.host
  refine Fr.of (fun p => ?_) rfl (hl _) rfl
  cases p
  case bytes => exact Or.inr (same_bytes_of rfl (congrArg PortS.evq h1) (congrArg PortS.evq h2) rfl rfl)
  all_goals first
    | exact Or.inl (by decide)
    | (refine Or.inr ?_; simp [Part.same, h1, h2, h3, h4]; done)

/-- A port updated outside its event queue and its pending vectors. -/
theorem State.onPort_fixed_fr (s : State) (p : Port) (f : PortS → PortS)
    (h1 : ∀ q, (f q).evq = q.evq) (h2 : ∀ q, (f q).msixPend = q.msixPend) : Fr [.ports] s (s.onPort p f) := by
  refine Fr.of (fun r => ?_) rfl (by cases p <;> rfl) rfl
  cases r
  case bytes => refine Or.inr (same_bytes_of rfl ?_ ?_ rfl rfl) <;> cases p <;> first | rfl | exact h1 _
  case queues =>
    refine Or.inr ⟨?_, ?_, ?_, ?_⟩ <;> cases p <;> first | rfl | exact h1 _ | exact h2 _
  all_goals first
    | exact Or.inl (by decide)
    | (refine Or.inr ?_; cases p <;> first | rfl | exact ⟨rfl, rfl, rfl, rfl⟩)

theorem PortS.fixed_evq {p q : PortS} (h : p.fixed = q.fixed) :
    p.evq.base = q.evq.base ∧ p.evq.space = q.evq.space ∧ p.evq.log2n = q.evq.log2n := by
  have h1 := congrArg PortS.evq h
  unfold PortS.fixed at h1
  simp only [EventQueue.mk.injEq] at h1
  exact ⟨h1.1, h1.2.1, h1.2.2.1⟩

theorem EventQueue.has_of {q r : EventQueue} (h1 : r.base = q.base) (h2 : r.space = q.space)
    (h3 : r.log2n = q.log2n) (hw : r.wp < max q.size (q.wp + 1)) {sp : BitVec 4} {a : Nat}
    (h : r.has sp a) : q.has sp a := by
  have hs : r.size = q.size := by unfold EventQueue.size; rw [h3]
  obtain ⟨a1, a2, a3, a4⟩ := h
  rw [hs] at a1 a4
  refine ⟨a1, h2 ▸ a2, h1 ▸ a3, ?_⟩
  rw [h1] at a4
  omega

/-- A port's queue moved: its position, what is staged or lost, its pending vectors. -/
theorem State.onPort_queue_fr (s : State) (p : Port) (f : PortS → PortS)
    (h : (f (s.port p)).fixed = (s.port p).fixed)
    (hw : (f (s.port p)).evq.wp < max (s.port p).evq.size ((s.port p).evq.wp + 1)) :
    Fr [.queues] s (s.onPort p f) := by
  refine Fr.of (fun r => ?_) rfl (by cases p <;> rfl) rfl
  cases r
  case bytes =>
    refine Or.inr ⟨fun sp a hn => ⟨fun hc => hn ?_, rfl⟩, fun c hc => Or.inl hc, fun c hc => Or.inl hc⟩
    have hf := PortS.fixed_evq h
    cases p
    · rcases hc with hc | hc
      · exact Or.inl (EventQueue.has_of hf.1 hf.2.1 hf.2.2 hw hc)
      · exact Or.inr hc
    · rcases hc with hc | hc
      · exact Or.inl hc
      · exact Or.inr (EventQueue.has_of hf.1 hf.2.1 hf.2.2 hw hc)
  case ports => refine Or.inr ?_; cases p <;> first | exact ⟨h, rfl⟩ | exact ⟨rfl, h⟩
  all_goals first
    | exact Or.inl (by decide)
    | (refine Or.inr ?_; cases p <;> first | rfl | exact ⟨rfl, rfl, rfl, rfl⟩)

theorem State.onPort_fr (s : State) (p : Port) (f : PortS → PortS) :
    Fr [.ports, .queues, .bytes] s (s.onPort p f) := by
  refine Fr.of (fun r => ?_) rfl (by cases p <;> rfl) rfl
  cases r
  all_goals first
    | exact Or.inl (by decide)
    | (refine Or.inr ?_; cases p <;> first | rfl | exact ⟨rfl, rfl, rfl, rfl⟩)

/-- The memory controller updated, the held writes as they were. -/
theorem State.onMc_fr (s : State) (f : MemCtl → MemCtl)
    (h : ∀ m, (f m).stA.heldWrites = m.stA.heldWrites ∧ (f m).stB.heldWrites = m.stB.heldWrites) :
    Fr [.mc] s (s.onMc f) := by
  refine Fr.of (fun p => ?_) rfl rfl rfl
  cases p
  case bytes => exact Or.inr (same_bytes_of rfl rfl rfl (h _).1 (h _).2)
  all_goals first | exact Or.inl (by decide) | exact Or.inr rfl | exact Or.inr ⟨rfl, rfl⟩ | exact Or.inr ⟨rfl, rfl, rfl, rfl⟩

theorem State.onMc_any_fr (s : State) (f : MemCtl → MemCtl) : Fr [.mc, .bytes] s (s.onMc f) := by
  refine Fr.of (fun p => ?_) rfl rfl rfl
  cases p
  all_goals first | exact Or.inl (by decide) | exact Or.inr rfl | exact Or.inr ⟨rfl, rfl⟩ | exact Or.inr ⟨rfl, rfl, rfl, rfl⟩

theorem MemCtl.onStack_held (m : MemCtl) (k : Stack) (f : StackCtl → StackCtl)
    (h : ∀ c, (f c).heldWrites = c.heldWrites) :
    (m.onStack k f).stA.heldWrites = m.stA.heldWrites ∧ (m.onStack k f).stB.heldWrites = m.stB.heldWrites := by
  cases k
  · exact ⟨h _, rfl⟩
  · exact ⟨rfl, h _⟩

theorem MemCtl.onStack_fixed (m : MemCtl) (k : Stack) (f : StackCtl → StackCtl)
    (h : ∀ c, (f c).fixed = c.fixed) :
    (m.onStack k f).stA.fixed = m.stA.fixed ∧ (m.onStack k f).stB.fixed = m.stB.fixed ∧
      (m.onStack k f).coldSince = m.coldSince ∧ (m.onStack k f).pllDown = m.pllDown := by
  cases k
  · exact ⟨h _, rfl, rfl, rfl⟩
  · exact ⟨rfl, h _, rfl, rfl⟩

theorem State.onMem_fr (s : State) (f : Mem → Mem) (h : ∀ m, Memory.wf m → Memory.wf (f m)) :
    Fr [.bytes] s (s.onMem f) := by
  refine ⟨fun p => ?_, fun hw => h _ hw, id, id⟩
  cases p
  all_goals first | exact Or.inl (by decide) | exact Or.inr rfl | exact Or.inr ⟨rfl, rfl⟩ | exact Or.inr ⟨rfl, rfl, rfl, rfl⟩

theorem State.write_fr (s : State) (sp : BitVec 4) (a : Nat) (bs : List Byte) :
    Fr [.bytes] s (s.write sp a bs) := by
  have hm : Fr [.bytes] s (s.onMem fun m => m.write sp a bs) :=
    s.onMem_fr _ fun m h => Mem.write_wf h sp a bs
  unfold State.write
  split
  · split
    · exact Fr.refl _ _
    · split
      · refine Fr.of (fun p => ?_) rfl rfl rfl
        cases p
        case mc => exact Or.inr (MemCtl.onStack_fixed _ _ _ fun _ => rfl)
        all_goals first | exact Or.inl (by decide) | exact Or.inr rfl | exact Or.inr ⟨rfl, rfl⟩ | exact Or.inr ⟨rfl, rfl, rfl, rfl⟩
      · exact hm
  · exact hm

theorem Part.same_write_bytes {s : State} {sp : BitVec 4} {a : Nat} {bs : List Byte}
    (h : ∀ i < bs.length, s.inQueue sp (a + i)) : Part.bytes.same s (s.onMem fun m => m.write sp a bs) := by
  refine ⟨fun sq x hn => ⟨hn, ?_⟩, fun _ hc => Or.inl hc, fun _ hc => Or.inl hc⟩
  refine Mem.readCell_write_out s.mem fun he => ?_
  subst he
  refine Classical.byContradiction fun hc => hn ?_
  have hx : x = a + (x - a) := by omega
  rw [hx]
  exact h _ (by omega)

theorem mem_zipIdx_add {α : Type} {xs : List α} {a : Nat} {p : α × Nat} (h : p ∈ xs.zipIdx a) :
    ∃ i < xs.length, p.2 = a + i := by
  have h1 := List.le_snd_of_mem_zipIdx h
  have h2 := List.snd_lt_add_of_mem_zipIdx h
  exact ⟨p.2 - a, by omega, by omega⟩

/-- A write into the entries of an event queue. -/
theorem State.write_queue_fr (s : State) (sp : BitVec 4) (a : Nat) (bs : List Byte)
    (h : ∀ i < bs.length, s.inQueue sp (a + i)) : Fr [] s (s.write sp a bs) := by
  have hw := (s.write_fr sp a bs).2
  refine ⟨fun p => Or.inr ?_, hw⟩
  have hp := (s.write_fr sp a bs).1 p
  rcases hp with hp | hp
  · simp only [List.mem_singleton] at hp
    subst hp
    unfold State.write
    split
    · rename_i hsp
      split
      · exact Part.same_refl _ _
      · split
        · subst hsp
          refine ⟨fun _ _ hn => ⟨hn, rfl⟩, fun c hc => ?_, fun c hc => ?_⟩ <;>
          · revert hc
            simp only [State.onMc_mc]
            unfold MemCtl.onStack
            split <;> simp only <;> intro hc <;> first
              | exact Or.inl hc
              | (simp only [List.mem_append, List.mem_map] at hc
                 rcases hc with hc | ⟨q, hq, rfl⟩
                 · exact Or.inl hc
                 · obtain ⟨i, hi, he⟩ := mem_zipIdx_add hq
                   exact Or.inr (by simpa only [he] using h i hi))
        · exact Part.same_write_bytes h
    · exact Part.same_write_bytes h
  · exact hp

theorem State.msix_fr (s : State) (p : Port) (v : Nat) : Fr [.queues, .out] s (s.msix p v) := by
  unfold State.msix
  split
  · exact (s.onPort_queue_fr p _ rfl (by simp only; omega)).mono rfl
  · exact (s.emit_fr _).mono rfl

theorem State.port_inQueue {s : State} {p : Port} {sp : BitVec 4} {a : Nat} (h : (s.port p).evq.has sp a) :
    s.inQueue sp a := by
  cases p
  · exact Or.inl h
  · exact Or.inr h

theorem State.port_write (s : State) (p : Port) (sp : BitVec 4) (a : Nat) (bs : List Byte) :
    (s.write sp a bs).port p = s.port p := by
  unfold State.write
  repeat' split
  all_goals rfl

/-- An event record is written into an entry of the queue. -/
theorem State.putEvent_fr (s : State) (p : Port) (e : Event) (h : (s.port p).evq.size ≠ 0) :
    Fr [.queues, .out] s (s.putEvent p e) := by
  unfold State.putEvent
  refine Fr.trans (Fr.trans ((s.write_queue_fr _ _ _ fun i hi => ?_).mono rfl)
    ((State.onPort_queue_fr _ p _ ?_ ?_).mono rfl)) (State.msix_fr _ _ _)
  · rw [wordsBytes_length] at hi
    simp only [Event.words, List.length_cons, List.length_nil] at hi
    refine State.port_inQueue ⟨h, rfl, by omega, ?_⟩
    omega
  · rw [State.port_write]; rfl
  · simp only [State.port_write]
    have := Nat.mod_lt ((s.port p).evq.wp + 1) (Nat.pos_of_ne_zero h)
    omega

theorem EventQueue.size_of_full {q : EventQueue} (h : q.full = false) : q.size ≠ 0 := by
  unfold EventQueue.full at h
  simp only [Bool.or_eq_false_iff, beq_eq_false_iff_ne] at h
  exact h.1

theorem State.onPort_queue_wp (s : State) (p : Port) (f : PortS → PortS)
    (h : (f (s.port p)).fixed = (s.port p).fixed) (hw : (f (s.port p)).evq.wp = (s.port p).evq.wp) :
    Fr [.queues] s (s.onPort p f) := s.onPort_queue_fr p f h (by rw [hw]; omega)

theorem State.drainEvents_fr (n : Nat) (p : Port) (s : State) :
    Fr [.queues, .out] s (State.drainEvents n p s) := by
  induction n generalizing s with
  | zero => exact Fr.refl _ _
  | succ n ih =>
    unfold State.drainEvents
    dsimp only
    split
    · exact Fr.refl _ _
    · rename_i hc
      simp only [Bool.or_eq_true, not_or, Bool.not_eq_true, Bool.not_eq_eq_eq_not, Bool.not_true] at hc
      have hz := EventQueue.size_of_full hc.1
      split
      · refine Fr.trans (Fr.trans (s.putEvent_fr p _ hz) ((State.onPort_queue_wp _ p _ rfl rfl).mono rfl)) (ih _)
      · split
        · exact Fr.refl _ _
        · refine Fr.trans (Fr.trans (s.putEvent_fr p _ hz) ((State.onPort_queue_wp _ p _ rfl rfl).mono rfl)) (ih _)

theorem State.raiseAt_fr (s : State) (p : Port) (e : Event) : Fr [.queues, .out] s (s.raiseAt p e) := by
  unfold State.raiseAt
  dsimp only
  refine Fr.trans ?_ (State.drainEvents_fr _ _ _)
  split
  · exact (s.onPort_queue_wp p _ rfl rfl).mono rfl
  · exact (s.onPort_queue_wp p _ rfl rfl).mono rfl

theorem State.raiseVia_fr (s : State) (via : Option Src) (job : Option (BitVec 16)) (e : Event) :
    Fr [.queues, .out] s (s.raiseVia via job e) := by
  unfold State.raiseVia
  refine Fr.foldl (s.draw_fr.mono rfl) fun t p h => h.trans (t.raiseAt_fr p _)

/-! The same as steps of a longer change. -/

theorem State.onHost_waiting_st {ps : List Part} {s t : State} {f : HostIf → HostIf}
    (hq : [Part.waiting].all ps.contains = true) (h : Fr ps s t)
    (hf : ∀ x, (f x).portA = x.portA ∧ (f x).portB = x.portB ∧ (f x).mbs = x.mbs ∧ (f x).held = x.held) :
    Fr ps s (t.onHost f) := Fr.step (t.onHost_waiting_fr f hf) hq h

theorem State.onHost_bells_st {ps : List Part} {s t : State} {f : HostIf → HostIf}
    (hq : [Part.bells].all ps.contains = true) (h : Fr ps s t)
    (hf : ∀ x, (f x).portA = x.portA ∧ (f x).portB = x.portB ∧ (f x).mbs = x.mbs ∧ (f x).waiting = x.waiting) :
    Fr ps s (t.onHost f) := Fr.step (t.onHost_bells_fr f hf) hq h

theorem State.onHost_mbs_st {ps : List Part} {s t : State} {f : HostIf → HostIf}
    (hq : [Part.mailboxes].all ps.contains = true) (h : Fr ps s t)
    (hf : ∀ x, (f x).portA = x.portA ∧ (f x).portB = x.portB ∧ (f x).waiting = x.waiting ∧ (f x).held = x.held)
    (hl : ∀ x, (f x).mbs.length = x.mbs.length) : Fr ps s (t.onHost f) :=
  Fr.step (t.onHost_mbs_fr f hf hl) hq h

theorem State.onPort_fixed_st {ps : List Part} {s t : State} {p : Port} {f : PortS → PortS}
    (hq : [Part.ports].all ps.contains = true) (h : Fr ps s t)
    (hf : ∀ q, (f q).evq = q.evq ∧ (f q).msixPend = q.msixPend) : Fr ps s (t.onPort p f) :=
  Fr.step (t.onPort_fixed_fr p f (fun q => (hf q).1) fun q => (hf q).2) hq h

theorem State.onPort_queue_st {ps : List Part} {s t : State} {p : Port} {f : PortS → PortS}
    (hq : [Part.queues].all ps.contains = true) (h : Fr ps s t)
    (hf : ∀ q, (f q).fixed = q.fixed ∧ (f q).evq.wp = q.evq.wp) : Fr ps s (t.onPort p f) :=
  Fr.step (t.onPort_queue_wp p f (hf _).1 (hf _).2) hq h

theorem State.onRef_st {ps : List Part} {s t : State} {f : Referee → Referee}
    (hq : [Part.ref].all ps.contains = true) (h : Fr ps s t)
    (hf : ∀ r, (r.safe = true → r.permitOut = false) → (f r).safe = true → (f r).permitOut = false) :
    Fr ps s (t.onRef f) := Fr.step (t.onRef_fr f hf) hq h

theorem State.onMc_st {ps : List Part} {s t : State} {f : MemCtl → MemCtl}
    (hq : [Part.mc].all ps.contains = true) (h : Fr ps s t)
    (hf : ∀ m, (f m).stA.heldWrites = m.stA.heldWrites ∧ (f m).stB.heldWrites = m.stB.heldWrites) :
    Fr ps s (t.onMc f) := Fr.step (t.onMc_fr f hf) hq h

theorem State.onMem_st {ps : List Part} {s t : State} {f : Mem → Mem}
    (hq : [Part.bytes].all ps.contains = true) (h : Fr ps s t) (hf : ∀ m, Memory.wf m → Memory.wf (f m)) :
    Fr ps s (t.onMem f) := Fr.step (t.onMem_fr f hf) hq h

/-! ### Packed words and their fields -/

theorem packW_two (i w x j v y : Nat) :
    packW [(i, w, x), (j, v, y)] = BitVec.ofNat 128 (x % 2 ^ w * 2 ^ i + y % 2 ^ v * 2 ^ j) := by
  simp [packW]

/-- A field of a number's bit vector, in arithmetic. -/
theorem fld_ofNat {n hi lo v : Nat} (h : hi < n) (hl : lo ≤ hi) :
    fld hi lo (BitVec.ofNat n v) = v / 2 ^ lo % 2 ^ (hi + 1 - lo) := by
  unfold fld
  have h1 : (2 : Nat) ^ n = 2 ^ lo * 2 ^ (n - lo) := by rw [← Nat.pow_add]; congr 1; omega
  rw [BitVec.toNat_ofNat, h1, Nat.mod_mul_right_div_self]
  exact Nat.mod_mod_of_dvd _ (Nat.pow_dvd_pow 2 (by omega))

end Sys2Proof.Machine
end

