-- ==== Sys2Proof/Laws/Events.lean ====
section
/-!
SUPPORT. What each function and each meaning of Machine/Ops.lean may change.
-/

namespace Sys2Proof.Machine

/-- A meaning answers a next state that only the parts named tell from `s`. -/
def FrA (ps : List Part) (s : State) (a : Answer) : Prop := ∃ t, a = .next t ∧ Fr ps s t

theorem Fr.id {ps : List Part} {s t : State} (h : Fr ps s t) : Fr ps s (id t) := h

theorem FrA.next {ps : List Part} {s t : State} (h : Fr ps s t) : FrA ps s (.next t) := ⟨t, rfl, h⟩

theorem FrA.ite {ps : List Part} {c : Prop} [Decidable c] {s : State} {a b : Answer} (ha : FrA ps s a)
    (hb : FrA ps s b) : FrA ps s (if c then a else b) := by
  split
  · exact ha
  · exact hb

theorem FrA.mono {ps qs : List Part} {s : State} {a : Answer} (h : FrA qs s a)
    (hq : qs.all ps.contains = true) : FrA ps s a := by
  obtain ⟨t, h1, h2⟩ := h
  exact ⟨t, h1, h2.mono hq⟩

theorem State.raise_fr (s : State) (e : Event) :
    Fr [.queues, .out] s (State.raise s e) := by
  unfold State.raise
  repeat' first
    | intro _
    | with_reducible apply Fr.refl
    | with_reducible assumption
    | (with_reducible apply Fr.step (State.raiseVia_fr ..); decide)
    | with_reducible apply Fr.ite
    | dsimp only
    | split

theorem State.raiseSt_fr (s : State) (id : StripeId) (e : Event) :
    Fr [.queues, .out] s (State.raiseSt s id e) := by
  unfold State.raiseSt
  repeat' first
    | intro _
    | with_reducible apply Fr.refl
    | with_reducible assumption
    | (with_reducible apply Fr.step (State.raiseVia_fr ..); decide)
    | with_reducible apply Fr.ite
    | dsimp only
    | split

theorem State.logEntry_fr (s : State) (e : Event) :
    Fr [.log] s (State.logEntry s e) := by
  unfold State.logEntry
  repeat' first
    | intro _
    | with_reducible apply Fr.refl
    | with_reducible assumption
    | (with_reducible apply Fr.step (State.onLog_fr ..); decide)
    | with_reducible apply Fr.ite
    | dsimp only
    | split

theorem State.fault_fr (s : State) (job : Option (BitVec 16)) (e : Event) :
    Fr [.queues, .log, .out] s (State.fault s job e) := by
  unfold State.fault
  repeat' first
    | intro _
    | with_reducible apply Fr.refl
    | with_reducible assumption
    | (with_reducible apply Fr.step (State.raiseVia_fr ..); decide)
    | (with_reducible apply Fr.step (State.logEntry_fr ..); decide)
    | with_reducible apply Fr.ite
    | dsimp only
    | split

theorem State.faultSt_fr (s : State) (id : StripeId) (e : Event) :
    Fr [.queues, .log, .out] s (State.faultSt s id e) := by
  unfold State.faultSt
  repeat' first
    | intro _
    | with_reducible apply Fr.refl
    | with_reducible assumption
    | (with_reducible apply Fr.step (State.fault_fr ..); decide)
    | with_reducible apply Fr.ite
    | dsimp only
    | split

theorem State.traceRec_fr (s : State) (src : Nat) (w : Word) :
    Fr [.queues, .bytes, .trace, .out] s (State.traceRec s src w) := by
  unfold State.traceRec
  repeat' first
    | intro _
    | with_reducible apply Fr.refl
    | with_reducible assumption
    | (with_reducible apply Fr.step (State.write_fr ..); decide)
    | (with_reducible apply Fr.step (State.onTrace_fr ..); decide)
    | (with_reducible apply Fr.step (State.raise_fr ..); decide)
    | with_reducible apply Fr.ite
    | dsimp only
    | split

theorem State.respond_fr (s : State) (src : Src) (st : BitVec 16) (detail : Nat) (deferred : Bool) (body : List Word) :
    Fr [.queues, .mailboxes, .out] s (State.respond s src st detail deferred body) := by
  unfold State.respond
  repeat' first
    | intro _
    | with_reducible apply Fr.refl
    | with_reducible assumption
    | (with_reducible apply Fr.step (State.onMb_fr ..); decide)
    | (with_reducible apply Fr.step (State.msix_fr ..); decide)
    | (with_reducible apply Fr.step (State.draw_fr ..); decide)
    | with_reducible apply Fr.ite
    | dsimp only
    | split

theorem State.ok_fr (s : State) (src : Src) (body : List Word) :
    Fr [.queues, .mailboxes, .out] s (State.ok s src body) := by
  unfold State.ok
  repeat' first
    | intro _
    | with_reducible apply Fr.refl
    | with_reducible assumption
    | (with_reducible apply Fr.step (State.respond_fr ..); decide)
    | with_reducible apply Fr.ite
    | dsimp only
    | split

theorem State.fail_fr (s : State) (src : Src) (st : BitVec 16) :
    Fr [.queues, .mailboxes, .out] s (State.fail s src st) := by
  unfold State.fail
  repeat' first
    | intro _
    | with_reducible apply Fr.refl
    | with_reducible assumption
    | (with_reducible apply Fr.step (State.respond_fr ..); decide)
    | with_reducible apply Fr.ite
    | dsimp only
    | split

theorem State.command_fr {ps : List Part} {s t : State} {src : Src} {pre : List (Bool × BitVec 16)}
    {k : State → State} (hq : [Part.queues, .mailboxes, .out].all ps.contains = true) (h : Fr ps s t)
    (hk : Fr ps s (k t)) : Fr ps s (t.command src pre k) := by
  unfold State.command
  split
  · exact Fr.step (State.fail_fr ..) hq h
  · exact hk

theorem State.wait_fr (s : State) (src : Src) (c : Instr) :
    Fr [.mailboxes, .waiting] s (State.wait s src c) := by
  unfold State.wait
  repeat' first
    | intro _
    | with_reducible apply Fr.refl
    | with_reducible assumption
    | (with_reducible apply Fr.step (State.onMb_fr ..); decide)
    | (with_reducible apply State.onHost_waiting_st; decide; case hf => exact fun _ => ⟨rfl, rfl, rfl, rfl⟩)
    | with_reducible apply Fr.ite
    | dsimp only
    | split

theorem State.unwait_fr (s : State) (mb : BitVec 4) :
    Fr [.waiting] s (State.unwait s mb) := by
  unfold State.unwait
  repeat' first
    | intro _
    | with_reducible apply Fr.refl
    | with_reducible assumption
    | (with_reducible apply State.onHost_waiting_st; decide; case hf => exact fun _ => ⟨rfl, rfl, rfl, rfl⟩)
    | with_reducible apply Fr.ite
    | dsimp only
    | split

theorem State.unbindQueue_fr (s : State) (q : Nat) :
    Fr [.dma] s (State.unbindQueue s q) := by
  unfold State.unbindQueue
  repeat' first
    | intro _
    | with_reducible apply Fr.refl
    | with_reducible assumption
    | (with_reducible apply Fr.step (State.onDma_fr ..); decide)
    | with_reducible apply Fr.ite
    | dsimp only
    | split

theorem State.onAhead_fr (s : State) (q : Nat) (f : Nat → Nat) :
    Fr [.dma] s (State.onAhead s q f) := by
  unfold State.onAhead
  repeat' first
    | intro _
    | with_reducible apply Fr.refl
    | with_reducible assumption
    | (with_reducible apply Fr.step (State.onDma_fr ..); decide)
    | with_reducible apply Fr.ite
    | dsimp only
    | split

theorem State.onStripe_fr (s : State) (id : StripeId) (f : Stripe → Stripe) :
    Fr [.jobs] s (State.onStripe s id f) := by
  unfold State.onStripe
  repeat' first
    | intro _
    | with_reducible apply Fr.refl
    | with_reducible assumption
    | (with_reducible apply Fr.step (State.onJobs_fr ..); decide)
    | with_reducible apply Fr.ite
    | dsimp only
    | split

theorem State.onJob_fr (s : State) (id : BitVec 16) (f : Job → Job) :
    Fr [.jobs] s (State.onJob s id f) := by
  unfold State.onJob
  repeat' first
    | intro _
    | with_reducible apply Fr.refl
    | with_reducible assumption
    | (with_reducible apply Fr.step (State.onJobs_fr ..); decide)
    | with_reducible apply Fr.ite
    | dsimp only
    | split

theorem State.onSeg_fr (s : State) (id : StripeId) (k : Nat) (f : Seg → Seg) :
    Fr [.jobs] s (State.onSeg s id k f) := by
  unfold State.onSeg
  repeat' first
    | intro _
    | with_reducible apply Fr.refl
    | with_reducible assumption
    | (with_reducible apply Fr.step (State.onStripe_fr ..); decide)
    | with_reducible apply Fr.ite
    | dsimp only
    | split

theorem State.onRepairRec_fr (s : State) (n : BitVec 32) (f : RepairRec → RepairRec) :
    Fr [.repair] s (State.onRepairRec s n f) := by
  unfold State.onRepairRec
  repeat' first
    | intro _
    | with_reducible apply Fr.refl
    | with_reducible assumption
    | (with_reducible apply Fr.step (State.onRepair_fr ..); decide)
    | with_reducible apply Fr.ite
    | dsimp only
    | split

theorem State.setRState_fr (s : State) (n : BitVec 32) (st : RState) :
    Fr [.repair] s (State.setRState s n st) := by
  unfold State.setRState
  repeat' first
    | intro _
    | with_reducible apply Fr.refl
    | with_reducible assumption
    | (with_reducible apply Fr.step (State.onRepairRec_fr ..); decide)
    | with_reducible apply Fr.ite
    | dsimp only
    | split

end Sys2Proof.Machine
end

