-- ==== Sys2Proof/Laws/Time.lean ====
section
/-!
SUPPORT. What each function and each meaning of Machine/Time.lean may change.
-/

namespace Sys2Proof.Machine

theorem State.selectDomain_fr (s : State) (y : BitVec 1) :
    Fr [.time, .queues, .out] s (State.selectDomain s y) := by
  unfold State.selectDomain
  repeat' first
    | intro _
    | with_reducible apply Fr.refl
    | with_reducible assumption
    | (with_reducible apply Fr.step (State.onTime_fr ..); decide)
    | (with_reducible apply Fr.step (State.raise_fr ..); decide)
    | with_reducible apply Fr.ite
    | dsimp only
    | split

theorem State.initialStep_fr (s : State) :
    Fr [.time, .queues, .out] s (State.initialStep s) := by
  unfold State.initialStep
  repeat' first
    | intro _
    | with_reducible apply Fr.refl
    | with_reducible assumption
    | (with_reducible apply Fr.step (State.onTime_fr ..); decide)
    | (with_reducible apply Fr.step (State.raise_fr ..); decide)
    | with_reducible apply Fr.ite
    | dsimp only
    | split

theorem State.reselect_fr (s : State) :
    Fr [.time, .queues, .out] s (State.reselect s) := by
  unfold State.reselect
  repeat' first
    | intro _
    | with_reducible apply Fr.refl
    | with_reducible assumption
    | (with_reducible apply Fr.step (State.selectDomain_fr ..); decide)
    | (with_reducible apply Fr.step (State.initialStep_fr ..); decide)
    | with_reducible apply Fr.ite
    | dsimp only
    | split

theorem State.setDomain_fr (s : State) (d : BitVec 1) (step : Int) (rate : Int) :
    Fr [.time] s (State.setDomain s d step rate) := by
  unfold State.setDomain
  repeat' first
    | intro _
    | with_reducible apply Fr.refl
    | with_reducible assumption
    | (with_reducible apply Fr.step (State.onTime_fr ..); decide)
    | with_reducible apply Fr.ite
    | dsimp only
    | split

theorem State.domTo_fr (s : State) (d : BitVec 1) (st : DomSt) :
    Fr [.time] s (State.domTo s d st) := by
  unfold State.domTo
  repeat' first
    | intro _
    | with_reducible apply Fr.refl
    | with_reducible assumption
    | (with_reducible apply Fr.step (State.onTime_fr ..); decide)
    | with_reducible apply Fr.ite
    | dsimp only
    | split

theorem State.domUnlock_fr (s : State) (d : BitVec 1) :
    Fr [.time] s (State.domUnlock s d) := by
  unfold State.domUnlock
  repeat' first
    | intro _
    | with_reducible apply Fr.refl
    | with_reducible assumption
    | (with_reducible apply Fr.step (State.onTime_fr ..); decide)
    | with_reducible apply Fr.ite
    | dsimp only
    | split

theorem State.domLost_fr (s : State) (d : BitVec 1) :
    Fr [.time, .queues, .log, .out] s (State.domLost s d) := by
  unfold State.domLost
  repeat' first
    | intro _
    | with_reducible apply Fr.refl
    | with_reducible assumption
    | (with_reducible apply Fr.step (State.domTo_fr ..); decide)
    | (with_reducible apply Fr.step (State.fault_fr ..); decide)
    | with_reducible apply Fr.ite
    | dsimp only
    | split

theorem State.servo_fr (s : State) (d : BitVec 1) (off : Int) :
    Fr [.time, .queues, .log, .out] s (State.servo s d off) := by
  unfold State.servo
  repeat' first
    | intro _
    | with_reducible apply Fr.refl
    | with_reducible assumption
    | (with_reducible apply Fr.step (State.onTime_fr ..); decide)
    | (with_reducible apply Fr.step (State.setDomain_fr ..); decide)
    | (with_reducible apply Fr.step (State.draw_fr ..); decide)
    | (with_reducible apply Fr.step (State.domTo_fr ..); decide)
    | (with_reducible apply Fr.step (State.fault_fr ..); decide)
    | (with_reducible apply Fr.step (State.raise_fr ..); decide)
    | (with_reducible apply Fr.step (State.reselect_fr ..); decide)
    | with_reducible apply Fr.ite
    | dsimp only
    | split

theorem State.announce_fr (s : State) (d : BitVec 1) (m : PtpMsg) :
    Fr [.time, .queues, .log, .out] s (State.announce s d m) := by
  unfold State.announce
  repeat' first
    | intro _
    | with_reducible apply Fr.refl
    | with_reducible assumption
    | (with_reducible apply Fr.step (State.onTime_fr ..); decide)
    | (with_reducible apply Fr.step (State.domTo_fr ..); decide)
    | (with_reducible apply Fr.step (State.raise_fr ..); decide)
    | (with_reducible apply Fr.step (State.fault_fr ..); decide)
    | (with_reducible apply Fr.step (State.reselect_fr ..); decide)
    | with_reducible apply Fr.ite
    | dsimp only
    | split

theorem State.ptpFor_fr (s : State) (d : BitVec 1) (m : PtpMsg) :
    Fr [.time, .queues, .log, .out] s (State.ptpFor s d m) := by
  unfold State.ptpFor
  repeat' first
    | intro _
    | with_reducible apply Fr.refl
    | with_reducible assumption
    | (with_reducible apply Fr.step (State.onTime_fr ..); decide)
    | (with_reducible apply Fr.step (State.announce_fr ..); decide)
    | (with_reducible apply Fr.step (State.servo_fr ..); decide)
    | with_reducible apply Fr.ite
    | dsimp only
    | split

theorem execPtpMessageReceive_fr (p : NetPort) (m : PtpMsg) (s : State) :
    FrA [.time, .queues, .log, .out] s (execPtpMessageReceive p m s) := by
  unfold execPtpMessageReceive
  repeat' first
    | intro _
    | with_reducible apply Fr.refl
    | with_reducible assumption
    | with_reducible apply FrA.next
    | (with_reducible apply Fr.step (State.onTime_fr ..); decide)
    | (with_reducible apply Fr.step (State.ptpFor_fr ..); decide)
    | with_reducible apply FrA.ite
    | with_reducible apply Fr.ite
    | dsimp only
    | split

theorem execDelayReqSend_fr (d : BitVec 1) (s : State) :
    FrA [.time, .out] s (execDelayReqSend d s) := by
  unfold execDelayReqSend
  repeat' first
    | intro _
    | with_reducible apply Fr.refl
    | with_reducible assumption
    | with_reducible apply FrA.next
    | (with_reducible apply Fr.step (State.onTime_fr ..); decide)
    | (with_reducible apply Fr.step (State.emit_fr ..); decide)
    | with_reducible apply FrA.ite
    | with_reducible apply Fr.ite
    | dsimp only
    | split

theorem execAnnounceTimeout_fr (d : BitVec 1) (s : State) :
    FrA [.time, .queues, .log, .out] s (execAnnounceTimeout d s) := by
  unfold execAnnounceTimeout
  repeat' first
    | intro _
    | with_reducible apply Fr.refl
    | with_reducible assumption
    | with_reducible apply FrA.next
    | (with_reducible apply Fr.step (State.domLost_fr ..); decide)
    | (with_reducible apply Fr.step (State.reselect_fr ..); decide)
    | with_reducible apply FrA.ite
    | with_reducible apply Fr.ite
    | dsimp only
    | split

theorem execDomainRevert_fr (s : State) :
    FrA [.time, .queues, .out] s (execDomainRevert s) := by
  unfold execDomainRevert
  repeat' first
    | intro _
    | with_reducible apply Fr.refl
    | with_reducible assumption
    | with_reducible apply FrA.next
    | (with_reducible apply Fr.step (State.selectDomain_fr ..); decide)
    | (with_reducible apply Fr.step (State.initialStep_fr ..); decide)
    | with_reducible apply FrA.ite
    | with_reducible apply Fr.ite
    | dsimp only
    | split

theorem State.netDown_fr (s : State) (p : NetPort) :
    Fr [.time, .queues, .log, .out] s (State.netDown s p) := by
  unfold State.netDown
  repeat' first
    | intro _
    | with_reducible apply Fr.refl
    | with_reducible assumption
    | (with_reducible apply Fr.step (State.onTime_fr ..); decide)
    | (with_reducible apply Fr.step (State.domLost_fr ..); decide)
    | with_reducible apply Fr.ite
    | dsimp only
    | split

theorem execNetPortDown_fr (p : NetPort) (s : State) :
    FrA [.time, .queues, .log, .out] s (execNetPortDown p s) := by
  unfold execNetPortDown
  repeat' first
    | intro _
    | with_reducible apply Fr.refl
    | with_reducible assumption
    | with_reducible apply FrA.next
    | (with_reducible apply Fr.step (State.netDown_fr ..); decide)
    | (with_reducible apply Fr.step (State.reselect_fr ..); decide)
    | with_reducible apply FrA.ite
    | with_reducible apply Fr.ite
    | dsimp only
    | split

theorem State.loadDomain_fr (s : State) (d : BitVec 1) (r : DomainRec) :
    Fr [.time, .queues, .out] s (State.loadDomain s d r) := by
  unfold State.loadDomain
  repeat' first
    | intro _
    | with_reducible apply Fr.refl
    | with_reducible assumption
    | (with_reducible apply Fr.step (State.onTime_fr ..); decide)
    | (with_reducible apply Fr.step (State.domUnlock_fr ..); decide)
    | (with_reducible apply Fr.step (State.reselect_fr ..); decide)
    | with_reducible apply Fr.ite
    | dsimp only
    | split

theorem execTimeDomain_fr (src : Src) (d : BitVec 1) (r : DomainRec) (s : State) :
    FrA [.time, .queues, .mailboxes, .out] s (execTimeDomain src d r s) := by
  unfold execTimeDomain
  repeat' first
    | intro _
    | with_reducible apply Fr.refl
    | with_reducible assumption
    | with_reducible apply FrA.next
    | (with_reducible apply State.command_fr; decide)
    | (with_reducible apply Fr.step (State.loadDomain_fr ..); decide)
    | (with_reducible apply Fr.step (State.ok_fr ..); decide)
    | with_reducible apply FrA.ite
    | with_reducible apply Fr.ite
    | dsimp only
    | split

theorem State.applySelect_fr (s : State) (mode : BitVec 2) (pref : BitVec 1) (rev : Bool) (slew : BitVec 8) :
    Fr [.time, .queues, .out] s (State.applySelect s mode pref rev slew) := by
  unfold State.applySelect
  repeat' first
    | intro _
    | with_reducible apply Fr.refl
    | with_reducible assumption
    | (with_reducible apply Fr.step (State.onTime_fr ..); decide)
    | (with_reducible apply Fr.step (State.reselect_fr ..); decide)
    | with_reducible apply Fr.ite
    | dsimp only
    | split

theorem execTimeSelect_fr (src : Src) (mode : BitVec 2) (pref : BitVec 1) (rev : Bool) (slew : BitVec 8) (s : State) :
    FrA [.time, .queues, .mailboxes, .out] s (execTimeSelect src mode pref rev slew s) := by
  unfold execTimeSelect
  repeat' first
    | intro _
    | with_reducible apply Fr.refl
    | with_reducible assumption
    | with_reducible apply FrA.next
    | (with_reducible apply State.command_fr; decide)
    | (with_reducible apply Fr.step (State.onTime_fr ..); decide)
    | (with_reducible apply Fr.step (State.respond_fr ..); decide)
    | (with_reducible apply Fr.step (State.ok_fr ..); decide)
    | (with_reducible apply Fr.step (State.applySelect_fr ..); decide)
    | with_reducible apply FrA.ite
    | with_reducible apply Fr.ite
    | dsimp only
    | split

theorem State.releaseSelect_fr (s : State) :
    Fr [.time, .queues, .out] s (State.releaseSelect s) := by
  unfold State.releaseSelect
  repeat' first
    | intro _
    | with_reducible apply Fr.refl
    | with_reducible assumption
    | (with_reducible apply Fr.step (State.applySelect_fr ..); decide)
    | with_reducible apply Fr.ite
    | dsimp only
    | split

theorem execTimeStatus_fr (src : Src) (s : State) :
    FrA [.queues, .mailboxes, .out] s (execTimeStatus src s) := by
  unfold execTimeStatus
  repeat' first
    | intro _
    | with_reducible apply Fr.refl
    | with_reducible assumption
    | with_reducible apply FrA.next
    | (with_reducible apply Fr.step (State.ok_fr ..); decide)
    | with_reducible apply FrA.ite
    | with_reducible apply Fr.ite
    | dsimp only
    | split

theorem execTsnapCtrRead_fr (p : Port) (byte0 : Bool) (s : State) :
    FrA [.ports] s (execTsnapCtrRead p byte0 s) := by
  unfold execTsnapCtrRead
  repeat' first
    | intro _
    | with_reducible apply Fr.refl
    | with_reducible assumption
    | with_reducible apply FrA.next
    | (with_reducible apply State.onPort_fixed_st; decide; case hf => exact fun _ => ⟨rfl, rfl⟩)
    | with_reducible apply FrA.ite
    | with_reducible apply Fr.ite
    | dsimp only
    | split

end Sys2Proof.Machine
end

