-- ==== Sys2Proof/Laws/RepairOps.lean ====
section
/-!
SUPPORT. What each function and each meaning of Machine/RepairOps.lean may change.
-/

namespace Sys2Proof.Machine

theorem State.quarantineWith_fr (s : State) (r : BitVec 32) (ev : Event) :
    Fr [.queues, .repair, .log, .out] s (State.quarantineWith s r ev) := by
  unfold State.quarantineWith
  repeat' first
    | intro _
    | with_reducible apply Fr.refl
    | with_reducible assumption
    | (with_reducible apply Fr.step (State.onRepairRec_fr ..); decide)
    | (with_reducible apply Fr.step (State.fault_fr ..); decide)
    | with_reducible apply Fr.ite
    | dsimp only
    | split

theorem State.quarantine_fr (s : State) (r : BitVec 32) :
    Fr [.queues, .repair, .log, .out] s (State.quarantine s r) := by
  unfold State.quarantine
  repeat' first
    | intro _
    | with_reducible apply Fr.refl
    | with_reducible assumption
    | (with_reducible apply Fr.step (State.quarantineWith_fr ..); decide)
    | with_reducible apply Fr.ite
    | dsimp only
    | split

theorem State.unitFault_fr (s : State) (r : BitVec 32) :
    Fr [.queues, .repair, .log, .out] s (State.unitFault s r) := by
  unfold State.unitFault
  repeat' first
    | intro _
    | with_reducible apply Fr.refl
    | with_reducible assumption
    | (with_reducible apply Fr.step (State.onRepairRec_fr ..); decide)
    | (with_reducible apply Fr.step (State.fault_fr ..); decide)
    | with_reducible apply Fr.ite
    | dsimp only
    | split

theorem State.assignSpare_fr (s : State) (r : BitVec 32) :
    Fr [.queues, .repair, .out] s (State.assignSpare s r) := by
  unfold State.assignSpare
  repeat' first
    | intro _
    | with_reducible apply Fr.refl
    | with_reducible assumption
    | (with_reducible apply Fr.step (State.onRepairRec_fr ..); decide)
    | (with_reducible apply Fr.step (State.raise_fr ..); decide)
    | with_reducible apply Fr.ite
    | dsimp only
    | split

theorem State.sectorFails_fr (s : State) (n : Nat) :
    Fr [.queues, .repair, .log, .out] s (State.sectorFails s n) := by
  unfold State.sectorFails
  repeat' first
    | intro _
    | with_reducible apply Fr.refl
    | with_reducible assumption
    | (with_reducible apply Fr.step (State.quarantine_fr ..); decide)
    | (with_reducible apply Fr.step (State.assignSpare_fr ..); decide)
    | with_reducible apply Fr.ite
    | dsimp only
    | split

theorem State.spareRegion_fr (s : State) (i1 i2 : Nat) :
    Fr [.queues, .repair, .out] s (State.spareRegion s i1 i2) := by
  unfold State.spareRegion
  repeat' first
    | intro _
    | with_reducible apply Fr.refl
    | with_reducible assumption
    | (with_reducible apply Fr.step (State.assignSpare_fr ..); decide)
    | (with_reducible apply Fr.foldl)
    | with_reducible apply Fr.ite
    | dsimp only
    | split

end Sys2Proof.Machine
end

