-- ==== Sys2Proof/Laws/LinkOps.lean ====
section
/-!
SUPPORT. What each function and each meaning of Machine/LinkOps.lean may change.
-/

namespace Sys2Proof.Machine

theorem State.onLane_fr (s : State) (n : Nat) (f : Lane → Lane) :
    Fr [.link] s (State.onLane s n f) := by
  unfold State.onLane
  repeat' first
    | intro _
    | with_reducible apply Fr.refl
    | with_reducible assumption
    | (with_reducible apply Fr.step (State.onLink_fr ..); decide)
    | with_reducible apply Fr.ite
    | dsimp only
    | split

theorem State.sendMgmt_fr (s : State) (lane mtype : Nat) (body : List Byte) (tries : Nat) :
    Fr [.link, .out] s (State.sendMgmt s lane mtype body tries) := by
  unfold State.sendMgmt
  repeat' first
    | intro _
    | with_reducible apply Fr.refl
    | with_reducible assumption
    | (with_reducible apply Fr.step (State.emits_fr ..); decide)
    | (with_reducible apply Fr.step (State.onLink_fr ..); decide)
    | with_reducible apply Fr.ite
    | dsimp only
    | split

theorem State.trainPreset_fr (s : State) (n p : Nat) :
    Fr [.link, .out] s (State.trainPreset s n p) := by
  unfold State.trainPreset
  repeat' first
    | intro _
    | with_reducible apply Fr.refl
    | with_reducible assumption
    | (with_reducible apply Fr.step (State.onLane_fr ..); decide)
    | (with_reducible apply Fr.step (State.emits_fr ..); decide)
    | with_reducible apply Fr.ite
    | dsimp only
    | split

theorem State.startTraining_fr (s : State) (n : Nat) :
    Fr [.link, .out] s (State.startTraining s n) := by
  unfold State.startTraining
  repeat' first
    | intro _
    | with_reducible apply Fr.refl
    | with_reducible assumption
    | (with_reducible apply Fr.step (State.onLane_fr ..); decide)
    | (with_reducible apply Fr.step (State.trainPreset_fr ..); decide)
    | with_reducible apply Fr.ite
    | dsimp only
    | split

theorem State.headCheck_fr (s : State) :
    Fr [.queues, .link, .plate, .log, .out] s (State.headCheck s) := by
  unfold State.headCheck
  repeat' first
    | intro _
    | with_reducible apply Fr.refl
    | with_reducible assumption
    | (with_reducible apply Fr.step (State.onLink_fr ..); decide)
    | (with_reducible apply Fr.step (State.onPlate_fr ..); decide)
    | (with_reducible apply Fr.step (State.fault_fr ..); decide)
    | with_reducible apply Fr.ite
    | dsimp only
    | split

theorem State.retireLane_fr (s : State) (n count : Nat) :
    Fr [.queues, .link, .plate, .log, .out] s (State.retireLane s n count) := by
  unfold State.retireLane
  repeat' first
    | intro _
    | with_reducible apply Fr.refl
    | with_reducible assumption
    | (with_reducible apply Fr.step (State.onLane_fr ..); decide)
    | (with_reducible apply Fr.step (State.fault_fr ..); decide)
    | (with_reducible apply Fr.step (State.headCheck_fr ..); decide)
    | with_reducible apply Fr.ite
    | dsimp only
    | split

theorem State.sendHead_fr (s : State) (mtype : Nat) (body : List Byte) :
    Fr [.link, .out] s (State.sendHead s mtype body) := by
  unfold State.sendHead
  repeat' first
    | intro _
    | with_reducible apply Fr.refl
    | with_reducible assumption
    | (with_reducible apply Fr.step (State.sendMgmt_fr ..); decide)
    | with_reducible apply Fr.ite
    | dsimp only
    | split

end Sys2Proof.Machine
end

