-- ==== Sys2Proof/Laws/Plate.lean ====
section
/-!
SUPPORT. What each function and each meaning of Machine/Plate.lean may change.
-/

namespace Sys2Proof.Machine

theorem State.plateLimits_fr (s : State) :
    Fr [.queues, .plate, .out] s (State.plateLimits s) := by
  unfold State.plateLimits
  repeat' first
    | intro _
    | with_reducible apply Fr.refl
    | with_reducible assumption
    | (with_reducible apply Fr.step (State.raise_fr ..); decide)
    | (with_reducible apply Fr.step (State.onPlate_fr ..); decide)
    | (with_reducible apply Fr.foldl)
    | with_reducible apply Fr.ite
    | dsimp only
    | split

theorem State.putRecord_fr (s : State) :
    Fr [.queues, .plate, .out] s (State.putRecord s) := by
  unfold State.putRecord
  repeat' first
    | intro _
    | with_reducible apply Fr.refl
    | with_reducible assumption
    | (with_reducible apply Fr.step (State.onPlate_fr ..); decide)
    | (with_reducible apply Fr.step (State.raise_fr ..); decide)
    | with_reducible apply Fr.ite
    | dsimp only
    | split

theorem State.storePlate_fr (s : State) :
    Fr [.queues, .plate, .repair, .log, .out] s (State.storePlate s) := by
  unfold State.storePlate
  repeat' first
    | intro _
    | with_reducible apply Fr.refl
    | with_reducible assumption
    | (with_reducible apply Fr.step (State.draw_fr ..); decide)
    | (with_reducible apply Fr.step (State.putRecord_fr ..); decide)
    | (with_reducible apply Fr.step (State.sectorFails_fr ..); decide)
    | (with_reducible apply Fr.step (State.fault_fr ..); decide)
    | with_reducible apply Fr.ite
    | dsimp only
    | split

theorem State.plateCommit_fr (s : State) :
    Fr [.queues, .link, .plate, .repair, .log, .out] s (State.plateCommit s) := by
  unfold State.plateCommit
  repeat' first
    | intro _
    | with_reducible apply Fr.refl
    | with_reducible assumption
    | (with_reducible apply Fr.step (State.onPlate_fr ..); decide)
    | (with_reducible apply Fr.step (State.storePlate_fr ..); decide)
    | (with_reducible apply Fr.step (State.sendHead_fr ..); decide)
    | (with_reducible apply Fr.step (State.plateLimits_fr ..); decide)
    | (with_reducible apply Fr.step (State.fault_fr ..); decide)
    | with_reducible apply Fr.ite
    | dsimp only
    | split

theorem State.plateStart_fr (s : State) :
    Fr [.link, .plate, .out] s (State.plateStart s) := by
  unfold State.plateStart
  repeat' first
    | intro _
    | with_reducible apply Fr.refl
    | with_reducible assumption
    | (with_reducible apply Fr.step (State.sendHead_fr ..); decide)
    | (with_reducible apply Fr.step (State.onPlate_fr ..); decide)
    | with_reducible apply Fr.ite
    | dsimp only
    | split

theorem State.plateFail_fr (s : State) (code : BitVec 16) :
    Fr [.queues, .plate, .log, .out] s (State.plateFail s code) := by
  unfold State.plateFail
  repeat' first
    | intro _
    | with_reducible apply Fr.refl
    | with_reducible assumption
    | (with_reducible apply Fr.step (State.onPlate_fr ..); decide)
    | (with_reducible apply Fr.step (State.fault_fr ..); decide)
    | with_reducible apply Fr.ite
    | dsimp only
    | split

theorem State.plateAttach_fr (s : State) (m : BitVec 256) (mirror : List Byte) :
    Fr [.queues, .link, .plate, .repair, .log, .out] s (State.plateAttach s m mirror) := by
  unfold State.plateAttach
  repeat' first
    | intro _
    | with_reducible apply Fr.refl
    | with_reducible assumption
    | (with_reducible apply Fr.step (State.plateCommit_fr ..); decide)
    | (with_reducible apply Fr.step (State.onPlate_fr ..); decide)
    | (with_reducible apply Fr.step (State.fault_fr ..); decide)
    | (with_reducible apply Fr.step (State.raise_fr ..); decide)
    | with_reducible apply Fr.ite
    | dsimp only
    | split

theorem State.plateReply_fr (s : State) (mtype : Nat) (body : List Byte) :
    Fr [.queues, .link, .plate, .repair, .log, .out] s (State.plateReply s mtype body) := by
  unfold State.plateReply
  repeat' first
    | intro _
    | with_reducible apply Fr.refl
    | with_reducible assumption
    | (with_reducible apply Fr.step (State.fault_fr ..); decide)
    | (with_reducible apply Fr.step (State.plateFail_fr ..); decide)
    | (with_reducible apply Fr.step (State.onPlate_fr ..); decide)
    | (with_reducible apply Fr.step (State.sendHead_fr ..); decide)
    | (with_reducible apply Fr.step (State.draw_fr ..); decide)
    | (with_reducible apply Fr.step (State.plateAttach_fr ..); decide)
    | with_reducible apply Fr.ite
    | dsimp only
    | split

theorem execPlateAttachTimeout_fr (s : State) :
    FrA [.queues, .plate, .log, .out] s (execPlateAttachTimeout s) := by
  unfold execPlateAttachTimeout
  repeat' first
    | intro _
    | with_reducible apply Fr.refl
    | with_reducible assumption
    | with_reducible apply FrA.next
    | (with_reducible apply Fr.step (State.plateFail_fr ..); decide)
    | with_reducible apply FrA.ite
    | with_reducible apply Fr.ite
    | dsimp only
    | split

theorem execPlateProvision_fr (src : Src) (svc : Bool) (key : BitVec 256) (s : State) :
    FrA [.queues, .mailboxes, .plate, .out] s (execPlateProvision src svc key s) := by
  unfold execPlateProvision
  repeat' first
    | intro _
    | with_reducible apply Fr.refl
    | with_reducible assumption
    | with_reducible apply FrA.next
    | (with_reducible apply State.command_fr; decide)
    | (with_reducible apply Fr.step (State.onPlate_fr ..); decide)
    | (with_reducible apply Fr.step (State.ok_fr ..); decide)
    | with_reducible apply FrA.ite
    | with_reducible apply Fr.ite
    | dsimp only
    | split

theorem State.applyToken_fr (s : State) (t : TokenRec) :
    Fr [.queues, .link, .plate, .repair, .log, .out] s (State.applyToken s t) := by
  unfold State.applyToken
  repeat' first
    | intro _
    | with_reducible apply Fr.refl
    | with_reducible assumption
    | (with_reducible apply Fr.step (State.onPlate_fr ..); decide)
    | (with_reducible apply Fr.step (State.plateCommit_fr ..); decide)
    | with_reducible apply Fr.ite
    | dsimp only
    | split

theorem execPlateToken_fr (src : Src) (t : TokenRec) (s : State) :
    FrA [.queues, .mailboxes, .link, .plate, .repair, .log, .out] s (execPlateToken src t s) := by
  unfold execPlateToken
  repeat' first
    | intro _
    | with_reducible apply Fr.refl
    | with_reducible assumption
    | with_reducible apply FrA.next
    | (with_reducible apply State.command_fr; decide)
    | (with_reducible apply Fr.step (State.applyToken_fr ..); decide)
    | (with_reducible apply Fr.step (State.ok_fr ..); decide)
    | with_reducible apply FrA.ite
    | with_reducible apply Fr.ite
    | dsimp only
    | split

theorem execPlateStatus_fr (src : Src) (s : State) :
    FrA [.queues, .mailboxes, .out] s (execPlateStatus src s) := by
  unfold execPlateStatus
  repeat' first
    | intro _
    | with_reducible apply Fr.refl
    | with_reducible assumption
    | with_reducible apply FrA.next
    | (with_reducible apply State.command_fr; decide)
    | (with_reducible apply Fr.step (State.ok_fr ..); decide)
    | with_reducible apply FrA.ite
    | with_reducible apply Fr.ite
    | dsimp only
    | split

end Sys2Proof.Machine
end

