-- ==== Sys2Proof/Laws/MemOps.lean ====
section
/-!
SUPPORT. What each function and each meaning of Machine/MemOps.lean may change.
-/

namespace Sys2Proof.Machine

@[simp] theorem StackCtl.retireNow_held (c : StackCtl) (n : Nat) (step : TrainStep) : (c.retireNow n step).heldWrites = c.heldWrites := by
  unfold StackCtl.retireNow
  split <;> rfl

@[simp] theorem StackCtl.refresh_held (c : StackCtl) (due now : Nat) : (c.refresh due now).heldWrites = c.heldWrites := rfl

theorem State.setBand_fr (s : State) (b : Nat) :
    Fr [.mc] s (State.setBand s b) := by
  unfold State.setBand
  repeat' first
    | intro _
    | with_reducible apply Fr.refl
    | with_reducible assumption
    | (with_reducible apply State.onMc_st; decide; case hf => first | exact fun _ => MemCtl.onStack_held _ _ _ fun _ => rfl | exact fun _ => ⟨rfl, rfl⟩ | (intro m; apply MemCtl.onStack_held; intro c; simp; done) | (intro m; simp; done))
    | with_reducible apply Fr.ite
    | dsimp only
    | split

theorem State.centre_fr (s : State) :
    Fr [.mc, .power] s (State.centre s) := by
  unfold State.centre
  repeat' first
    | intro _
    | with_reducible apply Fr.refl
    | with_reducible assumption
    | (with_reducible apply State.onMc_st; decide; case hf => first | exact fun _ => MemCtl.onStack_held _ _ _ fun _ => rfl | exact fun _ => ⟨rfl, rfl⟩ | (intro m; apply MemCtl.onStack_held; intro c; simp; done) | (intro m; simp; done))
    | (with_reducible apply Fr.step (State.onPower_fr ..); decide)
    | with_reducible apply Fr.ite
    | dsimp only
    | split

theorem State.changeBand_fr (s : State) (b : Nat) :
    Fr [.mc, .power] s (State.changeBand s b) := by
  unfold State.changeBand
  repeat' first
    | intro _
    | with_reducible apply Fr.refl
    | with_reducible assumption
    | (with_reducible apply Fr.step (State.setBand_fr ..); decide)
    | (with_reducible apply Fr.step (State.centre_fr ..); decide)
    | with_reducible apply Fr.ite
    | dsimp only
    | split

theorem State.programBand_fr (s : State) :
    Fr [.mc, .power] s (State.programBand s) := by
  unfold State.programBand
  repeat' first
    | intro _
    | with_reducible apply Fr.refl
    | with_reducible assumption
    | (with_reducible apply Fr.step (State.changeBand_fr ..); decide)
    | with_reducible apply Fr.ite
    | dsimp only
    | split

theorem State.applyTrims_fr (s : State) :
    Fr [.queues, .meas, .out] s (State.applyTrims s) := by
  unfold State.applyTrims
  repeat' first
    | intro _
    | with_reducible apply Fr.refl
    | with_reducible assumption
    | (with_reducible apply Fr.step (State.onMeas_fr ..); decide)
    | (with_reducible apply Fr.step (State.raise_fr ..); decide)
    | (with_reducible apply Fr.foldl)
    | with_reducible apply Fr.ite
    | dsimp only
    | split

theorem State.restartTrims_fr (s : State) :
    Fr [.meas] s (State.restartTrims s) := by
  unfold State.restartTrims
  repeat' first
    | intro _
    | with_reducible apply Fr.refl
    | with_reducible assumption
    | (with_reducible apply Fr.step (State.onMeas_fr ..); decide)
    | with_reducible apply Fr.ite
    | dsimp only
    | split

theorem State.stackFail_fr (s : State) (k : Stack) :
    Fr [.queues, .mc, .log, .out] s (State.stackFail s k) := by
  unfold State.stackFail
  repeat' first
    | intro _
    | with_reducible apply Fr.refl
    | with_reducible assumption
    | (with_reducible apply State.onMc_st; decide; case hf => first | exact fun _ => MemCtl.onStack_held _ _ _ fun _ => rfl | exact fun _ => ⟨rfl, rfl⟩ | (intro m; apply MemCtl.onStack_held; intro c; simp; done) | (intro m; simp; done))
    | (with_reducible apply Fr.step (State.fault_fr ..); decide)
    | with_reducible apply Fr.ite
    | dsimp only
    | split

theorem State.untrained_fr (s : State) (k : Stack) (n : Nat) (step : TrainStep) :
    Fr [.queues, .mc, .repair, .log, .out] s (State.untrained s k n step) := by
  unfold State.untrained
  repeat' first
    | intro _
    | with_reducible apply Fr.refl
    | with_reducible assumption
    | (with_reducible apply State.onMc_st; decide; case hf => first | exact fun _ => MemCtl.onStack_held _ _ _ fun _ => rfl | exact fun _ => ⟨rfl, rfl⟩ | (intro m; apply MemCtl.onStack_held; intro c; simp; done) | (intro m; simp; done))
    | (with_reducible apply Fr.step (State.setRState_fr ..); decide)
    | (with_reducible apply Fr.step (State.stackFail_fr ..); decide)
    | with_reducible apply Fr.ite
    | dsimp only
    | split

end Sys2Proof.Machine
end

