-- ==== Sys2Proof/Laws/LandOps.lean ====
section
/-!
SUPPORT. What each function and each meaning of Machine/LandOps.lean may change.
-/

namespace Sys2Proof.Machine

theorem State.writeUnits_fr (s : State) (bs : List Byte) (us : List Nat) :
    Fr [.bytes] s (State.writeUnits s bs us) := by
  unfold State.writeUnits
  repeat' first
    | intro _
    | with_reducible apply Fr.refl
    | with_reducible assumption
    | (with_reducible apply Fr.step (State.write_fr ..); decide)
    | (with_reducible apply Fr.foldl)
    | with_reducible apply Fr.ite
    | dsimp only
    | split

theorem State.writeMap_fr (s : State) (id : StripeId) (us : List Nat × List Nat) (n : Nat) (vals : List Nat) :
    Fr [.jobs, .bytes] s (State.writeMap s id us n vals) := by
  unfold State.writeMap
  repeat' first
    | intro _
    | with_reducible apply Fr.refl
    | with_reducible assumption
    | (with_reducible apply Fr.step (State.writeUnits_fr ..); decide)
    | (with_reducible apply Fr.step (State.onStripe_fr ..); decide)
    | with_reducible apply Fr.ite
    | dsimp only
    | split

theorem State.mapLost_fr (s : State) (id : StripeId) :
    Fr [.jobs] s (State.mapLost s id) := by
  unfold State.mapLost
  repeat' first
    | intro _
    | with_reducible apply Fr.refl
    | with_reducible assumption
    | (with_reducible apply Fr.step (State.onStripe_fr ..); decide)
    | with_reducible apply Fr.ite
    | dsimp only
    | split

theorem State.writeCap_fr (s : State) (page : Nat) (cols : List Nat) :
    Fr [.bytes] s (State.writeCap s page cols) := by
  unfold State.writeCap
  repeat' first
    | intro _
    | with_reducible apply Fr.refl
    | with_reducible assumption
    | (with_reducible apply Fr.step (State.write_fr ..); decide)
    | with_reducible apply Fr.ite
    | dsimp only
    | split

theorem State.writeCaps_fr (s : State) (pages : List Nat) (maps : List (List Nat)) :
    Fr [.bytes] s (State.writeCaps s pages maps) := by
  unfold State.writeCaps
  repeat' first
    | intro _
    | with_reducible apply Fr.refl
    | with_reducible assumption
    | (with_reducible apply Fr.step (State.writeCap_fr ..); decide)
    | (with_reducible apply Fr.foldl)
    | with_reducible apply Fr.ite
    | dsimp only
    | split

theorem State.freeSlots_fr (s : State) (id : StripeId) :
    Fr [.jobs, .render, .land] s (State.freeSlots s id) := by
  unfold State.freeSlots
  repeat' first
    | intro _
    | with_reducible apply Fr.refl
    | with_reducible assumption
    | (with_reducible apply Fr.step (State.onLand_fr ..); decide)
    | (with_reducible apply Fr.step (State.onRender_fr ..); decide)
    | (with_reducible apply Fr.step (State.onStripe_fr ..); decide)
    | with_reducible apply Fr.ite
    | dsimp only
    | split

theorem State.freeSlot_fr (s : State) (id : StripeId) (k : Nat) :
    Fr [.land] s (State.freeSlot s id k) := by
  unfold State.freeSlot
  repeat' first
    | intro _
    | with_reducible apply Fr.refl
    | with_reducible assumption
    | (with_reducible apply Fr.step (State.onLand_fr ..); decide)
    | with_reducible apply Fr.ite
    | dsimp only
    | split

theorem State.dropReentry_fr (s : State) :
    Fr [.jobs, .render, .land, .play] s (State.dropReentry s) := by
  unfold State.dropReentry
  repeat' first
    | intro _
    | with_reducible apply Fr.refl
    | with_reducible assumption
    | (with_reducible apply Fr.step (State.freeSlots_fr ..); decide)
    | (with_reducible apply Fr.step (State.onPlay_fr ..); decide)
    | with_reducible apply Fr.ite
    | dsimp only
    | split

theorem State.fillSlot_fr (s : State) (slot : Nat) (rows : List (List Nat)) :
    Fr [.bytes] s (State.fillSlot s slot rows) := by
  unfold State.fillSlot
  repeat' first
    | intro _
    | with_reducible apply Fr.refl
    | with_reducible assumption
    | (with_reducible apply Fr.step (State.write_fr ..); decide)
    | (with_reducible apply Fr.foldl)
    | with_reducible apply Fr.ite
    | dsimp only
    | split

theorem State.writeLanding_fr (s : State) (id : StripeId) (k : Nat) :
    Fr [.bytes] s (State.writeLanding s id k) := by
  unfold State.writeLanding
  repeat' first
    | intro _
    | with_reducible apply Fr.refl
    | with_reducible assumption
    | (with_reducible apply Fr.step (State.write_fr ..); decide)
    | with_reducible apply Fr.ite
    | dsimp only
    | split

theorem State.landingDone_fr (s : State) (id : StripeId) :
    Fr [.queues, .jobs, .render, .out] s (State.landingDone s id) := by
  unfold State.landingDone
  repeat' first
    | intro _
    | with_reducible apply Fr.refl
    | with_reducible assumption
    | (with_reducible apply Fr.step (State.onStripe_fr ..); decide)
    | (with_reducible apply Fr.step (State.onRender_fr ..); decide)
    | (with_reducible apply Fr.step (State.raiseSt_fr ..); decide)
    | with_reducible apply Fr.ite
    | dsimp only
    | split

theorem State.refuse_fr (s : State) (id : StripeId) (via : Option Src) (ev : Event) :
    Fr [.queues, .jobs, .render, .land, .out] s (State.refuse s id via ev) := by
  unfold State.refuse
  repeat' first
    | intro _
    | with_reducible apply Fr.refl
    | with_reducible assumption
    | (with_reducible apply Fr.step (State.freeSlots_fr ..); decide)
    | (with_reducible apply Fr.step (State.onStripe_fr ..); decide)
    | (with_reducible apply Fr.step (State.onRender_fr ..); decide)
    | (with_reducible apply Fr.step (State.raiseVia_fr ..); decide)
    | (with_reducible apply Fr.step (State.raiseSt_fr ..); decide)
    | with_reducible apply Fr.ite
    | dsimp only
    | split

theorem State.admitSeg_fr (s : State) (id : StripeId) (k : Nat) :
    Fr [.queues, .jobs, .render, .bytes, .out] s (State.admitSeg s id k) := by
  unfold State.admitSeg
  repeat' first
    | intro _
    | with_reducible apply Fr.refl
    | with_reducible assumption
    | (with_reducible apply Fr.step (State.onSeg_fr ..); decide)
    | (with_reducible apply Fr.step (State.writeLanding_fr ..); decide)
    | (with_reducible apply Fr.step (State.landingDone_fr ..); decide)
    | with_reducible apply Fr.ite
    | dsimp only
    | split

theorem State.dropArbs_fr (s : State) (id : StripeId) (k : Nat) :
    Fr [.jobs, .render] s (State.dropArbs s id k) := by
  unfold State.dropArbs
  repeat' first
    | intro _
    | with_reducible apply Fr.refl
    | with_reducible assumption
    | (with_reducible apply Fr.step (State.onRender_fr ..); decide)
    | (with_reducible apply Fr.step (State.onSeg_fr ..); decide)
    | with_reducible apply Fr.ite
    | dsimp only
    | split

theorem State.judgeWitness_fr (s : State) (id : StripeId) (k : Nat) :
    Fr [.queues, .jobs, .render, .bytes, .log, .out] s (State.judgeWitness s id k) := by
  unfold State.judgeWitness
  repeat' first
    | intro _
    | with_reducible apply Fr.refl
    | with_reducible assumption
    | (with_reducible apply Fr.step (State.admitSeg_fr ..); decide)
    | (with_reducible apply Fr.step (State.dropArbs_fr ..); decide)
    | (with_reducible apply Fr.step (State.onSeg_fr ..); decide)
    | (with_reducible apply Fr.step (State.faultSt_fr ..); decide)
    | (with_reducible apply Fr.step (State.landingDone_fr ..); decide)
    | with_reducible apply Fr.ite
    | dsimp only
    | split

theorem State.seal_fr (s : State) (id : StripeId) (k : Nat) :
    Fr [.queues, .jobs, .render, .bytes, .log, .out] s (State.seal s id k) := by
  unfold State.seal
  repeat' first
    | intro _
    | with_reducible apply Fr.refl
    | with_reducible assumption
    | (with_reducible apply Fr.step (State.onSeg_fr ..); decide)
    | (with_reducible apply Fr.step (State.judgeWitness_fr ..); decide)
    | (with_reducible apply Fr.step (State.admitSeg_fr ..); decide)
    | with_reducible apply Fr.ite
    | dsimp only
    | split

end Sys2Proof.Machine
end

