-- ==== Sys2Proof/Laws/Run.lean ====
section
/-!
SUPPORT. What each function and each meaning of Machine/Run.lean may change.
-/

namespace Sys2Proof.Machine

theorem State.stopCause_fr (s : State) (rank : Nat) (ev : Option Event) (boundary : Option Nat) :
    Fr [.queues, .jobs, .render, .land, .play, .log, .out] s (State.stopCause s rank ev boundary) := by
  unfold State.stopCause
  repeat' first
    | intro _
    | with_reducible apply Fr.refl
    | with_reducible assumption
    | (with_reducible apply Fr.step (State.faultSt_fr ..); decide)
    | (with_reducible apply Fr.step (State.onPlay_fr ..); decide)
    | (with_reducible apply Fr.step (State.dropReentry_fr ..); decide)
    | (with_reducible apply Fr.step (State.fault_fr ..); decide)
    | with_reducible apply Fr.ite
    | dsimp only
    | split

theorem State.raiseCause_fr (s : State) (id : StripeId) (flash : Int) (boundary : Option Nat) (c : Cause) :
    Fr [.queues, .log, .out] s (State.raiseCause s id flash boundary c) := by
  unfold State.raiseCause
  repeat' first
    | intro _
    | with_reducible apply Fr.refl
    | with_reducible assumption
    | (with_reducible apply Fr.step (State.faultSt_fr ..); decide)
    | with_reducible apply Fr.ite
    | dsimp only
    | split

@[simp] theorem Referee.onMarshal_safe (r : Referee) (m : Marshal) (f : MarshalS → MarshalS) :
    (r.onMarshal m f).safe = r.safe := by cases m <;> rfl

@[simp] theorem Referee.onMarshal_permitOut (r : Referee) (m : Marshal) (f : MarshalS → MarshalS) :
    (r.onMarshal m f).permitOut = r.permitOut := by cases m <;> rfl

/-- PERMIT_OUT rises only where the permit holds, and so not in the safe state (R434). -/
theorem State.permit_st {ps : List Part} {s t : State} (hq : [Part.ref].all ps.contains = true) (h : Fr ps s t)
    (hp : t.permitHolds = true) : Fr ps s (t.onRef fun z => { z with permitOut := true }) := by
  have hs : t.ref.safe = false := by
    simp only [State.permitHolds, State.noBlock, Bool.and_eq_true, Bool.not_eq_eq_eq_not, Bool.not_true] at hp
    exact hp.2.2
  have h2 : Fr [.ref] t (t.onRef fun z => { z with permitOut := true }) := by
    refine ⟨fun p => ?_, id, id, fun _ hc => ?_⟩
    · cases p
      case bytes => exact Or.inr (same_bytes_of rfl rfl rfl rfl rfl)
      all_goals first | exact Or.inl (by decide) | exact Or.inr rfl | exact Or.inr ⟨rfl, rfl⟩ | exact Or.inr ⟨rfl, rfl, rfl, rfl⟩
    · rw [State.onRef_ref] at hc
      have hc' : t.ref.safe = true := hc
      rw [hs] at hc'
      cases hc'
  exact h2.step hq h

theorem State.permitCheck_fr (s : State) :
    Fr [.ref] s (State.permitCheck s) := by
  unfold State.permitCheck
  repeat' first
    | intro _
    | with_reducible apply Fr.refl
    | with_reducible assumption
    | (with_reducible apply State.onRef_st; decide; case hf => first | exact fun _ h => h | exact fun _ _ _ => rfl | (intro _ _ h; cases h) | ((intro r h); (try dsimp only); (repeat' split) <;> simpa using h))
    | with_reducible apply Fr.ite
    | dsimp only
    | split

theorem State.journalWrite_fr (s : State) (off : Nat) (ws : List Word) :
    Fr [.bytes] s (State.journalWrite s off ws) := by
  unfold State.journalWrite
  repeat' first
    | intro _
    | with_reducible apply Fr.refl
    | with_reducible assumption
    | (with_reducible apply Fr.step (State.write_fr ..); decide)
    | with_reducible apply Fr.ite
    | dsimp only
    | split

theorem State.annexPut_fr (s : State) (xs : List Word) :
    Fr [.bytes, .ledger] s (State.annexPut s xs) := by
  induction xs generalizing s with
  | nil => exact Fr.refl _ _
  | cons x xs ih =>
    unfold State.annexPut
    repeat' first
        | intro _
        | with_reducible apply Fr.refl
        | with_reducible assumption
        | with_reducible apply fun h => Fr.trans h (ih _)
        | (with_reducible apply Fr.step (State.journalWrite_fr ..); decide)
        | (with_reducible apply Fr.step (State.onLedger_fr ..); decide)
        | with_reducible apply Fr.ite
        | dsimp only
        | split

theorem State.recordPut_fr (s : State) (ws : List Word) :
    Fr [.bytes, .ledger] s (State.recordPut s ws) := by
  unfold State.recordPut
  repeat' first
    | intro _
    | with_reducible apply Fr.refl
    | with_reducible assumption
    | (with_reducible apply Fr.step (State.journalWrite_fr ..); decide)
    | (with_reducible apply Fr.step (State.onLedger_fr ..); decide)
    | with_reducible apply Fr.ite
    | dsimp only
    | split

theorem State.recordSeg_fr (s : State) (x : Stripe) (r : Run) (q : Nat) (e : Exposure) :
    Fr [.jobs, .bytes, .ledger] s (State.recordSeg s x r q e) := by
  unfold State.recordSeg
  repeat' first
    | intro _
    | with_reducible apply Fr.refl
    | with_reducible assumption
    | (with_reducible apply Fr.step (State.annexPut_fr ..); decide)
    | (with_reducible apply Fr.step (State.recordPut_fr ..); decide)
    | (with_reducible apply Fr.step (State.onSeg_fr ..); decide)
    | (with_reducible apply Fr.step (State.draw_fr ..); decide)
    | with_reducible apply Fr.ite
    | dsimp only
    | split

theorem State.recordRange_fr (s : State) (id : StripeId) (r : Run) (f : Stripe → Nat → Exposure) (xs : List Nat) :
    Fr [.jobs, .bytes, .ledger] s (State.recordRange s id r f xs) := by
  induction xs generalizing s id r f with
  | nil => exact Fr.refl _ _
  | cons x xs ih =>
    unfold State.recordRange
    repeat' first
        | intro _
        | with_reducible apply Fr.refl
        | with_reducible assumption
        | with_reducible apply fun h => Fr.trans h (ih _ _ _ _)
        | (with_reducible apply Fr.step (State.recordSeg_fr ..); decide)
        | with_reducible apply Fr.ite
        | dsimp only
        | split

theorem State.fetchRow_fr (s : State) (x : Stripe) (e : Nat) :
    Fr [.play] s (State.fetchRow s x e) := by
  unfold State.fetchRow
  repeat' first
    | intro _
    | with_reducible apply Fr.refl
    | with_reducible assumption
    | (with_reducible apply Fr.step (State.onPlay_fr ..); decide)
    | with_reducible apply Fr.ite
    | dsimp only
    | split

theorem State.fetchRows_fr (s : State) (x : Stripe) (e : Nat) :
    Fr [.play] s (State.fetchRows s x e) := by
  unfold State.fetchRows
  repeat' first
    | intro _
    | with_reducible apply Fr.refl
    | with_reducible assumption
    | (with_reducible apply Fr.step (State.fetchRow_fr ..); decide)
    | (with_reducible apply Fr.foldl)
    | with_reducible apply Fr.ite
    | dsimp only
    | split

theorem State.writeRow_fr (s : State) (x : Stripe) (e : Nat) :
    Fr [.land, .play] s (State.writeRow s x e) := by
  unfold State.writeRow
  repeat' first
    | intro _
    | with_reducible apply Fr.refl
    | with_reducible assumption
    | (with_reducible apply Fr.step (State.fetchRows_fr ..); decide)
    | (with_reducible apply Fr.step (State.onPlay_fr ..); decide)
    | (with_reducible apply Fr.step (State.onLand_fr ..); decide)
    | with_reducible apply Fr.ite
    | dsimp only
    | split

theorem State.markSent_fr (s : State) (x : Stripe) (m : Nat) :
    Fr [.link] s (State.markSent s x m) := by
  unfold State.markSent
  repeat' first
    | intro _
    | with_reducible apply Fr.refl
    | with_reducible assumption
    | (with_reducible apply Fr.step (State.onLink_fr ..); decide)
    | with_reducible apply Fr.ite
    | dsimp only
    | split

theorem State.takeDrains_fr (s : State) :
    Fr [.queues, .jobs, .play, .log, .out] s (State.takeDrains s) := by
  unfold State.takeDrains
  repeat' first
    | intro _
    | with_reducible apply Fr.refl
    | with_reducible assumption
    | (with_reducible apply Fr.step (State.raiseCause_fr ..); decide)
    | (with_reducible apply Fr.step (State.onPlay_fr ..); decide)
    | (with_reducible apply Fr.step (State.onStripe_fr ..); decide)
    | (with_reducible apply Fr.foldl)
    | with_reducible apply Fr.ite
    | dsimp only
    | split

theorem State.evaluateRun_fr (s : State) :
    Fr [.queues, .jobs, .render, .land, .play, .log, .out] s (State.evaluateRun s) := by
  unfold State.evaluateRun
  repeat' first
    | intro _
    | with_reducible apply Fr.refl
    | with_reducible assumption
    | (with_reducible apply Fr.step (State.stopCause_fr ..); decide)
    | (with_reducible apply Fr.step (State.onPlay_fr ..); decide)
    | with_reducible apply Fr.ite
    | dsimp only
    | split

theorem State.dutyFlash_fr (s : State) (x : Stripe) (codes : List (Nat × Nat)) :
    Fr [.beam] s (State.dutyFlash s x codes) := by
  unfold State.dutyFlash
  repeat' first
    | intro _
    | with_reducible apply Fr.refl
    | with_reducible assumption
    | (with_reducible apply Fr.step (State.onBeam_fr ..); decide)
    | with_reducible apply Fr.ite
    | dsimp only
    | split

theorem State.buildFlash_fr (s : State) (r : Run) (x : Stripe) :
    Fr [.play] s (State.buildFlash s r x) := by
  unfold State.buildFlash
  repeat' first
    | intro _
    | with_reducible apply Fr.refl
    | with_reducible assumption
    | (with_reducible apply Fr.step (State.onPlay_fr ..); decide)
    | with_reducible apply Fr.ite
    | dsimp only
    | split

theorem State.commitFlash_fr (s : State) (r : Run) (x : Stripe) :
    Fr [.jobs, .play, .beam] s (State.commitFlash s r x) := by
  unfold State.commitFlash
  repeat' first
    | intro _
    | with_reducible apply Fr.refl
    | with_reducible assumption
    | (with_reducible apply Fr.step (State.dutyFlash_fr ..); decide)
    | (with_reducible apply Fr.step (State.onStripe_fr ..); decide)
    | (with_reducible apply Fr.step (State.onPlay_fr ..); decide)
    | with_reducible apply Fr.ite
    | dsimp only
    | split

theorem State.openRun_fr (s : State) (r : Run) (x : Stripe) :
    Fr [.jobs, .beam] s (State.openRun s r x) := by
  unfold State.openRun
  repeat' first
    | intro _
    | with_reducible apply Fr.refl
    | with_reducible assumption
    | (with_reducible apply Fr.step (State.onBeam_fr ..); decide)
    | (with_reducible apply Fr.step (State.onStripe_fr ..); decide)
    | with_reducible apply Fr.ite
    | dsimp only
    | split

theorem State.exposeSeg_fr (s : State) (r : Run) (x : Stripe) :
    Fr [.jobs] s (State.exposeSeg s r x) := by
  unfold State.exposeSeg
  repeat' first
    | intro _
    | with_reducible apply Fr.refl
    | with_reducible assumption
    | (with_reducible apply Fr.step (State.onSeg_fr ..); decide)
    | with_reducible apply Fr.ite
    | dsimp only
    | split

theorem State.dueUnverifiable_fr (s : State) (id : StripeId) :
    Fr [.queues, .jobs, .render, .land, .play, .log, .out] s (State.dueUnverifiable s id) := by
  unfold State.dueUnverifiable
  repeat' first
    | intro _
    | with_reducible apply Fr.refl
    | with_reducible assumption
    | (with_reducible apply Fr.step (State.stopCause_fr ..); decide)
    | with_reducible apply Fr.ite
    | dsimp only
    | split

theorem State.dueSegments_fr (s : State) :
    Fr [.queues, .jobs, .render, .land, .play, .log, .out] s (State.dueSegments s) := by
  unfold State.dueSegments
  repeat' first
    | intro _
    | with_reducible apply Fr.refl
    | with_reducible assumption
    | (with_reducible apply Fr.step (State.dueUnverifiable_fr ..); decide)
    | (with_reducible apply Fr.step (State.stopCause_fr ..); decide)
    | with_reducible apply Fr.ite
    | dsimp only
    | split

theorem State.fixLoopback_fr (s : State) :
    Fr [.play] s (State.fixLoopback s) := by
  unfold State.fixLoopback
  repeat' first
    | intro _
    | with_reducible apply Fr.refl
    | with_reducible assumption
    | (with_reducible apply Fr.step (State.onPlay_fr ..); decide)
    | with_reducible apply Fr.ite
    | dsimp only
    | split

theorem State.placeFlash_fr (s : State) :
    Fr [.queues, .jobs, .render, .land, .play, .beam, .log, .out] s (State.placeFlash s) := by
  unfold State.placeFlash
  repeat' first
    | intro _
    | with_reducible apply Fr.refl
    | with_reducible assumption
    | (with_reducible apply Fr.step (State.openRun_fr ..); decide)
    | (with_reducible apply Fr.step (State.landingDone_fr ..); decide)
    | (with_reducible apply Fr.step (State.takeDrains_fr ..); decide)
    | (with_reducible apply Fr.step (State.writeRow_fr ..); decide)
    | (with_reducible apply Fr.step (State.exposeSeg_fr ..); decide)
    | (with_reducible apply Fr.step (State.buildFlash_fr ..); decide)
    | (with_reducible apply Fr.step (State.emits_fr ..); decide)
    | (with_reducible apply Fr.step (State.stopCause_fr ..); decide)
    | (with_reducible apply Fr.step (State.dueSegments_fr ..); decide)
    | (with_reducible apply Fr.step (State.fixLoopback_fr ..); decide)
    | (with_reducible apply Fr.step (State.evaluateRun_fr ..); decide)
    | with_reducible apply Fr.ite
    | dsimp only
    | split

theorem execFlashPlace_fr (s : State) :
    FrA [.queues, .jobs, .render, .land, .play, .beam, .log, .out] s (execFlashPlace s) := by
  unfold execFlashPlace
  repeat' first
    | intro _
    | with_reducible apply Fr.refl
    | with_reducible assumption
    | with_reducible apply FrA.next
    | (with_reducible apply Fr.step (State.placeFlash_fr ..); decide)
    | with_reducible apply FrA.ite
    | with_reducible apply Fr.ite
    | dsimp only
    | split

theorem State.settleDeficits_fr (s : State) (r : Run) (x : Stripe) :
    Fr [.jobs, .play] s (State.settleDeficits s r x) := by
  unfold State.settleDeficits
  repeat' first
    | intro _
    | with_reducible apply Fr.refl
    | with_reducible assumption
    | (with_reducible apply Fr.step (State.onPlay_fr ..); decide)
    | (with_reducible apply Fr.step (State.onStripe_fr ..); decide)
    | with_reducible apply Fr.ite
    | dsimp only
    | split

theorem State.leaveActive_fr (s : State) :
    Fr [.time, .queues, .mc, .meas, .ref, .power, .out] s (State.leaveActive s) := by
  unfold State.leaveActive
  repeat' first
    | intro _
    | with_reducible apply Fr.refl
    | with_reducible assumption
    | (with_reducible apply Fr.step (State.releaseSelect_fr ..); decide)
    | (with_reducible apply Fr.step (State.permitCheck_fr ..); decide)
    | (with_reducible apply Fr.step (State.programBand_fr ..); decide)
    | (with_reducible apply Fr.step (State.applyTrims_fr ..); decide)
    | (with_reducible apply Fr.step (State.restartTrims_fr ..); decide)
    | with_reducible apply Fr.ite
    | dsimp only
    | split

theorem State.writeTail_fr (s : State) (r : Run) (x : Stripe) :
    Fr [.jobs, .bytes, .play, .ledger] s (State.writeTail s r x) := by
  unfold State.writeTail
  repeat' first
    | intro _
    | with_reducible apply Fr.refl
    | with_reducible assumption
    | (with_reducible apply Fr.step (State.recordRange_fr ..); decide)
    | (with_reducible apply Fr.step (State.onPlay_fr ..); decide)
    | with_reducible apply Fr.ite
    | dsimp only
    | split

theorem State.forceTail_fr (s : State) :
    Fr [.jobs, .bytes, .play, .ledger] s (State.forceTail s) := by
  unfold State.forceTail
  repeat' first
    | intro _
    | with_reducible apply Fr.refl
    | with_reducible assumption
    | (with_reducible apply Fr.step (State.writeTail_fr ..); decide)
    | with_reducible apply Fr.ite
    | dsimp only
    | split

theorem State.closeTail_fr (s : State) :
    Fr [.jobs, .bytes, .play, .ledger] s (State.closeTail s) := by
  unfold State.closeTail
  repeat' first
    | intro _
    | with_reducible apply Fr.refl
    | with_reducible assumption
    | (with_reducible apply Fr.step (State.forceTail_fr ..); decide)
    | with_reducible apply Fr.ite
    | dsimp only
    | split

theorem State.lateCauses_fr (s : State) (r : Run) (x : Stripe) :
    Fr [.queues, .log, .out] s (State.lateCauses s r x) := by
  unfold State.lateCauses
  repeat' first
    | intro _
    | with_reducible apply Fr.refl
    | with_reducible assumption
    | (with_reducible apply Fr.step (State.raiseCause_fr ..); decide)
    | (with_reducible apply Fr.foldl)
    | with_reducible apply Fr.ite
    | dsimp only
    | split

theorem State.retire_fr (s : State) (r : Run) :
    Fr [.play] s (State.retire s r) := by
  unfold State.retire
  repeat' first
    | intro _
    | with_reducible apply Fr.refl
    | with_reducible assumption
    | (with_reducible apply Fr.step (State.onPlay_fr ..); decide)
    | with_reducible apply Fr.ite
    | dsimp only
    | split

theorem State.endRun_fr (s : State) (r : Run) (x : Stripe) :
    Fr [.time, .queues, .jobs, .render, .land, .bytes, .mc, .play, .link, .plate, .meas, .repair, .ref, .power, .log, .ledger, .out] s (State.endRun s r x) := by
  unfold State.endRun
  repeat' first
    | intro _
    | with_reducible apply Fr.refl
    | with_reducible assumption
    | (with_reducible apply Fr.step (State.settleDeficits_fr ..); decide)
    | (with_reducible apply Fr.step (State.freeSlots_fr ..); decide)
    | (with_reducible apply Fr.step (State.onStripe_fr ..); decide)
    | (with_reducible apply Fr.step (State.retire_fr ..); decide)
    | (with_reducible apply Fr.step (State.closeTail_fr ..); decide)
    | (with_reducible apply Fr.step (State.leaveActive_fr ..); decide)
    | (with_reducible apply Fr.step (State.plateCommit_fr ..); decide)
    | (with_reducible apply Fr.step (State.lateCauses_fr ..); decide)
    | (with_reducible apply Fr.step (State.raiseSt_fr ..); decide)
    | with_reducible apply Fr.ite
    | dsimp only
    | split

theorem State.haltRun_fr (s : State) (r : Run) (x : Stripe) (fh : Nat) :
    Fr [.time, .queues, .jobs, .render, .land, .bytes, .mc, .play, .beam, .link, .plate, .meas, .repair, .ref, .power, .log, .ledger, .out] s (State.haltRun s r x fh) := by
  unfold State.haltRun
  repeat' first
    | intro _
    | with_reducible apply Fr.refl
    | with_reducible assumption
    | (with_reducible apply Fr.step (State.dutyFlash_fr ..); decide)
    | (with_reducible apply Fr.step (State.settleDeficits_fr ..); decide)
    | (with_reducible apply Fr.step (State.freeSlots_fr ..); decide)
    | (with_reducible apply Fr.step (State.onStripe_fr ..); decide)
    | (with_reducible apply Fr.step (State.retire_fr ..); decide)
    | (with_reducible apply Fr.step (State.onPlay_fr ..); decide)
    | (with_reducible apply Fr.step (State.onJob_fr ..); decide)
    | (with_reducible apply Fr.step (State.closeTail_fr ..); decide)
    | (with_reducible apply Fr.step (State.leaveActive_fr ..); decide)
    | (with_reducible apply Fr.step (State.plateCommit_fr ..); decide)
    | (with_reducible apply Fr.step (State.raiseCause_fr ..); decide)
    | (with_reducible apply Fr.step (State.raiseSt_fr ..); decide)
    | (with_reducible apply Fr.foldl)
    | with_reducible apply Fr.ite
    | dsimp only
    | split

theorem State.finishHalt_fr (s : State) (id : StripeId) (qr : Option Nat) :
    Fr [.jobs, .bytes, .play, .ledger] s (State.finishHalt s id qr) := by
  unfold State.finishHalt
  repeat' first
    | intro _
    | with_reducible apply Fr.refl
    | with_reducible assumption
    | (with_reducible apply Fr.step (State.forceTail_fr ..); decide)
    | (with_reducible apply Fr.step (State.recordRange_fr ..); decide)
    | (with_reducible apply Fr.step (State.onStripe_fr ..); decide)
    | with_reducible apply Fr.ite
    | dsimp only
    | split

theorem State.retroDead_fr (s : State) (r : Run) (x : Stripe) (g fd : Nat) :
    Fr [.jobs, .play] s (State.retroDead s r x g fd) := by
  unfold State.retroDead
  repeat' first
    | intro _
    | with_reducible apply Fr.refl
    | with_reducible assumption
    | (with_reducible apply Fr.step (State.onStripe_fr ..); decide)
    | (with_reducible apply Fr.step (State.onPlay_fr ..); decide)
    | (with_reducible apply Fr.foldl)
    | with_reducible apply Fr.ite
    | dsimp only
    | split

theorem State.moveStore_fr (s : State) (r : Run) (x : Stripe) (h : Nat) :
    Fr [.jobs, .play] s (State.moveStore s r x h) := by
  unfold State.moveStore
  repeat' first
    | intro _
    | with_reducible apply Fr.refl
    | with_reducible assumption
    | (with_reducible apply Fr.step (State.onStripe_fr ..); decide)
    | (with_reducible apply Fr.step (State.onPlay_fr ..); decide)
    | with_reducible apply Fr.ite
    | dsimp only
    | split

theorem State.suspectLane_fr (s : State) (lane g : Nat) :
    Fr [.queues, .link, .plate, .log, .out] s (State.suspectLane s lane g) := by
  unfold State.suspectLane
  repeat' first
    | intro _
    | with_reducible apply Fr.refl
    | with_reducible assumption
    | (with_reducible apply Fr.step (State.onLink_fr ..); decide)
    | (with_reducible apply Fr.step (State.onLane_fr ..); decide)
    | (with_reducible apply Fr.step (State.startTraining_fr ..); decide)
    | (with_reducible apply Fr.step (State.retireLane_fr ..); decide)
    | with_reducible apply Fr.ite
    | dsimp only
    | split

theorem State.declareRun_fr (s : State) (r : Run) (x : Stripe) (lane g fd : Nat) (kill : Bool) :
    Fr [.queues, .jobs, .render, .land, .play, .link, .plate, .log, .out] s (State.declareRun s r x lane g fd kill) := by
  unfold State.declareRun
  repeat' first
    | intro _
    | with_reducible apply Fr.refl
    | with_reducible assumption
    | (with_reducible apply Fr.step (State.moveStore_fr ..); decide)
    | (with_reducible apply Fr.step (State.onPlay_fr ..); decide)
    | (with_reducible apply Fr.step (State.retroDead_fr ..); decide)
    | (with_reducible apply Fr.step (State.emit_fr ..); decide)
    | (with_reducible apply Fr.step (State.suspectLane_fr ..); decide)
    | (with_reducible apply Fr.step (State.faultSt_fr ..); decide)
    | (with_reducible apply Fr.step (State.stopCause_fr ..); decide)
    | with_reducible apply Fr.ite
    | dsimp only
    | split

theorem State.declareTail_fr (s : State) (r : Run) (x : Stripe) (lane g fd : Nat) (kill : Bool) :
    Fr [.queues, .jobs, .bytes, .play, .link, .plate, .log, .ledger, .out] s (State.declareTail s r x lane g fd kill) := by
  unfold State.declareTail
  repeat' first
    | intro _
    | with_reducible apply Fr.refl
    | with_reducible assumption
    | (with_reducible apply Fr.step (State.onStripe_fr ..); decide)
    | (with_reducible apply Fr.step (State.onPlay_fr ..); decide)
    | (with_reducible apply Fr.step (State.emit_fr ..); decide)
    | (with_reducible apply Fr.step (State.suspectLane_fr ..); decide)
    | (with_reducible apply Fr.step (State.faultSt_fr ..); decide)
    | (with_reducible apply Fr.step (State.closeTail_fr ..); decide)
    | (with_reducible apply Fr.foldl)
    | with_reducible apply Fr.ite
    | dsimp only
    | split

theorem State.declareDead_fr (s : State) (lane fd : Nat) (kill : Bool) :
    Fr [.queues, .jobs, .render, .land, .bytes, .play, .link, .plate, .log, .ledger, .out] s (State.declareDead s lane fd kill) := by
  unfold State.declareDead
  repeat' first
    | intro _
    | with_reducible apply Fr.refl
    | with_reducible assumption
    | (with_reducible apply Fr.step (State.declareRun_fr ..); decide)
    | (with_reducible apply Fr.step (State.declareTail_fr ..); decide)
    | with_reducible apply Fr.ite
    | dsimp only
    | split

theorem State.countFlash_fr (s : State) (x : Stripe) (r : Run) (m : Nat) :
    Fr [.queues, .beam, .link, .plate, .repair, .log, .out] s (State.countFlash s x r m) := by
  unfold State.countFlash
  repeat' first
    | intro _
    | with_reducible apply Fr.refl
    | with_reducible assumption
    | (with_reducible apply Fr.step (State.onBeam_fr ..); decide)
    | (with_reducible apply Fr.step (State.onPlate_fr ..); decide)
    | (with_reducible apply Fr.step (State.plateCommit_fr ..); decide)
    | with_reducible apply Fr.ite
    | dsimp only
    | split

theorem State.closeSegment_fr (s : State) (x : Stripe) (r : Run) :
    Fr [.jobs, .render] s (State.closeSegment s x r) := by
  unfold State.closeSegment
  repeat' first
    | intro _
    | with_reducible apply Fr.refl
    | with_reducible assumption
    | (with_reducible apply Fr.step (State.dropArbs_fr ..); decide)
    | (with_reducible apply Fr.step (State.onSeg_fr ..); decide)
    | with_reducible apply Fr.ite
    | dsimp only
    | split

theorem State.recordRipe_fr (s : State) (x : Stripe) (r : Run) :
    Fr [.jobs, .bytes, .play, .ledger] s (State.recordRipe s x r) := by
  unfold State.recordRipe
  repeat' first
    | intro _
    | with_reducible apply Fr.refl
    | with_reducible assumption
    | (with_reducible apply Fr.step (State.recordSeg_fr ..); decide)
    | (with_reducible apply Fr.step (State.onPlay_fr ..); decide)
    | with_reducible apply Fr.ite
    | dsimp only
    | split

theorem State.markStart_fr (s : State) (x : Stripe) (r : Run) (m : Nat) :
    Fr [.jobs] s (State.markStart s x r m) := by
  unfold State.markStart
  repeat' first
    | intro _
    | with_reducible apply Fr.refl
    | with_reducible assumption
    | (with_reducible apply Fr.step (State.onSeg_fr ..); decide)
    | with_reducible apply Fr.ite
    | dsimp only
    | split

theorem State.loopStatuses_fr (s : State) (x : Stripe) (r : Run) (cs : List (Nat × Nat)) (m : Nat) (fs : BitVec 64) :
    Fr [.queues, .jobs, .render, .land, .bytes, .play, .link, .plate, .log, .ledger, .out] s (State.loopStatuses s x r cs m fs) := by
  unfold State.loopStatuses
  repeat' first
    | intro _
    | with_reducible apply Fr.refl
    | with_reducible assumption
    | (with_reducible apply Fr.step (State.declareDead_fr ..); decide)
    | (with_reducible apply Fr.foldl)
    | with_reducible apply Fr.ite
    | dsimp only
    | split

theorem State.fireMarker_fr (s : State) :
    Fr [.time, .queues, .jobs, .render, .land, .bytes, .mc, .play, .beam, .link, .plate, .meas, .repair, .ref, .power, .log, .ledger, .trace, .out] s (State.fireMarker s) := by
  unfold State.fireMarker
  repeat' first
    | intro _
    | with_reducible apply Fr.refl
    | with_reducible assumption
    | (with_reducible apply Fr.step (State.emits_fr ..); decide)
    | (with_reducible apply Fr.step (State.markSent_fr ..); decide)
    | (with_reducible apply Fr.step (State.traceRec_fr ..); decide)
    | (with_reducible apply Fr.step (State.markStart_fr ..); decide)
    | (with_reducible apply Fr.step (State.commitFlash_fr ..); decide)
    | (with_reducible apply Fr.step (State.countFlash_fr ..); decide)
    | (with_reducible apply Fr.step (State.closeSegment_fr ..); decide)
    | (with_reducible apply Fr.step (State.onPlay_fr ..); decide)
    | (with_reducible apply Fr.step (State.onJob_fr ..); decide)
    | (with_reducible apply Fr.step (State.loopStatuses_fr ..); decide)
    | (with_reducible apply Fr.step (State.recordRipe_fr ..); decide)
    | (with_reducible apply Fr.step (State.endRun_fr ..); decide)
    | with_reducible apply Fr.ite
    | dsimp only
    | split

theorem State.voidMarker_fr (s : State) :
    Fr [.time, .queues, .jobs, .render, .land, .bytes, .mc, .play, .beam, .link, .plate, .meas, .repair, .ref, .power, .log, .ledger, .out] s (State.voidMarker s) := by
  unfold State.voidMarker
  repeat' first
    | intro _
    | with_reducible apply Fr.refl
    | with_reducible assumption
    | (with_reducible apply Fr.step (State.emits_fr ..); decide)
    | (with_reducible apply Fr.step (State.markSent_fr ..); decide)
    | (with_reducible apply Fr.step (State.onBeam_fr ..); decide)
    | (with_reducible apply Fr.step (State.haltRun_fr ..); decide)
    | with_reducible apply Fr.ite
    | dsimp only
    | split

theorem execVoidMarker_fr (s : State) :
    FrA [.time, .queues, .jobs, .render, .land, .bytes, .mc, .play, .beam, .link, .plate, .meas, .repair, .ref, .power, .log, .ledger, .out] s (execVoidMarker s) := by
  unfold execVoidMarker
  repeat' first
    | intro _
    | with_reducible apply Fr.refl
    | with_reducible assumption
    | with_reducible apply FrA.next
    | (with_reducible apply Fr.step (State.voidMarker_fr ..); decide)
    | with_reducible apply FrA.ite
    | with_reducible apply Fr.ite
    | dsimp only
    | split

theorem State.reenter_fr (s : State) (e : Reentry) (x : Stripe) (q : Nat) :
    Fr [.queues, .jobs, .bytes, .play, .ref, .ledger, .out] s (State.reenter s e x q) := by
  unfold State.reenter
  repeat' first
    | intro _
    | with_reducible apply Fr.refl
    | with_reducible assumption
    | (with_reducible apply Fr.step (State.finishHalt_fr ..); decide)
    | (with_reducible apply Fr.step (State.onPlay_fr ..); decide)
    | (with_reducible apply Fr.step (State.onStripe_fr ..); decide)
    | (with_reducible apply State.permit_st; decide; (case hp => rename_i hc; first | exact hc | (simp only [Bool.and_eq_true] at hc; exact hc.2)))
    | (with_reducible apply State.onRef_st; decide; case hf => first | exact fun _ h => h | exact fun _ _ _ => rfl | (intro _ _ h; cases h) | ((intro r h); (try dsimp only); (repeat' split) <;> simpa using h))
    | (with_reducible apply Fr.step (State.raiseSt_fr ..); decide)
    | dsimp only
    | split

theorem State.passBoundary_fr (s : State) (x : Stripe) (e : Reentry) :
    Fr [.jobs, .render, .land] s (State.passBoundary s x e) := by
  unfold State.passBoundary
  repeat' first
    | intro _
    | with_reducible apply Fr.refl
    | with_reducible assumption
    | (with_reducible apply Fr.step (State.freeSlot_fr ..); decide)
    | (with_reducible apply Fr.step (State.onRender_fr ..); decide)
    | (with_reducible apply Fr.step (State.onSeg_fr ..); decide)
    | with_reducible apply Fr.ite
    | dsimp only
    | split

theorem State.rowClock_fr (n : Nat) (b : Bool) (s : State) :
    Fr [.queues, .jobs, .render, .land, .bytes, .play, .ref, .ledger, .out] s (State.rowClock n b s) := by
  induction n generalizing b s with
  | zero => exact Fr.refl _ _
  | succ n ih =>
    unfold State.rowClock
    repeat' first
        | intro _
        | with_reducible apply Fr.refl
        | with_reducible assumption
        | with_reducible apply fun h => Fr.trans h (ih _ _)
        | (with_reducible apply Fr.step (State.dropReentry_fr ..); decide)
        | (with_reducible apply Fr.step (State.reenter_fr ..); decide)
        | (with_reducible apply Fr.step (State.passBoundary_fr ..); decide)
        | (with_reducible apply Fr.step (State.onPlay_fr ..); decide)
        | with_reducible apply Fr.ite
        | dsimp only
        | split

end Sys2Proof.Machine
end

