-- ==== Sys2Proof/Laws/GainOps.lean ====
section
/-!
SUPPORT. What each function and each meaning of Machine/GainOps.lean may change.
-/

namespace Sys2Proof.Machine

theorem State.closePair_fr (s : State) (g : GainPair) (st : BitVec 16) (body : List Word) :
    Fr [.queues, .mailboxes, .waiting, .link, .plate, .meas, .repair, .ref, .log, .out] s (State.closePair s g st body) := by
  unfold State.closePair
  repeat' first
    | intro _
    | with_reducible apply Fr.refl
    | with_reducible assumption
    | (with_reducible apply Fr.step (State.onMeas_fr ..); decide)
    | (with_reducible apply Fr.step (State.plateCommit_fr ..); decide)
    | (with_reducible apply Fr.step (State.permitCheck_fr ..); decide)
    | (with_reducible apply Fr.step (State.unwait_fr ..); decide)
    | (with_reducible apply Fr.step (State.respond_fr ..); decide)
    | with_reducible apply Fr.ite
    | dsimp only
    | split

theorem State.endPair_fr (s : State) (c : PairEnd) :
    Fr [.queues, .mailboxes, .waiting, .link, .plate, .meas, .repair, .ref, .log, .out] s (State.endPair s c) := by
  unfold State.endPair
  repeat' first
    | intro _
    | with_reducible apply Fr.refl
    | with_reducible assumption
    | (with_reducible apply Fr.step (State.raiseVia_fr ..); decide)
    | (with_reducible apply Fr.step (State.closePair_fr ..); decide)
    | with_reducible apply Fr.ite
    | dsimp only
    | split

theorem State.fireCalibration_fr (s : State) (g : GainPair) :
    Fr [.queues, .beam, .link, .plate, .meas, .repair, .log, .out] s (State.fireCalibration s g) := by
  unfold State.fireCalibration
  repeat' first
    | intro _
    | with_reducible apply Fr.refl
    | with_reducible assumption
    | (with_reducible apply Fr.step (State.emits_fr ..); decide)
    | (with_reducible apply Fr.step (State.onBeam_fr ..); decide)
    | (with_reducible apply Fr.step (State.onPlate_fr ..); decide)
    | (with_reducible apply Fr.step (State.plateCommit_fr ..); decide)
    | (with_reducible apply Fr.step (State.onMeas_fr ..); decide)
    | with_reducible apply Fr.ite
    | dsimp only
    | split

theorem execFireMarker_fr (s : State) :
    FrA [.time, .queues, .jobs, .render, .land, .bytes, .mc, .play, .beam, .link, .plate, .meas, .repair, .ref, .power, .log, .ledger, .trace, .out] s (execFireMarker s) := by
  unfold execFireMarker
  repeat' first
    | intro _
    | with_reducible apply Fr.refl
    | with_reducible assumption
    | with_reducible apply FrA.next
    | (with_reducible apply Fr.step (State.fireCalibration_fr ..); decide)
    | (with_reducible apply Fr.step (State.fireMarker_fr ..); decide)
    | with_reducible apply FrA.ite
    | with_reducible apply Fr.ite
    | dsimp only
    | split

theorem State.calStatus_fr (s : State) (q : Nat) (w : BitVec 256) :
    Fr [.queues, .mailboxes, .waiting, .link, .plate, .meas, .repair, .ref, .log, .out] s (State.calStatus s q w) := by
  unfold State.calStatus
  repeat' first
    | intro _
    | with_reducible apply Fr.refl
    | with_reducible assumption
    | (with_reducible apply Fr.step (State.endPair_fr ..); decide)
    | with_reducible apply Fr.ite
    | dsimp only
    | split

end Sys2Proof.Machine
end

