-- ==== Sys2Proof/Laws/Stage.lean ====
section
/-!
SUPPORT. What each function and each meaning of Machine/Stage.lean may change.
-/

namespace Sys2Proof.Machine

theorem State.onPos_fr (s : State) (n : Nat) (f : PosPort → PosPort) :
    Fr [.stage] s (State.onPos s n f) := by
  unfold State.onPos
  repeat' first
    | intro _
    | with_reducible apply Fr.refl
    | with_reducible assumption
    | (with_reducible apply Fr.step (State.onStage_fr ..); decide)
    | with_reducible apply Fr.ite
    | dsimp only
    | split

theorem State.integrityFault_fr (s : State) (e : Event) :
    Fr [.queues, .jobs, .render, .land, .play, .stage, .log, .out] s (State.integrityFault s e) := by
  unfold State.integrityFault
  repeat' first
    | intro _
    | with_reducible apply Fr.refl
    | with_reducible assumption
    | (with_reducible apply Fr.step (State.onStage_fr ..); decide)
    | (with_reducible apply Fr.step (State.stopCause_fr ..); decide)
    | with_reducible apply Fr.ite
    | dsimp only
    | split

theorem State.tickEmus_fr (s : State) :
    Fr [.queues, .stage, .out] s (State.tickEmus s) := by
  unfold State.tickEmus
  repeat' first
    | intro _
    | with_reducible apply Fr.refl
    | with_reducible assumption
    | (with_reducible apply Fr.step (State.onStage_fr ..); decide)
    | (with_reducible apply Fr.step (State.raise_fr ..); decide)
    | (with_reducible apply Fr.foldl)
    | with_reducible apply Fr.ite
    | dsimp only
    | split

theorem execEncoderTick_fr (s : State) :
    FrA [.queues, .stage, .out] s (execEncoderTick s) := by
  unfold execEncoderTick
  repeat' first
    | intro _
    | with_reducible apply Fr.refl
    | with_reducible assumption
    | with_reducible apply FrA.next
    | (with_reducible apply Fr.step (State.tickEmus_fr ..); decide)
    | (with_reducible apply Fr.step (State.onStage_fr ..); decide)
    | (with_reducible apply Fr.step (State.emits_fr ..); decide)
    | with_reducible apply FrA.ite
    | with_reducible apply Fr.ite
    | dsimp only
    | split

theorem State.portArrives_fr (s : State) (n : Nat) :
    Fr [.queues, .stage, .out] s (State.portArrives s n) := by
  unfold State.portArrives
  repeat' first
    | intro _
    | with_reducible apply Fr.refl
    | with_reducible assumption
    | (with_reducible apply Fr.step (State.onPos_fr ..); decide)
    | (with_reducible apply Fr.step (State.raise_fr ..); decide)
    | with_reducible apply Fr.ite
    | dsimp only
    | split

theorem State.frameFails_fr (s : State) (n : Nat) (f : PosPort → PosPort) :
    Fr [.queues, .stage, .log, .out] s (State.frameFails s n f) := by
  unfold State.frameFails
  repeat' first
    | intro _
    | with_reducible apply Fr.refl
    | with_reducible assumption
    | (with_reducible apply Fr.step (State.onPos_fr ..); decide)
    | (with_reducible apply Fr.step (State.fault_fr ..); decide)
    | with_reducible apply Fr.ite
    | dsimp only
    | split

theorem State.watchMarks_fr (s : State) (n : Nat) :
    Fr [.queues, .jobs, .render, .land, .play, .stage, .log, .out] s (State.watchMarks s n) := by
  unfold State.watchMarks
  repeat' first
    | intro _
    | with_reducible apply Fr.refl
    | with_reducible assumption
    | (with_reducible apply Fr.step (State.onPos_fr ..); decide)
    | (with_reducible apply Fr.step (State.integrityFault_fr ..); decide)
    | (with_reducible apply Fr.step (State.raise_fr ..); decide)
    | (with_reducible apply Fr.foldl)
    | with_reducible apply Fr.ite
    | dsimp only
    | split

theorem State.framePasses_fr (s : State) (n x : Nat) (warn : Bool) (bits : BitVec 6) :
    Fr [.queues, .jobs, .render, .land, .play, .stage, .log, .out] s (State.framePasses s n x warn bits) := by
  unfold State.framePasses
  repeat' first
    | intro _
    | with_reducible apply Fr.refl
    | with_reducible assumption
    | (with_reducible apply Fr.step (State.onPos_fr ..); decide)
    | (with_reducible apply Fr.step (State.watchMarks_fr ..); decide)
    | (with_reducible apply Fr.step (State.portArrives_fr ..); decide)
    | with_reducible apply Fr.ite
    | dsimp only
    | split

theorem execPositionFrame_fr (port : BitVec 3) (f : Option PosFrame) (s : State) :
    FrA [.queues, .jobs, .render, .land, .play, .stage, .log, .out] s (execPositionFrame port f s) := by
  unfold execPositionFrame
  repeat' first
    | intro _
    | with_reducible apply Fr.refl
    | with_reducible assumption
    | with_reducible apply FrA.next
    | (with_reducible apply Fr.step (State.frameFails_fr ..); decide)
    | (with_reducible apply Fr.step (State.framePasses_fr ..); decide)
    | with_reducible apply FrA.ite
    | with_reducible apply Fr.ite
    | dsimp only
    | split

theorem execEncoderIdentityRead_fr (port : BitVec 3) (a : Option IdAnswer) (s : State) :
    FrA [.queues, .stage, .log, .out] s (execEncoderIdentityRead port a s) := by
  unfold execEncoderIdentityRead
  repeat' first
    | intro _
    | with_reducible apply Fr.refl
    | with_reducible assumption
    | with_reducible apply FrA.next
    | (with_reducible apply Fr.step (State.fault_fr ..); decide)
    | (with_reducible apply Fr.step (State.onPos_fr ..); decide)
    | (with_reducible apply Fr.step (State.portArrives_fr ..); decide)
    | with_reducible apply FrA.ite
    | with_reducible apply Fr.ite
    | dsimp only
    | split

theorem State.watchAxis_fr (s : State) (ax : Axis) :
    Fr [.queues, .jobs, .render, .land, .play, .stage, .log, .out] s (State.watchAxis s ax) := by
  unfold State.watchAxis
  repeat' first
    | intro _
    | with_reducible apply Fr.refl
    | with_reducible assumption
    | (with_reducible apply Fr.step (State.watchMarks_fr ..); decide)
    | (with_reducible apply Fr.foldl)
    | with_reducible apply Fr.ite
    | dsimp only
    | split

theorem State.axisFault_fr (s : State) (e : Event) :
    Fr [.queues, .jobs, .render, .land, .play, .stage, .log, .out] s (State.axisFault s e) := by
  unfold State.axisFault
  repeat' first
    | intro _
    | with_reducible apply Fr.refl
    | with_reducible assumption
    | (with_reducible apply Fr.step (State.integrityFault_fr ..); decide)
    | (with_reducible apply Fr.step (State.fault_fr ..); decide)
    | with_reducible apply Fr.ite
    | dsimp only
    | split

theorem State.fuseFaults_fr (s : State) (ax : Axis) (dis gap lost : Bool) :
    Fr [.queues, .jobs, .render, .land, .play, .stage, .log, .out] s (State.fuseFaults s ax dis gap lost) := by
  unfold State.fuseFaults
  repeat' first
    | intro _
    | with_reducible apply Fr.refl
    | with_reducible assumption
    | (with_reducible apply Fr.step (State.integrityFault_fr ..); decide)
    | (with_reducible apply Fr.step (State.axisFault_fr ..); decide)
    | with_reducible apply Fr.ite
    | dsimp only
    | split

theorem State.newSample_fr (s : State) (ax : Axis) :
    Fr [.queues, .jobs, .render, .land, .bytes, .play, .ref, .log, .ledger, .out] s (State.newSample s ax) := by
  unfold State.newSample
  repeat' first
    | intro _
    | with_reducible apply Fr.refl
    | with_reducible assumption
    | (with_reducible apply Fr.step (State.rowClock_fr ..); decide)
    | (with_reducible apply Fr.step (State.evaluateRun_fr ..); decide)
    | with_reducible apply Fr.ite
    | dsimp only
    | split

theorem State.axisFusion_fr (s : State) (ax : Axis) :
    Fr [.queues, .mailboxes, .waiting, .jobs, .render, .land, .bytes, .play, .stage, .link, .plate, .meas, .repair, .ref, .log, .ledger, .trace, .out] s (State.axisFusion s ax) := by
  unfold State.axisFusion
  repeat' first
    | intro _
    | with_reducible apply Fr.refl
    | with_reducible assumption
    | (with_reducible apply Fr.step (State.rowClock_fr ..); decide)
    | (with_reducible apply Fr.step (State.onStage_fr ..); decide)
    | (with_reducible apply Fr.step (State.endPair_fr ..); decide)
    | (with_reducible apply Fr.step (State.fuseFaults_fr ..); decide)
    | (with_reducible apply Fr.step (State.watchAxis_fr ..); decide)
    | (with_reducible apply Fr.step (State.newSample_fr ..); decide)
    | (with_reducible apply Fr.step (State.traceRec_fr ..); decide)
    | with_reducible apply Fr.ite
    | dsimp only
    | split

theorem execAxisFusion_fr (ax : Axis) (s : State) :
    FrA [.queues, .mailboxes, .waiting, .jobs, .render, .land, .bytes, .play, .stage, .link, .plate, .meas, .repair, .ref, .log, .ledger, .trace, .out] s (execAxisFusion ax s) := by
  unfold execAxisFusion
  repeat' first
    | intro _
    | with_reducible apply Fr.refl
    | with_reducible assumption
    | with_reducible apply FrA.next
    | (with_reducible apply Fr.step (State.axisFusion_fr ..); decide)
    | with_reducible apply FrA.ite
    | with_reducible apply Fr.ite
    | dsimp only
    | split

theorem execReferenceMarkEdge_fr (port : BitVec 3) (rising : Bool) (s : State) :
    FrA [.stage] s (execReferenceMarkEdge port rising s) := by
  unfold execReferenceMarkEdge
  repeat' first
    | intro _
    | with_reducible apply Fr.refl
    | with_reducible assumption
    | with_reducible apply FrA.next
    | (with_reducible apply Fr.step (State.onPos_fr ..); decide)
    | (with_reducible apply Fr.step (State.onStage_fr ..); decide)
    | with_reducible apply FrA.ite
    | with_reducible apply Fr.ite
    | dsimp only
    | split

theorem State.judgeMark_fr (s : State) (n l : Nat) :
    Fr [.queues, .jobs, .render, .land, .play, .stage, .log, .out] s (State.judgeMark s n l) := by
  unfold State.judgeMark
  repeat' first
    | intro _
    | with_reducible apply Fr.refl
    | with_reducible assumption
    | (with_reducible apply Fr.step (State.onPos_fr ..); decide)
    | (with_reducible apply Fr.step (State.integrityFault_fr ..); decide)
    | (with_reducible apply Fr.step (State.raise_fr ..); decide)
    | with_reducible apply Fr.ite
    | dsimp only
    | split

theorem execMarkResolve_fr (port : BitVec 3) (s : State) :
    FrA [.queues, .jobs, .render, .land, .play, .stage, .log, .out] s (execMarkResolve port s) := by
  unfold execMarkResolve
  repeat' first
    | intro _
    | with_reducible apply Fr.refl
    | with_reducible assumption
    | with_reducible apply FrA.next
    | (with_reducible apply Fr.step (State.onPos_fr ..); decide)
    | (with_reducible apply Fr.step (State.judgeMark_fr ..); decide)
    | (with_reducible apply Fr.foldl)
    | with_reducible apply FrA.ite
    | with_reducible apply Fr.ite
    | dsimp only
    | split

theorem State.switchStop_fr (s : State) (p : PosPort) (e : Event) :
    Fr [.queues, .jobs, .render, .land, .play, .log, .out] s (State.switchStop s p e) := by
  unfold State.switchStop
  repeat' first
    | intro _
    | with_reducible apply Fr.refl
    | with_reducible assumption
    | (with_reducible apply Fr.step (State.stopCause_fr ..); decide)
    | (with_reducible apply Fr.step (State.raise_fr ..); decide)
    | with_reducible apply Fr.ite
    | dsimp only
    | split

theorem State.comboCheck_fr (s : State) (n : Nat) (p : PosPort) (i : SwitchInput) (now' : List Bool) :
    Fr [.queues, .jobs, .render, .land, .play, .log, .out] s (State.comboCheck s n p i now') := by
  unfold State.comboCheck
  repeat' first
    | intro _
    | with_reducible apply Fr.refl
    | with_reducible assumption
    | (with_reducible apply Fr.step (State.switchStop_fr ..); decide)
    | with_reducible apply Fr.ite
    | dsimp only
    | split

theorem State.rateCheck_fr (s : State) (n : Nat) (p : PosPort) (i : Nat) :
    Fr [.queues, .stage, .out] s (State.rateCheck s n p i) := by
  unfold State.rateCheck
  repeat' first
    | intro _
    | with_reducible apply Fr.refl
    | with_reducible assumption
    | (with_reducible apply Fr.step (State.onPos_fr ..); decide)
    | (with_reducible apply Fr.step (State.raise_fr ..); decide)
    | with_reducible apply Fr.ite
    | dsimp only
    | split

theorem execSwitchEdge_fr (port : BitVec 3) (i : SwitchInput) (level : Bool) (s : State) :
    FrA [.queues, .jobs, .render, .land, .play, .stage, .log, .out] s (execSwitchEdge port i level s) := by
  unfold execSwitchEdge
  repeat' first
    | intro _
    | with_reducible apply Fr.refl
    | with_reducible assumption
    | with_reducible apply FrA.next
    | (with_reducible apply Fr.step (State.rateCheck_fr ..); decide)
    | (with_reducible apply Fr.step (State.comboCheck_fr ..); decide)
    | (with_reducible apply Fr.step (State.onPos_fr ..); decide)
    | with_reducible apply FrA.ite
    | with_reducible apply Fr.ite
    | dsimp only
    | split

theorem execEmuStep_fr (k : BitVec 1) (s : State) :
    FrA [.stage, .out] s (execEmuStep k s) := by
  unfold execEmuStep
  repeat' first
    | intro _
    | with_reducible apply Fr.refl
    | with_reducible assumption
    | with_reducible apply FrA.next
    | (with_reducible apply Fr.step (State.onStage_fr ..); decide)
    | (with_reducible apply Fr.step (State.emit_fr ..); decide)
    | with_reducible apply FrA.ite
    | with_reducible apply Fr.ite
    | dsimp only
    | split

theorem execPermitInChange_fr (level : Bool) (s : State) :
    FrA [.queues, .mailboxes, .waiting, .jobs, .render, .land, .play, .link, .plate, .meas, .repair, .ref, .log, .out] s (execPermitInChange level s) := by
  unfold execPermitInChange
  repeat' first
    | intro _
    | with_reducible apply Fr.refl
    | with_reducible assumption
    | with_reducible apply FrA.next
    | (with_reducible apply State.onRef_st; decide; case hf => first | exact fun _ h => h | exact fun _ _ _ => rfl | (intro _ _ h; cases h) | ((intro r h); (try dsimp only); (repeat' split) <;> simpa using h))
    | (with_reducible apply Fr.step (State.permitCheck_fr ..); decide)
    | (with_reducible apply Fr.step (State.stopCause_fr ..); decide)
    | (with_reducible apply Fr.step (State.endPair_fr ..); decide)
    | with_reducible apply FrA.ite
    | with_reducible apply Fr.ite
    | dsimp only
    | split

theorem execStageConfig_fr (src : Src) (ports : List PortRec) (tracker : TrackerRec) (s : State) :
    FrA [.queues, .mailboxes, .stage, .out] s (execStageConfig src ports tracker s) := by
  unfold execStageConfig
  repeat' first
    | intro _
    | with_reducible apply Fr.refl
    | with_reducible assumption
    | with_reducible apply FrA.next
    | (with_reducible apply State.command_fr; decide)
    | (with_reducible apply Fr.step (State.onStage_fr ..); decide)
    | (with_reducible apply Fr.step (State.ok_fr ..); decide)
    | with_reducible apply FrA.ite
    | with_reducible apply Fr.ite
    | dsimp only
    | split

theorem execStageMarks_fr (src : Src) (port : BitVec 3) (marks : List MarkEntry) (s : State) :
    FrA [.queues, .mailboxes, .stage, .out] s (execStageMarks src port marks s) := by
  unfold execStageMarks
  repeat' first
    | intro _
    | with_reducible apply Fr.refl
    | with_reducible assumption
    | with_reducible apply FrA.next
    | (with_reducible apply State.command_fr; decide)
    | (with_reducible apply Fr.step (State.onPos_fr ..); decide)
    | (with_reducible apply Fr.step (State.ok_fr ..); decide)
    | with_reducible apply FrA.ite
    | with_reducible apply Fr.ite
    | dsimp only
    | split

theorem execStageStatus_fr (src : Src) (s : State) :
    FrA [.queues, .mailboxes, .out] s (execStageStatus src s) := by
  unfold execStageStatus
  repeat' first
    | intro _
    | with_reducible apply Fr.refl
    | with_reducible assumption
    | with_reducible apply FrA.next
    | (with_reducible apply Fr.step (State.ok_fr ..); decide)
    | with_reducible apply FrA.ite
    | with_reducible apply Fr.ite
    | dsimp only
    | split

theorem execStageFaultClear_fr (src : Src) (s : State) :
    FrA [.queues, .mailboxes, .stage, .out] s (execStageFaultClear src s) := by
  unfold execStageFaultClear
  repeat' first
    | intro _
    | with_reducible apply Fr.refl
    | with_reducible assumption
    | with_reducible apply FrA.next
    | (with_reducible apply State.command_fr; decide)
    | (with_reducible apply Fr.step (State.onStage_fr ..); decide)
    | (with_reducible apply Fr.step (State.ok_fr ..); decide)
    | with_reducible apply FrA.ite
    | with_reducible apply Fr.ite
    | dsimp only
    | split

theorem execStageSwitchTest_fr (src : Src) (on : Bool) (s : State) :
    FrA [.queues, .mailboxes, .stage, .out] s (execStageSwitchTest src on s) := by
  unfold execStageSwitchTest
  repeat' first
    | intro _
    | with_reducible apply Fr.refl
    | with_reducible assumption
    | with_reducible apply FrA.next
    | (with_reducible apply State.command_fr; decide)
    | (with_reducible apply Fr.step (State.onStage_fr ..); decide)
    | (with_reducible apply Fr.step (State.ok_fr ..); decide)
    | with_reducible apply FrA.ite
    | with_reducible apply Fr.ite
    | dsimp only
    | split

theorem execStagePacePolicy_fr (src : Src) (policy : BitVec 64) (s : State) :
    FrA [.queues, .mailboxes, .pacer, .out] s (execStagePacePolicy src policy s) := by
  unfold execStagePacePolicy
  repeat' first
    | intro _
    | with_reducible apply Fr.refl
    | with_reducible assumption
    | with_reducible apply FrA.next
    | (with_reducible apply State.command_fr; decide)
    | (with_reducible apply Fr.step (State.onPacer_fr ..); decide)
    | (with_reducible apply Fr.step (State.ok_fr ..); decide)
    | with_reducible apply FrA.ite
    | with_reducible apply Fr.ite
    | dsimp only
    | split

theorem execStageEmu_fr (src : Src) (emu0 emu1 : BitVec 64) (s : State) :
    FrA [.queues, .mailboxes, .stage, .out] s (execStageEmu src emu0 emu1 s) := by
  unfold execStageEmu
  repeat' first
    | intro _
    | with_reducible apply Fr.refl
    | with_reducible assumption
    | with_reducible apply FrA.next
    | (with_reducible apply State.command_fr; decide)
    | (with_reducible apply Fr.step (State.onStage_fr ..); decide)
    | (with_reducible apply Fr.step (State.ok_fr ..); decide)
    | with_reducible apply FrA.ite
    | with_reducible apply Fr.ite
    | dsimp only
    | split

end Sys2Proof.Machine
end

