-- ==== Sys2Proof/Laws/Pacer.lean ====
section
/-!
SUPPORT. What each function and each meaning of Machine/Pacer.lean may change.
-/

namespace Sys2Proof.Machine

theorem execPaceFrameSend_fr (s : State) :
    FrA [.queues, .bytes, .pacer, .trace, .out] s (execPaceFrameSend s) := by
  unfold execPaceFrameSend
  repeat' first
    | intro _
    | with_reducible apply Fr.refl
    | with_reducible assumption
    | with_reducible apply FrA.next
    | (with_reducible apply Fr.step (State.onPacer_fr ..); decide)
    | (with_reducible apply Fr.step (State.emit_fr ..); decide)
    | (with_reducible apply Fr.step (State.traceRec_fr ..); decide)
    | with_reducible apply FrA.ite
    | with_reducible apply Fr.ite
    | dsimp only
    | split

theorem State.mcReport_fr (s : State) (w : Word) :
    Fr [.queues, .jobs, .render, .land, .play, .pacer, .log, .out] s (State.mcReport s w) := by
  unfold State.mcReport
  repeat' first
    | intro _
    | with_reducible apply Fr.refl
    | with_reducible assumption
    | (with_reducible apply Fr.step (State.onPacer_fr ..); decide)
    | (with_reducible apply Fr.step (State.stopCause_fr ..); decide)
    | with_reducible apply Fr.ite
    | dsimp only
    | split

theorem execPaceReply_fr (w : Word) (crc : BitVec 16) (s : State) :
    FrA [.queues, .jobs, .render, .land, .bytes, .play, .pacer, .log, .trace, .out] s (execPaceReply w crc s) := by
  unfold execPaceReply
  repeat' first
    | intro _
    | with_reducible apply Fr.refl
    | with_reducible assumption
    | with_reducible apply FrA.next
    | (with_reducible apply Fr.step (State.traceRec_fr ..); decide)
    | (with_reducible apply Fr.step (State.onPacer_fr ..); decide)
    | (with_reducible apply Fr.step (State.mcReport_fr ..); decide)
    | (with_reducible apply Fr.step (State.raise_fr ..); decide)
    | with_reducible apply FrA.ite
    | with_reducible apply Fr.ite
    | dsimp only
    | split

theorem execMcAbsentTimeout_fr (s : State) :
    FrA [.queues, .jobs, .render, .land, .play, .pacer, .log, .out] s (execMcAbsentTimeout s) := by
  unfold execMcAbsentTimeout
  repeat' first
    | intro _
    | with_reducible apply Fr.refl
    | with_reducible assumption
    | with_reducible apply FrA.next
    | (with_reducible apply Fr.step (State.onPacer_fr ..); decide)
    | (with_reducible apply Fr.step (State.stopCause_fr ..); decide)
    | with_reducible apply FrA.ite
    | with_reducible apply Fr.ite
    | dsimp only
    | split

end Sys2Proof.Machine
end

