-- ==== Sys2Proof/Laws/Links.lean ====
section
/-!
SUPPORT. What each function and each meaning of Machine/Links.lean may change.
-/

namespace Sys2Proof.Machine

theorem State.degrade_fr (s : State) (n : Nat) :
    Fr [.queues, .link, .log, .out] s (State.degrade s n) := by
  unfold State.degrade
  repeat' first
    | intro _
    | with_reducible apply Fr.refl
    | with_reducible assumption
    | (with_reducible apply Fr.step (State.onLane_fr ..); decide)
    | (with_reducible apply Fr.step (State.fault_fr ..); decide)
    | with_reducible apply Fr.ite
    | dsimp only
    | split

theorem State.discardRecord_fr (s : State) (q : Nat) :
    Fr [.queues, .link, .log, .out] s (State.discardRecord s q) := by
  unfold State.discardRecord
  repeat' first
    | intro _
    | with_reducible apply Fr.refl
    | with_reducible assumption
    | (with_reducible apply Fr.step (State.onLink_fr ..); decide)
    | (with_reducible apply Fr.step (State.degrade_fr ..); decide)
    | (with_reducible apply Fr.foldl)
    | with_reducible apply Fr.ite
    | dsimp only
    | split

theorem State.failBringup_fr (s : State) (n : Nat) :
    Fr [.queues, .link, .plate, .log, .out] s (State.failBringup s n) := by
  unfold State.failBringup
  repeat' first
    | intro _
    | with_reducible apply Fr.refl
    | with_reducible assumption
    | (with_reducible apply Fr.step (State.onLane_fr ..); decide)
    | (with_reducible apply Fr.step (State.retireLane_fr ..); decide)
    | (with_reducible apply Fr.step (State.headCheck_fr ..); decide)
    | with_reducible apply Fr.ite
    | dsimp only
    | split

theorem State.dropLane_fr (s : State) (n : Nat) :
    Fr [.queues, .link, .plate, .log, .out] s (State.dropLane s n) := by
  unfold State.dropLane
  repeat' first
    | intro _
    | with_reducible apply Fr.refl
    | with_reducible assumption
    | (with_reducible apply Fr.step (State.failBringup_fr ..); decide)
    | (with_reducible apply Fr.step (State.onLane_fr ..); decide)
    | (with_reducible apply Fr.step (State.fault_fr ..); decide)
    | (with_reducible apply Fr.step (State.headCheck_fr ..); decide)
    | with_reducible apply Fr.ite
    | dsimp only
    | split

theorem State.lockReturn_fr (s : State) (k : Nat) :
    Fr [.link, .out] s (State.lockReturn s k) := by
  unfold State.lockReturn
  repeat' first
    | intro _
    | with_reducible apply Fr.refl
    | with_reducible assumption
    | (with_reducible apply Fr.step (State.onLink_fr ..); decide)
    | (with_reducible apply Fr.step (State.trainPreset_fr ..); decide)
    | (with_reducible apply Fr.foldl)
    | with_reducible apply Fr.ite
    | dsimp only
    | split

theorem State.loseReturn_fr (s : State) (k : Nat) :
    Fr [.queues, .link, .plate, .log, .out] s (State.loseReturn s k) := by
  unfold State.loseReturn
  repeat' first
    | intro _
    | with_reducible apply Fr.refl
    | with_reducible assumption
    | (with_reducible apply Fr.step (State.onLink_fr ..); decide)
    | (with_reducible apply Fr.step (State.fault_fr ..); decide)
    | (with_reducible apply Fr.step (State.dropLane_fr ..); decide)
    | (with_reducible apply Fr.step (State.onLane_fr ..); decide)
    | (with_reducible apply Fr.foldl)
    | with_reducible apply Fr.ite
    | dsimp only
    | split

theorem State.record_fr {ps : List Part} {s t : State} {q : BitVec 2} {w : BitVec 256} {type : Nat}
    {k : State → State} (hq : [.queues, .link, .plate, .log, .out].all ps.contains = true) (h : Fr ps s t) (hk : ∀ u, Fr ps s u → Fr ps s (k u)) :
    Fr ps s (t.record q w type k) := by
  have on (f : RetLane → RetLane) :
      Fr [.queues, .link, .plate, .log, .out] t (t.onLink fun l => { l with rets := l.rets.modify q.toNat f }) := Fr.mono (State.onLink_fr ..) (by decide)
  unfold State.record
  dsimp only
  split
  · split
    · exact Fr.step (on _) hq h
    · split
      · exact Fr.step (on _) hq h
      · exact Fr.step (Fr.mono (State.lockReturn_fr ..) (by decide)) hq h
  · split
    · split
      · exact Fr.step (Fr.mono (State.discardRecord_fr ..) (by decide)) hq (Fr.step (on _) hq h)
      · exact Fr.step (Fr.mono (State.loseReturn_fr ..) (by decide)) hq
          (Fr.step (Fr.mono (State.discardRecord_fr ..) (by decide)) hq h)
    · have h1 := Fr.step (on fun z => { z with bad := 0, lastAt := t.now }) hq h
      split
      · exact hk _ h1
      · exact h1

theorem State.onStatusRun_fr (s : State) (f : Run → Run) :
    Fr [.play] s (State.onStatusRun s f) := by
  unfold State.onStatusRun
  repeat' first
    | intro _
    | with_reducible apply Fr.refl
    | with_reducible assumption
    | (with_reducible apply Fr.step (State.onPlay_fr ..); decide)
    | with_reducible apply Fr.ite
    | dsimp only
    | split

theorem State.takeStatus_fr (s : State) (lane : Nat) (flash : Int) (st : Nat) :
    Fr [.queues, .jobs, .render, .land, .bytes, .play, .link, .plate, .ref, .log, .ledger, .out] s (State.takeStatus s lane flash st) := by
  unfold State.takeStatus
  repeat' first
    | intro _
    | with_reducible apply Fr.refl
    | with_reducible assumption
    | (with_reducible apply Fr.step (State.faultSt_fr ..); decide)
    | (with_reducible apply Fr.step (State.declareDead_fr ..); decide)
    | (with_reducible apply Fr.step (State.onStatusRun_fr ..); decide)
    | (with_reducible apply Fr.step (State.onLink_fr ..); decide)
    | (with_reducible apply Fr.step (State.permitCheck_fr ..); decide)
    | (with_reducible apply Fr.step (State.closeTail_fr ..); decide)
    | with_reducible apply Fr.ite
    | dsimp only
    | split

theorem State.ack_fr (s : State) (q : Nat) (w : BitVec 256) :
    Fr [.queues, .mailboxes, .waiting, .jobs, .render, .land, .bytes, .play, .link, .plate, .meas, .repair, .ref, .log, .ledger, .out] s (State.ack s q w) := by
  unfold State.ack
  repeat' first
    | intro _
    | with_reducible apply Fr.refl
    | with_reducible assumption
    | (with_reducible apply Fr.step (State.calStatus_fr ..); decide)
    | (with_reducible apply Fr.step (State.takeStatus_fr ..); decide)
    | (with_reducible apply Fr.foldl)
    | with_reducible apply Fr.ite
    | dsimp only
    | split

theorem execAckRecord_fr (q : BitVec 2) (w : BitVec 256) (s : State) :
    FrA [.queues, .mailboxes, .waiting, .jobs, .render, .land, .bytes, .play, .link, .plate, .meas, .repair, .ref, .log, .ledger, .out] s (execAckRecord q w s) := by
  unfold execAckRecord
  repeat' first
    | intro _
    | with_reducible apply Fr.refl
    | with_reducible assumption
    | with_reducible apply FrA.next
    | (with_reducible apply State.record_fr; decide)
    | (with_reducible apply Fr.step (State.ack_fr ..); decide)
    | with_reducible apply FrA.ite
    | with_reducible apply Fr.ite
    | dsimp only
    | split

theorem execStatusTimeout_fr (lane : BitVec 7) (s : State) :
    FrA [.queues, .jobs, .render, .land, .bytes, .play, .link, .plate, .log, .ledger, .out] s (execStatusTimeout lane s) := by
  unfold execStatusTimeout
  repeat' first
    | intro _
    | with_reducible apply Fr.refl
    | with_reducible assumption
    | with_reducible apply FrA.next
    | (with_reducible apply Fr.step (State.declareDead_fr ..); decide)
    | with_reducible apply FrA.ite
    | with_reducible apply Fr.ite
    | dsimp only
    | split

theorem State.levelRise_fr (s : State) (old new : Nat) :
    Fr [.queues, .jobs, .render, .land, .play, .link, .ref, .log, .out] s (State.levelRise s old new) := by
  unfold State.levelRise
  repeat' first
    | intro _
    | with_reducible apply Fr.refl
    | with_reducible assumption
    | (with_reducible apply Fr.step (State.onLink_fr ..); decide)
    | (with_reducible apply Fr.step (State.permitCheck_fr ..); decide)
    | (with_reducible apply Fr.step (State.raise_fr ..); decide)
    | (with_reducible apply Fr.step (State.stopCause_fr ..); decide)
    | with_reducible apply Fr.ite
    | dsimp only
    | split

theorem State.setLevel_fr (s : State) (c new : Nat) (f : Thermal → Thermal) :
    Fr [.queues, .jobs, .render, .land, .play, .link, .ref, .log, .out] s (State.setLevel s c new f) := by
  unfold State.setLevel
  repeat' first
    | intro _
    | with_reducible apply Fr.refl
    | with_reducible assumption
    | (with_reducible apply Fr.step (State.onLink_fr ..); decide)
    | (with_reducible apply Fr.step (State.levelRise_fr ..); decide)
    | with_reducible apply Fr.ite
    | dsimp only
    | split

theorem State.reading_fr (s : State) (c raw : Nat) :
    Fr [.queues, .jobs, .render, .land, .play, .link, .ref, .log, .out] s (State.reading s c raw) := by
  unfold State.reading
  repeat' first
    | intro _
    | with_reducible apply Fr.refl
    | with_reducible assumption
    | (with_reducible apply Fr.step (State.setLevel_fr ..); decide)
    | with_reducible apply Fr.ite
    | dsimp only
    | split

theorem execTempRecord_fr (q : BitVec 2) (w : BitVec 256) (s : State) :
    FrA [.queues, .jobs, .render, .land, .play, .link, .plate, .ref, .log, .out] s (execTempRecord q w s) := by
  unfold execTempRecord
  repeat' first
    | intro _
    | with_reducible apply Fr.refl
    | with_reducible assumption
    | with_reducible apply FrA.next
    | (with_reducible apply State.record_fr; decide)
    | (with_reducible apply Fr.step (State.reading_fr ..); decide)
    | (with_reducible apply Fr.foldl)
    | with_reducible apply FrA.ite
    | with_reducible apply Fr.ite
    | dsimp only
    | split

theorem execThermalStaleTimeout_fr (ch : BitVec 4) (s : State) :
    FrA [.queues, .jobs, .render, .land, .play, .link, .ref, .log, .out] s (execThermalStaleTimeout ch s) := by
  unfold execThermalStaleTimeout
  repeat' first
    | intro _
    | with_reducible apply Fr.refl
    | with_reducible assumption
    | with_reducible apply FrA.next
    | (with_reducible apply Fr.step (State.fault_fr ..); decide)
    | (with_reducible apply Fr.step (State.setLevel_fr ..); decide)
    | with_reducible apply FrA.ite
    | with_reducible apply Fr.ite
    | dsimp only
    | split

theorem State.stuckOn_fr (s : State) (b : Nat) (fs : Int) :
    Fr [.queues, .mailboxes, .waiting, .jobs, .render, .land, .play, .beam, .link, .plate, .meas, .repair, .ref, .log, .out] s (State.stuckOn s b fs) := by
  unfold State.stuckOn
  repeat' first
    | intro _
    | with_reducible apply Fr.refl
    | with_reducible assumption
    | (with_reducible apply Fr.step (State.onBeam_fr ..); decide)
    | (with_reducible apply Fr.step (State.permitCheck_fr ..); decide)
    | (with_reducible apply Fr.step (State.stopCause_fr ..); decide)
    | (with_reducible apply Fr.step (State.fault_fr ..); decide)
    | (with_reducible apply Fr.step (State.endPair_fr ..); decide)
    | with_reducible apply Fr.ite
    | dsimp only
    | split

theorem State.stuckOff_fr (s : State) (b : Nat) (fs : Int) :
    Fr [.queues, .jobs, .render, .land, .play, .beam, .log, .out] s (State.stuckOff s b fs) := by
  unfold State.stuckOff
  repeat' first
    | intro _
    | with_reducible apply Fr.refl
    | with_reducible assumption
    | (with_reducible apply Fr.step (State.onBeam_fr ..); decide)
    | (with_reducible apply Fr.step (State.onStripe_fr ..); decide)
    | (with_reducible apply Fr.step (State.onPlay_fr ..); decide)
    | (with_reducible apply Fr.step (State.stopCause_fr ..); decide)
    | with_reducible apply Fr.ite
    | dsimp only
    | split

theorem execStuckRecord_fr (q : BitVec 2) (w : BitVec 256) (s : State) :
    FrA [.queues, .mailboxes, .waiting, .jobs, .render, .land, .play, .beam, .link, .plate, .meas, .repair, .ref, .log, .out] s (execStuckRecord q w s) := by
  unfold execStuckRecord
  repeat' first
    | intro _
    | with_reducible apply Fr.refl
    | with_reducible assumption
    | with_reducible apply FrA.next
    | (with_reducible apply State.record_fr; decide)
    | (with_reducible apply Fr.step (State.stuckOn_fr ..); decide)
    | (with_reducible apply Fr.step (State.stuckOff_fr ..); decide)
    | (with_reducible apply Fr.step (State.onBeam_fr ..); decide)
    | with_reducible apply FrA.ite
    | with_reducible apply Fr.ite
    | dsimp only
    | split

theorem State.linkstat_fr (s : State) (n margin errs : Nat) :
    Fr [.queues, .link, .log, .out] s (State.linkstat s n margin errs) := by
  unfold State.linkstat
  repeat' first
    | intro _
    | with_reducible apply Fr.refl
    | with_reducible assumption
    | (with_reducible apply Fr.step (State.onLane_fr ..); decide)
    | (with_reducible apply Fr.step (State.degrade_fr ..); decide)
    | with_reducible apply Fr.ite
    | dsimp only
    | split

theorem execLinkstatRecord_fr (q : BitVec 2) (w : BitVec 256) (s : State) :
    FrA [.queues, .link, .plate, .log, .out] s (execLinkstatRecord q w s) := by
  unfold execLinkstatRecord
  repeat' first
    | intro _
    | with_reducible apply Fr.refl
    | with_reducible assumption
    | with_reducible apply FrA.next
    | (with_reducible apply State.record_fr; decide)
    | (with_reducible apply Fr.step (State.linkstat_fr ..); decide)
    | (with_reducible apply Fr.foldl)
    | with_reducible apply FrA.ite
    | with_reducible apply Fr.ite
    | dsimp only
    | split

theorem execLaneDegradedExit_fr (lane : BitVec 7) (s : State) :
    FrA [.queues, .link, .out] s (execLaneDegradedExit lane s) := by
  unfold execLaneDegradedExit
  repeat' first
    | intro _
    | with_reducible apply Fr.refl
    | with_reducible assumption
    | with_reducible apply FrA.next
    | (with_reducible apply Fr.step (State.onLane_fr ..); decide)
    | (with_reducible apply Fr.step (State.raise_fr ..); decide)
    | with_reducible apply FrA.ite
    | with_reducible apply Fr.ite
    | dsimp only
    | split

theorem execLaneBringupRetry_fr (lane : BitVec 7) (s : State) :
    FrA [.link, .out] s (execLaneBringupRetry lane s) := by
  unfold execLaneBringupRetry
  repeat' first
    | intro _
    | with_reducible apply Fr.refl
    | with_reducible assumption
    | with_reducible apply FrA.next
    | (with_reducible apply Fr.step (State.onLane_fr ..); decide)
    | (with_reducible apply Fr.step (State.startTraining_fr ..); decide)
    | with_reducible apply FrA.ite
    | with_reducible apply Fr.ite
    | dsimp only
    | split

theorem execReturnBlockLock_fr (q : BitVec 2) (s : State) :
    FrA [.link, .out] s (execReturnBlockLock q s) := by
  unfold execReturnBlockLock
  repeat' first
    | intro _
    | with_reducible apply Fr.refl
    | with_reducible assumption
    | with_reducible apply FrA.next
    | (with_reducible apply Fr.step (State.lockReturn_fr ..); decide)
    | with_reducible apply FrA.ite
    | with_reducible apply Fr.ite
    | dsimp only
    | split

theorem execReturnLaneLost_fr (loss : ReturnLoss) (s : State) :
    FrA [.queues, .link, .plate, .log, .out] s (execReturnLaneLost loss s) := by
  unfold execReturnLaneLost
  repeat' first
    | intro _
    | with_reducible apply Fr.refl
    | with_reducible assumption
    | with_reducible apply FrA.next
    | (with_reducible apply Fr.step (State.loseReturn_fr ..); decide)
    | with_reducible apply FrA.ite
    | with_reducible apply Fr.ite
    | dsimp only
    | split

theorem State.laneTestStart_fr (s : State) (n : Nat) :
    Fr [.link, .out] s (State.laneTestStart s n) := by
  unfold State.laneTestStart
  repeat' first
    | intro _
    | with_reducible apply Fr.refl
    | with_reducible assumption
    | (with_reducible apply Fr.step (State.onLane_fr ..); decide)
    | (with_reducible apply Fr.step (State.sendMgmt_fr ..); decide)
    | with_reducible apply Fr.ite
    | dsimp only
    | split

theorem execTrainPresetExpiry_fr (lane : BitVec 7) (margin : BitVec 8) (s : State) :
    FrA [.link, .out] s (execTrainPresetExpiry lane margin s) := by
  unfold execTrainPresetExpiry
  repeat' first
    | intro _
    | with_reducible apply Fr.refl
    | with_reducible assumption
    | with_reducible apply FrA.next
    | (with_reducible apply Fr.step (State.onLane_fr ..); decide)
    | (with_reducible apply Fr.step (State.trainPreset_fr ..); decide)
    | (with_reducible apply Fr.step (State.laneTestStart_fr ..); decide)
    | (with_reducible apply Fr.step (State.sendMgmt_fr ..); decide)
    | with_reducible apply FrA.ite
    | with_reducible apply Fr.ite
    | dsimp only
    | split

theorem State.acceptIdentity_fr (s : State) (n : Nat) (body : List Byte) :
    Fr [.queues, .link, .plate, .log, .out] s (State.acceptIdentity s n body) := by
  unfold State.acceptIdentity
  repeat' first
    | intro _
    | with_reducible apply Fr.refl
    | with_reducible assumption
    | (with_reducible apply Fr.step (State.onLane_fr ..); decide)
    | (with_reducible apply Fr.step (State.fault_fr ..); decide)
    | (with_reducible apply Fr.step (State.failBringup_fr ..); decide)
    | (with_reducible apply Fr.step (State.startTraining_fr ..); decide)
    | (with_reducible apply Fr.step (State.onLink_fr ..); decide)
    | (with_reducible apply Fr.step (State.raise_fr ..); decide)
    | (with_reducible apply Fr.step (State.degrade_fr ..); decide)
    | (with_reducible apply Fr.step (State.plateStart_fr ..); decide)
    | (with_reducible apply Fr.foldl)
    | with_reducible apply Fr.ite
    | dsimp only
    | split

theorem State.laneTestDone_fr (s : State) (n errors margin : Nat) :
    Fr [.queues, .mailboxes, .waiting, .link, .plate, .log, .out] s (State.laneTestDone s n errors margin) := by
  unfold State.laneTestDone
  repeat' first
    | intro _
    | with_reducible apply Fr.refl
    | with_reducible assumption
    | (with_reducible apply Fr.step (State.onLane_fr ..); decide)
    | (with_reducible apply Fr.step (State.raise_fr ..); decide)
    | (with_reducible apply Fr.step (State.retireLane_fr ..); decide)
    | (with_reducible apply Fr.step (State.unwait_fr ..); decide)
    | (with_reducible apply Fr.step (State.respond_fr ..); decide)
    | with_reducible apply Fr.ite
    | dsimp only
    | split

theorem execLaneDown_fr (lane : BitVec 7) (s : State) :
    FrA [.queues, .mailboxes, .waiting, .link, .plate, .log, .out] s (execLaneDown lane s) := by
  unfold execLaneDown
  repeat' first
    | intro _
    | with_reducible apply Fr.refl
    | with_reducible assumption
    | with_reducible apply FrA.next
    | (with_reducible apply Fr.step (State.laneTestDone_fr ..); decide)
    | (with_reducible apply Fr.step (State.dropLane_fr ..); decide)
    | with_reducible apply FrA.ite
    | with_reducible apply Fr.ite
    | dsimp only
    | split

theorem execLaneTestComplete_fr (lane : BitVec 7) (errors : BitVec 64) (margin : BitVec 8) (s : State) :
    FrA [.queues, .mailboxes, .waiting, .link, .plate, .log, .out] s (execLaneTestComplete lane errors margin s) := by
  unfold execLaneTestComplete
  repeat' first
    | intro _
    | with_reducible apply Fr.refl
    | with_reducible assumption
    | with_reducible apply FrA.next
    | (with_reducible apply Fr.step (State.laneTestDone_fr ..); decide)
    | with_reducible apply FrA.ite
    | with_reducible apply Fr.ite
    | dsimp only
    | split

theorem State.mgmtGiveUp_fr (s : State) (w : MgmtWait) :
    Fr [.queues, .mailboxes, .waiting, .link, .plate, .log, .out] s (State.mgmtGiveUp s w) := by
  unfold State.mgmtGiveUp
  repeat' first
    | intro _
    | with_reducible apply Fr.refl
    | with_reducible assumption
    | (with_reducible apply Fr.step (State.onLink_fr ..); decide)
    | (with_reducible apply Fr.step (State.dropLane_fr ..); decide)
    | (with_reducible apply Fr.step (State.fault_fr ..); decide)
    | (with_reducible apply Fr.step (State.laneTestDone_fr ..); decide)
    | with_reducible apply Fr.ite
    | dsimp only
    | split

theorem execMgmtRetryTimeout_fr (lane : BitVec 7) (s : State) :
    FrA [.queues, .mailboxes, .waiting, .link, .plate, .log, .out] s (execMgmtRetryTimeout lane s) := by
  unfold execMgmtRetryTimeout
  repeat' first
    | intro _
    | with_reducible apply Fr.refl
    | with_reducible assumption
    | with_reducible apply FrA.next
    | (with_reducible apply Fr.step (State.sendMgmt_fr ..); decide)
    | (with_reducible apply Fr.step (State.mgmtGiveUp_fr ..); decide)
    | with_reducible apply FrA.ite
    | with_reducible apply Fr.ite
    | dsimp only
    | split

theorem execSyncBlockSend_fr (s : State) :
    FrA [.link, .out] s (execSyncBlockSend s) := by
  unfold execSyncBlockSend
  repeat' first
    | intro _
    | with_reducible apply Fr.refl
    | with_reducible assumption
    | with_reducible apply FrA.next
    | (with_reducible apply Fr.step (State.emit_fr ..); decide)
    | (with_reducible apply Fr.step (State.onLane_fr ..); decide)
    | (with_reducible apply Fr.foldl)
    | with_reducible apply FrA.ite
    | with_reducible apply Fr.ite
    | dsimp only
    | split

theorem execBlankFrame_fr (s : State) :
    FrA [.link, .out] s (execBlankFrame s) := by
  unfold execBlankFrame
  repeat' first
    | intro _
    | with_reducible apply Fr.refl
    | with_reducible assumption
    | with_reducible apply FrA.next
    | (with_reducible apply Fr.step (State.emits_fr ..); decide)
    | (with_reducible apply Fr.step (State.onLink_fr ..); decide)
    | with_reducible apply FrA.ite
    | with_reducible apply Fr.ite
    | dsimp only
    | split

theorem execLinkThermal_fr (src : Src) (ch : BitVec 4) (warn stop trip : BitVec 16) (s : State) :
    FrA [.queues, .mailboxes, .link, .out] s (execLinkThermal src ch warn stop trip s) := by
  unfold execLinkThermal
  repeat' first
    | intro _
    | with_reducible apply Fr.refl
    | with_reducible assumption
    | with_reducible apply FrA.next
    | (with_reducible apply State.command_fr; decide)
    | (with_reducible apply Fr.step (State.onLink_fr ..); decide)
    | (with_reducible apply Fr.step (State.ok_fr ..); decide)
    | with_reducible apply FrA.ite
    | with_reducible apply Fr.ite
    | dsimp only
    | split

theorem execLinkStatus_fr (src : Src) (s : State) :
    FrA [.queues, .mailboxes, .out] s (execLinkStatus src s) := by
  unfold execLinkStatus
  repeat' first
    | intro _
    | with_reducible apply Fr.refl
    | with_reducible assumption
    | with_reducible apply FrA.next
    | (with_reducible apply Fr.step (State.ok_fr ..); decide)
    | with_reducible apply FrA.ite
    | with_reducible apply Fr.ite
    | dsimp only
    | split

theorem execLinkTest_fr (src : Src) (lane : BitVec 7) (s : State) :
    FrA [.queues, .mailboxes, .waiting, .link, .out] s (execLinkTest src lane s) := by
  unfold execLinkTest
  repeat' first
    | intro _
    | with_reducible apply Fr.refl
    | with_reducible assumption
    | with_reducible apply FrA.next
    | (with_reducible apply State.command_fr; decide)
    | (with_reducible apply Fr.step (State.onLane_fr ..); decide)
    | (with_reducible apply Fr.step (State.startTraining_fr ..); decide)
    | (with_reducible apply Fr.step (State.wait_fr ..); decide)
    | with_reducible apply FrA.ite
    | with_reducible apply Fr.ite
    | dsimp only
    | split

end Sys2Proof.Machine
end

