-- ==== Sys2Proof/Laws/Parser.lean ====
section
/-!
SUPPORT. What each function and each meaning of Machine/Parser.lean may change.
-/

namespace Sys2Proof.Machine

theorem State.stallAt_fr (s : State) (job : BitVec 16) (row seq off : Nat) :
    Fr [.queues, .jobs, .out] s (State.stallAt s job row seq off) := by
  unfold State.stallAt
  repeat' first
    | intro _
    | with_reducible apply Fr.refl
    | with_reducible assumption
    | (with_reducible apply Fr.step (State.onJobs_fr ..); decide)
    | (with_reducible apply Fr.step (State.raiseVia_fr ..); decide)
    | with_reducible apply Fr.ite
    | dsimp only
    | split

/-- The chunk's state differs from `s` in the parts named only. -/
def OFr (ps : List Part) (s : State) (o : Option Chunk) : Prop := ∀ c, o = some c → Fr ps s c.s

theorem OFr.none {ps : List Part} {s : State} : OFr ps s none := fun _ h => by cases h

theorem OFr.some {ps : List Part} {s : State} {c : Chunk} (h : Fr ps s c.s) : OFr ps s (some c) := fun d hd => by
  cases hd
  exact h

theorem OFr.ite {ps : List Part} {p : Prop} [Decidable p] {s : State} {a b : Option Chunk} (ha : OFr ps s a)
    (hb : OFr ps s b) : OFr ps s (if p then a else b) := by
  split
  · exact ha
  · exact hb

theorem OFr.trans {ps : List Part} {s : State} {c : Chunk} {o : Option Chunk} (h1 : Fr ps s c.s)
    (h2 : OFr ps c.s o) : OFr ps s o := fun d hd => h1.trans (h2 d hd)

@[simp] theorem Chunk.mark_s (c : Chunk) (row off : Nat) (ok : Bool) : (c.mark row off ok).s = c.s := by
  unfold Chunk.mark
  split <;> rfl

@[simp] theorem Chunk.charge_s (c : Chunk) (off n : Nat) : (c.charge off n).s = c.s := by
  unfold Chunk.charge
  simp

theorem Chunk.onJob_fr (c : Chunk) (f : Job → Job) : Fr [.jobs] c.s (c.onJob f).s := State.onJob_fr ..

theorem Chunk.onStripe_fr (c : Chunk) (f : Stripe → Stripe) : Fr [.jobs] c.s (c.onStripe f).s := by
  unfold Chunk.onStripe
  split
  · exact State.onStripe_fr ..
  · exact Fr.refl _ _

theorem Chunk.keep_fr (c : Chunk) (off n : Nat) (f : Stripe → Stripe) : Fr [.jobs] c.s (c.keep off n f).s := by
  have := (c.charge off n).onStripe_fr fun x => { f x with nrec := x.nrec + 1, bytes := x.bytes + n }
  rw [Chunk.charge_s] at this
  exact this

theorem Chunk.jobHeader_fr (c : Chunk) (ws : List Word) : OFr [.queues, .jobs, .render, .bytes, .log, .out] c.s (c.jobHeader ws) := by
  unfold Chunk.jobHeader
  refine OFr.ite (OFr.some ((c.onJob_fr _).mono rfl)) OFr.none

theorem Chunk.stripeHeader_fr (c : Chunk) (off : Nat) (ws : List Word) : OFr [.queues, .jobs, .render, .bytes, .log, .out] c.s (c.stripeHeader off ws) := by
  unfold Chunk.stripeHeader
  dsimp only
  split
  · exact OFr.none
  · split
    · exact OFr.none
    · refine OFr.ite (OFr.some ?_) OFr.none
      refine Fr.step (State.onJobs_fr ..) rfl ?_
      refine Fr.step (Chunk.onJob_fr ..) rfl ?_
      rw [Chunk.charge_s, Chunk.mark_s]
      exact Fr.refl _ _

theorem Chunk.stripeEnd_fr (c : Chunk) (off : Nat) (ws : List Word) : OFr [.queues, .jobs, .render, .bytes, .log, .out] c.s (c.stripeEnd off ws) := by
  unfold Chunk.stripeEnd
  dsimp only
  split
  · exact OFr.none
  · refine OFr.ite (OFr.some ?_) OFr.none
    refine Fr.step (Chunk.onStripe_fr ..) rfl ?_
    rw [Chunk.charge_s]
    exact Fr.refl _ _

theorem Chunk.doseTable_fr (c : Chunk) (ws : List Word) : OFr [.queues, .jobs, .render, .bytes, .log, .out] c.s (c.doseTable ws) := by
  unfold Chunk.doseTable
  refine OFr.ite (OFr.some ((c.onJob_fr _).mono rfl)) OFr.none

theorem Chunk.lrcParams_fr (c : Chunk) (ws : List Word) : OFr [.queues, .jobs, .render, .bytes, .log, .out] c.s (c.lrcParams ws) := by
  unfold Chunk.lrcParams
  refine OFr.ite (OFr.some ((c.onJob_fr _).mono rfl)) OFr.none

theorem Chunk.fogMap_fr (c : Chunk) (off : Nat) (ws : List Word) : OFr [.queues, .jobs, .render, .bytes, .log, .out] c.s (c.fogMap off ws) := by
  unfold Chunk.fogMap
  dsimp only
  split
  · exact OFr.none
  · refine OFr.ite (OFr.some ?_) OFr.none
    refine Fr.step (State.onJobs_fr ..) rfl ?_
    refine Fr.step (State.onJob_fr ..) rfl ?_
    rw [Chunk.charge_s, Chunk.mark_s, Chunk.mark_s]
    exact Fr.refl _ _

theorem Chunk.distMap_fr (c : Chunk) (off : Nat) (ws : List Word) : OFr [.queues, .jobs, .render, .bytes, .log, .out] c.s (c.distMap off ws) := by
  unfold Chunk.distMap
  dsimp only
  split
  · exact OFr.none
  · refine OFr.ite (OFr.some ?_) OFr.none
    refine Fr.step (State.onJobs_fr ..) rfl ?_
    refine Fr.step (State.onJob_fr ..) rfl ?_
    rw [Chunk.charge_s, Chunk.mark_s, Chunk.mark_s]
    exact Fr.refl _ _

theorem Chunk.library_fr (c : Chunk) (off nw : Nat) : Fr [.jobs] c.s (c.library off nw).s := by
  have h := (c.mark 10 off (decide (c.s.jobs.libUsed + 16 * nw ≤ cellStore))).onJob_fr fun j =>
    { j with libBytes := j.libBytes + 16 * nw }
  rw [Chunk.mark_s] at h
  exact h

theorem Chunk.put_fr (c : Chunk) (off nw : Nat) (g : Geom) : OFr [.queues, .jobs, .render, .bytes, .log, .out] c.s (c.put off nw g) := by
  unfold Chunk.put
  split
  · exact OFr.none
  · exact OFr.some ((c.library_fr off nw).mono rfl)
  · split
    · exact OFr.none
    · exact OFr.ite OFr.none (OFr.some ((c.keep_fr ..).mono rfl))

theorem Chunk.prim_fr (c : Chunk) (off type : Nat) (ws : List Word) : OFr [.queues, .jobs, .render, .bytes, .log, .out] c.s (c.prim off type ws) := by
  unfold Chunk.prim
  dsimp only
  split
  · exact OFr.none
  · refine OFr.ite ?_ OFr.none
    have h (ok : Bool) (nw : Nat) (g : Geom) := (c.mark 10 off ok).put_fr off nw g
    simp only [Chunk.mark_s] at h
    exact h _ _ _

theorem Chunk.useCell_fr (c : Chunk) (off : Nat) (array : Bool) (ws : List Word) :
    OFr [.queues, .jobs, .render, .bytes, .log, .out] c.s (c.useCell off array ws) := by
  have h (ok : Bool) (nw : Nat) (g : Geom) := (c.mark 10 off ok).put_fr off nw g
  simp only [Chunk.mark_s] at h
  unfold Chunk.useCell
  dsimp only
  split
  · split
    · exact OFr.none
    · exact OFr.ite (h _ _ _) OFr.none
  · exact OFr.none

theorem Chunk.cellBegin_fr (c : Chunk) (off : Nat) (ws : List Word) : OFr [.queues, .jobs, .render, .bytes, .log, .out] c.s (c.cellBegin off ws) := by
  unfold Chunk.cellBegin
  dsimp only
  split
  · exact OFr.none
  · rename_i j _
    refine OFr.ite (OFr.some ?_) OFr.none
    have h := (c.mark 10 off (decide (j.cells.length < 1048576))).library_fr off 2
    rw [Chunk.mark_s] at h
    exact h.mono rfl

theorem Chunk.cellEnd_fr (c : Chunk) (off : Nat) (ws : List Word) : OFr [.queues, .jobs, .render, .bytes, .log, .out] c.s (c.cellEnd off ws) := by
  unfold Chunk.cellEnd
  split
  · rename_i d j _ _
    refine OFr.ite (OFr.some ?_) OFr.none
    dsimp only
    refine Fr.step (Chunk.onJob_fr ..) rfl ?_
    generalize (d.items.all fun g => match g with
      | .prim p => p.curveOk
      | .use _ => true) = b
    have h := ((c.mark 9 off (d.boxOk j.cells)).mark 10 off b).library_fr off 1
    rw [Chunk.mark_s, Chunk.mark_s] at h
    exact h.mono rfl
  · exact OFr.none

theorem Chunk.rasterPanel_fr (c : Chunk) (off : Nat) (ws : List Word) : OFr [.queues, .jobs, .render, .bytes, .log, .out] c.s (c.rasterPanel off ws) := by
  unfold Chunk.rasterPanel
  dsimp only
  split
  · refine OFr.ite (OFr.some ?_) OFr.none
    refine Fr.step (Chunk.keep_fr ..) rfl ?_
    rw [Chunk.mark_s]
    exact Fr.refl _ _
  · exact OFr.none

theorem Chunk.witness_fr (c : Chunk) (off : Nat) (ws : List Word) : OFr [.queues, .jobs, .render, .bytes, .log, .out] c.s (c.witness off ws) := by
  unfold Chunk.witness
  dsimp only
  have h1 : Fr [.queues, .jobs, .render, .bytes, .log, .out] c.s (match c.ctx with
      | .stripe _ => c.keep off 144 id
      | _ => c).s := by
    split
    · exact (c.keep_fr ..).mono rfl
    · exact Fr.refl _ _
  split
  · exact OFr.none
  · refine OFr.ite OFr.none (OFr.ite (OFr.some (Fr.step (Chunk.onJob_fr ..) rfl h1)) ?_)
    split
    · exact OFr.some (Fr.step (Chunk.onJob_fr ..) rfl h1)
    · refine OFr.ite OFr.none ?_
      split
      · refine OFr.some ?_
        rw [Chunk.mark_s]
        exact h1
      · exact OFr.some (Fr.step (State.judgeWitness_fr ..) rfl (Fr.step (State.onStripe_fr ..) rfl h1))

theorem Chunk.jobEnd_fr (c : Chunk) (last : Bool) (ws : List Word) : OFr [.queues, .jobs, .render, .bytes, .log, .out] c.s (c.jobEnd last ws) := by
  unfold Chunk.jobEnd
  split
  · exact OFr.none
  · exact OFr.ite (OFr.some ((c.onJob_fr _).mono rfl)) OFr.none

theorem Chunk.record_fr (c : Chunk) (last : Bool) (seq off : Nat) (ws : List Word) :
    OFr [.queues, .jobs, .render, .bytes, .log, .out] c.s (c.record last seq off ws) := by
  unfold Chunk.record
  repeat' first
    | with_reducible apply OFr.none
    | with_reducible apply OFr.some (Fr.refl _ _)
    | with_reducible apply Chunk.jobHeader_fr
    | with_reducible apply Chunk.jobEnd_fr
    | with_reducible apply Chunk.stripeHeader_fr
    | with_reducible apply Chunk.stripeEnd_fr
    | with_reducible apply Chunk.doseTable_fr
    | with_reducible apply Chunk.lrcParams_fr
    | with_reducible apply Chunk.fogMap_fr
    | with_reducible apply Chunk.distMap_fr
    | with_reducible apply Chunk.prim_fr
    | with_reducible apply Chunk.cellBegin_fr
    | with_reducible apply Chunk.cellEnd_fr
    | with_reducible apply Chunk.useCell_fr
    | with_reducible apply Chunk.rasterPanel_fr
    | with_reducible apply Chunk.witness_fr
    | with_reducible apply OFr.ite

theorem Chunk.records_fr (n : Nat) (last : Bool) (seq off : Nat) (ws : List Word) (c d : Chunk)
    (h : Chunk.records n last seq off ws c = .inl d) : Fr [.queues, .jobs, .render, .bytes, .log, .out] c.s d.s := by
  induction n generalizing off ws c with
  | zero => cases h
  | succ n ih =>
    unfold Chunk.records at h
    split at h
    · split at h
      · cases h
      · cases h
        exact Fr.refl _ _
    · dsimp only at h
      split at h
      · cases h
      · split at h
        · cases h
        · rename_i c1 hc
          exact (Chunk.record_fr _ _ _ _ _ c1 hc).trans (ih _ _ _ h)

theorem Chunk.accept_fr (c : Chunk) (seq : Nat) (crc : BitVec 64) (next : Nat) :
    Fr [.queues, .jobs, .render, .bytes, .log, .out] c.s (c.accept seq crc next) := by
  unfold Chunk.accept
  repeat' first
    | with_reducible apply Fr.refl
    | (with_reducible apply Fr.step (State.onJobs_fr ..); decide)
    | (with_reducible apply Fr.step (State.onJob_fr ..); decide)
    | with_reducible apply Fr.ite
    | dsimp only

theorem State.parseSlot_fr (s : State) : Fr [.queues, .jobs, .render, .bytes, .log, .out] s s.parseSlot := by
  unfold State.parseSlot
  repeat' first
    | with_reducible apply Fr.refl
    | with_reducible assumption
    | (with_reducible apply Fr.step (State.onJobs_fr ..); decide)
    | (with_reducible apply Fr.step (State.stallAt_fr ..); decide)
    | with_reducible apply Fr.ite
    | dsimp only
    | (rename_i c1 hc _ _; exact Fr.trans (Chunk.records_fr _ _ _ _ _ _ _ hc) (c1.accept_fr ..))
    | split

theorem execParseSlot_fr (s : State) :
    FrA [.queues, .jobs, .render, .bytes, .log, .out] s (execParseSlot s) := by
  unfold execParseSlot
  repeat' first
    | intro _
    | with_reducible apply Fr.refl
    | with_reducible assumption
    | with_reducible apply FrA.next
    | (with_reducible apply Fr.step (State.parseSlot_fr ..); decide)
    | with_reducible apply FrA.ite
    | with_reducible apply Fr.ite
    | dsimp only
    | split

theorem execJobOpen_fr (src : Src) (job : BitVec 16) (target : BitVec 2) (dual : Bool) (s : State) :
    FrA [.queues, .mailboxes, .jobs, .dma, .out] s (execJobOpen src job target dual s) := by
  unfold execJobOpen
  repeat' first
    | intro _
    | with_reducible apply Fr.refl
    | with_reducible assumption
    | with_reducible apply FrA.next
    | (with_reducible apply State.command_fr; decide)
    | (with_reducible apply Fr.step (State.onJobs_fr ..); decide)
    | (with_reducible apply Fr.step (State.onAhead_fr ..); decide)
    | (with_reducible apply Fr.step (State.ok_fr ..); decide)
    | with_reducible apply FrA.ite
    | with_reducible apply Fr.ite
    | dsimp only
    | split

theorem execJobFeed_fr (src : Src) (job : BitVec 16) (wp : BitVec 32) (s : State) :
    FrA [.queues, .mailboxes, .jobs, .dma, .out] s (execJobFeed src job wp s) := by
  unfold execJobFeed
  repeat' first
    | intro _
    | with_reducible apply Fr.refl
    | with_reducible assumption
    | with_reducible apply FrA.next
    | (with_reducible apply State.command_fr; decide)
    | (with_reducible apply Fr.step (State.onAhead_fr ..); decide)
    | (with_reducible apply Fr.step (State.onJobs_fr ..); decide)
    | (with_reducible apply Fr.step (State.ok_fr ..); decide)
    | with_reducible apply FrA.ite
    | with_reducible apply Fr.ite
    | dsimp only
    | split

theorem execJobQuery_fr (src : Src) (job : BitVec 16) (s : State) :
    FrA [.queues, .mailboxes, .out] s (execJobQuery src job s) := by
  unfold execJobQuery
  repeat' first
    | intro _
    | with_reducible apply Fr.refl
    | with_reducible assumption
    | with_reducible apply FrA.next
    | (with_reducible apply State.command_fr; decide)
    | (with_reducible apply Fr.step (State.ok_fr ..); decide)
    | with_reducible apply FrA.ite
    | with_reducible apply Fr.ite
    | dsimp only
    | split

end Sys2Proof.Machine
end

