-- ==== Sys2Proof/Laws/Render.lean ====
section
/-!
SUPPORT. What each function and each meaning of Machine/Render.lean may change.
-/

namespace Sys2Proof.Machine

theorem State.enqueueAll_fr (s : State) (ts : List Tile) :
    Fr [.render] s (State.enqueueAll s ts) := by
  unfold State.enqueueAll
  repeat' first
    | intro _
    | with_reducible apply Fr.refl
    | with_reducible assumption
    | (with_reducible apply Fr.step (State.onRender_fr ..); decide)
    | (with_reducible apply Fr.foldl)
    | with_reducible apply Fr.ite
    | dsimp only
    | split

theorem State.queueLanding_fr (s : State) (id : StripeId) :
    Fr [.jobs, .render] s (State.queueLanding s id) := by
  unfold State.queueLanding
  repeat' first
    | intro _
    | with_reducible apply Fr.refl
    | with_reducible assumption
    | (with_reducible apply Fr.step (State.onStripe_fr ..); decide)
    | (with_reducible apply Fr.step (State.enqueueAll_fr ..); decide)
    | with_reducible apply Fr.ite
    | dsimp only
    | split

theorem State.withhold_fr (s : State) (id : StripeId) (k : Nat) :
    Fr [.queues, .jobs, .render, .out] s (State.withhold s id k) := by
  unfold State.withhold
  repeat' first
    | intro _
    | with_reducible apply Fr.refl
    | with_reducible assumption
    | (with_reducible apply Fr.step (State.onSeg_fr ..); decide)
    | (with_reducible apply Fr.step (State.onRender_fr ..); decide)
    | (with_reducible apply Fr.step (State.onStripe_fr ..); decide)
    | (with_reducible apply Fr.step (State.queueLanding_fr ..); decide)
    | (with_reducible apply Fr.step (State.landingDone_fr ..); decide)
    | with_reducible apply Fr.ite
    | dsimp only
    | split

theorem State.canopyStuck_fr (s : State) (id : StripeId) :
    Fr [.queues, .jobs, .render, .log, .out] s (State.canopyStuck s id) := by
  unfold State.canopyStuck
  repeat' first
    | intro _
    | with_reducible apply Fr.refl
    | with_reducible assumption
    | (with_reducible apply Fr.step (State.onStripe_fr ..); decide)
    | (with_reducible apply Fr.step (State.onRender_fr ..); decide)
    | (with_reducible apply Fr.step (State.faultSt_fr ..); decide)
    | with_reducible apply Fr.ite
    | dsimp only
    | split

theorem execCanopyPassStart_fr (id : StripeId) (s : State) :
    FrA [.queues, .jobs, .render, .log, .out] s (execCanopyPassStart id s) := by
  unfold execCanopyPassStart
  repeat' first
    | intro _
    | with_reducible apply Fr.refl
    | with_reducible assumption
    | with_reducible apply FrA.next
    | (with_reducible apply Fr.step (State.onStripe_fr ..); decide)
    | (with_reducible apply Fr.step (State.canopyStuck_fr ..); decide)
    | (with_reducible apply Fr.step (State.onRender_fr ..); decide)
    | with_reducible apply FrA.ite
    | with_reducible apply Fr.ite
    | dsimp only
    | split

theorem execCanopyPassComplete_fr (id : StripeId) (s : State) :
    FrA [.jobs, .render, .bytes] s (execCanopyPassComplete id s) := by
  unfold execCanopyPassComplete
  repeat' first
    | intro _
    | with_reducible apply Fr.refl
    | with_reducible assumption
    | with_reducible apply FrA.next
    | (with_reducible apply Fr.step (State.onStripe_fr ..); decide)
    | (with_reducible apply Fr.step (State.writeMap_fr ..); decide)
    | (with_reducible apply Fr.step (State.onRender_fr ..); decide)
    | with_reducible apply FrA.ite
    | with_reducible apply Fr.ite
    | dsimp only
    | split

theorem execCanopyFault_fr (s : State) :
    FrA [.queues, .jobs, .render, .repair, .log, .out] s (execCanopyFault s) := by
  unfold execCanopyFault
  repeat' first
    | intro _
    | with_reducible apply Fr.refl
    | with_reducible assumption
    | with_reducible apply FrA.next
    | (with_reducible apply Fr.step (State.onStripe_fr ..); decide)
    | (with_reducible apply Fr.step (State.canopyStuck_fr ..); decide)
    | (with_reducible apply Fr.step (State.unitFault_fr ..); decide)
    | with_reducible apply FrA.ite
    | with_reducible apply Fr.ite
    | dsimp only
    | split

theorem execCheckPassStart_fr (id : StripeId) (s : State) :
    FrA [.jobs, .render] s (execCheckPassStart id s) := by
  unfold execCheckPassStart
  repeat' first
    | intro _
    | with_reducible apply Fr.refl
    | with_reducible assumption
    | with_reducible apply FrA.next
    | (with_reducible apply Fr.step (State.onStripe_fr ..); decide)
    | (with_reducible apply Fr.step (State.enqueueAll_fr ..); decide)
    | with_reducible apply FrA.ite
    | with_reducible apply Fr.ite
    | dsimp only
    | split

theorem State.pausePass_fr (s : State) (x : Stripe) (check : Bool) (r : RasterPanel) :
    Fr [.queues, .jobs, .log, .out] s (State.pausePass s x check r) := by
  unfold State.pausePass
  repeat' first
    | intro _
    | with_reducible apply Fr.refl
    | with_reducible assumption
    | (with_reducible apply Fr.step (State.onStripe_fr ..); decide)
    | (with_reducible apply Fr.step (State.faultSt_fr ..); decide)
    | with_reducible apply Fr.ite
    | dsimp only
    | split

theorem execCheckPassComplete_fr (id : StripeId) (s : State) :
    FrA [.queues, .jobs, .render, .land, .bytes, .log, .out] s (execCheckPassComplete id s) := by
  unfold execCheckPassComplete
  repeat' first
    | intro _
    | with_reducible apply Fr.refl
    | with_reducible assumption
    | with_reducible apply FrA.next
    | (with_reducible apply Fr.step (State.pausePass_fr ..); decide)
    | (with_reducible apply Fr.step (State.mapLost_fr ..); decide)
    | (with_reducible apply Fr.step (State.onStripe_fr ..); decide)
    | (with_reducible apply Fr.step (State.writeCaps_fr ..); decide)
    | (with_reducible apply Fr.step (State.raiseSt_fr ..); decide)
    | (with_reducible apply Fr.step (State.refuse_fr ..); decide)
    | with_reducible apply FrA.ite
    | with_reducible apply Fr.ite
    | dsimp only
    | split

theorem State.preempt_fr (s : State) (decode : Bool) (lanes : List Nat) :
    Fr [.queues, .mailboxes, .waiting, .render, .out] s (State.preempt s decode lanes) := by
  unfold State.preempt
  repeat' first
    | intro _
    | with_reducible apply Fr.refl
    | with_reducible assumption
    | (with_reducible apply Fr.step (State.unwait_fr ..); decide)
    | (with_reducible apply Fr.step (State.respond_fr ..); decide)
    | (with_reducible apply Fr.step (State.onRender_fr ..); decide)
    | (with_reducible apply Fr.foldl)
    | with_reducible apply Fr.ite
    | dsimp only
    | split

theorem execLandingPassStart_fr (id : StripeId) (s : State) :
    FrA [.queues, .mailboxes, .waiting, .jobs, .render, .repair, .out] s (execLandingPassStart id s) := by
  unfold execLandingPassStart
  repeat' first
    | intro _
    | with_reducible apply Fr.refl
    | with_reducible assumption
    | with_reducible apply FrA.next
    | (with_reducible apply Fr.step (State.spareRegion_fr ..); decide)
    | (with_reducible apply Fr.step (State.preempt_fr ..); decide)
    | (with_reducible apply Fr.step (State.onRender_fr ..); decide)
    | (with_reducible apply Fr.step (State.onStripe_fr ..); decide)
    | (with_reducible apply Fr.step (State.queueLanding_fr ..); decide)
    | with_reducible apply FrA.ite
    | with_reducible apply Fr.ite
    | dsimp only
    | split

theorem State.setEngine_fr (s : State) (e : Nat) (t : Option Tile) :
    Fr [.render] s (State.setEngine s e t) := by
  unfold State.setEngine
  repeat' first
    | intro _
    | with_reducible apply Fr.refl
    | with_reducible assumption
    | (with_reducible apply Fr.step (State.onRender_fr ..); decide)
    | with_reducible apply Fr.ite
    | dsimp only
    | split

theorem execTileDispatch_fr (e : BitVec 6) (s : State) :
    FrA [.queues, .jobs, .render, .log, .out] s (execTileDispatch e s) := by
  unfold execTileDispatch
  repeat' first
    | intro _
    | with_reducible apply Fr.refl
    | with_reducible assumption
    | with_reducible apply FrA.next
    | (with_reducible apply Fr.step (State.pausePass_fr ..); decide)
    | (with_reducible apply Fr.step (State.onRender_fr ..); decide)
    | (with_reducible apply Fr.step (State.setEngine_fr ..); decide)
    | with_reducible apply FrA.ite
    | with_reducible apply Fr.ite
    | dsimp only
    | split

theorem State.quarantineEngine_fr (s : State) (e : Nat) :
    Fr [.queues, .render, .repair, .log, .out] s (State.quarantineEngine s e) := by
  unfold State.quarantineEngine
  repeat' first
    | intro _
    | with_reducible apply Fr.refl
    | with_reducible assumption
    | (with_reducible apply Fr.step (State.setEngine_fr ..); decide)
    | (with_reducible apply Fr.step (State.enqueueAll_fr ..); decide)
    | (with_reducible apply Fr.step (State.quarantineWith_fr ..); decide)
    | with_reducible apply Fr.ite
    | dsimp only
    | split

theorem State.unresolved_fr (s : State) (x : Stripe) (t : Tile) (e3 : Nat) :
    Fr [.queues, .jobs, .render, .log, .out] s (State.unresolved s x t e3) := by
  unfold State.unresolved
  repeat' first
    | intro _
    | with_reducible apply Fr.refl
    | with_reducible assumption
    | (with_reducible apply Fr.step (State.faultSt_fr ..); decide)
    | (with_reducible apply Fr.step (State.withhold_fr ..); decide)
    | with_reducible apply Fr.ite
    | dsimp only
    | split

theorem State.rejudge_fr (s : State) (x : Stripe) (k : Nat) :
    Fr [.jobs, .bytes] s (State.rejudge s x k).1 := by
  unfold State.rejudge
  repeat' first
    | intro _
    | with_reducible apply Fr.refl
    | with_reducible assumption
    | (with_reducible apply Fr.step (State.onStripe_fr ..); decide)
    | (with_reducible apply Fr.step (State.writeCap_fr ..); decide)
    | with_reducible apply Fr.ite
    | dsimp only
    | split

theorem State.thirdRun_fr (s : State) (x : Stripe) (t : Tile) (e : Nat) (val : BitVec 64) :
    Fr [.queues, .jobs, .render, .bytes, .repair, .log, .out] s (State.thirdRun s x t e val) := by
  unfold State.thirdRun
  repeat' first
    | intro _
    | with_reducible apply Fr.refl
    | with_reducible assumption
    | (with_reducible apply Fr.step (State.onStripe_fr ..); decide)
    | (with_reducible apply Fr.step (State.quarantineEngine_fr ..); decide)
    | (with_reducible apply Fr.step (State.faultSt_fr ..); decide)
    | (with_reducible apply Fr.step (State.rejudge_fr ..); decide)
    | (with_reducible apply Fr.step (State.unresolved_fr ..); decide)
    | with_reducible apply Fr.ite
    | dsimp only
    | split

theorem State.tileDone_fr (s : State) (e : Nat) (t : Tile) (observed : Option (BitVec 64)) :
    Fr [.queues, .jobs, .render, .bytes, .repair, .log, .out] s (State.tileDone s e t observed) := by
  unfold State.tileDone
  repeat' first
    | intro _
    | with_reducible apply Fr.refl
    | with_reducible assumption
    | (with_reducible apply Fr.step (State.setEngine_fr ..); decide)
    | (with_reducible apply Fr.step (State.onStripe_fr ..); decide)
    | (with_reducible apply Fr.step (State.thirdRun_fr ..); decide)
    | (with_reducible apply Fr.step (State.enqueueAll_fr ..); decide)
    | with_reducible apply Fr.ite
    | dsimp only
    | split

theorem execTileComplete_fr (e : BitVec 6) (observed : Option (BitVec 64)) (s : State) :
    FrA [.queues, .jobs, .render, .bytes, .repair, .log, .out] s (execTileComplete e observed s) := by
  unfold execTileComplete
  repeat' first
    | intro _
    | with_reducible apply Fr.refl
    | with_reducible assumption
    | with_reducible apply FrA.next
    | (with_reducible apply Fr.step (State.tileDone_fr ..); decide)
    | (with_reducible apply Fr.step (State.queueLanding_fr ..); decide)
    | with_reducible apply FrA.ite
    | with_reducible apply Fr.ite
    | dsimp only
    | split

theorem execTileWatchdogExpiry_fr (e : BitVec 6) (s : State) :
    FrA [.queues, .render, .repair, .log, .out] s (execTileWatchdogExpiry e s) := by
  unfold execTileWatchdogExpiry
  repeat' first
    | intro _
    | with_reducible apply Fr.refl
    | with_reducible assumption
    | with_reducible apply FrA.next
    | (with_reducible apply Fr.step (State.quarantineEngine_fr ..); decide)
    | with_reducible apply FrA.ite
    | with_reducible apply Fr.ite
    | dsimp only
    | split

theorem execEngineParityError_fr (e : BitVec 6) (s : State) :
    FrA [.queues, .render, .repair, .log, .out] s (execEngineParityError e s) := by
  unfold execEngineParityError
  repeat' first
    | intro _
    | with_reducible apply Fr.refl
    | with_reducible assumption
    | with_reducible apply FrA.next
    | (with_reducible apply Fr.step (State.quarantineEngine_fr ..); decide)
    | with_reducible apply FrA.ite
    | with_reducible apply Fr.ite
    | dsimp only
    | split

theorem State.onPanel_fr (s : State) (id : StripeId) (k p : Nat) (f : Panel → Panel) :
    Fr [.jobs] s (State.onPanel s id k p f) := by
  unfold State.onPanel
  repeat' first
    | intro _
    | with_reducible apply Fr.refl
    | with_reducible assumption
    | (with_reducible apply Fr.step (State.onSeg_fr ..); decide)
    | with_reducible apply Fr.ite
    | dsimp only
    | split

theorem State.setEnc_fr (s : State) (lane : Nat) (w : Option LaneWork) :
    Fr [.render] s (State.setEnc s lane w) := by
  unfold State.setEnc
  repeat' first
    | intro _
    | with_reducible apply Fr.refl
    | with_reducible assumption
    | (with_reducible apply Fr.step (State.onRender_fr ..); decide)
    | with_reducible apply Fr.ite
    | dsimp only
    | split

theorem State.rebind_fr (s : State) (p lane : Nat) :
    Fr [.render] s (State.rebind s p lane) := by
  unfold State.rebind
  repeat' first
    | intro _
    | with_reducible apply Fr.refl
    | with_reducible assumption
    | (with_reducible apply Fr.step (State.onRender_fr ..); decide)
    | with_reducible apply Fr.ite
    | dsimp only
    | split

theorem execPanelEncodeStart_fr (lane : BitVec 5) (id : StripeId) (seg : BitVec 16) (panel : BitVec 4) (extA extB recs : List (BitVec 48)) (s : State) :
    FrA [.queues, .jobs, .render, .log, .out] s (execPanelEncodeStart lane id seg panel extA extB recs s) := by
  unfold execPanelEncodeStart
  repeat' first
    | intro _
    | with_reducible apply Fr.refl
    | with_reducible assumption
    | with_reducible apply FrA.next
    | (with_reducible apply Fr.step (State.pausePass_fr ..); decide)
    | (with_reducible apply Fr.step (State.mapLost_fr ..); decide)
    | (with_reducible apply Fr.step (State.onSeg_fr ..); decide)
    | (with_reducible apply Fr.step (State.onPanel_fr ..); decide)
    | (with_reducible apply Fr.step (State.setEnc_fr ..); decide)
    | (with_reducible apply Fr.step (State.rebind_fr ..); decide)
    | (with_reducible apply Fr.step (State.queueLanding_fr ..); decide)
    | with_reducible apply FrA.ite
    | with_reducible apply Fr.ite
    | dsimp only
    | split

theorem State.writeImages_fr (s : State) (xs : List (Nat × List Word)) :
    Fr [.bytes] s (State.writeImages s xs) := by
  induction xs generalizing s with
  | nil => exact Fr.refl _ _
  | cons x xs ih =>
    unfold State.writeImages
    repeat' first
        | intro _
        | with_reducible apply Fr.refl
        | with_reducible assumption
        | with_reducible apply fun h => Fr.trans h (ih _)
        | (with_reducible apply Fr.step (State.write_fr ..); decide)
        | with_reducible apply Fr.ite
        | dsimp only
        | split

theorem State.writeStates_fr (s : State) (id : StripeId) (k : Nat) :
    Fr [.jobs, .bytes] s (State.writeStates s id k) := by
  unfold State.writeStates
  repeat' first
    | intro _
    | with_reducible apply Fr.refl
    | with_reducible assumption
    | (with_reducible apply Fr.step (State.write_fr ..); decide)
    | (with_reducible apply Fr.step (State.onSeg_fr ..); decide)
    | with_reducible apply Fr.ite
    | dsimp only
    | split

theorem State.encodePanel_fr (s : State) (x : Stripe) (w : LaneWork) :
    Fr [.jobs, .bytes] s (State.encodePanel s x w) := by
  unfold State.encodePanel
  repeat' first
    | intro _
    | with_reducible apply Fr.refl
    | with_reducible assumption
    | (with_reducible apply Fr.step (State.writeImages_fr ..); decide)
    | (with_reducible apply Fr.step (State.onSeg_fr ..); decide)
    | (with_reducible apply Fr.step (State.onStripe_fr ..); decide)
    | (with_reducible apply Fr.step (State.writeStates_fr ..); decide)
    | with_reducible apply Fr.ite
    | dsimp only
    | split

theorem State.settleDrain_fr (s : State) (decode : Bool) (lane : Nat) :
    Fr [.queues, .render, .repair, .log, .out] s (State.settleDrain s decode lane) := by
  unfold State.settleDrain
  repeat' first
    | intro _
    | with_reducible apply Fr.refl
    | with_reducible assumption
    | (with_reducible apply Fr.step (State.onRender_fr ..); decide)
    | (with_reducible apply Fr.step (State.quarantine_fr ..); decide)
    | with_reducible apply Fr.ite
    | dsimp only
    | split

theorem State.finishPanel_fr (s : State) (x : Stripe) (w : LaneWork) :
    Fr [.jobs, .bytes] s (State.finishPanel s x w) := by
  unfold State.finishPanel
  repeat' first
    | intro _
    | with_reducible apply Fr.refl
    | with_reducible assumption
    | (with_reducible apply Fr.step (State.encodePanel_fr ..); decide)
    | (with_reducible apply Fr.step (State.onPanel_fr ..); decide)
    | (with_reducible apply Fr.step (State.mapLost_fr ..); decide)
    | with_reducible apply Fr.ite
    | dsimp only
    | split

theorem execPanelEncodeComplete_fr (lane : BitVec 5) (s : State) :
    FrA [.queues, .jobs, .render, .bytes, .repair, .log, .out] s (execPanelEncodeComplete lane s) := by
  unfold execPanelEncodeComplete
  repeat' first
    | intro _
    | with_reducible apply Fr.refl
    | with_reducible assumption
    | with_reducible apply FrA.next
    | (with_reducible apply Fr.step (State.setEnc_fr ..); decide)
    | (with_reducible apply Fr.step (State.settleDrain_fr ..); decide)
    | (with_reducible apply Fr.step (State.finishPanel_fr ..); decide)
    | (with_reducible apply Fr.step (State.queueLanding_fr ..); decide)
    | with_reducible apply FrA.ite
    | with_reducible apply Fr.ite
    | dsimp only
    | split

theorem State.discardPanel_fr (s : State) (lane : Nat) (mism : Nat) :
    Fr [.jobs, .render] s (State.discardPanel s lane mism) := by
  unfold State.discardPanel
  repeat' first
    | intro _
    | with_reducible apply Fr.refl
    | with_reducible assumption
    | (with_reducible apply Fr.step (State.setEnc_fr ..); decide)
    | (with_reducible apply Fr.step (State.onPanel_fr ..); decide)
    | with_reducible apply Fr.ite
    | dsimp only
    | split

theorem State.failService_fr (s : State) (decode : Bool) (lane : Nat) (st : BitVec 16) :
    Fr [.queues, .mailboxes, .waiting, .render, .out] s (State.failService s decode lane st) := by
  unfold State.failService
  repeat' first
    | intro _
    | with_reducible apply Fr.refl
    | with_reducible assumption
    | (with_reducible apply Fr.step (State.onRender_fr ..); decide)
    | (with_reducible apply Fr.step (State.unwait_fr ..); decide)
    | (with_reducible apply Fr.step (State.respond_fr ..); decide)
    | with_reducible apply Fr.ite
    | dsimp only
    | split

theorem execEncodeMismatch_fr (lane : BitVec 5) (s : State) :
    FrA [.queues, .mailboxes, .waiting, .jobs, .render, .repair, .log, .out] s (execEncodeMismatch lane s) := by
  unfold execEncodeMismatch
  repeat' first
    | intro _
    | with_reducible apply Fr.refl
    | with_reducible assumption
    | with_reducible apply FrA.next
    | (with_reducible apply Fr.step (State.discardPanel_fr ..); decide)
    | (with_reducible apply Fr.step (State.failService_fr ..); decide)
    | (with_reducible apply Fr.step (State.quarantine_fr ..); decide)
    | (with_reducible apply Fr.step (State.faultSt_fr ..); decide)
    | (with_reducible apply Fr.step (State.withhold_fr ..); decide)
    | with_reducible apply FrA.ite
    | with_reducible apply Fr.ite
    | dsimp only
    | split

theorem State.graderWithhold_fr (s : State) (id : StripeId) (k p : Nat) :
    Fr [.queues, .jobs, .render, .log, .out] s (State.graderWithhold s id k p) := by
  unfold State.graderWithhold
  repeat' first
    | intro _
    | with_reducible apply Fr.refl
    | with_reducible assumption
    | (with_reducible apply Fr.step (State.faultSt_fr ..); decide)
    | (with_reducible apply Fr.step (State.withhold_fr ..); decide)
    | with_reducible apply Fr.ite
    | dsimp only
    | split

theorem execGraderMismatch_fr (id : StripeId) (seg : BitVec 16) (panel : BitVec 4) (s : State) :
    FrA [.queues, .jobs, .render, .repair, .log, .out] s (execGraderMismatch id seg panel s) := by
  unfold execGraderMismatch
  repeat' first
    | intro _
    | with_reducible apply Fr.refl
    | with_reducible assumption
    | with_reducible apply FrA.next
    | (with_reducible apply Fr.step (State.onPanel_fr ..); decide)
    | (with_reducible apply Fr.step (State.unitFault_fr ..); decide)
    | (with_reducible apply Fr.step (State.graderWithhold_fr ..); decide)
    | (with_reducible apply Fr.step (State.onSeg_fr ..); decide)
    | with_reducible apply FrA.ite
    | with_reducible apply Fr.ite
    | dsimp only
    | split

theorem State.blankLane_fr (s : State) (r : Run) (x : Stripe) (lane : Nat) :
    Fr [.play] s (State.blankLane s r x lane) := by
  unfold State.blankLane
  repeat' first
    | intro _
    | with_reducible apply Fr.refl
    | with_reducible assumption
    | (with_reducible apply Fr.step (State.onPlay_fr ..); decide)
    | with_reducible apply Fr.ite
    | dsimp only
    | split

theorem State.stopForLane_fr (s : State) (lane : Nat) :
    Fr [.queues, .jobs, .render, .land, .play, .log, .out] s (State.stopForLane s lane) := by
  unfold State.stopForLane
  repeat' first
    | intro _
    | with_reducible apply Fr.refl
    | with_reducible assumption
    | (with_reducible apply Fr.step (State.blankLane_fr ..); decide)
    | (with_reducible apply Fr.step (State.stopCause_fr ..); decide)
    | with_reducible apply Fr.ite
    | dsimp only
    | split

theorem State.setDec_fr (s : State) (lane : Nat) (w : Option LaneWork) :
    Fr [.render] s (State.setDec s lane w) := by
  unfold State.setDec
  repeat' first
    | intro _
    | with_reducible apply Fr.refl
    | with_reducible assumption
    | (with_reducible apply Fr.step (State.onRender_fr ..); decide)
    | with_reducible apply Fr.ite
    | dsimp only
    | split

theorem State.callArb_fr (s : State) (x : Stripe) (k p : Nat) :
    Fr [.jobs, .render] s (State.callArb s x k p) := by
  unfold State.callArb
  repeat' first
    | intro _
    | with_reducible apply Fr.refl
    | with_reducible assumption
    | (with_reducible apply Fr.step (State.onPanel_fr ..); decide)
    | (with_reducible apply Fr.step (State.onRender_fr ..); decide)
    | with_reducible apply Fr.ite
    | dsimp only
    | split

theorem State.moveArbs_fr (s : State) (n : Nat) :
    Fr [.jobs, .render] s (State.moveArbs s n) := by
  unfold State.moveArbs
  repeat' first
    | intro _
    | with_reducible apply Fr.refl
    | with_reducible assumption
    | (with_reducible apply Fr.step (State.callArb_fr ..); decide)
    | (with_reducible apply Fr.step (State.onRender_fr ..); decide)
    | (with_reducible apply Fr.foldl)
    | with_reducible apply Fr.ite
    | dsimp only
    | split

theorem execDecodeLaneFault_fr (lane : BitVec 5) (s : State) :
    FrA [.queues, .mailboxes, .waiting, .jobs, .render, .land, .play, .repair, .log, .out] s (execDecodeLaneFault lane s) := by
  unfold execDecodeLaneFault
  repeat' first
    | intro _
    | with_reducible apply Fr.refl
    | with_reducible assumption
    | with_reducible apply FrA.next
    | (with_reducible apply Fr.step (State.stopForLane_fr ..); decide)
    | (with_reducible apply Fr.step (State.failService_fr ..); decide)
    | (with_reducible apply Fr.step (State.setDec_fr ..); decide)
    | (with_reducible apply Fr.step (State.quarantine_fr ..); decide)
    | (with_reducible apply Fr.step (State.moveArbs_fr ..); decide)
    | with_reducible apply FrA.ite
    | with_reducible apply Fr.ite
    | dsimp only
    | split

theorem execDecodeBufferResume_fr (lane : BitVec 5) (addr : BitVec 48) (space : BitVec 4) (len : BitVec 32) (s : State) :
    FrA [.render] s (execDecodeBufferResume lane addr space len s) := by
  unfold execDecodeBufferResume
  repeat' first
    | intro _
    | with_reducible apply Fr.refl
    | with_reducible assumption
    | with_reducible apply FrA.next
    | (with_reducible apply Fr.step (State.onRender_fr ..); decide)
    | with_reducible apply FrA.ite
    | with_reducible apply Fr.ite
    | dsimp only
    | split

theorem execCodecEncode_fr (src : Src) (desc : CodecDesc) (s : State) :
    FrA [.queues, .mailboxes, .waiting, .render, .out] s (execCodecEncode src desc s) := by
  unfold execCodecEncode
  repeat' first
    | intro _
    | with_reducible apply Fr.refl
    | with_reducible assumption
    | with_reducible apply FrA.next
    | (with_reducible apply State.command_fr; decide)
    | (with_reducible apply Fr.step (State.wait_fr ..); decide)
    | (with_reducible apply Fr.step (State.onRender_fr ..); decide)
    | with_reducible apply FrA.ite
    | with_reducible apply Fr.ite
    | dsimp only
    | split

theorem execCodecDecode_fr (src : Src) (desc : CodecDesc) (s : State) :
    FrA [.queues, .mailboxes, .waiting, .render, .out] s (execCodecDecode src desc s) := by
  unfold execCodecDecode
  repeat' first
    | intro _
    | with_reducible apply Fr.refl
    | with_reducible assumption
    | with_reducible apply FrA.next
    | (with_reducible apply State.command_fr; decide)
    | (with_reducible apply Fr.step (State.wait_fr ..); decide)
    | (with_reducible apply Fr.step (State.onRender_fr ..); decide)
    | with_reducible apply FrA.ite
    | with_reducible apply Fr.ite
    | dsimp only
    | split

theorem execServiceJobStart_fr (mb : BitVec 4) (lane : BitVec 5) (s : State) :
    FrA [.render] s (execServiceJobStart mb lane s) := by
  unfold execServiceJobStart
  repeat' first
    | intro _
    | with_reducible apply Fr.refl
    | with_reducible assumption
    | with_reducible apply FrA.next
    | (with_reducible apply Fr.step (State.onRender_fr ..); decide)
    | with_reducible apply FrA.ite
    | with_reducible apply Fr.ite
    | dsimp only
    | split

theorem State.writeOver_fr (s : State) (bs : List Byte) (xs : List (BitVec 48 × BitVec 4 × BitVec 32)) :
    Fr [.bytes] s (State.writeOver s bs xs) := by
  induction xs generalizing s bs with
  | nil => exact Fr.refl _ _
  | cons x xs ih =>
    unfold State.writeOver
    repeat' first
        | intro _
        | with_reducible apply Fr.refl
        | with_reducible assumption
        | with_reducible apply fun h => Fr.trans h (ih _ _)
        | (with_reducible apply Fr.step (State.write_fr ..); decide)
        | with_reducible apply Fr.ite
        | dsimp only
        | split

theorem execServiceJobComplete_fr (mb : BitVec 4) (mismatch : Bool) (s : State) :
    FrA [.queues, .mailboxes, .waiting, .render, .bytes, .repair, .log, .out] s (execServiceJobComplete mb mismatch s) := by
  unfold execServiceJobComplete
  repeat' first
    | intro _
    | with_reducible apply Fr.refl
    | with_reducible assumption
    | with_reducible apply FrA.next
    | (with_reducible apply Fr.step (State.failService_fr ..); decide)
    | (with_reducible apply Fr.step (State.quarantine_fr ..); decide)
    | (with_reducible apply Fr.step (State.settleDrain_fr ..); decide)
    | (with_reducible apply Fr.step (State.ok_fr ..); decide)
    | (with_reducible apply Fr.step (State.writeOver_fr ..); decide)
    | (with_reducible apply Fr.step (State.write_fr ..); decide)
    | (with_reducible apply Fr.step (State.onRender_fr ..); decide)
    | (with_reducible apply Fr.step (State.unwait_fr ..); decide)
    | with_reducible apply FrA.ite
    | with_reducible apply Fr.ite
    | dsimp only
    | split

theorem State.abortLane_fr (s : State) (decode : Bool) (n : Nat) :
    Fr [.queues, .mailboxes, .waiting, .jobs, .render, .land, .play, .repair, .log, .out] s (State.abortLane s decode n) := by
  unfold State.abortLane
  repeat' first
    | intro _
    | with_reducible apply Fr.refl
    | with_reducible assumption
    | (with_reducible apply Fr.step (State.failService_fr ..); decide)
    | (with_reducible apply Fr.step (State.stopForLane_fr ..); decide)
    | (with_reducible apply Fr.step (State.setDec_fr ..); decide)
    | (with_reducible apply Fr.step (State.quarantine_fr ..); decide)
    | (with_reducible apply Fr.step (State.moveArbs_fr ..); decide)
    | (with_reducible apply Fr.step (State.discardPanel_fr ..); decide)
    | with_reducible apply Fr.ite
    | dsimp only
    | split

theorem State.drainLane_fr (s : State) (src : Src) (decode : Bool) (n : Nat) (c : Instr) :
    Fr [.queues, .mailboxes, .waiting, .jobs, .render, .land, .play, .repair, .log, .out] s (State.drainLane s src decode n c) := by
  unfold State.drainLane
  repeat' first
    | intro _
    | with_reducible apply Fr.refl
    | with_reducible assumption
    | (with_reducible apply Fr.step (State.stopForLane_fr ..); decide)
    | (with_reducible apply Fr.step (State.quarantine_fr ..); decide)
    | (with_reducible apply Fr.step (State.ok_fr ..); decide)
    | (with_reducible apply Fr.step (State.onRender_fr ..); decide)
    | (with_reducible apply Fr.step (State.wait_fr ..); decide)
    | with_reducible apply Fr.ite
    | dsimp only
    | split

theorem execCodecDisable_fr (src : Src) (lane : BitVec 5) (decode abort : Bool) (s : State) :
    FrA [.queues, .mailboxes, .waiting, .jobs, .render, .land, .play, .repair, .log, .out] s (execCodecDisable src lane decode abort s) := by
  unfold execCodecDisable
  repeat' first
    | intro _
    | with_reducible apply Fr.refl
    | with_reducible assumption
    | with_reducible apply FrA.next
    | (with_reducible apply State.command_fr; decide)
    | (with_reducible apply Fr.step (State.abortLane_fr ..); decide)
    | (with_reducible apply Fr.step (State.ok_fr ..); decide)
    | (with_reducible apply Fr.step (State.drainLane_fr ..); decide)
    | with_reducible apply FrA.ite
    | with_reducible apply Fr.ite
    | dsimp only
    | split

end Sys2Proof.Machine
end

