-- ==== Sys2Proof/Laws/Landing.lean ====
section
/-!
SUPPORT. What each function and each meaning of Machine/Landing.lean may change.
-/

namespace Sys2Proof.Machine

theorem State.unverifiable_fr (s : State) (id : StripeId) (k panel cause : Nat) :
    Fr [.queues, .jobs, .render, .land, .play, .log, .out] s (State.unverifiable s id k panel cause) := by
  unfold State.unverifiable
  repeat' first
    | intro _
    | with_reducible apply Fr.refl
    | with_reducible assumption
    | (with_reducible apply Fr.step (State.onLand_fr ..); decide)
    | (with_reducible apply Fr.step (State.stopCause_fr ..); decide)
    | (with_reducible apply Fr.step (State.freeSlot_fr ..); decide)
    | (with_reducible apply Fr.step (State.dropArbs_fr ..); decide)
    | (with_reducible apply Fr.step (State.onSeg_fr ..); decide)
    | (with_reducible apply Fr.step (State.faultSt_fr ..); decide)
    | (with_reducible apply Fr.step (State.landingDone_fr ..); decide)
    | (with_reducible apply Fr.step (State.dueUnverifiable_fr ..); decide)
    | with_reducible apply Fr.ite
    | dsimp only
    | split

theorem execSegmentLanded_fr (id : StripeId) (seg : BitVec 16) (s : State) :
    FrA [.jobs, .bytes] s (execSegmentLanded id seg s) := by
  unfold execSegmentLanded
  repeat' first
    | intro _
    | with_reducible apply Fr.refl
    | with_reducible assumption
    | with_reducible apply FrA.next
    | (with_reducible apply Fr.step (State.onSeg_fr ..); decide)
    | (with_reducible apply Fr.step (State.writeLanding_fr ..); decide)
    | with_reducible apply FrA.ite
    | with_reducible apply Fr.ite
    | dsimp only
    | split

theorem State.endArb_fr (s : State) (id : StripeId) (k p : Nat) :
    Fr [.jobs, .render] s (State.endArb s id k p) := by
  unfold State.endArb
  repeat' first
    | intro _
    | with_reducible apply Fr.refl
    | with_reducible assumption
    | (with_reducible apply Fr.step (State.onRender_fr ..); decide)
    | (with_reducible apply Fr.step (State.onPanel_fr ..); decide)
    | with_reducible apply Fr.ite
    | dsimp only
    | split

theorem State.callRewrite_fr (s : State) (id : StripeId) (k p : Nat) (c : Stack) :
    Fr [.jobs, .render] s (State.callRewrite s id k p c) := by
  unfold State.callRewrite
  repeat' first
    | intro _
    | with_reducible apply Fr.refl
    | with_reducible assumption
    | (with_reducible apply Fr.step (State.endArb_fr ..); decide)
    | (with_reducible apply Fr.step (State.onPanel_fr ..); decide)
    | with_reducible apply Fr.ite
    | dsimp only
    | split

theorem execSealReadbackComplete_fr (id : StripeId) (seg badA badB : BitVec 16) (s : State) :
    FrA [.queues, .jobs, .render, .land, .bytes, .play, .log, .out] s (execSealReadbackComplete id seg badA badB s) := by
  unfold execSealReadbackComplete
  repeat' first
    | intro _
    | with_reducible apply Fr.refl
    | with_reducible assumption
    | with_reducible apply FrA.next
    | (with_reducible apply Fr.step (State.unverifiable_fr ..); decide)
    | (with_reducible apply Fr.step (State.callRewrite_fr ..); decide)
    | (with_reducible apply Fr.step (State.seal_fr ..); decide)
    | (with_reducible apply Fr.step (State.writeLanding_fr ..); decide)
    | (with_reducible apply Fr.foldl)
    | with_reducible apply FrA.ite
    | with_reducible apply Fr.ite
    | dsimp only
    | split

theorem execSignatureTableParity_fr (id : StripeId) (seg : BitVec 16) (badA badB : Bool) (s : State) :
    FrA [.queues, .jobs, .render, .land, .play, .repair, .log, .out] s (execSignatureTableParity id seg badA badB s) := by
  unfold execSignatureTableParity
  repeat' first
    | intro _
    | with_reducible apply Fr.refl
    | with_reducible assumption
    | with_reducible apply FrA.next
    | (with_reducible apply Fr.step (State.onLand_fr ..); decide)
    | (with_reducible apply Fr.step (State.quarantine_fr ..); decide)
    | (with_reducible apply Fr.step (State.unverifiable_fr ..); decide)
    | (with_reducible apply Fr.step (State.onSeg_fr ..); decide)
    | with_reducible apply FrA.ite
    | with_reducible apply Fr.ite
    | dsimp only
    | split

theorem State.bindDecode_fr (s : State) (x : Stripe) (k : Nat) :
    Fr [.render] s (State.bindDecode s x k) := by
  unfold State.bindDecode
  repeat' first
    | intro _
    | with_reducible apply Fr.refl
    | with_reducible assumption
    | (with_reducible apply Fr.step (State.onRender_fr ..); decide)
    | with_reducible apply Fr.ite
    | dsimp only
    | split

theorem execPreparationStart_fr (id : StripeId) (seg : BitVec 16) (slot : BitVec 2) (s : State) :
    FrA [.jobs, .render, .land] s (execPreparationStart id seg slot s) := by
  unfold execPreparationStart
  repeat' first
    | intro _
    | with_reducible apply Fr.refl
    | with_reducible assumption
    | with_reducible apply FrA.next
    | (with_reducible apply Fr.step (State.onLand_fr ..); decide)
    | (with_reducible apply Fr.step (State.onSeg_fr ..); decide)
    | (with_reducible apply Fr.step (State.onStripe_fr ..); decide)
    | (with_reducible apply Fr.step (State.bindDecode_fr ..); decide)
    | with_reducible apply FrA.ite
    | with_reducible apply Fr.ite
    | dsimp only
    | split

theorem State.releaseDecode_fr (s : State) (id : StripeId) (k : Nat) :
    Fr [.queues, .render, .repair, .log, .out] s (State.releaseDecode s id k) := by
  unfold State.releaseDecode
  repeat' first
    | intro _
    | with_reducible apply Fr.refl
    | with_reducible assumption
    | (with_reducible apply Fr.step (State.setDec_fr ..); decide)
    | (with_reducible apply Fr.step (State.settleDrain_fr ..); decide)
    | (with_reducible apply Fr.foldl)
    | with_reducible apply Fr.ite
    | dsimp only
    | split

theorem State.prepDone_fr (s : State) (id : StripeId) (k : Nat) :
    Fr [.jobs, .land, .bytes] s (State.prepDone s id k) := by
  unfold State.prepDone
  repeat' first
    | intro _
    | with_reducible apply Fr.refl
    | with_reducible assumption
    | (with_reducible apply Fr.step (State.fillSlot_fr ..); decide)
    | (with_reducible apply Fr.step (State.onLand_fr ..); decide)
    | (with_reducible apply Fr.step (State.onSeg_fr ..); decide)
    | with_reducible apply Fr.ite
    | dsimp only
    | split

theorem State.decodeFault_fr (s : State) (x : Stripe) (k p : Nat) :
    Fr [.queues, .log, .out] s (State.decodeFault s x k p) := by
  unfold State.decodeFault
  repeat' first
    | intro _
    | with_reducible apply Fr.refl
    | with_reducible assumption
    | (with_reducible apply Fr.step (State.faultSt_fr ..); decide)
    | with_reducible apply Fr.ite
    | dsimp only
    | split

theorem execSegmentReady_fr (id : StripeId) (seg badRead : BitVec 16) (s : State) :
    FrA [.queues, .jobs, .render, .land, .bytes, .repair, .log, .out] s (execSegmentReady id seg badRead s) := by
  unfold execSegmentReady
  repeat' first
    | intro _
    | with_reducible apply Fr.refl
    | with_reducible assumption
    | with_reducible apply FrA.next
    | (with_reducible apply Fr.step (State.decodeFault_fr ..); decide)
    | (with_reducible apply Fr.step (State.callArb_fr ..); decide)
    | (with_reducible apply Fr.step (State.releaseDecode_fr ..); decide)
    | (with_reducible apply Fr.step (State.prepDone_fr ..); decide)
    | (with_reducible apply Fr.foldl)
    | with_reducible apply FrA.ite
    | with_reducible apply Fr.ite
    | dsimp only
    | split

theorem execArbitrationComplete_fr (id : StripeId) (seg : BitVec 16) (panel : BitVec 4) (badA badB : Bool) (s : State) :
    FrA [.queues, .jobs, .render, .land, .bytes, .play, .repair, .log, .out] s (execArbitrationComplete id seg panel badA badB s) := by
  unfold execArbitrationComplete
  repeat' first
    | intro _
    | with_reducible apply Fr.refl
    | with_reducible assumption
    | with_reducible apply FrA.next
    | (with_reducible apply Fr.step (State.prepDone_fr ..); decide)
    | (with_reducible apply Fr.step (State.settleDrain_fr ..); decide)
    | (with_reducible apply Fr.step (State.endArb_fr ..); decide)
    | (with_reducible apply Fr.step (State.onLand_fr ..); decide)
    | (with_reducible apply Fr.step (State.unverifiable_fr ..); decide)
    | (with_reducible apply Fr.step (State.callRewrite_fr ..); decide)
    | with_reducible apply FrA.ite
    | with_reducible apply Fr.ite
    | dsimp only
    | split

theorem State.moveOld_fr (s : State) (id : StripeId) (k p : Nat) (c : Stack) (es : List Nat) :
    Fr [.jobs, .land, .bytes] s (State.moveOld s id k p c es) := by
  unfold State.moveOld
  repeat' first
    | intro _
    | with_reducible apply Fr.refl
    | with_reducible assumption
    | (with_reducible apply Fr.step (State.writeImages_fr ..); decide)
    | (with_reducible apply Fr.step (State.onSeg_fr ..); decide)
    | (with_reducible apply Fr.step (State.onLand_fr ..); decide)
    | with_reducible apply Fr.ite
    | dsimp only
    | split

theorem execCopyRewriteComplete_fr (id : StripeId) (seg : BitVec 16) (panel : BitVec 4) (copy : Stack) (exts : List (BitVec 48)) (ok : Bool) (s : State) :
    FrA [.queues, .jobs, .land, .bytes, .log, .out] s (execCopyRewriteComplete id seg panel copy exts ok s) := by
  unfold execCopyRewriteComplete
  repeat' first
    | intro _
    | with_reducible apply Fr.refl
    | with_reducible assumption
    | with_reducible apply FrA.next
    | (with_reducible apply Fr.step (State.moveOld_fr ..); decide)
    | (with_reducible apply Fr.step (State.write_fr ..); decide)
    | (with_reducible apply Fr.step (State.writeImages_fr ..); decide)
    | (with_reducible apply Fr.step (State.onSeg_fr ..); decide)
    | (with_reducible apply Fr.step (State.onLand_fr ..); decide)
    | (with_reducible apply Fr.step (State.writeLanding_fr ..); decide)
    | (with_reducible apply Fr.step (State.faultSt_fr ..); decide)
    | with_reducible apply FrA.ite
    | with_reducible apply Fr.ite
    | dsimp only
    | split

theorem execExtentPatternTest_fr (st : Stack) (addr : BitVec 48) (pass : Bool) (s : State) :
    FrA [.land, .mc] s (execExtentPatternTest st addr pass s) := by
  unfold execExtentPatternTest
  repeat' first
    | intro _
    | with_reducible apply Fr.refl
    | with_reducible assumption
    | with_reducible apply FrA.next
    | (with_reducible apply Fr.step (State.onLand_fr ..); decide)
    | (with_reducible apply State.onMc_st; decide; case hf => first | exact fun _ => MemCtl.onStack_held _ _ _ fun _ => rfl | exact fun _ => ⟨rfl, rfl⟩ | (intro m; apply MemCtl.onStack_held; intro c; simp; done) | (intro m; simp; done))
    | with_reducible apply FrA.ite
    | with_reducible apply Fr.ite
    | dsimp only
    | split

theorem execScrubSegment_fr (id : StripeId) (seg badA badB : BitVec 16) (s : State) :
    FrA [.jobs, .render] s (execScrubSegment id seg badA badB s) := by
  unfold execScrubSegment
  repeat' first
    | intro _
    | with_reducible apply Fr.refl
    | with_reducible assumption
    | with_reducible apply FrA.next
    | (with_reducible apply Fr.step (State.callArb_fr ..); decide)
    | (with_reducible apply Fr.step (State.onSeg_fr ..); decide)
    | (with_reducible apply Fr.foldl)
    | with_reducible apply FrA.ite
    | with_reducible apply Fr.ite
    | dsimp only
    | split

theorem execPlayBufferEcc_fr (id : StripeId) (seg : BitVec 16) (word : PlayWord) (s : State) :
    FrA [.queues, .jobs, .render, .land, .play, .log, .out] s (execPlayBufferEcc id seg word s) := by
  unfold execPlayBufferEcc
  repeat' first
    | intro _
    | with_reducible apply Fr.refl
    | with_reducible assumption
    | with_reducible apply FrA.next
    | (with_reducible apply Fr.step (State.faultSt_fr ..); decide)
    | (with_reducible apply Fr.step (State.unverifiable_fr ..); decide)
    | (with_reducible apply Fr.step (State.stopCause_fr ..); decide)
    | with_reducible apply FrA.ite
    | with_reducible apply Fr.ite
    | dsimp only
    | split

theorem execRerenderStart_fr (id : StripeId) (seg : BitVec 16) (s : State) :
    FrA [.jobs, .render] s (execRerenderStart id seg s) := by
  unfold execRerenderStart
  repeat' first
    | intro _
    | with_reducible apply Fr.refl
    | with_reducible assumption
    | with_reducible apply FrA.next
    | (with_reducible apply Fr.step (State.onStripe_fr ..); decide)
    | (with_reducible apply Fr.step (State.enqueueAll_fr ..); decide)
    | with_reducible apply FrA.ite
    | with_reducible apply Fr.ite
    | dsimp only
    | split

theorem execRerenderComplete_fr (id : StripeId) (seg : BitVec 16) (equal : Bool) (s : State) :
    FrA [.queues, .jobs, .render, .bytes, .log, .out] s (execRerenderComplete id seg equal s) := by
  unfold execRerenderComplete
  repeat' first
    | intro _
    | with_reducible apply Fr.refl
    | with_reducible assumption
    | with_reducible apply FrA.next
    | (with_reducible apply Fr.step (State.onSeg_fr ..); decide)
    | (with_reducible apply Fr.step (State.writeLanding_fr ..); decide)
    | (with_reducible apply Fr.step (State.faultSt_fr ..); decide)
    | (with_reducible apply Fr.step (State.withhold_fr ..); decide)
    | with_reducible apply FrA.ite
    | with_reducible apply Fr.ite
    | dsimp only
    | split

end Sys2Proof.Machine
end

