-- ==== Sys2Proof/Laws/MemCtl.lean ====
section
/-!
SUPPORT. What each function and each meaning of Machine/MemCtl.lean may change.
-/

namespace Sys2Proof.Machine

@[simp] theorem StackCtl.overflow_held (c : StackCtl) : (c.overflow).heldWrites = c.heldWrites := rfl

@[simp] theorem StackCtl.freeze_held (c : StackCtl) (ch addr : Nat) (remap : Bool) (loc : BitVec 31) (src syn now : Nat) : (c.freeze ch addr remap loc src syn now).heldWrites = c.heldWrites := rfl

theorem execRefresh_fr (st : Stack) (s : State) :
    FrA [.mc, .out] s (execRefresh st s) := by
  unfold execRefresh
  repeat' first
    | intro _
    | with_reducible apply Fr.refl
    | with_reducible assumption
    | with_reducible apply FrA.next
    | (with_reducible apply State.onMc_st; decide; case hf => first | exact fun _ => MemCtl.onStack_held _ _ _ fun _ => rfl | exact fun _ => ⟨rfl, rfl⟩ | (intro m; apply MemCtl.onStack_held; intro c; simp; done) | (intro m; simp; done))
    | (with_reducible apply Fr.step (State.emit_fr ..); decide)
    | with_reducible apply FrA.ite
    | with_reducible apply Fr.ite
    | dsimp only
    | split

theorem State.disarm_fr (s : State) (id : StripeId) :
    Fr [.time, .queues, .jobs, .render, .land, .mc, .meas, .ref, .power, .out] s (State.disarm s id) := by
  unfold State.disarm
  repeat' first
    | intro _
    | with_reducible apply Fr.refl
    | with_reducible assumption
    | (with_reducible apply Fr.step (State.freeSlots_fr ..); decide)
    | (with_reducible apply Fr.step (State.onStripe_fr ..); decide)
    | (with_reducible apply Fr.step (State.onRender_fr ..); decide)
    | (with_reducible apply Fr.step (State.leaveActive_fr ..); decide)
    | with_reducible apply Fr.ite
    | dsimp only
    | split

theorem State.bandStop_fr (s : State) (x : Stripe) :
    Fr [.time, .queues, .jobs, .render, .land, .mc, .play, .meas, .ref, .power, .log, .out] s (State.bandStop s x) := by
  unfold State.bandStop
  repeat' first
    | intro _
    | with_reducible apply Fr.refl
    | with_reducible assumption
    | (with_reducible apply Fr.step (State.raiseSt_fr ..); decide)
    | (with_reducible apply Fr.step (State.disarm_fr ..); decide)
    | (with_reducible apply Fr.step (State.stopCause_fr ..); decide)
    | with_reducible apply Fr.ite
    | dsimp only
    | split

theorem State.idleBand_fr (s : State) :
    Fr [.mc, .power] s (State.idleBand s) := by
  unfold State.idleBand
  repeat' first
    | intro _
    | with_reducible apply Fr.refl
    | with_reducible assumption
    | (with_reducible apply Fr.step (State.changeBand_fr ..); decide)
    | (with_reducible apply State.onMc_st; decide; case hf => first | exact fun _ => MemCtl.onStack_held _ _ _ fun _ => rfl | exact fun _ => ⟨rfl, rfl⟩ | (intro m; apply MemCtl.onStack_held; intro c; simp; done) | (intro m; simp; done))
    | (with_reducible apply Fr.step (State.centre_fr ..); decide)
    | with_reducible apply Fr.ite
    | dsimp only
    | split

theorem execTempBandSample_fr (s : State) :
    FrA [.time, .queues, .jobs, .render, .land, .mc, .play, .meas, .ref, .power, .log, .out] s (execTempBandSample s) := by
  unfold execTempBandSample
  repeat' first
    | intro _
    | with_reducible apply Fr.refl
    | with_reducible assumption
    | with_reducible apply FrA.next
    | (with_reducible apply State.onMc_st; decide; case hf => first | exact fun _ => MemCtl.onStack_held _ _ _ fun _ => rfl | exact fun _ => ⟨rfl, rfl⟩ | (intro m; apply MemCtl.onStack_held; intro c; simp; done) | (intro m; simp; done))
    | (with_reducible apply Fr.step (State.idleBand_fr ..); decide)
    | (with_reducible apply Fr.step (State.bandStop_fr ..); decide)
    | with_reducible apply FrA.ite
    | with_reducible apply Fr.ite
    | dsimp only
    | split

theorem execMemUncorrectable_fr (st : Stack) (addr : BitVec 48) (loc : BitVec 31) (src syn : BitVec 32) (s : State) :
    FrA [.queues, .mc, .log, .out] s (execMemUncorrectable st addr loc src syn s) := by
  unfold execMemUncorrectable
  repeat' first
    | intro _
    | with_reducible apply Fr.refl
    | with_reducible assumption
    | with_reducible apply FrA.next
    | (with_reducible apply State.onMc_st; decide; case hf => first | exact fun _ => MemCtl.onStack_held _ _ _ fun _ => rfl | exact fun _ => ⟨rfl, rfl⟩ | (intro m; apply MemCtl.onStack_held; intro c; simp; done) | (intro m; simp; done))
    | (with_reducible apply Fr.step (State.fault_fr ..); decide)
    | with_reducible apply FrA.ite
    | with_reducible apply Fr.ite
    | dsimp only
    | split

theorem State.resumeWrites_fr (s : State) (xs : List Host.Cell) :
    Fr [.bytes] s (State.resumeWrites s xs) := by
  induction xs generalizing s with
  | nil => exact Fr.refl _ _
  | cons x xs ih =>
    unfold State.resumeWrites
    repeat' first
        | intro _
        | with_reducible apply Fr.refl
        | with_reducible assumption
        | with_reducible apply fun h => Fr.trans h (ih _)
        | (with_reducible apply State.onMem_st; decide; case hf => first | exact fun m h => Mem.write_wf h _ _ _ | exact fun m h => ⟨cellsWf_nil, h.2⟩)
        | with_reducible apply Fr.ite
        | dsimp only
        | split

theorem State.prepResume_fr (s : State) :
    Fr [.jobs, .land, .bytes] s (State.prepResume s) := by
  unfold State.prepResume
  repeat' first
    | intro _
    | with_reducible apply Fr.refl
    | with_reducible assumption
    | (with_reducible apply Fr.step (State.prepDone_fr ..); decide)
    | (with_reducible apply Fr.foldl)
    | with_reducible apply Fr.ite
    | dsimp only
    | split

theorem State.thaw_fr (s : State) (k : Stack) (auto : Bool) :
    Fr [.queues, .jobs, .land, .bytes, .mc, .out] s (State.thaw s k auto) := by
  unfold State.thaw
  repeat' first
    | intro _
    | with_reducible apply Fr.refl
    | with_reducible assumption
    | (with_reducible apply State.onMc_st; decide; case hf => first | exact fun _ => MemCtl.onStack_held _ _ _ fun _ => rfl | exact fun _ => ⟨rfl, rfl⟩ | (intro m; apply MemCtl.onStack_held; intro c; simp; done) | (intro m; simp; done))
    | (with_reducible apply Fr.step (State.onMc_any_fr ..); decide)
    | (with_reducible apply Fr.step (State.resumeWrites_fr ..); decide)
    | (with_reducible apply Fr.step (State.raise_fr ..); decide)
    | (with_reducible apply Fr.step (State.prepResume_fr ..); decide)
    | with_reducible apply Fr.ite
    | dsimp only
    | split

theorem State.thawWrite_fr (s : State) (k : Stack) (value : BitVec 64) :
    Fr [.queues, .jobs, .land, .bytes, .mc, .log, .out] s (State.thawWrite s k value) := by
  unfold State.thawWrite
  repeat' first
    | intro _
    | with_reducible apply Fr.refl
    | with_reducible assumption
    | (with_reducible apply Fr.step (State.logEntry_fr ..); decide)
    | (with_reducible apply Fr.step (State.thaw_fr ..); decide)
    | with_reducible apply Fr.ite
    | dsimp only
    | split

theorem execMemThaw_fr (st : Stack) (value : BitVec 64) (s : State) :
    FrA [.queues, .jobs, .land, .bytes, .mc, .log, .out] s (execMemThaw st value s) := by
  unfold execMemThaw
  repeat' first
    | intro _
    | with_reducible apply Fr.refl
    | with_reducible assumption
    | with_reducible apply FrA.next
    | (with_reducible apply Fr.step (State.thawWrite_fr ..); decide)
    | with_reducible apply FrA.ite
    | with_reducible apply Fr.ite
    | dsimp only
    | split

theorem execMemAutoThaw_fr (st : Stack) (s : State) :
    FrA [.queues, .jobs, .land, .bytes, .mc, .out] s (execMemAutoThaw st s) := by
  unfold execMemAutoThaw
  repeat' first
    | intro _
    | with_reducible apply Fr.refl
    | with_reducible assumption
    | with_reducible apply FrA.next
    | (with_reducible apply Fr.step (State.thaw_fr ..); decide)
    | with_reducible apply FrA.ite
    | with_reducible apply Fr.ite
    | dsimp only
    | split

theorem State.startRetire_fr (s : State) (k : Stack) (ch : Nat) :
    Fr [.queues, .mc, .log, .out] s (State.startRetire s k ch) := by
  unfold State.startRetire
  repeat' first
    | intro _
    | with_reducible apply Fr.refl
    | with_reducible assumption
    | (with_reducible apply Fr.step (State.stackFail_fr ..); decide)
    | (with_reducible apply State.onMc_st; decide; case hf => first | exact fun _ => MemCtl.onStack_held _ _ _ fun _ => rfl | exact fun _ => ⟨rfl, rfl⟩ | (intro m; apply MemCtl.onStack_held; intro c; simp; done) | (intro m; simp; done))
    | (with_reducible apply Fr.step (State.fault_fr ..); decide)
    | with_reducible apply Fr.ite
    | dsimp only
    | split

theorem execChannelRetireTrigger_fr (st : Stack) (ch : BitVec 4) (trigger : RetireTrigger) (s : State) :
    FrA [.queues, .mc, .repair, .log, .out] s (execChannelRetireTrigger st ch trigger s) := by
  unfold execChannelRetireTrigger
  repeat' first
    | intro _
    | with_reducible apply Fr.refl
    | with_reducible assumption
    | with_reducible apply FrA.next
    | (with_reducible apply Fr.step (State.untrained_fr ..); decide)
    | (with_reducible apply State.onMc_st; decide; case hf => first | exact fun _ => MemCtl.onStack_held _ _ _ fun _ => rfl | exact fun _ => ⟨rfl, rfl⟩ | (intro m; apply MemCtl.onStack_held; intro c; simp; done) | (intro m; simp; done))
    | (with_reducible apply Fr.step (State.setRState_fr ..); decide)
    | (with_reducible apply Fr.step (State.startRetire_fr ..); decide)
    | with_reducible apply FrA.ite
    | with_reducible apply Fr.ite
    | dsimp only
    | split

theorem execUnitMigrationComplete_fr (st : Stack) (unit : BitVec 21) (bad : Option (BitVec 9)) (s : State) :
    FrA [.mc] s (execUnitMigrationComplete st unit bad s) := by
  unfold execUnitMigrationComplete
  repeat' first
    | intro _
    | with_reducible apply Fr.refl
    | with_reducible assumption
    | with_reducible apply FrA.next
    | (with_reducible apply State.onMc_st; decide; case hf => first | exact fun _ => MemCtl.onStack_held _ _ _ fun _ => rfl | exact fun _ => ⟨rfl, rfl⟩ | (intro m; apply MemCtl.onStack_held; intro c; simp; done) | (intro m; simp; done))
    | with_reducible apply FrA.ite
    | with_reducible apply Fr.ite
    | dsimp only
    | split

theorem State.moveRecord_fr (s : State) (k : Stack) (id : StripeId) (n : Nat) :
    Fr [.jobs, .bytes] s (State.moveRecord s k id n) := by
  have h (t : State) (a : Nat) (bs : List Byte) (f : Seg → Seg) :
      Fr [.jobs, .bytes] t ((t.write spLanding a bs).onSeg id n f) :=
    Fr.step (State.onSeg_fr ..) rfl ((t.write_fr ..).mono rfl)
  unfold State.moveRecord
  split
  · exact Fr.refl _ _
  · split
    · exact Fr.refl _ _
    · split
      · exact Fr.refl _ _
      · rename_i a _
        generalize s.recordBytes _ k = bs
        dsimp only
        split
        · exact h _ _ _ _
        · exact Fr.step (State.writeLanding_fr ..) rfl (h _ _ _ _)

theorem State.moveOldRecord_fr (s : State) (k : Stack) (id : StripeId) (n : Nat) :
    Fr [.jobs, .bytes] s (State.moveOldRecord s k id n) := by
  unfold State.moveOldRecord
  split
  · rename_i a _ _
    dsimp only
    generalize s.mem.bytes spLanding _ 65536 = bs
    cases k
    all_goals
      dsimp only
      split
      · exact Fr.refl _ _
      · exact Fr.step (State.onSeg_fr ..) rfl ((s.write_fr ..).mono rfl)
  · exact Fr.refl _ _

theorem State.moveRecords_fr (s : State) (k : Stack) :
    Fr [.jobs, .bytes] s (State.moveRecords s k) := by
  unfold State.moveRecords
  repeat' first
    | intro _
    | with_reducible apply Fr.refl
    | with_reducible assumption
    | (with_reducible apply Fr.step (State.moveRecord_fr ..); decide)
    | (with_reducible apply Fr.step (State.moveOldRecord_fr ..); decide)
    | (with_reducible apply Fr.foldl)
    | with_reducible apply Fr.ite
    | dsimp only
    | split

theorem execChannelRetired_fr (st : Stack) (ch : BitVec 4) (s : State) :
    FrA [.queues, .jobs, .bytes, .mc, .repair, .out] s (execChannelRetired st ch s) := by
  unfold execChannelRetired
  repeat' first
    | intro _
    | with_reducible apply Fr.refl
    | with_reducible assumption
    | with_reducible apply FrA.next
    | (with_reducible apply Fr.step (State.moveRecords_fr ..); decide)
    | (with_reducible apply State.onMc_st; decide; case hf => first | exact fun _ => MemCtl.onStack_held _ _ _ fun _ => rfl | exact fun _ => ⟨rfl, rfl⟩ | (intro m; apply MemCtl.onStack_held; intro c; simp; done) | (intro m; simp; done))
    | (with_reducible apply Fr.step (State.onMc_any_fr ..); decide)
    | (with_reducible apply Fr.step (State.setRState_fr ..); decide)
    | (with_reducible apply Fr.step (State.raise_fr ..); decide)
    | with_reducible apply FrA.ite
    | with_reducible apply Fr.ite
    | dsimp only
    | split

theorem execMemStatus_fr (src : Src) (s : State) :
    FrA [.queues, .mailboxes, .out] s (execMemStatus src s) := by
  unfold execMemStatus
  repeat' first
    | intro _
    | with_reducible apply Fr.refl
    | with_reducible assumption
    | with_reducible apply FrA.next
    | (with_reducible apply Fr.step (State.ok_fr ..); decide)
    | with_reducible apply FrA.ite
    | with_reducible apply Fr.ite
    | dsimp only
    | split

theorem execMemLandingRead_fr (src : Src) (id : StripeId) (seg : BitVec 16) (s : State) :
    FrA [.queues, .mailboxes, .out] s (execMemLandingRead src id seg s) := by
  unfold execMemLandingRead
  repeat' first
    | intro _
    | with_reducible apply Fr.refl
    | with_reducible assumption
    | with_reducible apply FrA.next
    | (with_reducible apply Fr.step (State.ok_fr ..); decide)
    | (with_reducible apply Fr.step (State.fail_fr ..); decide)
    | with_reducible apply FrA.ite
    | with_reducible apply Fr.ite
    | dsimp only
    | split

end Sys2Proof.Machine
end

