-- ==== Sys2Proof/Laws/Arm.lean ====
section
/-!
SUPPORT. What each function and each meaning of Machine/Arm.lean may change.
-/

namespace Sys2Proof.Machine

theorem State.mapEvents_fr (s : State) (src : Src) (map : List (Option Nat)) (st : List MapStep) :
    Fr [.queues, .out] s (State.mapEvents s src map st) := by
  unfold State.mapEvents
  repeat' first
    | intro _
    | with_reducible apply Fr.refl
    | with_reducible assumption
    | (with_reducible apply Fr.step (State.raiseVia_fr ..); decide)
    | (with_reducible apply Fr.foldl)
    | with_reducible apply Fr.ite
    | dsimp only
    | split

theorem State.commitMap_fr (s : State) (map : List (Option Nat)) :
    Fr [.beam, .link, .repair] s (State.commitMap s map) := by
  unfold State.commitMap
  repeat' first
    | intro _
    | with_reducible apply Fr.refl
    | with_reducible assumption
    | (with_reducible apply Fr.step (State.onLink_fr ..); decide)
    | (with_reducible apply Fr.step (State.onBeam_fr ..); decide)
    | (with_reducible apply Fr.step (State.onRepair_fr ..); decide)
    | with_reducible apply Fr.ite
    | dsimp only
    | split

theorem State.remapBanks_fr (s : State) :
    Fr [.play] s (State.remapBanks s) := by
  unfold State.remapBanks
  repeat' first
    | intro _
    | with_reducible apply Fr.refl
    | with_reducible assumption
    | (with_reducible apply Fr.step (State.onPlay_fr ..); decide)
    | (with_reducible apply Fr.foldl)
    | with_reducible apply Fr.ite
    | dsimp only
    | split

theorem State.spareAtArm_fr (s : State) :
    Fr [.queues, .play, .repair, .log, .out] s (State.spareAtArm s) := by
  unfold State.spareAtArm
  repeat' first
    | intro _
    | with_reducible apply Fr.refl
    | with_reducible assumption
    | (with_reducible apply Fr.step (State.quarantine_fr ..); decide)
    | (with_reducible apply Fr.step (State.spareRegion_fr ..); decide)
    | (with_reducible apply Fr.step (State.remapBanks_fr ..); decide)
    | (with_reducible apply Fr.foldl)
    | with_reducible apply Fr.ite
    | dsimp only
    | split

theorem State.abortTrims_fr (s : State) (src : Src) :
    Fr [.queues, .meas, .out] s (State.abortTrims s src) := by
  unfold State.abortTrims
  repeat' first
    | intro _
    | with_reducible apply Fr.refl
    | with_reducible assumption
    | (with_reducible apply Fr.step (State.onMeas_fr ..); decide)
    | (with_reducible apply Fr.step (State.raiseVia_fr ..); decide)
    | (with_reducible apply Fr.foldl)
    | with_reducible apply Fr.ite
    | dsimp only
    | split

theorem State.prepareArm_fr (s : State) (map : List (Option Nat)) (mapped : Bool) :
    Fr [.queues, .play, .beam, .link, .meas, .repair, .log, .out] s (State.prepareArm s map mapped) := by
  unfold State.prepareArm
  repeat' first
    | intro _
    | with_reducible apply Fr.refl
    | with_reducible assumption
    | (with_reducible apply Fr.step (State.applyTrims_fr ..); decide)
    | (with_reducible apply Fr.step (State.spareAtArm_fr ..); decide)
    | (with_reducible apply Fr.step (State.onBeam_fr ..); decide)
    | (with_reducible apply Fr.step (State.commitMap_fr ..); decide)
    | with_reducible apply Fr.ite
    | dsimp only
    | split

theorem State.latchMem_fr (s : State) (band : Nat) :
    Fr [.mc] s (State.latchMem s band) := by
  unfold State.latchMem
  repeat' first
    | intro _
    | with_reducible apply Fr.refl
    | with_reducible assumption
    | (with_reducible apply Fr.step (State.setBand_fr ..); decide)
    | (with_reducible apply State.onMc_st; decide; case hf => first | exact fun _ => MemCtl.onStack_held _ _ _ fun _ => rfl | exact fun _ => ⟨rfl, rfl⟩ | (intro m; apply MemCtl.onStack_held; intro c; simp; done) | (intro m; simp; done))
    | with_reducible apply Fr.ite
    | dsimp only
    | split

theorem State.armed_fr (s : State) (x : Stripe) (q : Nat) (spares : List Nat) :
    Fr [.queues, .mailboxes, .waiting, .jobs, .render, .land, .bytes, .mc, .play, .beam, .stage, .link, .ledger, .out] s (State.armed s x q spares) := by
  unfold State.armed
  repeat' first
    | intro _
    | with_reducible apply Fr.refl
    | with_reducible assumption
    | (with_reducible apply Fr.step (State.finishHalt_fr ..); decide)
    | (with_reducible apply Fr.step (State.onStripe_fr ..); decide)
    | (with_reducible apply Fr.step (State.latchMem_fr ..); decide)
    | (with_reducible apply Fr.step (State.onBeam_fr ..); decide)
    | (with_reducible apply Fr.step (State.onStage_fr ..); decide)
    | (with_reducible apply Fr.step (State.dropReentry_fr ..); decide)
    | (with_reducible apply Fr.step (State.onPlay_fr ..); decide)
    | (with_reducible apply Fr.step (State.onLink_fr ..); decide)
    | (with_reducible apply Fr.step (State.preempt_fr ..); decide)
    | with_reducible apply Fr.ite
    | dsimp only
    | split

theorem State.armStripe_fr (s : State) (src : Src) (id : StripeId) (resume : Bool) (echo : Option (List (Option Nat))) :
    Fr [.queues, .mailboxes, .waiting, .jobs, .render, .land, .bytes, .mc, .play, .beam, .stage, .link, .meas, .repair, .log, .ledger, .out] s (State.armStripe s src id resume echo) := by
  unfold State.armStripe
  repeat' first
    | intro _
    | with_reducible apply Fr.refl
    | with_reducible assumption
    | (with_reducible apply Fr.step (State.fail_fr ..); decide)
    | (with_reducible apply Fr.step (State.mapEvents_fr ..); decide)
    | (with_reducible apply Fr.step (State.prepareArm_fr ..); decide)
    | (with_reducible apply Fr.step (State.raiseVia_fr ..); decide)
    | (with_reducible apply Fr.step (State.respond_fr ..); decide)
    | (with_reducible apply Fr.step (State.onStripe_fr ..); decide)
    | (with_reducible apply Fr.step (State.finishHalt_fr ..); decide)
    | (with_reducible apply Fr.step (State.refuse_fr ..); decide)
    | (with_reducible apply Fr.step (State.abortTrims_fr ..); decide)
    | (with_reducible apply Fr.step (State.armed_fr ..); decide)
    | (with_reducible apply Fr.step (State.ok_fr ..); decide)
    | (with_reducible apply Fr.step (State.sendHead_fr ..); decide)
    | (with_reducible apply Fr.step (State.onLink_fr ..); decide)
    | (with_reducible apply Fr.step (State.wait_fr ..); decide)
    | with_reducible apply Fr.ite
    | dsimp only
    | split

theorem execStripeArm_fr (src : Src) (id : StripeId) (s : State) :
    FrA [.queues, .mailboxes, .waiting, .jobs, .render, .land, .bytes, .mc, .play, .beam, .stage, .link, .meas, .repair, .log, .ledger, .out] s (execStripeArm src id s) := by
  unfold execStripeArm
  repeat' first
    | intro _
    | with_reducible apply Fr.refl
    | with_reducible assumption
    | with_reducible apply FrA.next
    | (with_reducible apply Fr.step (State.armStripe_fr ..); decide)
    | with_reducible apply FrA.ite
    | with_reducible apply Fr.ite
    | dsimp only
    | split

theorem execStripeResume_fr (src : Src) (id : StripeId) (s : State) :
    FrA [.queues, .mailboxes, .waiting, .jobs, .render, .land, .bytes, .mc, .play, .beam, .stage, .link, .meas, .repair, .log, .ledger, .out] s (execStripeResume src id s) := by
  unfold execStripeResume
  repeat' first
    | intro _
    | with_reducible apply Fr.refl
    | with_reducible assumption
    | with_reducible apply FrA.next
    | (with_reducible apply Fr.step (State.armStripe_fr ..); decide)
    | with_reducible apply FrA.ite
    | with_reducible apply Fr.ite
    | dsimp only
    | split

theorem State.mapsetEcho_fr (s : State) (body : List Byte) :
    Fr [.queues, .mailboxes, .waiting, .jobs, .render, .land, .bytes, .mc, .play, .beam, .stage, .link, .meas, .repair, .log, .ledger, .out] s (State.mapsetEcho s body) := by
  unfold State.mapsetEcho
  repeat' first
    | intro _
    | with_reducible apply Fr.refl
    | with_reducible assumption
    | (with_reducible apply Fr.step (State.unwait_fr ..); decide)
    | (with_reducible apply Fr.step (State.armStripe_fr ..); decide)
    | (with_reducible apply Fr.step (State.onLink_fr ..); decide)
    | with_reducible apply Fr.ite
    | dsimp only
    | split

theorem execMapsetEchoTimeout_fr (s : State) :
    FrA [.queues, .mailboxes, .waiting, .link, .out] s (execMapsetEchoTimeout s) := by
  unfold execMapsetEchoTimeout
  repeat' first
    | intro _
    | with_reducible apply Fr.refl
    | with_reducible assumption
    | with_reducible apply FrA.next
    | (with_reducible apply Fr.step (State.unwait_fr ..); decide)
    | (with_reducible apply Fr.step (State.onLink_fr ..); decide)
    | (with_reducible apply Fr.step (State.raiseVia_fr ..); decide)
    | (with_reducible apply Fr.step (State.fail_fr ..); decide)
    | with_reducible apply FrA.ite
    | with_reducible apply Fr.ite
    | dsimp only
    | split

theorem State.mgmtMessage_fr (s : State) (lane : Nat) (msg : List Byte) :
    Fr [.queues, .mailboxes, .waiting, .jobs, .render, .land, .bytes, .mc, .play, .beam, .stage, .link, .plate, .meas, .repair, .log, .ledger, .out] s (State.mgmtMessage s lane msg) := by
  unfold State.mgmtMessage
  repeat' first
    | intro _
    | with_reducible apply Fr.refl
    | with_reducible assumption
    | (with_reducible apply Fr.step (State.onLink_fr ..); decide)
    | (with_reducible apply Fr.step (State.acceptIdentity_fr ..); decide)
    | (with_reducible apply Fr.step (State.mapsetEcho_fr ..); decide)
    | (with_reducible apply Fr.step (State.laneTestDone_fr ..); decide)
    | (with_reducible apply Fr.step (State.plateReply_fr ..); decide)
    | with_reducible apply Fr.ite
    | dsimp only
    | split

theorem execMgmtRecord_fr (q : BitVec 2) (w : BitVec 256) (s : State) :
    FrA [.queues, .mailboxes, .waiting, .jobs, .render, .land, .bytes, .mc, .play, .beam, .stage, .link, .plate, .meas, .repair, .log, .ledger, .out] s (execMgmtRecord q w s) := by
  unfold execMgmtRecord
  repeat' first
    | intro _
    | with_reducible apply Fr.refl
    | with_reducible assumption
    | with_reducible apply FrA.next
    | (with_reducible apply State.record_fr; decide)
    | (with_reducible apply Fr.step (State.onLane_fr ..); decide)
    | (with_reducible apply Fr.step (State.mgmtMessage_fr ..); decide)
    | with_reducible apply FrA.ite
    | with_reducible apply Fr.ite
    | dsimp only
    | split

end Sys2Proof.Machine
end

