-- ==== Sys2Proof/Laws/Stripes.lean ====
section
/-!
SUPPORT. What each function and each meaning of Machine/Stripes.lean may change.
-/

namespace Sys2Proof.Machine

theorem State.onHeld_fr {ps : List Part} {s t : State} {src : Src} {id : StripeId} {ok : StripeSt → Bool}
    {k : Stripe → State} (hq : [.queues, .mailboxes, .out].all ps.contains = true) (h : Fr ps s t)
    (hk : ∀ x, Fr ps s (k x)) : Fr ps s (t.onHeld src id ok k) := by
  unfold State.onHeld
  split
  · exact Fr.step (State.fail_fr ..) hq h
  · split
    · exact Fr.step (State.fail_fr ..) hq h
    · split
      · exact Fr.step (State.fail_fr ..) hq h
      · exact hk _

theorem execStripeDisarm_fr (src : Src) (id : StripeId) (s : State) :
    FrA [.time, .queues, .mailboxes, .jobs, .render, .land, .mc, .meas, .ref, .power, .out] s (execStripeDisarm src id s) := by
  unfold execStripeDisarm
  repeat' first
    | intro _
    | with_reducible apply Fr.refl
    | with_reducible assumption
    | with_reducible apply FrA.next
    | (with_reducible apply State.onHeld_fr; decide)
    | (with_reducible apply Fr.step (State.disarm_fr ..); decide)
    | (with_reducible apply Fr.step (State.ok_fr ..); decide)
    | with_reducible apply FrA.ite
    | with_reducible apply Fr.ite
    | dsimp only
    | split

theorem State.goStart_fr (s : State) (x : Stripe) (yref : BitVec 48) (sense : Bool) (crossmax : BitVec 23) (xcref : BitVec 48) (tlb : BitVec 32) :
    Fr [.jobs, .play, .beam, .ref] s (State.goStart s x yref sense crossmax xcref tlb) := by
  unfold State.goStart
  repeat' first
    | intro _
    | with_reducible apply Fr.refl
    | with_reducible assumption
    | (with_reducible apply Fr.step (State.onStripe_fr ..); decide)
    | (with_reducible apply Fr.step (State.onPlay_fr ..); decide)
    | (with_reducible apply Fr.step (State.onBeam_fr ..); decide)
    | (with_reducible apply State.permit_st; decide; (case hp => rename_i hc; first | exact hc | (simp only [Bool.and_eq_true] at hc; exact hc.2)))
    | (with_reducible apply State.onRef_st; decide; case hf => first | exact fun _ h => h | exact fun _ _ _ => rfl | (intro _ _ h; cases h) | ((intro r h); (try dsimp only); (repeat' split) <;> simpa using h))
    | dsimp only
    | split

theorem State.goTry_fr (s : State) (src : Src) (id : StripeId) (waitmax : BitVec 16) (yref : BitVec 48) (sense : Bool) (crossmax : BitVec 23) (xcref : BitVec 48) (tlb : BitVec 32) (arrival : Bool) :
    Fr [.queues, .mailboxes, .waiting, .jobs, .play, .beam, .ref, .out] s (State.goTry s src id waitmax yref sense crossmax xcref tlb arrival) := by
  unfold State.goTry
  repeat' first
    | intro _
    | with_reducible apply Fr.refl
    | with_reducible assumption
    | (with_reducible apply Fr.step (State.fail_fr ..); decide)
    | (with_reducible apply State.onHeld_fr; decide)
    | (with_reducible apply Fr.step (State.goStart_fr ..); decide)
    | (with_reducible apply Fr.step (State.ok_fr ..); decide)
    | (with_reducible apply Fr.step (State.respond_fr ..); decide)
    | (with_reducible apply Fr.step (State.wait_fr ..); decide)
    | with_reducible apply Fr.ite
    | dsimp only
    | split

theorem execStripeGo_fr (src : Src) (id : StripeId) (waitmax : BitVec 16) (yref : BitVec 48) (sense : Bool) (crossmax : BitVec 23) (xcref : BitVec 48) (tlb : BitVec 32) (s : State) :
    FrA [.queues, .mailboxes, .waiting, .jobs, .play, .beam, .ref, .out] s (execStripeGo src id waitmax yref sense crossmax xcref tlb s) := by
  unfold execStripeGo
  repeat' first
    | intro _
    | with_reducible apply Fr.refl
    | with_reducible assumption
    | with_reducible apply FrA.next
    | (with_reducible apply Fr.step (State.goTry_fr ..); decide)
    | with_reducible apply FrA.ite
    | with_reducible apply Fr.ite
    | dsimp only
    | split

theorem execGoWaitmaxExpiry_fr (mb : BitVec 4) (s : State) :
    FrA [.queues, .mailboxes, .waiting, .jobs, .play, .beam, .ref, .out] s (execGoWaitmaxExpiry mb s) := by
  unfold execGoWaitmaxExpiry
  repeat' first
    | intro _
    | with_reducible apply Fr.refl
    | with_reducible assumption
    | with_reducible apply FrA.next
    | (with_reducible apply Fr.step (State.unwait_fr ..); decide)
    | (with_reducible apply Fr.step (State.respond_fr ..); decide)
    | (with_reducible apply Fr.step (State.goTry_fr ..); decide)
    | with_reducible apply FrA.ite
    | with_reducible apply Fr.ite
    | dsimp only
    | split

theorem execStripeStop_fr (src : Src) (id : StripeId) (abort : Bool) (s : State) :
    FrA [.queues, .mailboxes, .waiting, .jobs, .render, .land, .play, .log, .out] s (execStripeStop src id abort s) := by
  unfold execStripeStop
  repeat' first
    | intro _
    | with_reducible apply Fr.refl
    | with_reducible assumption
    | with_reducible apply FrA.next
    | (with_reducible apply State.onHeld_fr; decide)
    | (with_reducible apply Fr.step (State.stopCause_fr ..); decide)
    | (with_reducible apply Fr.step (State.wait_fr ..); decide)
    | with_reducible apply FrA.ite
    | with_reducible apply Fr.ite
    | dsimp only
    | split

theorem State.releaseStripe_fr (s : State) (id : StripeId) :
    Fr [.queues, .jobs, .render, .land, .bytes, .play, .ledger, .out] s (State.releaseStripe s id) := by
  unfold State.releaseStripe
  repeat' first
    | intro _
    | with_reducible apply Fr.refl
    | with_reducible assumption
    | (with_reducible apply Fr.step (State.finishHalt_fr ..); decide)
    | (with_reducible apply Fr.step (State.raiseSt_fr ..); decide)
    | (with_reducible apply Fr.step (State.freeSlots_fr ..); decide)
    | (with_reducible apply Fr.step (State.onRender_fr ..); decide)
    | (with_reducible apply Fr.step (State.onPlay_fr ..); decide)
    | (with_reducible apply Fr.step (State.onJobs_fr ..); decide)
    | with_reducible apply Fr.ite
    | dsimp only
    | split

theorem execStripeRelease_fr (src : Src) (id : StripeId) (s : State) :
    FrA [.queues, .mailboxes, .jobs, .render, .land, .bytes, .play, .ledger, .out] s (execStripeRelease src id s) := by
  unfold execStripeRelease
  repeat' first
    | intro _
    | with_reducible apply Fr.refl
    | with_reducible assumption
    | with_reducible apply FrA.next
    | (with_reducible apply State.onHeld_fr; decide)
    | (with_reducible apply Fr.step (State.releaseStripe_fr ..); decide)
    | (with_reducible apply Fr.step (State.ok_fr ..); decide)
    | with_reducible apply FrA.ite
    | with_reducible apply Fr.ite
    | dsimp only
    | split

theorem State.writeBuf_fr (s : State) (b : BufRef) (ws : List Word) :
    Fr [.bytes] s (State.writeBuf s b ws) := by
  unfold State.writeBuf
  repeat' first
    | intro _
    | with_reducible apply Fr.refl
    | with_reducible assumption
    | (with_reducible apply Fr.step (State.write_fr ..); decide)
    | with_reducible apply Fr.ite
    | dsimp only
    | split

theorem State.sized_fr {ps : List Part} {s t : State} {src : Src} {b : BufRef} {words : Nat} {k : State}
    (hq : [.queues, .mailboxes, .out].all ps.contains = true) (h : Fr ps s t) (hk : Fr ps s k) : Fr ps s (t.sized src b words k) := by
  unfold State.sized
  split
  · exact hk
  · exact Fr.step (State.respond_fr ..) hq h

theorem execStripeStatus_fr (src : Src) (id : StripeId) (buf : Option BufRef) (s : State) :
    FrA [.queues, .mailboxes, .bytes, .out] s (execStripeStatus src id buf s) := by
  unfold execStripeStatus
  repeat' first
    | intro _
    | with_reducible apply Fr.refl
    | with_reducible assumption
    | with_reducible apply FrA.next
    | (with_reducible apply State.command_fr; decide)
    | (with_reducible apply Fr.step (State.ok_fr ..); decide)
    | (with_reducible apply State.sized_fr; decide)
    | (with_reducible apply Fr.step (State.writeBuf_fr ..); decide)
    | with_reducible apply FrA.ite
    | with_reducible apply Fr.ite
    | dsimp only
    | split

theorem execJobLedgerRead_fr (src : Src) (id : StripeId) (first count : BitVec 16) (buf : BufRef) (s : State) :
    FrA [.queues, .mailboxes, .bytes, .out] s (execJobLedgerRead src id first count buf s) := by
  unfold execJobLedgerRead
  repeat' first
    | intro _
    | with_reducible apply Fr.refl
    | with_reducible assumption
    | with_reducible apply FrA.next
    | (with_reducible apply State.command_fr; decide)
    | (with_reducible apply State.sized_fr; decide)
    | (with_reducible apply Fr.step (State.writeBuf_fr ..); decide)
    | (with_reducible apply Fr.step (State.ok_fr ..); decide)
    | with_reducible apply FrA.ite
    | with_reducible apply Fr.ite
    | dsimp only
    | split

theorem State.stopStream_fr (s : State) (job : BitVec 16) :
    Fr [.dma] s (State.stopStream s job) := by
  unfold State.stopStream
  repeat' first
    | intro _
    | with_reducible apply Fr.refl
    | with_reducible assumption
    | (with_reducible apply Fr.step (State.unbindQueue_fr ..); decide)
    | with_reducible apply Fr.ite
    | dsimp only
    | split

theorem State.releaseRing_fr (s : State) (job : BitVec 16) :
    Fr [.jobs, .dma] s (State.releaseRing s job) := by
  unfold State.releaseRing
  repeat' first
    | intro _
    | with_reducible apply Fr.refl
    | with_reducible assumption
    | (with_reducible apply Fr.step (State.onJobs_fr ..); decide)
    | (with_reducible apply Fr.step (State.onAhead_fr ..); decide)
    | with_reducible apply Fr.ite
    | dsimp only
    | split

theorem State.releaseJob_fr (s : State) (job : BitVec 16) :
    Fr [.queues, .jobs, .render, .land, .bytes, .play, .ledger, .out] s (State.releaseJob s job) := by
  unfold State.releaseJob
  repeat' first
    | intro _
    | with_reducible apply Fr.refl
    | with_reducible assumption
    | (with_reducible apply Fr.step (State.releaseStripe_fr ..); decide)
    | (with_reducible apply Fr.step (State.onJobs_fr ..); decide)
    | (with_reducible apply Fr.foldl)
    | with_reducible apply Fr.ite
    | dsimp only
    | split

theorem State.finishAbort_fr (s0 : State) (job : BitVec 16) (via : Option Src) :
    Fr [.queues, .jobs, .render, .land, .bytes, .play, .dma, .ledger, .out] s0 (State.finishAbort s0 job via) := by
  unfold State.finishAbort
  repeat' first
    | intro _
    | with_reducible apply Fr.refl
    | with_reducible assumption
    | (with_reducible apply Fr.step (State.releaseRing_fr ..); decide)
    | (with_reducible apply Fr.step (State.raiseVia_fr ..); decide)
    | (with_reducible apply Fr.step (State.releaseJob_fr ..); decide)
    | with_reducible apply Fr.ite
    | dsimp only
    | split

theorem State.beginAbort_fr (s : State) (job : BitVec 16) (abort : Bool) :
    Fr [.time, .queues, .jobs, .render, .land, .mc, .play, .meas, .dma, .ref, .power, .log, .out] s (State.beginAbort s job abort) := by
  unfold State.beginAbort
  repeat' first
    | intro _
    | with_reducible apply Fr.refl
    | with_reducible assumption
    | (with_reducible apply Fr.step (State.stopStream_fr ..); decide)
    | (with_reducible apply Fr.step (State.onJob_fr ..); decide)
    | (with_reducible apply Fr.step (State.disarm_fr ..); decide)
    | (with_reducible apply Fr.step (State.stopCause_fr ..); decide)
    | with_reducible apply Fr.ite
    | dsimp only
    | split

theorem execJobAbort_fr (src : Src) (job : BitVec 16) (abort : Bool) (s : State) :
    FrA [.time, .queues, .mailboxes, .waiting, .jobs, .render, .land, .bytes, .mc, .play, .meas, .dma, .ref, .power, .log, .ledger, .out] s (execJobAbort src job abort s) := by
  unfold execJobAbort
  repeat' first
    | intro _
    | with_reducible apply Fr.refl
    | with_reducible assumption
    | with_reducible apply FrA.next
    | (with_reducible apply Fr.step (State.fail_fr ..); decide)
    | (with_reducible apply Fr.step (State.beginAbort_fr ..); decide)
    | (with_reducible apply Fr.step (State.wait_fr ..); decide)
    | (with_reducible apply Fr.step (State.finishAbort_fr ..); decide)
    | (with_reducible apply Fr.step (State.ok_fr ..); decide)
    | with_reducible apply FrA.ite
    | with_reducible apply Fr.ite
    | dsimp only
    | split

theorem execJobClose_fr (src : Src) (job : BitVec 16) (s : State) :
    FrA [.queues, .mailboxes, .jobs, .render, .land, .bytes, .play, .ledger, .out] s (execJobClose src job s) := by
  unfold execJobClose
  repeat' first
    | intro _
    | with_reducible apply Fr.refl
    | with_reducible assumption
    | with_reducible apply FrA.next
    | (with_reducible apply Fr.step (State.fail_fr ..); decide)
    | (with_reducible apply Fr.step (State.releaseJob_fr ..); decide)
    | (with_reducible apply Fr.step (State.ok_fr ..); decide)
    | with_reducible apply FrA.ite
    | with_reducible apply Fr.ite
    | dsimp only
    | split

end Sys2Proof.Machine
end

