-- ==== Sys2Proof/Laws/BeamCmd.lean ====
section
/-!
SUPPORT. What each function and each meaning of Machine/BeamCmd.lean may change.
-/

namespace Sys2Proof.Machine

theorem execBeamGainLoad_fr (src : Src) (buf : BufRef) (s : State) :
    FrA [.queues, .mailboxes, .beam, .out] s (execBeamGainLoad src buf s) := by
  unfold execBeamGainLoad
  repeat' first
    | intro _
    | with_reducible apply Fr.refl
    | with_reducible assumption
    | with_reducible apply FrA.next
    | (with_reducible apply Fr.step (State.fail_fr ..); decide)
    | (with_reducible apply Fr.step (State.respond_fr ..); decide)
    | (with_reducible apply Fr.step (State.onBeam_fr ..); decide)
    | (with_reducible apply Fr.step (State.ok_fr ..); decide)
    | with_reducible apply FrA.ite
    | with_reducible apply Fr.ite
    | dsimp only
    | split

theorem execBeamDeadSet_fr (src : Src) (bs : List (BitVec 32)) (s : State) :
    FrA [.queues, .mailboxes, .beam, .out] s (execBeamDeadSet src bs s) := by
  unfold execBeamDeadSet
  repeat' first
    | intro _
    | with_reducible apply Fr.refl
    | with_reducible assumption
    | with_reducible apply FrA.next
    | (with_reducible apply Fr.step (State.respond_fr ..); decide)
    | (with_reducible apply Fr.step (State.onBeam_fr ..); decide)
    | with_reducible apply FrA.ite
    | with_reducible apply Fr.ite
    | dsimp only
    | split

theorem execBeamDeadClear_fr (src : Src) (bs : Option (List (BitVec 32))) (s : State) :
    FrA [.queues, .mailboxes, .beam, .out] s (execBeamDeadClear src bs s) := by
  unfold execBeamDeadClear
  repeat' first
    | intro _
    | with_reducible apply Fr.refl
    | with_reducible assumption
    | with_reducible apply FrA.next
    | (with_reducible apply Fr.step (State.respond_fr ..); decide)
    | (with_reducible apply Fr.step (State.onBeam_fr ..); decide)
    | with_reducible apply FrA.ite
    | with_reducible apply Fr.ite
    | dsimp only
    | split

theorem execBeamStuckClear_fr (src : Src) (b : BitVec 18) (s : State) :
    FrA [.queues, .mailboxes, .beam, .out] s (execBeamStuckClear src b s) := by
  unfold execBeamStuckClear
  repeat' first
    | intro _
    | with_reducible apply Fr.refl
    | with_reducible assumption
    | with_reducible apply FrA.next
    | (with_reducible apply State.command_fr; decide)
    | (with_reducible apply Fr.step (State.onBeam_fr ..); decide)
    | (with_reducible apply Fr.step (State.ok_fr ..); decide)
    | with_reducible apply FrA.ite
    | with_reducible apply Fr.ite
    | dsimp only
    | split

theorem execBeamHistoryRead_fr (src : Src) (id : StripeId) (buf : BufRef) (s : State) :
    FrA [.queues, .mailboxes, .bytes, .out] s (execBeamHistoryRead src id buf s) := by
  unfold execBeamHistoryRead
  repeat' first
    | intro _
    | with_reducible apply Fr.refl
    | with_reducible assumption
    | with_reducible apply FrA.next
    | (with_reducible apply Fr.step (State.write_fr ..); decide)
    | (with_reducible apply Fr.step (State.ok_fr ..); decide)
    | (with_reducible apply Fr.step (State.fail_fr ..); decide)
    | with_reducible apply FrA.ite
    | with_reducible apply Fr.ite
    | dsimp only
    | split

theorem execBeamHistoryPolicy_fr (src : Src) (reqzero : Bool) (s : State) :
    FrA [.queues, .mailboxes, .beam, .out] s (execBeamHistoryPolicy src reqzero s) := by
  unfold execBeamHistoryPolicy
  repeat' first
    | intro _
    | with_reducible apply Fr.refl
    | with_reducible assumption
    | with_reducible apply FrA.next
    | (with_reducible apply Fr.step (State.onBeam_fr ..); decide)
    | (with_reducible apply Fr.step (State.ok_fr ..); decide)
    | with_reducible apply FrA.ite
    | with_reducible apply Fr.ite
    | dsimp only
    | split

theorem State.sealFit_fr (s : State) (via : Option Src) (f : FitRec) :
    Fr [.queues, .beam, .out] s (State.sealFit s via f) := by
  unfold State.sealFit
  repeat' first
    | intro _
    | with_reducible apply Fr.refl
    | with_reducible assumption
    | (with_reducible apply Fr.step (State.onBeam_fr ..); decide)
    | (with_reducible apply Fr.step (State.raiseVia_fr ..); decide)
    | with_reducible apply Fr.ite
    | dsimp only
    | split

theorem execBeamFitSeal_fr (src : Src) (f : FitRec) (s : State) :
    FrA [.queues, .mailboxes, .beam, .out] s (execBeamFitSeal src f s) := by
  unfold execBeamFitSeal
  repeat' first
    | intro _
    | with_reducible apply Fr.refl
    | with_reducible assumption
    | with_reducible apply FrA.next
    | (with_reducible apply State.command_fr; decide)
    | (with_reducible apply Fr.step (State.sealFit_fr ..); decide)
    | (with_reducible apply Fr.step (State.ok_fr ..); decide)
    | with_reducible apply FrA.ite
    | with_reducible apply Fr.ite
    | dsimp only
    | split

theorem execBeamStatus_fr (src : Src) (s : State) :
    FrA [.queues, .mailboxes, .out] s (execBeamStatus src s) := by
  unfold execBeamStatus
  repeat' first
    | intro _
    | with_reducible apply Fr.refl
    | with_reducible assumption
    | with_reducible apply FrA.next
    | (with_reducible apply Fr.step (State.ok_fr ..); decide)
    | with_reducible apply FrA.ite
    | with_reducible apply Fr.ite
    | dsimp only
    | split

theorem execHistoryIdleDecay_fr (s : State) :
    FrA [.beam] s (execHistoryIdleDecay s) := by
  unfold execHistoryIdleDecay
  repeat' first
    | intro _
    | with_reducible apply Fr.refl
    | with_reducible assumption
    | with_reducible apply FrA.next
    | (with_reducible apply Fr.step (State.onBeam_fr ..); decide)
    | with_reducible apply FrA.ite
    | with_reducible apply Fr.ite
    | dsimp only
    | split

theorem execHistoryZero_fr (s : State) :
    FrA [.beam] s (execHistoryZero s) := by
  unfold execHistoryZero
  repeat' first
    | intro _
    | with_reducible apply Fr.refl
    | with_reducible assumption
    | with_reducible apply FrA.next
    | (with_reducible apply Fr.step (State.onBeam_fr ..); decide)
    | with_reducible apply FrA.ite
    | with_reducible apply Fr.ite
    | dsimp only
    | split

theorem State.loseHistory_fr (s : State) :
    Fr [.beam] s (State.loseHistory s) := by
  unfold State.loseHistory
  repeat' first
    | intro _
    | with_reducible apply Fr.refl
    | with_reducible assumption
    | (with_reducible apply Fr.step (State.onBeam_fr ..); decide)
    | with_reducible apply Fr.ite
    | dsimp only
    | split

theorem State.resetHistory_fr (s : State) :
    Fr [.queues, .jobs, .render, .land, .play, .beam, .log, .out] s (State.resetHistory s) := by
  unfold State.resetHistory
  repeat' first
    | intro _
    | with_reducible apply Fr.refl
    | with_reducible assumption
    | (with_reducible apply Fr.step (State.loseHistory_fr ..); decide)
    | (with_reducible apply Fr.step (State.stopCause_fr ..); decide)
    | with_reducible apply Fr.ite
    | dsimp only
    | split

theorem State.blankBeams_fr (s : State) (f : Nat → Bool) :
    Fr [.play] s (State.blankBeams s f) := by
  unfold State.blankBeams
  repeat' first
    | intro _
    | with_reducible apply Fr.refl
    | with_reducible assumption
    | (with_reducible apply Fr.step (State.onPlay_fr ..); decide)
    | with_reducible apply Fr.ite
    | dsimp only
    | split

theorem State.beamFault_fr (s : State) (e : Event) :
    Fr [.queues, .jobs, .render, .land, .play, .log, .out] s (State.beamFault s e) := by
  unfold State.beamFault
  repeat' first
    | intro _
    | with_reducible apply Fr.refl
    | with_reducible assumption
    | (with_reducible apply Fr.step (State.stopCause_fr ..); decide)
    | (with_reducible apply Fr.step (State.fault_fr ..); decide)
    | with_reducible apply Fr.ite
    | dsimp only
    | split

theorem execHistoryParityError_fr (b : BitVec 18) (s : State) :
    FrA [.queues, .jobs, .render, .land, .play, .beam, .repair, .log, .out] s (execHistoryParityError b s) := by
  unfold execHistoryParityError
  repeat' first
    | intro _
    | with_reducible apply Fr.refl
    | with_reducible assumption
    | with_reducible apply FrA.next
    | (with_reducible apply Fr.step (State.loseHistory_fr ..); decide)
    | (with_reducible apply Fr.step (State.quarantine_fr ..); decide)
    | (with_reducible apply Fr.step (State.blankBeams_fr ..); decide)
    | (with_reducible apply Fr.step (State.stopCause_fr ..); decide)
    | (with_reducible apply Fr.step (State.fault_fr ..); decide)
    | with_reducible apply FrA.ite
    | with_reducible apply Fr.ite
    | dsimp only
    | split

theorem execEnforcedIdleEnd_fr (s : State) :
    FrA [.beam] s (execEnforcedIdleEnd s) := by
  unfold execEnforcedIdleEnd
  repeat' first
    | intro _
    | with_reducible apply Fr.refl
    | with_reducible assumption
    | with_reducible apply FrA.next
    | (with_reducible apply Fr.step (State.onBeam_fr ..); decide)
    | with_reducible apply FrA.ite
    | with_reducible apply Fr.ite
    | dsimp only
    | split

theorem execGainParityError_fr (b : BitVec 18) (s : State) :
    FrA [.queues, .jobs, .render, .land, .play, .beam, .repair, .log, .out] s (execGainParityError b s) := by
  unfold execGainParityError
  repeat' first
    | intro _
    | with_reducible apply Fr.refl
    | with_reducible assumption
    | with_reducible apply FrA.next
    | (with_reducible apply Fr.step (State.onBeam_fr ..); decide)
    | (with_reducible apply Fr.step (State.onRepairRec_fr ..); decide)
    | (with_reducible apply Fr.step (State.blankBeams_fr ..); decide)
    | (with_reducible apply Fr.step (State.beamFault_fr ..); decide)
    | with_reducible apply FrA.ite
    | with_reducible apply Fr.ite
    | dsimp only
    | split

theorem State.softError_fr (s : State) (b : Nat) :
    Fr [.queues, .play, .repair, .log, .out] s (State.softError s b) := by
  unfold State.softError
  repeat' first
    | intro _
    | with_reducible apply Fr.refl
    | with_reducible assumption
    | (with_reducible apply Fr.step (State.onPlay_fr ..); decide)
    | (with_reducible apply Fr.step (State.quarantine_fr ..); decide)
    | with_reducible apply Fr.ite
    | dsimp only
    | split

theorem State.windowLost_fr (s : State) (n r word : Nat) :
    Fr [.queues, .jobs, .render, .land, .play, .repair, .log, .out] s (State.windowLost s n r word) := by
  unfold State.windowLost
  repeat' first
    | intro _
    | with_reducible apply Fr.refl
    | with_reducible assumption
    | (with_reducible apply Fr.step (State.onPlay_fr ..); decide)
    | (with_reducible apply Fr.step (State.quarantine_fr ..); decide)
    | (with_reducible apply Fr.step (State.fault_fr ..); decide)
    | (with_reducible apply Fr.step (State.blankBeams_fr ..); decide)
    | (with_reducible apply Fr.step (State.beamFault_fr ..); decide)
    | with_reducible apply Fr.ite
    | dsimp only
    | split

theorem execWindowEccUncorrectable_fr (bank : BitVec 12) (read : WindowRead) (s : State) :
    FrA [.queues, .jobs, .render, .land, .play, .repair, .log, .out] s (execWindowEccUncorrectable bank read s) := by
  unfold execWindowEccUncorrectable
  repeat' first
    | intro _
    | with_reducible apply Fr.refl
    | with_reducible assumption
    | with_reducible apply FrA.next
    | (with_reducible apply Fr.step (State.softError_fr ..); decide)
    | (with_reducible apply Fr.step (State.windowLost_fr ..); decide)
    | with_reducible apply FrA.ite
    | with_reducible apply Fr.ite
    | dsimp only
    | split

theorem State.deficitParity_fr (s : State) (k : Nat) :
    Fr [.queues, .jobs, .play, .repair, .log, .out] s (State.deficitParity s k) := by
  unfold State.deficitParity
  repeat' first
    | intro _
    | with_reducible apply Fr.refl
    | with_reducible assumption
    | (with_reducible apply Fr.step (State.onStripe_fr ..); decide)
    | (with_reducible apply Fr.step (State.onPlay_fr ..); decide)
    | (with_reducible apply Fr.step (State.onRepairRec_fr ..); decide)
    | (with_reducible apply Fr.step (State.faultSt_fr ..); decide)
    | with_reducible apply Fr.ite
    | dsimp only
    | split

theorem execDatapathMismatch_fr (unit : Datapath) (s : State) :
    FrA [.queues, .jobs, .render, .land, .play, .stage, .repair, .log, .out] s (execDatapathMismatch unit s) := by
  unfold execDatapathMismatch
  repeat' first
    | intro _
    | with_reducible apply Fr.refl
    | with_reducible assumption
    | with_reducible apply FrA.next
    | (with_reducible apply Fr.step (State.unitFault_fr ..); decide)
    | (with_reducible apply Fr.step (State.beamFault_fr ..); decide)
    | (with_reducible apply Fr.step (State.integrityFault_fr ..); decide)
    | (with_reducible apply Fr.step (State.deficitParity_fr ..); decide)
    | with_reducible apply FrA.ite
    | with_reducible apply Fr.ite
    | dsimp only
    | split

end Sys2Proof.Machine
end

