-- ==== Sys2Proof/Laws/Cams.lean ====
section
/-!
SUPPORT. What each function and each meaning of Machine/Cams.lean may change.
-/

namespace Sys2Proof.Machine

theorem State.onCam_fr (s : State) (n : Nat) (f : Cam → Cam) :
    Fr [.cams] s (State.onCam s n f) := by
  unfold State.onCam
  repeat' first
    | intro _
    | with_reducible apply Fr.refl
    | with_reducible assumption
    | (with_reducible apply Fr.step (State.onCams_fr ..); decide)
    | with_reducible apply Fr.ite
    | dsimp only
    | split

theorem execCamConfig_fr (src : Src) (cam : BitVec 2) (r : CamRec) (s : State) :
    FrA [.queues, .mailboxes, .cams, .out] s (execCamConfig src cam r s) := by
  unfold execCamConfig
  repeat' first
    | intro _
    | with_reducible apply Fr.refl
    | with_reducible assumption
    | with_reducible apply FrA.next
    | (with_reducible apply State.command_fr; decide)
    | (with_reducible apply Fr.step (State.onCam_fr ..); decide)
    | (with_reducible apply Fr.step (State.ok_fr ..); decide)
    | with_reducible apply FrA.ite
    | with_reducible apply Fr.ite
    | dsimp only
    | split

theorem State.ringPut_fr (s : State) (n : Nat) (xs : List Word) :
    Fr [.bytes, .cams] s (State.ringPut s n xs) := by
  induction xs generalizing s n with
  | nil => exact Fr.refl _ _
  | cons x xs ih =>
    unfold State.ringPut
    repeat' first
        | intro _
        | with_reducible apply Fr.refl
        | with_reducible assumption
        | with_reducible apply fun h => Fr.trans h (ih _ _)
        | (with_reducible apply Fr.step (State.write_fr ..); decide)
        | (with_reducible apply Fr.step (State.onCam_fr ..); decide)
        | with_reducible apply Fr.ite
        | dsimp only
        | split

theorem State.flushDrops_fr (s : State) (n : Nat) (xs : Nat) :
    Fr [.bytes, .cams] s (State.flushDrops s n xs) := by
  induction xs generalizing s n with
  | zero => exact Fr.refl _ _
  | succ n ih =>
    unfold State.flushDrops
    repeat' first
        | intro _
        | with_reducible apply Fr.refl
        | with_reducible assumption
        | with_reducible apply fun h => Fr.trans h (ih _ _)
        | (with_reducible apply Fr.step (State.ringPut_fr ..); decide)
        | (with_reducible apply Fr.step (State.onCam_fr ..); decide)
        | with_reducible apply Fr.ite
        | dsimp only
        | split

theorem State.settleCam_fr (s : State) (n : Nat) :
    Fr [.cams] s (State.settleCam s n) := by
  unfold State.settleCam
  repeat' first
    | intro _
    | with_reducible apply Fr.refl
    | with_reducible assumption
    | (with_reducible apply Fr.step (State.onCam_fr ..); decide)
    | with_reducible apply Fr.ite
    | dsimp only
    | split

theorem State.gainRetry_fr (s : State) (n num : Nat) :
    Fr [.queues, .mailboxes, .waiting, .link, .plate, .meas, .repair, .ref, .log, .out] s (State.gainRetry s n num) := by
  unfold State.gainRetry
  repeat' first
    | intro _
    | with_reducible apply Fr.refl
    | with_reducible assumption
    | (with_reducible apply Fr.step (State.onMeas_fr ..); decide)
    | (with_reducible apply Fr.step (State.endPair_fr ..); decide)
    | with_reducible apply Fr.ite
    | dsimp only
    | split

theorem State.dropFrame_fr (s : State) (n num cause : Nat) :
    Fr [.queues, .mailboxes, .waiting, .bytes, .link, .plate, .cams, .meas, .repair, .ref, .log, .out] s (State.dropFrame s n num cause) := by
  unfold State.dropFrame
  repeat' first
    | intro _
    | with_reducible apply Fr.refl
    | with_reducible assumption
    | (with_reducible apply Fr.step (State.onCam_fr ..); decide)
    | (with_reducible apply Fr.step (State.onCams_fr ..); decide)
    | (with_reducible apply Fr.step (State.flushDrops_fr ..); decide)
    | (with_reducible apply Fr.step (State.settleCam_fr ..); decide)
    | (with_reducible apply Fr.step (State.gainRetry_fr ..); decide)
    | with_reducible apply Fr.ite
    | dsimp only
    | split

theorem State.dropNewest_fr (s : State) (n cause : Nat) :
    Fr [.queues, .mailboxes, .waiting, .bytes, .link, .plate, .cams, .meas, .repair, .ref, .log, .out] s (State.dropNewest s n cause) := by
  unfold State.dropNewest
  repeat' first
    | intro _
    | with_reducible apply Fr.refl
    | with_reducible assumption
    | (with_reducible apply Fr.step (State.dropFrame_fr ..); decide)
    | with_reducible apply Fr.ite
    | dsimp only
    | split

theorem State.readId_fr (s : State) (n : Nat) :
    Fr [.out] s (State.readId s n) := by
  unfold State.readId
  repeat' first
    | intro _
    | with_reducible apply Fr.refl
    | with_reducible assumption
    | (with_reducible apply Fr.step (State.emit_fr ..); decide)
    | with_reducible apply Fr.ite
    | dsimp only
    | split

theorem State.failXfers_fr (s : State) (n : Nat) :
    Fr [.queues, .mailboxes, .waiting, .cams, .out] s (State.failXfers s n) := by
  unfold State.failXfers
  repeat' first
    | intro _
    | with_reducible apply Fr.refl
    | with_reducible assumption
    | (with_reducible apply Fr.step (State.unwait_fr ..); decide)
    | (with_reducible apply Fr.step (State.fail_fr ..); decide)
    | (with_reducible apply Fr.step (State.onCam_fr ..); decide)
    | (with_reducible apply Fr.foldl)
    | with_reducible apply Fr.ite
    | dsimp only
    | split

theorem State.camDeparts_fr (s : State) (n : Nat) :
    Fr [.queues, .mailboxes, .waiting, .cams, .out] s (State.camDeparts s n) := by
  unfold State.camDeparts
  repeat' first
    | intro _
    | with_reducible apply Fr.refl
    | with_reducible assumption
    | (with_reducible apply Fr.step (State.onCam_fr ..); decide)
    | (with_reducible apply Fr.step (State.failXfers_fr ..); decide)
    | (with_reducible apply Fr.step (State.raise_fr ..); decide)
    | with_reducible apply Fr.ite
    | dsimp only
    | split

theorem execPclkCheck_fr (cam : BitVec 2) (khz : BitVec 32) (s : State) :
    FrA [.queues, .mailboxes, .waiting, .bytes, .link, .plate, .cams, .meas, .repair, .ref, .log, .out] s (execPclkCheck cam khz s) := by
  unfold execPclkCheck
  repeat' first
    | intro _
    | with_reducible apply Fr.refl
    | with_reducible assumption
    | with_reducible apply FrA.next
    | (with_reducible apply Fr.step (State.onCam_fr ..); decide)
    | (with_reducible apply Fr.step (State.dropFrame_fr ..); decide)
    | (with_reducible apply Fr.step (State.camDeparts_fr ..); decide)
    | (with_reducible apply Fr.step (State.readId_fr ..); decide)
    | with_reducible apply FrA.ite
    | with_reducible apply Fr.ite
    | dsimp only
    | split

theorem State.camArrives_fr (s : State) (n id : Nat) :
    Fr [.queues, .cams, .out] s (State.camArrives s n id) := by
  unfold State.camArrives
  repeat' first
    | intro _
    | with_reducible apply Fr.refl
    | with_reducible assumption
    | (with_reducible apply Fr.step (State.onCam_fr ..); decide)
    | (with_reducible apply Fr.step (State.raise_fr ..); decide)
    | with_reducible apply Fr.ite
    | dsimp only
    | split

theorem State.idRead_fr (s : State) (n : Nat) (ack : Bool) (data : List Byte) :
    Fr [.queues, .cams, .out] s (State.idRead s n ack data) := by
  unfold State.idRead
  repeat' first
    | intro _
    | with_reducible apply Fr.refl
    | with_reducible assumption
    | (with_reducible apply Fr.step (State.onCam_fr ..); decide)
    | (with_reducible apply Fr.step (State.camArrives_fr ..); decide)
    | (with_reducible apply Fr.step (State.raise_fr ..); decide)
    | with_reducible apply Fr.ite
    | dsimp only
    | split

theorem execCamHealthPoll_fr (cam : BitVec 2) (ack : Bool) (s : State) :
    FrA [.queues, .mailboxes, .waiting, .cams, .out] s (execCamHealthPoll cam ack s) := by
  unfold execCamHealthPoll
  repeat' first
    | intro _
    | with_reducible apply Fr.refl
    | with_reducible assumption
    | with_reducible apply FrA.next
    | (with_reducible apply Fr.step (State.readId_fr ..); decide)
    | (with_reducible apply Fr.step (State.onCam_fr ..); decide)
    | (with_reducible apply Fr.step (State.camDeparts_fr ..); decide)
    | with_reducible apply FrA.ite
    | with_reducible apply Fr.ite
    | dsimp only
    | split

theorem execCamSettings_fr (src : Src) (cam : BitVec 2) (slot : SettingsSlot) (s : State) :
    FrA [.queues, .mailboxes, .cams, .out] s (execCamSettings src cam slot s) := by
  unfold execCamSettings
  repeat' first
    | intro _
    | with_reducible apply Fr.refl
    | with_reducible assumption
    | with_reducible apply FrA.next
    | (with_reducible apply State.command_fr; decide)
    | (with_reducible apply Fr.step (State.onCam_fr ..); decide)
    | (with_reducible apply Fr.step (State.ok_fr ..); decide)
    | with_reducible apply FrA.ite
    | with_reducible apply Fr.ite
    | dsimp only
    | split

theorem State.nextXfer_fr (s : State) (n : Nat) :
    Fr [.cams, .out] s (State.nextXfer s n) := by
  unfold State.nextXfer
  repeat' first
    | intro _
    | with_reducible apply Fr.refl
    | with_reducible assumption
    | (with_reducible apply Fr.step (State.onCam_fr ..); decide)
    | (with_reducible apply Fr.step (State.emit_fr ..); decide)
    | with_reducible apply Fr.ite
    | dsimp only
    | split

theorem execCamI2cXfer_fr (src : Src) (cam : BitVec 2) (wdata : List Byte) (rlen : BitVec 7) (s : State) :
    FrA [.queues, .mailboxes, .waiting, .cams, .out] s (execCamI2cXfer src cam wdata rlen s) := by
  unfold execCamI2cXfer
  repeat' first
    | intro _
    | with_reducible apply Fr.refl
    | with_reducible assumption
    | with_reducible apply FrA.next
    | (with_reducible apply State.command_fr; decide)
    | (with_reducible apply Fr.step (State.onCam_fr ..); decide)
    | (with_reducible apply Fr.step (State.wait_fr ..); decide)
    | (with_reducible apply Fr.step (State.nextXfer_fr ..); decide)
    | with_reducible apply FrA.ite
    | with_reducible apply Fr.ite
    | dsimp only
    | split

theorem State.openWindow_fr (s : State) (n : Nat) :
    Fr [.cams, .out] s (State.openWindow s n) := by
  unfold State.openWindow
  repeat' first
    | intro _
    | with_reducible apply Fr.refl
    | with_reducible assumption
    | (with_reducible apply Fr.step (State.onCam_fr ..); decide)
    | (with_reducible apply Fr.step (State.emit_fr ..); decide)
    | (with_reducible apply Fr.step (State.nextXfer_fr ..); decide)
    | with_reducible apply Fr.ite
    | dsimp only
    | split

theorem State.slotSent_fr (s : State) (n : Nat) (p : SettingsSlot × BitVec 32 × Nat) (ack : Bool) :
    Fr [.queues, .cams, .log, .out] s (State.slotSent s n p ack) := by
  unfold State.slotSent
  repeat' first
    | intro _
    | with_reducible apply Fr.refl
    | with_reducible assumption
    | (with_reducible apply Fr.step (State.onCam_fr ..); decide)
    | (with_reducible apply Fr.step (State.raise_fr ..); decide)
    | (with_reducible apply Fr.step (State.fault_fr ..); decide)
    | (with_reducible apply Fr.step (State.nextXfer_fr ..); decide)
    | with_reducible apply Fr.ite
    | dsimp only
    | split

theorem State.xferDone_fr (s : State) (n : Nat) (x : I2cXfer) (ack : Bool) (data : List Byte) :
    Fr [.queues, .mailboxes, .waiting, .cams, .out] s (State.xferDone s n x ack data) := by
  unfold State.xferDone
  repeat' first
    | intro _
    | with_reducible apply Fr.refl
    | with_reducible assumption
    | (with_reducible apply Fr.step (State.onCam_fr ..); decide)
    | (with_reducible apply Fr.step (State.unwait_fr ..); decide)
    | (with_reducible apply Fr.step (State.ok_fr ..); decide)
    | (with_reducible apply Fr.step (State.fail_fr ..); decide)
    | (with_reducible apply Fr.step (State.nextXfer_fr ..); decide)
    | with_reducible apply Fr.ite
    | dsimp only
    | split

theorem execI2cTransferComplete_fr (cam : BitVec 2) (ack : Bool) (data : List Byte) (s : State) :
    FrA [.queues, .mailboxes, .waiting, .cams, .log, .out] s (execI2cTransferComplete cam ack data s) := by
  unfold execI2cTransferComplete
  repeat' first
    | intro _
    | with_reducible apply Fr.refl
    | with_reducible assumption
    | with_reducible apply FrA.next
    | (with_reducible apply Fr.step (State.idRead_fr ..); decide)
    | (with_reducible apply Fr.step (State.slotSent_fr ..); decide)
    | (with_reducible apply Fr.step (State.xferDone_fr ..); decide)
    | with_reducible apply FrA.ite
    | with_reducible apply Fr.ite
    | dsimp only
    | split

theorem execCamLineStart_fr (cam : BitVec 2) (s : State) :
    FrA [.queues, .mailboxes, .waiting, .bytes, .link, .plate, .cams, .meas, .repair, .ref, .log, .out] s (execCamLineStart cam s) := by
  unfold execCamLineStart
  repeat' first
    | intro _
    | with_reducible apply Fr.refl
    | with_reducible assumption
    | with_reducible apply FrA.next
    | (with_reducible apply Fr.step (State.dropNewest_fr ..); decide)
    | (with_reducible apply Fr.step (State.dropFrame_fr ..); decide)
    | (with_reducible apply Fr.step (State.onCam_fr ..); decide)
    | with_reducible apply FrA.ite
    | with_reducible apply Fr.ite
    | dsimp only
    | split

theorem execCamLineReceived_fr (cam : BitVec 2) (pixels : List (BitVec 16)) (s : State) :
    FrA [.queues, .mailboxes, .waiting, .bytes, .link, .plate, .cams, .meas, .repair, .ref, .log, .out] s (execCamLineReceived cam pixels s) := by
  unfold execCamLineReceived
  repeat' first
    | intro _
    | with_reducible apply Fr.refl
    | with_reducible assumption
    | with_reducible apply FrA.next
    | (with_reducible apply Fr.step (State.dropFrame_fr ..); decide)
    | (with_reducible apply Fr.step (State.onCam_fr ..); decide)
    | (with_reducible apply Fr.step (State.onCams_fr ..); decide)
    | with_reducible apply FrA.ite
    | with_reducible apply Fr.ite
    | dsimp only
    | split

theorem execPipelineLineComplete_fr (s : State) :
    FrA [.cams] s (execPipelineLineComplete s) := by
  unfold execPipelineLineComplete
  repeat' first
    | intro _
    | with_reducible apply Fr.refl
    | with_reducible assumption
    | with_reducible apply FrA.next
    | (with_reducible apply Fr.step (State.onCams_fr ..); decide)
    | (with_reducible apply Fr.step (State.onCam_fr ..); decide)
    | with_reducible apply FrA.ite
    | with_reducible apply Fr.ite
    | dsimp only
    | split

theorem execCamFrameStart_fr (cam : BitVec 2) (s : State) :
    FrA [.queues, .mailboxes, .waiting, .bytes, .link, .plate, .cams, .meas, .repair, .ref, .log, .out] s (execCamFrameStart cam s) := by
  unfold execCamFrameStart
  repeat' first
    | intro _
    | with_reducible apply Fr.refl
    | with_reducible assumption
    | with_reducible apply FrA.next
    | (with_reducible apply Fr.step (State.onCam_fr ..); decide)
    | (with_reducible apply Fr.step (State.draw_fr ..); decide)
    | (with_reducible apply Fr.step (State.dropFrame_fr ..); decide)
    | with_reducible apply FrA.ite
    | with_reducible apply Fr.ite
    | dsimp only
    | split

theorem State.gainEdge_fr (s : State) (n : Nat) :
    Fr [.meas] s (State.gainEdge s n) := by
  unfold State.gainEdge
  repeat' first
    | intro _
    | with_reducible apply Fr.refl
    | with_reducible assumption
    | (with_reducible apply Fr.step (State.onMeas_fr ..); decide)
    | with_reducible apply Fr.ite
    | dsimp only
    | split

theorem execCamFrameEnd_fr (cam : BitVec 2) (s : State) :
    FrA [.queues, .mailboxes, .waiting, .bytes, .link, .plate, .cams, .meas, .repair, .ref, .log, .out] s (execCamFrameEnd cam s) := by
  unfold execCamFrameEnd
  repeat' first
    | intro _
    | with_reducible apply Fr.refl
    | with_reducible assumption
    | with_reducible apply FrA.next
    | (with_reducible apply Fr.step (State.onCam_fr ..); decide)
    | (with_reducible apply Fr.step (State.gainRetry_fr ..); decide)
    | (with_reducible apply Fr.step (State.dropFrame_fr ..); decide)
    | (with_reducible apply Fr.step (State.draw_fr ..); decide)
    | (with_reducible apply Fr.step (State.onCams_fr ..); decide)
    | (with_reducible apply Fr.step (State.openWindow_fr ..); decide)
    | (with_reducible apply Fr.step (State.gainEdge_fr ..); decide)
    | with_reducible apply FrA.ite
    | with_reducible apply Fr.ite
    | dsimp only
    | split

theorem execLocatorComplete_fr (s : State) :
    FrA [.cams] s (execLocatorComplete s) := by
  unfold execLocatorComplete
  repeat' first
    | intro _
    | with_reducible apply Fr.refl
    | with_reducible assumption
    | with_reducible apply FrA.next
    | (with_reducible apply Fr.step (State.onCam_fr ..); decide)
    | (with_reducible apply Fr.step (State.onCams_fr ..); decide)
    | with_reducible apply FrA.ite
    | with_reducible apply Fr.ite
    | dsimp only
    | split

theorem State.align_fr (s : State) (n : Nat) (found : List (Template × Located)) :
    Fr [.queues, .beam, .out] s (State.align s n found) := by
  unfold State.align
  repeat' first
    | intro _
    | with_reducible apply Fr.refl
    | with_reducible assumption
    | (with_reducible apply Fr.step (State.sealFit_fr ..); decide)
    | (with_reducible apply Fr.step (State.raise_fr ..); decide)
    | with_reducible apply Fr.ite
    | dsimp only
    | split

theorem State.gainFrame_fr (s : State) (n num : Nat) (good : Bool) (spots : List Nat) :
    Fr [.queues, .mailboxes, .waiting, .link, .plate, .meas, .repair, .ref, .log, .out] s (State.gainFrame s n num good spots) := by
  unfold State.gainFrame
  repeat' first
    | intro _
    | with_reducible apply Fr.refl
    | with_reducible assumption
    | (with_reducible apply Fr.step (State.onMeas_fr ..); decide)
    | (with_reducible apply Fr.step (State.gainRetry_fr ..); decide)
    | with_reducible apply Fr.ite
    | dsimp only
    | split

theorem execCamFramePublish_fr (cam : BitVec 2) (s : State) :
    FrA [.queues, .mailboxes, .waiting, .bytes, .beam, .link, .plate, .cams, .meas, .repair, .ref, .log, .out] s (execCamFramePublish cam s) := by
  unfold execCamFramePublish
  repeat' first
    | intro _
    | with_reducible apply Fr.refl
    | with_reducible assumption
    | with_reducible apply FrA.next
    | (with_reducible apply Fr.step (State.onCam_fr ..); decide)
    | (with_reducible apply Fr.step (State.ringPut_fr ..); decide)
    | (with_reducible apply Fr.step (State.flushDrops_fr ..); decide)
    | (with_reducible apply Fr.step (State.settleCam_fr ..); decide)
    | (with_reducible apply Fr.step (State.raise_fr ..); decide)
    | (with_reducible apply Fr.step (State.align_fr ..); decide)
    | (with_reducible apply Fr.step (State.draw_fr ..); decide)
    | (with_reducible apply Fr.step (State.gainFrame_fr ..); decide)
    | with_reducible apply FrA.ite
    | with_reducible apply Fr.ite
    | dsimp only
    | split

theorem execCamParityError_fr (cam : BitVec 2) (unit : BitVec 2) (s : State) :
    FrA [.queues, .mailboxes, .waiting, .bytes, .link, .plate, .cams, .meas, .repair, .ref, .log, .out] s (execCamParityError cam unit s) := by
  unfold execCamParityError
  repeat' first
    | intro _
    | with_reducible apply Fr.refl
    | with_reducible assumption
    | with_reducible apply FrA.next
    | (with_reducible apply Fr.step (State.dropFrame_fr ..); decide)
    | (with_reducible apply Fr.step (State.unitFault_fr ..); decide)
    | (with_reducible apply Fr.step (State.fault_fr ..); decide)
    | with_reducible apply FrA.ite
    | with_reducible apply Fr.ite
    | dsimp only
    | split

theorem execCamStart_fr (src : Src) (cam : BitVec 2) (frames : BitVec 32) (s : State) :
    FrA [.queues, .mailboxes, .cams, .out] s (execCamStart src cam frames s) := by
  unfold execCamStart
  repeat' first
    | intro _
    | with_reducible apply Fr.refl
    | with_reducible assumption
    | with_reducible apply FrA.next
    | (with_reducible apply State.command_fr; decide)
    | (with_reducible apply Fr.step (State.onCam_fr ..); decide)
    | (with_reducible apply Fr.step (State.ok_fr ..); decide)
    | with_reducible apply FrA.ite
    | with_reducible apply Fr.ite
    | dsimp only
    | split

theorem execCamStop_fr (src : Src) (cam : BitVec 2) (abort : Bool) (s : State) :
    FrA [.queues, .mailboxes, .waiting, .bytes, .link, .plate, .cams, .meas, .repair, .ref, .log, .out] s (execCamStop src cam abort s) := by
  unfold execCamStop
  repeat' first
    | intro _
    | with_reducible apply Fr.refl
    | with_reducible assumption
    | with_reducible apply FrA.next
    | (with_reducible apply State.command_fr; decide)
    | (with_reducible apply Fr.step (State.onCam_fr ..); decide)
    | (with_reducible apply Fr.step (State.dropFrame_fr ..); decide)
    | (with_reducible apply Fr.step (State.ok_fr ..); decide)
    | (with_reducible apply Fr.step (State.settleCam_fr ..); decide)
    | (with_reducible apply Fr.step (State.wait_fr ..); decide)
    | (with_reducible apply Fr.foldl)
    | with_reducible apply FrA.ite
    | with_reducible apply Fr.ite
    | dsimp only
    | split

theorem execCamDefects_fr (src : Src) (cam : BitVec 2) (buf : BufRef) (s : State) :
    FrA [.queues, .mailboxes, .cams, .out] s (execCamDefects src cam buf s) := by
  unfold execCamDefects
  repeat' first
    | intro _
    | with_reducible apply Fr.refl
    | with_reducible assumption
    | with_reducible apply FrA.next
    | (with_reducible apply State.command_fr; decide)
    | (with_reducible apply Fr.step (State.onCam_fr ..); decide)
    | (with_reducible apply Fr.step (State.ok_fr ..); decide)
    | with_reducible apply FrA.ite
    | with_reducible apply Fr.ite
    | dsimp only
    | split

theorem execCamShading_fr (src : Src) (cam : BitVec 2) (buf : BufRef) (s : State) :
    FrA [.queues, .mailboxes, .cams, .out] s (execCamShading src cam buf s) := by
  unfold execCamShading
  repeat' first
    | intro _
    | with_reducible apply Fr.refl
    | with_reducible assumption
    | with_reducible apply FrA.next
    | (with_reducible apply State.command_fr; decide)
    | (with_reducible apply Fr.step (State.onCam_fr ..); decide)
    | (with_reducible apply Fr.step (State.ok_fr ..); decide)
    | with_reducible apply FrA.ite
    | with_reducible apply Fr.ite
    | dsimp only
    | split

theorem execCamTemplate_fr (src : Src) (cam : BitVec 2) (t : TemplateRec) (buf : BufRef) (s : State) :
    FrA [.queues, .mailboxes, .cams, .out] s (execCamTemplate src cam t buf s) := by
  unfold execCamTemplate
  repeat' first
    | intro _
    | with_reducible apply Fr.refl
    | with_reducible assumption
    | with_reducible apply FrA.next
    | (with_reducible apply State.command_fr; decide)
    | (with_reducible apply Fr.step (State.onCam_fr ..); decide)
    | (with_reducible apply Fr.step (State.ok_fr ..); decide)
    | with_reducible apply FrA.ite
    | with_reducible apply Fr.ite
    | dsimp only
    | split

theorem execCamSpotgrid_fr (src : Src) (cam : BitVec 2) (g : SpotGrid) (s : State) :
    FrA [.queues, .mailboxes, .cams, .out] s (execCamSpotgrid src cam g s) := by
  unfold execCamSpotgrid
  repeat' first
    | intro _
    | with_reducible apply Fr.refl
    | with_reducible assumption
    | with_reducible apply FrA.next
    | (with_reducible apply Fr.step (State.onCam_fr ..); decide)
    | (with_reducible apply Fr.step (State.ok_fr ..); decide)
    | with_reducible apply FrA.ite
    | with_reducible apply Fr.ite
    | dsimp only
    | split

theorem State.setRing_fr (s : State) (src : Src) (n : Nat) (buf : BufRef) :
    Fr [.queues, .mailboxes, .cams, .dma, .out] s (State.setRing s src n buf) := by
  unfold State.setRing
  repeat' first
    | intro _
    | with_reducible apply Fr.refl
    | with_reducible assumption
    | (with_reducible apply Fr.step (State.onAhead_fr ..); decide)
    | (with_reducible apply Fr.step (State.onCam_fr ..); decide)
    | (with_reducible apply Fr.step (State.ok_fr ..); decide)
    | with_reducible apply Fr.ite
    | dsimp only
    | split

theorem execCamRing_fr (src : Src) (cam : BitVec 2) (buf : BufRef) (s : State) :
    FrA [.queues, .mailboxes, .waiting, .cams, .dma, .out] s (execCamRing src cam buf s) := by
  unfold execCamRing
  repeat' first
    | intro _
    | with_reducible apply Fr.refl
    | with_reducible assumption
    | with_reducible apply FrA.next
    | (with_reducible apply State.command_fr; decide)
    | (with_reducible apply Fr.step (State.unbindQueue_fr ..); decide)
    | (with_reducible apply Fr.step (State.wait_fr ..); decide)
    | (with_reducible apply Fr.step (State.setRing_fr ..); decide)
    | with_reducible apply FrA.ite
    | with_reducible apply Fr.ite
    | dsimp only
    | split

theorem execCamStatus_fr (src : Src) (cam : BitVec 2) (s : State) :
    FrA [.queues, .mailboxes, .out] s (execCamStatus src cam s) := by
  unfold execCamStatus
  repeat' first
    | intro _
    | with_reducible apply Fr.refl
    | with_reducible assumption
    | with_reducible apply FrA.next
    | (with_reducible apply Fr.step (State.ok_fr ..); decide)
    | with_reducible apply FrA.ite
    | with_reducible apply Fr.ite
    | dsimp only
    | split

end Sys2Proof.Machine
end

