-- ==== Sys2Proof/Laws/Meas.lean ====
section
/-!
SUPPORT. What each function and each meaning of Machine/Meas.lean may change.
-/

namespace Sys2Proof.Machine

theorem State.onItem_fr (s : State) (k : Nat) (f : Trim → Trim) :
    Fr [.meas] s (State.onItem s k f) := by
  unfold State.onItem
  repeat' first
    | intro _
    | with_reducible apply Fr.refl
    | with_reducible assumption
    | (with_reducible apply Fr.step (State.onMeas_fr ..); decide)
    | with_reducible apply Fr.ite
    | dsimp only
    | split

theorem State.acquire_fr (s : State) (xs : List Sample) (a : Acq) :
    Fr [.bytes] s (State.acquire s xs a).1 := by
  unfold State.acquire
  repeat' first
    | intro _
    | with_reducible apply Fr.refl
    | with_reducible assumption
    | (with_reducible apply Fr.step (State.write_fr ..); decide)
    | with_reducible apply Fr.ite
    | dsimp only
    | split

theorem State.acquireAll_fr (s : State) (xs : List Sample) :
    Fr [.bytes, .meas] s (State.acquireAll s xs) := by
  unfold State.acquireAll
  repeat' first
    | intro _
    | with_reducible apply Fr.refl
    | with_reducible assumption
    | (with_reducible apply Fr.step (State.acquire_fr ..); decide)
    | (with_reducible apply Fr.step (State.onMeas_fr ..); decide)
    | (with_reducible apply Fr.foldl)
    | with_reducible apply Fr.ite
    | dsimp only
    | split

theorem State.cupSample_fr (s : State) (xs : List Sample) :
    Fr [.queues, .mailboxes, .waiting, .link, .plate, .meas, .repair, .ref, .log, .out] s (State.cupSample s xs) := by
  unfold State.cupSample
  repeat' first
    | intro _
    | with_reducible apply Fr.refl
    | with_reducible assumption
    | (with_reducible apply Fr.step (State.endPair_fr ..); decide)
    | (with_reducible apply Fr.step (State.onMeas_fr ..); decide)
    | with_reducible apply Fr.ite
    | dsimp only
    | split

theorem execBcSample_fr (codes : List Int) (s : State) :
    FrA [.queues, .mailboxes, .waiting, .bytes, .link, .plate, .meas, .repair, .ref, .log, .out] s (execBcSample codes s) := by
  unfold execBcSample
  repeat' first
    | intro _
    | with_reducible apply Fr.refl
    | with_reducible assumption
    | with_reducible apply FrA.next
    | (with_reducible apply Fr.step (State.acquireAll_fr ..); decide)
    | (with_reducible apply Fr.step (State.onMeas_fr ..); decide)
    | (with_reducible apply Fr.step (State.cupSample_fr ..); decide)
    | with_reducible apply FrA.ite
    | with_reducible apply Fr.ite
    | dsimp only
    | split

theorem execCalAcquire_fr (src : Src) (d : AcqDesc) (s : State) :
    FrA [.queues, .mailboxes, .waiting, .meas, .out] s (execCalAcquire src d s) := by
  unfold execCalAcquire
  repeat' first
    | intro _
    | with_reducible apply Fr.refl
    | with_reducible assumption
    | with_reducible apply FrA.next
    | (with_reducible apply State.command_fr; decide)
    | (with_reducible apply Fr.step (State.onMeas_fr ..); decide)
    | (with_reducible apply Fr.step (State.wait_fr ..); decide)
    | (with_reducible apply Fr.foldl)
    | with_reducible apply FrA.ite
    | with_reducible apply Fr.ite
    | dsimp only
    | split

theorem execAcquisitionComplete_fr (mb : BitVec 4) (parity : Bool) (s : State) :
    FrA [.queues, .mailboxes, .waiting, .meas, .repair, .log, .out] s (execAcquisitionComplete mb parity s) := by
  unfold execAcquisitionComplete
  repeat' first
    | intro _
    | with_reducible apply Fr.refl
    | with_reducible assumption
    | with_reducible apply FrA.next
    | (with_reducible apply Fr.step (State.onMeas_fr ..); decide)
    | (with_reducible apply Fr.step (State.unwait_fr ..); decide)
    | (with_reducible apply Fr.step (State.unitFault_fr ..); decide)
    | (with_reducible apply Fr.step (State.fault_fr ..); decide)
    | (with_reducible apply Fr.step (State.fail_fr ..); decide)
    | (with_reducible apply Fr.step (State.ok_fr ..); decide)
    | (with_reducible apply Fr.step (State.draw_fr ..); decide)
    | with_reducible apply FrA.ite
    | with_reducible apply Fr.ite
    | dsimp only
    | split

theorem execRtdConversion_fr (ch : BitVec 2) (mohm : BitVec 32) (s : State) :
    FrA [.queues, .meas, .log, .out] s (execRtdConversion ch mohm s) := by
  unfold execRtdConversion
  repeat' first
    | intro _
    | with_reducible apply Fr.refl
    | with_reducible assumption
    | with_reducible apply FrA.next
    | (with_reducible apply Fr.step (State.onMeas_fr ..); decide)
    | (with_reducible apply Fr.step (State.raise_fr ..); decide)
    | (with_reducible apply Fr.step (State.fault_fr ..); decide)
    | with_reducible apply FrA.ite
    | with_reducible apply Fr.ite
    | dsimp only
    | split

theorem execCalTsLimits_fr (src : Src) (limits : List (BitVec 16 × BitVec 16)) (s : State) :
    FrA [.queues, .mailboxes, .meas, .out] s (execCalTsLimits src limits s) := by
  unfold execCalTsLimits
  repeat' first
    | intro _
    | with_reducible apply Fr.refl
    | with_reducible assumption
    | with_reducible apply FrA.next
    | (with_reducible apply State.command_fr; decide)
    | (with_reducible apply Fr.step (State.onMeas_fr ..); decide)
    | (with_reducible apply Fr.step (State.ok_fr ..); decide)
    | with_reducible apply FrA.ite
    | with_reducible apply Fr.ite
    | dsimp only
    | split

theorem execMonitorRead_fr (values : List (BitVec 16)) (s : State) :
    FrA [.meas, .power] s (execMonitorRead values s) := by
  unfold execMonitorRead
  repeat' first
    | intro _
    | with_reducible apply Fr.refl
    | with_reducible assumption
    | with_reducible apply FrA.next
    | (with_reducible apply Fr.step (State.onPower_fr ..); decide)
    | (with_reducible apply Fr.step (State.onMeas_fr ..); decide)
    | with_reducible apply FrA.ite
    | with_reducible apply Fr.ite
    | dsimp only
    | split

theorem execCalTrimRun_fr (src : Src) (item : BitVec 8) (s : State) :
    FrA [.queues, .mailboxes, .waiting, .meas, .out] s (execCalTrimRun src item s) := by
  unfold execCalTrimRun
  repeat' first
    | intro _
    | with_reducible apply Fr.refl
    | with_reducible assumption
    | with_reducible apply FrA.next
    | (with_reducible apply State.command_fr; decide)
    | (with_reducible apply Fr.step (State.onItem_fr ..); decide)
    | (with_reducible apply Fr.step (State.onMeas_fr ..); decide)
    | (with_reducible apply Fr.step (State.wait_fr ..); decide)
    | (with_reducible apply Fr.foldl)
    | with_reducible apply FrA.ite
    | with_reducible apply Fr.ite
    | dsimp only
    | split

theorem execAutoTrimStart_fr (s : State) :
    FrA [.meas] s (execAutoTrimStart s) := by
  unfold execAutoTrimStart
  repeat' first
    | intro _
    | with_reducible apply Fr.refl
    | with_reducible assumption
    | with_reducible apply FrA.next
    | (with_reducible apply Fr.step (State.onItem_fr ..); decide)
    | (with_reducible apply Fr.step (State.onMeas_fr ..); decide)
    | (with_reducible apply Fr.foldl)
    | with_reducible apply FrA.ite
    | with_reducible apply Fr.ite
    | dsimp only
    | split

theorem State.writeNv_fr (s : State) (ok : Bool) :
    Fr [.queues, .meas, .repair, .log, .out] s (State.writeNv s ok) := by
  unfold State.writeNv
  repeat' first
    | intro _
    | with_reducible apply Fr.refl
    | with_reducible assumption
    | (with_reducible apply Fr.step (State.onMeas_fr ..); decide)
    | (with_reducible apply Fr.step (State.sectorFails_fr ..); decide)
    | (with_reducible apply Fr.step (State.fault_fr ..); decide)
    | with_reducible apply Fr.ite
    | dsimp only
    | split

theorem State.trimAnswer_fr (s : State) :
    Fr [.queues, .mailboxes, .waiting, .meas, .out] s (State.trimAnswer s) := by
  unfold State.trimAnswer
  repeat' first
    | intro _
    | with_reducible apply Fr.refl
    | with_reducible assumption
    | (with_reducible apply Fr.step (State.onMeas_fr ..); decide)
    | (with_reducible apply Fr.step (State.unwait_fr ..); decide)
    | (with_reducible apply Fr.step (State.ok_fr ..); decide)
    | (with_reducible apply Fr.step (State.fail_fr ..); decide)
    | with_reducible apply Fr.ite
    | dsimp only
    | split

theorem execTrimRunComplete_fr (item : BitVec 8) (inRange : Bool) (c1 c2 : BitVec 16) (r1 r2 : Int) (nvOk : Bool) (s : State) :
    FrA [.queues, .mailboxes, .waiting, .meas, .repair, .log, .out] s (execTrimRunComplete item inRange c1 c2 r1 r2 nvOk s) := by
  unfold execTrimRunComplete
  repeat' first
    | intro _
    | with_reducible apply Fr.refl
    | with_reducible assumption
    | with_reducible apply FrA.next
    | (with_reducible apply Fr.step (State.onItem_fr ..); decide)
    | (with_reducible apply Fr.step (State.fault_fr ..); decide)
    | (with_reducible apply Fr.step (State.onMeas_fr ..); decide)
    | (with_reducible apply Fr.step (State.trimAnswer_fr ..); decide)
    | (with_reducible apply Fr.step (State.raise_fr ..); decide)
    | (with_reducible apply Fr.step (State.writeNv_fr ..); decide)
    | with_reducible apply FrA.ite
    | with_reducible apply Fr.ite
    | dsimp only
    | split

theorem execAgemaxExpiry_fr (item : BitVec 8) (s : State) :
    FrA [.meas] s (execAgemaxExpiry item s) := by
  unfold execAgemaxExpiry
  repeat' first
    | intro _
    | with_reducible apply Fr.refl
    | with_reducible assumption
    | with_reducible apply FrA.next
    | (with_reducible apply Fr.step (State.onItem_fr ..); decide)
    | with_reducible apply FrA.ite
    | with_reducible apply Fr.ite
    | dsimp only
    | split

theorem execCalPolicy_fr (src : Src) (p : CalPolicy) (s : State) :
    FrA [.queues, .mailboxes, .meas, .out] s (execCalPolicy src p s) := by
  unfold execCalPolicy
  repeat' first
    | intro _
    | with_reducible apply Fr.refl
    | with_reducible assumption
    | with_reducible apply FrA.next
    | (with_reducible apply State.command_fr; decide)
    | (with_reducible apply Fr.step (State.onMeas_fr ..); decide)
    | (with_reducible apply Fr.step (State.ok_fr ..); decide)
    | with_reducible apply FrA.ite
    | with_reducible apply Fr.ite
    | dsimp only
    | split

theorem execCalStatus_fr (src : Src) (s : State) :
    FrA [.queues, .mailboxes, .out] s (execCalStatus src s) := by
  unfold execCalStatus
  repeat' first
    | intro _
    | with_reducible apply Fr.refl
    | with_reducible assumption
    | with_reducible apply FrA.next
    | (with_reducible apply Fr.step (State.ok_fr ..); decide)
    | with_reducible apply FrA.ite
    | with_reducible apply Fr.ite
    | dsimp only
    | split

theorem execCalGainRun_fr (src : Src) (grid : BeamGrid) (s : State) :
    FrA [.queues, .mailboxes, .waiting, .link, .cams, .meas, .ref, .out] s (execCalGainRun src grid s) := by
  unfold execCalGainRun
  repeat' first
    | intro _
    | with_reducible apply Fr.refl
    | with_reducible assumption
    | with_reducible apply FrA.next
    | (with_reducible apply Fr.step (State.respond_fr ..); decide)
    | (with_reducible apply Fr.step (State.sendHead_fr ..); decide)
    | (with_reducible apply Fr.step (State.onMeas_fr ..); decide)
    | (with_reducible apply Fr.step (State.onCam_fr ..); decide)
    | (with_reducible apply State.permit_st; decide; (case hp => rename_i hc; first | exact hc | (simp only [Bool.and_eq_true] at hc; exact hc.2)))
    | (with_reducible apply State.onRef_st; decide; case hf => first | exact fun _ h => h | exact fun _ _ _ => rfl | (intro _ _ h; cases h) | ((intro r h); (try dsimp only); (repeat' split) <;> simpa using h))
    | (with_reducible apply Fr.step (State.wait_fr ..); decide)
    | dsimp only
    | split

theorem execCalGainAbort_fr (src : Src) (_abort : Bool) (s : State) :
    FrA [.queues, .mailboxes, .waiting, .link, .plate, .meas, .repair, .ref, .log, .out] s (execCalGainAbort src _abort s) := by
  unfold execCalGainAbort
  repeat' first
    | intro _
    | with_reducible apply Fr.refl
    | with_reducible assumption
    | with_reducible apply FrA.next
    | (with_reducible apply Fr.step (State.endPair_fr ..); decide)
    | (with_reducible apply Fr.step (State.ok_fr ..); decide)
    | with_reducible apply FrA.ite
    | with_reducible apply Fr.ite
    | dsimp only
    | split

theorem State.gainNext_fr (s : State) (g : GainPair) :
    Fr [.queues, .link, .plate, .cams, .meas, .repair, .log, .out] s (State.gainNext s g) := by
  unfold State.gainNext
  repeat' first
    | intro _
    | with_reducible apply Fr.refl
    | with_reducible assumption
    | (with_reducible apply Fr.step (State.onMeas_fr ..); decide)
    | (with_reducible apply Fr.step (State.onCam_fr ..); decide)
    | (with_reducible apply Fr.step (State.plateCommit_fr ..); decide)
    | (with_reducible apply Fr.step (State.raiseVia_fr ..); decide)
    | with_reducible apply Fr.ite
    | dsimp only
    | split

theorem execGainRunStepComplete_fr (s : State) :
    FrA [.queues, .link, .plate, .cams, .meas, .repair, .log, .out] s (execGainRunStepComplete s) := by
  unfold execGainRunStepComplete
  repeat' first
    | intro _
    | with_reducible apply Fr.refl
    | with_reducible assumption
    | with_reducible apply FrA.next
    | (with_reducible apply Fr.step (State.gainNext_fr ..); decide)
    | with_reducible apply FrA.ite
    | with_reducible apply Fr.ite
    | dsimp only
    | split

theorem execGainPairEnd_fr (s : State) :
    FrA [.queues, .mailboxes, .waiting, .beam, .link, .plate, .meas, .repair, .ref, .log, .out] s (execGainPairEnd s) := by
  unfold execGainPairEnd
  repeat' first
    | intro _
    | with_reducible apply Fr.refl
    | with_reducible assumption
    | with_reducible apply FrA.next
    | (with_reducible apply Fr.step (State.onBeam_fr ..); decide)
    | (with_reducible apply Fr.step (State.raiseVia_fr ..); decide)
    | (with_reducible apply Fr.step (State.closePair_fr ..); decide)
    | with_reducible apply FrA.ite
    | with_reducible apply Fr.ite
    | dsimp only
    | split

end Sys2Proof.Machine
end

