-- ==== Sys2Proof/Laws/Regs.lean ====
section
/-!
SUPPORT. What each function and each meaning of Machine/Regs.lean may change.
-/

namespace Sys2Proof.Machine

theorem State.onCh_fr (s : State) (n : Nat) (f : Dma → Dma) :
    Fr [.dma] s (State.onCh s n f) := by
  unfold State.onCh
  repeat' first
    | intro _
    | with_reducible apply Fr.refl
    | with_reducible assumption
    | (with_reducible apply Fr.step (State.onDma_fr ..); decide)
    | with_reducible apply Fr.ite
    | dsimp only
    | split

theorem State.onCvu_fr (s : State) (n : Nat) (f : Cvu → Cvu) :
    Fr [.dma] s (State.onCvu s n f) := by
  unfold State.onCvu
  repeat' first
    | intro _
    | with_reducible apply Fr.refl
    | with_reducible assumption
    | (with_reducible apply Fr.step (State.onDma_fr ..); decide)
    | with_reducible apply Fr.ite
    | dsimp only
    | split

theorem execCvuDataFeed_fr (unit : BitVec 5) (data : BitVec 64) (s : State) :
    FrA [.dma] s (execCvuDataFeed unit data s) := by
  unfold execCvuDataFeed
  repeat' first
    | intro _
    | with_reducible apply Fr.refl
    | with_reducible assumption
    | with_reducible apply FrA.next
    | (with_reducible apply Fr.step (State.onCvu_fr ..); decide)
    | with_reducible apply FrA.ite
    | with_reducible apply Fr.ite
    | dsimp only
    | split

theorem execCvuCmdInit_fr (unit : BitVec 5) (nbm1 : BitVec 3) (s : State) :
    FrA [.dma] s (execCvuCmdInit unit nbm1 s) := by
  unfold execCvuCmdInit
  repeat' first
    | intro _
    | with_reducible apply Fr.refl
    | with_reducible assumption
    | with_reducible apply FrA.next
    | (with_reducible apply Fr.step (State.onCvu_fr ..); decide)
    | with_reducible apply FrA.ite
    | with_reducible apply Fr.ite
    | dsimp only
    | split

theorem execCvuCompute_fr (src : Src) (unit : BitVec 5) (init : Bool) (buf : BufRef) (s : State) :
    FrA [.queues, .mailboxes, .dma, .out] s (execCvuCompute src unit init buf s) := by
  unfold execCvuCompute
  repeat' first
    | intro _
    | with_reducible apply Fr.refl
    | with_reducible assumption
    | with_reducible apply FrA.next
    | (with_reducible apply State.command_fr; decide)
    | (with_reducible apply Fr.step (State.onCvu_fr ..); decide)
    | (with_reducible apply Fr.step (State.ok_fr ..); decide)
    | with_reducible apply FrA.ite
    | with_reducible apply Fr.ite
    | dsimp only
    | split

theorem execCvuSave_fr (src : Src) (unit : BitVec 5) (s : State) :
    FrA [.queues, .mailboxes, .out] s (execCvuSave src unit s) := by
  unfold execCvuSave
  repeat' first
    | intro _
    | with_reducible apply Fr.refl
    | with_reducible assumption
    | with_reducible apply FrA.next
    | (with_reducible apply State.command_fr; decide)
    | (with_reducible apply Fr.step (State.ok_fr ..); decide)
    | with_reducible apply FrA.ite
    | with_reducible apply Fr.ite
    | dsimp only
    | split

theorem execCvuRestore_fr (src : Src) (unit : BitVec 5) (value : BitVec 64) (count : BitVec 48) (s : State) :
    FrA [.queues, .mailboxes, .dma, .out] s (execCvuRestore src unit value count s) := by
  unfold execCvuRestore
  repeat' first
    | intro _
    | with_reducible apply Fr.refl
    | with_reducible assumption
    | with_reducible apply FrA.next
    | (with_reducible apply State.command_fr; decide)
    | (with_reducible apply Fr.step (State.onCvu_fr ..); decide)
    | (with_reducible apply Fr.step (State.ok_fr ..); decide)
    | with_reducible apply FrA.ite
    | with_reducible apply Fr.ite
    | dsimp only
    | split

theorem State.dmaKick_fr (s : State) (n : Nat) :
    Fr [.dma] s (State.dmaKick s n) := by
  unfold State.dmaKick
  repeat' first
    | intro _
    | with_reducible apply Fr.refl
    | with_reducible assumption
    | (with_reducible apply Fr.step (State.onCh_fr ..); decide)
    | with_reducible apply Fr.ite
    | dsimp only
    | split

theorem State.ringError_fr (s : State) (n seq addr : Nat) :
    Fr [.queues, .dma, .log, .out] s (State.ringError s n seq addr) := by
  unfold State.ringError
  repeat' first
    | intro _
    | with_reducible apply Fr.refl
    | with_reducible assumption
    | (with_reducible apply Fr.step (State.onCh_fr ..); decide)
    | (with_reducible apply Fr.step (State.fault_fr ..); decide)
    | with_reducible apply Fr.ite
    | dsimp only
    | split

theorem State.putRec_fr (s : State) (n : Nat) (w : Word) :
    Fr [.queues, .bytes, .dma, .log, .out] s (State.putRec s n w) := by
  unfold State.putRec
  repeat' first
    | intro _
    | with_reducible apply Fr.refl
    | with_reducible assumption
    | (with_reducible apply Fr.step (State.ringError_fr ..); decide)
    | (with_reducible apply Fr.step (State.write_fr ..); decide)
    | (with_reducible apply Fr.step (State.onCh_fr ..); decide)
    | (with_reducible apply Fr.step (State.emit_fr ..); decide)
    | with_reducible apply Fr.ite
    | dsimp only
    | split

theorem State.dmaRecord_fr (s : State) (n : Nat) (w : Word) :
    Fr [.queues, .bytes, .dma, .log, .out] s (State.dmaRecord s n w) := by
  unfold State.dmaRecord
  repeat' first
    | intro _
    | with_reducible apply Fr.refl
    | with_reducible assumption
    | (with_reducible apply Fr.step (State.onCh_fr ..); decide)
    | (with_reducible apply Fr.step (State.putRec_fr ..); decide)
    | with_reducible apply Fr.ite
    | dsimp only
    | split

theorem State.closeCvu_fr (s : State) (n : Nat) (d : Desc) (ok : Bool) :
    Fr [.dma] s (State.closeCvu s n d ok) := by
  unfold State.closeCvu
  repeat' first
    | intro _
    | with_reducible apply Fr.refl
    | with_reducible assumption
    | (with_reducible apply Fr.step (State.onCvu_fr ..); decide)
    | with_reducible apply Fr.ite
    | dsimp only
    | split

theorem State.finishDesc_fr (s : State) (n status bytes : Nat) (lost : Bool) :
    Fr [.queues, .bytes, .dma, .log, .out] s (State.finishDesc s n status bytes lost) := by
  unfold State.finishDesc
  repeat' first
    | intro _
    | with_reducible apply Fr.refl
    | with_reducible assumption
    | (with_reducible apply Fr.step (State.write_fr ..); decide)
    | (with_reducible apply Fr.step (State.closeCvu_fr ..); decide)
    | (with_reducible apply Fr.step (State.onCh_fr ..); decide)
    | (with_reducible apply Fr.step (State.ringError_fr ..); decide)
    | (with_reducible apply Fr.step (State.dmaRecord_fr ..); decide)
    | with_reducible apply Fr.ite
    | dsimp only
    | split

theorem State.dmaSettle_fr (s0 : State) (n : Nat) :
    Fr [.queues, .bytes, .dma, .log, .out] s0 (State.dmaSettle s0 n) := by
  unfold State.dmaSettle
  repeat' first
    | intro _
    | with_reducible apply Fr.refl
    | with_reducible assumption
    | (with_reducible apply Fr.step (State.dmaKick_fr ..); decide)
    | (with_reducible apply Fr.step (State.finishDesc_fr ..); decide)
    | (with_reducible apply Fr.step (State.onCh_fr ..); decide)
    | with_reducible apply Fr.ite
    | dsimp only
    | split

theorem State.setCrrp_fr (s : State) (n : Nat) (v : BitVec 64) :
    Fr [.queues, .bytes, .dma, .log, .out] s (State.setCrrp s n v) := by
  unfold State.setCrrp
  repeat' first
    | intro _
    | with_reducible apply Fr.refl
    | with_reducible assumption
    | (with_reducible apply Fr.step (State.onCh_fr ..); decide)
    | (with_reducible apply Fr.step (State.putRec_fr ..); decide)
    | (with_reducible apply Fr.step (State.dmaSettle_fr ..); decide)
    | with_reducible apply Fr.ite
    | dsimp only
    | split

theorem State.dmaHalt_fr (s : State) (n : Nat) (code : BitVec 8) (st : BitVec 16) (addr : Nat) (space : BitVec 4) :
    Fr [.queues, .bytes, .dma, .log, .out] s (State.dmaHalt s n code st addr space) := by
  unfold State.dmaHalt
  repeat' first
    | intro _
    | with_reducible apply Fr.refl
    | with_reducible assumption
    | (with_reducible apply Fr.step (State.onCh_fr ..); decide)
    | (with_reducible apply Fr.step (State.dmaRecord_fr ..); decide)
    | (with_reducible apply Fr.step (State.fault_fr ..); decide)
    | with_reducible apply Fr.ite
    | dsimp only
    | split

theorem State.dmaStart_fr (s : State) (n : Nat) :
    Fr [.dma] s (State.dmaStart s n) := by
  unfold State.dmaStart
  repeat' first
    | intro _
    | with_reducible apply Fr.refl
    | with_reducible assumption
    | (with_reducible apply Fr.step (State.onCh_fr ..); decide)
    | (with_reducible apply Fr.step (State.dmaKick_fr ..); decide)
    | with_reducible apply Fr.ite
    | dsimp only
    | split

theorem State.dmaResume_fr (s : State) (n : Nat) :
    Fr [.dma] s (State.dmaResume s n) := by
  unfold State.dmaResume
  repeat' first
    | intro _
    | with_reducible apply Fr.refl
    | with_reducible assumption
    | (with_reducible apply Fr.step (State.onCh_fr ..); decide)
    | (with_reducible apply Fr.step (State.dmaKick_fr ..); decide)
    | with_reducible apply Fr.ite
    | dsimp only
    | split

theorem State.dmaDrain_fr (s : State) (n : Nat) :
    Fr [.queues, .bytes, .dma, .log, .out] s (State.dmaDrain s n) := by
  unfold State.dmaDrain
  repeat' first
    | intro _
    | with_reducible apply Fr.refl
    | with_reducible assumption
    | (with_reducible apply Fr.step (State.onCh_fr ..); decide)
    | (with_reducible apply Fr.step (State.dmaSettle_fr ..); decide)
    | with_reducible apply Fr.ite
    | dsimp only
    | split

theorem State.dmaAbort_fr (s : State) (n : Nat) :
    Fr [.queues, .bytes, .dma, .log, .out] s (State.dmaAbort s n) := by
  unfold State.dmaAbort
  repeat' first
    | intro _
    | with_reducible apply Fr.refl
    | with_reducible assumption
    | (with_reducible apply Fr.step (State.onCh_fr ..); decide)
    | (with_reducible apply Fr.step (State.dmaSettle_fr ..); decide)
    | with_reducible apply Fr.ite
    | dsimp only
    | split

theorem State.dmaCmd_fr (s : State) (n : Nat) (v : BitVec 64) :
    Fr [.queues, .bytes, .dma, .log, .out] s (State.dmaCmd s n v) := by
  unfold State.dmaCmd
  repeat' first
    | intro _
    | with_reducible apply Fr.refl
    | with_reducible assumption
    | (with_reducible apply Fr.step (State.dmaStart_fr ..); decide)
    | (with_reducible apply Fr.step (State.dmaResume_fr ..); decide)
    | (with_reducible apply Fr.step (State.dmaDrain_fr ..); decide)
    | (with_reducible apply Fr.step (State.dmaAbort_fr ..); decide)
    | with_reducible apply Fr.ite
    | dsimp only
    | split

theorem execDmaCmdStart_fr (chan : BitVec 6) (s : State) :
    FrA [.dma] s (execDmaCmdStart chan s) := by
  unfold execDmaCmdStart
  repeat' first
    | intro _
    | with_reducible apply Fr.refl
    | with_reducible assumption
    | with_reducible apply FrA.next
    | (with_reducible apply Fr.step (State.dmaStart_fr ..); decide)
    | with_reducible apply FrA.ite
    | with_reducible apply Fr.ite
    | dsimp only
    | split

theorem execDmaCmdResume_fr (chan : BitVec 6) (s : State) :
    FrA [.dma] s (execDmaCmdResume chan s) := by
  unfold execDmaCmdResume
  repeat' first
    | intro _
    | with_reducible apply Fr.refl
    | with_reducible assumption
    | with_reducible apply FrA.next
    | (with_reducible apply Fr.step (State.dmaResume_fr ..); decide)
    | with_reducible apply FrA.ite
    | with_reducible apply Fr.ite
    | dsimp only
    | split

theorem execDmaCmdDrain_fr (chan : BitVec 6) (s : State) :
    FrA [.queues, .bytes, .dma, .log, .out] s (execDmaCmdDrain chan s) := by
  unfold execDmaCmdDrain
  repeat' first
    | intro _
    | with_reducible apply Fr.refl
    | with_reducible assumption
    | with_reducible apply FrA.next
    | (with_reducible apply Fr.step (State.dmaDrain_fr ..); decide)
    | with_reducible apply FrA.ite
    | with_reducible apply Fr.ite
    | dsimp only
    | split

theorem execDmaCmdAbort_fr (chan : BitVec 6) (s : State) :
    FrA [.queues, .bytes, .dma, .log, .out] s (execDmaCmdAbort chan s) := by
  unfold execDmaCmdAbort
  repeat' first
    | intro _
    | with_reducible apply Fr.refl
    | with_reducible assumption
    | with_reducible apply FrA.next
    | (with_reducible apply Fr.step (State.dmaAbort_fr ..); decide)
    | with_reducible apply FrA.ite
    | with_reducible apply Fr.ite
    | dsimp only
    | split

theorem State.setRingrp_fr (s : State) (n : Nat) (v : BitVec 64) :
    Fr [.cams, .dma] s (State.setRingrp s n v) := by
  unfold State.setRingrp
  repeat' first
    | intro _
    | with_reducible apply Fr.refl
    | with_reducible assumption
    | (with_reducible apply Fr.step (State.onAhead_fr ..); decide)
    | (with_reducible apply Fr.step (State.onCam_fr ..); decide)
    | with_reducible apply Fr.ite
    | dsimp only
    | split

theorem State.dmaRegWrite_fr (s : State) (n i : Nat) (v : BitVec 64) :
    Fr [.queues, .bytes, .dma, .log, .out] s (State.dmaRegWrite s n i v) := by
  unfold State.dmaRegWrite
  repeat' first
    | intro _
    | with_reducible apply Fr.refl
    | with_reducible assumption
    | (with_reducible apply Fr.step (State.onCh_fr ..); decide)
    | (with_reducible apply Fr.step (State.setCrrp_fr ..); decide)
    | (with_reducible apply Fr.step (State.dmaCmd_fr ..); decide)
    | with_reducible apply Fr.ite
    | dsimp only
    | split

theorem State.cvuRegWrite_fr (s : State) (n i : Nat) (v : BitVec 64) :
    Fr [.dma] s (State.cvuRegWrite s n i v) := by
  unfold State.cvuRegWrite
  repeat' first
    | intro _
    | with_reducible apply Fr.refl
    | with_reducible assumption
    | (with_reducible apply Fr.step (State.onCvu_fr ..); decide)
    | with_reducible apply Fr.ite
    | dsimp only
    | split

theorem State.devWrite_fr (s : State) (a : Nat) (v : BitVec 64) :
    Fr [.queues, .jobs, .land, .bytes, .mc, .cams, .dma, .log, .out] s (State.devWrite s a v) := by
  unfold State.devWrite
  repeat' first
    | intro _
    | with_reducible apply Fr.refl
    | with_reducible assumption
    | (with_reducible apply Fr.step (State.thawWrite_fr ..); decide)
    | (with_reducible apply Fr.step (State.setRingrp_fr ..); decide)
    | (with_reducible apply Fr.step (State.dmaRegWrite_fr ..); decide)
    | (with_reducible apply Fr.step (State.cvuRegWrite_fr ..); decide)
    | with_reducible apply Fr.ite
    | dsimp only
    | split

end Sys2Proof.Machine
end

