-- ==== Sys2Proof/Laws/DmaOps.lean ====
section
/-!
SUPPORT. What each function and each meaning of Machine/DmaOps.lean may change.
-/

namespace Sys2Proof.Machine

@[simp] theorem StackCtl.mend_held (c : StackCtl) (a n : Nat) : (c.mend a n).heldWrites = c.heldWrites := rfl

theorem State.devWrites_fr (s : State) (host : Bool) (a : Nat) (xs : List (BitVec 64)) :
    Fr [.queues, .jobs, .land, .bytes, .mc, .cams, .dma, .log, .out] s (State.devWrites s host a xs) := by
  induction xs generalizing s host a with
  | nil => exact Fr.refl _ _
  | cons x xs ih =>
    unfold State.devWrites
    repeat' first
        | intro _
        | with_reducible apply Fr.refl
        | with_reducible assumption
        | with_reducible apply fun h => Fr.trans h (ih _ _ _)
        | (with_reducible apply Fr.step (State.devWrite_fr ..); decide)
        | with_reducible apply Fr.ite
        | dsimp only
        | split

theorem State.busWrite_fr (s : State) (n : Nat) (sp : BitVec 4) (a : Nat) (bs : List Byte) :
    Fr [.queues, .jobs, .land, .bytes, .mc, .cams, .dma, .log, .out] s (State.busWrite s n sp a bs) := by
  unfold State.busWrite
  repeat' first
    | intro _
    | with_reducible apply Fr.refl
    | with_reducible assumption
    | (with_reducible apply Fr.step (State.devWrites_fr ..); decide)
    | (with_reducible apply Fr.step (State.write_fr ..); decide)
    | with_reducible apply Fr.ite
    | dsimp only
    | split

theorem State.takeDesc_fr (s : State) (n : Nat) (d : Desc) :
    Fr [.dma] s (State.takeDesc s n d) := by
  unfold State.takeDesc
  repeat' first
    | intro _
    | with_reducible apply Fr.refl
    | with_reducible assumption
    | (with_reducible apply Fr.step (State.onCh_fr ..); decide)
    | with_reducible apply Fr.ite
    | dsimp only
    | split

theorem execDescriptorFetch_fr (chan : BitVec 6) (busErr : Bool) (s : State) :
    FrA [.queues, .bytes, .dma, .log, .out] s (execDescriptorFetch chan busErr s) := by
  unfold execDescriptorFetch
  repeat' first
    | intro _
    | with_reducible apply Fr.refl
    | with_reducible assumption
    | with_reducible apply FrA.next
    | (with_reducible apply Fr.step (State.dmaHalt_fr ..); decide)
    | (with_reducible apply Fr.step (State.takeDesc_fr ..); decide)
    | (with_reducible apply Fr.step (State.finishDesc_fr ..); decide)
    | (with_reducible apply Fr.step (State.dmaSettle_fr ..); decide)
    | with_reducible apply FrA.ite
    | with_reducible apply Fr.ite
    | dsimp only
    | split

theorem execFetchTimeout_fr (chan : BitVec 6) (s : State) :
    FrA [.queues, .bytes, .dma, .log, .out] s (execFetchTimeout chan s) := by
  unfold execFetchTimeout
  repeat' first
    | intro _
    | with_reducible apply Fr.refl
    | with_reducible assumption
    | with_reducible apply FrA.next
    | (with_reducible apply Fr.step (State.dmaHalt_fr ..); decide)
    | with_reducible apply FrA.ite
    | with_reducible apply Fr.ite
    | dsimp only
    | split

theorem State.paceAll_fr (s : State) :
    Fr [.dma] s (State.paceAll s) := by
  unfold State.paceAll
  repeat' first
    | intro _
    | with_reducible apply Fr.refl
    | with_reducible assumption
    | (with_reducible apply Fr.step (State.onAhead_fr ..); decide)
    | (with_reducible apply Fr.step (State.onDma_fr ..); decide)
    | with_reducible apply Fr.ite
    | dsimp only
    | split

theorem State.bindCvu_fr (s : State) (n : Nat) (d : Desc) :
    Fr [.dma] s (State.bindCvu s n d) := by
  unfold State.bindCvu
  repeat' first
    | intro _
    | with_reducible apply Fr.refl
    | with_reducible assumption
    | (with_reducible apply Fr.step (State.onCvu_fr ..); decide)
    | with_reducible apply Fr.ite
    | dsimp only
    | split

theorem State.issue_fr (s : State) (n : Nat) :
    Fr [.queues, .bytes, .dma, .log, .out] s (State.issue s n) := by
  unfold State.issue
  repeat' first
    | intro _
    | with_reducible apply Fr.refl
    | with_reducible assumption
    | (with_reducible apply Fr.step (State.onDma_fr ..); decide)
    | (with_reducible apply Fr.step (State.finishDesc_fr ..); decide)
    | (with_reducible apply Fr.step (State.dmaSettle_fr ..); decide)
    | (with_reducible apply Fr.step (State.bindCvu_fr ..); decide)
    | (with_reducible apply Fr.step (State.onCh_fr ..); decide)
    | with_reducible apply Fr.ite
    | dsimp only
    | split

theorem execBurstIssue_fr (s : State) :
    FrA [.queues, .bytes, .dma, .log, .out] s (execBurstIssue s) := by
  unfold execBurstIssue
  repeat' first
    | intro _
    | with_reducible apply Fr.refl
    | with_reducible assumption
    | with_reducible apply FrA.next
    | (with_reducible apply Fr.step (State.paceAll_fr ..); decide)
    | (with_reducible apply Fr.step (State.issue_fr ..); decide)
    | with_reducible apply FrA.ite
    | with_reducible apply Fr.ite
    | dsimp only
    | split

theorem State.settleQueue_fr (s : State) (c : Dma) (len : Nat) :
    Fr [.dma, .trace] s (State.settleQueue s c len) := by
  unfold State.settleQueue
  repeat' first
    | intro _
    | with_reducible apply Fr.refl
    | with_reducible assumption
    | (with_reducible apply Fr.step (State.onTrace_fr ..); decide)
    | (with_reducible apply Fr.step (State.onAhead_fr ..); decide)
    | with_reducible apply Fr.ite
    | dsimp only
    | split

theorem State.junk_fr (s : State) (n : Nat) (d : Desc) (off len : Nat) :
    Fr [.queues, .jobs, .land, .bytes, .mc, .cams, .dma, .log, .out] s (State.junk s n d off len) := by
  unfold State.junk
  repeat' first
    | intro _
    | with_reducible apply Fr.refl
    | with_reducible assumption
    | (with_reducible apply Fr.step (State.busWrite_fr ..); decide)
    | (with_reducible apply Fr.step (State.draw_fr ..); decide)
    | with_reducible apply Fr.ite
    | dsimp only
    | split

theorem State.dmaParity_fr (s : State) (n : Nat) (d : Desc) (how : BurstEnd) :
    Fr [.queues, .dma, .repair, .log, .out] s (State.dmaParity s n d how) := by
  unfold State.dmaParity
  repeat' first
    | intro _
    | with_reducible apply Fr.refl
    | with_reducible assumption
    | (with_reducible apply Fr.step (State.unitFault_fr ..); decide)
    | (with_reducible apply Fr.step (State.fault_fr ..); decide)
    | (with_reducible apply Fr.step (State.onCvu_fr ..); decide)
    | with_reducible apply Fr.ite
    | dsimp only
    | split

theorem State.feedCvu_fr (s : State) (n : Nat) (d : Desc) (bs : List Byte) :
    Fr [.dma] s (State.feedCvu s n d bs) := by
  unfold State.feedCvu
  repeat' first
    | intro _
    | with_reducible apply Fr.refl
    | with_reducible assumption
    | (with_reducible apply Fr.step (State.onCvu_fr ..); decide)
    | with_reducible apply Fr.ite
    | dsimp only
    | split

theorem State.moveBurst_fr (s : State) (n : Nat) (d : Desc) (off len : Nat) (how : BurstEnd) :
    Fr [.queues, .jobs, .land, .bytes, .mc, .cams, .dma, .log, .out] s (State.moveBurst s n d off len how).1 := by
  unfold State.moveBurst
  repeat' first
    | intro _
    | with_reducible apply Fr.refl
    | with_reducible assumption
    | (with_reducible apply Fr.step (State.junk_fr ..); decide)
    | (with_reducible apply State.onMc_st; decide; case hf => first | exact fun _ => MemCtl.onStack_held _ _ _ fun _ => rfl | exact fun _ => ⟨rfl, rfl⟩ | (intro m; apply MemCtl.onStack_held; intro c; simp; done) | (intro m; simp; done))
    | (with_reducible apply Fr.step (State.onMc_any_fr ..); decide)
    | (with_reducible apply Fr.step (State.busWrite_fr ..); decide)
    | (with_reducible apply Fr.step (State.feedCvu_fr ..); decide)
    | with_reducible apply Fr.ite
    | dsimp only
    | split

theorem execBurstComplete_fr (chan : BitVec 6) (how : BurstEnd) (s : State) :
    FrA [.queues, .jobs, .land, .bytes, .mc, .cams, .dma, .repair, .log, .trace, .out] s (execBurstComplete chan how s) := by
  unfold execBurstComplete
  repeat' first
    | intro _
    | with_reducible apply Fr.refl
    | with_reducible assumption
    | with_reducible apply FrA.next
    | (with_reducible apply Fr.step (State.moveBurst_fr ..); decide)
    | (with_reducible apply Fr.step (State.settleQueue_fr ..); decide)
    | (with_reducible apply Fr.step (State.onCh_fr ..); decide)
    | (with_reducible apply Fr.step (State.dmaParity_fr ..); decide)
    | (with_reducible apply Fr.step (State.finishDesc_fr ..); decide)
    | (with_reducible apply Fr.step (State.dmaSettle_fr ..); decide)
    | with_reducible apply FrA.ite
    | with_reducible apply Fr.ite
    | dsimp only
    | split

theorem execDmaConfig_fr (src : Src) (chan : BitVec 5) (cfg pace head cring : BitVec 64) (s : State) :
    FrA [.queues, .mailboxes, .dma, .out] s (execDmaConfig src chan cfg pace head cring s) := by
  unfold execDmaConfig
  repeat' first
    | intro _
    | with_reducible apply Fr.refl
    | with_reducible assumption
    | with_reducible apply FrA.next
    | (with_reducible apply State.command_fr; decide)
    | (with_reducible apply Fr.step (State.onCh_fr ..); decide)
    | (with_reducible apply Fr.step (State.ok_fr ..); decide)
    | with_reducible apply FrA.ite
    | with_reducible apply Fr.ite
    | dsimp only
    | split

theorem execDmaStart_fr (src : Src) (chan : BitVec 5) (resume : Bool) (s : State) :
    FrA [.queues, .mailboxes, .dma, .out] s (execDmaStart src chan resume s) := by
  unfold execDmaStart
  repeat' first
    | intro _
    | with_reducible apply Fr.refl
    | with_reducible assumption
    | with_reducible apply FrA.next
    | (with_reducible apply State.command_fr; decide)
    | (with_reducible apply Fr.step (State.dmaResume_fr ..); decide)
    | (with_reducible apply Fr.step (State.dmaStart_fr ..); decide)
    | (with_reducible apply Fr.step (State.ok_fr ..); decide)
    | with_reducible apply FrA.ite
    | with_reducible apply Fr.ite
    | dsimp only
    | split

theorem execDmaStop_fr (src : Src) (chan : BitVec 5) (abort : Bool) (s : State) :
    FrA [.queues, .mailboxes, .waiting, .bytes, .dma, .log, .out] s (execDmaStop src chan abort s) := by
  unfold execDmaStop
  repeat' first
    | intro _
    | with_reducible apply Fr.refl
    | with_reducible assumption
    | with_reducible apply FrA.next
    | (with_reducible apply State.command_fr; decide)
    | (with_reducible apply Fr.step (State.dmaAbort_fr ..); decide)
    | (with_reducible apply Fr.step (State.dmaDrain_fr ..); decide)
    | (with_reducible apply Fr.step (State.wait_fr ..); decide)
    | (with_reducible apply Fr.step (State.ok_fr ..); decide)
    | with_reducible apply FrA.ite
    | with_reducible apply Fr.ite
    | dsimp only
    | split

theorem execDmaRingAdvance_fr (src : Src) (chan : BitVec 5) (rp : BitVec 16) (s : State) :
    FrA [.queues, .mailboxes, .bytes, .dma, .log, .out] s (execDmaRingAdvance src chan rp s) := by
  unfold execDmaRingAdvance
  repeat' first
    | intro _
    | with_reducible apply Fr.refl
    | with_reducible assumption
    | with_reducible apply FrA.next
    | (with_reducible apply Fr.step (State.setCrrp_fr ..); decide)
    | (with_reducible apply Fr.step (State.ok_fr ..); decide)
    | with_reducible apply FrA.ite
    | with_reducible apply Fr.ite
    | dsimp only
    | split

theorem execDmaStatus_fr (src : Src) (chan : BitVec 5) (s : State) :
    FrA [.queues, .mailboxes, .out] s (execDmaStatus src chan s) := by
  unfold execDmaStatus
  repeat' first
    | intro _
    | with_reducible apply Fr.refl
    | with_reducible assumption
    | with_reducible apply FrA.next
    | (with_reducible apply Fr.step (State.ok_fr ..); decide)
    | with_reducible apply FrA.ite
    | with_reducible apply Fr.ite
    | dsimp only
    | split

end Sys2Proof.Machine
end

