-- ==== Sys2Proof/Laws/Control.lean ====
section
/-!
SUPPORT. What each function and each meaning of Machine/Control.lean may change.
-/

namespace Sys2Proof.Machine

theorem State.cleanStop_fr (s : State) :
    Fr [.log] s (State.cleanStop s) := by
  unfold State.cleanStop
  repeat' first
    | intro _
    | with_reducible apply Fr.refl
    | with_reducible assumption
    | (with_reducible apply Fr.step (State.onLog_fr ..); decide)
    | (with_reducible apply Fr.step (State.logEntry_fr ..); decide)
    | with_reducible apply Fr.ite
    | dsimp only
    | split

theorem State.flushLog_fr (s : State) :
    Fr [.queues, .repair, .log, .out] s (State.flushLog s) := by
  unfold State.flushLog
  repeat' first
    | intro _
    | with_reducible apply Fr.refl
    | with_reducible assumption
    | (with_reducible apply Fr.step (State.draw_fr ..); decide)
    | (with_reducible apply Fr.step (State.onLog_fr ..); decide)
    | (with_reducible apply Fr.step (State.sectorFails_fr ..); decide)
    | with_reducible apply Fr.ite
    | dsimp only
    | split

theorem execFaultLogFlush_fr (s : State) :
    FrA [.queues, .repair, .log, .out] s (execFaultLogFlush s) := by
  unfold execFaultLogFlush
  repeat' first
    | intro _
    | with_reducible apply Fr.refl
    | with_reducible assumption
    | with_reducible apply FrA.next
    | (with_reducible apply Fr.step (State.flushLog_fr ..); decide)
    | with_reducible apply FrA.ite
    | with_reducible apply Fr.ite
    | dsimp only
    | split

theorem State.msix17_fr (s : State) :
    Fr [.queues, .out] s (State.msix17 s) := by
  unfold State.msix17
  repeat' first
    | intro _
    | with_reducible apply Fr.refl
    | with_reducible assumption
    | (with_reducible apply Fr.step (State.msix_fr ..); decide)
    | with_reducible apply Fr.ite
    | dsimp only
    | split

theorem State.safeEnter_fr (s : State) (cause : BitVec 8) :
    Fr [.queues, .mailboxes, .waiting, .jobs, .render, .land, .play, .stage, .link, .plate, .meas, .repair, .ref, .log, .out] s (State.safeEnter s cause) := by
  unfold State.safeEnter
  repeat' first
    | intro _
    | with_reducible apply Fr.refl
    | with_reducible assumption
    | (with_reducible apply State.onRef_st; decide; case hf => first | exact fun _ h => h | exact fun _ _ _ => rfl | (intro _ _ h; cases h) | ((intro r h); (try dsimp only); (repeat' split) <;> simpa using h))
    | (with_reducible apply Fr.step (State.stopCause_fr ..); decide)
    | (with_reducible apply Fr.step (State.dropReentry_fr ..); decide)
    | (with_reducible apply Fr.step (State.endPair_fr ..); decide)
    | (with_reducible apply Fr.step (State.plateCommit_fr ..); decide)
    | (with_reducible apply Fr.step (State.onStage_fr ..); decide)
    | (with_reducible apply Fr.step (State.logEntry_fr ..); decide)
    | (with_reducible apply Fr.step (State.msix17_fr ..); decide)
    | with_reducible apply Fr.ite
    | dsimp only
    | split

theorem State.endTrims_fr (s : State) :
    Fr [.queues, .mailboxes, .waiting, .meas, .out] s (State.endTrims s) := by
  unfold State.endTrims
  repeat' first
    | intro _
    | with_reducible apply Fr.refl
    | with_reducible assumption
    | (with_reducible apply Fr.step (State.onMeas_fr ..); decide)
    | (with_reducible apply Fr.step (State.raise_fr ..); decide)
    | (with_reducible apply Fr.step (State.trimAnswer_fr ..); decide)
    | (with_reducible apply Fr.foldl)
    | with_reducible apply Fr.ite
    | dsimp only
    | split

theorem execMarshalHeartbeat_fr (m : Marshal) (s : State) :
    FrA [.ref] s (execMarshalHeartbeat m s) := by
  unfold execMarshalHeartbeat
  repeat' first
    | intro _
    | with_reducible apply Fr.refl
    | with_reducible assumption
    | with_reducible apply FrA.next
    | (with_reducible apply State.onRef_st; decide; case hf => first | exact fun _ h => h | exact fun _ _ _ => rfl | (intro _ _ h; cases h) | ((intro r h); (try dsimp only); (repeat' split) <;> simpa using h))
    | with_reducible apply FrA.ite
    | with_reducible apply Fr.ite
    | dsimp only
    | split

theorem State.standbyFail_fr (s : State) (m : Marshal) :
    Fr [.queues, .ref, .log, .out] s (State.standbyFail s m) := by
  unfold State.standbyFail
  repeat' first
    | intro _
    | with_reducible apply Fr.refl
    | with_reducible assumption
    | (with_reducible apply State.onRef_st; decide; case hf => first | exact fun _ h => h | exact fun _ _ _ => rfl | (intro _ _ h; cases h) | ((intro r h); (try dsimp only); (repeat' split) <;> simpa using h))
    | (with_reducible apply Fr.step (State.fault_fr ..); decide)
    | with_reducible apply Fr.ite
    | dsimp only
    | split

theorem State.switchFailed_fr (s : State) (m : Marshal) :
    Fr [.queues, .fw, .out] s (State.switchFailed s m) := by
  unfold State.switchFailed
  repeat' first
    | intro _
    | with_reducible apply Fr.refl
    | with_reducible assumption
    | (with_reducible apply Fr.step (State.onFw_fr ..); decide)
    | (with_reducible apply Fr.step (State.raise_fr ..); decide)
    | with_reducible apply Fr.ite
    | dsimp only
    | split

theorem State.failover_fr (s : State) (m : Marshal) :
    Fr [.queues, .mailboxes, .waiting, .stage, .link, .plate, .meas, .repair, .ref, .fw, .log, .out] s (State.failover s m) := by
  unfold State.failover
  repeat' first
    | intro _
    | with_reducible apply Fr.refl
    | with_reducible assumption
    | (with_reducible apply State.onRef_st; decide; case hf => first | exact fun _ h => h | exact fun _ _ _ => rfl | (intro _ _ h; cases h) | ((intro r h); (try dsimp only); (repeat' split) <;> simpa using h))
    | (with_reducible apply Fr.step (State.endPair_fr ..); decide)
    | (with_reducible apply Fr.step (State.endTrims_fr ..); decide)
    | (with_reducible apply Fr.step (State.onStage_fr ..); decide)
    | (with_reducible apply Fr.step (State.switchFailed_fr ..); decide)
    | with_reducible apply Fr.ite
    | dsimp only
    | split

theorem execHeartbeatTimeout_fr (m : Marshal) (selfReported : Bool) (s : State) :
    FrA [.queues, .mailboxes, .waiting, .jobs, .render, .land, .play, .stage, .link, .plate, .meas, .repair, .ref, .fw, .log, .out] s (execHeartbeatTimeout m selfReported s) := by
  unfold execHeartbeatTimeout
  repeat' first
    | intro _
    | with_reducible apply Fr.refl
    | with_reducible assumption
    | with_reducible apply FrA.next
    | (with_reducible apply Fr.step (State.standbyFail_fr ..); decide)
    | (with_reducible apply Fr.step (State.failover_fr ..); decide)
    | (with_reducible apply State.onRef_st; decide; case hf => first | exact fun _ h => h | exact fun _ _ _ => rfl | (intro _ _ h; cases h) | ((intro r h); (try dsimp only); (repeat' split) <;> simpa using h))
    | (with_reducible apply Fr.step (State.endTrims_fr ..); decide)
    | (with_reducible apply Fr.step (State.safeEnter_fr ..); decide)
    | with_reducible apply FrA.ite
    | with_reducible apply Fr.ite
    | dsimp only
    | split

theorem execMarshalBootComplete_fr (m : Marshal) (ok : Bool) (s : State) :
    FrA [.queues, .ref, .fw, .log, .out] s (execMarshalBootComplete m ok s) := by
  unfold execMarshalBootComplete
  repeat' first
    | intro _
    | with_reducible apply Fr.refl
    | with_reducible assumption
    | with_reducible apply FrA.next
    | (with_reducible apply State.onRef_st; decide; case hf => first | exact fun _ h => h | exact fun _ _ _ => rfl | (intro _ _ h; cases h) | ((intro r h); (try dsimp only); (repeat' split) <;> simpa using h))
    | (with_reducible apply Fr.step (State.onFw_fr ..); decide)
    | (with_reducible apply Fr.step (State.raise_fr ..); decide)
    | (with_reducible apply Fr.step (State.standbyFail_fr ..); decide)
    | with_reducible apply FrA.ite
    | with_reducible apply Fr.ite
    | dsimp only
    | split

theorem execFwSwitchRoleSwap_fr (s : State) :
    FrA [.queues, .ref, .fw, .out] s (execFwSwitchRoleSwap s) := by
  unfold execFwSwitchRoleSwap
  repeat' first
    | intro _
    | with_reducible apply Fr.refl
    | with_reducible assumption
    | with_reducible apply FrA.next
    | (with_reducible apply State.onRef_st; decide; case hf => first | exact fun _ h => h | exact fun _ _ _ => rfl | (intro _ _ h; cases h) | ((intro r h); (try dsimp only); (repeat' split) <;> simpa using h))
    | (with_reducible apply Fr.step (State.onFw_fr ..); decide)
    | (with_reducible apply Fr.step (State.raise_fr ..); decide)
    | with_reducible apply FrA.ite
    | with_reducible apply Fr.ite
    | dsimp only
    | split

theorem execFwSwitchOldReboot_fr (s : State) :
    FrA [.ref, .fw] s (execFwSwitchOldReboot s) := by
  unfold execFwSwitchOldReboot
  repeat' first
    | intro _
    | with_reducible apply Fr.refl
    | with_reducible assumption
    | with_reducible apply FrA.next
    | (with_reducible apply Fr.step (State.onFw_fr ..); decide)
    | (with_reducible apply State.onRef_st; decide; case hf => first | exact fun _ h => h | exact fun _ _ _ => rfl | (intro _ _ h; cases h) | ((intro r h); (try dsimp only); (repeat' split) <;> simpa using h))
    | with_reducible apply FrA.ite
    | with_reducible apply Fr.ite
    | dsimp only
    | split

theorem execSafeStateExit_fr (s : State) :
    FrA [.queues, .ref, .power, .log, .out] s (execSafeStateExit s) := by
  unfold execSafeStateExit
  repeat' first
    | intro _
    | with_reducible apply Fr.refl
    | with_reducible assumption
    | with_reducible apply FrA.next
    | (with_reducible apply State.onRef_st; decide; case hf => first | exact fun _ h => h | exact fun _ _ _ => rfl | (intro _ _ h; cases h) | ((intro r h); (try dsimp only); (repeat' split) <;> simpa using h))
    | (with_reducible apply Fr.step (State.onPower_fr ..); decide)
    | (with_reducible apply Fr.step (State.raise_fr ..); decide)
    | (with_reducible apply Fr.step (State.logEntry_fr ..); decide)
    | (with_reducible apply Fr.step (State.msix17_fr ..); decide)
    | with_reducible apply FrA.ite
    | with_reducible apply Fr.ite
    | dsimp only
    | split

theorem State.supvDone_fr (s : State) (via : Via) (code : Nat) (ok : Bool) (data : List (BitVec 64)) :
    Fr [.queues, .ref, .out] s (State.supvDone s via code ok data) := by
  unfold State.supvDone
  repeat' first
    | intro _
    | with_reducible apply Fr.refl
    | with_reducible assumption
    | (with_reducible apply State.onRef_st; decide; case hf => first | exact fun _ h => h | exact fun _ _ _ => rfl | (intro _ _ h; cases h) | ((intro r h); (try dsimp only); (repeat' split) <;> simpa using h))
    | (with_reducible apply Fr.step (State.emit_fr ..); decide)
    | (with_reducible apply Fr.step (State.msix17_fr ..); decide)
    | with_reducible apply Fr.ite
    | dsimp only
    | split

theorem State.supv_fr {ps : List Part} {s t : State} {via : Via} {code : Nat} {ok : Bool}
    {data : List (BitVec 64)} {k : State → State} (hq : [.queues, .ref, .out].all ps.contains = true) (h : Fr ps s t)
    (hk : Fr ps s (k t)) : Fr ps s (t.supv via code ok data k) := by
  unfold State.supv
  dsimp only
  split
  · exact h
  · split
    · exact Fr.step (State.supvDone_fr ..) hq hk
    · exact Fr.step (State.supvDone_fr ..) hq h

theorem execStatus_fr (via : Via) (s : State) :
    FrA [.queues, .ref, .out] s (execStatus via s) := by
  unfold execStatus
  repeat' first
    | intro _
    | with_reducible apply Fr.refl
    | with_reducible assumption
    | with_reducible apply FrA.next
    | (with_reducible apply State.supv_fr; decide)
    | with_reducible apply Fr.id
    | with_reducible apply FrA.ite
    | with_reducible apply Fr.ite
    | dsimp only
    | split

theorem execSnapshot_fr (via : Via) (offset : BitVec 16) (s : State) :
    FrA [.queues, .ref, .out] s (execSnapshot via offset s) := by
  unfold execSnapshot
  repeat' first
    | intro _
    | with_reducible apply Fr.refl
    | with_reducible assumption
    | with_reducible apply FrA.next
    | (with_reducible apply State.supv_fr; decide)
    | with_reducible apply Fr.id
    | with_reducible apply FrA.ite
    | with_reducible apply Fr.ite
    | dsimp only
    | split

theorem State.resetM_fr (s : State) (m : Marshal) :
    Fr [.ref] s (State.resetM s m) := by
  unfold State.resetM
  repeat' first
    | intro _
    | with_reducible apply Fr.refl
    | with_reducible assumption
    | (with_reducible apply State.onRef_st; decide; case hf => first | exact fun _ h => h | exact fun _ _ _ => rfl | (intro _ _ h; cases h) | ((intro r h); (try dsimp only); (repeat' split) <;> simpa using h))
    | with_reducible apply Fr.ite
    | dsimp only
    | split

theorem execResetMarshal_fr (via : Via) (arg : BitVec 8) (s : State) :
    FrA [.queues, .ref, .out] s (execResetMarshal via arg s) := by
  unfold execResetMarshal
  repeat' first
    | intro _
    | with_reducible apply Fr.refl
    | with_reducible assumption
    | with_reducible apply FrA.next
    | (with_reducible apply State.supv_fr; decide)
    | (with_reducible apply Fr.step (State.resetM_fr ..); decide)
    | with_reducible apply Fr.id
    | with_reducible apply FrA.ite
    | with_reducible apply Fr.ite
    | dsimp only
    | split

theorem execResetAll_fr (via : Via) (arg : BitVec 16) (s : State) :
    FrA [.queues, .mailboxes, .waiting, .jobs, .render, .land, .play, .stage, .link, .plate, .meas, .repair, .ref, .fw, .log, .out] s (execResetAll via arg s) := by
  unfold execResetAll
  repeat' first
    | intro _
    | with_reducible apply Fr.refl
    | with_reducible assumption
    | with_reducible apply FrA.next
    | (with_reducible apply State.supv_fr; decide)
    | (with_reducible apply Fr.step (State.safeEnter_fr ..); decide)
    | (with_reducible apply Fr.step (State.cleanStop_fr ..); decide)
    | (with_reducible apply State.onRef_st; decide; case hf => first | exact fun _ h => h | exact fun _ _ _ => rfl | (intro _ _ h; cases h) | ((intro r h); (try dsimp only); (repeat' split) <;> simpa using h))
    | (with_reducible apply Fr.step (State.onFw_fr ..); decide)
    | with_reducible apply Fr.id
    | with_reducible apply FrA.ite
    | with_reducible apply Fr.ite
    | dsimp only
    | split

theorem State.supvWrite_fr (s : State) (p : Port) (v : BitVec 64) :
    FrA [.queues, .mailboxes, .waiting, .jobs, .render, .land, .play, .stage, .link, .plate, .meas, .repair, .ref, .fw, .log, .out] s (State.supvWrite s p v) := by
  unfold State.supvWrite
  repeat' first
    | intro _
    | with_reducible apply Fr.refl
    | with_reducible assumption
    | with_reducible apply FrA.next
    | (with_reducible apply FrA.mono (execStatus_fr ..); decide)
    | (with_reducible apply Fr.step (stateOf_fr (execStatus_fr ..)); decide)
    | (with_reducible apply FrA.mono (execSnapshot_fr ..); decide)
    | (with_reducible apply Fr.step (stateOf_fr (execSnapshot_fr ..)); decide)
    | (with_reducible apply FrA.mono (execResetMarshal_fr ..); decide)
    | (with_reducible apply Fr.step (stateOf_fr (execResetMarshal_fr ..)); decide)
    | (with_reducible apply FrA.mono (execResetAll_fr ..); decide)
    | (with_reducible apply Fr.step (stateOf_fr (execResetAll_fr ..)); decide)
    | (with_reducible apply State.supv_fr; decide)
    | with_reducible apply Fr.id
    | with_reducible apply FrA.ite
    | with_reducible apply Fr.ite
    | dsimp only
    | split

theorem execSupvStatusRead_fr (_port : Port) (s : State) :
    FrA [.ref] s (execSupvStatusRead _port s) := by
  unfold execSupvStatusRead
  repeat' first
    | intro _
    | with_reducible apply Fr.refl
    | with_reducible assumption
    | with_reducible apply FrA.next
    | (with_reducible apply State.onRef_st; decide; case hf => first | exact fun _ h => h | exact fun _ _ _ => rfl | (intro _ _ h; cases h) | ((intro r h); (try dsimp only); (repeat' split) <;> simpa using h))
    | with_reducible apply FrA.ite
    | with_reducible apply Fr.ite
    | dsimp only
    | split

theorem execCounterFault_fr (which : TimeFault) (s : State) :
    FrA [.time, .queues, .mailboxes, .waiting, .jobs, .render, .land, .play, .stage, .link, .plate, .meas, .repair, .ref, .log, .out] s (execCounterFault which s) := by
  unfold execCounterFault
  repeat' first
    | intro _
    | with_reducible apply Fr.refl
    | with_reducible assumption
    | with_reducible apply FrA.next
    | (with_reducible apply Fr.step (State.fault_fr ..); decide)
    | (with_reducible apply Fr.step (State.safeEnter_fr ..); decide)
    | (with_reducible apply Fr.step (State.domUnlock_fr ..); decide)
    | (with_reducible apply Fr.step (State.reselect_fr ..); decide)
    | with_reducible apply FrA.ite
    | with_reducible apply Fr.ite
    | dsimp only
    | split

theorem execRefereeSelfCheck_fr (s : State) :
    FrA [.queues, .mailboxes, .waiting, .jobs, .render, .land, .play, .stage, .link, .plate, .meas, .repair, .ref, .log, .out] s (execRefereeSelfCheck s) := by
  unfold execRefereeSelfCheck
  repeat' first
    | intro _
    | with_reducible apply Fr.refl
    | with_reducible assumption
    | with_reducible apply FrA.next
    | (with_reducible apply Fr.step (State.safeEnter_fr ..); decide)
    | with_reducible apply FrA.ite
    | with_reducible apply Fr.ite
    | dsimp only
    | split

theorem execSmbusAlertResponse_fr (s : State) :
    FrA [.mgmt, .out] s (execSmbusAlertResponse s) := by
  unfold execSmbusAlertResponse
  repeat' first
    | intro _
    | with_reducible apply Fr.refl
    | with_reducible assumption
    | with_reducible apply FrA.next
    | (with_reducible apply Fr.step (State.onMgmt_fr ..); decide)
    | (with_reducible apply Fr.step (State.emit_fr ..); decide)
    | with_reducible apply FrA.ite
    | with_reducible apply Fr.ite
    | dsimp only
    | split

theorem execJtagInstruction_fr (i : JtagInstr) (s : State) :
    FrA [.mgmt] s (execJtagInstruction i s) := by
  unfold execJtagInstruction
  repeat' first
    | intro _
    | with_reducible apply Fr.refl
    | with_reducible assumption
    | with_reducible apply FrA.next
    | (with_reducible apply Fr.step (State.onMgmt_fr ..); decide)
    | with_reducible apply FrA.ite
    | with_reducible apply Fr.ite
    | dsimp only
    | split

end Sys2Proof.Machine
end

