-- ==== Sys2Proof/Laws/PowerOps.lean ====
section
/-!
SUPPORT. What each function and each meaning of Machine/PowerOps.lean may change.
-/

namespace Sys2Proof.Machine

@[simp] theorem StackCtl.trainAll_held (c : StackCtl) : (c.trainAll).heldWrites = c.heldWrites := rfl

theorem State.moduleReset_fr (s : State) (cause : BitVec 3) (keepTime aon unclean : Bool) (beam : Beam) :
    Fr [.time, .ports, .queues, .mailboxes, .waiting, .bells, .jobs, .render, .land, .bytes, .mc, .play, .beam, .stage, .pacer, .link, .plate, .cams, .meas, .dma, .repair, .ref, .fw, .power, .log, .ledger, .trace, .mgmt] s (s.moduleReset cause keepTime aon unclean beam) := by
  unfold State.moduleReset
  refine ⟨fun p => ?_, fun h => ?_, fun _ => rfl, fun _ _ => by cases aon <;> rfl⟩
  · cases p <;> first | exact Or.inl (by decide) | exact Or.inr rfl
  · obtain ⟨_, h2, h3, h4⟩ := h
    refine ⟨cellsWf_nil, h2, h3, ?_⟩
    dsimp only
    first
      | exact h4
      | exact cellsWf_nil
      | (split
         · exact h4
         · exact cellsWf_nil)

theorem State.hostReset_fr (s : State) (cause : BitVec 3) :
    Fr [.time, .ports, .queues, .mailboxes, .waiting, .bells, .jobs, .render, .land, .bytes, .mc, .play, .beam, .stage, .pacer, .link, .plate, .cams, .meas, .dma, .repair, .ref, .fw, .power, .log, .ledger, .trace, .mgmt] s (State.hostReset s cause) := by
  unfold State.hostReset
  repeat' first
    | intro _
    | with_reducible apply Fr.refl
    | with_reducible assumption
    | (with_reducible apply Fr.step (State.moduleReset_fr ..); decide)
    | (with_reducible apply Fr.step (State.loseHistory_fr ..); decide)
    | with_reducible apply Fr.ite
    | dsimp only
    | split

theorem execVinQualified_fr (s : State) :
    FrA [.time, .ports, .queues, .mailboxes, .waiting, .bells, .jobs, .render, .land, .bytes, .mc, .play, .beam, .stage, .pacer, .link, .plate, .cams, .meas, .dma, .repair, .ref, .fw, .power, .log, .ledger, .trace, .mgmt] s (execVinQualified s) := by
  unfold execVinQualified
  repeat' first
    | intro _
    | with_reducible apply Fr.refl
    | with_reducible assumption
    | with_reducible apply FrA.next
    | (with_reducible apply Fr.step (State.moduleReset_fr ..); decide)
    | (with_reducible apply Fr.step (State.onPower_fr ..); decide)
    | with_reducible apply FrA.ite
    | with_reducible apply Fr.ite
    | dsimp only
    | split

theorem execRailEnableTimeout_fr (rail : BitVec 3) (s : State) :
    FrA [.power, .log] s (execRailEnableTimeout rail s) := by
  unfold execRailEnableTimeout
  repeat' first
    | intro _
    | with_reducible apply Fr.refl
    | with_reducible assumption
    | with_reducible apply FrA.next
    | (with_reducible apply Fr.step (State.logEntry_fr ..); decide)
    | (with_reducible apply Fr.step (State.onPower_fr ..); decide)
    | with_reducible apply FrA.ite
    | with_reducible apply Fr.ite
    | dsimp only
    | split

theorem execRailRetry_fr (s : State) :
    FrA [.power] s (execRailRetry s) := by
  unfold execRailRetry
  repeat' first
    | intro _
    | with_reducible apply Fr.refl
    | with_reducible assumption
    | with_reducible apply FrA.next
    | (with_reducible apply Fr.step (State.onPower_fr ..); decide)
    | with_reducible apply FrA.ite
    | with_reducible apply Fr.ite
    | dsimp only
    | split

theorem execSupplyOutOfRange_fr (rail : BitVec 3) (s : State) :
    FrA [.queues, .mailboxes, .waiting, .jobs, .render, .land, .play, .stage, .link, .plate, .meas, .repair, .ref, .power, .log, .out] s (execSupplyOutOfRange rail s) := by
  unfold execSupplyOutOfRange
  repeat' first
    | intro _
    | with_reducible apply Fr.refl
    | with_reducible assumption
    | with_reducible apply FrA.next
    | (with_reducible apply Fr.step (State.onPower_fr ..); decide)
    | (with_reducible apply Fr.step (State.logEntry_fr ..); decide)
    | (with_reducible apply Fr.step (State.safeEnter_fr ..); decide)
    | with_reducible apply FrA.ite
    | with_reducible apply Fr.ite
    | dsimp only
    | split

theorem State.powerDown_fr (s : State) (unclean : Bool) :
    Fr [.time, .ports, .queues, .mailboxes, .waiting, .bells, .jobs, .render, .land, .bytes, .mc, .play, .beam, .stage, .pacer, .link, .plate, .cams, .meas, .dma, .repair, .ref, .fw, .power, .log, .ledger, .trace, .mgmt] s (State.powerDown s unclean) := by
  unfold State.powerDown
  repeat' first
    | intro _
    | with_reducible apply Fr.refl
    | with_reducible assumption
    | (with_reducible apply Fr.step (State.moduleReset_fr ..); decide)
    | (with_reducible apply Fr.step (State.onMeas_fr ..); decide)
    | with_reducible apply Fr.ite
    | dsimp only
    | split

theorem execSupplyLossWarning_fr (s : State) :
    FrA [.time, .ports, .queues, .mailboxes, .waiting, .bells, .jobs, .render, .land, .bytes, .mc, .play, .beam, .stage, .pacer, .link, .plate, .cams, .meas, .dma, .repair, .ref, .fw, .power, .log, .ledger, .trace, .mgmt, .out] s (execSupplyLossWarning s) := by
  unfold execSupplyLossWarning
  repeat' first
    | intro _
    | with_reducible apply Fr.refl
    | with_reducible assumption
    | with_reducible apply FrA.next
    | (with_reducible apply Fr.step (State.safeEnter_fr ..); decide)
    | (with_reducible apply Fr.step (State.cleanStop_fr ..); decide)
    | (with_reducible apply Fr.step (State.powerDown_fr ..); decide)
    | (with_reducible apply Fr.step (State.onPower_fr ..); decide)
    | (with_reducible apply State.onRef_st; decide; case hf => first | exact fun _ h => h | exact fun _ _ _ => rfl | (intro _ _ h; cases h) | ((intro r h); (try dsimp only); (repeat' split) <;> simpa using h))
    | with_reducible apply FrA.ite
    | with_reducible apply Fr.ite
    | dsimp only
    | split

theorem execAonRailOff_fr (s : State) :
    FrA [.time, .ports, .queues, .mailboxes, .waiting, .bells, .jobs, .render, .land, .bytes, .mc, .play, .beam, .stage, .pacer, .link, .plate, .cams, .meas, .dma, .repair, .ref, .fw, .power, .log, .ledger, .trace, .mgmt] s (execAonRailOff s) := by
  unfold execAonRailOff
  repeat' first
    | intro _
    | with_reducible apply Fr.refl
    | with_reducible assumption
    | with_reducible apply FrA.next
    | (with_reducible apply Fr.step (State.moduleReset_fr ..); decide)
    | (with_reducible apply Fr.step (State.onPower_fr ..); decide)
    | with_reducible apply FrA.ite
    | with_reducible apply Fr.ite
    | dsimp only
    | split

theorem State.linkDown_fr (s : State) (p : Port) :
    Fr [.ports] s (State.linkDown s p) := by
  unfold State.linkDown
  repeat' first
    | intro _
    | with_reducible apply Fr.refl
    | with_reducible assumption
    | (with_reducible apply State.onPort_fixed_st; decide; case hf => exact fun _ => ⟨rfl, rfl⟩)
    | with_reducible apply Fr.ite
    | dsimp only
    | split

theorem State.clockLost_fr (s : State) (c : Clock) :
    Fr [.time, .ports, .queues, .mailboxes, .waiting, .jobs, .render, .land, .mc, .play, .stage, .link, .plate, .meas, .repair, .ref, .power, .log, .out] s (State.clockLost s c) := by
  unfold State.clockLost
  repeat' first
    | intro _
    | with_reducible apply Fr.refl
    | with_reducible assumption
    | (with_reducible apply Fr.step (State.onPower_fr ..); decide)
    | (with_reducible apply Fr.step (State.safeEnter_fr ..); decide)
    | (with_reducible apply State.onMc_st; decide; case hf => first | exact fun _ => MemCtl.onStack_held _ _ _ fun _ => rfl | exact fun _ => ⟨rfl, rfl⟩ | (intro m; apply MemCtl.onStack_held; intro c; simp; done) | (intro m; simp; done))
    | (with_reducible apply Fr.step (State.netDown_fr ..); decide)
    | (with_reducible apply Fr.step (State.reselect_fr ..); decide)
    | (with_reducible apply Fr.step (State.linkDown_fr ..); decide)
    | with_reducible apply Fr.ite
    | dsimp only
    | split

theorem execPllUnlock_fr (clk : Clock) (s : State) :
    FrA [.time, .ports, .queues, .mailboxes, .waiting, .jobs, .render, .land, .mc, .play, .stage, .link, .plate, .meas, .repair, .ref, .power, .log, .out] s (execPllUnlock clk s) := by
  unfold execPllUnlock
  repeat' first
    | intro _
    | with_reducible apply Fr.refl
    | with_reducible assumption
    | with_reducible apply FrA.next
    | (with_reducible apply Fr.step (State.clockLost_fr ..); decide)
    | with_reducible apply FrA.ite
    | with_reducible apply Fr.ite
    | dsimp only
    | split

theorem execRefLost_fr (s : State) :
    FrA [.time, .ports, .queues, .mailboxes, .waiting, .jobs, .render, .land, .mc, .play, .stage, .link, .plate, .meas, .repair, .ref, .power, .log, .out] s (execRefLost s) := by
  unfold execRefLost
  repeat' first
    | intro _
    | with_reducible apply Fr.refl
    | with_reducible assumption
    | with_reducible apply FrA.next
    | (with_reducible apply Fr.step (State.onPower_fr ..); decide)
    | (with_reducible apply Fr.step (State.clockLost_fr ..); decide)
    | (with_reducible apply Fr.foldl)
    | with_reducible apply FrA.ite
    | with_reducible apply Fr.ite
    | dsimp only
    | split

theorem execRefRestored_fr (s : State) :
    FrA [.power] s (execRefRestored s) := by
  unfold execRefRestored
  repeat' first
    | intro _
    | with_reducible apply Fr.refl
    | with_reducible assumption
    | with_reducible apply FrA.next
    | (with_reducible apply Fr.step (State.onPower_fr ..); decide)
    | with_reducible apply FrA.ite
    | with_reducible apply Fr.ite
    | dsimp only
    | split

theorem State.loseLanded_fr (s : State) :
    Fr [.time, .queues, .jobs, .render, .land, .bytes, .mc, .play, .beam, .link, .plate, .meas, .dma, .repair, .ref, .power, .log, .ledger, .out] s (State.loseLanded s) := by
  unfold State.loseLanded
  repeat' first
    | intro _
    | with_reducible apply Fr.refl
    | with_reducible assumption
    | (with_reducible apply Fr.step (State.haltRun_fr ..); decide)
    | (with_reducible apply Fr.step (State.finishAbort_fr ..); decide)
    | (with_reducible apply State.onMem_st; decide; case hf => first | exact fun m h => Mem.write_wf h _ _ _ | exact fun m h => ⟨cellsWf_nil, h.2⟩)
    | (with_reducible apply Fr.foldl)
    | with_reducible apply Fr.ite
    | dsimp only
    | split

theorem execPllRelockAttempt_fr (clk : Clock) (locked : Bool) (s : State) :
    FrA [.time, .queues, .jobs, .render, .land, .bytes, .mc, .play, .beam, .link, .plate, .meas, .dma, .repair, .ref, .power, .log, .ledger, .out] s (execPllRelockAttempt clk locked s) := by
  unfold execPllRelockAttempt
  repeat' first
    | intro _
    | with_reducible apply Fr.refl
    | with_reducible assumption
    | with_reducible apply FrA.next
    | (with_reducible apply Fr.step (State.onPower_fr ..); decide)
    | (with_reducible apply State.onMc_st; decide; case hf => first | exact fun _ => MemCtl.onStack_held _ _ _ fun _ => rfl | exact fun _ => ⟨rfl, rfl⟩ | (intro m; apply MemCtl.onStack_held; intro c; simp; done) | (intro m; simp; done))
    | (with_reducible apply Fr.step (State.onMc_any_fr ..); decide)
    | (with_reducible apply Fr.step (State.centre_fr ..); decide)
    | (with_reducible apply Fr.step (State.loseLanded_fr ..); decide)
    | (with_reducible apply Fr.step (State.onTime_fr ..); decide)
    | with_reducible apply FrA.ite
    | with_reducible apply Fr.ite
    | dsimp only
    | split

theorem execResetN_fr (s : State) :
    FrA [.time, .ports, .queues, .mailboxes, .waiting, .bells, .jobs, .render, .land, .bytes, .mc, .play, .beam, .stage, .pacer, .link, .plate, .cams, .meas, .dma, .repair, .ref, .fw, .power, .log, .ledger, .trace, .mgmt] s (execResetN s) := by
  unfold execResetN
  repeat' first
    | intro _
    | with_reducible apply Fr.refl
    | with_reducible assumption
    | with_reducible apply FrA.next
    | (with_reducible apply Fr.step (State.moduleReset_fr ..); decide)
    | with_reducible apply FrA.ite
    | with_reducible apply Fr.ite
    | dsimp only
    | split

theorem execPerstN_fr (p : Port) (s : State) :
    FrA [.ports] s (execPerstN p s) := by
  unfold execPerstN
  repeat' first
    | intro _
    | with_reducible apply Fr.refl
    | with_reducible assumption
    | with_reducible apply FrA.next
    | (with_reducible apply Fr.step (State.linkDown_fr ..); decide)
    | with_reducible apply FrA.ite
    | with_reducible apply Fr.ite
    | dsimp only
    | split

theorem execThermalShutdown_fr (s : State) :
    FrA [.time, .ports, .queues, .mailboxes, .waiting, .bells, .jobs, .render, .land, .bytes, .mc, .play, .beam, .stage, .pacer, .link, .plate, .cams, .meas, .dma, .repair, .ref, .fw, .power, .log, .ledger, .trace, .mgmt, .out] s (execThermalShutdown s) := by
  unfold execThermalShutdown
  repeat' first
    | intro _
    | with_reducible apply Fr.refl
    | with_reducible assumption
    | with_reducible apply FrA.next
    | (with_reducible apply State.onRef_st; decide; case hf => first | exact fun _ h => h | exact fun _ _ _ => rfl | (intro _ _ h; cases h) | ((intro r h); (try dsimp only); (repeat' split) <;> simpa using h))
    | (with_reducible apply Fr.step (State.plateCommit_fr ..); decide)
    | (with_reducible apply Fr.step (State.logEntry_fr ..); decide)
    | (with_reducible apply Fr.step (State.cleanStop_fr ..); decide)
    | (with_reducible apply Fr.step (State.powerDown_fr ..); decide)
    | (with_reducible apply Fr.step (State.onPower_fr ..); decide)
    | with_reducible apply FrA.ite
    | with_reducible apply Fr.ite
    | dsimp only
    | split

theorem State.startFailure_fr (s : State) (r : BitVec 32) :
    Fr [.queues, .mc, .repair, .log, .out] s (State.startFailure s r) := by
  unfold State.startFailure
  repeat' first
    | intro _
    | with_reducible apply Fr.refl
    | with_reducible assumption
    | (with_reducible apply Fr.step (State.untrained_fr ..); decide)
    | (with_reducible apply Fr.step (State.setRState_fr ..); decide)
    | (with_reducible apply Fr.step (State.logEntry_fr ..); decide)
    | (with_reducible apply Fr.step (State.onRepairRec_fr ..); decide)
    | (with_reducible apply Fr.step (State.assignSpare_fr ..); decide)
    | with_reducible apply Fr.ite
    | dsimp only
    | split

theorem State.startFailures_fr (s : State) (rep : StartReport) :
    Fr [.queues, .mc, .repair, .log, .out] s (State.startFailures s rep) := by
  unfold State.startFailures
  repeat' first
    | intro _
    | with_reducible apply Fr.refl
    | with_reducible assumption
    | (with_reducible apply Fr.step (State.startFailure_fr ..); decide)
    | (with_reducible apply Fr.step (State.setRState_fr ..); decide)
    | (with_reducible apply State.onMc_st; decide; case hf => first | exact fun _ => MemCtl.onStack_held _ _ _ fun _ => rfl | exact fun _ => ⟨rfl, rfl⟩ | (intro m; apply MemCtl.onStack_held; intro c; simp; done) | (intro m; simp; done))
    | (with_reducible apply Fr.step (State.untrained_fr ..); decide)
    | (with_reducible apply Fr.step (State.stackFail_fr ..); decide)
    | (with_reducible apply Fr.foldl)
    | with_reducible apply Fr.ite
    | dsimp only
    | split

theorem State.bootMarshals_fr (s : State) (rep : StartReport) :
    Fr [.ref, .fw] s (State.bootMarshals s rep) := by
  unfold State.bootMarshals
  repeat' first
    | intro _
    | with_reducible apply Fr.refl
    | with_reducible assumption
    | (with_reducible apply State.onRef_st; decide; case hf => first | exact fun _ h => h | exact fun _ _ _ => rfl | (intro _ _ h; cases h) | ((intro r h); (try dsimp only); (repeat' split) <;> simpa using h))
    | (with_reducible apply Fr.step (State.onFw_fr ..); decide)
    | with_reducible apply Fr.ite
    | dsimp only
    | split

theorem State.reachReady_fr (s : State) :
    Fr [.queues, .fw, .power, .log, .out] s (State.reachReady s) := by
  unfold State.reachReady
  repeat' first
    | intro _
    | with_reducible apply Fr.refl
    | with_reducible assumption
    | (with_reducible apply Fr.step (State.onPower_fr ..); decide)
    | (with_reducible apply Fr.step (State.onFw_fr ..); decide)
    | (with_reducible apply Fr.step (State.raise_fr ..); decide)
    | (with_reducible apply Fr.step (State.logEntry_fr ..); decide)
    | with_reducible apply Fr.ite
    | dsimp only
    | split

theorem State.startLanes_fr (s : State) :
    Fr [.link, .out] s (State.startLanes s) := by
  unfold State.startLanes
  repeat' first
    | intro _
    | with_reducible apply Fr.refl
    | with_reducible assumption
    | (with_reducible apply Fr.step (State.startTraining_fr ..); decide)
    | (with_reducible apply Fr.foldl)
    | with_reducible apply Fr.ite
    | dsimp only
    | split

theorem State.startUp_fr (s : State) (rep : StartReport) :
    Fr [.time, .queues, .mailboxes, .waiting, .jobs, .render, .land, .mc, .play, .stage, .link, .plate, .meas, .repair, .ref, .fw, .power, .log, .mgmt, .out] s (State.startUp s rep) := by
  unfold State.startUp
  repeat' first
    | intro _
    | with_reducible apply Fr.refl
    | with_reducible assumption
    | (with_reducible apply Fr.step (State.onPower_fr ..); decide)
    | (with_reducible apply Fr.step (State.onMgmt_fr ..); decide)
    | (with_reducible apply Fr.step (State.bootMarshals_fr ..); decide)
    | (with_reducible apply Fr.step (State.onTime_fr ..); decide)
    | (with_reducible apply Fr.step (State.startFailures_fr ..); decide)
    | (with_reducible apply Fr.step (State.startLanes_fr ..); decide)
    | (with_reducible apply Fr.step (State.centre_fr ..); decide)
    | (with_reducible apply Fr.step (State.safeEnter_fr ..); decide)
    | (with_reducible apply Fr.step (State.reachReady_fr ..); decide)
    | with_reducible apply Fr.ite
    | dsimp only
    | split

theorem execStartInstant_fr (rep : StartReport) (s : State) :
    FrA [.time, .ports, .queues, .mailboxes, .waiting, .bells, .jobs, .render, .land, .bytes, .mc, .play, .beam, .stage, .pacer, .link, .plate, .cams, .meas, .dma, .repair, .ref, .fw, .power, .log, .ledger, .trace, .mgmt, .out] s (execStartInstant rep s) := by
  unfold execStartInstant
  repeat' first
    | intro _
    | with_reducible apply Fr.refl
    | with_reducible assumption
    | with_reducible apply FrA.next
    | (with_reducible apply Fr.step (State.hostReset_fr ..); decide)
    | (with_reducible apply Fr.step (State.startUp_fr ..); decide)
    | with_reducible apply FrA.ite
    | with_reducible apply Fr.ite
    | dsimp only
    | split

end Sys2Proof.Machine
end

