-- ==== Sys2Proof/Laws/Service.lean ====
section
/-!
SUPPORT. What each function and each meaning of Machine/Service.lean may change.
-/

namespace Sys2Proof.Machine

theorem execRepairQuery_fr (src : Src) (node : BitVec 32) (buf : Option BufRef) (s : State) :
    FrA [.queues, .mailboxes, .bytes, .out] s (execRepairQuery src node buf s) := by
  unfold execRepairQuery
  repeat' first
    | intro _
    | with_reducible apply Fr.refl
    | with_reducible assumption
    | with_reducible apply FrA.next
    | (with_reducible apply State.command_fr; decide)
    | (with_reducible apply Fr.step (State.ok_fr ..); decide)
    | (with_reducible apply Fr.step (State.respond_fr ..); decide)
    | (with_reducible apply State.sized_fr; decide)
    | (with_reducible apply Fr.step (State.writeBuf_fr ..); decide)
    | with_reducible apply FrA.ite
    | with_reducible apply Fr.ite
    | dsimp only
    | split

theorem execRepairPolicy_fr (src : Src) (manual : Bool) (s : State) :
    FrA [.queues, .mailboxes, .repair, .out] s (execRepairPolicy src manual s) := by
  unfold execRepairPolicy
  repeat' first
    | intro _
    | with_reducible apply Fr.refl
    | with_reducible assumption
    | with_reducible apply FrA.next
    | (with_reducible apply Fr.step (State.onRepair_fr ..); decide)
    | (with_reducible apply Fr.step (State.ok_fr ..); decide)
    | with_reducible apply FrA.ite
    | with_reducible apply Fr.ite
    | dsimp only
    | split

theorem execRepairSpare_fr (src : Src) (node : BitVec 32) (s : State) :
    FrA [.queues, .mailboxes, .mc, .repair, .log, .out] s (execRepairSpare src node s) := by
  unfold execRepairSpare
  repeat' first
    | intro _
    | with_reducible apply Fr.refl
    | with_reducible assumption
    | with_reducible apply FrA.next
    | (with_reducible apply Fr.step (State.fail_fr ..); decide)
    | (with_reducible apply State.command_fr; decide)
    | (with_reducible apply Fr.step (State.startRetire_fr ..); decide)
    | (with_reducible apply Fr.step (State.respond_fr ..); decide)
    | (with_reducible apply Fr.step (State.onRepairRec_fr ..); decide)
    | (with_reducible apply Fr.step (State.assignSpare_fr ..); decide)
    | with_reducible apply FrA.ite
    | with_reducible apply Fr.ite
    | dsimp only
    | split

theorem State.laneReturn_fr (s : State) (r : BitVec 32) (cmd pass : Bool) :
    Fr [.link] s (State.laneReturn s r cmd pass) := by
  unfold State.laneReturn
  repeat' first
    | intro _
    | with_reducible apply Fr.refl
    | with_reducible assumption
    | (with_reducible apply Fr.step (State.onLane_fr ..); decide)
    | with_reducible apply Fr.ite
    | dsimp only
    | split

theorem State.unitReset_fr (s : State) (r : BitVec 32) (cmd pass : Bool) :
    Fr [.queues, .jobs, .render, .land, .play, .beam, .link, .repair, .log, .out] s (State.unitReset s r cmd pass) := by
  unfold State.unitReset
  repeat' first
    | intro _
    | with_reducible apply Fr.refl
    | with_reducible assumption
    | (with_reducible apply Fr.step (State.resetHistory_fr ..); decide)
    | (with_reducible apply Fr.step (State.onRepairRec_fr ..); decide)
    | (with_reducible apply Fr.step (State.laneReturn_fr ..); decide)
    | (with_reducible apply Fr.step (State.onJobs_fr ..); decide)
    | with_reducible apply Fr.ite
    | dsimp only
    | split

theorem execRepairReturn_fr (src : Src) (node : BitVec 32) (s : State) :
    FrA [.queues, .mailboxes, .jobs, .render, .land, .play, .beam, .link, .repair, .log, .out] s (execRepairReturn src node s) := by
  unfold execRepairReturn
  repeat' first
    | intro _
    | with_reducible apply Fr.refl
    | with_reducible assumption
    | with_reducible apply FrA.next
    | (with_reducible apply Fr.step (State.fail_fr ..); decide)
    | (with_reducible apply State.command_fr; decide)
    | (with_reducible apply Fr.step (State.unitReset_fr ..); decide)
    | (with_reducible apply Fr.step (State.draw_fr ..); decide)
    | (with_reducible apply Fr.step (State.ok_fr ..); decide)
    | with_reducible apply FrA.ite
    | with_reducible apply Fr.ite
    | dsimp only
    | split

theorem State.quarantineBy_fr (s : State) (src : Src) (r : BitVec 32) :
    Fr [.queues, .repair, .out] s (State.quarantineBy s src r) := by
  unfold State.quarantineBy
  repeat' first
    | intro _
    | with_reducible apply Fr.refl
    | with_reducible assumption
    | (with_reducible apply Fr.step (State.setRState_fr ..); decide)
    | (with_reducible apply Fr.step (State.raiseVia_fr ..); decide)
    | with_reducible apply Fr.ite
    | dsimp only
    | split

theorem State.stopUnit_fr (s : State) (r : BitVec 32) (abort : Bool) :
    Fr [.queues, .mailboxes, .waiting, .render, .bytes, .link, .plate, .cams, .meas, .dma, .repair, .ref, .log, .out] s (State.stopUnit s r abort) := by
  unfold State.stopUnit
  repeat' first
    | intro _
    | with_reducible apply Fr.refl
    | with_reducible assumption
    | (with_reducible apply Fr.step (State.dmaAbort_fr ..); decide)
    | (with_reducible apply Fr.step (State.dmaDrain_fr ..); decide)
    | (with_reducible apply Fr.step (State.dropFrame_fr ..); decide)
    | (with_reducible apply Fr.step (State.onCam_fr ..); decide)
    | (with_reducible apply Fr.step (State.settleCam_fr ..); decide)
    | (with_reducible apply Fr.step (State.quarantineEngine_fr ..); decide)
    | (with_reducible apply Fr.foldl)
    | with_reducible apply Fr.ite
    | dsimp only
    | split

theorem execRepairDisable_fr (src : Src) (node : BitVec 32) (abort : Bool) (s : State) :
    FrA [.queues, .mailboxes, .waiting, .jobs, .render, .land, .bytes, .play, .link, .plate, .cams, .meas, .dma, .repair, .ref, .log, .out] s (execRepairDisable src node abort s) := by
  unfold execRepairDisable
  repeat' first
    | intro _
    | with_reducible apply Fr.refl
    | with_reducible assumption
    | with_reducible apply FrA.next
    | (with_reducible apply Fr.step (State.fail_fr ..); decide)
    | (with_reducible apply State.command_fr; decide)
    | (with_reducible apply Fr.step (State.abortLane_fr ..); decide)
    | (with_reducible apply Fr.step (State.ok_fr ..); decide)
    | (with_reducible apply Fr.step (State.drainLane_fr ..); decide)
    | (with_reducible apply Fr.step (State.stopUnit_fr ..); decide)
    | (with_reducible apply Fr.step (State.quarantineBy_fr ..); decide)
    | (with_reducible apply Fr.step (State.wait_fr ..); decide)
    | with_reducible apply FrA.ite
    | with_reducible apply Fr.ite
    | dsimp only
    | split

theorem execSelfTestAtIdle_fr (node : BitVec 32) (pass : Bool) (s : State) :
    FrA [.queues, .jobs, .render, .land, .play, .beam, .link, .repair, .log, .out] s (execSelfTestAtIdle node pass s) := by
  unfold execSelfTestAtIdle
  repeat' first
    | intro _
    | with_reducible apply Fr.refl
    | with_reducible assumption
    | with_reducible apply FrA.next
    | (with_reducible apply Fr.step (State.unitReset_fr ..); decide)
    | with_reducible apply FrA.ite
    | with_reducible apply Fr.ite
    | dsimp only
    | split

theorem execTraceStart_fr (src : Src) (srcmask : BitVec 8) (buf : BufRef) (s : State) :
    FrA [.queues, .mailboxes, .trace, .out] s (execTraceStart src srcmask buf s) := by
  unfold execTraceStart
  repeat' first
    | intro _
    | with_reducible apply Fr.refl
    | with_reducible assumption
    | with_reducible apply FrA.next
    | (with_reducible apply State.command_fr; decide)
    | (with_reducible apply Fr.step (State.onTrace_fr ..); decide)
    | (with_reducible apply Fr.step (State.ok_fr ..); decide)
    | with_reducible apply FrA.ite
    | with_reducible apply Fr.ite
    | dsimp only
    | split

theorem execTraceStop_fr (src : Src) (_abort : Bool) (s : State) :
    FrA [.queues, .mailboxes, .trace, .out] s (execTraceStop src _abort s) := by
  unfold execTraceStop
  repeat' first
    | intro _
    | with_reducible apply Fr.refl
    | with_reducible assumption
    | with_reducible apply FrA.next
    | (with_reducible apply State.command_fr; decide)
    | (with_reducible apply Fr.step (State.onTrace_fr ..); decide)
    | (with_reducible apply Fr.step (State.ok_fr ..); decide)
    | with_reducible apply FrA.ite
    | with_reducible apply Fr.ite
    | dsimp only
    | split

theorem execTraceStatus_fr (src : Src) (s : State) :
    FrA [.queues, .mailboxes, .out] s (execTraceStatus src s) := by
  unfold execTraceStatus
  repeat' first
    | intro _
    | with_reducible apply Fr.refl
    | with_reducible assumption
    | with_reducible apply FrA.next
    | (with_reducible apply Fr.step (State.ok_fr ..); decide)
    | with_reducible apply FrA.ite
    | with_reducible apply Fr.ite
    | dsimp only
    | split

end Sys2Proof.Machine
end

