-- ==== Sys2Proof/Laws/Hosts.lean ====
section
/-!
SUPPORT. What each function and each meaning of Machine/Hosts.lean may change.
-/

namespace Sys2Proof.Machine

theorem execSysIdent_fr (src : Src) (s : State) :
    FrA [.queues, .mailboxes, .out] s (execSysIdent src s) := by
  unfold execSysIdent
  repeat' first
    | intro _
    | with_reducible apply Fr.refl
    | with_reducible assumption
    | with_reducible apply FrA.next
    | (with_reducible apply Fr.step (State.ok_fr ..); decide)
    | with_reducible apply FrA.ite
    | with_reducible apply Fr.ite
    | dsimp only
    | split

theorem execSysClaim_fr (src : Src) (lease : BitVec 32) (s : State) :
    FrA [.ports, .queues, .mailboxes, .out] s (execSysClaim src lease s) := by
  unfold execSysClaim
  repeat' first
    | intro _
    | with_reducible apply Fr.refl
    | with_reducible assumption
    | with_reducible apply FrA.next
    | (with_reducible apply State.command_fr; decide)
    | (with_reducible apply Fr.step (State.onMb_fr ..); decide)
    | (with_reducible apply State.onPort_fixed_st; decide; case hf => exact fun _ => ⟨rfl, rfl⟩)
    | (with_reducible apply State.onPort_queue_st; decide; case hf => exact fun _ => ⟨rfl, rfl⟩)
    | (with_reducible apply Fr.step (State.ok_fr ..); decide)
    | with_reducible apply FrA.ite
    | with_reducible apply Fr.ite
    | dsimp only
    | split

theorem execSysRelease_fr (src : Src) (s : State) :
    FrA [.queues, .mailboxes, .out] s (execSysRelease src s) := by
  unfold execSysRelease
  repeat' first
    | intro _
    | with_reducible apply Fr.refl
    | with_reducible assumption
    | with_reducible apply FrA.next
    | (with_reducible apply Fr.step (State.ok_fr ..); decide)
    | (with_reducible apply Fr.step (State.onMb_fr ..); decide)
    | with_reducible apply FrA.ite
    | with_reducible apply Fr.ite
    | dsimp only
    | split

theorem execSysTakeover_fr (src : Src) (mbmask : BitVec 16) (lease : BitVec 32) (s : State) :
    FrA [.ports, .queues, .mailboxes, .jobs, .out] s (execSysTakeover src mbmask lease s) := by
  unfold execSysTakeover
  repeat' first
    | intro _
    | with_reducible apply Fr.refl
    | with_reducible assumption
    | with_reducible apply FrA.next
    | (with_reducible apply State.command_fr; decide)
    | (with_reducible apply State.onHost_mbs_st; decide; (case hf => exact fun _ => ⟨rfl, rfl, rfl, rfl⟩); (case hl => intro x; simp))
    | (with_reducible apply Fr.step (State.onJobs_fr ..); decide)
    | (with_reducible apply State.onPort_fixed_st; decide; case hf => exact fun _ => ⟨rfl, rfl⟩)
    | (with_reducible apply State.onPort_queue_st; decide; case hf => exact fun _ => ⟨rfl, rfl⟩)
    | (with_reducible apply Fr.step (State.ok_fr ..); decide)
    | with_reducible apply FrA.ite
    | with_reducible apply Fr.ite
    | dsimp only
    | split

theorem execSysEventq_fr (src : Src) (base : BitVec 48) (space : BitVec 4) (log2n : BitVec 5) (s : State) :
    FrA [.ports, .queues, .mailboxes, .bytes, .out] s (execSysEventq src base space log2n s) := by
  unfold execSysEventq
  repeat' first
    | intro _
    | with_reducible apply Fr.refl
    | with_reducible assumption
    | with_reducible apply FrA.next
    | (with_reducible apply State.command_fr; decide)
    | (with_reducible apply State.onPort_fixed_st; decide; case hf => exact fun _ => ⟨rfl, rfl⟩)
    | (with_reducible apply State.onPort_queue_st; decide; case hf => exact fun _ => ⟨rfl, rfl⟩)
    | (with_reducible apply Fr.step (State.onPort_fr ..); decide)
    | (with_reducible apply Fr.step (State.drainEvents_fr ..); decide)
    | (with_reducible apply Fr.step (State.ok_fr ..); decide)
    | with_reducible apply FrA.ite
    | with_reducible apply Fr.ite
    | dsimp only
    | split

theorem execEvqRpWrite_fr (port : Port) (value : BitVec 64) (s : State) :
    FrA [.queues, .out] s (execEvqRpWrite port value s) := by
  unfold execEvqRpWrite
  repeat' first
    | intro _
    | with_reducible apply Fr.refl
    | with_reducible assumption
    | with_reducible apply FrA.next
    | (with_reducible apply Fr.step (State.drainEvents_fr ..); decide)
    | (with_reducible apply State.onPort_fixed_st; decide; case hf => exact fun _ => ⟨rfl, rfl⟩)
    | (with_reducible apply State.onPort_queue_st; decide; case hf => exact fun _ => ⟨rfl, rfl⟩)
    | with_reducible apply FrA.ite
    | with_reducible apply Fr.ite
    | dsimp only
    | split

theorem execSysRollcall_fr (src : Src) (buf : BufRef) (s : State) :
    FrA [.queues, .mailboxes, .bytes, .out] s (execSysRollcall src buf s) := by
  unfold execSysRollcall
  repeat' first
    | intro _
    | with_reducible apply Fr.refl
    | with_reducible assumption
    | with_reducible apply FrA.next
    | (with_reducible apply State.command_fr; decide)
    | (with_reducible apply Fr.step (State.writeBuf_fr ..); decide)
    | (with_reducible apply Fr.step (State.ok_fr ..); decide)
    | with_reducible apply FrA.ite
    | with_reducible apply Fr.ite
    | dsimp only
    | split

theorem execSysReset_fr (src : Src) (scope : BitVec 2) (node : BitVec 32) (s : State) :
    FrA [.time, .ports, .queues, .mailboxes, .waiting, .bells, .jobs, .render, .land, .bytes, .mc, .play, .beam, .stage, .pacer, .link, .plate, .cams, .meas, .dma, .repair, .ref, .fw, .power, .log, .ledger, .trace, .mgmt, .out] s (execSysReset src scope node s) := by
  unfold execSysReset
  repeat' first
    | intro _
    | with_reducible apply Fr.refl
    | with_reducible assumption
    | with_reducible apply FrA.next
    | (with_reducible apply State.command_fr; decide)
    | (with_reducible apply Fr.step (State.cleanStop_fr ..); decide)
    | (with_reducible apply Fr.step (State.ok_fr ..); decide)
    | (with_reducible apply Fr.step (State.hostReset_fr ..); decide)
    | (with_reducible apply Fr.step (State.resetM_fr ..); decide)
    | (with_reducible apply Fr.step (State.unitReset_fr ..); decide)
    | (with_reducible apply Fr.step (State.draw_fr ..); decide)
    | (with_reducible apply Fr.step (State.fail_fr ..); decide)
    | with_reducible apply FrA.ite
    | with_reducible apply Fr.ite
    | dsimp only
    | split

theorem execSysFwStage_fr (src : Src) (buf : BufRef) (s : State) :
    FrA [.queues, .mailboxes, .fw, .out] s (execSysFwStage src buf s) := by
  unfold execSysFwStage
  repeat' first
    | intro _
    | with_reducible apply Fr.refl
    | with_reducible assumption
    | with_reducible apply FrA.next
    | (with_reducible apply State.command_fr; decide)
    | (with_reducible apply Fr.step (State.onFw_fr ..); decide)
    | (with_reducible apply Fr.step (State.ok_fr ..); decide)
    | with_reducible apply FrA.ite
    | with_reducible apply Fr.ite
    | dsimp only
    | split

theorem execSysFwSwitch_fr (src : Src) (s : State) :
    FrA [.queues, .mailboxes, .ref, .fw, .out] s (execSysFwSwitch src s) := by
  unfold execSysFwSwitch
  repeat' first
    | intro _
    | with_reducible apply Fr.refl
    | with_reducible assumption
    | with_reducible apply FrA.next
    | (with_reducible apply State.command_fr; decide)
    | (with_reducible apply Fr.step (State.resetM_fr ..); decide)
    | (with_reducible apply Fr.step (State.onFw_fr ..); decide)
    | (with_reducible apply Fr.step (State.respond_fr ..); decide)
    | with_reducible apply FrA.ite
    | with_reducible apply Fr.ite
    | dsimp only
    | split

theorem execSysFaultlogRead_fr (src : Src) (first count : BitVec 32) (buf : BufRef) (s : State) :
    FrA [.queues, .mailboxes, .bytes, .out] s (execSysFaultlogRead src first count buf s) := by
  unfold execSysFaultlogRead
  repeat' first
    | intro _
    | with_reducible apply Fr.refl
    | with_reducible assumption
    | with_reducible apply FrA.next
    | (with_reducible apply State.command_fr; decide)
    | (with_reducible apply Fr.step (State.writeBuf_fr ..); decide)
    | (with_reducible apply Fr.step (State.ok_fr ..); decide)
    | with_reducible apply FrA.ite
    | with_reducible apply Fr.ite
    | dsimp only
    | split

theorem State.depart_fr (s : State) (p : Port) :
    Fr [.ports, .queues, .out] s (State.depart s p) := by
  unfold State.depart
  repeat' first
    | intro _
    | with_reducible apply Fr.refl
    | with_reducible assumption
    | (with_reducible apply State.onPort_fixed_st; decide; case hf => exact fun _ => ⟨rfl, rfl⟩)
    | (with_reducible apply State.onPort_queue_st; decide; case hf => exact fun _ => ⟨rfl, rfl⟩)
    | (with_reducible apply Fr.step (State.raise_fr ..); decide)
    | with_reducible apply Fr.ite
    | dsimp only
    | split

theorem execHostLinkDown_fr (p : Port) (s : State) :
    FrA [.ports, .queues, .out] s (execHostLinkDown p s) := by
  unfold execHostLinkDown
  repeat' first
    | intro _
    | with_reducible apply Fr.refl
    | with_reducible assumption
    | with_reducible apply FrA.next
    | (with_reducible apply Fr.step (State.linkDown_fr ..); decide)
    | (with_reducible apply Fr.step (State.depart_fr ..); decide)
    | with_reducible apply FrA.ite
    | with_reducible apply Fr.ite
    | dsimp only
    | split

theorem execHostLinkUp_fr (p : Port) (s : State) :
    FrA [.ports, .queues, .out] s (execHostLinkUp p s) := by
  unfold execHostLinkUp
  repeat' first
    | intro _
    | with_reducible apply Fr.refl
    | with_reducible assumption
    | with_reducible apply FrA.next
    | (with_reducible apply State.onPort_fixed_st; decide; case hf => exact fun _ => ⟨rfl, rfl⟩)
    | (with_reducible apply State.onPort_queue_st; decide; case hf => exact fun _ => ⟨rfl, rfl⟩)
    | (with_reducible apply Fr.step (State.raise_fr ..); decide)
    | with_reducible apply FrA.ite
    | with_reducible apply Fr.ite
    | dsimp only
    | split

theorem execHostLeaseExpiry_fr (p : Port) (s : State) :
    FrA [.ports, .queues, .out] s (execHostLeaseExpiry p s) := by
  unfold execHostLeaseExpiry
  repeat' first
    | intro _
    | with_reducible apply Fr.refl
    | with_reducible assumption
    | with_reducible apply FrA.next
    | (with_reducible apply Fr.step (State.depart_fr ..); decide)
    | with_reducible apply FrA.ite
    | with_reducible apply Fr.ite
    | dsimp only
    | split

theorem State.recheck_fr (s : State) (mb : BitVec 4) (w : Waiting) :
    Fr [.queues, .mailboxes, .waiting, .jobs, .render, .land, .bytes, .play, .beam, .cams, .meas, .dma, .repair, .ref, .log, .ledger, .out] s (State.recheck s mb w) := by
  unfold State.recheck
  repeat' first
    | intro _
    | with_reducible apply Fr.refl
    | with_reducible assumption
    | (with_reducible apply Fr.step (State.unwait_fr ..); decide)
    | (with_reducible apply Fr.step (State.goTry_fr ..); decide)
    | (with_reducible apply Fr.step (State.fail_fr ..); decide)
    | (with_reducible apply Fr.step (State.ok_fr ..); decide)
    | (with_reducible apply Fr.step (State.finishAbort_fr ..); decide)
    | (with_reducible apply Fr.step (State.settleDrain_fr ..); decide)
    | (with_reducible apply Fr.step (State.setRing_fr ..); decide)
    | (with_reducible apply Fr.step (State.quarantineBy_fr ..); decide)
    | (with_reducible apply Fr.step (State.trimAnswer_fr ..); decide)
    | with_reducible apply Fr.ite
    | dsimp only
    | split

theorem execWaitingCommandComplete_fr (mb : BitVec 4) (s : State) :
    FrA [.queues, .mailboxes, .waiting, .jobs, .render, .land, .bytes, .play, .beam, .cams, .meas, .dma, .repair, .ref, .log, .ledger, .out] s (execWaitingCommandComplete mb s) := by
  unfold execWaitingCommandComplete
  repeat' first
    | intro _
    | with_reducible apply Fr.refl
    | with_reducible assumption
    | with_reducible apply FrA.next
    | (with_reducible apply Fr.step (State.recheck_fr ..); decide)
    | with_reducible apply FrA.ite
    | with_reducible apply Fr.ite
    | dsimp only
    | split

end Sys2Proof.Machine
end

