-- ==== Sys2Proof/Laws/Mailbox.lean ====
section
/-!
SUPPORT. What each function and each meaning of Machine/Mailbox.lean may change.
-/

namespace Sys2Proof.Machine

/-- A mailbox command, if there is one, changes only the parts named. -/
def OCmd (ps : List Part) (o : Option Cmd) : Prop := ∀ c, o = some c → ∀ s, FrA ps s (c.run s)

theorem OCmd.none {ps : List Part} : OCmd ps none := fun _ h => by cases h

theorem OCmd.some {ps : List Part} {c : Cmd} (h : ∀ s, FrA ps s (c.run s)) : OCmd ps (some c) := fun d hd => by
  cases hd
  exact h

theorem OCmd.ite {ps : List Part} {p : Prop} [Decidable p] {a b : Option Cmd} (ha : OCmd ps a) (hb : OCmd ps b) :
    OCmd ps (if p then a else b) := by
  split
  · exact ha
  · exact hb

theorem OCmd.mono {ps qs : List Part} {o : Option Cmd} (h : OCmd qs o) (hq : qs.all ps.contains = true) :
    OCmd ps o := fun c hc s => (h c hc s).mono hq

theorem stateOf_fr {ps : List Part} {s : State} {a : Answer} (h : FrA ps s a) : Fr ps s (stateOf a s) := by
  obtain ⟨t, rfl, h⟩ := h
  exact h

theorem State.checked_ok {s : State} {c : Option Cmd} {h : Word} {d : Cmd} (hc : s.checked c h = .ok d) :
    c = some d := by
  unfold State.checked at hc
  repeat' split at hc
  all_goals first | cases hc; rfl | cases hc

theorem cmdSys_fr (op : Nat) (src : Src) (b : Body) :
    OCmd [.time, .ports, .queues, .mailboxes, .waiting, .bells, .jobs, .render, .land, .bytes, .mc, .play, .beam, .stage, .pacer, .link, .plate, .cams, .meas, .dma, .repair, .ref, .fw, .power, .log, .ledger, .trace, .mgmt, .out] (cmdSys op src b) := by
  unfold cmdSys
  repeat' first
    | with_reducible apply OCmd.none
    | with_reducible apply OCmd.some
    | with_reducible intro _
    | (with_reducible apply FrA.mono (execSysIdent_fr ..); decide)
    | (with_reducible apply FrA.mono (execSysClaim_fr ..); decide)
    | (with_reducible apply FrA.mono (execSysRelease_fr ..); decide)
    | (with_reducible apply FrA.mono (execSysTakeover_fr ..); decide)
    | (with_reducible apply FrA.mono (execSysEventq_fr ..); decide)
    | (with_reducible apply FrA.mono (execSysRollcall_fr ..); decide)
    | (with_reducible apply FrA.mono (execSysReset_fr ..); decide)
    | (with_reducible apply FrA.mono (execSysFwStage_fr ..); decide)
    | (with_reducible apply FrA.mono (execSysFwSwitch_fr ..); decide)
    | (with_reducible apply FrA.mono (execSysFaultlogRead_fr ..); decide)
    | with_reducible apply OCmd.ite
    | dsimp only
    | split

theorem cmdJob_fr (op : Nat) (src : Src) (abort : Bool) (b : Body) :
    OCmd [.time, .queues, .mailboxes, .waiting, .jobs, .render, .land, .bytes, .mc, .play, .meas, .dma, .ref, .power, .log, .ledger, .out] (cmdJob op src abort b) := by
  unfold cmdJob
  repeat' first
    | with_reducible apply OCmd.none
    | with_reducible apply OCmd.some
    | with_reducible intro _
    | (with_reducible apply FrA.mono (execJobOpen_fr ..); decide)
    | (with_reducible apply FrA.mono (execJobFeed_fr ..); decide)
    | (with_reducible apply FrA.mono (execJobQuery_fr ..); decide)
    | (with_reducible apply FrA.mono (execJobAbort_fr ..); decide)
    | (with_reducible apply FrA.mono (execJobClose_fr ..); decide)
    | (with_reducible apply FrA.mono (execJobLedgerRead_fr ..); decide)
    | with_reducible apply OCmd.ite
    | dsimp only
    | split

theorem cmdStripe_fr (op : Nat) (src : Src) (abort : Bool) (n : Nat) (b : Body) :
    OCmd [.time, .queues, .mailboxes, .waiting, .jobs, .render, .land, .bytes, .mc, .play, .beam, .stage, .link, .meas, .repair, .ref, .power, .log, .ledger, .out] (cmdStripe op src abort n b) := by
  unfold cmdStripe
  repeat' first
    | with_reducible apply OCmd.none
    | with_reducible apply OCmd.some
    | with_reducible intro _
    | (with_reducible apply FrA.mono (execStripeStatus_fr ..); decide)
    | (with_reducible apply FrA.mono (execStripeArm_fr ..); decide)
    | (with_reducible apply FrA.mono (execStripeDisarm_fr ..); decide)
    | (with_reducible apply FrA.mono (execStripeGo_fr ..); decide)
    | (with_reducible apply FrA.mono (execStripeStop_fr ..); decide)
    | (with_reducible apply FrA.mono (execStripeResume_fr ..); decide)
    | (with_reducible apply FrA.mono (execStripeRelease_fr ..); decide)
    | with_reducible apply OCmd.ite
    | dsimp only
    | split

theorem cmdBeam_fr (op : Nat) (src : Src) (b : Body) :
    OCmd [.queues, .mailboxes, .bytes, .beam, .out] (cmdBeam op src b) := by
  unfold cmdBeam
  repeat' first
    | with_reducible apply OCmd.none
    | with_reducible apply OCmd.some
    | with_reducible intro _
    | (with_reducible apply FrA.mono (execBeamGainLoad_fr ..); decide)
    | (with_reducible apply FrA.mono (execBeamDeadSet_fr ..); decide)
    | (with_reducible apply FrA.mono (execBeamDeadClear_fr ..); decide)
    | (with_reducible apply FrA.mono (execBeamStuckClear_fr ..); decide)
    | (with_reducible apply FrA.mono (execBeamHistoryRead_fr ..); decide)
    | (with_reducible apply FrA.mono (execBeamHistoryPolicy_fr ..); decide)
    | (with_reducible apply FrA.mono (execBeamFitSeal_fr ..); decide)
    | (with_reducible apply FrA.mono (execBeamStatus_fr ..); decide)
    | with_reducible apply OCmd.ite
    | dsimp only
    | split

theorem cmdStage_fr (op : Nat) (src : Src) (b : Body) :
    OCmd [.queues, .mailboxes, .stage, .pacer, .out] (cmdStage op src b) := by
  unfold cmdStage
  repeat' first
    | with_reducible apply OCmd.none
    | with_reducible apply OCmd.some
    | with_reducible intro _
    | (with_reducible apply FrA.mono (execStageConfig_fr ..); decide)
    | (with_reducible apply FrA.mono (execStageMarks_fr ..); decide)
    | (with_reducible apply FrA.mono (execStageStatus_fr ..); decide)
    | (with_reducible apply FrA.mono (execStageFaultClear_fr ..); decide)
    | (with_reducible apply FrA.mono (execStageSwitchTest_fr ..); decide)
    | (with_reducible apply FrA.mono (execStagePacePolicy_fr ..); decide)
    | (with_reducible apply FrA.mono (execStageEmu_fr ..); decide)
    | with_reducible apply OCmd.ite
    | dsimp only
    | split

theorem runSettings_fr (src : Src) (b : Body) (s : State) :
    FrA [.queues, .mailboxes, .cams, .out] s (runSettings src b s) := by
  unfold runSettings
  repeat' first
    | intro _
    | with_reducible apply Fr.refl
    | with_reducible assumption
    | with_reducible apply FrA.next
    | (with_reducible apply FrA.mono (execCamSettings_fr ..); decide)
    | (with_reducible apply Fr.step (stateOf_fr (execCamSettings_fr ..)); decide)
    | (with_reducible apply Fr.step (State.fail_fr ..); decide)
    | with_reducible apply FrA.ite
    | with_reducible apply Fr.ite
    | dsimp only
    | split

theorem cmdCam_fr (op : Nat) (src : Src) (abort : Bool) (b : Body) :
    OCmd [.queues, .mailboxes, .waiting, .bytes, .link, .plate, .cams, .meas, .dma, .repair, .ref, .log, .out] (cmdCam op src abort b) := by
  unfold cmdCam
  repeat' first
    | with_reducible apply OCmd.none
    | with_reducible apply OCmd.some
    | with_reducible intro _
    | (with_reducible apply FrA.mono (execCamConfig_fr ..); decide)
    | (with_reducible apply FrA.mono (runSettings_fr ..); decide)
    | (with_reducible apply FrA.mono (execCamI2cXfer_fr ..); decide)
    | (with_reducible apply FrA.mono (execCamStart_fr ..); decide)
    | (with_reducible apply FrA.mono (execCamStop_fr ..); decide)
    | (with_reducible apply FrA.mono (execCamDefects_fr ..); decide)
    | (with_reducible apply FrA.mono (execCamShading_fr ..); decide)
    | (with_reducible apply FrA.mono (execCamTemplate_fr ..); decide)
    | (with_reducible apply FrA.mono (execCamSpotgrid_fr ..); decide)
    | (with_reducible apply FrA.mono (execCamRing_fr ..); decide)
    | (with_reducible apply FrA.mono (execCamStatus_fr ..); decide)
    | with_reducible apply OCmd.ite
    | dsimp only
    | split

theorem cmdCal_fr (op : Nat) (src : Src) (abort : Bool) (b : Body) :
    OCmd [.queues, .mailboxes, .waiting, .link, .plate, .cams, .meas, .repair, .ref, .log, .out] (cmdCal op src abort b) := by
  unfold cmdCal
  repeat' first
    | with_reducible apply OCmd.none
    | with_reducible apply OCmd.some
    | with_reducible intro _
    | (with_reducible apply FrA.mono (execCalAcquire_fr ..); decide)
    | (with_reducible apply FrA.mono (execCalTsLimits_fr ..); decide)
    | (with_reducible apply FrA.mono (execCalTrimRun_fr ..); decide)
    | (with_reducible apply FrA.mono (execCalGainRun_fr ..); decide)
    | (with_reducible apply FrA.mono (execCalGainAbort_fr ..); decide)
    | (with_reducible apply FrA.mono (execCalPolicy_fr ..); decide)
    | (with_reducible apply FrA.mono (execCalStatus_fr ..); decide)
    | with_reducible apply OCmd.ite
    | dsimp only
    | split

theorem cmdLink_fr (op : Nat) (src : Src) (b : Body) :
    OCmd [.queues, .mailboxes, .waiting, .link, .out] (cmdLink op src b) := by
  unfold cmdLink
  repeat' first
    | with_reducible apply OCmd.none
    | with_reducible apply OCmd.some
    | with_reducible intro _
    | (with_reducible apply FrA.mono (execLinkThermal_fr ..); decide)
    | (with_reducible apply FrA.mono (execLinkStatus_fr ..); decide)
    | (with_reducible apply FrA.mono (execLinkTest_fr ..); decide)
    | with_reducible apply OCmd.ite
    | dsimp only
    | split

theorem cmdMem_fr (op : Nat) (src : Src) (b : Body) :
    OCmd [.queues, .mailboxes, .out] (cmdMem op src b) := by
  unfold cmdMem
  repeat' first
    | with_reducible apply OCmd.none
    | with_reducible apply OCmd.some
    | with_reducible intro _
    | (with_reducible apply FrA.mono (execMemStatus_fr ..); decide)
    | (with_reducible apply FrA.mono (execMemLandingRead_fr ..); decide)
    | with_reducible apply OCmd.ite
    | dsimp only
    | split

theorem cmdDma_fr (op : Nat) (src : Src) (abort : Bool) (b : Body) :
    OCmd [.queues, .mailboxes, .waiting, .bytes, .dma, .log, .out] (cmdDma op src abort b) := by
  unfold cmdDma
  repeat' first
    | with_reducible apply OCmd.none
    | with_reducible apply OCmd.some
    | with_reducible intro _
    | (with_reducible apply FrA.mono (execDmaConfig_fr ..); decide)
    | (with_reducible apply FrA.mono (execDmaStart_fr ..); decide)
    | (with_reducible apply FrA.mono (execDmaStop_fr ..); decide)
    | (with_reducible apply FrA.mono (execDmaRingAdvance_fr ..); decide)
    | (with_reducible apply FrA.mono (execDmaStatus_fr ..); decide)
    | with_reducible apply OCmd.ite
    | dsimp only
    | split

theorem cmdCvu_fr (op : Nat) (src : Src) (b : Body) :
    OCmd [.queues, .mailboxes, .dma, .out] (cmdCvu op src b) := by
  unfold cmdCvu
  repeat' first
    | with_reducible apply OCmd.none
    | with_reducible apply OCmd.some
    | with_reducible intro _
    | (with_reducible apply FrA.mono (execCvuCompute_fr ..); decide)
    | (with_reducible apply FrA.mono (execCvuSave_fr ..); decide)
    | (with_reducible apply FrA.mono (execCvuRestore_fr ..); decide)
    | with_reducible apply OCmd.ite
    | dsimp only
    | split

theorem cmdTime_fr (op : Nat) (src : Src) (b : Body) :
    OCmd [.time, .queues, .mailboxes, .out] (cmdTime op src b) := by
  unfold cmdTime
  repeat' first
    | with_reducible apply OCmd.none
    | with_reducible apply OCmd.some
    | with_reducible intro _
    | (with_reducible apply FrA.mono (execTimeDomain_fr ..); decide)
    | (with_reducible apply FrA.mono (execTimeSelect_fr ..); decide)
    | (with_reducible apply FrA.mono (execTimeStatus_fr ..); decide)
    | with_reducible apply OCmd.ite
    | dsimp only
    | split

theorem cmdPlate_fr (op : Nat) (src : Src) (b : Body) :
    OCmd [.queues, .mailboxes, .link, .plate, .repair, .log, .out] (cmdPlate op src b) := by
  unfold cmdPlate
  repeat' first
    | with_reducible apply OCmd.none
    | with_reducible apply OCmd.some
    | with_reducible intro _
    | (with_reducible apply FrA.mono (execPlateProvision_fr ..); decide)
    | (with_reducible apply FrA.mono (execPlateToken_fr ..); decide)
    | (with_reducible apply FrA.mono (execPlateStatus_fr ..); decide)
    | with_reducible apply OCmd.ite
    | dsimp only
    | split

theorem cmdRepair_fr (op : Nat) (src : Src) (abort : Bool) (n : Nat) (b : Body) :
    OCmd [.queues, .mailboxes, .waiting, .jobs, .render, .land, .bytes, .mc, .play, .beam, .link, .plate, .cams, .meas, .dma, .repair, .ref, .log, .out] (cmdRepair op src abort n b) := by
  unfold cmdRepair
  repeat' first
    | with_reducible apply OCmd.none
    | with_reducible apply OCmd.some
    | with_reducible intro _
    | (with_reducible apply FrA.mono (execRepairQuery_fr ..); decide)
    | (with_reducible apply FrA.mono (execRepairPolicy_fr ..); decide)
    | (with_reducible apply FrA.mono (execRepairSpare_fr ..); decide)
    | (with_reducible apply FrA.mono (execRepairReturn_fr ..); decide)
    | (with_reducible apply FrA.mono (execRepairDisable_fr ..); decide)
    | with_reducible apply OCmd.ite
    | dsimp only
    | split

theorem cmdCodec_fr (op : Nat) (src : Src) (abort : Bool) (b : Body) :
    OCmd [.queues, .mailboxes, .waiting, .jobs, .render, .land, .play, .repair, .log, .out] (cmdCodec op src abort b) := by
  unfold cmdCodec
  repeat' first
    | with_reducible apply OCmd.none
    | with_reducible apply OCmd.some
    | with_reducible intro _
    | (with_reducible apply FrA.mono (execCodecEncode_fr ..); decide)
    | (with_reducible apply FrA.mono (execCodecDecode_fr ..); decide)
    | (with_reducible apply FrA.mono (execCodecDisable_fr ..); decide)
    | with_reducible apply OCmd.ite
    | dsimp only
    | split

theorem cmdTrace_fr (op : Nat) (src : Src) (abort : Bool) (b : Body) :
    OCmd [.queues, .mailboxes, .trace, .out] (cmdTrace op src abort b) := by
  unfold cmdTrace
  repeat' first
    | with_reducible apply OCmd.none
    | with_reducible apply OCmd.some
    | with_reducible intro _
    | (with_reducible apply FrA.mono (execTraceStart_fr ..); decide)
    | (with_reducible apply FrA.mono (execTraceStop_fr ..); decide)
    | (with_reducible apply FrA.mono (execTraceStatus_fr ..); decide)
    | with_reducible apply OCmd.ite
    | dsimp only
    | split

theorem command?_fr (op : Nat) (src : Src) (abort : Bool) (n : Nat) (b : Body) :
    OCmd [.time, .ports, .queues, .mailboxes, .waiting, .bells, .jobs, .render, .land, .bytes, .mc, .play, .beam, .stage, .pacer, .link, .plate, .cams, .meas, .dma, .repair, .ref, .fw, .power, .log, .ledger, .trace, .mgmt, .out] (command? op src abort n b) := by
  unfold command?
  repeat' first
    | with_reducible apply OCmd.none
    | with_reducible apply OCmd.some
    | with_reducible intro _
    | (with_reducible apply OCmd.mono (cmdSys_fr ..); decide)
    | (with_reducible apply OCmd.mono (cmdJob_fr ..); decide)
    | (with_reducible apply OCmd.mono (cmdStripe_fr ..); decide)
    | (with_reducible apply OCmd.mono (cmdBeam_fr ..); decide)
    | (with_reducible apply OCmd.mono (cmdStage_fr ..); decide)
    | (with_reducible apply OCmd.mono (cmdCam_fr ..); decide)
    | (with_reducible apply OCmd.mono (cmdCal_fr ..); decide)
    | (with_reducible apply OCmd.mono (cmdLink_fr ..); decide)
    | (with_reducible apply OCmd.mono (cmdMem_fr ..); decide)
    | (with_reducible apply OCmd.mono (cmdDma_fr ..); decide)
    | (with_reducible apply OCmd.mono (cmdCvu_fr ..); decide)
    | (with_reducible apply OCmd.mono (cmdTime_fr ..); decide)
    | (with_reducible apply OCmd.mono (cmdPlate_fr ..); decide)
    | (with_reducible apply OCmd.mono (cmdRepair_fr ..); decide)
    | (with_reducible apply OCmd.mono (cmdCodec_fr ..); decide)
    | (with_reducible apply OCmd.mono (cmdTrace_fr ..); decide)
    | with_reducible apply OCmd.ite
    | dsimp only
    | split

theorem State.turnAway_fr (s : State) (src : Src) (st : BitVec 16) (detail : Nat) :
    Fr [.queues, .mailboxes, .out] s (State.turnAway s src st detail) := by
  unfold State.turnAway
  repeat' first
    | intro _
    | with_reducible apply Fr.refl
    | with_reducible assumption
    | (with_reducible apply Fr.step (State.respond_fr ..); decide)
    | (with_reducible apply Fr.step (State.onMb_fr ..); decide)
    | with_reducible apply Fr.ite
    | dsimp only
    | split

theorem State.repeatResponse_fr (s : State) (src : Src) :
    Fr [.queues, .mailboxes, .out] s (State.repeatResponse s src) := by
  unfold State.repeatResponse
  repeat' first
    | intro _
    | with_reducible apply Fr.refl
    | with_reducible assumption
    | (with_reducible apply Fr.step (State.onMb_fr ..); decide)
    | (with_reducible apply Fr.step (State.msix_fr ..); decide)
    | with_reducible apply Fr.ite
    | dsimp only
    | split

theorem State.perform_st {ps : List Part} {s t : State} {src : Src} {h : Word} {c : Option Cmd}
    (hq : [Part.queues, .mailboxes, .ref, .out].all ps.contains = true) (hc : OCmd ps c) (ht : Fr ps s t) :
    Fr ps s (t.perform src h c) := by
  have q (p : Part) (hp : p ∈ [Part.queues, .mailboxes, .ref, .out]) : p ∈ ps := by
    rw [List.all_eq_true] at hq
    simpa using hq p hp
  have m1 : [Part.mailboxes].all ps.contains = true := by simp [q .mailboxes (by decide)]
  have m2 : [Part.ref].all ps.contains = true := by simp [q .ref (by decide)]
  have m3 : [Part.queues, .mailboxes, .out].all ps.contains = true := by
    simp [q .queues (by decide), q .mailboxes (by decide), q .out (by decide)]
  refine ht.trans ?_
  unfold State.perform
  dsimp only
  refine Fr.step (State.onMb_fr ..) m1 ?_
  split
  · exact Fr.step (State.fail_fr ..) m3 (Fr.step (State.onMb_fr ..) m1 (Fr.refl _ _))
  · rename_i d hd
    refine Fr.trans ?_ (stateOf_fr (hc d (State.checked_ok hd) _))
    exact State.onRef_st m2 (Fr.step (State.onMb_fr ..) m1 (Fr.refl _ _)) fun _ h => h

theorem State.acceptBell_fr (s : State) (src : Src) :
    Fr [.time, .ports, .queues, .mailboxes, .waiting, .bells, .jobs, .render, .land, .bytes, .mc, .play, .beam, .stage, .pacer, .link, .plate, .cams, .meas, .dma, .repair, .ref, .fw, .power, .log, .ledger, .trace, .mgmt, .out] s (s.acceptBell src) := by
  unfold State.acceptBell
  extract_lets m h n b s1 next
  have h1 : Fr [.time, .ports, .queues, .mailboxes, .waiting, .bells, .jobs, .render, .land, .bytes, .mc, .play, .beam, .stage, .pacer, .link, .plate, .cams, .meas, .dma, .repair, .ref, .fw, .power, .log, .ledger, .trace, .mgmt, .out] s s1 :=
    State.onPort_fixed_st (by decide) ((State.onMb_fr ..).mono (by decide)) fun _ => ⟨rfl, rfl⟩
  clear_value m h n b s1 next
  repeat' first
    | with_reducible apply Fr.ite
    | with_reducible assumption
    | (with_reducible apply Fr.step (State.turnAway_fr ..); decide)
    | (with_reducible apply Fr.step (State.repeatResponse_fr ..); decide)
    | (with_reducible apply State.perform_st; decide; (case hc => exact (command?_fr ..).mono (by decide)))

theorem State.ignoreBell_fr (s : State) (mb : BitVec 4) :
    Fr [.mailboxes] s (State.ignoreBell s mb) := by
  unfold State.ignoreBell
  repeat' first
    | intro _
    | with_reducible apply Fr.refl
    | with_reducible assumption
    | (with_reducible apply Fr.step (State.onMb_fr ..); decide)
    | with_reducible apply Fr.ite
    | dsimp only
    | split

theorem State.holdBell_fr (s : State) (src : Src) :
    Fr [.bells] s (State.holdBell s src) := by
  unfold State.holdBell
  repeat' first
    | intro _
    | with_reducible apply Fr.refl
    | with_reducible assumption
    | (with_reducible apply State.onHost_bells_st; decide; case hf => exact fun _ => ⟨rfl, rfl, rfl, rfl⟩)
    | with_reducible apply Fr.ite
    | dsimp only
    | split

theorem State.ring_fr (s : State) (src : Src) :
    Fr [.time, .ports, .queues, .mailboxes, .waiting, .bells, .jobs, .render, .land, .bytes, .mc, .play, .beam, .stage, .pacer, .link, .plate, .cams, .meas, .dma, .repair, .ref, .fw, .power, .log, .ledger, .trace, .mgmt, .out] s (State.ring s src) := by
  unfold State.ring
  repeat' first
    | intro _
    | with_reducible apply Fr.refl
    | with_reducible assumption
    | (with_reducible apply Fr.step (State.ignoreBell_fr ..); decide)
    | (with_reducible apply Fr.step (State.holdBell_fr ..); decide)
    | (with_reducible apply Fr.step (State.acceptBell_fr ..); decide)
    | (with_reducible apply Fr.step (State.draw_fr ..); decide)
    | (with_reducible apply Fr.step (State.raiseAt_fr ..); decide)
    | (with_reducible apply Fr.step (State.onMb_fr ..); decide)
    | with_reducible apply Fr.ite
    | dsimp only
    | split

theorem State.hostWrite_fr (s : State) (w : HostWrite) :
    Fr [.bytes] s (State.hostWrite s w) := by
  unfold State.hostWrite
  repeat' first
    | intro _
    | with_reducible apply Fr.refl
    | with_reducible assumption
    | (with_reducible apply Fr.step (State.write_fr ..); decide)
    | with_reducible apply Fr.ite
    | dsimp only
    | split

theorem execMbDoorbell_fr (port : Port) (mb : BitVec 4) (value : BitVec 64) (writes : List HostWrite) (s : State) :
    FrA [.time, .ports, .queues, .mailboxes, .waiting, .bells, .jobs, .render, .land, .bytes, .mc, .play, .beam, .stage, .pacer, .link, .plate, .cams, .meas, .dma, .repair, .ref, .fw, .power, .log, .ledger, .trace, .mgmt, .out] s (execMbDoorbell port mb value writes s) := by
  unfold execMbDoorbell
  repeat' first
    | intro _
    | with_reducible apply Fr.refl
    | with_reducible assumption
    | with_reducible apply FrA.next
    | (with_reducible apply Fr.step (State.hostWrite_fr ..); decide)
    | (with_reducible apply Fr.step (State.ring_fr ..); decide)
    | (with_reducible apply Fr.foldl)
    | with_reducible apply FrA.ite
    | with_reducible apply Fr.ite
    | dsimp only
    | split

theorem State.msixWrite_fr (s : State) (p : Port) (off size : Nat) (v : BitVec 64) :
    Fr [.ports, .queues, .out] s (State.msixWrite s p off size v) := by
  unfold State.msixWrite
  repeat' first
    | intro _
    | with_reducible apply Fr.refl
    | with_reducible assumption
    | (with_reducible apply State.onPort_fixed_st; decide; case hf => exact fun _ => ⟨rfl, rfl⟩)
    | (with_reducible apply State.onPort_queue_st; decide; case hf => exact fun _ => ⟨rfl, rfl⟩)
    | (with_reducible apply Fr.step (State.emit_fr ..); decide)
    | with_reducible apply Fr.ite
    | dsimp only
    | split

theorem State.bar0Write_fr (s : State) (p : Port) (off size : Nat) (v : BitVec 64) :
    FrA [.time, .ports, .queues, .mailboxes, .waiting, .bells, .jobs, .render, .land, .bytes, .mc, .play, .beam, .stage, .pacer, .link, .plate, .cams, .meas, .dma, .repair, .ref, .fw, .power, .log, .ledger, .trace, .mgmt, .out] s (State.bar0Write s p off size v) := by
  unfold State.bar0Write
  repeat' first
    | intro _
    | with_reducible apply Fr.refl
    | with_reducible assumption
    | with_reducible apply FrA.next
    | (with_reducible apply FrA.mono (execMbDoorbell_fr ..); decide)
    | (with_reducible apply Fr.step (stateOf_fr (execMbDoorbell_fr ..)); decide)
    | (with_reducible apply FrA.mono (execEvqRpWrite_fr ..); decide)
    | (with_reducible apply Fr.step (stateOf_fr (execEvqRpWrite_fr ..)); decide)
    | (with_reducible apply FrA.mono (State.supvWrite_fr ..); decide)
    | (with_reducible apply Fr.step (State.msixWrite_fr ..); decide)
    | with_reducible apply FrA.ite
    | with_reducible apply Fr.ite
    | dsimp only
    | split

theorem State.bar2Write_fr (s : State) (off : Nat) (bs : List Byte) :
    Fr [.mailboxes] s (State.bar2Write s off bs) := by
  unfold State.bar2Write
  repeat' first
    | intro _
    | with_reducible apply Fr.refl
    | with_reducible assumption
    | (with_reducible apply Fr.step (State.onMb_fr ..); decide)
    | (with_reducible apply Fr.foldl)
    | with_reducible apply Fr.ite
    | dsimp only
    | split

theorem execRegisterWrite_fr (t : RegTarget) (s : State) :
    FrA [.time, .ports, .queues, .mailboxes, .waiting, .bells, .jobs, .render, .land, .bytes, .mc, .play, .beam, .stage, .pacer, .link, .plate, .cams, .meas, .dma, .repair, .ref, .fw, .power, .log, .ledger, .trace, .mgmt, .out] s (execRegisterWrite t s) := by
  unfold execRegisterWrite
  repeat' first
    | intro _
    | with_reducible apply Fr.refl
    | with_reducible assumption
    | with_reducible apply FrA.next
    | (with_reducible apply FrA.mono (State.bar0Write_fr ..); decide)
    | (with_reducible apply Fr.step (State.bar2Write_fr ..); decide)
    | (with_reducible apply Fr.step (State.devWrite_fr ..); decide)
    | with_reducible apply FrA.ite
    | with_reducible apply Fr.ite
    | dsimp only
    | split

theorem State.acceptHeld_fr (s : State) :
    Fr [.time, .ports, .queues, .mailboxes, .waiting, .bells, .jobs, .render, .land, .bytes, .mc, .play, .beam, .stage, .pacer, .link, .plate, .cams, .meas, .dma, .repair, .ref, .fw, .power, .log, .ledger, .trace, .mgmt, .out] s (State.acceptHeld s) := by
  unfold State.acceptHeld
  repeat' first
    | intro _
    | with_reducible apply Fr.refl
    | with_reducible assumption
    | (with_reducible apply Fr.step (State.ring_fr ..); decide)
    | (with_reducible apply State.onHost_bells_st; decide; case hf => exact fun _ => ⟨rfl, rfl, rfl, rfl⟩)
    | (with_reducible apply Fr.foldl)
    | with_reducible apply Fr.ite
    | dsimp only
    | split

theorem State.answerFlight_fr (s : State) :
    Fr [.queues, .mailboxes, .waiting, .out] s (State.answerFlight s) := by
  unfold State.answerFlight
  repeat' first
    | intro _
    | with_reducible apply Fr.refl
    | with_reducible assumption
    | (with_reducible apply Fr.step (State.unwait_fr ..); decide)
    | (with_reducible apply Fr.step (State.fail_fr ..); decide)
    | (with_reducible apply Fr.foldl)
    | with_reducible apply Fr.ite
    | dsimp only
    | split

theorem State.drainAll_fr (s : State) :
    Fr [.queues, .out] s (State.drainAll s) := by
  unfold State.drainAll
  repeat' first
    | intro _
    | with_reducible apply Fr.refl
    | with_reducible assumption
    | (with_reducible apply Fr.step (State.drainEvents_fr ..); decide)
    | with_reducible apply Fr.ite
    | dsimp only
    | split

theorem execFailoverReplayComplete_fr (replayed : Bool) (s : State) :
    FrA [.time, .ports, .queues, .mailboxes, .waiting, .bells, .jobs, .render, .land, .bytes, .mc, .play, .beam, .stage, .pacer, .link, .plate, .cams, .meas, .dma, .repair, .ref, .fw, .power, .log, .ledger, .trace, .mgmt, .out] s (execFailoverReplayComplete replayed s) := by
  unfold execFailoverReplayComplete
  repeat' first
    | intro _
    | with_reducible apply Fr.refl
    | with_reducible assumption
    | with_reducible apply FrA.next
    | (with_reducible apply State.onRef_st; decide; case hf => first | exact fun _ h => h | exact fun _ _ _ => rfl | (intro _ _ h; cases h) | ((intro r h); (try dsimp only); (repeat' split) <;> simpa using h))
    | (with_reducible apply Fr.step (State.answerFlight_fr ..); decide)
    | (with_reducible apply Fr.step (State.acceptHeld_fr ..); decide)
    | (with_reducible apply Fr.step (State.drainAll_fr ..); decide)
    | (with_reducible apply Fr.step (State.fault_fr ..); decide)
    | (with_reducible apply Fr.step (State.plateCommit_fr ..); decide)
    | (with_reducible apply Fr.step (State.safeEnter_fr ..); decide)
    | with_reducible apply FrA.ite
    | with_reducible apply Fr.ite
    | dsimp only
    | split

/-! ### A command that a doorbell brings -/

/-- A command that passes the checks of Table 17-4 is journalled and runs. -/
theorem State.perform_accepted {s : State} {src : Src} {h : Word} {c : Option Cmd} {k : Cmd}
    (hk : (s.onMb src.mb fun m => { m with lastAlive := some (bf 48 h) }).checked c h = .ok k) :
    s.perform src h c = (stateOf (k.run ((s.onMb src.mb fun m => { m with lastAlive := some (bf 48 h) }).onRef fun r =>
        { r with journal := r.journal + 1 })) ((s.onMb src.mb fun m => { m with lastAlive := some (bf 48 h) }).onRef fun r =>
        { r with journal := r.journal + 1 })).onMb src.mb
      fun m => if m.owner.isNone then { m with lastAlive := none } else m := by
  unfold State.perform
  simp only [hk]

/-- A command that a check of Table 17-4 refuses gets that check's status. -/
theorem State.perform_rejected {s : State} {src : Src} {h : Word} {c : Option Cmd} {st : BitVec 16}
    (hk : (s.onMb src.mb fun m => { m with lastAlive := some (bf 48 h) }).checked c h = .error st) :
    s.perform src h c = ((s.onMb src.mb fun m => { m with lastAlive := some (bf 48 h) }).fail src st).onMb src.mb
      fun m => if m.owner.isNone then { m with lastAlive := none } else m := by
  unfold State.perform
  simp only [hk]

end Sys2Proof.Machine
end

