-- ==== Sys2Proof/Laws/Answer.lean ====
section
/-!
SUPPORT. What the shared answers and events leave as it was, part by part, and what a response says.
-/

namespace Sys2Proof.Machine

section
variable (s : State) (p : Port) (v : Nat)
@[simp] theorem State.msix_time : (s.msix p v).time = s.time :=
  ((State.msix_fr s p v).1 .time).resolve_left (by decide)
@[simp] theorem State.msix_jobs : (s.msix p v).jobs = s.jobs :=
  ((State.msix_fr s p v).1 .jobs).resolve_left (by decide)
@[simp] theorem State.msix_render : (s.msix p v).render = s.render :=
  ((State.msix_fr s p v).1 .render).resolve_left (by decide)
@[simp] theorem State.msix_land : (s.msix p v).land = s.land :=
  ((State.msix_fr s p v).1 .land).resolve_left (by decide)
@[simp] theorem State.msix_play : (s.msix p v).play = s.play :=
  ((State.msix_fr s p v).1 .play).resolve_left (by decide)
@[simp] theorem State.msix_beam : (s.msix p v).beam = s.beam :=
  ((State.msix_fr s p v).1 .beam).resolve_left (by decide)
@[simp] theorem State.msix_stage : (s.msix p v).stage = s.stage :=
  ((State.msix_fr s p v).1 .stage).resolve_left (by decide)
@[simp] theorem State.msix_pacer : (s.msix p v).pacer = s.pacer :=
  ((State.msix_fr s p v).1 .pacer).resolve_left (by decide)
@[simp] theorem State.msix_link : (s.msix p v).link = s.link :=
  ((State.msix_fr s p v).1 .link).resolve_left (by decide)
@[simp] theorem State.msix_plate : (s.msix p v).plate = s.plate :=
  ((State.msix_fr s p v).1 .plate).resolve_left (by decide)
@[simp] theorem State.msix_cams : (s.msix p v).cams = s.cams :=
  ((State.msix_fr s p v).1 .cams).resolve_left (by decide)
@[simp] theorem State.msix_meas : (s.msix p v).meas = s.meas :=
  ((State.msix_fr s p v).1 .meas).resolve_left (by decide)
@[simp] theorem State.msix_dma : (s.msix p v).dma = s.dma :=
  ((State.msix_fr s p v).1 .dma).resolve_left (by decide)
@[simp] theorem State.msix_repair : (s.msix p v).repair = s.repair :=
  ((State.msix_fr s p v).1 .repair).resolve_left (by decide)
@[simp] theorem State.msix_ref : (s.msix p v).ref = s.ref :=
  ((State.msix_fr s p v).1 .ref).resolve_left (by decide)
@[simp] theorem State.msix_fw : (s.msix p v).fw = s.fw :=
  ((State.msix_fr s p v).1 .fw).resolve_left (by decide)
@[simp] theorem State.msix_power : (s.msix p v).power = s.power :=
  ((State.msix_fr s p v).1 .power).resolve_left (by decide)
@[simp] theorem State.msix_log : (s.msix p v).log = s.log :=
  ((State.msix_fr s p v).1 .log).resolve_left (by decide)
@[simp] theorem State.msix_ledger : (s.msix p v).ledger = s.ledger :=
  ((State.msix_fr s p v).1 .ledger).resolve_left (by decide)
@[simp] theorem State.msix_trace : (s.msix p v).trace = s.trace :=
  ((State.msix_fr s p v).1 .trace).resolve_left (by decide)
@[simp] theorem State.msix_mgmt : (s.msix p v).mgmt = s.mgmt :=
  ((State.msix_fr s p v).1 .mgmt).resolve_left (by decide)
@[simp] theorem State.msix_pending : (s.msix p v).pending = s.pending :=
  ((State.msix_fr s p v).1 .pending).resolve_left (by decide)
@[simp] theorem State.msix_mbs : (s.msix p v).host.mbs = s.host.mbs :=
  ((State.msix_fr s p v).1 .mailboxes).resolve_left (by decide)
@[simp] theorem State.msix_mb (n : BitVec 4) : (s.msix p v).mb n = s.mb n := by
  simp [State.mb, HostIf.mb]
@[simp] theorem State.msix_waiting : (s.msix p v).host.waiting = s.host.waiting :=
  ((State.msix_fr s p v).1 .waiting).resolve_left (by decide)
@[simp] theorem State.msix_held : (s.msix p v).host.held = s.host.held :=
  ((State.msix_fr s p v).1 .bells).resolve_left (by decide)
theorem State.msix_mbsWf (h : s.mbsWf) : (s.msix p v).mbsWf := (State.msix_fr s p v).2.2.1 h
end

section
variable (s : State) (src : Src) (st : BitVec 16) (detail : Nat) (deferred : Bool) (body : List Word)
@[simp] theorem State.respond_time : (s.respond src st detail deferred body).time = s.time :=
  ((State.respond_fr s src st detail deferred body).1 .time).resolve_left (by decide)
@[simp] theorem State.respond_jobs : (s.respond src st detail deferred body).jobs = s.jobs :=
  ((State.respond_fr s src st detail deferred body).1 .jobs).resolve_left (by decide)
@[simp] theorem State.respond_render : (s.respond src st detail deferred body).render = s.render :=
  ((State.respond_fr s src st detail deferred body).1 .render).resolve_left (by decide)
@[simp] theorem State.respond_land : (s.respond src st detail deferred body).land = s.land :=
  ((State.respond_fr s src st detail deferred body).1 .land).resolve_left (by decide)
@[simp] theorem State.respond_play : (s.respond src st detail deferred body).play = s.play :=
  ((State.respond_fr s src st detail deferred body).1 .play).resolve_left (by decide)
@[simp] theorem State.respond_beam : (s.respond src st detail deferred body).beam = s.beam :=
  ((State.respond_fr s src st detail deferred body).1 .beam).resolve_left (by decide)
@[simp] theorem State.respond_stage : (s.respond src st detail deferred body).stage = s.stage :=
  ((State.respond_fr s src st detail deferred body).1 .stage).resolve_left (by decide)
@[simp] theorem State.respond_pacer : (s.respond src st detail deferred body).pacer = s.pacer :=
  ((State.respond_fr s src st detail deferred body).1 .pacer).resolve_left (by decide)
@[simp] theorem State.respond_link : (s.respond src st detail deferred body).link = s.link :=
  ((State.respond_fr s src st detail deferred body).1 .link).resolve_left (by decide)
@[simp] theorem State.respond_plate : (s.respond src st detail deferred body).plate = s.plate :=
  ((State.respond_fr s src st detail deferred body).1 .plate).resolve_left (by decide)
@[simp] theorem State.respond_cams : (s.respond src st detail deferred body).cams = s.cams :=
  ((State.respond_fr s src st detail deferred body).1 .cams).resolve_left (by decide)
@[simp] theorem State.respond_meas : (s.respond src st detail deferred body).meas = s.meas :=
  ((State.respond_fr s src st detail deferred body).1 .meas).resolve_left (by decide)
@[simp] theorem State.respond_dma : (s.respond src st detail deferred body).dma = s.dma :=
  ((State.respond_fr s src st detail deferred body).1 .dma).resolve_left (by decide)
@[simp] theorem State.respond_repair : (s.respond src st detail deferred body).repair = s.repair :=
  ((State.respond_fr s src st detail deferred body).1 .repair).resolve_left (by decide)
@[simp] theorem State.respond_ref : (s.respond src st detail deferred body).ref = s.ref :=
  ((State.respond_fr s src st detail deferred body).1 .ref).resolve_left (by decide)
@[simp] theorem State.respond_fw : (s.respond src st detail deferred body).fw = s.fw :=
  ((State.respond_fr s src st detail deferred body).1 .fw).resolve_left (by decide)
@[simp] theorem State.respond_power : (s.respond src st detail deferred body).power = s.power :=
  ((State.respond_fr s src st detail deferred body).1 .power).resolve_left (by decide)
@[simp] theorem State.respond_log : (s.respond src st detail deferred body).log = s.log :=
  ((State.respond_fr s src st detail deferred body).1 .log).resolve_left (by decide)
@[simp] theorem State.respond_ledger : (s.respond src st detail deferred body).ledger = s.ledger :=
  ((State.respond_fr s src st detail deferred body).1 .ledger).resolve_left (by decide)
@[simp] theorem State.respond_trace : (s.respond src st detail deferred body).trace = s.trace :=
  ((State.respond_fr s src st detail deferred body).1 .trace).resolve_left (by decide)
@[simp] theorem State.respond_mgmt : (s.respond src st detail deferred body).mgmt = s.mgmt :=
  ((State.respond_fr s src st detail deferred body).1 .mgmt).resolve_left (by decide)
@[simp] theorem State.respond_pending : (s.respond src st detail deferred body).pending = s.pending :=
  ((State.respond_fr s src st detail deferred body).1 .pending).resolve_left (by decide)
@[simp] theorem State.respond_waiting : (s.respond src st detail deferred body).host.waiting = s.host.waiting :=
  ((State.respond_fr s src st detail deferred body).1 .waiting).resolve_left (by decide)
@[simp] theorem State.respond_held : (s.respond src st detail deferred body).host.held = s.host.held :=
  ((State.respond_fr s src st detail deferred body).1 .bells).resolve_left (by decide)
theorem State.respond_mbsWf (h : s.mbsWf) : (s.respond src st detail deferred body).mbsWf := (State.respond_fr s src st detail deferred body).2.2.1 h
end

section
variable (s : State) (src : Src) (body : List Word)
@[simp] theorem State.ok_time : (s.ok src body).time = s.time :=
  ((State.ok_fr s src body).1 .time).resolve_left (by decide)
@[simp] theorem State.ok_jobs : (s.ok src body).jobs = s.jobs :=
  ((State.ok_fr s src body).1 .jobs).resolve_left (by decide)
@[simp] theorem State.ok_render : (s.ok src body).render = s.render :=
  ((State.ok_fr s src body).1 .render).resolve_left (by decide)
@[simp] theorem State.ok_land : (s.ok src body).land = s.land :=
  ((State.ok_fr s src body).1 .land).resolve_left (by decide)
@[simp] theorem State.ok_play : (s.ok src body).play = s.play :=
  ((State.ok_fr s src body).1 .play).resolve_left (by decide)
@[simp] theorem State.ok_beam : (s.ok src body).beam = s.beam :=
  ((State.ok_fr s src body).1 .beam).resolve_left (by decide)
@[simp] theorem State.ok_stage : (s.ok src body).stage = s.stage :=
  ((State.ok_fr s src body).1 .stage).resolve_left (by decide)
@[simp] theorem State.ok_pacer : (s.ok src body).pacer = s.pacer :=
  ((State.ok_fr s src body).1 .pacer).resolve_left (by decide)
@[simp] theorem State.ok_link : (s.ok src body).link = s.link :=
  ((State.ok_fr s src body).1 .link).resolve_left (by decide)
@[simp] theorem State.ok_plate : (s.ok src body).plate = s.plate :=
  ((State.ok_fr s src body).1 .plate).resolve_left (by decide)
@[simp] theorem State.ok_cams : (s.ok src body).cams = s.cams :=
  ((State.ok_fr s src body).1 .cams).resolve_left (by decide)
@[simp] theorem State.ok_meas : (s.ok src body).meas = s.meas :=
  ((State.ok_fr s src body).1 .meas).resolve_left (by decide)
@[simp] theorem State.ok_dma : (s.ok src body).dma = s.dma :=
  ((State.ok_fr s src body).1 .dma).resolve_left (by decide)
@[simp] theorem State.ok_repair : (s.ok src body).repair = s.repair :=
  ((State.ok_fr s src body).1 .repair).resolve_left (by decide)
@[simp] theorem State.ok_ref : (s.ok src body).ref = s.ref :=
  ((State.ok_fr s src body).1 .ref).resolve_left (by decide)
@[simp] theorem State.ok_fw : (s.ok src body).fw = s.fw :=
  ((State.ok_fr s src body).1 .fw).resolve_left (by decide)
@[simp] theorem State.ok_power : (s.ok src body).power = s.power :=
  ((State.ok_fr s src body).1 .power).resolve_left (by decide)
@[simp] theorem State.ok_log : (s.ok src body).log = s.log :=
  ((State.ok_fr s src body).1 .log).resolve_left (by decide)
@[simp] theorem State.ok_ledger : (s.ok src body).ledger = s.ledger :=
  ((State.ok_fr s src body).1 .ledger).resolve_left (by decide)
@[simp] theorem State.ok_trace : (s.ok src body).trace = s.trace :=
  ((State.ok_fr s src body).1 .trace).resolve_left (by decide)
@[simp] theorem State.ok_mgmt : (s.ok src body).mgmt = s.mgmt :=
  ((State.ok_fr s src body).1 .mgmt).resolve_left (by decide)
@[simp] theorem State.ok_pending : (s.ok src body).pending = s.pending :=
  ((State.ok_fr s src body).1 .pending).resolve_left (by decide)
@[simp] theorem State.ok_waiting : (s.ok src body).host.waiting = s.host.waiting :=
  ((State.ok_fr s src body).1 .waiting).resolve_left (by decide)
@[simp] theorem State.ok_held : (s.ok src body).host.held = s.host.held :=
  ((State.ok_fr s src body).1 .bells).resolve_left (by decide)
theorem State.ok_mbsWf (h : s.mbsWf) : (s.ok src body).mbsWf := (State.ok_fr s src body).2.2.1 h
end

section
variable (s : State) (src : Src) (st : BitVec 16)
@[simp] theorem State.fail_time : (s.fail src st).time = s.time :=
  ((State.fail_fr s src st).1 .time).resolve_left (by decide)
@[simp] theorem State.fail_jobs : (s.fail src st).jobs = s.jobs :=
  ((State.fail_fr s src st).1 .jobs).resolve_left (by decide)
@[simp] theorem State.fail_render : (s.fail src st).render = s.render :=
  ((State.fail_fr s src st).1 .render).resolve_left (by decide)
@[simp] theorem State.fail_land : (s.fail src st).land = s.land :=
  ((State.fail_fr s src st).1 .land).resolve_left (by decide)
@[simp] theorem State.fail_play : (s.fail src st).play = s.play :=
  ((State.fail_fr s src st).1 .play).resolve_left (by decide)
@[simp] theorem State.fail_beam : (s.fail src st).beam = s.beam :=
  ((State.fail_fr s src st).1 .beam).resolve_left (by decide)
@[simp] theorem State.fail_stage : (s.fail src st).stage = s.stage :=
  ((State.fail_fr s src st).1 .stage).resolve_left (by decide)
@[simp] theorem State.fail_pacer : (s.fail src st).pacer = s.pacer :=
  ((State.fail_fr s src st).1 .pacer).resolve_left (by decide)
@[simp] theorem State.fail_link : (s.fail src st).link = s.link :=
  ((State.fail_fr s src st).1 .link).resolve_left (by decide)
@[simp] theorem State.fail_plate : (s.fail src st).plate = s.plate :=
  ((State.fail_fr s src st).1 .plate).resolve_left (by decide)
@[simp] theorem State.fail_cams : (s.fail src st).cams = s.cams :=
  ((State.fail_fr s src st).1 .cams).resolve_left (by decide)
@[simp] theorem State.fail_meas : (s.fail src st).meas = s.meas :=
  ((State.fail_fr s src st).1 .meas).resolve_left (by decide)
@[simp] theorem State.fail_dma : (s.fail src st).dma = s.dma :=
  ((State.fail_fr s src st).1 .dma).resolve_left (by decide)
@[simp] theorem State.fail_repair : (s.fail src st).repair = s.repair :=
  ((State.fail_fr s src st).1 .repair).resolve_left (by decide)
@[simp] theorem State.fail_ref : (s.fail src st).ref = s.ref :=
  ((State.fail_fr s src st).1 .ref).resolve_left (by decide)
@[simp] theorem State.fail_fw : (s.fail src st).fw = s.fw :=
  ((State.fail_fr s src st).1 .fw).resolve_left (by decide)
@[simp] theorem State.fail_power : (s.fail src st).power = s.power :=
  ((State.fail_fr s src st).1 .power).resolve_left (by decide)
@[simp] theorem State.fail_log : (s.fail src st).log = s.log :=
  ((State.fail_fr s src st).1 .log).resolve_left (by decide)
@[simp] theorem State.fail_ledger : (s.fail src st).ledger = s.ledger :=
  ((State.fail_fr s src st).1 .ledger).resolve_left (by decide)
@[simp] theorem State.fail_trace : (s.fail src st).trace = s.trace :=
  ((State.fail_fr s src st).1 .trace).resolve_left (by decide)
@[simp] theorem State.fail_mgmt : (s.fail src st).mgmt = s.mgmt :=
  ((State.fail_fr s src st).1 .mgmt).resolve_left (by decide)
@[simp] theorem State.fail_pending : (s.fail src st).pending = s.pending :=
  ((State.fail_fr s src st).1 .pending).resolve_left (by decide)
@[simp] theorem State.fail_waiting : (s.fail src st).host.waiting = s.host.waiting :=
  ((State.fail_fr s src st).1 .waiting).resolve_left (by decide)
@[simp] theorem State.fail_held : (s.fail src st).host.held = s.host.held :=
  ((State.fail_fr s src st).1 .bells).resolve_left (by decide)
theorem State.fail_mbsWf (h : s.mbsWf) : (s.fail src st).mbsWf := (State.fail_fr s src st).2.2.1 h
end

section
variable (s : State) (src : Src) (c : Instr)
@[simp] theorem State.wait_time : (s.wait src c).time = s.time :=
  ((State.wait_fr s src c).1 .time).resolve_left (by decide)
@[simp] theorem State.wait_jobs : (s.wait src c).jobs = s.jobs :=
  ((State.wait_fr s src c).1 .jobs).resolve_left (by decide)
@[simp] theorem State.wait_render : (s.wait src c).render = s.render :=
  ((State.wait_fr s src c).1 .render).resolve_left (by decide)
@[simp] theorem State.wait_land : (s.wait src c).land = s.land :=
  ((State.wait_fr s src c).1 .land).resolve_left (by decide)
@[simp] theorem State.wait_play : (s.wait src c).play = s.play :=
  ((State.wait_fr s src c).1 .play).resolve_left (by decide)
@[simp] theorem State.wait_beam : (s.wait src c).beam = s.beam :=
  ((State.wait_fr s src c).1 .beam).resolve_left (by decide)
@[simp] theorem State.wait_stage : (s.wait src c).stage = s.stage :=
  ((State.wait_fr s src c).1 .stage).resolve_left (by decide)
@[simp] theorem State.wait_pacer : (s.wait src c).pacer = s.pacer :=
  ((State.wait_fr s src c).1 .pacer).resolve_left (by decide)
@[simp] theorem State.wait_link : (s.wait src c).link = s.link :=
  ((State.wait_fr s src c).1 .link).resolve_left (by decide)
@[simp] theorem State.wait_plate : (s.wait src c).plate = s.plate :=
  ((State.wait_fr s src c).1 .plate).resolve_left (by decide)
@[simp] theorem State.wait_cams : (s.wait src c).cams = s.cams :=
  ((State.wait_fr s src c).1 .cams).resolve_left (by decide)
@[simp] theorem State.wait_meas : (s.wait src c).meas = s.meas :=
  ((State.wait_fr s src c).1 .meas).resolve_left (by decide)
@[simp] theorem State.wait_dma : (s.wait src c).dma = s.dma :=
  ((State.wait_fr s src c).1 .dma).resolve_left (by decide)
@[simp] theorem State.wait_repair : (s.wait src c).repair = s.repair :=
  ((State.wait_fr s src c).1 .repair).resolve_left (by decide)
@[simp] theorem State.wait_ref : (s.wait src c).ref = s.ref :=
  ((State.wait_fr s src c).1 .ref).resolve_left (by decide)
@[simp] theorem State.wait_fw : (s.wait src c).fw = s.fw :=
  ((State.wait_fr s src c).1 .fw).resolve_left (by decide)
@[simp] theorem State.wait_power : (s.wait src c).power = s.power :=
  ((State.wait_fr s src c).1 .power).resolve_left (by decide)
@[simp] theorem State.wait_log : (s.wait src c).log = s.log :=
  ((State.wait_fr s src c).1 .log).resolve_left (by decide)
@[simp] theorem State.wait_ledger : (s.wait src c).ledger = s.ledger :=
  ((State.wait_fr s src c).1 .ledger).resolve_left (by decide)
@[simp] theorem State.wait_trace : (s.wait src c).trace = s.trace :=
  ((State.wait_fr s src c).1 .trace).resolve_left (by decide)
@[simp] theorem State.wait_mgmt : (s.wait src c).mgmt = s.mgmt :=
  ((State.wait_fr s src c).1 .mgmt).resolve_left (by decide)
@[simp] theorem State.wait_out : (s.wait src c).out = s.out :=
  ((State.wait_fr s src c).1 .out).resolve_left (by decide)
@[simp] theorem State.wait_pending : (s.wait src c).pending = s.pending :=
  ((State.wait_fr s src c).1 .pending).resolve_left (by decide)
@[simp] theorem State.wait_held : (s.wait src c).host.held = s.host.held :=
  ((State.wait_fr s src c).1 .bells).resolve_left (by decide)
theorem State.wait_mbsWf (h : s.mbsWf) : (s.wait src c).mbsWf := (State.wait_fr s src c).2.2.1 h
end

section
variable (s : State) (mb : BitVec 4)
@[simp] theorem State.unwait_time : (s.unwait mb).time = s.time :=
  ((State.unwait_fr s mb).1 .time).resolve_left (by decide)
@[simp] theorem State.unwait_jobs : (s.unwait mb).jobs = s.jobs :=
  ((State.unwait_fr s mb).1 .jobs).resolve_left (by decide)
@[simp] theorem State.unwait_render : (s.unwait mb).render = s.render :=
  ((State.unwait_fr s mb).1 .render).resolve_left (by decide)
@[simp] theorem State.unwait_land : (s.unwait mb).land = s.land :=
  ((State.unwait_fr s mb).1 .land).resolve_left (by decide)
@[simp] theorem State.unwait_play : (s.unwait mb).play = s.play :=
  ((State.unwait_fr s mb).1 .play).resolve_left (by decide)
@[simp] theorem State.unwait_beam : (s.unwait mb).beam = s.beam :=
  ((State.unwait_fr s mb).1 .beam).resolve_left (by decide)
@[simp] theorem State.unwait_stage : (s.unwait mb).stage = s.stage :=
  ((State.unwait_fr s mb).1 .stage).resolve_left (by decide)
@[simp] theorem State.unwait_pacer : (s.unwait mb).pacer = s.pacer :=
  ((State.unwait_fr s mb).1 .pacer).resolve_left (by decide)
@[simp] theorem State.unwait_link : (s.unwait mb).link = s.link :=
  ((State.unwait_fr s mb).1 .link).resolve_left (by decide)
@[simp] theorem State.unwait_plate : (s.unwait mb).plate = s.plate :=
  ((State.unwait_fr s mb).1 .plate).resolve_left (by decide)
@[simp] theorem State.unwait_cams : (s.unwait mb).cams = s.cams :=
  ((State.unwait_fr s mb).1 .cams).resolve_left (by decide)
@[simp] theorem State.unwait_meas : (s.unwait mb).meas = s.meas :=
  ((State.unwait_fr s mb).1 .meas).resolve_left (by decide)
@[simp] theorem State.unwait_dma : (s.unwait mb).dma = s.dma :=
  ((State.unwait_fr s mb).1 .dma).resolve_left (by decide)
@[simp] theorem State.unwait_repair : (s.unwait mb).repair = s.repair :=
  ((State.unwait_fr s mb).1 .repair).resolve_left (by decide)
@[simp] theorem State.unwait_ref : (s.unwait mb).ref = s.ref :=
  ((State.unwait_fr s mb).1 .ref).resolve_left (by decide)
@[simp] theorem State.unwait_fw : (s.unwait mb).fw = s.fw :=
  ((State.unwait_fr s mb).1 .fw).resolve_left (by decide)
@[simp] theorem State.unwait_power : (s.unwait mb).power = s.power :=
  ((State.unwait_fr s mb).1 .power).resolve_left (by decide)
@[simp] theorem State.unwait_log : (s.unwait mb).log = s.log :=
  ((State.unwait_fr s mb).1 .log).resolve_left (by decide)
@[simp] theorem State.unwait_ledger : (s.unwait mb).ledger = s.ledger :=
  ((State.unwait_fr s mb).1 .ledger).resolve_left (by decide)
@[simp] theorem State.unwait_trace : (s.unwait mb).trace = s.trace :=
  ((State.unwait_fr s mb).1 .trace).resolve_left (by decide)
@[simp] theorem State.unwait_mgmt : (s.unwait mb).mgmt = s.mgmt :=
  ((State.unwait_fr s mb).1 .mgmt).resolve_left (by decide)
@[simp] theorem State.unwait_out : (s.unwait mb).out = s.out :=
  ((State.unwait_fr s mb).1 .out).resolve_left (by decide)
@[simp] theorem State.unwait_pending : (s.unwait mb).pending = s.pending :=
  ((State.unwait_fr s mb).1 .pending).resolve_left (by decide)
@[simp] theorem State.unwait_mbs : (s.unwait mb).host.mbs = s.host.mbs :=
  ((State.unwait_fr s mb).1 .mailboxes).resolve_left (by decide)
@[simp] theorem State.unwait_mb (n : BitVec 4) : (s.unwait mb).mb n = s.mb n := by
  simp [State.mb, HostIf.mb]
@[simp] theorem State.unwait_held : (s.unwait mb).host.held = s.host.held :=
  ((State.unwait_fr s mb).1 .bells).resolve_left (by decide)
theorem State.unwait_mbsWf (h : s.mbsWf) : (s.unwait mb).mbsWf := (State.unwait_fr s mb).2.2.1 h
end

section
variable (s : State) (via : Option Src) (job : Option (BitVec 16)) (e : Event)
@[simp] theorem State.raiseVia_time : (s.raiseVia via job e).time = s.time :=
  ((State.raiseVia_fr s via job e).1 .time).resolve_left (by decide)
@[simp] theorem State.raiseVia_jobs : (s.raiseVia via job e).jobs = s.jobs :=
  ((State.raiseVia_fr s via job e).1 .jobs).resolve_left (by decide)
@[simp] theorem State.raiseVia_render : (s.raiseVia via job e).render = s.render :=
  ((State.raiseVia_fr s via job e).1 .render).resolve_left (by decide)
@[simp] theorem State.raiseVia_land : (s.raiseVia via job e).land = s.land :=
  ((State.raiseVia_fr s via job e).1 .land).resolve_left (by decide)
@[simp] theorem State.raiseVia_play : (s.raiseVia via job e).play = s.play :=
  ((State.raiseVia_fr s via job e).1 .play).resolve_left (by decide)
@[simp] theorem State.raiseVia_beam : (s.raiseVia via job e).beam = s.beam :=
  ((State.raiseVia_fr s via job e).1 .beam).resolve_left (by decide)
@[simp] theorem State.raiseVia_stage : (s.raiseVia via job e).stage = s.stage :=
  ((State.raiseVia_fr s via job e).1 .stage).resolve_left (by decide)
@[simp] theorem State.raiseVia_pacer : (s.raiseVia via job e).pacer = s.pacer :=
  ((State.raiseVia_fr s via job e).1 .pacer).resolve_left (by decide)
@[simp] theorem State.raiseVia_link : (s.raiseVia via job e).link = s.link :=
  ((State.raiseVia_fr s via job e).1 .link).resolve_left (by decide)
@[simp] theorem State.raiseVia_plate : (s.raiseVia via job e).plate = s.plate :=
  ((State.raiseVia_fr s via job e).1 .plate).resolve_left (by decide)
@[simp] theorem State.raiseVia_cams : (s.raiseVia via job e).cams = s.cams :=
  ((State.raiseVia_fr s via job e).1 .cams).resolve_left (by decide)
@[simp] theorem State.raiseVia_meas : (s.raiseVia via job e).meas = s.meas :=
  ((State.raiseVia_fr s via job e).1 .meas).resolve_left (by decide)
@[simp] theorem State.raiseVia_dma : (s.raiseVia via job e).dma = s.dma :=
  ((State.raiseVia_fr s via job e).1 .dma).resolve_left (by decide)
@[simp] theorem State.raiseVia_repair : (s.raiseVia via job e).repair = s.repair :=
  ((State.raiseVia_fr s via job e).1 .repair).resolve_left (by decide)
@[simp] theorem State.raiseVia_ref : (s.raiseVia via job e).ref = s.ref :=
  ((State.raiseVia_fr s via job e).1 .ref).resolve_left (by decide)
@[simp] theorem State.raiseVia_fw : (s.raiseVia via job e).fw = s.fw :=
  ((State.raiseVia_fr s via job e).1 .fw).resolve_left (by decide)
@[simp] theorem State.raiseVia_power : (s.raiseVia via job e).power = s.power :=
  ((State.raiseVia_fr s via job e).1 .power).resolve_left (by decide)
@[simp] theorem State.raiseVia_log : (s.raiseVia via job e).log = s.log :=
  ((State.raiseVia_fr s via job e).1 .log).resolve_left (by decide)
@[simp] theorem State.raiseVia_ledger : (s.raiseVia via job e).ledger = s.ledger :=
  ((State.raiseVia_fr s via job e).1 .ledger).resolve_left (by decide)
@[simp] theorem State.raiseVia_trace : (s.raiseVia via job e).trace = s.trace :=
  ((State.raiseVia_fr s via job e).1 .trace).resolve_left (by decide)
@[simp] theorem State.raiseVia_mgmt : (s.raiseVia via job e).mgmt = s.mgmt :=
  ((State.raiseVia_fr s via job e).1 .mgmt).resolve_left (by decide)
@[simp] theorem State.raiseVia_pending : (s.raiseVia via job e).pending = s.pending :=
  ((State.raiseVia_fr s via job e).1 .pending).resolve_left (by decide)
@[simp] theorem State.raiseVia_mbs : (s.raiseVia via job e).host.mbs = s.host.mbs :=
  ((State.raiseVia_fr s via job e).1 .mailboxes).resolve_left (by decide)
@[simp] theorem State.raiseVia_mb (n : BitVec 4) : (s.raiseVia via job e).mb n = s.mb n := by
  simp [State.mb, HostIf.mb]
@[simp] theorem State.raiseVia_waiting : (s.raiseVia via job e).host.waiting = s.host.waiting :=
  ((State.raiseVia_fr s via job e).1 .waiting).resolve_left (by decide)
@[simp] theorem State.raiseVia_held : (s.raiseVia via job e).host.held = s.host.held :=
  ((State.raiseVia_fr s via job e).1 .bells).resolve_left (by decide)
theorem State.raiseVia_mbsWf (h : s.mbsWf) : (s.raiseVia via job e).mbsWf := (State.raiseVia_fr s via job e).2.2.1 h
end

section
variable (s : State) (e : Event)
@[simp] theorem State.raise_time : (s.raise e).time = s.time :=
  ((State.raise_fr s e).1 .time).resolve_left (by decide)
@[simp] theorem State.raise_jobs : (s.raise e).jobs = s.jobs :=
  ((State.raise_fr s e).1 .jobs).resolve_left (by decide)
@[simp] theorem State.raise_render : (s.raise e).render = s.render :=
  ((State.raise_fr s e).1 .render).resolve_left (by decide)
@[simp] theorem State.raise_land : (s.raise e).land = s.land :=
  ((State.raise_fr s e).1 .land).resolve_left (by decide)
@[simp] theorem State.raise_play : (s.raise e).play = s.play :=
  ((State.raise_fr s e).1 .play).resolve_left (by decide)
@[simp] theorem State.raise_beam : (s.raise e).beam = s.beam :=
  ((State.raise_fr s e).1 .beam).resolve_left (by decide)
@[simp] theorem State.raise_stage : (s.raise e).stage = s.stage :=
  ((State.raise_fr s e).1 .stage).resolve_left (by decide)
@[simp] theorem State.raise_pacer : (s.raise e).pacer = s.pacer :=
  ((State.raise_fr s e).1 .pacer).resolve_left (by decide)
@[simp] theorem State.raise_link : (s.raise e).link = s.link :=
  ((State.raise_fr s e).1 .link).resolve_left (by decide)
@[simp] theorem State.raise_plate : (s.raise e).plate = s.plate :=
  ((State.raise_fr s e).1 .plate).resolve_left (by decide)
@[simp] theorem State.raise_cams : (s.raise e).cams = s.cams :=
  ((State.raise_fr s e).1 .cams).resolve_left (by decide)
@[simp] theorem State.raise_meas : (s.raise e).meas = s.meas :=
  ((State.raise_fr s e).1 .meas).resolve_left (by decide)
@[simp] theorem State.raise_dma : (s.raise e).dma = s.dma :=
  ((State.raise_fr s e).1 .dma).resolve_left (by decide)
@[simp] theorem State.raise_repair : (s.raise e).repair = s.repair :=
  ((State.raise_fr s e).1 .repair).resolve_left (by decide)
@[simp] theorem State.raise_ref : (s.raise e).ref = s.ref :=
  ((State.raise_fr s e).1 .ref).resolve_left (by decide)
@[simp] theorem State.raise_fw : (s.raise e).fw = s.fw :=
  ((State.raise_fr s e).1 .fw).resolve_left (by decide)
@[simp] theorem State.raise_power : (s.raise e).power = s.power :=
  ((State.raise_fr s e).1 .power).resolve_left (by decide)
@[simp] theorem State.raise_log : (s.raise e).log = s.log :=
  ((State.raise_fr s e).1 .log).resolve_left (by decide)
@[simp] theorem State.raise_ledger : (s.raise e).ledger = s.ledger :=
  ((State.raise_fr s e).1 .ledger).resolve_left (by decide)
@[simp] theorem State.raise_trace : (s.raise e).trace = s.trace :=
  ((State.raise_fr s e).1 .trace).resolve_left (by decide)
@[simp] theorem State.raise_mgmt : (s.raise e).mgmt = s.mgmt :=
  ((State.raise_fr s e).1 .mgmt).resolve_left (by decide)
@[simp] theorem State.raise_pending : (s.raise e).pending = s.pending :=
  ((State.raise_fr s e).1 .pending).resolve_left (by decide)
@[simp] theorem State.raise_mbs : (s.raise e).host.mbs = s.host.mbs :=
  ((State.raise_fr s e).1 .mailboxes).resolve_left (by decide)
@[simp] theorem State.raise_mb (n : BitVec 4) : (s.raise e).mb n = s.mb n := by
  simp [State.mb, HostIf.mb]
@[simp] theorem State.raise_waiting : (s.raise e).host.waiting = s.host.waiting :=
  ((State.raise_fr s e).1 .waiting).resolve_left (by decide)
@[simp] theorem State.raise_held : (s.raise e).host.held = s.host.held :=
  ((State.raise_fr s e).1 .bells).resolve_left (by decide)
theorem State.raise_mbsWf (h : s.mbsWf) : (s.raise e).mbsWf := (State.raise_fr s e).2.2.1 h
end

section
variable (s : State) (id : StripeId) (e : Event)
@[simp] theorem State.raiseSt_time : (s.raiseSt id e).time = s.time :=
  ((State.raiseSt_fr s id e).1 .time).resolve_left (by decide)
@[simp] theorem State.raiseSt_jobs : (s.raiseSt id e).jobs = s.jobs :=
  ((State.raiseSt_fr s id e).1 .jobs).resolve_left (by decide)
@[simp] theorem State.raiseSt_render : (s.raiseSt id e).render = s.render :=
  ((State.raiseSt_fr s id e).1 .render).resolve_left (by decide)
@[simp] theorem State.raiseSt_land : (s.raiseSt id e).land = s.land :=
  ((State.raiseSt_fr s id e).1 .land).resolve_left (by decide)
@[simp] theorem State.raiseSt_play : (s.raiseSt id e).play = s.play :=
  ((State.raiseSt_fr s id e).1 .play).resolve_left (by decide)
@[simp] theorem State.raiseSt_beam : (s.raiseSt id e).beam = s.beam :=
  ((State.raiseSt_fr s id e).1 .beam).resolve_left (by decide)
@[simp] theorem State.raiseSt_stage : (s.raiseSt id e).stage = s.stage :=
  ((State.raiseSt_fr s id e).1 .stage).resolve_left (by decide)
@[simp] theorem State.raiseSt_pacer : (s.raiseSt id e).pacer = s.pacer :=
  ((State.raiseSt_fr s id e).1 .pacer).resolve_left (by decide)
@[simp] theorem State.raiseSt_link : (s.raiseSt id e).link = s.link :=
  ((State.raiseSt_fr s id e).1 .link).resolve_left (by decide)
@[simp] theorem State.raiseSt_plate : (s.raiseSt id e).plate = s.plate :=
  ((State.raiseSt_fr s id e).1 .plate).resolve_left (by decide)
@[simp] theorem State.raiseSt_cams : (s.raiseSt id e).cams = s.cams :=
  ((State.raiseSt_fr s id e).1 .cams).resolve_left (by decide)
@[simp] theorem State.raiseSt_meas : (s.raiseSt id e).meas = s.meas :=
  ((State.raiseSt_fr s id e).1 .meas).resolve_left (by decide)
@[simp] theorem State.raiseSt_dma : (s.raiseSt id e).dma = s.dma :=
  ((State.raiseSt_fr s id e).1 .dma).resolve_left (by decide)
@[simp] theorem State.raiseSt_repair : (s.raiseSt id e).repair = s.repair :=
  ((State.raiseSt_fr s id e).1 .repair).resolve_left (by decide)
@[simp] theorem State.raiseSt_ref : (s.raiseSt id e).ref = s.ref :=
  ((State.raiseSt_fr s id e).1 .ref).resolve_left (by decide)
@[simp] theorem State.raiseSt_fw : (s.raiseSt id e).fw = s.fw :=
  ((State.raiseSt_fr s id e).1 .fw).resolve_left (by decide)
@[simp] theorem State.raiseSt_power : (s.raiseSt id e).power = s.power :=
  ((State.raiseSt_fr s id e).1 .power).resolve_left (by decide)
@[simp] theorem State.raiseSt_log : (s.raiseSt id e).log = s.log :=
  ((State.raiseSt_fr s id e).1 .log).resolve_left (by decide)
@[simp] theorem State.raiseSt_ledger : (s.raiseSt id e).ledger = s.ledger :=
  ((State.raiseSt_fr s id e).1 .ledger).resolve_left (by decide)
@[simp] theorem State.raiseSt_trace : (s.raiseSt id e).trace = s.trace :=
  ((State.raiseSt_fr s id e).1 .trace).resolve_left (by decide)
@[simp] theorem State.raiseSt_mgmt : (s.raiseSt id e).mgmt = s.mgmt :=
  ((State.raiseSt_fr s id e).1 .mgmt).resolve_left (by decide)
@[simp] theorem State.raiseSt_pending : (s.raiseSt id e).pending = s.pending :=
  ((State.raiseSt_fr s id e).1 .pending).resolve_left (by decide)
@[simp] theorem State.raiseSt_mbs : (s.raiseSt id e).host.mbs = s.host.mbs :=
  ((State.raiseSt_fr s id e).1 .mailboxes).resolve_left (by decide)
@[simp] theorem State.raiseSt_mb (n : BitVec 4) : (s.raiseSt id e).mb n = s.mb n := by
  simp [State.mb, HostIf.mb]
@[simp] theorem State.raiseSt_waiting : (s.raiseSt id e).host.waiting = s.host.waiting :=
  ((State.raiseSt_fr s id e).1 .waiting).resolve_left (by decide)
@[simp] theorem State.raiseSt_held : (s.raiseSt id e).host.held = s.host.held :=
  ((State.raiseSt_fr s id e).1 .bells).resolve_left (by decide)
theorem State.raiseSt_mbsWf (h : s.mbsWf) : (s.raiseSt id e).mbsWf := (State.raiseSt_fr s id e).2.2.1 h
end

section
variable (s : State) (e : Event)
@[simp] theorem State.logEntry_time : (s.logEntry e).time = s.time :=
  ((State.logEntry_fr s e).1 .time).resolve_left (by decide)
@[simp] theorem State.logEntry_jobs : (s.logEntry e).jobs = s.jobs :=
  ((State.logEntry_fr s e).1 .jobs).resolve_left (by decide)
@[simp] theorem State.logEntry_render : (s.logEntry e).render = s.render :=
  ((State.logEntry_fr s e).1 .render).resolve_left (by decide)
@[simp] theorem State.logEntry_land : (s.logEntry e).land = s.land :=
  ((State.logEntry_fr s e).1 .land).resolve_left (by decide)
@[simp] theorem State.logEntry_play : (s.logEntry e).play = s.play :=
  ((State.logEntry_fr s e).1 .play).resolve_left (by decide)
@[simp] theorem State.logEntry_beam : (s.logEntry e).beam = s.beam :=
  ((State.logEntry_fr s e).1 .beam).resolve_left (by decide)
@[simp] theorem State.logEntry_stage : (s.logEntry e).stage = s.stage :=
  ((State.logEntry_fr s e).1 .stage).resolve_left (by decide)
@[simp] theorem State.logEntry_pacer : (s.logEntry e).pacer = s.pacer :=
  ((State.logEntry_fr s e).1 .pacer).resolve_left (by decide)
@[simp] theorem State.logEntry_link : (s.logEntry e).link = s.link :=
  ((State.logEntry_fr s e).1 .link).resolve_left (by decide)
@[simp] theorem State.logEntry_plate : (s.logEntry e).plate = s.plate :=
  ((State.logEntry_fr s e).1 .plate).resolve_left (by decide)
@[simp] theorem State.logEntry_cams : (s.logEntry e).cams = s.cams :=
  ((State.logEntry_fr s e).1 .cams).resolve_left (by decide)
@[simp] theorem State.logEntry_meas : (s.logEntry e).meas = s.meas :=
  ((State.logEntry_fr s e).1 .meas).resolve_left (by decide)
@[simp] theorem State.logEntry_dma : (s.logEntry e).dma = s.dma :=
  ((State.logEntry_fr s e).1 .dma).resolve_left (by decide)
@[simp] theorem State.logEntry_repair : (s.logEntry e).repair = s.repair :=
  ((State.logEntry_fr s e).1 .repair).resolve_left (by decide)
@[simp] theorem State.logEntry_ref : (s.logEntry e).ref = s.ref :=
  ((State.logEntry_fr s e).1 .ref).resolve_left (by decide)
@[simp] theorem State.logEntry_fw : (s.logEntry e).fw = s.fw :=
  ((State.logEntry_fr s e).1 .fw).resolve_left (by decide)
@[simp] theorem State.logEntry_power : (s.logEntry e).power = s.power :=
  ((State.logEntry_fr s e).1 .power).resolve_left (by decide)
@[simp] theorem State.logEntry_ledger : (s.logEntry e).ledger = s.ledger :=
  ((State.logEntry_fr s e).1 .ledger).resolve_left (by decide)
@[simp] theorem State.logEntry_trace : (s.logEntry e).trace = s.trace :=
  ((State.logEntry_fr s e).1 .trace).resolve_left (by decide)
@[simp] theorem State.logEntry_mgmt : (s.logEntry e).mgmt = s.mgmt :=
  ((State.logEntry_fr s e).1 .mgmt).resolve_left (by decide)
@[simp] theorem State.logEntry_out : (s.logEntry e).out = s.out :=
  ((State.logEntry_fr s e).1 .out).resolve_left (by decide)
@[simp] theorem State.logEntry_pending : (s.logEntry e).pending = s.pending :=
  ((State.logEntry_fr s e).1 .pending).resolve_left (by decide)
@[simp] theorem State.logEntry_mbs : (s.logEntry e).host.mbs = s.host.mbs :=
  ((State.logEntry_fr s e).1 .mailboxes).resolve_left (by decide)
@[simp] theorem State.logEntry_mb (n : BitVec 4) : (s.logEntry e).mb n = s.mb n := by
  simp [State.mb, HostIf.mb]
@[simp] theorem State.logEntry_waiting : (s.logEntry e).host.waiting = s.host.waiting :=
  ((State.logEntry_fr s e).1 .waiting).resolve_left (by decide)
@[simp] theorem State.logEntry_held : (s.logEntry e).host.held = s.host.held :=
  ((State.logEntry_fr s e).1 .bells).resolve_left (by decide)
theorem State.logEntry_mbsWf (h : s.mbsWf) : (s.logEntry e).mbsWf := (State.logEntry_fr s e).2.2.1 h
end

section
variable (s : State) (job : Option (BitVec 16)) (e : Event)
@[simp] theorem State.fault_time : (s.fault job e).time = s.time :=
  ((State.fault_fr s job e).1 .time).resolve_left (by decide)
@[simp] theorem State.fault_jobs : (s.fault job e).jobs = s.jobs :=
  ((State.fault_fr s job e).1 .jobs).resolve_left (by decide)
@[simp] theorem State.fault_render : (s.fault job e).render = s.render :=
  ((State.fault_fr s job e).1 .render).resolve_left (by decide)
@[simp] theorem State.fault_land : (s.fault job e).land = s.land :=
  ((State.fault_fr s job e).1 .land).resolve_left (by decide)
@[simp] theorem State.fault_play : (s.fault job e).play = s.play :=
  ((State.fault_fr s job e).1 .play).resolve_left (by decide)
@[simp] theorem State.fault_beam : (s.fault job e).beam = s.beam :=
  ((State.fault_fr s job e).1 .beam).resolve_left (by decide)
@[simp] theorem State.fault_stage : (s.fault job e).stage = s.stage :=
  ((State.fault_fr s job e).1 .stage).resolve_left (by decide)
@[simp] theorem State.fault_pacer : (s.fault job e).pacer = s.pacer :=
  ((State.fault_fr s job e).1 .pacer).resolve_left (by decide)
@[simp] theorem State.fault_link : (s.fault job e).link = s.link :=
  ((State.fault_fr s job e).1 .link).resolve_left (by decide)
@[simp] theorem State.fault_plate : (s.fault job e).plate = s.plate :=
  ((State.fault_fr s job e).1 .plate).resolve_left (by decide)
@[simp] theorem State.fault_cams : (s.fault job e).cams = s.cams :=
  ((State.fault_fr s job e).1 .cams).resolve_left (by decide)
@[simp] theorem State.fault_meas : (s.fault job e).meas = s.meas :=
  ((State.fault_fr s job e).1 .meas).resolve_left (by decide)
@[simp] theorem State.fault_dma : (s.fault job e).dma = s.dma :=
  ((State.fault_fr s job e).1 .dma).resolve_left (by decide)
@[simp] theorem State.fault_repair : (s.fault job e).repair = s.repair :=
  ((State.fault_fr s job e).1 .repair).resolve_left (by decide)
@[simp] theorem State.fault_ref : (s.fault job e).ref = s.ref :=
  ((State.fault_fr s job e).1 .ref).resolve_left (by decide)
@[simp] theorem State.fault_fw : (s.fault job e).fw = s.fw :=
  ((State.fault_fr s job e).1 .fw).resolve_left (by decide)
@[simp] theorem State.fault_power : (s.fault job e).power = s.power :=
  ((State.fault_fr s job e).1 .power).resolve_left (by decide)
@[simp] theorem State.fault_ledger : (s.fault job e).ledger = s.ledger :=
  ((State.fault_fr s job e).1 .ledger).resolve_left (by decide)
@[simp] theorem State.fault_trace : (s.fault job e).trace = s.trace :=
  ((State.fault_fr s job e).1 .trace).resolve_left (by decide)
@[simp] theorem State.fault_mgmt : (s.fault job e).mgmt = s.mgmt :=
  ((State.fault_fr s job e).1 .mgmt).resolve_left (by decide)
@[simp] theorem State.fault_pending : (s.fault job e).pending = s.pending :=
  ((State.fault_fr s job e).1 .pending).resolve_left (by decide)
@[simp] theorem State.fault_mbs : (s.fault job e).host.mbs = s.host.mbs :=
  ((State.fault_fr s job e).1 .mailboxes).resolve_left (by decide)
@[simp] theorem State.fault_mb (n : BitVec 4) : (s.fault job e).mb n = s.mb n := by
  simp [State.mb, HostIf.mb]
@[simp] theorem State.fault_waiting : (s.fault job e).host.waiting = s.host.waiting :=
  ((State.fault_fr s job e).1 .waiting).resolve_left (by decide)
@[simp] theorem State.fault_held : (s.fault job e).host.held = s.host.held :=
  ((State.fault_fr s job e).1 .bells).resolve_left (by decide)
theorem State.fault_mbsWf (h : s.mbsWf) : (s.fault job e).mbsWf := (State.fault_fr s job e).2.2.1 h
end

section
variable (s : State) (id : StripeId) (e : Event)
@[simp] theorem State.faultSt_time : (s.faultSt id e).time = s.time :=
  ((State.faultSt_fr s id e).1 .time).resolve_left (by decide)
@[simp] theorem State.faultSt_jobs : (s.faultSt id e).jobs = s.jobs :=
  ((State.faultSt_fr s id e).1 .jobs).resolve_left (by decide)
@[simp] theorem State.faultSt_render : (s.faultSt id e).render = s.render :=
  ((State.faultSt_fr s id e).1 .render).resolve_left (by decide)
@[simp] theorem State.faultSt_land : (s.faultSt id e).land = s.land :=
  ((State.faultSt_fr s id e).1 .land).resolve_left (by decide)
@[simp] theorem State.faultSt_play : (s.faultSt id e).play = s.play :=
  ((State.faultSt_fr s id e).1 .play).resolve_left (by decide)
@[simp] theorem State.faultSt_beam : (s.faultSt id e).beam = s.beam :=
  ((State.faultSt_fr s id e).1 .beam).resolve_left (by decide)
@[simp] theorem State.faultSt_stage : (s.faultSt id e).stage = s.stage :=
  ((State.faultSt_fr s id e).1 .stage).resolve_left (by decide)
@[simp] theorem State.faultSt_pacer : (s.faultSt id e).pacer = s.pacer :=
  ((State.faultSt_fr s id e).1 .pacer).resolve_left (by decide)
@[simp] theorem State.faultSt_link : (s.faultSt id e).link = s.link :=
  ((State.faultSt_fr s id e).1 .link).resolve_left (by decide)
@[simp] theorem State.faultSt_plate : (s.faultSt id e).plate = s.plate :=
  ((State.faultSt_fr s id e).1 .plate).resolve_left (by decide)
@[simp] theorem State.faultSt_cams : (s.faultSt id e).cams = s.cams :=
  ((State.faultSt_fr s id e).1 .cams).resolve_left (by decide)
@[simp] theorem State.faultSt_meas : (s.faultSt id e).meas = s.meas :=
  ((State.faultSt_fr s id e).1 .meas).resolve_left (by decide)
@[simp] theorem State.faultSt_dma : (s.faultSt id e).dma = s.dma :=
  ((State.faultSt_fr s id e).1 .dma).resolve_left (by decide)
@[simp] theorem State.faultSt_repair : (s.faultSt id e).repair = s.repair :=
  ((State.faultSt_fr s id e).1 .repair).resolve_left (by decide)
@[simp] theorem State.faultSt_ref : (s.faultSt id e).ref = s.ref :=
  ((State.faultSt_fr s id e).1 .ref).resolve_left (by decide)
@[simp] theorem State.faultSt_fw : (s.faultSt id e).fw = s.fw :=
  ((State.faultSt_fr s id e).1 .fw).resolve_left (by decide)
@[simp] theorem State.faultSt_power : (s.faultSt id e).power = s.power :=
  ((State.faultSt_fr s id e).1 .power).resolve_left (by decide)
@[simp] theorem State.faultSt_ledger : (s.faultSt id e).ledger = s.ledger :=
  ((State.faultSt_fr s id e).1 .ledger).resolve_left (by decide)
@[simp] theorem State.faultSt_trace : (s.faultSt id e).trace = s.trace :=
  ((State.faultSt_fr s id e).1 .trace).resolve_left (by decide)
@[simp] theorem State.faultSt_mgmt : (s.faultSt id e).mgmt = s.mgmt :=
  ((State.faultSt_fr s id e).1 .mgmt).resolve_left (by decide)
@[simp] theorem State.faultSt_pending : (s.faultSt id e).pending = s.pending :=
  ((State.faultSt_fr s id e).1 .pending).resolve_left (by decide)
@[simp] theorem State.faultSt_mbs : (s.faultSt id e).host.mbs = s.host.mbs :=
  ((State.faultSt_fr s id e).1 .mailboxes).resolve_left (by decide)
@[simp] theorem State.faultSt_mb (n : BitVec 4) : (s.faultSt id e).mb n = s.mb n := by
  simp [State.mb, HostIf.mb]
@[simp] theorem State.faultSt_waiting : (s.faultSt id e).host.waiting = s.host.waiting :=
  ((State.faultSt_fr s id e).1 .waiting).resolve_left (by decide)
@[simp] theorem State.faultSt_held : (s.faultSt id e).host.held = s.host.held :=
  ((State.faultSt_fr s id e).1 .bells).resolve_left (by decide)
theorem State.faultSt_mbsWf (h : s.mbsWf) : (s.faultSt id e).mbsWf := (State.faultSt_fr s id e).2.2.1 h
end

section
variable (s : State) (src : Nat) (w : Word)
@[simp] theorem State.traceRec_time : (s.traceRec src w).time = s.time :=
  ((State.traceRec_fr s src w).1 .time).resolve_left (by decide)
@[simp] theorem State.traceRec_jobs : (s.traceRec src w).jobs = s.jobs :=
  ((State.traceRec_fr s src w).1 .jobs).resolve_left (by decide)
@[simp] theorem State.traceRec_render : (s.traceRec src w).render = s.render :=
  ((State.traceRec_fr s src w).1 .render).resolve_left (by decide)
@[simp] theorem State.traceRec_land : (s.traceRec src w).land = s.land :=
  ((State.traceRec_fr s src w).1 .land).resolve_left (by decide)
@[simp] theorem State.traceRec_play : (s.traceRec src w).play = s.play :=
  ((State.traceRec_fr s src w).1 .play).resolve_left (by decide)
@[simp] theorem State.traceRec_beam : (s.traceRec src w).beam = s.beam :=
  ((State.traceRec_fr s src w).1 .beam).resolve_left (by decide)
@[simp] theorem State.traceRec_stage : (s.traceRec src w).stage = s.stage :=
  ((State.traceRec_fr s src w).1 .stage).resolve_left (by decide)
@[simp] theorem State.traceRec_pacer : (s.traceRec src w).pacer = s.pacer :=
  ((State.traceRec_fr s src w).1 .pacer).resolve_left (by decide)
@[simp] theorem State.traceRec_link : (s.traceRec src w).link = s.link :=
  ((State.traceRec_fr s src w).1 .link).resolve_left (by decide)
@[simp] theorem State.traceRec_plate : (s.traceRec src w).plate = s.plate :=
  ((State.traceRec_fr s src w).1 .plate).resolve_left (by decide)
@[simp] theorem State.traceRec_cams : (s.traceRec src w).cams = s.cams :=
  ((State.traceRec_fr s src w).1 .cams).resolve_left (by decide)
@[simp] theorem State.traceRec_meas : (s.traceRec src w).meas = s.meas :=
  ((State.traceRec_fr s src w).1 .meas).resolve_left (by decide)
@[simp] theorem State.traceRec_dma : (s.traceRec src w).dma = s.dma :=
  ((State.traceRec_fr s src w).1 .dma).resolve_left (by decide)
@[simp] theorem State.traceRec_repair : (s.traceRec src w).repair = s.repair :=
  ((State.traceRec_fr s src w).1 .repair).resolve_left (by decide)
@[simp] theorem State.traceRec_ref : (s.traceRec src w).ref = s.ref :=
  ((State.traceRec_fr s src w).1 .ref).resolve_left (by decide)
@[simp] theorem State.traceRec_fw : (s.traceRec src w).fw = s.fw :=
  ((State.traceRec_fr s src w).1 .fw).resolve_left (by decide)
@[simp] theorem State.traceRec_power : (s.traceRec src w).power = s.power :=
  ((State.traceRec_fr s src w).1 .power).resolve_left (by decide)
@[simp] theorem State.traceRec_log : (s.traceRec src w).log = s.log :=
  ((State.traceRec_fr s src w).1 .log).resolve_left (by decide)
@[simp] theorem State.traceRec_ledger : (s.traceRec src w).ledger = s.ledger :=
  ((State.traceRec_fr s src w).1 .ledger).resolve_left (by decide)
@[simp] theorem State.traceRec_mgmt : (s.traceRec src w).mgmt = s.mgmt :=
  ((State.traceRec_fr s src w).1 .mgmt).resolve_left (by decide)
@[simp] theorem State.traceRec_pending : (s.traceRec src w).pending = s.pending :=
  ((State.traceRec_fr s src w).1 .pending).resolve_left (by decide)
@[simp] theorem State.traceRec_mbs : (s.traceRec src w).host.mbs = s.host.mbs :=
  ((State.traceRec_fr s src w).1 .mailboxes).resolve_left (by decide)
@[simp] theorem State.traceRec_mb (n : BitVec 4) : (s.traceRec src w).mb n = s.mb n := by
  simp [State.mb, HostIf.mb]
@[simp] theorem State.traceRec_waiting : (s.traceRec src w).host.waiting = s.host.waiting :=
  ((State.traceRec_fr s src w).1 .waiting).resolve_left (by decide)
@[simp] theorem State.traceRec_held : (s.traceRec src w).host.held = s.host.held :=
  ((State.traceRec_fr s src w).1 .bells).resolve_left (by decide)
theorem State.traceRec_mbsWf (h : s.mbsWf) : (s.traceRec src w).mbsWf := (State.traceRec_fr s src w).2.2.1 h
end

/-! ### The memory and the ports after a response -/

@[simp] theorem State.msix_mem (s : State) (p : Port) (v : Nat) : (s.msix p v).mem = s.mem := by
  unfold State.msix
  split <;> rfl

@[simp] theorem State.respond_mem (s : State) (src : Src) (st : BitVec 16) (d : Nat) (f : Bool) (b : List Word) :
    (s.respond src st d f b).mem = s.mem := by
  unfold State.respond
  simp

@[simp] theorem State.ok_mem (s : State) (src : Src) (b : List Word) : (s.ok src b).mem = s.mem := State.respond_mem ..

@[simp] theorem State.fail_mem (s : State) (src : Src) (st : BitVec 16) : (s.fail src st).mem = s.mem := State.respond_mem ..

@[simp] theorem State.logEntry_mem (s : State) (e : Event) : (s.logEntry e).mem = s.mem := by
  unfold State.logEntry
  split <;> rfl

@[simp] theorem State.port_onMb (s : State) (n : BitVec 4) (f : Mailbox → Mailbox) (p : Port) :
    (s.onMb n f).port p = s.port p := by
  cases p <;> rfl

@[simp] theorem State.draw_port (s : State) (p : Port) : s.draw.port p = s.port p := rfl

@[simp] theorem State.msix_evq (s : State) (p : Port) (v : Nat) (q : Port) :
    ((s.msix p v).port q).evq = (s.port q).evq := by
  unfold State.msix
  split
  · cases p <;> cases q <;> rfl
  · rfl

@[simp] theorem State.respond_evq (s : State) (src : Src) (st : BitVec 16) (d : Nat) (g : Bool) (b : List Word)
    (q : Port) : ((s.respond src st d g b).port q).evq = (s.port q).evq := by
  unfold State.respond
  simp

@[simp] theorem State.ok_evq (s : State) (src : Src) (b : List Word) (q : Port) :
    ((s.ok src b).port q).evq = (s.port q).evq := State.respond_evq ..

@[simp] theorem State.msix_lease (s : State) (p : Port) (v : Nat) (q : Port) :
    ((s.msix p v).port q).lease = (s.port q).lease := by
  unfold State.msix
  split
  · cases p <;> cases q <;> rfl
  · rfl

@[simp] theorem State.respond_lease (s : State) (src : Src) (st : BitVec 16) (d : Nat) (g : Bool) (b : List Word)
    (q : Port) : ((s.respond src st d g b).port q).lease = (s.port q).lease := by
  unfold State.respond
  simp

@[simp] theorem State.ok_lease (s : State) (src : Src) (b : List Word) (q : Port) :
    ((s.ok src b).port q).lease = (s.port q).lease := State.respond_lease ..

@[simp] theorem State.msix_departed (s : State) (p : Port) (v : Nat) (q : Port) :
    ((s.msix p v).port q).departed = (s.port q).departed := by
  unfold State.msix
  split
  · cases p <;> cases q <;> rfl
  · rfl

@[simp] theorem State.respond_departed (s : State) (src : Src) (st : BitVec 16) (d : Nat) (g : Bool) (b : List Word)
    (q : Port) : ((s.respond src st d g b).port q).departed = (s.port q).departed := by
  unfold State.respond
  simp

@[simp] theorem State.ok_departed (s : State) (src : Src) (b : List Word) (q : Port) :
    ((s.ok src b).port q).departed = (s.port q).departed := State.respond_departed ..

@[simp] theorem State.msix_linkUp (s : State) (p : Port) (v : Nat) (q : Port) :
    ((s.msix p v).port q).linkUp = (s.port q).linkUp := by
  unfold State.msix
  split
  · cases p <;> cases q <;> rfl
  · rfl

@[simp] theorem State.respond_linkUp (s : State) (src : Src) (st : BitVec 16) (d : Nat) (g : Bool) (b : List Word)
    (q : Port) : ((s.respond src st d g b).port q).linkUp = (s.port q).linkUp := by
  unfold State.respond
  simp

@[simp] theorem State.ok_linkUp (s : State) (src : Src) (b : List Word) (q : Port) :
    ((s.ok src b).port q).linkUp = (s.port q).linkUp := State.respond_linkUp ..

@[simp] theorem State.msix_lastBell (s : State) (p : Port) (v : Nat) (q : Port) :
    ((s.msix p v).port q).lastBell = (s.port q).lastBell := by
  unfold State.msix
  split
  · cases p <;> cases q <;> rfl
  · rfl

@[simp] theorem State.respond_lastBell (s : State) (src : Src) (st : BitVec 16) (d : Nat) (g : Bool) (b : List Word)
    (q : Port) : ((s.respond src st d g b).port q).lastBell = (s.port q).lastBell := by
  unfold State.respond
  simp

@[simp] theorem State.ok_lastBell (s : State) (src : Src) (b : List Word) (q : Port) :
    ((s.ok src b).port q).lastBell = (s.port q).lastBell := State.respond_lastBell ..

@[simp] theorem State.msix_downAt (s : State) (p : Port) (v : Nat) (q : Port) :
    ((s.msix p v).port q).downAt = (s.port q).downAt := by
  unfold State.msix
  split
  · cases p <;> cases q <;> rfl
  · rfl

@[simp] theorem State.respond_downAt (s : State) (src : Src) (st : BitVec 16) (d : Nat) (g : Bool) (b : List Word)
    (q : Port) : ((s.respond src st d g b).port q).downAt = (s.port q).downAt := by
  unfold State.respond
  simp

@[simp] theorem State.ok_downAt (s : State) (src : Src) (b : List Word) (q : Port) :
    ((s.ok src b).port q).downAt = (s.port q).downAt := State.respond_downAt ..

@[simp] theorem State.msix_msix (s : State) (p : Port) (v : Nat) (q : Port) :
    ((s.msix p v).port q).msix = (s.port q).msix := by
  unfold State.msix
  split
  · cases p <;> cases q <;> rfl
  · rfl

@[simp] theorem State.respond_msix (s : State) (src : Src) (st : BitVec 16) (d : Nat) (g : Bool) (b : List Word)
    (q : Port) : ((s.respond src st d g b).port q).msix = (s.port q).msix := by
  unfold State.respond
  simp

@[simp] theorem State.ok_msix (s : State) (src : Src) (b : List Word) (q : Port) :
    ((s.ok src b).port q).msix = (s.port q).msix := State.respond_msix ..

/-! ### Responses -/

theorem State.mb_onMb {s : State} (h : s.mbsWf) (n : BitVec 4) (f : Mailbox → Mailbox) :
    (s.onMb n f).mb n = f (s.mb n) := by
  have hn : n.toNat < s.host.mbs.length := by rw [h]; exact n.isLt
  simp [State.mb, State.onMb, HostIf.mb, HostIf.onMb, State.onHost, List.getD_eq_getElem?_getD, hn]

theorem State.mb_onMb_other {s : State} {n m : BitVec 4} (f : Mailbox → Mailbox) (h : m ≠ n) :
    (s.onMb n f).mb m = s.mb m := by
  have hn : n.toNat ≠ m.toNat := fun hc => h (BitVec.eq_of_toNat_eq hc.symm)
  simp [State.mb, State.onMb, HostIf.mb, HostIf.onMb, State.onHost, List.getD_eq_getElem?_getD, hn]

@[simp] theorem State.draw_mb (s : State) (n : BitVec 4) : s.draw.mb n = s.mb n := rfl

/-- What a response leaves in its mailbox (R413, R415). -/
theorem State.respond_own {s : State} (h : s.mbsWf) (src : Src) (st : BitVec 16) (detail : Nat) (deferred : Bool)
    (body : List Word) : (s.respond src st detail deferred body).mb src.mb = { s.mb src.mb with
      busy := false, done := true, resp0 := respHeader (s.mb src.mb).header body
      resp1 := packW [(0, 16, st.toNat), (17, 1, b2n deferred), (32, 32, detail), (64, 64, s.fwStamp.toNat)]
      respBody := body, kept0 := respHeader (s.mb src.mb).header body
      kept1 := packW [(0, 16, st.toNat), (17, 1, b2n deferred), (32, 32, detail), (64, 64, s.fwStamp.toNat)]
      keptBody := body } := by
  unfold State.respond
  simp only [State.draw_mb, State.msix_mb]
  rw [State.mb_onMb h]

/-- A response leaves the other mailboxes alone. -/
theorem State.respond_other {s : State} (src : Src) (st : BitVec 16) (detail : Nat) (deferred : Bool)
    (body : List Word) {n : BitVec 4} (h : n ≠ src.mb) :
    (s.respond src st detail deferred body).mb n = s.mb n := by
  unfold State.respond
  simp only [State.draw_mb, State.msix_mb]
  exact State.mb_onMb_other _ h

theorem fld_low {hi v : Nat} (h : hi < 128) : fld hi 0 (BitVec.ofNat 128 v) = v % 2 ^ (hi + 1) := by
  unfold fld
  simp only [BitVec.toNat_ofNat, Nat.pow_zero, Nat.div_one, Nat.sub_zero]
  rw [Nat.mod_mod_of_dvd]
  exact Nat.pow_dvd_pow 2 (by omega)

theorem packW_four (p q r u i j k l a b c d : Nat) : packW [(p, i, a), (q, j, b), (r, k, c), (u, l, d)] =
    BitVec.ofNat 128 (0 + a % 2 ^ i * 2 ^ p + b % 2 ^ j * 2 ^ q + c % 2 ^ k * 2 ^ r + d % 2 ^ l * 2 ^ u) := rfl

theorem packW_status (a b c d : Nat) :
    fld 15 0 (packW [(0, 16, a), (17, 1, b), (32, 32, c), (64, 64, d)]) = a % 2 ^ 16 := by
  rw [packW_four, fld_low (by decide)]
  omega

theorem State.respond_status {s : State} (h : s.mbsWf) (src : Src) (st : BitVec 16) (detail : Nat)
    (deferred : Bool) (body : List Word) :
    fld 15 0 ((s.respond src st detail deferred body).mb src.mb).resp1 = st.toNat := by
  rw [State.respond_own h, packW_status]
  exact Nat.mod_eq_of_lt st.isLt

theorem State.respond_answered {s : State} (h : s.mbsWf) (src : Src) (st : BitVec 16) (detail : Nat)
    (deferred : Bool) (body : List Word) : (s.respond src st detail deferred body).answered src st := by
  refine ⟨?_, ?_, State.respond_status h src st detail deferred body⟩
  · rw [State.respond_own h]
  · rw [State.respond_own h]

theorem State.ok_answered {s : State} (h : s.mbsWf) (src : Src) (body : List Word) :
    (s.ok src body).answered src ST.ok := State.respond_answered h ..

theorem State.fail_answered {s : State} (h : s.mbsWf) (src : Src) (st : BitVec 16) :
    (s.fail src st).answered src st := State.respond_answered h ..

@[simp] theorem firstFail_nil : firstFail [] = none := rfl

@[simp] theorem firstFail_true (st : BitVec 16) (r : List (Bool × BitVec 16)) :
    firstFail ((true, st) :: r) = firstFail r := rfl

@[simp] theorem firstFail_false (st : BitVec 16) (r : List (Bool × BitVec 16)) :
    firstFail ((false, st) :: r) = some st := rfl

/-- A command whose preconditions hold has its effect (R424). -/
theorem State.command_pass {s : State} {src : Src} {pre : List (Bool × BitVec 16)} {k : State → State}
    (h : firstFail pre = none) : s.command src pre k = k s := by
  unfold State.command
  rw [h]

/-- The first precondition that fails gives the status, and nothing else happens (R424). -/
theorem State.command_fail {s : State} {src : Src} {pre : List (Bool × BitVec 16)} {k : State → State}
    {st : BitVec 16} (h : firstFail pre = some st) : s.command src pre k = s.fail src st := by
  unfold State.command
  rw [h]

theorem State.onMb_mbsWf {s : State} (h : s.mbsWf) (n : BitVec 4) (f : Mailbox → Mailbox) : (s.onMb n f).mbsWf :=
  (s.onMb_fr n f).2.2.1 h

theorem State.onPort_mbsWf {s : State} (h : s.mbsWf) (p : Port) (f : PortS → PortS) : (s.onPort p f).mbsWf :=
  (s.onPort_fr p f).2.2.1 h

@[simp] theorem State.mb_onPort (s : State) (p : Port) (f : PortS → PortS) (n : BitVec 4) :
    (s.onPort p f).mb n = s.mb n := by
  cases p <;> rfl

@[simp] theorem State.port_onPort (s : State) (p : Port) (f : PortS → PortS) :
    (s.onPort p f).port p = f (s.port p) := by
  cases p <;> rfl

theorem State.ok_own {s : State} (h : s.mbsWf) (src : Src) (body : List Word) :
    ((s.ok src body).mb src.mb).owner = (s.mb src.mb).owner ∧ ((s.ok src body).mb src.mb).lastAlive =
      (s.mb src.mb).lastAlive ∧ ((s.ok src body).mb src.mb).respBody = body ∧
      ((s.ok src body).mb src.mb).lease = (s.mb src.mb).lease := by
  unfold State.ok
  rw [State.respond_own h]
  exact ⟨rfl, rfl, rfl, rfl⟩

theorem State.ok_other {s : State} (src : Src) (body : List Word) {n : BitVec 4} (h : n ≠ src.mb) :
    (s.ok src body).mb n = s.mb n := State.respond_other _ _ _ _ _ h

theorem Referee.onMarshal_same (r : Referee) (m : Marshal) (f : MarshalS → MarshalS) :
    (r.onMarshal m f).marshal m = f (r.marshal m) := by
  cases m <;> rfl

theorem Referee.onMarshal_other (r : Referee) (m : Marshal) (f : MarshalS → MarshalS) :
    (r.onMarshal (otherMarshal m) f).marshal m = r.marshal m := by
  cases m <;> rfl

/-! ### Repair records -/

theorem find_map_node {xs : List RepairRec} {n : BitVec 32} {f : RepairRec → RepairRec}
    (hf : ∀ x, (f x).node = x.node) : (xs.map fun x => if x.node = n then f x else x).find? (·.node == n) =
      (xs.find? (·.node == n)).map f := by
  induction xs with
  | nil => rfl
  | cons x xs ih =>
    by_cases hx : x.node = n
    · simp [hx, hf]
    · simp [hx, ih]

/-- The record of an instance after an update of it. -/
theorem State.repairRec_onRepairRec (s : State) (n : BitVec 32) (f : RepairRec → RepairRec)
    (hf : ∀ x, (f x).node = x.node) : (s.onRepairRec n f).repairRec n = some (f ((s.repairRec n).getD
      ⟨n, if factorySpare n then .spare else .inService, none, none, false, false, false⟩)) := by
  unfold State.onRepairRec State.repairRec
  simp only [State.onRepair_repair]
  by_cases h : s.repair.recs.any (·.node == n) = true
  · rw [if_pos h]
    simp only [find_map_node hf]
    rw [List.any_eq_true] at h
    obtain ⟨x, hx, hn⟩ := h
    have : (s.repair.recs.find? (·.node == n)).isSome := List.find?_isSome.2 ⟨x, hx, hn⟩
    obtain ⟨y, hy⟩ := Option.isSome_iff_exists.1 this
    simp [hy]
  · rw [if_neg h]
    have hno : s.repair.recs.find? (·.node == n) = none := by
      rw [List.find?_eq_none]
      intro x hx hn
      exact h (List.any_eq_true.2 ⟨x, hx, hn⟩)
    rw [List.find?_append, hno]
    simp [hf]

theorem State.rstate_onRepairRec (s : State) (n : BitVec 32) (f : RepairRec → RepairRec)
    (hf : ∀ x, (f x).node = x.node) (hn : outputLane n = false) : (s.onRepairRec n f).rstate n =
      (f ((s.repairRec n).getD
        ⟨n, if factorySpare n then .spare else .inService, none, none, false, false, false⟩)).st := by
  unfold State.rstate
  rw [State.repairRec_onRepairRec s n f hf, hn]
  rfl

/-- An instance whose record says quarantined is quarantined, an output lane too. -/
theorem State.rstate_quarantined (s : State) (n : BitVec 32) (f : RepairRec → RepairRec)
    (hf : ∀ x, (f x).node = x.node) (hq : ∀ x, (f x).st = .quarantined) : (s.onRepairRec n f).rstate n = .quarantined := by
  unfold State.rstate
  rw [State.repairRec_onRepairRec s n f hf]
  simp [hq]

@[simp] theorem State.rstate_ok (s : State) (src : Src) (b : List Word) (n : BitVec 32) :
    (s.ok src b).rstate n = s.rstate n := by simp [State.rstate, State.repairRec]

theorem State.rstate_setRState (s : State) {n : BitVec 32} (hn : outputLane n = false) (st : RState) :
    (s.setRState n st).rstate n = st := State.rstate_onRepairRec s n _ (fun _ => rfl) hn

theorem State.wait_waits {s : State} (h : s.mbsWf) (src : Src) (c : Instr) : (s.wait src c).waits src c := by
  have hm : (s.wait src c).mb src.mb = { s.mb src.mb with busy := true, done := false } := by
    unfold State.wait
    exact State.mb_onMb h src.mb fun m => { m with busy := true, done := false }
  refine ⟨by rw [hm], by rw [hm], ⟨src, c, s.time.ctr⟩, ?_, rfl, rfl⟩
  simp [State.wait, State.onHost]

end Sys2Proof.Machine
end

