-- ==== Sys2Proof/Laws/Jobs.lean ====
section
/-!
SUPPORT. Looking up a stripe, a segment, a job or a repair state after an update.
-/

namespace Sys2Proof.Machine

/-- A stripe looked up after one stripe was updated. -/
theorem State.stripe_onStripe (s : State) (id i : StripeId) (f : Stripe → Stripe) (hf : ∀ x, (f x).id = x.id) :
    (s.onStripe id f).stripe? i = (s.stripe? i).map fun x => if i = id then f x else x := by
  show (List.map _ s.jobs.stripes).find? _ = (s.jobs.stripes.find? _).map _
  induction s.jobs.stripes with
  | nil => rfl
  | cons x xs ih =>
    by_cases h2 : x.id = i
    · subst h2
      by_cases hx : x.id = id <;> simp [hx, hf]
    · have h3 : (x.id == i) = false := by simpa using h2
      rw [List.map_cons, List.find?_cons, List.find?_cons, h3]
      have : ((if x.id = id then f x else x).id == i) = false := by split <;> simp [hf, h2]
      rw [this]
      exact ih

theorem State.stripe_onStripe_self {s : State} {id : StripeId} {f : Stripe → Stripe} {x : Stripe}
    (h : s.stripe? id = some x) (hf : ∀ x, (f x).id = x.id) : (s.onStripe id f).stripe? id = some (f x) := by
  rw [State.stripe_onStripe s id id f hf, h]
  simp

theorem State.stripe_of_jobs {s t : State} (h : t.jobs = s.jobs) (i : StripeId) : t.stripe? i = s.stripe? i := by
  unfold State.stripe?
  rw [h]

theorem State.job_of_jobs {s t : State} (h : t.jobs = s.jobs) (i : BitVec 16) : t.job? i = s.job? i := by
  unfold State.job?
  rw [h]

theorem State.stripe_onSeg_self {s : State} {id : StripeId} {k : Nat} {f : Seg → Seg} {x : Stripe}
    (h : s.stripe? id = some x) : (s.onSeg id k f).stripe? id = some (x.onSeg k f) :=
  State.stripe_onStripe_self h fun _ => rfl

/-- A segment looked up after it was updated. -/
theorem State.seg_onSeg {s : State} {id : StripeId} {k : Nat} {f : Seg → Seg} {g : Seg}
    (h : s.seg? id k = some g) : (s.onSeg id k f).seg? id k = some (f g) := by
  unfold State.seg? at h ⊢
  cases hx : s.stripe? id with
  | none => rw [hx] at h; exact absurd h (by simp)
  | some x =>
    rw [hx] at h
    rw [State.stripe_onSeg_self hx]
    show (x.segs.modify k f)[k]? = _
    have h' : x.segs[k]? = some g := h
    rw [List.getElem?_modify, h']
    simp

theorem State.seg_of_jobs {s t : State} (h : t.jobs = s.jobs) (i : StripeId) (k : Nat) : t.seg? i k = s.seg? i k := by
  unfold State.seg?
  rw [State.stripe_of_jobs h]

theorem State.rstate_of_repair {s t : State} (h : t.repair = s.repair) (hl : t.link = s.link) (n : BitVec 32) :
    t.rstate n = s.rstate n := by
  unfold State.rstate State.repairRec
  rw [h, hl]

theorem State.rstate_record (s : State) (r : BitVec 32) (f : RepairRec → RepairRec) (st : RState)
    (hn : ∀ x, (f x).node = x.node) (hf : ∀ x, (f x).st = st) (hr : outputLane r = false) :
    (s.onRepairRec r f).rstate r = st := by
  rw [State.rstate_onRepairRec s r f hn hr, hf]

/-- A fault that names quarantine takes an instance in service out of it (R430). -/
theorem State.quarantineWith_rstate {s : State} {r : BitVec 32} (h : s.rstate r = .inService) (e : Event) :
    (s.quarantineWith r e).rstate r = .quarantined := by
  unfold State.quarantineWith
  rw [if_pos h, State.rstate_of_repair (State.fault_repair ..) (State.fault_link ..)]
  exact State.rstate_quarantined s r _ (fun _ => rfl) fun _ => rfl

theorem State.quarantine_rstate {s : State} {r : BitVec 32} (h : s.rstate r = .inService) :
    (s.quarantine r).rstate r = .quarantined := State.quarantineWith_rstate h _

/-- An instance without a spare leaves service at its fault (R432). -/
theorem State.unitFault_rstate (s : State) {r : BitVec 32} (hr : outputLane r = false) :
    (s.unitFault r).rstate r = .quarantined ∨ (s.unitFault r).rstate r = .failed := by
  by_cases hf : s.rstate r = .failed
  · right
    unfold State.unitFault
    dsimp only
    rw [if_pos hf]
    exact hf
  · unfold State.unitFault
    dsimp only
    rw [if_neg hf]
    generalize hu : State.onRepairRec s r (fun x => { x with st := .failed, faultAt := some s.now, selfTest := false }) = u
    have h1 : u.rstate r = .failed := by
      rw [← hu]
      exact State.rstate_record s r _ _ (fun _ => rfl) (fun _ => rfl) hr
    generalize hv : State.fault (State.onRepairRec s r fun x =>
      { x with st := .quarantined, faultAt := some s.now, selfTest := true }) none _ = v
    have h2 : v.rstate r = .quarantined := by
      rw [← hv, State.rstate_of_repair (State.fault_repair ..) (State.fault_link ..)]
      exact State.rstate_record s r _ _ (fun _ => rfl) (fun _ => rfl) hr
    have h3 : ∀ b : Bool, (if b = true then u else v).rstate r = .quarantined ∨ (if b = true then u else v).rstate r =
        .failed := by
      intro b
      cases b
      · exact Or.inl h2
      · exact Or.inr h1
    exact h3 _

theorem State.stripe_id {s : State} {id : StripeId} {x : Stripe} (h : s.stripe? id = some x) : x.id = id := by
  have := List.find?_some h
  simpa using this

/-- A stripe after an update of it, where only that update reached the jobs. -/
theorem State.stripe_after {s t : State} {id : StripeId} {x : Stripe} {f : Stripe → Stripe} (h : s.stripe? id = some x)
    (hf : ∀ x, (f x).id = x.id) (ht : t.jobs = (s.onStripe id f).jobs) : t.stripe? id = some (f x) := by
  rw [State.stripe_of_jobs ht]
  exact State.stripe_onStripe_self h hf

theorem State.seg_of_stripe {s : State} {id : StripeId} {k : Nat} {x : Stripe} {g : Seg} (h : s.stripe? id = some x)
    (hg : x.seg? k = some g) : s.seg? id k = some g := by
  unfold State.seg?
  rw [h]
  exact hg

theorem State.onPanel_seg {s : State} {id : StripeId} {k p : Nat} {f : Panel → Panel} {g : Seg}
    (h : s.seg? id k = some g) :
    ((s.onPanel id k p f).seg? id k) = some { g with panels := g.panels.modify p f } := State.seg_onSeg h

@[simp] theorem State.quarantine_jobs (s : State) (r : BitVec 32) : (s.quarantine r).jobs = s.jobs :=
  ((State.quarantine_fr s r).1 .jobs).resolve_left (by decide)

@[simp] theorem State.quarantine_render (s : State) (r : BitVec 32) : (s.quarantine r).render = s.render :=
  ((State.quarantine_fr s r).1 .render).resolve_left (by decide)

@[simp] theorem State.unitFault_jobs (s : State) (r : BitVec 32) : (s.unitFault r).jobs = s.jobs :=
  ((State.unitFault_fr s r).1 .jobs).resolve_left (by decide)

@[simp] theorem State.unitFault_render (s : State) (r : BitVec 32) : (s.unitFault r).render = s.render :=
  ((State.unitFault_fr s r).1 .render).resolve_left (by decide)

@[simp] theorem State.write_jobs (s : State) (sp : BitVec 4) (a : Nat) (bs : List Byte) :
    (s.write sp a bs).jobs = s.jobs := ((State.write_fr s sp a bs).1 .jobs).resolve_left (by decide)

@[simp] theorem State.write_render (s : State) (sp : BitVec 4) (a : Nat) (bs : List Byte) :
    (s.write sp a bs).render = s.render := ((State.write_fr s sp a bs).1 .render).resolve_left (by decide)

@[simp] theorem State.write_land (s : State) (sp : BitVec 4) (a : Nat) (bs : List Byte) :
    (s.write sp a bs).land = s.land := ((State.write_fr s sp a bs).1 .land).resolve_left (by decide)

end Sys2Proof.Machine
end

