-- ==== Sys2Proof/Laws/Lanes.lean ====
section
/-!
SUPPORT. Reading a lane back after the operations on lanes; a run read back after the run is kept.
-/

namespace Sys2Proof.Machine

theorem Link.lane_onLane_self {l : Link} {n : Nat} (h : n < l.lanes.length) (f : Lane → Lane) :
    (l.onLane n f).lane n = f (l.lane n) := by
  simp [Link.lane, Link.onLane, List.getD_eq_getElem?_getD, h]

theorem Link.lane_onLane_ne {l : Link} {n k : Nat} (h : n ≠ k) (f : Lane → Lane) :
    (l.onLane n f).lane k = l.lane k := by
  simp [Link.lane, Link.onLane, List.getD_eq_getElem?_getD, h]

@[simp] theorem Link.onLane_lanes_length (l : Link) (n : Nat) (f : Lane → Lane) :
    (l.onLane n f).lanes.length = l.lanes.length := by
  simp [Link.onLane]

@[simp] theorem Link.onLane_rets (l : Link) (n : Nat) (f : Lane → Lane) : (l.onLane n f).rets = l.rets := rfl

@[simp] theorem State.onLane_link (s : State) (n : Nat) (f : Lane → Lane) :
    (s.onLane n f).link = s.link.onLane n f := rfl

@[simp] theorem State.onLane_out (s : State) (n : Nat) (f : Lane → Lane) : (s.onLane n f).out = s.out := rfl

/-- The run and its stripe, where a run is under way. -/
theorem State.run_of {s : State} {r : Run} {x : Stripe} (h : s.run? = some (r, x)) :
    s.play.run = some r ∧ s.stripe? r.st = some x := by
  unfold State.run? at h
  cases h1 : s.play.run with
  | none => rw [h1] at h; exact absurd h (by simp)
  | some r1 =>
    rw [h1] at h
    dsimp only [Option.bind_some] at h
    cases h2 : s.stripe? r1.st with
    | none => rw [h2] at h; exact absurd h (by simp)
    | some y =>
      rw [h2] at h
      dsimp only [Option.bind_some] at h
      split at h
      · simp at h
        obtain ⟨rfl, rfl⟩ := h
        exact ⟨rfl, h2⟩
      · exact absurd h (by simp)

theorem State.run_same {s t : State} (h1 : t.play.run = s.play.run) (h2 : t.jobs = s.jobs) : t.run? = s.run? := by
  unfold State.run?
  rw [h1]
  cases s.play.run with
  | none => rfl
  | some r =>
    dsimp only [Option.bind_some]
    unfold State.stripe?
    rw [h2]

/-- A run updated in fields other than its stripe. -/
theorem State.run_kept {s t : State} {r q : Run} {x : Stripe} (h : s.run? = some (r, x)) (hq : q.st = r.st)
    (h1 : t.play.run = some q) (h2 : t.jobs = s.jobs) : t.run? = some (q, x) := by
  have h3 := (State.run_of h).2
  have h4 := (State.run_of h).1
  unfold State.run? at h ⊢
  rw [h4] at h
  rw [h1]
  dsimp only [Option.bind_some] at h ⊢
  rw [hq, show t.stripe? r.st = some x by unfold State.stripe? at h3 ⊢; rw [h2]; exact h3]
  rw [h3] at h
  dsimp only [Option.bind_some] at h ⊢
  split at h
  · rw [if_pos ‹_›]
  · exact absurd h (by simp)

end Sys2Proof.Machine
end

