-- ==== Sys2Proof/Laws/Safe.lean ====
section
/-!
SUPPORT. The Referee's state after the safe state was entered.
-/

namespace Sys2Proof.Machine

/-- A pair of gain runs that ends may drop PERMIT_OUT, and changes nothing else of the Referee. -/
theorem State.endPair_ref (s : State) (c : PairEnd) : ∃ b, (s.endPair c).ref = { s.ref with permitOut := b } := by
  have hc : ∀ u : State, u.plateCommit.ref = u.ref := fun u => ((u.plateCommit_fr).1 .ref).resolve_left (by decide)
  unfold State.endPair
  split
  · exact ⟨_, rfl⟩
  · dsimp only
    unfold State.closePair State.permitCheck
    simp only [State.respond_ref, State.unwait_ref]
    have : ∀ (v : State), ∃ b, (if (v.ref.permitOut && !v.permitHolds) = true then
        v.onRef fun r => { r with permitOut := false } else v).ref = { v.ref with permitOut := b } := by
      intro v
      split <;> exact ⟨_, rfl⟩
    refine (this _).imp fun b h => h.trans ?_
    rw [hc]
    simp only [State.onMeas_ref]
    split <;> split <;> simp

theorem State.endPair_safe (s : State) (c : PairEnd) : (s.endPair c).ref.safe = s.ref.safe := by
  obtain ⟨b, h⟩ := s.endPair_ref c
  rw [h]

/-- The Referee after an entry of the safe state that was not held (R439). -/
theorem State.safeEnter_ref {s : State} (h : s.ref.safe = false) (c : BitVec 8) :
    ∃ b, (s.safeEnter c).ref = { s.ref with
      safe := true, cause := c, latchedC := if c = 3 || c = 6 then some c else s.ref.latchedC, safeAt := s.now
      permitOut := b, activeSince := none, replayed := false, alert := true } := by
  have hc : ∀ u : State, u.plateCommit.ref = u.ref := fun u => ((u.plateCommit_fr).1 .ref).resolve_left (by decide)
  have hst : ∀ (u : State) r e b, (u.stopCause r e b).ref = u.ref :=
    fun u r e b => ((u.stopCause_fr r e b).1 .ref).resolve_left (by decide)
  unfold State.safeEnter
  dsimp only
  generalize (if (c = 3 || c = 6) = true then some c else s.ref.latchedC) = l
  rw [if_neg (by rw [h]; decide)]
  unfold State.msix17
  simp only [State.msix_ref, State.logEntry_ref, State.onStage_ref]
  rw [hc]
  refine (State.endPair_ref _ _).imp fun b e => e.trans ?_
  split
  · rw [hst]
    rfl
  · rw [((State.dropReentry_fr _).1 .ref).resolve_left (by decide)]
    rfl

/-- A held safe state keeps its cause; only the latched cause may be new. -/
theorem State.safeEnter_held {s : State} (h : s.ref.safe = true) (c : BitVec 8) :
    s.safeEnter c = s.onRef fun r => { r with latchedC := if c = 3 || c = 6 then some c else s.ref.latchedC } := by
  unfold State.safeEnter
  dsimp only
  rw [if_pos h]

/-- Entering the safe state leaves the machine in it, whatever it was in before (R439). -/
theorem State.safeEnter_safe (s : State) (c : BitVec 8) : (s.safeEnter c).ref.safe = true := by
  cases h : s.ref.safe
  · obtain ⟨b, e⟩ := State.safeEnter_ref h c
    rw [e]
  · rw [State.safeEnter_held h]
    exact h

/-- A sound state has PERMIT_OUT dropped after the entry. -/
theorem State.safeEnter_permit {s : State} (h : s.safePermit) (c : BitVec 8) : (s.safeEnter c).ref.permitOut = false :=
  (State.safeEnter_fr s c).2.2.2 h (State.safeEnter_safe s c)

/-- Islands that lose power leave the fault log as it is (Table 19-5). -/
theorem State.powerDown_log (s : State) (unclean : Bool) : (s.powerDown unclean).log = s.log := rfl

/-- A clean stop is flushed and marked (R448). -/
theorem State.cleanStop_log (s : State) :
    s.cleanStop.log = { ((s.onLog (·.flush)).logEntry (logOnly 1 0 0 0)).log.flush with clean := true } := rfl

theorem FaultLog.flush_buffer (l : FaultLog) : l.flush.buffer = [] := by
  unfold FaultLog.flush
  split
  · simp_all
  · rfl

end Sys2Proof.Machine
end

