-- ==== Sys2Proof/Machine/Package.lean ====
section
/-!
DEFINITION. The package: where the lands and the connector sites of every signal stand (R468 to R471).
-/

namespace Sys2Proof.Machine

/-- The groups of Table 20-2. -/
inductive LandGroup where
  | unpopulated | vin | hostA | net | hostB | encoder | analog | single | reserved | gnd
  deriving DecidableEq, Repr

/-- The group of the land at array position (x, y) (R468). -/
def landGroup (x y : Nat) : LandGroup :=
  let low (a : Nat) : Bool := decide (a < 4)
  let high (a : Nat) : Bool := decide (68 ≤ a)
  let within (a lo hi : Nat) : Bool := decide (lo ≤ a ∧ a ≤ hi)
  if (low x || high x) && (low y || high y) then .unpopulated
  else if within x 28 43 && within y 28 33 then .vin
  else if within x 4 51 && low y then .hostA
  else if within x 52 67 && low y then .net
  else if within x 20 67 && high y then .hostB
  else if low x && within y 4 63 then .encoder
  else if high x && within y 4 27 then .analog
  else if high x && within y 28 55 then .single
  else if (low x && within y 64 67) || (within x 4 19 && high y) then .reserved
  else .gnd

/-- The differential pairs of regions D1 to D4 (Table 20-2). -/
inductive PairSig where
  | pcieTx (m k : Nat) | pcieRx (m k : Nat) | netTx (m : Nat) | netRx (m : Nat) | refclk
  | posClk (n : Nat) | posDat (n i : Nat) | paceTx | paceRx
  deriving DecidableEq, Repr

/-- The _P, _N and GND lands of a pair (R469). -/
def PairSig.lands : PairSig → List (Nat × Nat)
  | .pcieTx m k => (List.range 3).map fun i => if m = 0 then (4 + 3 * k + i, 0) else (20 + 3 * k + i, 71)
  | .pcieRx m k => (List.range 3).map fun i => if m = 0 then (4 + 3 * k + i, 2) else (20 + 3 * k + i, 69)
  | .netTx m => (List.range 3).map fun i => (52 + 3 * m + i, 0)
  | .refclk => (List.range 3).map fun i => (58 + i, 0)
  | .netRx m => (List.range 3).map fun i => (52 + 3 * m + i, 2)
  | .posClk n => (List.range 3).map fun i => (0, 4 + 9 * n + i)
  | .posDat n i => (List.range 3).map fun k => (0, 4 + 3 * (3 * n + 1 + i) + k)
  | .paceTx => (List.range 3).map fun i => (0, 58 + i)
  | .paceRx => (List.range 3).map fun i => (0, 61 + i)

/-- The single-ended signals of region S1. -/
inductive SingleSig where
  | posRef (n : Nat) | posLimn (n : Nat) | posHome (n : Nat) | posLimp (n : Nat)
  | emuA (k : Nat) | emuB (k : Nat) | emuZ (k : Nat)
  | camPclk (n : Nat) | camD (n b : Nat) | camLv (n : Nat) | camFv (n : Nat) | camMclk (n : Nat) | camScl (n : Nat)
  | camSda (n : Nat) | holdN | permitIn | permitOut | smbclk | smbdat | smbalertN | smbaddr (i : Nat)
  | tck | tms | tdi | tdo | trstN | resetN | perstN (m : Nat)
  deriving DecidableEq, Repr

/-- The index of Table 20-3. -/
def SingleSig.index : SingleSig → Nat
  | .posRef n => 4 * n
  | .posLimn n => 4 * n + 1
  | .posHome n => 4 * n + 2
  | .posLimp n => 4 * n + 3
  | .emuA k => 24 + 3 * k
  | .emuB k => 25 + 3 * k
  | .emuZ k => 26 + 3 * k
  | .camPclk n => 30 + 22 * n
  | .camD n b => 31 + 22 * n + b
  | .camLv n => 47 + 22 * n
  | .camFv n => 48 + 22 * n
  | .camMclk n => 49 + 22 * n
  | .camScl n => 50 + 22 * n
  | .camSda n => 51 + 22 * n
  | .holdN => 96
  | .permitIn => 97
  | .permitOut => 98
  | .smbclk => 99
  | .smbdat => 100
  | .smbalertN => 101
  | .smbaddr i => 102 + i
  | .tck => 104
  | .tms => 105
  | .tdi => 106
  | .tdo => 107
  | .trstN => 108
  | .resetN => 109
  | .perstN m => 110 + m

/-- The land of a single-ended signal (R470). -/
def SingleSig.land (g : SingleSig) : Nat × Nat := (68 + g.index % 4, 28 + g.index / 4)

/-- The lands of BC[i]: _P, _N, GUARD; and of TS[i]: EXCP, SNSP, SNSN, EXCN (Table 20-2). -/
def bcLands (i : Nat) : List (Nat × Nat) := (List.range 3).map fun k => (71, 4 + 3 * i + k)
def tsLands (i : Nat) : List (Nat × Nat) := (List.range 4).map fun k => (69, 4 + 4 * i + k)

/-- What a site of HS-A (`b` false) or HS-B carries: an output lane, or a return lane (Table 20-4). -/
inductive Site where
  | out (lane : Nat)
  | ret (lane : Nat)
  deriving DecidableEq, Repr

def siteOf (b : Bool) (k : Nat) : Site :=
  if k < 34 then .out (if b then 34 + k else k) else .ret (if b then k - 32 else k - 34)

/-- Row and position of a site (R471). -/
def siteAt (k : Nat) : Nat × Nat := (k / 18, k % 18)

end Sys2Proof.Machine
end

