-- ==== Sys2Proof/WellFormed.lean ====
section
/-!
DEFINITION. The commands whose operands lie in the ranges the manual gives them: unit, lane, channel and port numbers
that exist, list lengths of the record tables, and the fields that check 7 of Table 17-4 judges.
-/

namespace Sys2Proof

/-- LEASE: 0, or 10 to 60,000 ms (Table 17-8). -/
def leaseWf (l : BitVec 32) : Bool := l == 0 || decide (10 ≤ l.toNat ∧ l.toNat ≤ 60000)

/-- An instance of its kind exists, and every field is in its range. -/
def Instr.wf : Instr → Bool
  | .sysIdent _ => true
  | .sysClaim _ lease => leaseWf lease
  | .sysRelease _ => true
  | .sysTakeover _ _ lease => leaseWf lease
  | .sysEventq _ _ _ log2n => decide (8 ≤ log2n.toNat ∧ log2n.toNat ≤ 16)
  | .sysRollcall _ _ => true
  | .sysReset _ scope _ => scope != 3
  | .sysFwStage _ _ => true
  | .sysFwSwitch _ => true
  | .sysFaultlogRead _ _ _ _ => true
  | .jobOpen _ _ target _ => target != 3
  | .jobFeed _ _ _ => true
  | .jobQuery _ _ => true
  | .jobAbort _ _ _ => true
  | .jobClose _ _ => true
  | .jobLedgerRead _ _ _ _ _ => true
  | .stripeStatus _ _ _ => true
  | .stripeArm _ _ => true
  | .stripeDisarm _ _ => true
  | .stripeGo _ _ _ _ _ _ _ _ => true
  | .stripeStop _ _ _ => true
  | .stripeResume _ _ => true
  | .stripeRelease _ _ => true
  | .beamGainLoad _ _ => true
  | .beamDeadSet _ beams => decide (1 ≤ beams.length ∧ beams.length ≤ 504)
  | .beamDeadClear _ beams => (beams.all fun (l : List (BitVec 32)) => decide (1 ≤ l.length ∧ l.length ≤ 504))
  | .beamStuckClear _ _ => true
  | .beamHistoryRead _ _ _ => true
  | .beamHistoryPolicy _ _ => true
  | .beamFitSeal _ _ => true
  | .beamStatus _ => true
  | .stageConfig _ ports _ => decide (ports.length = 6)
  | .stageMarks _ port marks => decide (port.toNat < 6) && decide (marks.length ≤ 16)
  | .stageStatus _ => true
  | .stageFaultClear _ => true
  | .stageSwitchTest _ _ => true
  | .stagePacePolicy _ _ => true
  | .stageEmu _ _ _ => true
  | .camConfig _ cam _ => cam != 3
  | .camSettings _ cam slot => cam != 3 && decide (1 ≤ slot.entries.length ∧ slot.entries.length ≤ 256)
  | .camI2cXfer _ cam wdata rlen => cam != 3 && decide (wdata.length ≤ 64) && decide (rlen.toNat ≤ 64)
  | .camStart _ cam _ => cam != 3
  | .camStop _ cam _ => cam != 3
  | .camDefects _ cam _ => cam != 3
  | .camShading _ cam _ => cam != 3
  | .camTemplate _ cam _ _ => cam != 3
  | .camSpotgrid _ cam _ => cam != 3
  | .camRing _ cam _ => cam != 3
  | .camStatus _ cam => cam != 3
  | .calAcquire _ _ => true
  | .calTsLimits _ limits => decide (limits.length = 4)
  | .calTrimRun _ item => (item == 0xFF || decide (item.toNat < 71))
  | .calGainRun _ _ => true
  | .calGainAbort _ _ => true
  | .calPolicy _ _ => true
  | .calStatus _ => true
  | .linkThermal _ _ _ _ _ => true
  | .linkStatus _ => true
  | .linkTest _ lane => decide (lane.toNat < 68)
  | .memStatus _ => true
  | .memLandingRead _ _ _ => true
  | .dmaConfig _ _ _ _ _ _ => true
  | .dmaStart _ _ _ => true
  | .dmaStop _ _ _ => true
  | .dmaRingAdvance _ _ _ => true
  | .dmaStatus _ _ => true
  | .cvuCompute _ _ _ _ => true
  | .cvuSave _ _ => true
  | .cvuRestore _ _ _ _ => true
  | .timeDomain _ _ _ => true
  | .timeSelect _ _ _ _ _ => true
  | .timeStatus _ => true
  | .plateProvision _ _ _ => true
  | .plateToken _ _ => true
  | .plateStatus _ => true
  | .repairQuery _ _ _ => true
  | .repairPolicy _ _ => true
  | .repairSpare _ _ => true
  | .repairReturn _ _ => true
  | .repairDisable _ _ _ => true
  | .codecEncode _ _ => true
  | .codecDecode _ _ => true
  | .codecDisable _ lane _ _ => decide (lane.toNat < 18)
  | .traceStart _ _ _ => true
  | .traceStop _ _ => true
  | .traceStatus _ => true
  | .status _ => true
  | .snapshot _ _ => true
  | .resetMarshal _ _ => true
  | .resetAll _ _ => true
  | .mbDoorbell _ _ _ _ => true
  | .evqRpWrite _ _ => true
  | .tsnapCtrRead _ _ => true
  | .supvStatusRead _ => true
  | .memThaw _ _ => true
  | .dmaCmdStart chan => decide (chan.toNat < 48)
  | .dmaCmdResume chan => decide (chan.toNat < 48)
  | .dmaCmdDrain chan => decide (chan.toNat < 48)
  | .dmaCmdAbort chan => decide (chan.toNat < 48)
  | .cvuDataFeed _ _ => true
  | .cvuCmdInit _ _ => true
  | .registerWrite _ => true
  | .parseSlot => true
  | .canopyPassStart _ => true
  | .canopyPassComplete _ => true
  | .canopyFault => true
  | .checkPassStart _ => true
  | .checkPassComplete _ => true
  | .landingPassStart _ => true
  | .tileDispatch engine => decide (engine.toNat < 34)
  | .tileComplete engine _ => decide (engine.toNat < 34)
  | .tileWatchdogExpiry engine => decide (engine.toNat < 34)
  | .engineParityError engine => decide (engine.toNat < 34)
  | .graderMismatch _ _ _ => true
  | .panelEncodeStart lane _ _ _ _ _ _ => decide (lane.toNat < 18)
  | .panelEncodeComplete lane => decide (lane.toNat < 18)
  | .encodeMismatch lane => decide (lane.toNat < 18)
  | .decodeLaneFault lane => decide (lane.toNat < 18)
  | .decodeBufferResume lane _ _ _ => decide (lane.toNat < 18)
  | .serviceJobStart _ lane => decide (lane.toNat < 18)
  | .serviceJobComplete _ _ => true
  | .segmentLanded _ _ => true
  | .sealReadbackComplete _ _ _ _ => true
  | .signatureTableParity _ _ _ _ => true
  | .preparationStart _ _ slot => slot != 3
  | .segmentReady _ _ _ => true
  | .arbitrationComplete _ _ _ _ _ => true
  | .copyRewriteComplete _ _ _ _ _ _ => true
  | .extentPatternTest _ _ _ => true
  | .scrubSegment _ _ _ _ => true
  | .playBufferEcc _ _ _ => true
  | .rerenderStart _ _ => true
  | .rerenderComplete _ _ _ => true
  | .refresh _ => true
  | .tempBandSample => true
  | .memUncorrectable _ _ _ _ _ => true
  | .memAutoThaw _ => true
  | .channelRetireTrigger _ _ _ => true
  | .unitMigrationComplete _ _ _ => true
  | .channelRetired _ _ => true
  | .flashPlace => true
  | .fireMarker => true
  | .voidMarker => true
  | .paceFrameSend => true
  | .paceReply _ _ => true
  | .mcAbsentTimeout => true
  | .encoderTick => true
  | .positionFrame port _ => decide (port.toNat < 6)
  | .axisFusion _ => true
  | .encoderIdentityRead port _ => decide (port.toNat < 6)
  | .referenceMarkEdge port _ => decide (port.toNat < 6)
  | .markResolve port => decide (port.toNat < 6)
  | .switchEdge port _ _ => decide (port.toNat < 6)
  | .emuStep _ => true
  | .permitInChange _ => true
  | .ackRecord _ _ => true
  | .statusTimeout lane => decide (lane.toNat < 68)
  | .tempRecord _ _ => true
  | .thermalStaleTimeout _ => true
  | .stuckRecord _ _ => true
  | .mgmtRecord _ _ => true
  | .mgmtRetryTimeout lane => decide (lane.toNat < 68)
  | .linkstatRecord _ _ => true
  | .laneDegradedExit lane => decide (lane.toNat < 68)
  | .returnLaneLost _ => true
  | .laneDown lane => decide (lane.toNat < 68)
  | .laneBringupRetry lane => decide (lane.toNat < 68)
  | .laneTestComplete lane _ _ => decide (lane.toNat < 68)
  | .mapsetEchoTimeout => true
  | .syncBlockSend => true
  | .blankFrame => true
  | .plateAttachTimeout => true
  | .historyIdleDecay => true
  | .historyZero => true
  | .historyParityError _ => true
  | .enforcedIdleEnd => true
  | .gainParityError _ => true
  | .windowEccUncorrectable bank _ => decide (bank.toNat < 2112)
  | .datapathMismatch _ => true
  | .pclkCheck cam _ => cam != 3
  | .camFrameStart cam => cam != 3
  | .camFrameEnd cam => cam != 3
  | .camLineStart cam => cam != 3
  | .camLineReceived cam _ => cam != 3
  | .pipelineLineComplete => true
  | .locatorComplete => true
  | .camFramePublish cam => cam != 3
  | .i2cTransferComplete cam _ _ => cam != 3
  | .camHealthPoll cam _ => cam != 3
  | .camParityError cam unit => cam != 3 && unit != 3
  | .bcSample codes => decide (codes.length = 8)
  | .acquisitionComplete _ _ => true
  | .rtdConversion _ _ => true
  | .monitorRead values => decide (values.length = 20)
  | .autoTrimStart => true
  | .trimRunComplete item _ _ _ _ _ _ => decide (item.toNat < 71)
  | .gainRunStepComplete => true
  | .gainPairEnd => true
  | .descriptorFetch chan _ => decide (chan.toNat < 48)
  | .fetchTimeout chan => decide (chan.toNat < 48)
  | .burstIssue => true
  | .burstComplete chan _ => decide (chan.toNat < 48)
  | .ptpMessageReceive _ _ => true
  | .delayReqSend _ => true
  | .announceTimeout _ => true
  | .domainRevert => true
  | .hostLinkDown _ => true
  | .hostLinkUp _ => true
  | .hostLeaseExpiry _ => true
  | .waitingCommandComplete _ => true
  | .marshalHeartbeat _ => true
  | .heartbeatTimeout _ _ => true
  | .failoverReplayComplete _ => true
  | .marshalBootComplete _ _ => true
  | .safeStateExit => true
  | .faultLogFlush => true
  | .fwSwitchRoleSwap => true
  | .fwSwitchOldReboot => true
  | .selfTestAtIdle _ _ => true
  | .vinQualified => true
  | .startInstant _ => true
  | .railEnableTimeout _ => true
  | .railRetry => true
  | .supplyOutOfRange _ => true
  | .supplyLossWarning => true
  | .refLost => true
  | .pllUnlock _ => true
  | .pllRelockAttempt _ _ => true
  | .resetN => true
  | .perstN _ => true
  | .thermalShutdown => true
  | .smbusAlertResponse => true
  | .jtagInstruction _ => true
  | .netPortDown _ => true
  | .refRestored => true
  | .aonRailOff => true
  | .counterFault _ => true
  | .refereeSelfCheck => true
  | .agemaxExpiry item => decide (item.toNat < 71)
  | .goWaitmaxExpiry _ => true
  | .returnBlockLock _ => true
  | .trainPresetExpiry lane _ => decide (lane.toNat < 68)

end Sys2Proof
end

