-- ==== Sys2Proof/Tests/Slice0.lean ====
section
/-!
SUPPORT. Tests. A smoke test of the well-formedness checks; for every statement with hypotheses a named witness of
them, clause by clause; and small tests of one step or one operation, each expected value worked out from the
manual. Nothing here is a statement for the provers.
-/

namespace Sys2Proof.Tests

open Sys2Proof Sys2Proof.Machine

/- One theorem at a time: the kernel evaluates most of them, each on a deep stack. -/
set_option Elab.async false

/-! ### Small states -/

def src0 : Src := ⟨.hostA, 3⟩
def sid : StripeId := ⟨1, 2⟩
def buf0 : BufRef := ⟨0x1000, 1, 0x10000, 0⟩

/-- READY, in operation: counter running, both Marshals healthy, permit given, one owned mailbox. -/
def ready : State := { State.reset with
  time := { TimeBase.reset with ctr := 10000000000, running := true }
  power := { Power.reset with qualified := true, railsOn := true, ready := true }
  ref := { Referee.reset with
    permitIn := true
    ma := ⟨true, false, false, 10000000000, []⟩
    mbS := ⟨true, false, false, 10000000000, []⟩ }
  host := { HostIf.reset with mbs := HostIf.reset.mbs.set 3 { Mailbox.reset with owner := some .hostA } } }

def hdr0 : JobHeader := ⟨1, 0, 0, 1, false, false, false, false, 1, 64, [], []⟩

def panel0 : Panel := ⟨.idle, 0, [], [], none, none, 0, 0, false, false, none, none⟩

def seg0 : Seg where
  omega := 0
  pmax := 0
  prow := 0
  pcol := 0
  margin := 0
  unexp := false
  lstate := .landing
  outcome := .notStarted
  admittedOnce := false
  sdef := true
  panels := List.replicate 16 panel0
  firstBad := none
  checkMism := []
  feedWait := false
  old := none
  recA := 0
  recB := 0
  tland := 0
  tadm := 0
  ebytes := 0
  repairs := 0
  fit := none
  deficits := 0
  repaired := 0
  irrepPx := []
  spos := 0
  lastScrub := 0
  unverified := false

def latched0 : Latched := ⟨1, 0, 100000, [], [], 0, 40000, 0, factoryMap, 2, 0, List.range 16⟩

/-- A stripe of one segment, checked, of a beams target. -/
def stripe0 : Stripe where
  id := sid
  st := .checked
  nseg := 1
  pass := 0
  rev := false
  x0 := 0
  y0 := 0
  hdr := hdr0
  target := 0
  dual := false
  dose := List.replicate 16 0
  lrc := none
  fog := none
  dist := none
  cells := []
  items := []
  bodyDone := true
  nrec := 0
  bytes := 0
  rasters := []
  witnesses := []
  canopy := .complete
  canopyFails := 0
  canopyAt := 0
  canopyTime := 0
  check := .complete
  checkDead := []
  tiles := []
  capMap := [List.replicate 512 0]
  capPages := [0]
  fmap := none
  remap := false
  landing := .waiting
  landNext := 0
  cols := []
  segs := [seg0]
  started := false
  kStart := 0
  boundary := none
  runs := 0
  carried := false
  f0 := none
  fh := none
  fgen := 0
  latched := some latched0
  haltRun := none

def job0 : Job := ⟨1, .hostA, 0, false, .streaming, some hdr0, [], none, none, none, [], 0, none, 0, 1, 0, none⟩

def run0 : Run where
  st := sid
  qs := 0
  f0 := 0
  yref := 0
  sense := 1
  xcref := 0
  crossmax := 0
  tlb := 0
  goAt := 0
  permitAt := 0
  next := 5
  placed := false
  mPrev := none
  fix := none
  flash := FlashAcc.none
  boundary := none
  causes := []
  halt := none
  reentryOk := false
  awaiting := []
  taken := []
  deadGroups := []
  storeGroup := none
  stuckOff := []
  recorded := 0
  laneBlank := []
  runNo := 1

/-- `ready` with one stripe and its job. -/
def held (x : Stripe) : State := { ready with jobs := { Jobs.reset with jobs := [job0], stripes := [x] } }

/-- `ready` with a run of the stripe. -/
def running (x : Stripe) (r : Run) : State :=
  { held { x with st := .running } with play := { Play.reset with run := some r } }

/-- Repair records added. -/
def withRepair (s : State) (l : List (BitVec 32 × RState)) : State :=
  { s with repair := ⟨l.map fun p => ⟨p.1, p.2, none, none, true, false, false⟩, false⟩ }

def onMbs (s : State) (f : List Mailbox → List Mailbox) : State :=
  { s with host := { s.host with mbs := f s.host.mbs } }

def waitingFor (s : State) (c : Instr) : State :=
  { s with host := { s.host with waiting := [⟨src0, c, 0⟩] } }

/-! ### Well-formedness: for each check a term that it refuses, beside one at the boundary that it takes -/

def rec6 : List PortRec := (List.range 6).map fun _ => PortRec.factory 0
def tracker0 : TrackerRec := ⟨0, AxisRec.reset, AxisRec.reset⟩

theorem wf_leases : (Instr.sysClaim src0 10).wf = true ∧ (Instr.sysClaim src0 9).wf = false ∧
    (Instr.sysTakeover src0 1 60000).wf = true ∧ (Instr.sysTakeover src0 1 60001).wf = false := by decide

theorem wf_event_queue : (Instr.sysEventq src0 0 1 8).wf = true ∧ (Instr.sysEventq src0 0 1 7).wf = false ∧
    (Instr.sysEventq src0 0 1 16).wf = true ∧ (Instr.sysEventq src0 0 1 17).wf = false := by decide

theorem wf_scope_and_target : (Instr.sysReset src0 2 0).wf = true ∧ (Instr.sysReset src0 3 0).wf = false ∧
    (Instr.jobOpen src0 1 2 false).wf = true ∧ (Instr.jobOpen src0 1 3 false).wf = false := by decide

theorem wf_beam_lists : (Instr.beamDeadSet src0 [0]).wf = true ∧ (Instr.beamDeadSet src0 []).wf = false ∧
    (Instr.beamDeadClear src0 none).wf = true ∧ (Instr.beamDeadClear src0 (some [])).wf = false := by decide

theorem wf_dead_set_505 : (Instr.beamDeadSet src0 (List.replicate 504 0)).wf = true ∧
    (Instr.beamDeadSet src0 (List.replicate 505 0)).wf = false := by decide +kernel

theorem wf_stage : (Instr.stageConfig src0 rec6 tracker0).wf = true ∧
    (Instr.stageConfig src0 (rec6.drop 1) tracker0).wf = false ∧
    (Instr.stageMarks src0 5 (List.replicate 16 ⟨0, 0, 0, true⟩)).wf = true ∧ (Instr.stageMarks src0 6 []).wf = false ∧
    (Instr.stageMarks src0 0 (List.replicate 17 ⟨0, 0, 0, true⟩)).wf = false := by decide

theorem wf_position_ports : (Instr.positionFrame 5 none).wf = true ∧ (Instr.positionFrame 6 none).wf = false ∧
    (Instr.encoderIdentityRead 6 none).wf = false ∧ (Instr.referenceMarkEdge 7 true).wf = false ∧
    (Instr.markResolve 6).wf = false ∧ (Instr.switchEdge 6 .limp true).wf = false := by decide

theorem wf_camera_numbers : (Instr.camStart src0 2 0).wf = true ∧ (Instr.camStart src0 3 0).wf = false ∧
    (Instr.camStop src0 3 true).wf = false ∧ (Instr.camStatus src0 3).wf = false ∧
    (Instr.camRing src0 3 buf0).wf = false ∧ (Instr.camDefects src0 3 buf0).wf = false ∧
    (Instr.camShading src0 3 buf0).wf = false ∧ (Instr.camFrameStart 3).wf = false ∧ (Instr.camFrameEnd 3).wf = false ∧
    (Instr.camLineStart 3).wf = false ∧ (Instr.camFramePublish 3).wf = false ∧ (Instr.pclkCheck 3 0).wf = false ∧
    (Instr.camHealthPoll 3 true).wf = false ∧ (Instr.camParityError 2 2).wf = true ∧
    (Instr.camParityError 2 3).wf = false := by decide

theorem wf_camera_lists : (Instr.camSettings src0 0 ⟨[(0, 0)]⟩).wf = true ∧ (Instr.camSettings src0 0 ⟨[]⟩).wf = false ∧
    (Instr.camI2cXfer src0 0 (List.replicate 64 0) 64).wf = true ∧
    (Instr.camI2cXfer src0 0 (List.replicate 65 0) 0).wf = false ∧ (Instr.camI2cXfer src0 0 [] 65).wf = false := by
  decide

theorem wf_settings_257 : (Instr.camSettings src0 0 ⟨List.replicate 256 (0, 0)⟩).wf = true ∧
    (Instr.camSettings src0 0 ⟨List.replicate 257 (0, 0)⟩).wf = false := by decide +kernel

theorem wf_calibration : (Instr.calTsLimits src0 (List.replicate 4 (0, 0))).wf = true ∧
    (Instr.calTsLimits src0 (List.replicate 3 (0, 0))).wf = false ∧ (Instr.calTrimRun src0 70).wf = true ∧
    (Instr.calTrimRun src0 0xFF).wf = true ∧ (Instr.calTrimRun src0 71).wf = false ∧ (Instr.agemaxExpiry 71).wf = false ∧
    (Instr.trimRunComplete 71 true 0 0 0 0 true).wf = false := by decide

theorem wf_samples : (Instr.bcSample (List.replicate 8 0)).wf = true ∧ (Instr.bcSample (List.replicate 7 0)).wf = false ∧
    (Instr.monitorRead (List.replicate 20 0)).wf = true ∧ (Instr.monitorRead (List.replicate 21 0)).wf = false := by
  decide

theorem wf_lanes : (Instr.linkTest src0 67).wf = true ∧ (Instr.linkTest src0 68).wf = false ∧
    (Instr.laneDown 68).wf = false ∧ (Instr.laneBringupRetry 68).wf = false ∧ (Instr.laneTestComplete 68 0 0).wf = false ∧
    (Instr.laneDegradedExit 68).wf = false ∧ (Instr.statusTimeout 68).wf = false ∧
    (Instr.mgmtRetryTimeout 68).wf = false ∧ (Instr.trainPresetExpiry 68 0).wf = false := by decide

theorem wf_codec_lanes : (Instr.codecDisable src0 17 true false).wf = true ∧
    (Instr.codecDisable src0 18 true false).wf = false ∧ (Instr.panelEncodeStart 18 sid 0 0 [] [] []).wf = false ∧
    (Instr.panelEncodeComplete 18).wf = false ∧ (Instr.encodeMismatch 18).wf = false ∧
    (Instr.decodeLaneFault 18).wf = false ∧ (Instr.decodeBufferResume 18 0 0 0).wf = false ∧
    (Instr.serviceJobStart 0 18).wf = false := by decide

theorem wf_channels_engines_slots : (Instr.dmaCmdStart 47).wf = true ∧ (Instr.dmaCmdStart 48).wf = false ∧
    (Instr.dmaCmdResume 48).wf = false ∧ (Instr.dmaCmdDrain 48).wf = false ∧ (Instr.dmaCmdAbort 48).wf = false ∧
    (Instr.descriptorFetch 48 false).wf = false ∧ (Instr.fetchTimeout 48).wf = false ∧
    (Instr.burstComplete 48 .ok).wf = false ∧ (Instr.tileDispatch 33).wf = true ∧ (Instr.tileDispatch 34).wf = false ∧
    (Instr.tileComplete 34 none).wf = false ∧ (Instr.tileWatchdogExpiry 34).wf = false ∧
    (Instr.engineParityError 34).wf = false ∧ (Instr.preparationStart sid 0 2).wf = true ∧
    (Instr.preparationStart sid 0 3).wf = false := by decide

theorem wf_banks : (Instr.windowEccUncorrectable 2111 .corrected).wf = true ∧ (Instr.windowEccUncorrectable 2112 .corrected).wf = false := by decide

/-! ### Witnesses: for each clause of a statement a state and operands that meet its hypotheses together -/

def frozenA : State := { ready with mc := { MemCtl.reset with stA := { StackCtl.reset with frz := 1 } } }

theorem witness_FrontCommandRuns : ∃ (c : Instr) (cs : List Instr) (s : State), s.pending = c :: cs :=
  ⟨.sysIdent src0, [], { ready with pending := [.sysIdent src0] }, rfl⟩

theorem witness_IdleStepCounts : ready.pending = [] ∧ ready.time.running = true ∧ State.reset.pending = [] ∧
    State.reset.time.running = false := ⟨rfl, rfl, rfl, rfl⟩

theorem witness_StepKeepsSound : ∃ t, State.sound { ready with pending := [.sysIdent src0] } ∧
    step { ready with pending := [.sysIdent src0] } = .next t :=
  ⟨_, ⟨⟨⟨.nil, nofun⟩, ⟨.nil, nofun⟩, ⟨.nil, nofun⟩, ⟨.nil, nofun⟩⟩, rfl, fun h => by cases h⟩, rfl⟩

theorem witness_CommandFrame : ∃ t, exec (.sysIdent src0) ready = .next t := ⟨_, rfl⟩

theorem witness_WriteStores : (spLanding.toNat < 4 ∧ ready.mc.pllDown = false ∧
      (ready.mc.stack (stackOf 0)).frozen = false ∧ 0 < ([1, 2] : List Byte).length ∧
      ([1, 2] : List Byte).length - 1 < ([1, 2] : List Byte).length ∧ 0 + ([1, 2] : List Byte).length ≤ 2) ∧
    (spHostB.toNat < 4 ∧ spHostB ≠ spLanding) := by decide

theorem witness_FrozenWriteIsHeld : frozenA.mc.pllDown = false ∧ (frozenA.mc.stack (stackOf 0)).frozen = true := by
  decide

theorem witness_ResponseIsWritten : ready.mbsWf ∧ 2 ^ 32 - 1 < 2 ^ 32 ∧ (2 : BitVec 4) ≠ src0.mb := by
  unfold State.mbsWf; decide

/-- Host port B has departed and owns mailbox 5. -/
def departedB : State :=
  onMbs { ready with host := { ready.host with portB := { PortS.reset with departed := true } } } fun l =>
    l.set 5 { Mailbox.reset with owner := some .hostB }

theorem witness_OwnershipCommands :
    (State.reset.mbsWf ∧ (State.reset.mb src0.mb).owner = none) ∧ ready.mbsWf ∧
    (departedB.mbsWf ∧ ∀ n : BitVec 4, (32 : BitVec 16).getLsbD n.toNat = true →
      ∃ p, (departedB.mb n).owner = some p ∧ (departedB.port p).departed = true) ∧
    (eventqOk 0x1000 1 8 = true ∧ (ready.port src0.port).evq.staged = [] ∧ (ready.port src0.port).evq.lost = 0) := by
  refine ⟨by unfold State.mbsWf; decide, rfl, ⟨rfl, fun n h => ?_⟩, by decide⟩
  have h5 : n = 5 := by revert h; revert n; decide
  exact ⟨.hostB, by rw [h5]; decide⟩

theorem witness_SystemReports : ready.mbsWf ∧ outBuf ⟨0x1000, 1, 0x10000, 0⟩ 65536 = true ∧
    outBuf ⟨0x1000, 1, 128, 0⟩ (64 * (2 : BitVec 32).toNat) = true ∧
    ready.log.lseq - ready.log.buffer.length - ready.log.nv.length ≤ (0 : BitVec 32).toNat := by
  unfold State.mbsWf; decide

/-- The Canopy unit and an engine quarantined, both awaiting the self-test. -/
def ill : State := withRepair ready [(nodeR 1 1 0, .quarantined), (nodeR 1 2 4, .quarantined)]

/-- Slot 1 holds a valid image. -/
def twoImages : State := { ready with fw := ⟨FwSlot.reset true, FwSlot.reset true, false, 0, 0⟩ }

theorem witness_ResetAndFirmwareCommands :
    (ready.active? = none ∧ ready.power.shutdown = false) ∧ ready.mbsWf ∧
    (∃ node r, repairNode node = some r ∧ ill.rstate r = .quarantined ∧ (outputLane r = true → sparedNode r = true) ∧
      sparedNode r = true) ∧
    (∃ node r, repairNode node = some r ∧ ill.rstate r = .quarantined ∧ outputLane r = false ∧ sparedNode r = false) ∧
    (ready.fw.sw = 0 ∧ ready.bufReads buf0 = true) ∧
    (twoImages.mbsWf ∧ (twoImages.fw.slot (!twoImages.fw.run)).valid = true ∧ twoImages.standbyOk = true) := by
  refine ⟨by decide, rfl, ⟨nodeR 1 2 4, nodeR 1 2 4, by decide⟩,
    ⟨nodeR 1 1 0, nodeR 1 1 0, by decide⟩, by decide, rfl, by decide⟩

theorem witness_SupervisorCommands :
    (ready.power.powered = true ∧ ready.power.shutdown = false) ∧ (0x3E0#16).toNat ≤ 992 ∧ 992 < (0x3E1#16).toNat ∧
    ((1 : BitVec 8) = BitVec.ofNat 8 (marshalNum .b) ∧ Marshal.b ≠ ready.ref.active) := by decide

/-! Jobs and stripes. -/

def armedX : Stripe := { stripe0 with st := .armed }
def loopX : Stripe := { stripe0 with st := .armed, target := 2, segs := [{ seg0 with lstate := .admitted }] }

/-- A motion controller on the PACE channel, the axes at rest, the permit given: GO of a beams stripe may run. -/
def goState (x : Stripe) : State := { held x with pacer := { Pacer.reset with mcPresent := true } }

theorem witness_JobCommands :
    (ready.mbsWf ∧ ready.jobs.parser.job = none ∧ ready.job? 1 = none ∧ ready.jobs.jobs.length < 16 ∧
      ((2 : BitVec 2) = 0 → ready.plate.attached.isSome = true ∧ ready.plate.eol = false ∧ ready.plate.refused = false)) ∧
    (let s : State := { ready with plate := { Plate.reset with attached := some 7 } }
     s.plate.attached.isSome = true ∧ s.plate.eol = false ∧ s.plate.refused = false) ∧
    ((held stripe0).mbsWf ∧ (held stripe0).job? 1 = some job0 ∧ job0.owner = src0.port ∧ job0.st = .streaming ∧
      (held stripe0).jobs.parser.feedOk (0 : BitVec 32).toNat = true ∧
      (held stripe0).jobs.parser.feedOk (ringLen - 16) = true) ∧
    (let s : State := { held stripe0 with jobs := { Jobs.reset with jobs := [{ job0 with st := .ended }], stripes := [stripe0] } }
     s.mbsWf ∧ s.job? 1 = some { job0 with st := .ended } ∧
      (s.jobs.stripes.any fun x => x.id.job == 1 && x.st.active) = false) ∧
    ((held stripe0).beginAbort 1 true).abortWaits 1 = false ∧
    ((held stripe0).stripe? sid = some stripe0 ∧ outBuf buf0 0 = true) := by
  unfold State.mbsWf; decide +kernel

theorem witness_StripeCommands :
    ((held armedX).mbsWf ∧ (held armedX).stripe? sid = some armedX ∧ (held armedX).owns src0 sid.job = true ∧
      armedX.st = .armed) ∧
    (let s := held loopX
     let x := loopX
     s.mbsWf ∧ s.stripe? sid = some x ∧ s.owns src0 sid.job = true ∧ x.st = .armed ∧ (1 : BitVec 23) ≠ 0 ∧
      x.tmin ≤ (40000 : BitVec 32).toNat ∧ firstFail (s.goPre x true 0 false) = none ∧ s.goUnmet x = 0 ∧ x.target ≠ 0) ∧
    ((running stripe0 run0).mbsWf ∧ (running stripe0 run0).stripe? sid = some { stripe0 with st := .running } ∧
      (running stripe0 run0).owns src0 sid.job = true ∧
      (running stripe0 run0).run? = some (run0, { stripe0 with st := .running })) ∧
    ((held { stripe0 with st := .stopped }).stripe? sid = some { stripe0 with st := .stopped } ∧
      (held { stripe0 with st := .stopped }).owns src0 sid.job = true) ∧
    (outBuf buf0 0 = true ∧ 16 * stripe0.nseg ≤ buf0.len.toNat) := by
  unfold State.mbsWf; decide +kernel

/-- A head of PTYPE 0x01, every lane and return lane up. -/
def linkUp : Link := { Link.reset with
  head := some [packW [(24, 8, 1)]]
  lanes := Link.reset.lanes.zipIdx.map fun p => { p.1 with st := if p.2 < 64 then .carrier else .spare, ident := some [] }
  rets := List.replicate 4 ⟨true, 8, 0, 0, 0⟩ }

def table0 : GainTable := ⟨0, 1, 0, 40000, []⟩

/-- A checked stripe ready to be armed: a gain table, both axes held, a head, a plate, the job of that plate. -/
def armState (x : Stripe) : State := { held x with
  jobs := { Jobs.reset with jobs := [{ job0 with plate := some 7 }], stripes := [x] }
  beam := { Beam.reset with activeT := some table0, lastGen := 1 }
  link := linkUp
  plate := { Plate.reset with attached := some 7 }
  stage := { Stage.reset with ports := Stage.reset.ports.map fun p => { p with present := true } } }

def loop1 : Stripe := { stripe0 with target := 2, capMap := [[]] }
def beams1 : Stripe := { stripe0 with capMap := [[]] }
/-- Stopped at its only segment, with the placement check. -/
def shadow1 : Stripe := { stripe0 with st := .stopped, target := 1, capMap := [[]], hdr := { hdr0 with place := true } }

/-- The state in which the conditions of the arm of loopback stripe `x` are judged. -/
def armLoop (x : Stripe) : State :=
  let s := armState x
  let m := s.buildMap true s.link.map [] []
  (s.mapEvents src0 m.1 m.2).prepareArm m.1 true

/-- The same for a stripe with a head. -/
def armHead (x : Stripe) : State :=
  let s := armState x
  let m := s.buildMap false s.link.map [] []
  (s.mapEvents src0 m.1 m.2).prepareArm m.1 true

theorem armLoop_table : (armLoop loop1).beam.activeT = some table0 := by decide +kernel
theorem armLoop_dead : (armLoop loop1).deadNow = [] := by decide +kernel
theorem armHead_table : (armHead shadow1).beam.activeT = some table0 := by decide +kernel
theorem armHead_dead : (armHead shadow1).deadNow = [] := by decide +kernel

theorem gainBad_table0 : gainBad ((some table0).getD ⟨0, 0, 0, 0, []⟩) [] 64 = none := rfl

theorem witness_ArmCommands_loopback :
    let s := armState loop1
    let x := loop1
    (s.mbsWf ∧ s.stripe? sid = some x ∧ s.owns src0 sid.job = true ∧ x.st = .checked ∧ s.quiet = true ∧
      s.link.arm = none ∧ x.firstOpen = some 0 ∧ s.beam.table.isSome = true) ∧
    let t := armLoop x
    gainBad (t.beam.activeT.getD ⟨0, 0, 0, 0, []⟩) t.deadNow x.hdr.ghbound = none ∧
    x.capacityBad t.deadNow 0 = [] ∧ x.offsetOk s.beam.fit = true ∧ x.hdr.place = false ∧
    firstFail (t.armRest x) = none := by
  refine ⟨by unfold State.mbsWf; decide +kernel, ?_, ?_, by decide +kernel, by decide, by decide +kernel⟩
  · rw [armLoop_table, armLoop_dead]; exact gainBad_table0
  · rw [armLoop_dead]; decide +kernel

theorem witness_ArmCommands_resume :
    let s := armState shadow1
    let x := shadow1
    (s.mbsWf ∧ s.stripe? sid = some x ∧ s.owns src0 sid.job = true ∧ x.st = .stopped ∧ s.quiet = true ∧
      s.link.arm = none ∧ x.firstOpen = some 0 ∧ s.beam.table.isSome = true ∧ s.link.headPresent = true) ∧
    let t := armHead x
    gainBad (t.beam.activeT.getD ⟨0, 0, 0, 0, []⟩) t.deadNow x.hdr.ghbound = none ∧
    x.capacityBad t.deadNow 0 = [] ∧ x.offsetOk s.beam.fit = true ∧ firstFail (t.armRest x) = none := by
  refine ⟨by unfold State.mbsWf; decide +kernel, ?_, ?_, by decide +kernel, by decide +kernel⟩
  · rw [armHead_table, armHead_dead]; exact gainBad_table0
  · rw [armHead_dead]; decide +kernel

theorem placement1 (dead : List Nat) : shadow1.placementBad dead 0 = [] := by
  have hd : ∀ i, shadow1.capMap.getD i [] = [] := by
    intro i
    match i with
    | 0 => rfl
    | i + 1 => rfl
  unfold Stripe.placementBad
  rw [List.filter_eq_nil_iff]
  intro k _ h
  simp only [hd, ite_self, Bool.and_eq_true, groupFails, List.any_eq_true, decide_eq_true_eq] at h
  obtain ⟨_, p, hp, hl⟩ := h
  have := List.fst_mem_of_mem_zipIdx hp
  obtain ⟨c, _, hc⟩ := List.mem_map.mp this
  rw [← hc] at hl
  simp [maxCols] at hl

theorem witness_ArmCommands_placement : shadow1.hdr.place = true ∧ shadow1.placementBad (armHead shadow1).deadNow 0 = [] :=
  ⟨rfl, placement1 _⟩

/-! Doorbells, clean stops and a provisional item. -/

/-- Mailbox 3 of HOST-A with a header of a command without a body, and its last ALIVE. -/
def mail (h : Word) (alive : Option (BitVec 8)) : State :=
  onMbs ready fun l => l.set 3 { Mailbox.reset with
    owner := some .hostA, lastAlive := alive, cmdArea := listedCells 0 (wordBytes h) }

/-- TIME.STATUS with an ALIVE. -/
def timeStatusHdr (a : Nat) : Word := packW [(0, 16, 0x0C03), (48, 8, a)]

theorem witness_NewRepeatOrGap :
    (∀ h al, (mail h al).mbsWf ∧ (1 : BitVec 64).getLsbD 0 = true ∧ ((mail h al).port .hostA).linkUp = true ∧
      (mail h al).power.ready = true ∧ (mail h al).firmware = true ∧ ((mail h al).mb 3).owner = some .hostA ∧
      ((mail h al).mb 3).busy = false) ∧
    127 < fld 47 32 (((mail (packW [(32, 16, 128)]) none).mb 3).word 0) ∧
    (let h := ((mail (packW [(64, 64, 1)]) none).mb 3).word 0
     fld 47 32 h = 0 ∧ fld 127 64 h ≠ 0) ∧
    (let h := ((mail (timeStatusHdr 255) (some 255)).mb 3).word 0
     fld 47 32 h = 0 ∧ fld 127 64 h = 0 ∧ anyAlive (fld 15 0 h) = false ∧
      some (BitVec.ofNat 8 (fld 55 48 h)) = ((mail (timeStatusHdr 255) (some 255)).mb 3).lastAlive) ∧
    (let h := ((mail (timeStatusHdr 9) (some 5)).mb 3).word 0
     BitVec.ofNat 8 (fld 55 48 h) ≠ (6 : BitVec 8) ∧ some (BitVec.ofNat 8 (fld 55 48 h)) ≠ some (5 : BitVec 8)) ∧
    (let s := mail (packW []) (some 255)
     let h := (s.mb 3).word 0
     let newest := ((s.onMb 3 fun x => { x with busy := true, done := false, header := h }).onPort .hostA fun q =>
       { q with lastBell := s.now, departed := false }).onMb 3 fun x => { x with lastAlive := some 0 }
     BitVec.ofNat 8 (fld 55 48 h) = (255 : BitVec 8) + 1 ∧
       newest.checked (command? (fld 15 0 h) src0 (bitAt 56 h) 0 []) h = .error ST.sysOpcode) ∧
    (let s := mail (timeStatusHdr 0) (some 255)
     let h := (s.mb 3).word 0
     let newest := ((s.onMb 3 fun x => { x with busy := true, done := false, header := h }).onPort .hostA fun q =>
       { q with lastBell := s.now, departed := false }).onMb 3 fun x => { x with lastAlive := some 0 }
     let begun := newest.onRef fun r => { r with journal := r.journal + 1 }
     ∃ k t, newest.checked (command? (fld 15 0 h) src0 (bitAt 56 h) 0 []) h = .ok k ∧ k.run begun = .next t ∧
       (t.mb 3).owner.isSome = true) := by
  refine ⟨fun h al => ⟨rfl, by decide, rfl, rfl, rfl, rfl, rfl⟩, by decide +kernel, by decide +kernel, by decide +kernel,
    by decide +kernel, ?_, ?_⟩
  · exact ⟨by decide +kernel, rfl⟩
  · exact ⟨_, _, rfl, rfl, rfl⟩

theorem witness_CleanStops :
    (ready.power.powered = true ∧ ready.power.shutdown = false ∧ ready.power.stopped = false ∧ ready.active? = none) ∧
    (let s : State := { ready with power := { Power.reset with powered := false } }
     s.power.powered = false) := by decide

def reqconf : CalPolicy := { CalPolicy.default with reqconf := true }

/-- `armState` with REQCONF = 1 and every item provisional, as after the first start. -/
def provState : State := { armState beams1 with meas := { Meas.reset with policy := reqconf } }

/-- The state in which the conditions of its arm are judged. -/
def armProv : State :=
  let m := provState.buildMap false provState.link.map [] []
  (provState.mapEvents src0 m.1 m.2).prepareArm m.1 true

theorem armProv_table : armProv.beam.activeT = some table0 := by decide +kernel
theorem armProv_dead : armProv.deadNow = [] := by decide +kernel

theorem witness_ProvisionalItemRefusesArm :
    (provState.mbsWf ∧ provState.stripe? sid = some beams1 ∧ provState.owns src0 sid.job = true ∧ beams1.st = .checked ∧
      provState.quiet = true ∧ provState.link.arm = none ∧ beams1.firstOpen = some 0 ∧
      provState.beam.table.isSome = true ∧ beams1.target = 0 ∧ provState.link.headPresent = true) ∧
    gainBad (armProv.beam.activeT.getD ⟨0, 0, 0, 0, []⟩) armProv.deadNow beams1.hdr.ghbound = none ∧
    beams1.capacityBad armProv.deadNow 0 = [] ∧ beams1.offsetOk provState.beam.fit = true ∧ beams1.hdr.place = false ∧
    firstFail (armProv.armRest beams1).dropLast = none ∧ armProv.meas.policy.reqconf = true ∧
    (armProv.meas.item 70).prov = true := by
  refine ⟨by unfold State.mbsWf; decide +kernel, ?_, ?_, by decide +kernel, rfl, by decide +kernel, by decide +kernel,
    by decide +kernel⟩
  · rw [armProv_table, armProv_dead]; exact gainBad_table0
  · rw [armProv_dead]; decide +kernel

/-! Beam tables, the stage, cameras and calibration. -/

/-- The first word of a gain table: magic, version 1, ALPHA 0, TAU 10,000. -/
def gainHead : Word := packW [(0, 16, 0x4754), (16, 8, 1), (80, 32, 10000)]

/-- A gain table of `n` words of zero gains, its check word last. -/
def gainTable (n : Nat) : List Word :=
  (gainHead :: List.replicate n 0) ++ [BitVec.ofNat 128 (crc64W (gainHead :: List.replicate n 0)).toNat]

def gainBuf : BufRef := ⟨0, 1, 524320, 0⟩

/-- HOST-A's memory holds words from address 0 on. -/
def hostHolds (ws : List Word) : State :=
  { ready with mem := { Mem.reset with hostA := listedCells 0 (wordsBytes ws) } }

theorem hostHolds_words (ws : List Word) : (hostHolds ws).mem.words 1 0 ws.length = ws :=
  words_listedCells _ 1 0 ws rfl

theorem gainTable_length (n : Nat) : (gainTable n).length = n + 2 := by simp [gainTable]

theorem gainTable_format (n : Nat) (hn : n = 32768) : gainFormatOk (gainTable n) = true := by
  have hl : (gainHead :: List.replicate n (0 : Word)).length = n + 1 := by simp
  have hw : (gainTable n).getD (n + 1) 0 = BitVec.ofNat 128 (crc64W ((gainTable n).take (n + 1))).toNat := by
    unfold gainTable
    rw [List.take_left' hl, List.getD_eq_getElem?_getD, List.getElem?_append_right (Nat.le_of_eq hl), hl,
      Nat.sub_self]
    rfl
  have h0 : (gainTable n).getD 0 0 = gainHead := rfl
  have hc := (crc64W ((gainTable n).take (n + 1))).isLt
  unfold gainFormatOk
  rw [gainTable_length, h0, show 32769 = n + 1 by omega, hw]
  generalize (crc64W ((gainTable n).take (n + 1))).toNat = c at hc
  have e1 : fld 63 0 (BitVec.ofNat 128 c) = c := by unfold fld; rw [BitVec.toNat_ofNat]; omega
  have e2 : fld 127 64 (BitVec.ofNat 128 c) = 0 := by unfold fld; rw [BitVec.toNat_ofNat]; omega
  dsimp only
  rw [e1, e2, show (n + 2 == gainWords) = true by rw [beq_iff_eq]; unfold gainWords; omega]
  simp
  decide

theorem gainTable_range (n : Nat) (hn : n = 32768) : gainRangeBad 0 10000 (gainValues (gainTable n)) = none := by
  have hv : ∀ v ∈ gainValues (gainTable n), v = 0 := by
    intro v hv
    unfold gainValues at hv
    rw [List.mem_flatten] at hv
    obtain ⟨l, hl, hv⟩ := hv
    rw [List.mem_map] at hl
    obtain ⟨w, hw, rfl⟩ := hl
    have : w = 0 := by
      have e : ((gainTable n).drop 1).take 32768 = List.replicate n 0 := by
        unfold gainTable
        exact List.take_left' (by rw [List.length_replicate, hn])
      rw [e] at hw
      exact List.eq_of_mem_replicate hw
    subst this
    rw [List.mem_map] at hv
    obtain ⟨i, _, rfl⟩ := hv
    unfold fld; simp
  unfold gainRangeBad
  rw [if_neg (by decide), List.findIdx?_eq_none_iff]
  intro v h
  rw [hv v h]; rfl

theorem witness_BeamTableCommands_load : ∃ s : State, s.mbsWf ∧ s.bufReads gainBuf = true ∧
    let ws := s.mem.words gainBuf.space gainBuf.addr.toNat gainWords
    gainFormatOk ws = true ∧
      gainRangeBad (fld 79 64 (ws.getD 0 0)) (fld 111 80 (ws.getD 0 0)) (gainValues ws) = none := by
  obtain ⟨n, hn⟩ : ∃ n, n = 32768 := ⟨_, rfl⟩
  have h := hostHolds_words (gainTable n)
  rw [gainTable_length, show n + 2 = gainWords by unfold gainWords; omega] at h
  refine ⟨hostHolds (gainTable n), rfl, ?_, ?_⟩
  · generalize gainTable n = ws; rfl
  · show gainFormatOk ((hostHolds (gainTable n)).mem.words 1 0 gainWords) = true ∧ gainRangeBad
      (fld 79 64 (((hostHolds (gainTable n)).mem.words 1 0 gainWords).getD 0 0))
      (fld 111 80 (((hostHolds (gainTable n)).mem.words 1 0 gainWords).getD 0 0))
      (gainValues ((hostHolds (gainTable n)).mem.words 1 0 gainWords)) = none
    rw [h, show (gainTable n).getD 0 0 = gainHead from rfl, show fld 79 64 gainHead = 0 by decide,
      show fld 111 80 gainHead = 10000 by decide]
    exact ⟨gainTable_format n hn, gainTable_range n hn⟩

theorem witness_BeamTableCommands :
    ready.mbsWf ∧ (∀ b ∈ [(0 : BitVec 32), 262143], b.toNat < 262144) ∧
    (let s : State := { ready with beam := { Beam.reset with stuckOn := [5], recovered := [5] } }
     (5 : BitVec 18).toNat ∈ s.beam.recovered) ∧
    ready.fitOk { FitRec.reset with sigma := 63 } = true ∧ ready.fitOk { FitRec.reset with sigma := 0xC1 } = true := by
  refine ⟨rfl, fun b hb => ?_, by decide, by decide, by decide⟩
  rw [List.mem_cons, List.mem_singleton] at hb
  obtain rfl | rfl := hb
  · decide
  · decide +kernel

theorem witness_BeamReports : ∃ s : State, s.mbsWf ∧ s.beam.snap = some (sid, [(7, 100)]) :=
  ⟨{ ready with beam := { Beam.reset with snap := some (sid, [(7, 100)]) } }, rfl, rfl⟩

/-- A port record and a tracker record in their ranges. -/
def portRec0 (role : BitVec 3) : PortRec := { PortRec.factory role with
  clkdiv := 2, wbits := 32, failmax := 1, scale := 1, jump := 1 }
def axisRec0 : AxisRec := ⟨4, 0, 20, 1, 0, 1, 0, 1⟩

theorem witness_StageCommands :
    (ready.mbsWf ∧ ready.active? = none ∧
      stageCfgOk ((List.range 6).map fun i => portRec0 (BitVec.ofNat 3 (i + 1))) ⟨2500, axisRec0, axisRec0⟩ = true) ∧
    (∀ m ∈ [(⟨0, 5, 5, true⟩ : MarkEntry)], m.mtol.toNat ≤ m.mwin.toNat) ∧ ready.stage.ports.length = 6 ∧
    (ready.stage.persists .scan = false ∧ ready.stage.persists .cross = false) ∧
    (fld 63 42 (BitVec.ofNat 64 (256 + 0x100000000)) = 0 ∧ policyOk pacerDefault = true ∧ fld 63 42 pacerDefault = 0) ∧
    (fld 15 11 (BitVec.ofNat 64 (16 * 8)) = 0 ∧ emuWordOk (BitVec.ofNat 64 (16 * 8)) = true ∧
      ready.stage.emus.length = 2) := by
  unfold State.mbsWf; decide +kernel

/-- A port record of the cameras in its ranges. -/
def camRec0 : CamRec := { CamRec.reset with wbits := 8, mdiv := 100, linew := 64, lines := 64, ww := 16, wh := 16 }

/-- A camera present on port 0 with a ring, stopped or running. -/
def camState (run : Bool) (work : List CamFrame) : State := { ready with
  cams := { Cams.reset with cams := Cams.reset.cams.set 0 { Cam.reset with
    present := true, ringWords := 256, running := run, work := work } } }

def camFrame0 : CamFrame := ⟨1, 0, false, 0, 0, [], false, 0, false, 0, none, [], none⟩

theorem witness_CameraCommands :
    ((camState false []).mbsWf ∧ (0 : BitVec 2).toNat < (camState false []).cams.cams.length) ∧
    (((camState false []).cam 0).stopped = true ∧ camRecOk camRec0 = true) ∧
    (((camState false []).cam 0).present = true ∧ ((camState false []).cam 0).ringWords ≠ 0 ∧
      (camState false []).regionFailed 10 1 = false) ∧
    (((camState true []).cam 0).running = true ∧ ((camState true []).cam 0).work = []) ∧
    (((camState true [camFrame0]).cam 0).running = true ∧ ((camState true [camFrame0]).cam 0).work ≠ []) ∧
    ((camState false []).bufReads buf0 = true ∧ (0x1000 : BitVec 32).toNat / 4 ≤ 4096 ∧
      sortedDefects [(5, 0), (6, 0), (0, 1)] = true ∧ sortedDefects [] = true) ∧
    (templateOk ⟨0, 8, 64, 32, 0, 0, 0⟩ = true ∧ (camState false []).queueBusy 2 = false) := by
  unfold State.mbsWf; decide +kernel

/-- CAM.DEFECTS of no entry: a buffer without a word. -/
theorem witness_CameraCommands_defects :
    let buf : BufRef := ⟨0x1000, 1, 0, 0⟩
    let k := buf.len.toNat / 4
    let bs := (camState false []).mem.bytes buf.space buf.addr.toNat (4 * k)
    k ≤ 4096 ∧ sortedDefects ((List.range k).map fun i =>
      (leNat ((bs.drop (4 * i)).take 2), leNat ((bs.drop (4 * i + 2)).take 2))) = true := by decide

/-- Everything that CAL.GAIN.RUN asks for. -/
def gainReady : State := { ready with
  link := linkUp
  plate := { Plate.reset with attached := some 7 }
  stage := { Stage.reset with
    axScan := { AxisS.reset with hadPort := true, st := .still }
    axCross := { AxisS.reset with hadPort := true, st := .still } }
  cams := { Cams.reset with cams := Cams.reset.cams.set 2 { Cam.reset with
    present := true, ringWords := 256, cfg := { camRec0 with spoten := true } } } }

theorem witness_CalibrationCommands :
    (let d : AcqDesc := ⟨1, 0, 16777216, 0, 0, 0, 0⟩
     ready.mbsWf ∧ (∀ n ∈ maskChannels d.chmask, (∀ a ∈ ready.meas.acqs, a.desc.chmask.getLsbD n = false)) ∧
      ready.meas.gain = none ∧ 1 ≤ d.count.toNat ∧ d.count.toNat ≤ 2 ^ 24 ∧ d.chmask ≠ 0 ∧ d.bufAddr = 0) ∧
    (let d : AcqDesc := ⟨3, 0, 2, 0, 0x1000, 1, 16⟩
     rangeOk d.bufSpace d.bufAddr.toNat d.bufLen.toNat = true ∧
      4 * (maskChannels d.chmask).length * d.count.toNat ≤ d.bufLen.toNat) ∧
    (signedOf 16 (0x8000 : BitVec 16).toNat ≤ signedOf 16 (0x7FFF : BitVec 16).toNat) ∧
    (ready.meas.items.length = 71 ∧ ready.meas.trimWait = none ∧ (70 : BitVec 8).toNat < 71 ∧
      (∀ k ∈ trimItems 0xFF, ready.mayTrim k = true ∧ (ready.meas.item k).running = false)) ∧
    gainReady.gainUnmet = 0 ∧
    (let p := CalPolicy.default
     1 ≤ p.ccal.toNat ∧ 10 ≤ p.mcup.toNat ∧ p.mcup.toNat ≤ 10000 ∧ 1 ≤ p.ibeam.toNat ∧ p.alpha0.toNat ≤ 16384 ∧
      10000 ≤ p.tau0.toNat ∧ p.tau0.toNat ≤ 10000000) := by
  unfold State.mbsWf; decide +kernel

/-! Links, time, plates, memory, DMA, repair and the codec. -/

theorem shaRound_length (v : List (BitVec 32)) (p) : (shaRound v p).length = v.length := by
  unfold shaRound
  split <;> rfl

theorem shaRounds_length (ks : List (BitVec 32 × BitVec 32)) (v : List (BitVec 32)) :
    (ks.foldl shaRound v).length = v.length := by
  induction ks generalizing v with
  | nil => rfl
  | cons k ks ih => rw [List.foldl_cons, ih, shaRound_length]

theorem shaBlock_length (h : List (BitVec 32)) (b) : (shaBlock h b).length = h.length := by
  unfold shaBlock
  simp [shaRounds_length]

theorem shaBlocks_length (n : Nat) (h : List (BitVec 32)) (bs) : (shaBlocks n h bs).length = h.length := by
  induction n generalizing h bs with
  | zero => rfl
  | succ n ih =>
    unfold shaBlocks
    split
    · rfl
    · rw [ih, shaBlock_length]

theorem leWords_length (l : List (BitVec 32)) :
    (l.map (fun h => (leBytes 4 h.toNat).reverse)).flatten.length = 4 * l.length := by
  induction l with
  | nil => rfl
  | cons x l ih => simp only [List.map_cons, List.flatten_cons, List.length_append, List.length_reverse, leBytes_length,
      ih, List.length_cons]; omega

theorem sha256_length (m : List Byte) : (sha256 m).length = 32 := by
  unfold sha256
  dsimp only
  rw [leWords_length, shaBlocks_length]
  rfl

theorem leBytes_leNat (bs : List Byte) : leBytes bs.length (leNat bs) = bs := by
  induction bs with
  | nil => rfl
  | cons b bs ih =>
    have := b.isLt
    rw [List.length_cons, leBytes, leNat, show (b.toNat + 256 * leNat bs) / 256 = leNat bs by omega, ih]
    congr 1
    apply BitVec.eq_of_toNat_eq
    rw [BitVec.toNat_ofNat]
    omega

theorem leNat_lt (bs : List Byte) : leNat bs < 256 ^ bs.length := by
  induction bs with
  | nil => decide
  | cons b bs ih =>
    have := b.isLt
    rw [leNat, List.length_cons, Nat.pow_succ 256]
    omega

/-- A key with given bytes. -/
theorem keyBytes_of (bs : List Byte) (h : bs.length = 32) : keyBytes (BitVec.ofNat 256 (leNat bs)) = bs := by
  have := leNat_lt bs
  rw [h] at this
  unfold keyBytes
  rw [BitVec.toNat_ofNat, Nat.mod_eq_of_lt (by exact this)]
  have := leBytes_leNat bs
  rwa [h] at this

/-- A plate with its serial number 7 attached to a module that holds S_svc. -/
def plateState : State := { ready with plate := { Plate.reset with keySvc := some 1, attached := some 7 } }

/-- Words tagged by a key. -/
def tagged (k : BitVec 256) (w0 w1 w2 w3 : Word) : TokenRec :=
  ⟨w0, w1, w2, w3, BitVec.ofNat 256 (leNat (hmac (keyBytes k) (wordsBytes [w0, w1, w2, w3])))⟩

theorem tagged_ok (k : BitVec 256) (w0 w1 w2 w3 : Word) : keyBytes (tagged k w0 w1 w2 w3).tag =
    hmac (keyBytes k) (wordsBytes [(tagged k w0 w1 w2 w3).w0, (tagged k w0 w1 w2 w3).w1, (tagged k w0 w1 w2 w3).w2,
      (tagged k w0 w1 w2 w3).w3]) := by
  have h : (hmac (keyBytes k) (wordsBytes [w0, w1, w2, w3])).length = 32 := sha256_length _
  dsimp only [tagged]
  generalize hmac (keyBytes k) (wordsBytes [w0, w1, w2, w3]) = bs at h ⊢
  exact keyBytes_of _ h

def tokenWord0 : Word := packW [(0, 16, 0x5354), (16, 8, 1), (64, 32, 1)]
def tokenWord1 : Word := packW [(0, 64, 7), (64, 64, Config.serial.toNat)]

/-- A token for that plate and this module, tagged by S_svc. -/
def token0 : TokenRec := tagged 1 tokenWord0 tokenWord1 0 0

/-- Words with the fields of a token, tagged by the key of the plate's module, are accepted. -/
theorem tagged_tokenOk (p : Plate) (k : BitVec 256) (q : BitVec 64) (w0 w1 w2 w3 : Word) (hk : p.keySvc = some k)
    (hq : p.attached = some q) (h0 : fld 15 0 w0 = 0x5354) (h1 : fld 23 16 w0 = 1) (h2 : fld 63 0 w1 = q.toNat)
    (h3 : fld 127 64 w1 = Config.serial.toNat) (h4 : p.usage.tserial < fld 95 64 w0) :
    p.tokenOk (tagged k w0 w1 w2 w3) = true := by
  have e := tagged_ok k w0 w1 w2 w3
  unfold Plate.tokenOk
  rw [hk, hq]
  dsimp only
  rw [e]
  simp only [beq_self_eq_true, Bool.and_true, Bool.and_eq_true, beq_iff_eq, decide_eq_true_eq]
  exact ⟨⟨⟨⟨h0, h1⟩, h2⟩, h3⟩, h4⟩

theorem tokenWord1_high : fld 127 64 tokenWord1 = Config.serial.toNat := by
  have hs := Config.serial.isLt
  unfold tokenWord1
  rw [packW_two, fld_ofNat (by decide) (by decide)]
  generalize Config.serial.toNat = n at hs ⊢
  omega

theorem tokenWord1_low : fld 63 0 tokenWord1 = (7 : BitVec 64).toNat := by
  unfold tokenWord1
  rw [packW_two, fld_ofNat (by decide) (by decide), show (7 : BitVec 64).toNat = 7 from rfl]
  generalize Config.serial.toNat = n
  omega

theorem tokenWord0_fields : fld 15 0 tokenWord0 = 0x5354 ∧ fld 23 16 tokenWord0 = 1 ∧ 0 < fld 95 64 tokenWord0 := by decide

theorem token0_ok : plateState.plate.tokenOk token0 = true := by
  unfold token0
  exact tagged_tokenOk plateState.plate 1 7 tokenWord0 tokenWord1 0 0 rfl rfl tokenWord0_fields.1 tokenWord0_fields.2.1
    tokenWord1_low tokenWord1_high tokenWord0_fields.2.2

theorem witness_LinkTimePlateCommands :
    (let s : State := { ready with link := { linkUp with
       thermal := linkUp.thermal.set 15 { Thermal.reset with declared := true, tmax := 32 } } }
     s.mbsWf ∧ s.link.headPresent = true ∧
       ∃ c, s.link.thermal[(15 : BitVec 4).toNat]? = some c ∧
         c.boundsOk (signedOf 16 (0 : BitVec 16).toNat) (signedOf 16 (16 : BitVec 16).toNat)
           (signedOf 16 (32 : BitVec 16).toNat) = true) ∧
    ((67 : BitVec 7).toNat < 68 ∧ ready.laneBusy 67 = false ∧ ready.link.lanes.length = 68) ∧
    domainRecOk { DomainRec.default false with domnum := 9 } (ready.time.dom (0 + 1)).cfg = true ∧
    ((2 : BitVec 2).toNat ≤ 2 ∧ 1 ≤ (50 : BitVec 8).toNat ∧ (50 : BitVec 8).toNat ≤ 50 ∧ ready.active? = none ∧
      (held armedX).active? = some armedX) ∧
    (ready.plate.keySvc = none ∧ ready.plate.keyM = none) ∧
    (plateState.mbsWf ∧ plateState.plate.attached.isSome = true ∧ plateState.plate.tokenOk token0 = true) := by
  refine ⟨⟨rfl, by decide +kernel, _, rfl, by decide⟩, by decide +kernel, by decide, by decide +kernel, ⟨rfl, rfl⟩,
    rfl, rfl, token0_ok⟩

/-- Host channel 0 and firmware channel 32 in a state. -/
def dmaState (c : Dma) : State :=
  { ready with dma := { DmaUnits.reset with chans := (DmaUnits.reset.chans.set 0 c).set 32 c } }

def desc0 : Desc := ⟨packW [(0, 64, 0x1000), (64, 64, 0x2000)],
  packW [(0, 32, 64), (32, 4, 1), (36, 4, 1), (61, 1, 1)], 0x4000, 1⟩

theorem witness_MemoryAndDmaCommands :
    ((held stripe0).mbsWf ∧ (held stripe0).stripe? sid = some stripe0 ∧ stripe0.seg? (0 : BitVec 16).toNat = some seg0 ∧
      seg0.lstate.isHeld = true) ∧
    (ready.dma.chans.length = 48 ∧ (ready.dmaCh 0).st.rest = true ∧ (ready.dmaCh 0).recWait = none ∧
      dmaConfigOk (BitVec.ofNat 64 (2 ^ 32)) (BitVec.ofNat 64 (256 * 2 ^ 32 + 256)) 0 (BitVec.ofNat 64 (16 * 2 ^ 52)) = true ∧
      ready.chanServes 0 = true) ∧
    (let s := dmaState { Dma.reset with st := .stopped, resumable := true, desc := some desc0 }
     s.dma.chans.length = 48 ∧ s.chanServes 0 = true ∧ (s.dmaCh 0).st = .stopped ∧ (s.dmaCh 0).resumable = true ∧
       (s.dmaCh 0).desc.isSome = true) ∧
    (let s := dmaState { Dma.reset with st := .active, desc := some desc0, burst := some 64 }
     (s.dmaCh 0).canDrain = true ∧ (s.dmaCh 0).burst.isSome = true) ∧
    (let s := dmaState { Dma.reset with st := .active }
     (s.dmaCh 0).st ≠ .idle ∧ (s.dmaCh 0).burst = none ∧ (s.dmaCh 0).desc = none ∧ (s.dmaCh 0).recWait = none) := by
  unfold State.mbsWf; decide +kernel

theorem witness_FirmwareDmaCommands :
    (ready.dma.chans.length = 48 ∧ 32 ≤ (32 : BitVec 6).toNat ∧ (47 : BitVec 6).toNat < 48 ∧
      (ready.dmaCh 32).st.rest = true ∧ (ready.dmaCh 47).recWait = none) ∧
    (let s := dmaState { Dma.reset with st := .stopped, resumable := true, desc := some desc0 }
     (s.dmaCh 32).st = .stopped ∧ (s.dmaCh 32).resumable = true ∧ (s.dmaCh 32).desc.isSome = true) ∧
    (let s := dmaState { Dma.reset with st := .pacedOff, desc := some desc0, burst := some 64 }
     (s.dmaCh 32).canDrain = true ∧ (s.dmaCh 32).burst.isSome = true) ∧
    (let s := dmaState { Dma.reset with st := .active }
     (s.dmaCh 32).st ≠ .idle ∧ (s.dmaCh 32).burst = none ∧ (s.dmaCh 32).desc = none ∧ (s.dmaCh 32).recWait = none) := by
  decide +kernel

theorem witness_CheckValueUnits :
    ready.mbsWf ∧ ready.dma.cvus.length = 32 ∧ (15 : BitVec 5).toNat < 16 ∧ ready.rstate (nodeR 7 2 15) = .inService ∧
    (ready.cvu 15).bound = none ∧ ready.bufReads buf0 = true ∧
    (let s : State := { ready with dma := { DmaUnits.reset with
       cvus := DmaUnits.reset.cvus.set 31 ⟨0, 0, 7, some 3, false⟩ } }
     s.dma.cvus.length = 32 ∧ (s.cvu (31 : BitVec 5).toNat).bound.isSome = true) := by
  unfold State.mbsWf; decide +kernel

/-- Lane 3 is retired while it carries group 3; sector 5 and an engine are quarantined, a memory channel suspect. -/
def worn : State :=
  { withRepair ready [(nodeR 11 1 5, .quarantined), (nodeR 1 2 4, .quarantined), (nodeR 3 0 15, .suspect),
      (nodeR 1 2 5, .retired), (nodeR 1 1 0, .quarantined)] with
    link := { linkUp with lanes := linkUp.lanes.set 3 { Lane.reset with st := .retired } } }

theorem witness_RepairCommands :
    (worn.mbsWf ∧ nodeExists (nodeR 1 2 4) = true ∧ nodeDepth (nodeR 1 2 4) = 3 ∧ outBuf buf0 0 = true ∧
      16 * (nodePairs (nodeR 1 2 4)).length ≤ buf0.len.toNat) ∧
    (repairNode (nodeR 11 1 5) = some (nodeR 11 1 5) ∧ memChannel (nodeR 11 1 5) = none ∧
      worn.rstate (nodeR 11 1 5) = .quarantined ∧ worn.freeSpare (nodeR 11 1 5) = some (nodeR 11 1 960) ∧
      nodeI1 (nodeR 11 1 5) = 11) ∧
    (worn.rstate (nodeR 1 2 4) = .quarantined ∧ worn.freeSpare (nodeR 1 2 4) = some (nodeR 1 2 32)) ∧
    (repairNode (nodeR 5 0 3) = some (nodeR 5 0 3) ∧ worn.rstate (nodeR 5 0 3) = .retired ∧
      some (nodeI3 (nodeR 5 0 3)) ∈ worn.link.map ∧ worn.freeSpare (nodeR 5 0 3) = some (nodeR 5 0 64)) ∧
    (repairNode (nodeR 3 0 15) = some (nodeR 3 0 15) ∧ memChannel (nodeR 3 0 15) = some (.a, 15) ∧
      worn.rstate (nodeR 3 0 15) = .suspect) ∧
    (worn.active? = none ∧ outputLane (nodeR 1 2 4) = false ∧ worn.rstate (nodeR 1 2 5) = .retired ∧
      worn.rstate (nodeR 1 1 0) = .quarantined) ∧
    (outputLane (nodeR 5 0 3) = true ∧ worn.link.lanes.length = 68) ∧
    (worn.rstate (nodeR 1 2 0) = .inService ∧
      ((nodeI1 (nodeR 2 4 0), nodeI2 (nodeR 2 4 0)) : Nat × Nat) ∉ [(1, 2), (1, 4), (2, 0), (7, 1), (10, 0)] ∧
      repairNode (nodeR 2 4 0) = some (nodeR 2 4 0) ∧ worn.rstate (nodeR 2 4 0) = .inService) := by
  unfold State.mbsWf; decide +kernel

/-- A region with more than 126 pairs: no response holds them, nor does a buffer of one word. -/
theorem witness_RepairCommands_many :
    let n := nodeRef true 2 2 5 0
    nodeExists n = true ∧ ¬ (nodeDepth n = 3 ∨ (nodePairs n).length ≤ 126) ∧
      ¬ 16 * (nodePairs n).length ≤ (16 : BitVec 32).toNat := by decide +kernel

def codec0 : CodecDesc := ⟨0x1000, 1, 1024, 0x10000, 1, 32, 0, 0, false, 0, 0, false, 1, 2, 0, 0, false, 1⟩

theorem witness_CodecAndTraceCommands :
    (ready.mbsWf ∧ descOk false codec0 = true ∧ descOk true { codec0 with outLen := 16842816, sinUse := true, sinSpace := 1 } = true) ∧
    ((0 : BitVec 5).toNat < 18 ∧ ready.rstate (nodeR 1 4 0) = .inService ∧ ready.laneIdle false 0 = true) ∧
    (ready.trace.running = false ∧ traceOk 0x3E ⟨0x1000, 1, 32, 0⟩ = true) ∧
    (let s : State := { ready with trace := { Trace.reset with running := true } }
     s.trace.running = true) := by
  unfold State.mbsWf; decide +kernel

/-- Mailbox 3 is busy. -/
def busyMb : State := onMbs ready fun l => l.set 3 { Mailbox.reset with owner := some .hostA, busy := true, overrun := 65535 }

/-- An event queue of 256 entries, all returned. -/
def queued : State := { ready with host := { ready.host with portA := { PortS.reset with
  linkUp := true, evq := ⟨0, 1, 8, 5, true, 3, 5, [], 0⟩ } } }

theorem witness_DirectRegisters :
    (busyMb.mbsWf ∧ (1 : BitVec 64).getLsbD 0 = true ∧ (busyMb.port .hostA).linkUp = true ∧ busyMb.power.ready = true ∧
      (busyMb.mb 3).owner = some .hostA ∧ (busyMb.mb 3).busy = true) ∧
    (let s := mail (packW [(0, 16, 0x0101), (48, 8, 0)]) (some 255)
     s.mbsWf ∧ s.firmware = true ∧ (s.mb 3).owner = some .hostA ∧ (s.mb 3).busy = false ∧
       (s.mb 3).word 0 = packW [(0, 16, 0x0101), (48, 8, (((s.mb 3).lastAlive.map (· + 1)).getD 0).toNat)]) ∧
    (let q := (queued.port .hostA).evq
     let w := fld 31 0 (5 : BitVec 64) % q.size
     q.size ≠ 0 ∧ q.staged = [] ∧ q.lost = 0 ∧ (w + q.size - q.rp) % q.size ≤ (q.wp + q.size - q.rp) % q.size) ∧
    ((1 : BitVec 64).getLsbD 0 = true ∧ (frozenA.mc.stack .a).frozen = true) ∧
    (ready.dma.chans.length = 48 ∧ 32 ≤ (47 : BitVec 6).toNat ∧ (47 : BitVec 6).toNat < 48 ∧
      (ready.dmaCh (47 : BitVec 6).toNat).st.rest = true) := by
  unfold State.mbsWf; decide +kernel

/-! The stream, the passes, tiles and codec lanes. -/

/-- A chunk of job 1 with one PAD record: header, body, trailer. -/
def padChunk (seq : Nat) : List Word :=
  let ws := [packW [(0, 16, 0x4843), (16, 8, 1), (24, 8, seq), (32, 16, 1), (48, 16, 1), (64, 32, seq)],
    packW [(8, 12, 1)]]
  ws ++ [packW [(0, 64, (crc64W ws).toNat), (64, 32, seq), (96, 8, seq), (112, 16, 0x5443)]]

/-- Words at the start of the stream ring, `wp` fed, the next chunk `next`. -/
def stream (ws : List Word) (wp next : Nat) : State := { held stripe0 with
  mem := { Mem.reset with landing := listedCells 0 (wordsBytes ws) }
  jobs := { Jobs.reset with
    jobs := [job0]
    stripes := [stripe0]
    parser := { Parser.reset with job := some 1, wp := wp, exp := next } } }

/-- A wrap word alone in the last slot of the ring. -/
def wrapped : State := { held stripe0 with
  mem := { Mem.reset with landing := listedCells (ringLen - 4096) (wordBytes (packW [(0, 16, 0x4843), (16, 8, 1), (97, 1, 1)])) }
  jobs := { Jobs.reset with
    jobs := [job0]
    parser := { Parser.reset with job := some 1, rd := ringLen - 4096, wp := 0 } } }

theorem witness_SlotsAreParsed_wrap :
    let p := wrapped.jobs.parser
    let h := (wrapped.mem.words spLanding p.rd 1).getD 0 0
    p.job = some 1 ∧ p.stall = none ∧ p.fed ≠ 0 ∧ (wrapped.job? 1).any (·.st == .aborting) = false ∧
    wrapped.stackReads .a = true ∧ chunkHeaderOk h = true ∧ bitAt 97 h = true ∧ ringLen - p.rd ≤ p.fed := by
  decide +kernel

theorem witness_SlotsAreParsed_part :
    let s := stream (padChunk 1) 4080 1
    let p := s.jobs.parser
    let h := (s.mem.words spLanding p.rd 1).getD 0 0
    p.job = some 1 ∧ p.stall = none ∧ p.fed ≠ 0 ∧ s.stackReads .a = true ∧ chunkHeaderOk h = true ∧
    bitAt 97 h = false ∧ p.fed < (fld 63 48 h + 2 + 255) / 256 * 4096 := by
  decide +kernel

/-- The hypotheses of the clauses on a whole slot, up to the check value. -/
abbrev slotWhole (s : State) (ws : List Word) : Prop :=
  let p := s.jobs.parser
  let h := (s.mem.words spLanding p.rd 1).getD 0 0
  let len := fld 63 48 h
  let size := (len + 2 + 255) / 256 * 4096
  let t := ws.getD (len + 1) 0
  ws = s.mem.words spLanding p.rd (len + 2) ∧ p.job = some 1 ∧ p.stall = none ∧ p.fed ≠ 0 ∧
  (s.job? 1).any (·.st == .aborting) = false ∧ s.stackReads .a = true ∧ chunkHeaderOk h = true ∧ bitAt 97 h = false ∧
  p.rd + 16 * (len + 2) ≤ ringLen ∧ size ≤ p.fed ∧ s.mc.stA.damaged = [] ∧ fld 127 112 t = 0x5443 ∧
  fld 95 64 t = fld 95 64 h ∧ fld 103 96 t = fld 31 24 h

theorem witness_SlotsAreParsed_crc :
    let ws := (padChunk 1).set 1 (packW [(8, 12, 1), (127, 1, 1)])
    slotWhole (stream ws 4096 1) ws ∧
      BitVec.ofNat 64 (fld 63 0 (ws.getD 2 0)) ≠ crc64W (ws.take 2) := by
  decide +kernel

/-- Chunk 1 again, its number and check value kept. -/
def repeated : State :=
  let s := stream (padChunk 1) 4096 2
  s.onJobs fun j => { j with parser := { j.parser with
    kept := [(1, BitVec.ofNat 64 (fld 63 0 ((padChunk 1).getD 2 0)))] } }

theorem witness_SlotsAreParsed_repeat :
    let ws := padChunk 1
    slotWhole repeated ws ∧ BitVec.ofNat 64 (fld 63 0 (ws.getD 2 0)) = crc64W (ws.take 2) ∧
      fld 47 32 (ws.getD 0 0) = (1 : BitVec 16).toNat ∧ fld 31 24 (ws.getD 0 0) = 1 % 256 ∧
      ((1 : Nat) == 0) = (fld 7 0 (((ws.drop 1).take 1).getD 0 0) == 1) ∧ 1 < repeated.jobs.parser.exp ∧
      repeated.jobs.parser.kept.contains (1, BitVec.ofNat 64 (fld 63 0 (ws.getD 2 0))) = true := by
  decide +kernel

theorem witness_SlotsAreParsed_due :
    let s := stream (padChunk 1) 4096 1
    let ws := padChunk 1
    slotWhole s ws ∧ BitVec.ofNat 64 (fld 63 0 (ws.getD 2 0)) = crc64W (ws.take 2) ∧ 1 = s.jobs.parser.exp ∧
    ∃ c, Chunk.records (1 + 1) (bitAt 96 (ws.getD 0 0)) 1 1 ((ws.drop 1).take 1)
      ⟨s, 1, s.jobs.parser.ctx, [], 0, recordStore - s.jobs.storeUsed, false⟩ = .inl c ∧ c.bad = [] :=
  ⟨by decide +kernel, by decide +kernel, rfl, _, rfl, rfl⟩

/-- A stripe in a state of its passes. -/
def definedX : Stripe := { stripe0 with st := .defined, canopy := .waiting, check := .waiting }
def lrcX : Stripe := { definedX with canopy := .running, hdr := { hdr0 with lrc := true } }

/-- The Canopy pass of the stripe runs. -/
def canopyRuns : State := { held lrcX with render := { Render.reset with canopy := some sid } }

theorem witness_RenderPasses :
    ((held definedX).stripe? sid = some definedX ∧ (held definedX).canopyDue definedX = true ∧ definedX.hdr.lrc = false) ∧
    (let x := { definedX with hdr := { hdr0 with lrc := true } }
     (held x).stripe? sid = some x ∧ (held x).canopyDue x = true ∧ (held x).rstate (nodeR 1 1 0) = .inService) ∧
    (canopyRuns.stripe? sid = some lrcX ∧ canopyRuns.render.canopy = some sid ∧ lrcX.canopy = .running ∧
      canopyRuns.thawed = true ∧ (canopyRuns.mapPlace lrcX).isSome = true) ∧
    (lrcX.canopyFails < 2 ∧
      ({ held { lrcX with canopyFails := 2 } with render := { Render.reset with canopy := some sid } } : State).render.canopy = some sid) ∧
    (let x := { definedX with canopy := .complete }
     x.st = .defined ∧ x.canopy = .complete ∧ x.check = .waiting ∧
      (held x).jobs.capUsed + capBytes x.nseg ≤ 64 * 2 ^ 20) ∧
    (let x := { definedX with canopy := .complete, check := .running }
     x.check = .running ∧ x.remap = false ∧ (held x).thawed = true ∧
      (x.tiles.all fun v => v.check.isSome || v.good) = true ∧
      ((List.range x.nseg).map ((held x).badBlocks x)).flatten = [] ∧
      (List.range x.nseg).all ((held x).mapGood x) = true) ∧
    (stripe0.st = .checked ∧ stripe0.check = .complete ∧ stripe0.landing = .waiting ∧
      (held stripe0).render.landSt = none ∧ ((held stripe0).before sid).all (fun y => y.landing == .complete) = true) := by
  decide +kernel

def tile0 : Tile := ⟨sid, 0, 0, .check, false, false, 0⟩
def tile1 : Tile := ⟨sid, 0, 0, .landing, false, false, 0⟩

/-- Engine 3 holds a tile of a stripe whose tile has the check-pass and landing-pass values given. -/
def rastering (t : Tile) (c l : Option (BitVec 64 × Nat)) : State :=
  { held { stripe0 with check := .running, tiles := [⟨0, 0, c, l, false⟩] } with
    render := { Render.reset with engines := Render.reset.engines.set 3 (some t) } }

/-- The tile waits. -/
def rasterDue : State := { held { stripe0 with st := .defined, check := .running, tiles := [⟨0, 0, none, none, false⟩] } with
  render := { Render.reset with queue := [tile0] } }

theorem witness_RasterTiles :
    ((33 : BitVec 6).toNat < rasterDue.render.engines.length ∧ rasterDue.engines.contains 3 = true ∧
      rasterDue.render.engine 3 = none ∧ rasterDue.render.queue.find? (rasterDue.mayRun 3) = some tile0 ∧
      (rasterDue.stripe? sid).map (rasterDue.badBlocks · 0) = some []) ∧
    (let s := rastering tile0 none none
     s.render.engine 3 = some tile0 ∧ ((s.stripe? sid).bind (·.tileVal? 0 0)).isSome = true ∧ tile0.pass = .check) ∧
    (let s := rastering tile1 (some (5, 4)) none
     s.render.engine 3 = some tile1 ∧ tile1.pass ≠ .check ∧ tile1.third = false ∧
      ((s.stripe? sid).bind (·.tileVal? 0 0)).bind (·.check) = some (5, 4)) ∧
    (let s := rastering { tile1 with third := true } (some (5, 4)) (some (6, 7))
     s.render.engine 3 = some { tile1 with third := true } ∧
      ((s.stripe? sid).bind (·.tileVal? 0 0)).bind (·.check) = some (5, 4) ∧
      ((s.stripe? sid).bind (·.tileVal? 0 0)).bind (·.land) = some (6, 7) ∧ s.rstate (nodeR 1 2 7) = .inService) ∧
    (let s := rastering tile0 none none
     (s.stripe? sid).map (fun x => decide (tile0.since + x.watchdog tile0 < s.now)) = some true ∧
      s.rstate (nodeR 1 2 3) = .inService) ∧
    (let s := rastering { tile0 with since := 10000000000 } none none
     (s.stripe? sid).map (fun x => decide (s.now ≤ 10000000000 + x.watchdog tile0)) = some true) := by
  decide +kernel

/-- Panel 0 of the landing pass, which lane 0 encodes next. -/
def encodeX : Stripe := { stripe0 with
  landing := .running
  tiles := (List.range 32).map fun t => ⟨0, t, none, none, true⟩ }

def encodeDue : State := { held encodeX with
  render := { Render.reset with landSt := some sid, encBind := List.range 16 } }

def extents0 (base : Nat) : List (BitVec 48) := (List.range 257).map fun i => BitVec.ofNat 48 (base + 16384 * i)

theorem extents0_nodup (base : Nat) (h : base < 2 ^ 47) : ((extents0 base).map (·.toNat)).Nodup := by
  have e : (extents0 base).map (·.toNat) = (List.range 257).map fun i => base + 16384 * i := by
    unfold extents0
    rw [List.map_map]
    apply List.map_congr_left
    intro i hi
    rw [List.mem_range] at hi
    simp only [Function.comp, BitVec.toNat_ofNat]
    omega
  rw [e]
  exact List.Pairwise.map _ (fun a b (hab : a ≠ b) => by omega) List.nodup_range

theorem witness_EncodeLanes_start :
    let s := encodeDue
    (0 : BitVec 5).toNat < 18 ∧ s.render.encWork.length = 18 ∧
    s.stripe? sid = some encodeX ∧ encodeX.seg? 0 = some seg0 ∧ seg0.panels.length = 16 ∧
    s.panelDue encodeX 0 0 0 = true ∧ s.badBlocks encodeX 0 = [] ∧ s.mapGood encodeX 0 = true ∧
    (extents0 segBase).length = 257 ∧ s.extentsFree .a ((extents0 segBase).map (·.toNat)) = true ∧
    s.extentsFree .b ((extents0 (stackB + segBase)).map (·.toNat)) = true := by
  refine ⟨?_, ?_, ?_, ?_, ?_, ?_, ?_, ?_, ?_, ?_, ?_⟩
  iterate 9 decide +kernel
  all_goals
    unfold State.extentsFree
    refine Bool.and_eq_true_iff.2 ⟨?_, decide_eq_true (extents0_nodup _ (by decide))⟩
    decide +kernel

/-- Lane 0 encodes panel 15 of the segment. -/
def encodingX : Stripe := { stripe0 with
  landing := .running
  segs := [{ seg0 with panels := List.replicate 15 panel0 ++ [{ panel0 with st := .encoding }] }] }
def encodes : State := { held encodingX with
  render := { Render.reset with landSt := some sid, encWork := (some ⟨sid, 0, 15⟩) :: List.replicate 17 none } }

theorem witness_EncodeLanes :
    (encodes.render.encWork.length = 18 ∧ encodes.render.encoding 0 = some ⟨sid, 0, 15⟩ ∧
      encodes.stripe? sid = some encodingX ∧ encodes.thawed = true ∧ encodes.mapGood encodingX 0 = true) ∧
    ((encodingX.seg? 0).map (fun g => decide (15 < g.panels.length)) = some true) ∧
    (((encodingX.seg? 0).bind (·.panels[15]?)).map (fun q => (q.st, q.encodeMism, q.graderMism)) = some (.encoding, 0, 0) ∧
      encodes.rstate (nodeR 1 4 0) = .inService) := by
  decide +kernel

/-- A service job of mailbox 3, waiting or on a lane. -/
def service0 (decode : Bool) (lane : Option Nat) : Service :=
  ⟨3, decode, { codec0 with outLen := 16842816 }, lane, []⟩
def serves (v : Service) : State :=
  { waitingFor ready (.codecEncode src0 v.desc) with render := { Render.reset with services := [v] } }

theorem witness_DecodeLanesAndServiceJobs :
    ((17 : BitVec 5).toNat < 18 ∧ ready.rstate (nodeR 2 0 0) = .inService) ∧
    (let v := service0 true (some 16)
     v ∈ (serves v).render.services ∧ v.decode = true ∧ v.lane = some (16 : BitVec 5).toNat) ∧
    (let v := service0 false none
     ((serves v).render.services.find? fun v => v.mb == 3 && v.lane.isNone) = some v ∧
      (serves v).qualifies v.decode (16 : BitVec 5).toNat = true) ∧
    (let v := service0 true (some 16)
     (serves v).mbsWf ∧ ((serves v).render.services.find? fun v => v.mb == 3 && v.lane.isSome) = some v ∧
      ((serves v).waiter 3).isSome = true ∧ (serves v).serviceWrites v = true ∧
      (∀ u ∈ (serves v).render.services, u.decode = v.decode → u.lane = v.lane → u = v)) := by
  unfold State.mbsWf; decide +kernel

/-- A line takes at most a flag and sixteen bits a column. -/
theorem bitsOf_length (n v : Nat) : (bitsOf n v).length = n := by
  induction n with
  | zero => rfl
  | succ n ih => simp [bitsOf, ih]

theorem tokLen_raw (l : List Nat) : tokLen (l.map fun x => (false, bitsOf 16 x)) = 16 * l.length := by
  induction l with
  | nil => rfl
  | cons x l ih => simp only [tokLen, List.map_cons, List.sum_cons, bitsOf_length] at ih ⊢; rw [ih, List.length_cons]; omega

theorem codeLine_length (first : Bool) (u : Above) (cur : Array Nat) (s : CodecCtx) (h : cur.toList.length = 512) :
    tokLen (codeLine first u cur s).1 ≤ 8193 := by
  unfold codeLine
  dsimp only
  split
  · show 1 + tokLen (cur.toList.map fun x => (false, bitsOf 16 x)) ≤ 8193
    exact Nat.le_of_eq (by rw [tokLen_raw, h])
  · show 1 + tokLen (codeCols 513 first u cur 0 s).1 ≤ 8193
    omega

theorem tok_bits (ts : List Tok) : (ts.map (·.2)).flatten.length = tokLen ts := by
  induction ts with
  | nil => rfl
  | cons t ts ih => simp only [List.map_cons, List.flatten_cons, List.length_append, ih, tokLen, List.sum_cons]

theorem bitsWords_length (n : Nat) (bs : List Bool) : (bitsWords n bs).length = n := by
  induction n generalizing bs with
  | zero => rfl
  | succ n ih => simp [bitsWords, ih]

/-- A block of one line takes at most 67 words. -/
theorem encodeBlock_length (id : StreamId) (l : List Nat) (s : CodecCtx) (h : l.length = 512) :
    (encodeBlock id [l] s).words.length ≤ 67 := by
  have hc := codeLine_length true Above.zero l.toArray s (by simpa using h)
  simp only [encodeBlock, codeLines, List.map_cons, List.map_nil, List.append_nil, List.length_append, List.length_cons,
    List.length_nil, bitsWords_length, tok_bits]
  omega

theorem row_length (f : Nat → Nat) : ((List.range 512).map f).length = 512 := by simp

def isError {ε α : Type} : Except ε α → Bool
  | .ok _ => false
  | .error _ => true

theorem error_of {ε α : Type} {x : Except ε α} (h : isError x = true) : ∃ e, x = .error e := by
  cases x with
  | ok r => cases h
  | error e => exact ⟨e, rfl⟩

/-- An encode job of one line from the default state succeeds. -/
theorem encode_job (s : State) (v : Service) (hr : s.serviceReads v = true) (hd : v.decode = false)
    (hs : v.desc.sinUse = false) (h1 : v.desc.rows.toNat = 1) (ho : 1072 ≤ v.desc.outLen.toNat) :
    ∃ r, s.serviceResult v = .ok r := by
  unfold State.serviceResult
  simp only [hr, hd, hs, h1, Bool.not_true, Bool.false_eq_true, if_false, List.range_one, List.map_cons, List.map_nil]
  refine ⟨_, if_neg (Nat.not_lt.2 (Nat.le_trans (Nat.mul_le_mul_left 16 (encodeBlock_length _ _ _ (row_length _))) ho))⟩

theorem witness_DecodeLanesAndServiceJobs_results :
    (∃ r, (serves (service0 false (some 16))).serviceResult (service0 false (some 16)) = .ok r) ∧
    ∃ e, (serves (service0 true (some 16))).serviceResult (service0 true (some 16)) = .error e :=
  ⟨encode_job _ _ (by decide +kernel) rfl rfl (by decide) (by decide), error_of (by decide +kernel)⟩

/-! Landing, preparation, arbitration, rewrites and the memory controller. -/

/-- An extent that holds a stream of one end word, and a landing record of zeros with its check value. -/
def endWord0 : Word := 0x45430000#128 <<< 32
def stream0 : List Word := endWord0 :: List.replicate 1022 0 ++ [0xA5000000000000000001000000000000#128]
def record0 : List Word := List.replicate 28 0 ++ [(crc64W (List.replicate 28 0)).setWidth 128]

def recA0 : Nat := segBase + 65536
def recB0 : Nat := stackB + segBase + 65536

/-- The same with a wrong check value. -/
def record1 : List Word := List.replicate 28 0 ++ [(~~~crc64W (List.replicate 28 0)).setWidth 128]

/-- Both stacks hold a stream and a landing record. -/
def landedMem (r : List Word) : Mem := (((Mem.reset.write spLanding recB0 (wordsBytes record0)).write spLanding recA0
  (wordsBytes r)).write spLanding (stackB + segBase) (wordsBytes stream0)).write spLanding segBase
  (wordsBytes stream0)

def encoded0 : Panel := { panel0 with st := .encoded, extA := [segBase], extB := [stackB + segBase] }

/-- Words with one more after them. -/
theorem snoc_length (ws : List Word) (w : Word) {n : Nat} (h : ws.length = n) : (ws ++ [w]).length = n + 1 := by simp [h]
theorem snoc_take (ws : List Word) (w : Word) {n : Nat} (h : ws.length = n) : (ws ++ [w]).take n = ws := by simp [← h]
theorem snoc_getD (ws : List Word) (w : Word) {n : Nat} (h : ws.length = n) : (ws ++ [w]).getD n 0 = w := by simp [← h]
theorem payload_length (n : Nat) (w : Word) : (w :: List.replicate n 0).length = n + 1 := by simp
theorem zeros_length (n : Nat) : (List.replicate n (0 : Word)).length = n := List.length_replicate

theorem stream0_length : stream0.length = 1024 := snoc_length _ _ (payload_length 1022 _)
theorem record0_length : record0.length = 29 := snoc_length _ _ (zeros_length 28)
theorem record1_length : record1.length = 29 := snoc_length _ _ (zeros_length 28)

/-- Where a write holds the words read, and where it stands apart from them. -/
theorem words_at (m : Mem) (a : Nat) {ws : List Word} {n : Nat} (h : ws.length = n) :
    (m.write spLanding a (wordsBytes ws)).words spLanding a n = ws := h ▸ m.words_write_in (by decide) a ws

theorem words_apart (m : Mem) {a b n k : Nat} {ws : List Word} (h : ws.length = k)
    (hd : a + 16 * n ≤ b ∨ b + 16 * k ≤ a) :
    (m.write spLanding b (wordsBytes ws)).words spLanding a n = m.words spLanding a n :=
  m.words_write_out fun _ => by rw [wordsBytes_length, h]; exact hd

theorem landedMem_stream (r : List Word) (c : Stack) :
    (landedMem r).words spLanding (encoded0.head c) 1024 = stream0 := by
  unfold landedMem
  cases c
  · exact words_at _ _ stream0_length
  · show Mem.words _ _ (stackB + segBase) _ = _
    rw [words_apart _ stream0_length (by decide), words_at _ _ stream0_length]

theorem landedMem_recordA (r : List Word) (h : r.length = 29) : (landedMem r).words spLanding recA0 29 = r := by
  unfold landedMem
  rw [words_apart _ stream0_length (by decide), words_apart _ stream0_length (by decide), words_at _ _ h]

theorem landedMem_recordB (r : List Word) (h : r.length = 29) : (landedMem r).words spLanding recB0 29 = record0 := by
  unfold landedMem
  rw [words_apart _ stream0_length (by decide), words_apart _ stream0_length (by decide),
    words_apart _ h (by decide), words_at _ _ record0_length]

theorem endSplit_zeros (n : Nat) : endSplit (List.replicate n 0) = none := by
  induction n with
  | zero => rfl
  | succ n ih => rw [List.replicate_succ, endSplit, ih]; rfl

/-- A segment whose sixteen panels are encoded. -/
def segAt (l : LState) : Seg := { seg0 with
  lstate := l, panels := List.replicate 16 encoded0, recA := recA0, recB := recB0 }

def stripeAt (l : LState) : Stripe := { stripe0 with landing := .complete, segs := [segAt l] }
def landedState (l : LState) (m : Mem) : State := { held (stripeAt l) with mem := m }

theorem readChain_stream0 (m : Mem) (a : Nat) (h : m.words spLanding a 1024 = stream0) :
    readChain 257 m a 0 = some (endWord0 :: List.replicate 1022 0) := by
  have hl := snoc_getD _ 0xA5000000000000000001000000000000#128 (payload_length 1022 endWord0)
  have ht := snoc_take _ 0xA5000000000000000001000000000000#128 (payload_length 1022 endWord0)
  unfold readChain
  rw [h, stream0]
  dsimp only
  rw [hl, ht]
  rfl

theorem sound_copy (s : State) (p : Panel) (c : Stack) (hr : s.stackReads c = true) (he : (p.exts c).length ≠ 0)
    (h : s.mem.words spLanding (p.head c) 1024 = stream0) : s.copySound p c = true := by
  unfold State.copySound State.copyWords
  rw [if_pos ⟨hr, he⟩, readChain_stream0 _ _ h]
  dsimp only
  rw [endWordOk, endSplit, endSplit_zeros]
  decide

/-- Words with their check value after them. -/
theorem crc_tail (ws : List Word) {n : Nat} (h : ws.length = n) :
    fld 63 0 ((ws ++ [(crc64W ws).setWidth 128]).getD n 0) =
      (crc64W ((ws ++ [(crc64W ws).setWidth 128]).take n)).toNat := by
  rw [snoc_getD _ _ h, snoc_take _ _ h]
  have := (crc64W ws).isLt
  simp [fld]
  omega

theorem record0_crc : fld 63 0 (record0.getD 28 0) = (crc64W (record0.take 28)).toNat := crc_tail _ (zeros_length 28)

theorem record_ok (s : State) (g : Seg) (c : Stack) (hr : s.stackReads c = true)
    (h : s.mem.words spLanding (g.recAt c) 29 = record0) : s.recordOk g c = true := by
  unfold State.recordOk
  rw [h, hr]
  dsimp only
  rw [record0_crc]
  exact Bool.and_eq_true_iff.2 ⟨rfl, beq_self_eq_true _⟩

theorem panel_of (l : LState) {p : Nat} (h : p < 16) : (stripeAt l).panel 0 p = encoded0 := by
  have : (segAt l).panels[p]? = some encoded0 := List.getElem?_replicate_of_lt h
  simp only [Stripe.panel, Stripe.seg?, stripeAt, List.getElem?_cons_zero, Option.bind_some, this, Option.getD_some]

theorem crc_wrong (ws : List Word) {n : Nat} (h : ws.length = n) :
    fld 63 0 ((ws ++ [(~~~crc64W ws).setWidth 128]).getD n 0) ≠
      (crc64W ((ws ++ [(~~~crc64W ws).setWidth 128]).take n)).toNat := by
  rw [snoc_getD _ _ h, snoc_take _ _ h]
  have := (crc64W ws).isLt
  simp [fld]
  omega

theorem record1_crc : fld 63 0 (record1.getD 28 0) ≠ (crc64W (record1.take 28)).toNat := crc_wrong _ (zeros_length 28)

theorem record_bad (s : State) (g : Seg) (c : Stack) (h : s.mem.words spLanding (g.recAt c) 29 = record1) :
    s.recordOk g c = false := by
  unfold State.recordOk
  rw [h]
  dsimp only
  rw [beq_eq_false_iff_ne.2 record1_crc, Bool.and_false]

theorem reads (l : LState) (m : Mem) (c : Stack) : (landedState l m).stackReads c = true := by
  have h : (landedState l m).stackReads c = State.reset.stackReads c := rfl
  rw [h]
  cases c <;> decide +kernel

/-- The segment in a state, its copies whole, its records good or that of stack A bad. -/
def whole (l : LState) : State := landedState l (landedMem record0)
def recordHurt (l : LState) : State := landedState l (landedMem record1)

theorem whole_sound (l : LState) (c : Stack) : (whole l).copySound encoded0 c = true :=
  sound_copy _ _ _ (reads _ _ _) (by cases c <;> decide) (landedMem_stream _ c)

theorem recordHurt_sound (l : LState) (c : Stack) : (recordHurt l).copySound encoded0 c = true :=
  sound_copy _ _ _ (reads _ _ _) (by cases c <;> decide) (landedMem_stream _ c)

theorem whole_record (l : LState) (c : Stack) : (whole l).recordOk (segAt l) c = true :=
  record_ok _ _ _ (reads _ _ _) (by
    cases c
    · exact landedMem_recordA _ record0_length
    · exact landedMem_recordB _ record0_length)

theorem recordHurt_record (l : LState) : (recordHurt l).recordOk (segAt l) .a = false :=
  record_bad _ _ _ (landedMem_recordA _ record1_length)

theorem mask_bit : ∀ p : Nat, p < 16 → ∀ q : Nat, q < 16 → (q = p ↔ inMask (BitVec.ofNat 16 (2 ^ p)) q = true) := by decide

theorem mask_none : ∀ p, p < 16 → inMask 0 p = false := by decide

theorem witness_SegmentsLandAndSeal :
    (let s := landedState .landing Mem.reset
     s.stripe? sid = some (stripeAt .landing) ∧ (stripeAt .landing).seg? 0 = some (segAt .landing) ∧
      (segAt .landing).panels.all (fun p => p.st == .encoded) = true ∧ (segAt .landing).panels.length = 16 ∧
      s.stackReads .a = true ∧ s.stackReads .b = true) ∧
    (let s := whole .landed
     s.stripe? sid = some (stripeAt .landed) ∧ (segAt .landed).panels.any (fun p => p.rewrite.isSome) = false ∧
      (∀ p, p < 16 → ∀ c, (inMask 0 p || !s.copySound ((stripeAt .landed).panel 0 p) c) = false) ∧
      s.recordOk (segAt .landed) .a = true ∧ s.recordOk (segAt .landed) .b = true ∧
      (stripeAt .landed).hdr.witness = false) ∧
    (let s := recordHurt .landed
     s.stripe? sid = some (stripeAt .landed) ∧
      (∀ p, p < 16 → ∀ c, (inMask 0 p || !s.copySound ((stripeAt .landed).panel 0 p) c) = false) ∧
      s.recordOk (segAt .landed) .a = false) ∧
    (∀ p, p < 16 → ∀ c, (inMask (BitVec.ofNat 16 (2 ^ p)) p || !(whole .landed).copySound ((stripeAt .landed).panel 0 p) c) = true) ∧
    (∀ p q, p < 16 → q < 16 →
      (q = p ↔ (inMask (BitVec.ofNat 16 (2 ^ p)) q || !(whole .landed).copySound ((stripeAt .landed).panel 0 q) .a) = true) ∧
      (inMask 0 q || !(whole .landed).copySound ((stripeAt .landed).panel 0 q) .b) = false) ∧
    (LState.exposing.tabled = true ∧ ∃ a, (whole .exposing).recordSigs (segAt .exposing) .a = some a ∧
      (whole .exposing).recordSigs (segAt .exposing) .b = some a) ∧
    (LState.ready.tabled = true ∧ (recordHurt .ready).recordSigs (segAt .ready) .a = none) := by
  refine ⟨⟨rfl, rfl, rfl, rfl, rfl, rfl⟩, ⟨rfl, rfl, ?_, whole_record _ _, whole_record _ _, rfl⟩,
    ⟨rfl, ?_, recordHurt_record _⟩, ?_, ?_, ⟨rfl, (record0.drop 2).take 8, ?_, ?_⟩, rfl, ?_⟩
  · intro p hp c; rw [panel_of _ hp, whole_sound, mask_none p hp]; rfl
  · intro p hp c; rw [panel_of _ hp, recordHurt_sound, mask_none p hp]; rfl
  · intro p hp c; rw [(mask_bit p hp p hp).1 rfl]; rfl
  · intro p q hp hq
    rw [panel_of _ hq, whole_sound, whole_sound, mask_none q hq]
    simpa using mask_bit p hp q hq
  · unfold State.recordSigs
    rw [whole_record, if_pos rfl]
    rw [show (whole .exposing).mem.words spLanding ((segAt .exposing).recAt .a) 29 = record0 from
      landedMem_recordA _ record0_length]
  · unfold State.recordSigs
    rw [whole_record, if_pos rfl]
    rw [show (whole .exposing).mem.words spLanding ((segAt .exposing).recAt .b) 29 = record0 from
      landedMem_recordB _ record0_length]
  · unfold State.recordSigs; rw [recordHurt_record]; rfl

/-- A segment in preparation: its slot and the sixteen lanes taken. -/
def preparing (x : Stripe) (arb : Bool) : State := { held x with
  land := { Landing.reset with slots := [none, none, some ⟨sid, 0, false⟩] }
  render := { Render.reset with decWork := (List.range 16).map (fun n => some ⟨sid, 0, n⟩) ++ [none, none], arbs :=
    if arb then [(16, ⟨sid, 0, 15⟩)] else [] } }

def armedAt (l : LState) : Stripe := { stripeAt l with st := .armed }

/-- Panel 15 of a segment waits for arbitration. -/
def arbAt (l : LState) : Stripe := { stripeAt l with segs := [{ segAt l with
  panels := List.replicate 15 encoded0 ++ [{ encoded0 with arb := true }] }] }

theorem witness_PreparationAndArbitration :
    (let s := held (armedAt .admitted)
     let b := ((armedAt .admitted).latched.map (·.decBind)).getD []
     s.stripe? sid = some (armedAt .admitted) ∧ (armedAt .admitted).seg? 0 = some (segAt .admitted) ∧
      s.prepFrom (armedAt .admitted) = some 0 ∧ s.land.slots[(2 : BitVec 2).toNat]? = some none ∧
      (upto 0 ((armedAt .admitted).pos 0)).all (s.slotOrExposed (armedAt .admitted)) = true ∧
      s.land.slots.all (fun t => !t.any fun y => y.st == sid && y.seg == 0) = true ∧
      b.all (fun n => s.rstate (nodeR 2 0 n) == .inService && s.laneIdle true n) = true ∧ b.contains 15 = true) ∧
    (let s := preparing (armedAt .admitted) false
     s.stripe? sid = some (armedAt .admitted) ∧ (segAt .admitted).panels.any (·.arb) = false ∧
      s.slotWaits sid 0 = true ∧ s.decodes sid 0 = true ∧ s.thawed = true ∧
      (((armedAt .admitted).latched.map (·.decBind)).getD []).all
        (fun n => (s.render.decoding n).any fun w => w.st == sid && w.seg == 0) = true) ∧
    (let x := arbAt .admitted
     let s := held x
     s.stripe? sid = some x ∧ (x.seg? 0).map (·.lstate.arbitrated) = some true ∧ (x.panel 0 15).arb = true ∧
      s.slotWaits sid 0 = false ∧ s.copyGood x 0 15 .a = false ∧ s.copyGood x 0 15 .b = false) ∧
    (let s := held (stripeAt .ready)
     LState.ready.scrubbed = true ∧ s.slotWaits sid 0 = false ∧ s.scrubNext (segAt .ready) = true) ∧
    (let x := { stripeAt .exposing with st := .running }
     let s := running x run0
     s.stripe? sid = some x ∧ x.seg? 0 = some (segAt .exposing) ∧ s.run? = some (run0, x)) := by
  refine ⟨?_, ?_, ⟨rfl, rfl, rfl, ?_, ?_, ?_⟩, ?_, rfl, rfl, ?_⟩
  all_goals decide +kernel

def rewriting : Stripe := { stripeAt .admitted with segs := [{ segAt .admitted with
  panels := List.replicate 15 encoded0 ++ [{ encoded0 with rewrite := some .b, badCopy := some .b }] }] }

def relanding : Stripe := { stripeAt .landing with
  landing := .running
  segs := [{ segAt .landing with old := some ((segAt .landing).panels, recA0, recB0) }] }

def unverif : Stripe := { stripeAt .unverifiable with landing := .running }

theorem witness_RewritesAndRerender :
    (let s := held rewriting
     s.stripe? sid = some rewriting ∧
      ((rewriting.seg? 0).bind (·.panels[(15 : BitVec 4).toNat]?)).map (·.rewrite) = some (some .b) ∧
      [(0 : BitVec 48)].length = ((rewriting.panel 0 15).exts (s.rewriteFrom rewriting 0 15 .b)).length ∧
      s.extentsFree .b [stackB + segBase + segSize - 16384] = true ∧ s.stackReads .a = true ∧ s.stackReads .b = true ∧
      s.rewriteFrom rewriting 0 15 .b = .a ∧ (s.mc.stack .a).inRfc s.now = false ∧
      (s.mc.stack .b).inRfc s.now = false) ∧
    (let s := held unverif
     s.stripe? sid = some unverif ∧ unverif.started = false ∧ unverif.landing ≠ .complete ∧
      (unverif.seg? 0).map (fun g => (g.lstate, g.old)) = some (.unverifiable, none) ∧ s.heldCount < 8192) ∧
    (let s := held relanding
     s.stripe? sid = some relanding ∧ (relanding.seg? 0).map (fun g => (g.lstate, g.panels.length,
        g.panels.all (fun p => p.st == .encoded))) = some (.landing, 16, true) ∧
      (relanding.seg? 0).bind (·.old) = some ((segAt .landing).panels, recA0, recB0) ∧
      s.stackReads .a = true ∧ s.stackReads .b = true) ∧
    (let s := { ready with land := { Landing.reset with testing := [(.a, segBase)] } }
     s.land.testing.contains (Stack.a, (0x32000000 : BitVec 48).toNat) = true ∧ s.stackReads .a = true ∧
      (s.mc.stack .a).inRfc s.now = false) := by
  refine ⟨⟨?_, ?_, ?_, ?_, ?_, ?_, ?_, ?_, ?_⟩, ⟨?_, ?_, ?_, ?_, ?_⟩, ⟨?_, ?_, ?_, ?_, ?_⟩, ?_⟩
  all_goals decide +kernel

/-- The controllers with one stack changed. -/
def withStack (s : State) (k : Stack) (c : StackCtl) : State := { s with mc := s.mc.onStack k fun _ => c }

def caseAt (s : State) (v : BitVec 64) : State := { s with meas := { s.meas with mon := s.meas.mon.set 9 v } }

/-- Channel 3 retires; one unit is still to be moved, or none. -/
def retiring (us : List Nat) : StackCtl := { StackCtl.reset with
  chans := StackCtl.reset.chans.set 3 { Chan.reset with retiring := true, unmoved := us }
  order := [3] }

theorem witness_MemoryController :
    (∀ k : Stack, ready.mc.refreshDue k ≤ 4 * ready.now ∧ (ready.mc.stack k).failed = false ∧ ready.mc.pllDown = false) ∧
    (let s := withStack ready .a { StackCtl.reset with lastRefresh := 39999961000 }
     s.mc.refreshDue .a = 4 * s.now) ∧
    (let s := caseAt ready 1041
     s.active? = none ∧ s.due s.mc.bandAt (cycMs 1) = true ∧ s.mc.stA.band < bandOf s.tB) ∧
    (let x := { stripe0 with st := .armed }
     let s := caseAt (held x) 1361
     s.active? = some x ∧ s.stripe? x.id = some x ∧ s.due s.mc.bandAt (cycMs 1) = true ∧
      bandLimit ((x.latched.map (·.band)).getD s.mc.stA.band) < s.tB) ∧
    (ready.mc.stA.frozen = false ∧ ready.mc.stB.frozen = false ∧ ofStack .a (0 : BitVec 48).toNat = true ∧
      ofStack .a (0x5ffffffff : BitVec 48).toNat = true ∧ ofStack .b (0x600000000 : BitVec 48).toNat = true ∧
      ofStack .b (0xbffffffff : BitVec 48).toNat = true) ∧
    (let s := withStack ready .a { StackCtl.reset with frz := 1, frozeAt := 10000000000 - cycMs 2 }
     s.mc.stA.frozen = true ∧ s.mc.stA.frozeAt + cycMs 2 ≤ s.now) ∧
    (let s := ready
     (s.mc.stack .b).chans.length = 16 ∧ ((s.mc.stack .b).chan 15).retired = false ∧
      ((s.mc.stack .b).chan 15).retiring = false ∧ ((s.mc.stack .b).chan 15).suspect = false ∧
      s.triggered .b 15 (.corrected 4096 10000000000) = true ∧ (s.mc.stack .b).order.length < 4) ∧
    (let s := withStack ready .a (retiring [3])
     let c := s.mc.stack .a
     3 < c.chans.length ∧ (c.order.find? fun x => (c.chan x).retiring && (c.chan x).unmoved.contains (3 : BitVec 21).toNat) = some 3 ∧
      s.stackReads .a = true ∧ c.inRfc s.now = false ∧ unitMirrored (3 : BitVec 21).toNat = false) ∧
    (let s := withStack ready .a (retiring [])
     let c := s.mc.stack .a
     c.chans.length = 16 ∧ (c.chan 3).retiring = true ∧ s.stackReads .a = true ∧
      (s.moveRecords .a).rangeEmpty .a = true ∧ (c.chan 3).unmoved = []) := by
  refine ⟨?_, ?_⟩
  · intro k; cases k <;> decide +kernel
  · decide +kernel

/-- With no segment held no unit beyond the fixed areas is in use. -/
theorem unit_free (c : StackCtl) (v : Nat) (h : segBase ≤ 16384 * v) : (withStack ready .a c).unitUsed .a v = false := by
  have h1 : (withStack ready .a c).allExtents .a = [] := rfl
  have h2 : (withStack ready .a c).mapUnits .a = [] := rfl
  have h3 : (withStack ready .a c).allRecords .a = [] := rfl
  have h4 : ¬16384 * v < segBase := by omega
  unfold State.unitUsed
  rw [h1, h2, h3, decide_eq_false h4]
  rfl

theorem witness_MemoryController_target :
    (withStack ready .a (retiring [3])).targetFree .a 3 (3 : BitVec 21).toNat = true := by
  unfold State.targetFree
  dsimp only
  rw [List.all_eq_true]
  intro v hv
  rw [List.mem_filter] at hv
  obtain ⟨i, -, rfl⟩ := List.mem_map.1 hv.1
  rw [unit_free]
  · rfl
  · have : segBase ≤ 16384 * firstUnbacked 4 := by decide
    have h : firstUnbacked 4 ≤ firstUnbacked
      ((((withStack ready .a (retiring [3])).mc.stack .a).order.dropWhile (· != 3)).drop 1).length.succ := by decide +kernel
    rw [Nat.mul_add]
    exact Nat.le_trans (Nat.le_trans this (Nat.mul_le_mul_left _ h)) (Nat.le_add_right _ _)

/-! Playback, the pacer, the stage and the beam path. -/

def runX : Stripe := { stripeAt .ready with st := .running }
def gain0 : GainPair := ⟨src0, ⟨0, 0, 100, 0, 0, 100, 0, 0⟩, CalPolicy.default, false, 0, 0, 0, 0, 0, [], 0, none, false, [], [], 4,
  640000000063, none, 0, 0, [], [], []⟩

/-- A GO of the armed stripe that has waited its WAITMAX of 5 ms. -/
def goWaits : State := waitingAt (held { stripe0 with st := .armed }) (.stripeGo src0 sid 5 0 false 0 0 0)
    (10000000000 - cycMs 5)
where
  waitingAt (s : State) (c : Instr) (t : Nat) : State := { s with host := { s.host with waiting := [⟨src0, c, t⟩] } }

theorem witness_FlashesAndMarkers :
    (let s := running runX run0
     s.run? = some (run0, runX) ∧ run0.mayPlace runX = true ∧ run0.mPrev = none) ∧
    (let r := { run0 with mPrev := some 639999000000, next := 12271 }
     let s := running runX r
     let s1 := s.takeDrains
     s.run? = some (r, runX) ∧ r.mayPlace runX = true ∧ r.mPrev.isSome = true ∧ s1.run? = some (r, runX) ∧
      ¬({ r with next := 12272 } : Run).mayPlace runX = true) ∧
    (let r := { run0 with fix := some (640000000063, 0), placed := true }
     let s := running runX r
     s.meas.gain = none ∧ s.run? = some (r, runX) ∧ r.fix = some (64 * s.now + 63, 0) ∧ r.halt = none ∧
      (r.next : Int) ≠ r.lastAt (r.endPos runX)) ∧
    (let s := { ready with meas := { ready.meas with gain := some gain0 } }
     s.meas.gain = some gain0 ∧ gain0.mNext ≤ 64 * s.now + 63) ∧
    (let r := { run0 with halt := some (5, 9999999984), placed := true }
     let s := running runX r
     s.run? = some (r, runX) ∧ r.halt = some (r.next, 9999999984) ∧ r.voidAt 40000 9999999984 ≤ 64 * s.now + 63) ∧
    (goWaits.mbsWf ∧ goWaits.waiter 3 = some ⟨src0, .stripeGo src0 sid 5 0 false 0 0 0, 10000000000 - cycMs 5⟩ ∧
      goWaits.stripe? sid = some { stripe0 with st := .armed } ∧ goWaits.goUnmet { stripe0 with st := .armed } ≠ 0) := by
  refine ⟨?_, ?_, ?_, ?_, ?_, ?_⟩
  all_goals (try unfold State.mbsWf); decide +kernel

/-- A reply word for the frame sent last. -/
def reply0 : Word := packW [(0, 8, 0), (8, 4, 2), (12, 2, 1), (16, 32, 5), (48, 16, 6)]

def paced (present : Bool) : State := { running runX run0 with
  pacer := { Pacer.reset with frames := 1, seq := 1, sentAt := some (10000000000 - 25000), mcPresent := present,
                              mcGood := 15, mcLast := 10000000000 - 200000 } }

theorem witness_PacerEvents :
    (paced false).pacer.sentAt.all (fun t => decide (t + 25000 ≤ (paced false).now)) = true ∧
    (paced false).pacer.goodReply reply0 (crc16 (wordBytes reply0)) = true ∧
    (paced true).pacer.goodReply reply0 (~~~crc16 (wordBytes reply0)) = false ∧
    ((paced true).pacer.mcPresent = true ∧ (paced true).pacer.mcLast + 200000 ≤ (paced true).now ∧
      (paced true).run? = some (run0, runX) ∧ runX.target ≠ 2) := by
  refine ⟨?_, ?_, ?_, ?_⟩
  all_goals decide +kernel

/-- The tracker on, port 0 with a reference mark input, the tick before `ready`'s instant. -/
def tracking (p : PosPort) : Stage := { Stage.reset with
  ports := Stage.reset.ports.set 0 p
  tracker := { Stage.reset.tracker with treq := 2500 }
  tick := 10000000000 - 2500
  prevTick := 10000000000 - 5000
  axScan := { AxisS.reset with tk := some (10000000000 - 2500) } }

def port0 : PosPort := { PosPort.reset 1 with
  cfg := { PortRec.factory 1 with refen := true, idread := true }
  passes := 16
  edges := [10000000000 - 5000]
  marks := [⟨⟨5, 0, 0, false⟩, none, false⟩, ⟨⟨0, 0, 100, true⟩, none, false⟩] }

def identity0 : IdAnswer := ⟨0xA9, 0, crc16Bits 0xFFFF (msbBits 8 0xA9 ++ msbBits 128 0)⟩

theorem witness_PositionPorts :
    (let s := { ready with stage := tracking port0 }
     s.stage.tracker.treq ≠ 0 ∧ s.stage.tick + s.stage.tracker.treq.toNat ≤ s.now) ∧
    (let s := { ready with stage := tracking port0 }
     0 < s.stage.ports.length ∧ (s.stage.port 0).cfg.role ≠ 0 ∧ (s.stage.port 0).ended = false) ∧
    (let s := { ready with stage := tracking port0 }
     (s.stage.port 0).wantsId = true ∧ identityOk identity0 = true) ∧
    (let s := { ready with stage := tracking port0 }
     (s.stage.port 0).cfg.refen = true ∧ true ≠ (s.stage.port 0).cfg.refpol) ∧
    (let s := { ready with stage := tracking port0 }
     let l := s.stage.latch (s.stage.port 0) (10000000000 - 5000)
     s.stage.resolvable (s.stage.port 0) = true ∧ (s.stage.port 0).edges = [10000000000 - 5000] ∧
      10000000000 - 5000 < s.stage.tick ∧ (s.stage.port 0).homeEdge = none ∧
      ((s.stage.port 0).marks.find? fun m => m.e.used && m.within l m.e.mtol.toNat) =
        some ⟨⟨0, 0, 100, true⟩, none, false⟩) ∧
    (let s := { ready with stage := tracking port0 }
     (s.stage.port 0).swLevel.getD (inputIx .limp) false ≠ (true != (s.stage.port 0).cfg.swpol.getLsbD (inputIx .limp))) := by
  refine ⟨?_, ?_, ?_, ?_, ?_, ?_⟩
  all_goals decide +kernel

theorem witness_StageAxes :
    (let s := { ready with stage := { tracking port0 with axScan := AxisS.reset } }
     s.stage.tracker.treq ≠ 0 ∧ (s.stage.axis .scan).tk ≠ some s.stage.tick ∧ s.stage.framesEnded .scan = true ∧
      s.stage.framesEnded .cross = true ∧ (s.stage.axis .cross).tk ≠ some s.stage.tick) ∧
    (let e : Emu := { Emu.reset with enabled := true }
     let s := { ready with stage := { Stage.reset with emus := [Emu.reset, e] } }
     s.stage.emus[(1 : BitVec 1).toNat]? = some e ∧ e.enabled = true) ∧
    (let s := running runX run0
     s.run? = some (run0, runX) ∧ runX.target = 0) := by
  refine ⟨?_, ?_, ?_⟩
  all_goals decide +kernel

/-- The last marker 125,000 cycles before `ready`'s instant. -/
def marked : Beam := { Beam.reset with lastM := some (64 * (10000000000 - 125000)), hist := [(3, 7)], tauArm := some 10000 }

theorem witness_BeamPathEvents :
    (let s := { ready with beam := { marked with decays := 199 } }
     s.beamsFlashing = false ∧ s.beam.lastM = some (64 * (10000000000 - 125000)) ∧
      64 * (10000000000 - 125000) / 64 + 625 * (s.beam.decays + 1) ≤ s.now) ∧
    (let s := { ready with beam := marked }
     s.beamsPlaced = false ∧ 64 * (10000000000 - 125000) / 64 + s.beam.fiveTau ≤ s.now) ∧
    (let s := { ready with beam := { marked with idleEnd := some 10000000000 } }
     s.beam.idleEnd = some 10000000000 ∧ 10000000000 ≤ s.now) ∧
    (let s := { ready with beam := { marked with tauArm := some 10001 } }
     (if s.beamsPlaced then some (64 * s.now) else s.beam.lastM) = some (64 * (10000000000 - 125000)) ∧
      s.now < 64 * (10000000000 - 125000) / 64 + s.beam.fiveTau ∧
      s.rstate (nodeR 2 4 ((0x3ffff : BitVec 18).toNat / 32)) = .inService) ∧
    (let r := { run0 with placed := true }
     let s := { running runX r with beam := { marked with activeT := some table0 } }
     s.beam.activeT.isSome = true ∧ s.run? = some (r, runX) ∧ runX.target = 0 ∧ s.beamsPlaced = true ∧
      s.now < 64 * s.now / 64 + s.beam.fiveTau) ∧
    (let s := running runX run0
     s.rstate (nodeR 2 2 (4095 : BitVec 12).toNat) = .inService ∧ s.run? = some (run0, runX) ∧
      run0.slotReader runX.rev 5 = some 0 ∧ run0.slotReader runX.rev 8000 = none) := by
  refine ⟨?_, ?_, ?_, ?_, ?_, ?_⟩
  all_goals decide +kernel

/-! The links' records, lanes and times. -/

/-- A record with its check value. -/
def record (v : Nat) : BitVec 256 := BitVec.ofNat 256 (v + (crc16 (leBytes 30 v)).toNat * 2 ^ 240)

/-- Every lane reports FIRED for flash 4 and the one before it. -/
def ack0 : BitVec 256 :=
  record (1 + 4 * 2 ^ 32 + ((List.range 34).map fun i => 2 ^ (64 + 4 * i)).sum)
def temp0 : BitVec 256 := record (2 + 8 * 2 ^ 8 + 100 * 2 ^ 64 + 0x8000 * 2 ^ 80)
def stuck0 (kind : Nat) : BitVec 256 := record (3 + 63 * 2 ^ 8 + (7 * 512 + 511) * 2 ^ 16 + kind * 2 ^ 28)
def linkstat0 : BitVec 256 := record (5 + 255 * 2 ^ 8 + 15 * 2 ^ 208)
def mgmt0 : BitVec 256 := record (4 + 67 * 2 ^ 8 + 9 * 2 ^ 16 + 2 ^ 24 + 4 * 2 ^ 32)

def retsWith (r : RetLane) : State := { ready with link := { linkUp with rets := [r, r, r, r] } }

/-- A run whose flashes 3 and 4 wait for their statuses on lanes of return lane 0. -/
def awaits : State :=
  { running runX { run0 with awaiting := [(0, 3, 639999000000), (16, 4, 639999500000), (17, 4, 639999500000)] } with
    link := { linkUp with thermal := List.replicate 16 { Thermal.reset with declared := true } } }

set_option maxRecDepth 20000 in
theorem witness_LinkRecords :
    ((retsWith ⟨false, 6, 0, 0, 0⟩).link.rets.getD 3 RetLane.reset = ⟨false, 6, 0, 0, 0⟩ ∧ recordOk (~~~ack0) = false ∧
      recordOk ack0 = true) ∧
    ((retsWith ⟨true, 8, 2, 0, 0⟩).link.rets.getD 3 RetLane.reset = ⟨true, 8, 2, 0, 0⟩ ∧
      (retsWith ⟨true, 8, 3, 0, 0⟩).link.rets.getD 0 RetLane.reset = ⟨true, 8, 3, 0, 0⟩) ∧
    (awaits.link.rets.getD 0 RetLane.reset).lock = true ∧
    (fld 7 0 ack0 = 1 ∧ runX.target = 0 ∧ awaits.play.tail = none ∧ (awaits.run?).map (·.2) = some runX ∧
      (∀ i < 17, fld (64 + 4 * i + 3) (64 + 4 * i) ack0 = 1 ∧ fld (132 + 4 * i + 3) (132 + 4 * i) ack0 = 1) ∧
      (awaits.run?).map (fun z => z.1.awaiting.all (fun y => decide (z.1.flashAt z.1.qs ≤ y.2.1 ∧ y.2.1 < z.1.next)) &&
        z.1.taken.isEmpty) = some true) ∧
    (recordOk temp0 = true ∧ fld 7 0 temp0 = 2 ∧ awaits.link.thermal.length = 16) ∧
    (∀ k ∈ [1, 2, 3], recordOk (stuck0 k) = true ∧ fld 7 0 (stuck0 k) = 3 ∧ fld 29 28 (stuck0 k) = k ∧
      awaits.groupOf (fld 15 8 (stuck0 k)) = some 63) ∧
    (recordOk linkstat0 = true ∧ fld 7 0 linkstat0 = 5 ∧ 17 * 3 + 16 < awaits.link.lanes.length) ∧
    (recordOk mgmt0 = true ∧ fld 7 0 mgmt0 = 4 ∧ bitAt 24 mgmt0 = true ∧ bitAt 25 mgmt0 = false ∧
      fld 15 8 mgmt0 < awaits.link.lanes.length) := by
  refine ⟨?_, ?_, ?_, ?_, ?_, ?_, ?_, ?_⟩
  all_goals decide +kernel

def laneAs (l : Lane) (n : Nat) : State := { ready with link := { linkUp with lanes := linkUp.lanes.set n l } }

theorem witness_LaneLife :
    ((laneAs { Lane.reset with st := .carrier } 67).link.lane 67 = { Lane.reset with st := .carrier } ∧
      (laneAs Lane.reset 0).link.lanes.length = 68) ∧
    ((laneAs { Lane.reset with st := .down, step := 5, fails := 2 } 67).link.lane 67).fails = 2 ∧
    ((laneAs { Lane.reset with st := .suspect, testing := true } 67).link.lane 67).testing = true ∧
    (((laneAs { Lane.reset with downAt := 10000000000 - cycS 1 } 67).link.lane 67).downAt + cycS 1 ≤ ready.now ∧
      ((laneAs Lane.reset 67).link.lane 67).st = .down ∧ ((laneAs Lane.reset 67).link.lane 67).step = 0) ∧
    (∀ p ∈ [6, 7], ((laneAs { Lane.reset with step := 2, preset := p, stepAt := 10000000000 - cycMs 2 } 67).link.lane 67).step = 2 ∧
      ((laneAs { Lane.reset with step := 2, preset := p, stepAt := 10000000000 - cycMs 2 } 67).link.lane 67).stepAt + cycMs 2 ≤
        ready.now) ∧
    (let s := { laneAs { Lane.reset with degraded := true, margin := 32 } 0 with
       time := { ready.time with ctr := cycS 10 } }
     (s.link.lane 0).degraded = true ∧ 32 ≤ (s.link.lane 0).margin ∧ (s.link.lane 0).lastBad + cycS 10 ≤ s.now) ∧
    ((retsWith ⟨true, 8, 0, 0, 10000000000 - cycUs 1⟩).link.rets.length = 4 ∧
      (laneAs { Lane.reset with step := 1 } 51).link.rets.length = 4 ∧
      ((laneAs { Lane.reset with step := 1 } 51).link.lane 51).step = 1 ∧ retOf 51 = 3 ∧
      ((retsWith ⟨true, 8, 0, 0, 10000000000 - cycUs 1⟩).link.rets.getD 3 RetLane.reset).lock = true ∧
      ((retsWith ⟨true, 8, 0, 0, 10000000000 - cycUs 1⟩).link.rets.getD 3 RetLane.reset).lastAt + cycUs 1 ≤
        (retsWith ⟨true, 8, 0, 0, 10000000000 - cycUs 1⟩).now) := by
  refine ⟨?_, ?_, ?_, ?_, ?_, ?_, ?_⟩
  all_goals decide +kernel

theorem witness_LinkTimes :
    (let r := { run0 with awaiting := [(0, 3, 640000000000 - 64 * cycUs 2)] }
     let s := running runX r
     s.run? = some (r, runX) ∧ (r.awaiting.find? fun w => w.1 = (0 : BitVec 7).toNat ∧ w.2.2 + 64 * cycUs 2 ≤ 64 * s.now) =
        some (0, 3, 640000000000 - 64 * cycUs 2) ∧ runX.groupOf 0 = some 0 ∧ r.deadGroup 0 = false ∧ r.halt = none ∧
      runX.target ≠ 2) ∧
    (let h : Thermal := { Thermal.reset with declared := true, lastAt := 10000000000 - cycMs 1 }
     let s := { ready with link := { Link.reset with thermal := List.replicate 16 h } }
     s.link.thermal[(15 : BitVec 4).toNat]? = some h ∧ h.stale = false ∧ h.lastAt + cycMs 1 ≤ s.now) ∧
    (let w : MgmtWait := ⟨67, 1, [], 2, 10000000000 - cycMs 1⟩
     let s := { ready with link := { Link.reset with mgmt := [w] } }
     (s.link.mgmt.find? fun w => w.lane = (67 : BitVec 7).toNat ∧ w.sentAt + w.bound ≤ s.now) = some w ∧ w.tries < 3) ∧
    (let a : ArmWait := ⟨src0, sid, 10000000000 - cycMs 10, false, []⟩
     let s := { held { stripe0 with st := .checked } with link := { Link.reset with arm := some a } }
     s.mbsWf ∧ s.link.arm = some a ∧ a.sentAt + cycMs 10 ≤ s.now) ∧
    (let s := { ready with time := { ready.time with ctr := 1028 * 9727627 } }
     s.now % 1028 = 0 ∧ s.link.lanes.length = 68 ∧ (s.link.lane 67).synced < s.now / 262144 ∧
      s.frameLanes.contains 67 = false) ∧
    (let s := { ready with
       ref := { ready.ref with safe := true }
       link := { Link.reset with lastBlank := 10000000000 - 625, nextMark := 640000000000 } }
     s.ref.safe = true ∧ s.run? = none ∧ s.link.lastBlank + 625 ≤ s.now ∧ s.link.nextMark ≤ 64 * s.now) ∧
    (let s := { ready with plate := { Plate.reset with step := 1, stepAt := 10000000000 - cycMs 2 } }
     s.plate.step = 1 ∧ s.plate.stepAt + cycMs 2 ≤ s.now) := by
  refine ⟨?_, ?_, ?_, ?_, ?_, ?_, ?_⟩
  all_goals (try unfold State.mbsWf); decide +kernel

/-! Cameras and measurement. -/

/-- Port 2 with a camera in a given state. -/
def camAt (c : Cam) : State := { ready with cams := { Cams.reset with cams := Cams.reset.cams.set 2 c } }

def cam0 : Cam := { Cam.reset with present := true, running := true, ringWords := 256, cfg := camRec0 }
def xfer0 : I2cXfer := ⟨src0, [], 0⟩

theorem witness_CameraPorts :
    ((2 : BitVec 2).toNat < (camAt cam0).cams.cams.length ∧ (camAt cam0).cam 2 = cam0) ∧
    (cam0.present = true ∧ cam0.inFrame = false) ∧
    (let c := { Cam.reset with clockOk := true }
     ((camAt c).cam 2).present = false ∧ ((camAt c).cam 2).clockOk = true ∧ ((camAt c).cam 2).idSeen = false) ∧
    (let c := { cam0 with flight := some (⟨[(1, 2)]⟩, 7, 0) }
     ((camAt c).cam 2).present = true ∧ ((camAt c).cam 2).flight = some (⟨[(1, 2)]⟩, 7, 0)) ∧
    (let c := { cam0 with xferOpen := true, xfers := [xfer0] }
     (camAt c).mbsWf ∧ ((camAt c).cam 2).flight = none ∧ ((camAt c).cam 2).xferOpen = true ∧
      ((camAt c).cam 2).xfers = [xfer0]) ∧
    (let c := { cam0 with work := [camFrame0] }
     (2 : BitVec 2).toNat < 3 ∧ (((camAt c).cam 2).work.find? (·.drop.isNone)).isSome = true) := by
  refine ⟨?_, ?_, ?_, ?_, ?_, ?_⟩
  all_goals (try unfold State.mbsWf); decide +kernel

/-- A frame in work, its lines entered, received or corrected. -/
def frame1 : CamFrame := { camFrame0 with num := 1 }
def inFrame1 (f : CamFrame) (b : List CamLine) : Cam :=
  { cam0 with frames := 1, inFrame := true, work := [f], buf := b }

theorem witness_CameraFrames :
    (cam0.draining = false ∧ cam0.left ≠ some 0 ∧ cam0.setWords ≤ cam0.ringFree ∧ (camAt cam0).cams.regions < 4) ∧
    { cam0 with running := false }.present = true ∧
    (let c := inFrame1 frame1 []
     c.current = some frame1 ∧ c.inFrame = true) ∧
    (let c := inFrame1 frame1 [⟨1, false, []⟩]
     c.current = some frame1 ∧ (c.buf.find? fun l => !l.received) = some ⟨1, false, []⟩ ∧ (1 : Nat) = frame1.num) ∧
    (let c := inFrame1 frame1 [⟨1, true, [1, 2]⟩]
     c.eligible = some ⟨1, true, [1, 2]⟩ ∧
      ({ camAt c with cams := { (camAt c).cams with busy := some (2, 1) } } : State).cams.busy = some (2, 1)) ∧
    (let f := { frame1 with lines := 64 }
     let c := inFrame1 f [⟨1, true, []⟩]
     c.current = some f ∧ f.lines = c.cfg.lines.toNat ∧ c.buf.all (·.received) = true ∧ f.located = false) ∧
    (let f := { frame1 with ended := true, rows := List.replicate 64 [] }
     let s := { camAt (inFrame1 f []) with cams := { (camAt (inFrame1 f [])).cams with locQueue := [(2, 1), (0, 4)] } }
     s.cams.locQueue = (2, 1) :: [(0, 4)] ∧
      ((s.cam 2).work.any fun f => f.num == 1 && f.ended && f.rows.length == (s.cam 2).cfg.lines.toNat) = true) ∧
    (let f := { frame1 with ended := true, located := true, rows := List.replicate 64 [] }
     (inFrame1 f []).ripe = some f) := by
  refine ⟨?_, ?_, ?_, ?_, ?_, ?_, ?_, ?_⟩
  all_goals decide +kernel

def acq0 (taken : Nat) : Acq := ⟨src0, ⟨0x80, 0, 16, 0, 0, 0, 0⟩, taken, []⟩

theorem witness_Measurements :
    let s := { ready with meas := { Meas.reset with acqs := [acq0 16] } }
    s.mbsWf ∧ (s.meas.acqs.find? (·.src.mb == 3)) = some (acq0 16) ∧ (acq0 16).desc.count.toNat ≤ (acq0 16).taken := by
  unfold State.mbsWf; decide +kernel

theorem witness_TrimRuns :
    (let s := { ready with
       time := { ready.time with ctr := cycS 60 }
       meas := { Meas.reset with policy := { Meas.reset.policy with trimper := 1 } } }
     s.meas.items.length = 71 ∧ s.meas.policy.trimper.toNat ≠ 0 ∧
      s.meas.lastAuto + cycS (60 * s.meas.policy.trimper.toNat) ≤ s.now) ∧
    (let s := { ready with meas := { Meas.reset with
       items := Meas.reset.items.set 70 { Meas.reset.items.getD 70 (State.reset.meas.item 0) with running := true } } }
     s.meas.items.length = 71 ∧ (70 : BitVec 8).toNat < 71 ∧ (s.meas.item (70 : BitVec 8).toNat).running = true) ∧
    (let s := { ready with
       time := { ready.time with ctr := cycH 1 + 1 }
       meas := { Meas.reset with
         policy := { Meas.reset.policy with agemax := 1 }
         items := Meas.reset.items.set 0 { Meas.reset.items.getD 0 (State.reset.meas.item 0) with accAt := some 0 } } }
     s.meas.items.length = 71 ∧ (s.meas.item 0).accAt = some 0 ∧ s.meas.policy.agemax.toNat ≠ 0 ∧
      0 + cycH s.meas.policy.agemax.toNat < s.now) := by
  refine ⟨?_, ?_, ?_⟩
  all_goals decide +kernel

def gaining (g : GainPair) : State := { ready with meas := { Meas.reset with gain := some g } }

theorem witness_GainLoop :
    (∀ n ∈ [0, 1, 64], let g := { gain0 with step := n, cupN := 10000 }
      (gaining g).meas.gain = some g ∧ g.step ≤ 64 ∧ g.policy.mcup.toNat ≤ g.cupN) ∧
    (∀ n ∈ [65, 72], let g := { gain0 with step := n, got := true }
      (gaining g).meas.gain = some g ∧ 65 ≤ g.step ∧ g.step ≤ 72 ∧ g.got = true) ∧
    (∀ b ∈ [true, false], let g := { gain0 with step := 73, second := b }
      (gaining g).meas.gain = some g ∧ g.step = 73) ∧
    (let bad (first out : List Nat) := (first.zip out).zipIdx.filterMap fun (p : (Nat × Nat) × Nat) =>
        if gainDiffers p.1.1 p.1.2 then some p.2 else none
     (gaining { gain0 with step := 74 }).mbsWf ∧ bad [32768] [32768] = [] ∧ bad [0] [65535] ≠ []) := by
  refine ⟨?_, ?_, ?_, ?_⟩
  all_goals (try unfold State.mbsWf); decide +kernel

/-! DMA and network time. -/

/-- Two words of a descriptor at host address 0x4000. -/
def descMem (w0 w1 : Word) : Mem := { Mem.reset with hostA := listedCells 0x4000 (wordsBytes [w0, w1]) }

def fetchState (w0 w1 : Word) (t0 : Nat) : State :=
  { dmaState { Dma.reset with st := .active, fetching := some (0x4000, 1, t0), cfg := 0xFFFF00000000 } with
    mem := descMem w0 w1 }

def fetched (w0 w1 : Word) (t0 : Nat) : Desc :=
  let bs := ((fetchState w0 w1 t0).busRead 1 0x4000 32).getD []
  ⟨(bytesWords 2 bs).getD 0 0, (bytesWords 2 bs).getD 1 0, 0x4000, 1⟩

def halfBurst : Dma := { Dma.reset with st := .active, desc := some desc0, burst := some 32 }

theorem witness_DmaTransfers :
    (∀ t0 ∈ [10000000000, 10000000000 - cycUs 16],
      let s := fetchState desc0.w0 desc0.w1 t0
      let c := s.dmaCh 0
      (0 : BitVec 6).toNat < s.dma.chans.length ∧ c.fetching = some (0x4000, 1, t0) ∧ s.now ≤ t0 + cycUs 16 ∧
        (s.busRead 1 0x4000 32).isSome = true ∧ (fetched desc0.w0 desc0.w1 t0).haltCode c 0 = none ∧
        (fetched desc0.w0 desc0.w1 t0).ok 0 = true ∧ c.next = none ∧ c.st = .active) ∧
    (let w1 := desc0.w1 ||| (0x100#128 <<< 64)
     let s := fetchState desc0.w0 w1 10000000000
     (fetched desc0.w0 w1 10000000000).haltCode (s.dmaCh 0) 0 = some 0x12 ∧ (s.dmaCh 0).ringFull = true) ∧
    (let s := fetchState desc0.w0 desc0.w1 (10000000000 - cycUs 16)
     10000000000 - cycUs 16 + cycUs 16 ≤ s.now) ∧
    (let s := dmaState { Dma.reset with st := .active, desc := some desc0, cfg := 1 }
     (s.paceAll.dma.chans.filter (·.burst.isSome)).length < 16 ∧ (s.paceAll.pick = some 0 ∨ s.paceAll.pick = some 32) ∧
      (s.paceAll.dmaCh 0).desc = some desc0 ∧ s.paceAll.cvuTaken 0 desc0 = false ∧
      (s.paceAll.dmaCh 32).desc = some desc0 ∧ s.paceAll.cvuTaken 32 desc0 = false) ∧
    (let s := dmaState halfBurst
     let c := s.dmaCh 0
     c.burst = some 32 ∧ c.desc = some desc0 ∧ c.off + 32 < desc0.len ∧ c.st = .active ∧ desc0.dstSp ≠ spDevreg ∧
      (s.busRead desc0.srcSp (fld 63 0 desc0.w0 + c.off) 32).isSome = true ∧
      s.busWriteOk 0 desc0.dstSp (fld 127 64 desc0.w0 + c.off) 32 = true ∧ s.burstWrites c desc0 32 = true) ∧
    (let d : Desc := { desc0 with w1 := packW [(0, 32, 64), (32, 4, 1), (36, 4, 0), (61, 1, 1)] }
     let s := withStack (dmaState { halfBurst with desc := some d }) .a { StackCtl.reset with frz := 1 }
     (s.dmaCh 0).burst = some 32 ∧ (s.dmaCh 0).desc = some d ∧ s.burstWrites (s.dmaCh 0) d 32 = false) := by
  refine ⟨?_, ?_, ?_, ?_, ?_, ?_⟩
  all_goals decide +kernel

def msg0 (k : PtpKind) : PtpMsg := ⟨k, 0, false, true, false, 5, 6, false, 1000, 0, 0⟩

/-- Domain A follows master 5; its latest Announce and request are a while ago. -/
def following : State := { ready with time := { ready.time with domA := { Domain.reset false with
  st := .locked, master := some 5, delayT3 := some 900, lastReq := some 0,
  cfg := { DomainRec.default false with delaymech := false } } } }

theorem witness_NetworkTime :
    (msg0 .other).kind = .other ∧
    (ready.time.domA.hears .netA (msg0 .announce) = true ∧ ready.time.domB.hears .netA (msg0 .announce) = false ∧
      ready.time.domA.st = .unlocked) ∧
    (following.time.domA.hears .netA (msg0 .sync) = true ∧ following.time.domB.hears .netA (msg0 .sync) = false ∧
      (msg0 .sync).twoStep = true ∧ following.time.domA.master = some (msg0 .sync).master ∧
      following.time.domA.st.following = true) ∧
    (following.time.domA.cfg.delaymech = false ∧ following.time.domA.delayT3 = some 900) ∧
    (let x := following.time.dom 0
     x.st.following = true ∧ x.lastReq = some 0 ∧ 0 + pow2s x.reqInterval ≤ following.now ∧ x.cfg.port = .netA ∧
      following.time.netA = true ∧ x.lastAnnounce + x.cfg.annto.toNat * pow2s x.annInterval ≤ following.now) ∧
    ready.safePermit ∧
    (let s := { ready with time := { ready.time with
       ctr := cycS 60, mode := 2, revert := true, sel := 1, domA := { Domain.reset false with goodSince := some 0 } } }
     s.time.mode = 2 ∧ s.time.revert = true ∧ s.time.sel ≠ s.time.pref ∧ (s.time.dom s.time.pref).goodSince = some 0 ∧
      0 + cycS 60 ≤ s.now) := by
  refine ⟨?_, ?_, ?_, ?_, ?_, ?_, ?_⟩
  all_goals (try unfold State.safePermit); decide +kernel

/-! Ports, Marshals, the safe state, supply and clocks. -/

def portA (p : PortS) : State := { ready with host := { ready.host with portA := p } }

theorem witness_HostPorts :
    ((portA PortS.reset).port .hostA).linkUp = true ∧
    (let s := portA { PortS.reset with linkUp := false, downAt := 10000000000 - cycMs 100 }
     (s.port .hostA).linkUp = false ∧ (s.port .hostA).downAt + cycMs 100 ≤ s.now) ∧
    (let s := portA { PortS.reset with lease := 1000, lastBell := 10000000000 - cycMs 1000 }
     (s.port .hostA).lease ≠ 0 ∧ (s.port .hostA).lastBell + cycMs (s.port .hostA).lease.toNat ≤ s.now) ∧
    (let s := waitingFor ready (.dmaStop src0 31 false)
     s.mbsWf ∧ src0.mb = 3 ∧ s.waiter 3 = some ⟨src0, .dmaStop src0 31 false, 0⟩ ∧ s.firmware = true ∧
      (s.dmaCh (31 : BitVec 5).toNat).st ≠ .draining) := by
  refine ⟨?_, ?_, ?_, ?_⟩
  all_goals (try unfold State.mbsWf); decide +kernel

def marshals (a b : MarshalS) : State := { ready with ref := { ready.ref with ma := a, mbS := b } }
def beating (t : Nat) : MarshalS := ⟨true, false, false, t, []⟩
def rebooting : MarshalS := { beating 0 with healthy := false, booting := true }

theorem witness_MarshalLife :
    ((ready.ref.marshal .a).healthy = true ∧ (ready.ref.marshal .b).healthy = true ∧ ready.ref.active = .a ∧
      ready.ref.failover = false) ∧
    (let s := marshals (beating (10000000000 - cycMs 1)) (beating (10000000000 - cycMs 10))
     (s.ref.marshal .a).lastBeat + cycMs 1 ≤ s.now ∧ (s.ref.marshal .b).lastBeat + cycMs 10 ≤ s.now) ∧
    (let s := marshals (beating 10000000000) rebooting
     (s.ref.marshal .a).healthy = true ∧ (s.ref.marshal (otherMarshal .a)).healthy = false ∧
      (s.ref.marshal .b).booting = true ∧ (s.ref.marshal s.ref.active).healthy = true) ∧
    (let s := marshals rebooting rebooting
     (s.ref.marshal .a).booting = true ∧ (s.ref.marshal s.ref.active).healthy = false) ∧
    (let s := { ready with ref := { ready.ref with failover := true } }
     s.ref.failover = true ∧ s.host.held = []) ∧
    (let s := { ready with fw := { Firmware.reset with sw := 2 } }
     s.fw.sw = 2 ∧ s.active? = none ∧ s.ref.failover = false) ∧
    (let s := { ready with
       time := { ready.time with ctr := cycS 60 }
       fw := { Firmware.reset with sw := 5, swAt := 0 } }
     s.fw.sw = 5 ∧ s.fw.swAt + cycS 60 ≤ s.now) ∧
    (let s := withRepair ready [(nodeR 1 2 3, .quarantined), (nodeR 2 3 regionLogic, .quarantined)]
     repairNode (nodeR 1 2 3) = some (nodeR 1 2 3) ∧ repairNode (nodeR 2 3 regionLogic) = some (nodeR 2 3 regionLogic) ∧
      s.active? = none ∧ s.rstate (nodeR 1 2 3) = .quarantined ∧ s.rstate (nodeR 2 3 regionLogic) = .quarantined ∧
      ((s.repairRec (nodeR 1 2 3)).any (·.selfTest)) = true ∧
      ((s.repairRec (nodeR 2 3 regionLogic)).any (·.selfTest)) = true ∧ sparedNode (nodeR 1 2 3) = true ∧
      sparedNode (nodeR 2 3 regionLogic) = false ∧ outputLane (nodeR 2 3 regionLogic) = false) := by
  refine ⟨?_, ?_, ?_, ?_, ?_, ?_, ?_, ?_⟩
  all_goals decide +kernel

/-- In the safe state with nothing left that keeps it there. -/
def safe0 : State := { ready with
  power := { ready.power with supplyBad := some (10000000000 - cycMs 100) }
  ref := { ready.ref with
    safe := true, alert := true, replayed := true, activeSince := some (10000000000 - cycMs 100),
    ma := beating (10000000000 - cycMs 1) } }

theorem witness_SafeStateEvents :
    safe0.safeMayEnd = true ∧ ready.safeMayEnd = false ∧ (ready.safePermit ∧ safe0.safePermit) ∧
    ready.power.railsOn = true ∧
    { FaultLog.reset with buffer := [[0, 0, 0, 0]] }.buffer ≠ [] ∧
    (safe0.ref.alert = true ∧ safe0.power.powered = true) := by
  unfold State.safePermit; decide +kernel

def start0 : StartReport := ⟨[], [], [], [], true, true, true, 0⟩
def slotsValid : Firmware := { Firmware.reset with
  slot0 := { Firmware.reset.slot0 with valid := true, bootfail := 2 }
  slot1 := { Firmware.reset.slot1 with valid := false } }

def poweredAs (p : Power) : State := { ready with power := p }

theorem witness_SupplyAndResets :
    (poweredAs { Power.reset with powered := false }).power.powered = false ∧
    (let s := { poweredAs { Power.reset with qualified := true } with fw := slotsValid }
     s.ref.resetPend = none ∧ s.mayStart = true ∧ start0.refereeOk = true ∧ start0.marshalAOk = true) ∧
    (let s := poweredAs { Power.reset with qualified := true, railTries := 2 }
     s.power.ramps = true ∧ s.power.railOffAt = none ∧ s.power.railsOn = false) ∧
    (let s := poweredAs { Power.reset with qualified := true, railTries := 2, railOffAt := some 0 }
     s.power.ramps = true ∧ s.power.railOffAt.isSome = true) ∧
    (ready.power.powered = true ∧ ready.power.stopped = false ∧ ready.power.shutdown = false) := by
  refine ⟨?_, ?_, ?_, ?_, ?_⟩
  all_goals decide +kernel

theorem witness_SupplyAndResets_slot : slotsValid.select = some false := by decide

theorem witness_ClockEvents :
    (ready.power.railsOn = true ∧ ready.power.refOk = true ∧ ready.power.lost.contains .pllC = false) ∧
    (∀ c ∈ [Clock.pllC, .pllM, .pllL, .pllN, .pcie, .beamTree, .timeTree], ready.power.lost.contains c = false ∧
      (let s := poweredAs { ready.power with lost := [c], triedAt := [(c, 10000000000 - cycMs 10)] }
       s.power.refOk = true ∧ s.power.lost.contains c = true ∧
        s.due ((s.power.triedAt.find? (·.1 == c)).map (·.2)) (cycMs 10) = true)) := by
  refine ⟨?_, ?_⟩
  all_goals decide +kernel

/-! ### Operations against the manual's figures

Each expected value is a worked example of the manual, or follows from a table of it by hand. -/

set_option maxRecDepth 20000

/-- R388: the check value of "123456789". -/
theorem test_crc64_check : crc64 [0x31, 0x32, 0x33, 0x34, 0x35, 0x36, 0x37, 0x38, 0x39] = 0x995DC9BBDF1939FA := by
  decide +kernel

theorem test_crc64_empty : crc64 [] = 0 := by decide

/-- Chapter 17: three status codes. -/
theorem test_status_codes : ST.stripeGoTimeout = 0x030A ∧ ST.beamGroupDead = 0x0407 ∧ ST.sysAliveGap = 0x0102 := by
  decide

/-- The example of R9: the steps at which two beams meet pixel (100, 37), and their column. -/
theorem test_beam_meets_pixel : expRow false 180 5 = 100 ∧ expRow false 8116 501 = 100 ∧ beamCol 5 2 = 37 := by decide

/-- Chapter 8: a reverse stripe of 3,223 segments. -/
theorem test_reverse_rows : expRow true 10000 511 = 10000 ∧ expRow true 10000 0 = 1824 ∧
    gridRow true 3223 10000 = 13191407 ∧ gridRow true 3223 1824 = 13199583 := by decide

/-- Chapter 3: a quadratic edge of depth 7, and the points of Table 3-3. -/
theorem test_curve : depthQuad ⟨0, 0⟩ ⟨51200, 51200⟩ ⟨102400, 0⟩ = 7 ∧
    quadPoint ⟨0, 0⟩ ⟨51200, 51200⟩ ⟨102400, 0⟩ 1 7 = ⟨800, 794⟩ ∧
    quadPoint ⟨0, 0⟩ ⟨51200, 51200⟩ ⟨102400, 0⟩ 64 7 = ⟨51200, 25600⟩ ∧
    quadPoint ⟨0, 0⟩ ⟨51200, 51200⟩ ⟨102400, 0⟩ 128 7 = ⟨102400, 0⟩ := by decide

/-- Chapter 3: row 29 and column 10 are the last and the first that the rectangle holds in pixel (400, 500). -/
theorem test_rectangle :
    let es := contourEdges 5 [⟨0, 32010, 25630⟩, ⟨0, 32010, 25580⟩, ⟨0, 32200, 25580⟩, ⟨0, 32200, 25630⟩, ⟨0, 32010, 25630⟩]
    let at' (i j : Nat) := let z := stripe0.sample 400 500 i j; holds es z.x z.y
    at' 9 0 = false ∧ at' 10 0 = true ∧ at' 63 29 = true ∧ at' 63 30 = false := by decide

/-- Chapter 4: the taps of a 10 µm term at 10 nm. -/
theorem test_kernel_taps : kernelReach 2560 10 = 63 ∧ kernelTap 2560 10 0 = 65536 ∧ kernelTap 2560 10 1 = 65402 ∧
    kernelTap 2560 10 10 = 53399 ∧ kernelTap 2560 10 63 = 19 := by decide +kernel

/-- Chapter 4, Table 4-4: the interpolated factor, the pixel and its capacity. -/
theorem test_pixel :
    fpix (fun a b => match a, b with
      | 7, 5 => 20480
      | 8, 5 => 21504
      | 7, 6 => 20992
      | 8, 6 => 22016
      | _, _ => 0) 400 500 = 21196 ∧
    composePixel true [0, 0, 8192, 6144] [(2, 1620), (3, 300)] none 21196 = 4774 ∧ kreq 29491 4774 = 11 ∧
    kreq 29491 13363 = 29 ∧ kreq 29491 13364 = 30 := by decide

/-- Chapter 5, Table 5-9: ones and remaining columns of three flat lines, and RUNINDEX after each. -/
theorem test_flat_lines :
    let r0 := runOnes 512 512 CodecCtx.default
    let r1 := runOnes 512 512 r0.2.2
    let r2 := runOnes 512 512 r1.2.2
    (r0.1, r0.2.1, r0.2.2.runIndex) = (23, 100, 23) ∧ (r1.1, r1.2.1, r1.2.2.runIndex) = (2, 128, 25) ∧
      (r2.1, r2.2.1, r2.2.2.runIndex) = (1, 0, 26) := by decide +kernel

/-- Chapter 8: the resampled pixel of the example. -/
theorem test_resample : resampleAt (fun _ c => if c ≤ 501 then 4774 else 0) (80, -16) 400 500 = 3804 := by decide

/-- Chapter 8: the split of 4,774 among 32 beams; rank 1 is the first to take 19. -/
theorem test_split : relayTgt 4774 32 = 1203048 ∧ relayOfs 400 500 0 32 = 41 * 1024 ∧ relayOfs 400 500 1 32 = 43 * 1024 ∧
    relayOfs 400 500 11 32 = 63 * 1024 ∧ relayOfs 400 500 12 32 = 1024 := by decide

/-- Chapter 9: the code of the example beam and its duty afterwards. -/
theorem test_gain_history : gainHist true 31130 13107 8388608 = 1836109660 ∧ beamCode 1203048 44032 0 1836109660 = 22 ∧
    lambdaOf 625 100000 = 41891 ∧ dutyStep 41891 8388608 22 = 8382062 := by decide +kernel

/-- Chapter 11: the marker's distance in phase units, and an overspeed. -/
theorem test_evaluate :
    evaluate { AxisS.reset with v := 66000 } 1 638 625 (some 0) 0 = .place 40545 ∧
    evaluate { AxisS.reset with v := 67000 } 1 638 625 (some 0) 0 = .overspeed 624 := by decide

/-- Chapter 12: the code of beam (180, 31) stands in bits 63:58 of W98 of group 22. -/
theorem test_frame_code : fld 63 58 ((frameWords 0 22 false 0 0 0 [(beamIx 180 31, 19)]).getD 98 0) = 19 := by
  decide +kernel

/-- Chapter 14: the gain of the example beam, and which pairs differ. -/
theorem test_gain : gainOf 13107 1024000 32 1793064960 52000 204800000 = 32375 ∧ gainDiffers 32375 32401 = false ∧
    gainDiffers 32375 32450 = true := by decide

/-- Chapter 16: 37 µs at 50 ppm take 0.74 s. -/
theorem test_absorb : absorbNs (37000 * 65536) 50 = 740000000 := by decide

/-- Chapter 20: the lands of the example. -/
theorem test_lands : (SingleSig.camD 1 7).index = 60 ∧ (SingleSig.camD 1 7).land = (68, 43) ∧
    (PairSig.posDat 3 0).lands = [(0, 34), (0, 35), (0, 36)] := by decide

/-- R213: where a pixel of class 5, beam column 2 and row slot 8,191 stands. -/
theorem test_window_place : winBank 8191 5 = 2045 ∧ winOffset 8191 5 2 = 62468 := by decide

/-- The samples of the example of chapter 10: 104,857,000 and 104,858,280 at ticks 1,250 cycles apart. -/
def marking (edge : Nat) : State := { ready with stage := { Stage.reset with
  ports := Stage.reset.ports.set 0 { PosPort.reset 1 with
    edges := [edge]
    last := some (104858280, 10000000000)
    before := some (104857000, 10000000000 - 1250)
    marks := [⟨⟨0x06400000, 64, 6400, true⟩, none, false⟩] }
  tracker := { Stage.reset.tracker with treq := 1250 }
  tick := 10000000000
  prevTick := 10000000000 - 1250
  axScan := { AxisS.reset with tk := some 10000000000 } } }

def integrityAfter (o : Answer) : Option Bool := match o with
  | .next t => some t.stage.integrity
  | _ => none

/-- Chapter 10: the edge at 625 cycles passes 40 LSB from its mark; the one at 1,000 cycles is a disagreement. -/
theorem test_mark_passes : (marking (10000000000 - 625)).stage.latch ((marking (10000000000 - 625)).stage.port 0)
      (10000000000 - 625) = 104857640 ∧
    integrityAfter (exec (.markResolve 0) (marking (10000000000 - 625))) = some false := by decide +kernel

theorem test_mark_disagrees : integrityAfter (exec (.markResolve 0) (marking (10000000000 - 250))) = some true := by
  decide +kernel

end Sys2Proof.Tests
end

section
/-!
PROOF. The stream parser at a slot (R32 to R39): what PARSE_SLOT does in each case of Table 2-3 that a statement names,
and obligation O29, assembled from these cases.
-/

namespace Sys2Proof.Machine

/-! ### What the parser reads in its slot -/

/-- The chunk header: the word at the read offset. -/
abbrev State.slotHead (s : State) : Word := (s.mem.words spLanding s.jobs.parser.rd 1).getD 0 0
/-- Body length in words, as the header gives it. -/
abbrev State.slotLen (s : State) : Nat := fld 63 48 s.slotHead
/-- Number of the chunk in the slot. -/
abbrev State.slotSeq (s : State) : Nat := fld 95 64 s.slotHead
/-- Bytes of the slot: header, body and trailer in whole units of 4,096 bytes. -/
abbrev State.slotSize (s : State) : Nat := (s.slotLen + 2 + 255) / 256 * 4096
/-- Header, body and trailer. -/
abbrev State.slotWords (s : State) : List Word := s.mem.words spLanding s.jobs.parser.rd (s.slotLen + 2)
abbrev State.slotTrailer (s : State) : Word := s.slotWords.getD (s.slotLen + 1) 0
abbrev State.slotBody (s : State) : List Word := (s.slotWords.drop 1).take s.slotLen
/-- The check value that the trailer carries. -/
abbrev State.slotCrc (s : State) : BitVec 64 := BitVec.ofNat 64 (fld 63 0 s.slotTrailer)
/-- The check value of header and body. -/
abbrev State.slotSum (s : State) : BitVec 64 := crc64W (s.slotWords.take (s.slotLen + 1))
/-- The read offset behind the slot. -/
abbrev State.slotNext (s : State) : Nat := (s.jobs.parser.rd + s.slotSize) % ringLen
/-- The chunk in the slot before its first record is applied. -/
abbrev State.slotChunk (s : State) (job : BitVec 16) : Chunk :=
  ⟨s, job, s.jobs.parser.ctx, [], 0, recordStore - s.jobs.storeUsed, false⟩

/-- The parser reads a slot of `job` whose header passes row 1 of Table 2-3. -/
structure State.ReadsSlot (s : State) (job : BitVec 16) : Prop where
  bound : s.jobs.parser.job = some job
  runs : s.jobs.parser.stall = none
  fed : s.jobs.parser.fed ≠ 0
  lives : (s.job? job).any (·.st == .aborting) = false
  answers : s.stackReads .a = true
  header : chunkHeaderOk s.slotHead = true

/-- The slot holds a whole chunk: rows 1 to 3 of Table 2-3 pass, and no word of it was lost. -/
structure State.HasChunk (s : State) (job : BitVec 16) : Prop extends s.ReadsSlot job where
  noWrap : bitAt 97 s.slotHead = false
  inRing : s.jobs.parser.rd + 16 * (s.slotLen + 2) ≤ ringLen
  whole : s.slotSize ≤ s.jobs.parser.fed
  undamaged : ∀ w ∈ s.mc.stA.damaged,
    32 * w < s.jobs.parser.rd ∨ s.jobs.parser.rd + s.slotSize ≤ 32 * w
  magic : fld 127 112 s.slotTrailer = 0x5443
  trailerSeq : fld 95 64 s.slotTrailer = s.slotSeq
  trailerTag : fld 103 96 s.slotTrailer = fld 31 24 s.slotHead

/-- The chunk in the slot passes rows 1 to 5 of Table 2-3: only its number remains to be judged. -/
structure State.HasGoodChunk (s : State) (job : BitVec 16) : Prop extends s.HasChunk job where
  crc : s.slotCrc = s.slotSum
  jobField : fld 47 32 s.slotHead = job.toNat
  seqField : fld 31 24 s.slotHead = s.slotSeq % 256
  first : (s.slotSeq == 0) = (fld 7 0 (s.slotBody.getD 0 0) == 1)

/-! ### The state a verdict leaves -/

@[simp] theorem State.stallAt_jobs (s : State) (job : BitVec 16) (row seq off : Nat) :
    (s.stallAt job row seq off).jobs = { s.jobs with parser := { s.jobs.parser with
      stall := some ⟨rowStatus row, seq, s.jobs.parser.rd, off⟩, waitSpace := false } } := by
  simp [State.stallAt]

@[simp] theorem State.onJob_parser (s : State) (id : BitVec 16) (f : Job → Job) :
    (s.onJob id f).jobs.parser = s.jobs.parser := rfl

@[simp] theorem State.onJob_stripes (s : State) (id : BitVec 16) (f : Job → Job) :
    (s.onJob id f).jobs.stripes = s.jobs.stripes := rfl

/-- A job that ends takes the binding of the parser with it and nothing else of the parser (R38). -/
theorem Chunk.accept_parser (c : Chunk) (seq : Nat) (crc : BitVec 64) (next : Nat) :
    (c.accept seq crc next).jobs.parser = { c.s.jobs.parser with
      job := if c.ended then none else c.s.jobs.parser.job
      rd := next, exp := seq + 1, last := some seq, stall := none, waitSpace := false, ctx := c.ctx
      kept := (c.s.jobs.parser.kept ++ [(seq, crc)]).drop (c.s.jobs.parser.kept.length + 1 - 16) } := by
  unfold Chunk.accept
  cases c.ended <;> simp

@[simp] theorem Chunk.accept_stripes (c : Chunk) (seq : Nat) (crc : BitVec 64) (next : Nat) :
    (c.accept seq crc next).jobs.stripes = c.s.jobs.stripes := by
  unfold Chunk.accept
  cases c.ended <;> simp

/-! ### The rows of Table 2-3 that a slot passes, as the tests of `State.parseSlot` -/

section
variable {s : State} {job : BitVec 16}

theorem State.ReadsSlot.not_idle (hs : s.ReadsSlot job) :
    ¬ (s.jobs.parser.stall.isSome = true ∨ s.jobs.parser.fed = 0 ∨ (s.job? job).any (·.st == .aborting) = true ∨
      s.stackReads .a = false) := by
  simp [hs.runs, hs.fed, hs.lives, hs.answers]

theorem State.ReadsSlot.not_row1 (hs : s.ReadsSlot job) : ¬ (!chunkHeaderOk s.slotHead) = true := by
  rw [hs.header]; decide

theorem State.HasChunk.not_wrap (hc : s.HasChunk job) : ¬ bitAt 97 s.slotHead = true :=
  Bool.eq_false_iff.1 hc.noWrap

theorem State.HasChunk.not_row2 (hc : s.HasChunk job) :
    ¬ (s.jobs.parser.fed < s.slotSize ∨ ringLen < s.jobs.parser.rd + 16 * (s.slotLen + 2)) :=
  not_or.2 ⟨Nat.not_lt.2 hc.whole, Nat.not_lt.2 hc.inRing⟩

theorem State.HasChunk.not_damaged (hc : s.HasChunk job) :
    ¬ s.mc.stA.damaged.any (fun w => decide (s.jobs.parser.rd ≤ 32 * w ∧
      32 * w < s.jobs.parser.rd + s.slotSize)) = true := by
  simp only [List.any_eq_true, decide_eq_true_eq]
  rintro ⟨w, hw, hge, hlt⟩
  have hout := hc.undamaged w hw
  omega

theorem State.HasChunk.not_row3 (hc : s.HasChunk job) :
    ¬ (fld 127 112 s.slotTrailer ≠ 0x5443 ∨ fld 95 64 s.slotTrailer ≠ s.slotSeq ∨
      fld 103 96 s.slotTrailer ≠ fld 31 24 s.slotHead) :=
  fun h => h.elim (· hc.magic) fun h => h.elim (· hc.trailerSeq) (· hc.trailerTag)

theorem State.HasGoodChunk.not_row5 (hg : s.HasGoodChunk job) :
    ¬ (fld 47 32 s.slotHead ≠ job.toNat ∨ fld 31 24 s.slotHead ≠ s.slotSeq % 256 ∨
      (s.slotSeq == 0) ≠ (fld 7 0 (s.slotBody.getD 0 0) == 1)) :=
  fun h => h.elim (· hg.jobField) fun h => h.elim (· hg.seqField) (· hg.first)

/-! ### PARSE_SLOT, case by case -/

theorem State.parseSlot_of_wrap (hs : s.ReadsSlot job) (hw : bitAt 97 s.slotHead = true)
    (hf : ringLen - s.jobs.parser.rd ≤ s.jobs.parser.fed) :
    s.parseSlot = s.onJobs fun j => { j with parser := { j.parser with rd := 0 } } := by
  simp only [State.parseSlot, hs.bound]
  rw [if_neg hs.not_idle, if_neg hs.not_row1, if_pos hw, if_neg (Nat.not_lt.2 hf)]

/-- A slot fed only in part, or one that runs past the ring end, fails row 2 of Table 2-3: the parser does not wait
for the rest of it (DEDUCED, log entry 38). -/
theorem State.parseSlot_of_part (hs : s.ReadsSlot job) (hw : bitAt 97 s.slotHead = false)
    (hp : s.jobs.parser.fed < s.slotSize ∨ ringLen < s.jobs.parser.rd + 16 * (s.slotLen + 2)) :
    s.parseSlot = s.stallAt job 2 s.slotSeq 0 := by
  simp only [State.parseSlot, hs.bound]
  rw [if_neg hs.not_idle, if_neg hs.not_row1, if_neg (Bool.eq_false_iff.1 hw), if_pos hp]

theorem State.parseSlot_of_crc_ne (hc : s.HasChunk job) (hne : s.slotCrc ≠ s.slotSum) :
    s.parseSlot = s.stallAt job 4 s.slotSeq (s.slotLen + 1) := by
  simp only [State.parseSlot, hc.bound]
  rw [if_neg hc.not_idle, if_neg hc.not_row1, if_neg hc.not_wrap, if_neg hc.not_row2, if_neg hc.not_damaged,
    if_neg hc.not_row3, if_pos hne]

theorem State.parseSlot_of_repeat (hg : s.HasGoodChunk job) (hlt : s.slotSeq < s.jobs.parser.exp)
    (hkept : s.jobs.parser.kept.contains (s.slotSeq, s.slotCrc) = true) :
    s.parseSlot = s.onJobs fun j => { j with parser := { j.parser with
      rd := s.slotNext, repeats := j.parser.repeats + 1 } } := by
  simp only [State.parseSlot, hg.bound]
  rw [if_neg hg.not_idle, if_neg hg.not_row1, if_neg hg.not_wrap, if_neg hg.not_row2, if_neg hg.not_damaged,
    if_neg hg.not_row3, if_neg (· hg.crc), if_neg hg.not_row5, if_pos hlt, if_pos hkept]

/-- The chunk that is due is applied when its records are sound and no row from 9 on fails (R38, R39). -/
theorem State.parseSlot_of_due (hg : s.HasGoodChunk job) (heq : s.slotSeq = s.jobs.parser.exp) {c : Chunk}
    (hrec : Chunk.records (s.slotLen + 1) (bitAt 96 s.slotHead) s.slotSeq 1 s.slotBody (s.slotChunk job) = .inl c)
    (hbad : c.bad = []) :
    s.parseSlot = c.accept s.slotSeq s.slotCrc s.slotNext := by
  simp only [State.parseSlot, hg.bound]
  rw [if_neg hg.not_idle, if_neg hg.not_row1, if_neg hg.not_wrap, if_neg hg.not_row2, if_neg hg.not_damaged,
    if_neg hg.not_row3, if_neg (· hg.crc), if_neg hg.not_row5, if_neg (Nat.not_lt.2 (Nat.le_of_eq heq.symm)), if_neg (Nat.not_lt.2 (Nat.le_of_eq heq)), hrec]
  simp only [hbad, worst]

theorem reaches_parseSlot {P : State → Prop} (h : P s.parseSlot) : Reaches (exec .parseSlot s) P :=
  ⟨s.parseSlot, exec_parseSlot, h⟩

end

/-- Settles O29: each clause is one case of PARSE_SLOT. That a slot fed only in part stalls, and is not waited for,
is the model's reading of R35 (DEDUCED, log entry 38). -/
theorem slotsAreParsed : Obligations.SlotsAreParsed := by
  intro s job p h len seq size ws t body hjob hstall hfed hlive hread hhead
  have hs : s.ReadsSlot job := ⟨hjob, hstall, hfed, hlive, hread, hhead⟩
  refine ⟨fun hw hf => reaches_parseSlot ?_, fun hw hp => reaches_parseSlot ?_,
    fun hw hring hwhole hdam hmagic htseq httag => ?_⟩
  case refine_1 => rw [State.parseSlot_of_wrap hs hw hf, State.onJobs_jobs]
  case refine_2 => rw [State.parseSlot_of_part hs hw hp, State.stallAt_jobs]; rfl
  have hc : s.HasChunk job := ⟨hs, hw, hring, hwhole, hdam, hmagic, htseq, httag⟩
  refine ⟨fun hne => reaches_parseSlot ?_, fun hcrc hjobf hseqf hfirst => ?_⟩
  case refine_1 => rw [State.parseSlot_of_crc_ne hc hne, State.stallAt_jobs]; rfl
  have hg : s.HasGoodChunk job := ⟨hc, hcrc, hjobf, hseqf, hfirst⟩
  refine ⟨fun hlt hkept => reaches_parseSlot ?_, fun c heq hrec hbad => reaches_parseSlot ?_⟩
  case refine_1 => rw [State.parseSlot_of_repeat hg hlt hkept, State.onJobs_jobs]
  case refine_2 =>
    rw [State.parseSlot_of_due hg heq hrec hbad, Chunk.accept_parser, Chunk.accept_stripes]
    exact ⟨rfl, rfl, rfl, rfl, rfl, rfl, rfl⟩

end Sys2Proof.Machine
end

section
/-!
PROOF. The raster engines and their queue (R88 to R97): what enters and leaves the queue, the check values of a tile,
what TILE_COMPLETE does in each case of R94 and R95, and obligation O31, assembled from these cases.
-/

namespace Sys2Proof.Machine

/-! ### The queue of tiles (R89) -/

theorem mem_enqueue {key : Tile → Nat} {t r : Tile} {q : List Tile} : r ∈ enqueue key t q ↔ r = t ∨ r ∈ q := by
  induction q with
  | nil => simp [enqueue]
  | cons u us ih =>
    by_cases hk : key t < key u
    · simp [enqueue, hk]
    · simp only [enqueue, hk, if_false, List.mem_cons, ih]
      exact or_left_comm

theorem mem_foldl_enqueue {key : Tile → Nat} {r : Tile} {ts q : List Tile} :
    r ∈ ts.foldl (fun q t => enqueue key t q) q ↔ r ∈ ts ∨ r ∈ q := by
  induction ts generalizing q with
  | nil => simp
  | cons t ts ih =>
    rw [List.foldl_cons, ih, mem_enqueue, List.mem_cons, or_left_comm, or_assoc]

section
variable (s : State) (ts : List Tile)

@[simp] theorem State.mem_enqueueAll_queue {r : Tile} :
    r ∈ (s.enqueueAll ts).render.queue ↔ r ∈ ts ∨ r ∈ s.render.queue := mem_foldl_enqueue

@[simp] theorem State.enqueueAll_engine (e : Nat) : (s.enqueueAll ts).render.engine e = s.render.engine e := rfl
@[simp] theorem State.enqueueAll_jobs : (s.enqueueAll ts).jobs = s.jobs := rfl
end

/-! ### Engines -/

@[simp] theorem State.setEngine_jobs (s : State) (e : Nat) (o : Option Tile) : (s.setEngine e o).jobs = s.jobs := rfl

theorem State.setEngine_engine {s : State} {e : Nat} (h : e < s.render.engines.length) (o : Option Tile) :
    (s.setEngine e o).render.engine e = o := by
  simp [State.setEngine, Render.engine, List.getD_eq_getElem?_getD, h]

/-- Taking the tile from one engine gives none to any. -/
theorem State.setEngine_none_idle {s : State} {e n : Nat} (h : e = n ∨ s.render.engine n = none) :
    (s.setEngine e none).render.engine n = none := by
  by_cases hne : e = n
  · subst hne
    by_cases he : e < s.render.engines.length
    · exact State.setEngine_engine he none
    · simp [State.setEngine, Render.engine, List.getD_eq_getElem?_getD, he]
  · simpa [State.setEngine, Render.engine, List.getD_eq_getElem?_getD, hne] using h.resolve_left hne

section
variable (s : State) (r : BitVec 32) (ev : Event)

@[simp] theorem State.quarantineWith_jobs : (s.quarantineWith r ev).jobs = s.jobs :=
  ((State.quarantineWith_fr s r ev).1 .jobs).resolve_left (by decide)

@[simp] theorem State.quarantineWith_render : (s.quarantineWith r ev).render = s.render :=
  ((State.quarantineWith_fr s r ev).1 .render).resolve_left (by decide)
end

@[simp] theorem State.quarantineEngine_jobs (s : State) (e : Nat) : (s.quarantineEngine e).jobs = s.jobs :=
  ((State.quarantineEngine_fr s e).1 .jobs).resolve_left (by decide)

/-- Quarantine takes the tile of one engine and starts none (R97). -/
theorem State.quarantineEngine_idle {s : State} {e n : Nat} (h : e = n ∨ s.render.engine n = none) :
    (s.quarantineEngine e).render.engine n = none := by
  unfold State.quarantineEngine
  cases ht : s.render.engine e with
  | none =>
    rw [State.quarantineWith_render]
    exact h.elim (fun he => he ▸ ht) id
  | some t =>
    rw [State.quarantineWith_render, State.enqueueAll_engine]
    exact State.setEngine_none_idle h

/-- The tile in flight at quarantine is run again, ahead of the passes (R96, R97). -/
theorem State.quarantineEngine_requeues {s : State} {e : Nat} {t : Tile} (h : s.render.engine e = some t) :
    { t with front := true } ∈ (s.quarantineEngine e).render.queue := by
  simp [State.quarantineEngine, h]

theorem State.quarantineEngine_rstate {s : State} {e : Nat} (h : s.rstate (nodeR 1 2 e) = .inService) :
    (s.quarantineEngine e).rstate (nodeR 1 2 e) = .quarantined := by
  unfold State.quarantineEngine
  apply State.quarantineWith_rstate
  cases s.render.engine e with
  | none => exact h
  | some t => exact (State.rstate_of_repair rfl rfl _).trans h

/-! ### The check values of a tile (R93) -/

@[simp] theorem State.onStripe_render (s : State) (id : StripeId) (f : Stripe → Stripe) :
    (s.onStripe id f).render = s.render := rfl

theorem Stripe.tileVal_onTile (x : Stripe) (k t : Nat) {f : TileVal → TileVal}
    (hf : ∀ v, (f v).seg = v.seg ∧ (f v).tile = v.tile) : (x.onTile k t f).tileVal? k t = (x.tileVal? k t).map f := by
  unfold Stripe.tileVal? Stripe.onTile
  induction x.tiles with
  | nil => rfl
  | cons v vs ih =>
    by_cases hv : v.seg = k ∧ v.tile = t
    · simp [hv, hf]
    · have hv' : (v.seg == k && v.tile == t) = false := by simpa using hv
      rw [List.map_cons, if_neg hv, List.find?_cons, hv', List.find?_cons, hv']
      exact ih

/-- The check values kept for a tile of a held stripe. -/
def State.tileVal? (s : State) (id : StripeId) (k t : Nat) : Option TileVal :=
  (s.stripe? id).bind (·.tileVal? k t)

theorem State.tileVal_of_jobs {s u : State} (h : u.jobs = s.jobs) (id : StripeId) (k t : Nat) :
    u.tileVal? id k t = s.tileVal? id k t := by
  unfold State.tileVal?
  rw [State.stripe_of_jobs h]

theorem State.tileVal_onStripe_tile {s : State} {id : StripeId} {x : Stripe} {k t : Nat} {v : TileVal}
    {f : TileVal → TileVal} (hx : s.stripe? id = some x) (hv : x.tileVal? k t = some v)
    (hf : ∀ v, (f v).seg = v.seg ∧ (f v).tile = v.tile) :
    (s.onStripe id (·.onTile k t f)).tileVal? id k t = some (f v) := by
  have hafter : (s.onStripe id (·.onTile k t f)).stripe? id = some (x.onTile k t f) :=
    State.stripe_onStripe_self hx fun _ => rfl
  unfold State.tileVal?
  rw [hafter, Option.bind_some, Stripe.tileVal_onTile x k t hf, hv, Option.map_some]

/-! ### The landing pass queues its next segment (R89) -/

theorem Stripe.segTiles_of {x : Stripe} {k : Nat} {pass : TilePass} {r : Tile} (h : r ∈ x.segTiles k pass) :
    r.st = x.id ∧ r.pass = pass := by
  unfold Stripe.segTiles at h
  obtain ⟨t, -, rfl⟩ := List.mem_map.1 h
  exact ⟨rfl, rfl⟩

/-- Nothing is queued, or the coding position moves on and landing-pass tiles of the stripe enter the queue. -/
theorem State.queueLanding_cases (s : State) (id : StripeId) :
    s.queueLanding id = s ∨ ∃ q ts, (∀ r ∈ ts, r.st = id ∧ r.pass = .landing) ∧
      s.queueLanding id = (s.onStripe id fun y => { y with landNext := q }).enqueueAll ts := by
  unfold State.queueLanding
  cases hx : s.stripe? id with
  | none => exact .inl rfl
  | some x =>
    dsimp only
    split
    · exact .inl rfl
    · refine .inr ⟨_, _, fun r hr => ?_, rfl⟩
      split at hr
      · exact absurd hr List.not_mem_nil
      · exact State.stripe_id hx ▸ Stripe.segTiles_of hr

section
variable (s : State) (id : StripeId)

@[simp] theorem State.queueLanding_engine (e : Nat) : (s.queueLanding id).render.engine e = s.render.engine e := by
  rcases s.queueLanding_cases id with h | ⟨q, ts, -, h⟩ <;> rw [h]
  rfl

theorem State.queueLanding_keeps_queued {r : Tile} (hr : r ∈ s.render.queue) : r ∈ (s.queueLanding id).render.queue := by
  rcases s.queueLanding_cases id with h | ⟨q, ts, -, h⟩ <;> rw [h]
  · exact hr
  · exact (State.mem_enqueueAll_queue ..).2 (.inr hr)

theorem State.queueLanding_queues_landing {r : Tile} (hr : r ∈ (s.queueLanding id).render.queue) :
    r ∈ s.render.queue ∨ r.st = id ∧ r.pass = .landing := by
  rcases s.queueLanding_cases id with h | ⟨q, ts, hts, h⟩ <;> rw [h] at hr
  · exact .inl hr
  · exact ((State.mem_enqueueAll_queue ..).1 hr).symm.imp_right (hts r)

@[simp] theorem State.queueLanding_tileVal (i : StripeId) (k t : Nat) :
    (s.queueLanding id).tileVal? i k t = s.tileVal? i k t := by
  rcases s.queueLanding_cases id with h | ⟨q, ts, -, h⟩ <;> rw [h]
  rw [State.tileVal_of_jobs (State.enqueueAll_jobs ..)]
  unfold State.tileVal?
  rw [State.stripe_onStripe s id i (fun y => { y with landNext := q }) (fun _ => rfl)]
  cases s.stripe? i with
  | none => rfl
  | some x => dsimp only [Option.map_some, Option.bind_some]; split <;> rfl

@[simp] theorem State.queueLanding_rstate (n : BitVec 32) : (s.queueLanding id).rstate n = s.rstate n :=
  State.rstate_of_repair (((State.queueLanding_fr s id).1 .repair).resolve_left (by decide))
    (((State.queueLanding_fr s id).1 .link).resolve_left (by decide)) n
end

/-! ### An engine without a tile gets none from what TILE_COMPLETE does -/

@[simp] theorem State.landingDone_engine (s : State) (id : StripeId) (e : Nat) :
    (s.landingDone id).render.engine e = s.render.engine e := by
  unfold State.landingDone
  split
  · rfl
  · split
    · rw [State.raiseSt_render]; rfl
    · rfl

theorem getD_dropped_none {es : List (Option Tile)} (h : es.getD e none = none) (p : Option Tile → Bool) :
    (es.map fun w => if p w then none else w).getD e none = none := by
  rw [List.getD_eq_getElem?_getD] at h ⊢
  rw [List.getElem?_map]
  cases hw : es[e]? with
  | none => rfl
  | some w =>
    obtain rfl : w = none := by simpa [hw] using h
    simp

section
variable {s : State} {e : Nat}

/-- Withholding a segment takes its landing-pass tiles from the engines (R95). -/
theorem State.withhold_idle (h : s.render.engine e = none) (id : StripeId) (k : Nat) :
    (s.withhold id k).render.engine e = none := by
  unfold State.withhold
  cases s.stripe? id with
  | none => exact h
  | some x =>
    rw [State.landingDone_engine, State.queueLanding_engine]
    split
    · exact getD_dropped_none h _
    · exact getD_dropped_none h _

theorem State.unresolved_idle (h : s.render.engine e = none) (x : Stripe) (t : Tile) (n : Nat) :
    (s.unresolved x t n).render.engine e = none := by
  apply State.withhold_idle
  rw [State.faultSt_render]
  exact h

@[simp] theorem State.rejudge_render (s : State) (x : Stripe) (k : Nat) : (s.rejudge x k).1.render = s.render :=
  ((State.rejudge_fr s x k).1 .render).resolve_left (by decide)

theorem State.thirdRun_idle (h : s.render.engine e = none) (x : Stripe) (t : Tile) (n : Nat) (val : BitVec 64) :
    (s.thirdRun x t n val).render.engine e = none := by
  have hq (m : Nat) (ev : Event) : ((s.quarantineEngine m).faultSt x.id ev).render.engine e = none := by
    rw [State.faultSt_render]
    exact State.quarantineEngine_idle (.inr h)
  unfold State.thirdRun
  dsimp only
  split
  case h_2 => exact h
  case h_1 c l _ _ =>
    split
    · exact hq ..
    · split
      · split
        · exact State.unresolved_idle (by rw [State.rejudge_render]; exact hq ..) ..
        · rw [State.onStripe_render, State.rejudge_render]
          exact hq ..
      · exact State.unresolved_idle h ..
end

/-! ### A tile is complete (R93 to R95) -/

section
variable {s : State} {e : Nat} {t : Tile} {x : Stripe}

/-- An engine that has completed its tile is free, however the tile was resolved. -/
theorem State.tileDone_engine (s : State) (e : Nat) (t : Tile) (obs : Option (BitVec 64)) :
    (s.tileDone e t obs).render.engine e = none := by
  have hfree : (s.setEngine e none).render.engine e = none := State.setEngine_none_idle (.inl rfl)
  unfold State.tileDone
  dsimp only
  split
  · exact hfree
  · split
    · exact hfree
    · split
      · exact State.thirdRun_idle hfree ..
      · split <;> exact hfree

theorem State.tileDone_of_check {v : TileVal} {obs : Option (BitVec 64)} (hx : s.stripe? t.st = some x)
    (hv : x.tileVal? t.seg t.tile = some v) (hp : t.pass = .check) :
    (s.tileDone e t obs).tileVal? t.st t.seg t.tile =
        some { v with check := some (obs.getD (x.tileCheck t.seg t.tile), e) } ∧
      (s.tileDone e t obs).render.queue = s.render.queue := by
  have hdone : s.tileDone e t obs = (s.setEngine e none).onStripe t.st (·.onTile t.seg t.tile fun v =>
      { v with check := some (obs.getD (x.tileCheck t.seg t.tile), e) }) := by
    simp only [State.tileDone, hx, hp]
  rw [hdone]
  exact ⟨State.tileVal_onStripe_tile hx hv fun _ => ⟨rfl, rfl⟩, rfl⟩

/-- The landing pass finds the stored value (R94). -/
theorem State.tileDone_of_agree {v : TileVal} {obs : Option (BitVec 64)} (hx : s.stripe? t.st = some x)
    (hv : x.tileVal? t.seg t.tile = some v) (hp : t.pass ≠ .check) (h3 : t.third = false)
    (heq : v.check.map (·.1) = some (obs.getD (x.tileCheck t.seg t.tile))) :
    (s.tileDone e t obs).tileVal? t.st t.seg t.tile =
        some { v with land := some (obs.getD (x.tileCheck t.seg t.tile), e), good := true } ∧
      (s.tileDone e t obs).render.queue = s.render.queue := by
  have hdone : s.tileDone e t obs = (s.setEngine e none).onStripe t.st (·.onTile t.seg t.tile fun v =>
      { v with land := some (obs.getD (x.tileCheck t.seg t.tile), e), good := true }) := by
    simp [State.tileDone, hx, h3, hv, heq]
  rw [hdone]
  exact ⟨State.tileVal_onStripe_tile hx hv fun _ => ⟨rfl, rfl⟩, rfl⟩

/-- The two values differ: the tile is run a third time, ahead of the passes (R95). -/
theorem State.tileDone_of_differ {v : TileVal} {obs : Option (BitVec 64)} (hx : s.stripe? t.st = some x)
    (hv : x.tileVal? t.seg t.tile = some v) (hp : t.pass ≠ .check) (h3 : t.third = false)
    (hne : v.check.map (·.1) ≠ some (obs.getD (x.tileCheck t.seg t.tile))) :
    (s.tileDone e t obs).tileVal? t.st t.seg t.tile =
        some { v with land := some (obs.getD (x.tileCheck t.seg t.tile), e) } ∧
      { t with third := true, front := true } ∈ (s.tileDone e t obs).render.queue := by
  have hdone : s.tileDone e t obs = ((s.setEngine e none).onStripe t.st (·.onTile t.seg t.tile fun v =>
      { v with land := some (obs.getD (x.tileCheck t.seg t.tile), e) })).enqueueAll
        [{ t with third := true, front := true }] := by
    simp [State.tileDone, hx, h3, hv, hne]
  rw [hdone, State.tileVal_of_jobs (State.enqueueAll_jobs ..), State.mem_enqueueAll_queue]
  exact ⟨State.tileVal_onStripe_tile hx hv fun _ => ⟨rfl, rfl⟩, .inl (List.mem_singleton.2 rfl)⟩

/-- The third run gives the check-pass value: the tile is good, and the engine of the landing pass leaves dispatch
(R95, R97). -/
theorem State.tileDone_of_third {v : TileVal} {c l : BitVec 64 × Nat} (hx : s.stripe? t.st = some x)
    (hv : x.tileVal? t.seg t.tile = some v) (hp : t.pass ≠ .check) (h3 : t.third = true) (hc : v.check = some c)
    (hl : v.land = some l) (hin : s.rstate (nodeR 1 2 l.2) = .inService) :
    (s.tileDone e t (some c.1)).tileVal? t.st t.seg t.tile = some { v with good := true } ∧
      (s.tileDone e t (some c.1)).rstate (nodeR 1 2 l.2) = .quarantined := by
  generalize hu : ((s.setEngine e none).quarantineEngine l.2).faultSt t.st
    (rasterEvent ST.jobRasterMismatch t.seg t.tile l.2 0 0) = u
  have hdone : s.tileDone e t (some c.1) = u.onStripe t.st (·.onTile t.seg t.tile fun w => { w with good := true }) := by
    simp [State.tileDone, State.thirdRun, hx, hv, h3, hc, hl, State.stripe_id hx, hu]
  have hxu : u.stripe? t.st = some x := by
    rw [← hx]
    exact State.stripe_of_jobs (by simp [← hu]) t.st
  have hq : u.rstate (nodeR 1 2 l.2) = .quarantined := by
    rw [← hu, State.rstate_of_repair (State.faultSt_repair ..) (State.faultSt_link ..)]
    exact State.quarantineEngine_rstate hin
  rw [hdone]
  exact ⟨State.tileVal_onStripe_tile hxu hv fun _ => ⟨rfl, rfl⟩, (State.rstate_of_repair rfl rfl _).trans hq⟩

end

/-! ### The rows -/

section
variable {s : State} {e : BitVec 6} {t : Tile} {x : Stripe} {P : State → Prop}

theorem reaches_tileDispatch (hact : s.engines.contains e.toNat = true) (hfree : s.render.engine e.toNat = none)
    (hfind : s.render.queue.find? (s.mayRun e.toNat) = some t) (hx : s.stripe? t.st = some x)
    (hok : s.badBlocks x t.seg = [])
    (h : P ((s.onRender fun r => { r with queue := r.queue.erase t }).setEngine e.toNat (some { t with since := s.now }))) :
    Reaches (exec (.tileDispatch e) s) P := by
  refine ⟨_, ?_, h⟩
  simp only [exec_tileDispatch, execTileDispatch, hact, hfree, hfind, hx, hok]
  rfl

theorem reaches_tileComplete {obs : Option (BitVec 64)} (ht : s.render.engine e.toNat = some t)
    (h : P ((s.tileDone e.toNat t obs).queueLanding t.st)) : Reaches (exec (.tileComplete e obs) s) P :=
  ⟨_, by simp only [exec_tileComplete, execTileComplete, ht], h⟩

theorem exec_tileWatchdogExpiry_of_late (ht : s.render.engine e.toNat = some t) (hx : s.stripe? t.st = some x)
    (hlate : t.since + x.watchdog t < s.now) : exec (.tileWatchdogExpiry e) s = .next (s.quarantineEngine e.toNat) := by
  simp only [exec_tileWatchdogExpiry, execTileWatchdogExpiry, ht, hx, if_pos hlate]

theorem exec_tileWatchdogExpiry_of_early (ht : s.render.engine e.toNat = some t) (hx : s.stripe? t.st = some x)
    (hearly : s.now ≤ t.since + x.watchdog t) : exec (.tileWatchdogExpiry e) s = .next s := by
  simp only [exec_tileWatchdogExpiry, execTileWatchdogExpiry, ht, hx, if_neg (Nat.not_lt.2 hearly)]

theorem exec_engineParityError_of_engine (he : e.toNat < 34) :
    exec (.engineParityError e) s = .next (s.quarantineEngine e.toNat) := by
  simp only [exec_engineParityError, execEngineParityError, if_pos he]

end

/-- Settles O31. The clause on TILE_COMPLETE follows R94 and R95 through the cases of `State.tileDone`; the landing
pass may queue its next segment in the same step (R89). -/
theorem rasterTiles : Obligations.RasterTiles := by
  intro s e he
  refine ⟨fun t x hact hfree hfind hx hok => reaches_tileDispatch hact hfree hfind hx hok ?_,
    fun t x v obs ht hx hv => reaches_tileComplete ht ⟨?_, fun hp => ?_, fun hp h3 heq => ?_, fun hp h3 hne => ?_⟩,
    fun t c l x ht hx hc hl hp h3 hin => reaches_tileComplete ht ?_,
    fun t x ht hx => ⟨fun hlate hin => ⟨_, exec_tileWatchdogExpiry_of_late ht hx hlate, ?_⟩,
      fun hearly => ⟨s, exec_tileWatchdogExpiry_of_early ht hx hearly, rfl⟩⟩,
    fun hlt hin => ⟨_, exec_engineParityError_of_engine hlt, ?_⟩⟩
  case refine_1 => exact ⟨State.setEngine_engine he _, rfl, rfl⟩
  case refine_2 => rw [State.queueLanding_engine, State.tileDone_engine]
  case refine_3 =>
    obtain ⟨hval, hqueue⟩ := State.tileDone_of_check (e := e.toNat) (obs := obs) hx hv hp
    exact ⟨(State.queueLanding_tileVal ..).trans hval, fun r hr => hqueue ▸ State.queueLanding_queues_landing _ _ hr⟩
  case refine_4 =>
    obtain ⟨hval, hqueue⟩ := State.tileDone_of_agree (e := e.toNat) hx hv hp h3 heq
    exact ⟨(State.queueLanding_tileVal ..).trans hval, fun r hr => hqueue ▸ State.queueLanding_queues_landing _ _ hr⟩
  case refine_5 =>
    obtain ⟨hval, hmem⟩ := State.tileDone_of_differ (e := e.toNat) hx hv hp h3 hne
    exact ⟨(State.queueLanding_tileVal ..).trans hval, State.queueLanding_keeps_queued _ _ hmem⟩
  case refine_6 =>
    obtain ⟨v, hv, hvc⟩ := Option.bind_eq_some_iff.1 hc
    rw [hv, Option.bind_some] at hl
    obtain ⟨hval, hout⟩ := State.tileDone_of_third (e := e.toNat) hx hv hp h3 hvc hl hin
    exact ⟨congrArg (Option.map (·.good)) ((State.queueLanding_tileVal ..).trans hval),
      (State.queueLanding_rstate ..).trans hout⟩
  case refine_7 =>
    exact ⟨State.quarantineEngine_idle (.inl rfl), State.quarantineEngine_requeues ht,
      State.quarantineEngine_rstate hin, State.quarantineEngine_jobs ..⟩
  case refine_8 =>
    exact ⟨State.quarantineEngine_idle (.inl rfl), State.quarantineEngine_rstate hin,
      fun t ht => State.quarantineEngine_requeues ht⟩

end Sys2Proof.Machine
end

section
/-!
PROOF. ACK records (R315) of a run whose flash indices begin below 0, and the refutation of obligation O43 by one such
run. An ACK record forms its flash index as a signed number, but `State.takeStatus` looks for it under the natural
number nearest to it: a status of flash -1 is taken as the status of flash 0. Runs that STRIPE.GO or a re-entry starts
begin at flash 0 or later, and the clause of O43 about ACK records does not ask this of the run.
-/

namespace Sys2Proof.Machine

/-! ### The counterexample -/

/-- Lane 0 carries group 0 in the latched map. -/
def groupZeroMap : Latched := ⟨0, 0, 0, [], [], 0, 625, 0, [some 0], 0, 0, []⟩

/-- A running stripe of a beams target. -/
def beamsStripe : Stripe :=
  { Stripe.fresh (Job.opened ⟨.hostA, 0⟩ 1 0 false none) ⟨0, 0, 0, 1, false, false, false, false, 0, 0, [], []⟩ 2 1 0
      false 0 0 with
    st := .running, latched := some groupZeroMap }

/-- A run that began at flash -1 and has placed flash 0: the status of flash 0 is awaited from lane 0. -/
def runFromMinusOne : Run where
  st := beamsStripe.id
  qs := 0
  f0 := -1
  yref := 0
  sense := 1
  xcref := 0
  crossmax := 0
  tlb := 0
  goAt := 0
  permitAt := 0
  next := 1
  placed := false
  mPrev := none
  fix := none
  flash := FlashAcc.none
  boundary := none
  causes := []
  halt := none
  reentryOk := false
  awaiting := [(0, 0, 0)]
  taken := []
  deadGroups := []
  storeGroup := none
  stuckOff := []
  recorded := 0
  laneBlank := []
  runNo := 0

/-- The run is under way, and the return lanes are in block lock. -/
def awaitsFlashZero : State :=
  { State.reset with
    jobs := { Jobs.reset with stripes := [beamsStripe] }
    play := { Play.reset with run := some runFromMinusOne }
    link := { Link.reset with rets := List.replicate 4 { RetLane.reset with lock := true } } }

/-- An ACK record of the flashes -1 (FLASH is 0xFFFFFFFF) and -2: every lane reports FIRED. -/
def ackOfMinusOne : BitVec 256 := 0x1EAB00000000001111111111111111111111111111111111FFFFFFFF00000001

/-! ### What the model makes of it -/

theorem run_awaitsFlashZero : awaitsFlashZero.run? = some (runFromMinusOne, beamsStripe) := rfl

theorem recordOk_ackOfMinusOne : recordOk ackOfMinusOne = true := by decide +kernel

theorem fullFlash_ackOfMinusOne : fullFlash (fld 63 32 ackOfMinusOne) runFromMinusOne.next = -1 := by decide +kernel

/-- The record leaves no status awaited, though it carries none of flash 0. -/
theorem awaiting_after_ackOfMinusOne :
    (awaitsFlashZero.record 0 ackOfMinusOne 1 (·.ack 0 ackOfMinusOne)).play.run.map (·.awaiting) = some [] := by
  decide +kernel

/-- Refutes O43, in its clause on ACK records: the record speaks of the flashes -1 and -2, and the status of flash 0,
which that clause says is still awaited, is awaited no more. -/
theorem not_linkRecords : ¬ Obligations.LinkRecords := by
  unfold Obligations.LinkRecords
  intro h
  obtain ⟨-, hgood⟩ := h awaitsFlashZero 0 ackOfMinusOne
  obtain ⟨hack, -⟩ := hgood rfl recordOk_ackOfMinusOne
  have hopen : ∀ y ∈ runFromMinusOne.awaiting, runFromMinusOne.flashAt runFromMinusOne.qs ≤ y.2.1 ∧
      y.2.1 < runFromMinusOne.next ∧ ∀ u ∈ runFromMinusOne.taken, ¬ (u.1 = y.1 ∧ u.2.1 = y.2.1) := by decide
  obtain ⟨t, hstep, -, -, p, hp, hawaits⟩ :=
    hack (by decide) runFromMinusOne beamsStripe run_awaitsFlashZero rfl rfl (by decide +kernel)
      (List.forall_mem_nil _) hopen
  have ht : awaitsFlashZero.record 0 ackOfMinusOne 1 (·.ack 0 ackOfMinusOne) = t :=
    Host.Outcome.next.inj (exec_ackRecord.symm.trans hstep)
  have hnone : p.awaiting = [] := by
    have hall := awaiting_after_ackOfMinusOne
    rw [ht, hp] at hall
    exact Option.some.inj hall
  have hstill : (0, 0, 0) ∈ p.awaiting := by
    rw [hawaits, fullFlash_ackOfMinusOne]
    exact ⟨List.mem_singleton.2 rfl, fun ⟨_, _, hflash⟩ => absurd hflash (by decide)⟩
  rw [hnone] at hstill
  exact absurd hstill List.not_mem_nil

end Sys2Proof.Machine
end

section
/-!
PROOF. A camera frame from FV to its publication (R331, R338 to R346): what a port's record holds after an update of
it, what the result ring, a drop and the send window leave of it, each row of the frame in the case a statement names,
and obligation O47, assembled from these cases.
-/

namespace Sys2Proof.Machine

/-! ### The record of a port -/

section
variable {s : State} {n : Nat}

theorem State.onCam_cam (h : n < s.cams.cams.length) (f : Cam → Cam) : (s.onCam n f).cam n = f (s.cam n) := by
  simp [State.onCam, State.cam, h]

/-- A port that does not exist has no record to change. -/
theorem State.onCam_cam_cases (s : State) (n : Nat) (f : Cam → Cam) :
    (s.onCam n f).cam n = f (s.cam n) ∨ (s.onCam n f).cam n = s.cam n := by
  by_cases h : n < s.cams.cams.length
  · exact .inl (State.onCam_cam h f)
  · exact .inr (by simp [State.onCam, State.cam, h])

@[simp] theorem State.onCam_length (s : State) (n : Nat) (f : Cam → Cam) :
    (s.onCam n f).cams.cams.length = s.cams.cams.length := by
  simp [State.onCam]

theorem State.cam_of_cams {t : State} (h : t.cams = s.cams) (n : Nat) : t.cam n = s.cam n := by
  rw [State.cam, h, State.cam]

/-- What may not change the cameras leaves every record. -/
theorem Fr.cam_eq {ps : List Part} {t : State} (h : Fr ps s t) (hps : .cams ∉ ps) (n : Nat) : t.cam n = s.cam n :=
  State.cam_of_cams ((h.1 .cams).resolve_left hps) n

@[simp] theorem State.draw_cam (s : State) (n : Nat) : s.draw.cam n = s.cam n := rfl

@[simp] theorem State.raise_cam (s : State) (e : Event) (n : Nat) : (s.raise e).cam n = s.cam n :=
  State.cam_of_cams (State.raise_cams ..) n

@[simp] theorem State.align_cam (s : State) (m : Nat) (found : List (Template × Located)) (n : Nat) :
    (s.align m found).cam n = s.cam n :=
  (State.align_fr ..).cam_eq (by decide) n

@[simp] theorem State.gainRetry_cam (s : State) (m num n : Nat) : (s.gainRetry m num).cam n = s.cam n :=
  (State.gainRetry_fr ..).cam_eq (by decide) n

@[simp] theorem State.gainFrame_cam (s : State) (m num : Nat) (good : Bool) (spots : List Nat) (n : Nat) :
    (s.gainFrame m num good spots).cam n = s.cam n :=
  (State.gainFrame_fr ..).cam_eq (by decide) n

@[simp] theorem State.setLocQueue_cam (s : State) (q : Cams → List (Nat × Nat)) (n : Nat) :
    (s.onCams fun c => { c with locQueue := q c }).cam n = s.cam n := rfl

@[simp] theorem State.setBusy_cam (s : State) (b : Option (Nat × Nat)) (n : Nat) :
    (s.onCams fun c => { c with busy := b }).cam n = s.cam n := rfl

@[simp] theorem State.gainEdge_cams (s : State) (m : Nat) : (s.gainEdge m).cams = s.cams :=
  ((State.gainEdge_fr s m).1 .cams).resolve_left (by decide)

@[simp] theorem State.gainEdge_cam (s : State) (m n : Nat) : (s.gainEdge m).cam n = s.cam n :=
  State.cam_of_cams (State.gainEdge_cams ..) n

/-- The pipeline takes a line as its work; the entry stays until the line is complete (R338). -/
theorem Cams.take_cams (c : Cams) : c.take.cams = c.cams := by
  unfold Cams.take
  split
  · rfl
  · dsimp only
    split
    · rfl
    · split <;> rfl

@[simp] theorem State.takeLine_cam (s : State) (n : Nat) : (s.onCams (·.take)).cam n = s.cam n := by
  rw [State.cam, State.onCams_cams, Cams.take_cams, State.cam]
end

/-! ### What the ring, a drop and the send window leave of a record -/

/-- Two records agree on their frames: on what FV, a drop and a publication write. -/
structure Cam.SameFrames (c d : Cam) : Prop where
  inFrame : d.inFrame = c.inFrame
  published : d.published = c.published
  drops : d.drops = c.drops
  lastDrop : d.lastDrop = c.lastDrop
  work : d.work = c.work

theorem Cam.SameFrames.refl (c : Cam) : c.SameFrames c := ⟨rfl, rfl, rfl, rfl, rfl⟩

theorem Cam.SameFrames.trans {c d e : Cam} (h : c.SameFrames d) (k : d.SameFrames e) : c.SameFrames e :=
  ⟨k.inFrame.trans h.inFrame, k.published.trans h.published, k.drops.trans h.drops, k.lastDrop.trans h.lastDrop,
    k.work.trans h.work⟩

/-- The record once its `k` oldest frames have left. -/
def Cam.without (k : Nat) (c : Cam) : Cam := { c with work := c.work.drop k }

theorem Cam.without_without (c : Cam) (j k : Nat) : (c.without j).without k = c.without (j + k) := by
  simp [Cam.without]

theorem Cam.SameFrames.without {c d : Cam} (h : c.SameFrames d) (k : Nat) : (c.without k).SameFrames (d.without k) :=
  ⟨h.inFrame, h.published, h.drops, h.lastDrop, congrArg (List.drop k) h.work⟩

section
variable (s : State) (n : Nat)

theorem State.onCam_sameFrames {f : Cam → Cam} (h : ∀ c : Cam, c.SameFrames (f c)) :
    (s.cam n).SameFrames ((s.onCam n f).cam n) := by
  rcases State.onCam_cam_cases s n f with hc | hc <;> rw [hc]
  · exact h _
  · exact .refl _

theorem State.ringPut_sameFrames (ws : List Word) : (s.cam n).SameFrames ((s.ringPut n ws).cam n) := by
  induction ws generalizing s with
  | nil => exact .refl _
  | cons w ws ih =>
    have hword := State.onCam_sameFrames
      (s.write (s.cam n).ringSpace ((s.cam n).ringBase.toNat + 16 * (s.cam n).ringWp) (wordBytes w)) n
      (f := fun c => { c with ringWp := (c.ringWp + 1) % c.ringWords }) fun _ => ⟨rfl, rfl, rfl, rfl, rfl⟩
    rw [(State.write_fr ..).cam_eq (by decide)] at hword
    exact hword.trans (ih _)

/-- A frame without ring words is put into no ring. -/
theorem State.ringPut_if_sameFrames (p : Prop) [Decidable p] (ws : List Word) :
    (s.cam n).SameFrames ((if p then s else s.ringPut n ws).cam n) := by
  split
  · exact .refl _
  · exact State.ringPut_sameFrames ..

theorem State.onCam_tail_sameFrames {c : Cam} {f : CamFrame} {fs : List CamFrame} (h : c.SameFrames (s.cam n))
    (hwork : c.work = f :: fs) :
    ∃ k, (c.without k).SameFrames ((s.onCam n fun c => { c with work := fs }).cam n) := by
  rcases State.onCam_cam_cases s n fun c => { c with work := fs } with hc | hc <;> rw [hc]
  · exact ⟨1, h.inFrame, h.published, h.drops, h.lastDrop, by simp [Cam.without, hwork]⟩
  · exact ⟨0, h⟩

/-- Dropped frames leave, and only from the head of the list (R339). -/
theorem State.flushDrops_sameFrames (fuel : Nat) :
    ∃ k, ((s.cam n).without k).SameFrames ((s.flushDrops n fuel).cam n) := by
  induction fuel generalizing s with
  | zero => exact ⟨0, .refl _⟩
  | succ fuel ih =>
    unfold State.flushDrops
    split
    · exact ⟨0, .refl _⟩
    · next f fs hwork =>
      split
      · exact ⟨0, .refl _⟩
      · next cause _ =>
        obtain ⟨j, hleave⟩ := State.onCam_tail_sameFrames _ n (State.ringPut_if_sameFrames s n (f.reserved = 0)
          [recordHead 6 n 1 f.num f.gen.toNat cause]) hwork
        obtain ⟨k, hrest⟩ := ih _
        exact ⟨j + k, Cam.without_without .. ▸ (hleave.without k).trans hrest⟩

theorem State.settleCam_sameFrames : (s.cam n).SameFrames ((s.settleCam n).cam n) :=
  State.onCam_sameFrames s n fun c => by split <;> exact ⟨rfl, rfl, rfl, rfl, rfl⟩

theorem State.flushSettle_sameFrames (fuel : Nat) :
    ∃ k, ((s.cam n).without k).SameFrames (((s.flushDrops n fuel).settleCam n).cam n) := by
  obtain ⟨k, hflush⟩ := State.flushDrops_sameFrames s n fuel
  exact ⟨k, hflush.trans (State.settleCam_sameFrames ..)⟩

theorem State.nextXfer_sameFrames : (s.cam n).SameFrames ((s.nextXfer n).cam n) := by
  unfold State.nextXfer
  dsimp only
  split <;> exact State.onCam_sameFrames s n fun _ => ⟨rfl, rfl, rfl, rfl, rfl⟩

theorem State.openWindow_sameFrames : (s.cam n).SameFrames ((s.openWindow n).cam n) := by
  unfold State.openWindow
  dsimp only
  split
  · split
    · exact State.onCam_sameFrames s n fun _ => ⟨rfl, rfl, rfl, rfl, rfl⟩
    · exact .refl _
  · split
    · exact State.nextXfer_sameFrames s n
    · exact .refl _

@[simp] theorem State.nextXfer_locQueue : (s.nextXfer n).cams.locQueue = s.cams.locQueue := by
  unfold State.nextXfer
  dsimp only
  split <;> rfl

@[simp] theorem State.openWindow_locQueue : (s.openWindow n).cams.locQueue = s.cams.locQueue := by
  unfold State.openWindow
  dsimp only
  split
  · split <;> rfl
  · split
    · exact State.nextXfer_locQueue s n
    · rfl
end

/-- A drop is counted with its cause (R339). -/
theorem State.dropFrame_counts {s : State} {n : Nat} (h : n < s.cams.cams.length) (num cause : Nat) :
    ((s.dropFrame n num cause).cam n).lastDrop = cause ∧
      ((s.dropFrame n num cause).cam n).drops = satInc 64 (s.cam n).drops := by
  unfold State.dropFrame
  dsimp only
  rw [State.gainRetry_cam]
  generalize hmark : State.onCams _ _ = s1
  have hcounts : (s1.cam n).lastDrop = cause ∧ (s1.cam n).drops = satInc 64 (s.cam n).drops := by
    rw [← hmark, State.setLocQueue_cam, State.onCam_cam h]
    exact ⟨rfl, rfl⟩
  obtain ⟨k, hsame⟩ := State.flushSettle_sameFrames s1 n (s1.cam n).work.length
  rw [hsame.lastDrop, hsame.drops]
  exact hcounts

/-- Generations that come into force touch nothing else of a record (R336). -/
theorem Cam.generations_eq (c : Cam) (num : Nat) :
    ∃ g m q, c.generations num = { c with curGen := g, mixFrom := m, genQueue := q } := by
  refine List.foldlRecOn c.genQueue _
    (motive := fun k : Cam => ∃ g m q, k = { c with curGen := g, mixFrom := m, genQueue := q })
    ⟨c.curGen, c.mixFrom, c.genQueue, rfl⟩ ?_
  rintro _ ⟨g, m, q, rfl⟩ e -
  split <;> exact ⟨_, _, _, rfl⟩

section
variable (c : Cam) (num : Nat)

@[simp] theorem Cam.generations_running : (c.generations num).running = c.running := by
  obtain ⟨_, _, _, h⟩ := c.generations_eq num; rw [h]

@[simp] theorem Cam.generations_draining : (c.generations num).draining = c.draining := by
  obtain ⟨_, _, _, h⟩ := c.generations_eq num; rw [h]

@[simp] theorem Cam.generations_left : (c.generations num).left = c.left := by
  obtain ⟨_, _, _, h⟩ := c.generations_eq num; rw [h]

@[simp] theorem Cam.generations_work : (c.generations num).work = c.work := by
  obtain ⟨_, _, _, h⟩ := c.generations_eq num; rw [h]

@[simp] theorem Cam.generations_ringWords : (c.generations num).ringWords = c.ringWords := by
  obtain ⟨_, _, _, h⟩ := c.generations_eq num; rw [h]

@[simp] theorem Cam.generations_ringFree : (c.generations num).ringFree = c.ringFree := by
  obtain ⟨_, _, _, h⟩ := c.generations_eq num; rw [h]; rfl

@[simp] theorem Cam.generations_setWords : (c.generations num).setWords = c.setWords := by
  obtain ⟨_, _, _, h⟩ := c.generations_eq num; rw [h]; rfl
end

/-! ### The rows of a frame -/

section
variable {s : State} {cam : BitVec 2} {c : Cam}

theorem reaches_of_next {a : Answer} {t : State} {P : State → Prop} (h : a = .next t) (hP : P t) : Reaches a P :=
  ⟨t, h, hP⟩

/-- FV on a running port: the frame is taken where the ring and the locator have room (R339, R340, R345). -/
theorem exec_camFrameStart_taken (hc : s.cam cam.toNat = c) (hpresent : c.present = true) (hrun : c.running = true)
    (hdrain : c.draining = false) (hleft : c.left ≠ some 0) (hroom : c.ringWords = 0 ∨ c.setWords ≤ c.ringFree)
    (hregions : s.cams.regions < 4) : ∃ f : CamFrame, f.num = c.frames + 1 ∧ f.drop = none ∧
      f.reserved = (if c.ringWords = 0 then 0 else c.setWords) ∧
      exec (.camFrameStart cam) s = .next (s.onCam cam.toNat fun _ => { c.generations (c.frames + 1) with
        frames := c.frames + 1, inFrame := true, ignore := false, left := c.left.map (· - 1)
        work := c.work ++ [f] }).draw := by
  have htake : (c.running && !c.draining && c.left != some 0) = true := by simp [hrun, hdrain, hleft]
  have hfits : ¬ (c.ringWords ≠ 0 ∧ c.ringFree < if c.ringWords = 0 then 0 else c.setWords) := by
    rintro ⟨hne, hlt⟩
    rw [if_neg hne] at hlt
    exact absurd (hroom.resolve_left hne) (Nat.not_le.2 hlt)
  simp only [exec_camFrameStart, execCamFrameStart, hc, hpresent, Cam.generations_running, Cam.generations_draining,
    Cam.generations_left, Cam.generations_work, Cam.generations_ringWords, Cam.generations_ringFree,
    Cam.generations_setWords, htake, hfits, Nat.not_le.2 hregions, decide_false, Bool.and_false, Bool.not_true,
    Bool.false_eq_true, if_false]
  exact ⟨_, rfl, rfl, rfl, rfl⟩

/-- FV on a port that does not run is counted only (R340). -/
theorem exec_camFrameStart_ignored (hc : s.cam cam.toNat = c) (hpresent : c.present = true)
    (hrun : c.running = false) :
    exec (.camFrameStart cam) s = .next (s.onCam cam.toNat fun _ => { c.generations (c.frames + 1) with
      frames := c.frames + 1, inFrame := true, ignore := true }) := by
  simp only [exec_camFrameStart, execCamFrameStart, hc, hpresent, Cam.generations_running, hrun, Bool.false_and,
    Bool.not_false, Bool.not_true, Bool.false_eq_true, if_true, if_false]

/-- LV inside a frame: the line takes an entry, or the frame is dropped with OVERFLOW or FORMAT (R338, R339). -/
theorem exec_camLineStart_of_current {f : CamFrame} (hc : s.cam cam.toNat = c) (hpresent : c.present = true)
    (hcur : c.current = some f) (hin : c.inFrame = true) :
    exec (.camLineStart cam) s = .next (
      if 4 ≤ c.buf.length then s.dropFrame cam.toNat f.num 1
      else if c.cfg.lines.toNat ≤ f.lines then s.dropFrame cam.toNat f.num 2
      else s.onCam cam.toNat fun c => { c with
        buf := c.buf ++ [⟨f.num, false, []⟩]
        work := c.work.map fun w => if w.num = f.num then { w with lines := w.lines + 1 } else w }) := by
  simp only [exec_camLineStart, execCamLineStart, hc, hpresent, hcur, hin, Bool.not_true, Bool.false_eq_true, if_false]

/-- A line of LINEW pixels becomes eligible; one of another length drops its frame (R332, R338). -/
theorem exec_camLineReceived_of_current {f : CamFrame} {l : CamLine} (ps : List (BitVec 16))
    (hc : s.cam cam.toNat = c) (hcur : c.current = some f) (hline : (c.buf.find? fun l => !l.received) = some l)
    (hframe : l.frame = f.num) :
    exec (.camLineReceived cam ps) s = .next (
      if ps.length ≠ c.cfg.linew.toNat then s.dropFrame cam.toNat f.num 2
      else (s.onCam cam.toNat fun d => { d with buf := d.buf.map fun z => if z.received then z
        else { z with received := true, pixels := ps.map fun p => p.toNat % 2 ^ c.cfg.wbits.toNat } }).onCams
          (·.take)) := by
  simp only [exec_camLineReceived, execCamLineReceived, hc, hcur, hline, hframe, ne_eq, not_true_eq_false, if_false]

/-- The pipeline has corrected the oldest line of its port, which frees the entry (R338, R341). -/
theorem exec_pipelineLineComplete_of_eligible {n : Nat} {l : CamLine} (hc : s.cam n = c) (hline : c.eligible = some l)
    (hbusy : s.cams.busy = some (n, l.frame)) :
    exec .pipelineLineComplete s = .next (((s.onCams fun k => { k with busy := none }).onCam n fun d => { d with
      buf := d.buf.drop 1
      work := d.work.map fun w => if w.num = l.frame then
        { w with rows := w.rows ++ [c.correct w.rows.length l.pixels] } else w }).onCams (·.take)) := by
  simp only [exec_pipelineLineComplete, execPipelineLineComplete, hbusy, hc, hline, ne_eq, not_true_eq_false, if_false]

/-- The locator has searched the first frame of its queue (R343). -/
theorem exec_locatorComplete_of_first {n num : Nat} {rest : List (Nat × Nat)} (hc : s.cam n = c)
    (hqueue : s.cams.locQueue = (n, num) :: rest)
    (hdone : (c.work.any fun f => f.num == num && f.ended && f.rows.length == c.cfg.lines.toNat) = true) :
    exec .locatorComplete s = .next ((s.onCam n fun c => { c with
      work := c.work.map fun w => if w.num = num then { w with located := true } else w }).onCams fun k =>
        { k with locQueue := rest }) := by
  simp only [exec_locatorComplete, execLocatorComplete, hqueue, hc, if_pos hdone]

/-- The end of a good frame; the send window that opens after it leaves the frames as they are (R336, R343). -/
theorem reaches_camFrameEnd_good {f : CamFrame} (h : cam.toNat < s.cams.cams.length) (hc : s.cam cam.toNat = c)
    (hcur : c.current = some f) (hlines : f.lines = c.cfg.lines.toNat) (hrec : c.buf.all (·.received) = true) :
    Reaches (exec (.camFrameEnd cam) s) fun t => (t.cam cam.toNat).inFrame = false ∧
      ((t.cam cam.toNat).work = c.work.map fun w =>
        if w.num = f.num then { w with ended := true, tend := s.fwStamp } else w) ∧
      (f.located = false → t.cams.locQueue = s.cams.locQueue ++ [(cam.toNat, f.num)]) := by
  have hgood : ¬ (f.lines ≠ c.cfg.lines.toNat ∨ (c.buf.any fun l => !l.received) = true) := by
    simpa [hlines] using hrec
  simp only [exec_camFrameEnd, execCamFrameEnd, hc, hcur, if_neg hgood]
  refine reaches_of_next rfl ?_
  generalize hend : State.draw _ = u
  have hcam : u.cam cam.toNat = { c with
      inFrame := false
      work := c.work.map fun w => if w.num = f.num then { w with ended := true, tend := s.fwStamp } else w } := by
    rw [← hend, State.draw_cam, State.onCam_cam (by rwa [State.onCam_length]), State.onCam_cam h, hc]
  have hqueue : u.cams.locQueue = s.cams.locQueue := hend ▸ rfl
  cases f.located
  · have hsame := State.openWindow_sameFrames
      (u.onCams fun k => { k with locQueue := k.locQueue ++ [(cam.toNat, f.num)] }) cam.toNat
    rw [State.setLocQueue_cam, hcam] at hsame
    simp only [Bool.false_eq_true, if_false, State.gainEdge_cam, State.gainEdge_cams, State.openWindow_locQueue,
      State.onCams_cams, hqueue]
    exact ⟨hsame.inFrame, hsame.work, fun _ => trivial⟩
  · have hsame := State.openWindow_sameFrames u cam.toNat
    rw [hcam] at hsame
    simp only [if_true, State.gainEdge_cam]
    exact ⟨hsame.inFrame, hsame.work, nofun⟩

/-- Publication counts the frame and takes it, and dropped frames after it, off the list (R339, R345). -/
theorem reaches_camFramePublish {f : CamFrame} (h : cam.toNat < s.cams.cams.length) (hc : s.cam cam.toNat = c)
    (hripe : c.ripe = some f) : Reaches (exec (.camFramePublish cam) s) fun t =>
      (t.cam cam.toNat).published = c.published + 1 ∧ ∃ k, (t.cam cam.toNat).work = (c.work.drop 1).drop k := by
  simp only [exec_camFramePublish, execCamFramePublish, hc, hripe]
  refine reaches_of_next rfl ?_
  simp only [State.gainFrame_cam, State.draw_cam, State.align_cam, State.raise_cam]
  generalize hpub : s.onCam _ _ = s1
  have hcam : (s1.cam cam.toNat).published = c.published + 1 ∧ (s1.cam cam.toNat).work = c.work.drop 1 := by
    rw [← hpub, State.onCam_cam h, hc]
    exact ⟨rfl, rfl⟩
  generalize hset : (if c.ringWords = 0 then s1 else _) = s2
  have hput : (s1.cam cam.toNat).SameFrames (s2.cam cam.toNat) := hset ▸ State.ringPut_if_sameFrames ..
  obtain ⟨k, hflush⟩ := State.flushSettle_sameFrames s2 cam.toNat (s2.cam cam.toNat).work.length
  have hsame := (hput.without k).trans hflush
  exact ⟨hsame.published.trans hcam.1, k, hsame.work.trans (congrArg (List.drop k) hcam.2)⟩

end

/-- Settles O47: each clause is one row of a frame, in the case that the clause names. -/
theorem cameraFrames : Obligations.CameraFrames := by
  intro s cam
  dsimp only
  generalize hc : s.cam cam.toNat = c
  intro hn hpresent
  refine ⟨fun hrun hdrain hleft hroom hregions => ?_, fun hrun => ?_, fun f hcur hin => ?_,
    fun f l ps hcur hline hframe => ?_, fun l hline hbusy => ?_,
    fun f hcur hlines hrec => reaches_camFrameEnd_good hn hc hcur hlines hrec,
    fun num rest hqueue hdone => ?_, fun f hripe => ?_⟩
  case refine_1 =>
    obtain ⟨f, hnum, hdrop, hres, hexec⟩ := exec_camFrameStart_taken hc hpresent hrun hdrain hleft hroom hregions
    refine reaches_of_next hexec ?_
    rw [State.draw_cam, State.onCam_cam hn]
    exact ⟨rfl, rfl, rfl, rfl, f, rfl, hnum, hdrop, hres⟩
  case refine_2 =>
    refine reaches_of_next (exec_camFrameStart_ignored hc hpresent hrun) ?_
    rw [State.onCam_cam hn]
    exact ⟨rfl, rfl, Cam.generations_work ..⟩
  case refine_3 =>
    refine reaches_of_next (exec_camLineStart_of_current hc hpresent hcur hin) ?_
    split
    · exact hc ▸ State.dropFrame_counts hn f.num 1
    · split
      · exact hc ▸ State.dropFrame_counts hn f.num 2
      · rw [State.onCam_cam hn, hc]
        exact ⟨rfl, rfl⟩
  case refine_4 =>
    refine reaches_of_next (exec_camLineReceived_of_current ps hc hcur hline hframe) ?_
    by_cases hlen : ps.length = c.cfg.linew.toNat
    · rw [if_pos hlen, if_neg (not_not_intro hlen), State.takeLine_cam, State.onCam_cam hn, hc]
    · rw [if_neg hlen, if_pos hlen]
      exact hc ▸ State.dropFrame_counts hn f.num 2
  case refine_5 =>
    refine reaches_of_next (exec_pipelineLineComplete_of_eligible hc hline hbusy) ?_
    rw [State.takeLine_cam, State.onCam_cam (s := s.onCams _) hn, State.setBusy_cam, hc]
    exact ⟨rfl, rfl⟩
  case refine_6 =>
    refine reaches_of_next (exec_locatorComplete_of_first hc hqueue hdone) ⟨rfl, ?_⟩
    rw [State.setLocQueue_cam, State.onCam_cam hn, hc]
  case refine_7 =>
    obtain ⟨t, hexec, hpub, k, hwork⟩ := reaches_camFramePublish hn hc hripe
    refine reaches_of_next hexec ⟨hpub, fun w hw => ?_⟩
    rw [hwork] at hw
    exact List.mem_of_mem_drop hw

end Sys2Proof.Machine
end

section
/-!
PROOF. STRIPE.ARM refused by a condition that follows capacity and placement (Table 17-9, R360): what decides such a
list, the arm that reaches it, and obligation O60, in which the last condition of the list is the one that fails.
-/

namespace Sys2Proof.Machine

/-! ### The last condition of a list decides once those before it hold (R424) -/

theorem firstFail_append_of_none {pre post : List (Bool × BitVec 16)} (h : firstFail pre = none) :
    firstFail (pre ++ post) = firstFail post := by
  induction pre with
  | nil => rfl
  | cons c pre ih =>
    obtain ⟨holds, st⟩ := c
    cases holds with
    | true => exact ih h
    | false => exact absurd h (Option.some_ne_none st)

theorem firstFail_eq_getLast {l : List (Bool × BitVec 16)} {st : BitVec 16} (h : firstFail l.dropLast = none)
    (hlast : (false, st) ∈ l.getLast?) : firstFail l = some st := by
  obtain ⟨pre, rfl⟩ := List.getLast?_eq_some_iff.1 hlast
  rw [List.dropLast_concat] at h
  rw [firstFail_append_of_none h, firstFail_false]

/-! ### The arm of a stripe that is not in loopback, from the start to the conditions of `State.armRest` -/

/-- The state in which such an arm is answered: the events of the lane map are out where a head is present. -/
def State.armEvents (s : State) (src : Src) : State :=
  if s.link.headPresent then
    s.mapEvents src (s.buildMap false s.link.map [] []).1 (s.buildMap false s.link.map [] []).2
  else s

/-- The state in which the conditions of such an arm are judged. -/
def State.armJudged (s : State) (src : Src) : State :=
  (s.armEvents src).prepareArm (s.buildMap false s.link.map [] []).1 s.link.headPresent

theorem State.armEvents_fr (s : State) (src : Src) : Fr [.queues, .out] s (s.armEvents src) :=
  Fr.ite (State.mapEvents_fr ..) (Fr.refl ..)

theorem State.armEvents_mbsWf {s : State} (h : s.mbsWf) (src : Src) : (s.armEvents src).mbsWf :=
  (s.armEvents_fr src).2.2.1 h

@[simp] theorem State.armEvents_jobs (s : State) (src : Src) : (s.armEvents src).jobs = s.jobs :=
  ((s.armEvents_fr src).1 .jobs).resolve_left (by decide)

/-- The arm of stripe `x` at its first open segment `q` meets every condition before those of `State.armRest`
(R28, R30, R207, R210, R229, R230). -/
structure State.ArmReachesRest (s : State) (src : Src) (id : StripeId) (x : Stripe) (q : Nat) : Prop where
  held : s.stripe? id = some x
  owned : s.owns src id.job = true
  checked : x.st = .checked
  quiet : s.quiet = true
  noEcho : s.link.arm = none
  firstOpen : x.firstOpen = some q
  table : s.beam.table.isSome = true
  notLoop : x.target ≠ 2
  gain : gainBad ((s.armJudged src).beam.activeT.getD ⟨0, 0, 0, 0, []⟩) (s.armJudged src).deadNow x.hdr.ghbound = none
  capacity : x.capacityBad (s.armJudged src).deadNow q = []
  offset : x.offsetOk s.beam.fit = true
  placement : x.hdr.place = true → x.placementBad (s.armJudged src).deadNow q = []

section
variable {s : State} {src : Src} {id : StripeId} {x : Stripe} {q : Nat}

theorem State.ArmReachesRest.placementList (h : s.ArmReachesRest src id x q) :
    (if x.hdr.place then x.placementBad (s.armJudged src).deadNow q else []) = [] := by
  split
  case isTrue hp => exact h.placement hp
  case isFalse => rfl

/-- The first condition of `State.armRest` that fails is the answer, and nothing else happens (R424). -/
theorem State.armStripe_rest_fail (h : s.ArmReachesRest src id x q) {st : BitVec 16}
    (hst : firstFail ((s.armJudged src).armRest x) = some st) :
    s.armStripe src id false none = (s.armEvents src).fail src st := by
  have howned := h.owned
  have hgain := h.gain
  have hcap := h.capacity
  have hplace := h.placementList
  have hloop : (x.target == 2) = false := beq_false_of_ne h.notLoop
  unfold State.owns at howned
  unfold State.armJudged State.armEvents at hgain hcap hplace hst
  unfold State.armStripe State.armEvents
  simp only [h.held, howned, h.checked, beq_self_eq_true, h.quiet, h.noEcho, h.firstOpen, h.table, hloop, hgain, hcap,
    h.offset, hplace, hst, firstFail_true, firstFail_nil, Option.isSome_none, Option.isSome_some, Option.isNone_none,
    Option.getD_some, Bool.false_or, Bool.or_true, Bool.and_true, Bool.not_true, Bool.not_false, Bool.false_eq_true,
    if_false]

theorem execStripeArm_rest_fail (hwf : s.mbsWf) (h : s.ArmReachesRest src id x q) {st : BitVec 16}
    (hst : firstFail ((s.armJudged src).armRest x) = some st) :
    Reaches (exec (.stripeArm src id) s) fun u => u.answered src st ∧ u.jobs = s.jobs := by
  rw [exec_stripeArm, execStripeArm, State.armStripe_rest_fail h hst]
  refine reaches_of_next rfl ⟨State.fail_answered (State.armEvents_mbsWf hwf src) src st, ?_⟩
  rw [State.fail_jobs, State.armEvents_jobs]
end

/-! ### The provisional items (R360) -/

/-- The last condition of an arm of a beams target fails while item 70 (the delay-line reference) or one of items 68
and 69 (the monitor converter) is provisional. -/
theorem State.armRest_getLast_provisional {t : State} {x : Stripe} (hbeams : x.target = 0)
    (hreq : t.meas.policy.reqconf = true)
    (hprov : (t.meas.item 70).prov = true ∨ (t.meas.item 68).prov = true ∨ (t.meas.item 69).prov = true) :
    (false, ST.calProvisional) ∈ (t.armRest x).getLast? := by
  have hitem : ((t.meas.item 70).prov || (t.meas.item 68).prov || (t.meas.item 69).prov) = true := by
    rw [Bool.or_eq_true, Bool.or_eq_true, or_assoc]
    exact hprov
  have hfails : (!(x.target == 0 && t.meas.policy.reqconf &&
      ((t.meas.item 70).prov || (t.meas.item 68).prov || (t.meas.item 69).prov))) = false := by
    rw [hbeams, hreq, hitem]
    rfl
  exact congrArg (fun holds => some (holds, ST.calProvisional)) hfails

/-- Settles O60: the arm reaches the list of remaining conditions, and the last of them is the one on provisional
items. -/
theorem provisionalItemRefusesArm : Obligations.ProvisionalItemRefusesArm := by
  unfold Obligations.ProvisionalItemRefusesArm
  intro s src id x q hwf hheld howned hchecked hquiet harm hopen htable hbeams m t hgain hcap hoffset hplace hrest
    hreq hprov
  have hreach : s.ArmReachesRest src id x q :=
    ⟨hheld, howned, hchecked, hquiet, harm, hopen, htable, by rw [hbeams]; decide, hgain, hcap, hoffset, hplace⟩
  exact execStripeArm_rest_fail hwf hreach
    (firstFail_eq_getLast hrest (State.armRest_getLast_provisional hbeams hreq hprov))

end Sys2Proof.Machine
end

section
/-!
PROOF. A doorbell that a mailbox takes (R413 to R416): the state in which its command is judged, the outcome of
`State.acceptBell` case by case, what each outcome leaves in the mailbox, and obligation O58, which lists the cases.
-/

namespace Sys2Proof.Machine

/-! ### The command in a mailbox's command area (Table 17-3) -/

def Mailbox.len (m : Mailbox) : Nat := fld 47 32 (m.word 0)

def Mailbox.alive (m : Mailbox) : BitVec 8 := BitVec.ofNat 8 (fld 55 48 (m.word 0))

def Mailbox.body (m : Mailbox) : Body := (List.range (min m.len 127)).map fun i => m.word (i + 1)

/-- The check value that the header of an undamaged command carries. -/
def Mailbox.bodyCheck (m : Mailbox) : Nat := if m.len = 0 then 0 else (crc64W m.body).toNat

/-- The ALIVE that makes a command the next one (R415). -/
def Mailbox.nextAlive (m : Mailbox) : BitVec 8 := (m.lastAlive.map (· + 1)).getD 0

/-- The command that the header and the body name, if they name one. -/
def Mailbox.command? (m : Mailbox) (src : Src) : Option Cmd :=
  Machine.command? (fld 15 0 (m.word 0)) src (bitAt 56 (m.word 0)) m.len m.body

/-- The command passes the checks that come before that of its ALIVE, and its ALIVE is judged. -/
structure Mailbox.AliveJudged (m : Mailbox) : Prop where
  fits    : m.len ≤ 127
  intact  : fld 127 64 (m.word 0) = m.bodyCheck
  ordered : anyAlive (fld 15 0 (m.word 0)) = false

theorem Mailbox.alive_toNat (m : Mailbox) : m.alive.toNat = fld 55 48 (m.word 0) := by
  unfold Mailbox.alive
  rw [BitVec.toNat_ofNat]
  exact Nat.mod_eq_of_lt (Nat.mod_lt _ (by decide))

theorem Mailbox.bf_alive (m : Mailbox) : bf 48 (m.word 0) = m.alive := by
  unfold Mailbox.alive bf fld
  apply BitVec.eq_of_toNat_eq
  rw [BitVec.toNat_ofNat, BitVec.toNat_ofNat]
  exact (Nat.mod_mod _ _).symm

/-- A repeated ALIVE is never the next one. -/
theorem Mailbox.alive_ne_next_of_repeat {m : Mailbox} (h : m.lastAlive = some m.alive) : m.alive ≠ m.nextAlive := by
  unfold Mailbox.nextAlive
  rw [h, Option.map_some, Option.getD_some]
  bv_omega

/-! ### The state in which the command is judged -/

section
variable (s : State) (src : Src)

/-- The doorbell is taken: BUSY is set, DONE clears, and the header and the time are noted (R413). -/
def State.bellTaken : State :=
  (s.onMb src.mb fun m => { m with busy := true, done := false, header := (s.mb src.mb).word 0 }).onPort src.port
    fun p => { p with lastBell := s.now, departed := false }

/-- The command taken has become the last of its mailbox (R415). -/
def State.bellNewest : State :=
  (s.bellTaken src).onMb src.mb fun m => { m with lastAlive := some (s.mb src.mb).alive }

/-- The command is journalled and about to run (R419). -/
def State.bellBegun : State := (s.bellNewest src).onRef fun r => { r with journal := r.journal + 1 }

theorem State.onMb_bellTaken_eq_bellNewest :
    ((s.bellTaken src).onMb src.mb fun m => { m with lastAlive := some (bf 48 ((s.mb src.mb).word 0)) }) =
      s.bellNewest src := by
  rw [Mailbox.bf_alive, State.bellNewest]

theorem State.bellTaken_fr : Fr [.ports, .mailboxes] s (s.bellTaken src) :=
  State.onPort_fixed_st (by decide) ((State.onMb_fr ..).mono (by decide)) fun _ => ⟨rfl, rfl⟩

variable {s}

theorem State.bellTaken_mbsWf (h : s.mbsWf) : (s.bellTaken src).mbsWf :=
  State.onPort_mbsWf (State.onMb_mbsWf h ..) ..

theorem State.bellNewest_mbsWf (h : s.mbsWf) : (s.bellNewest src).mbsWf :=
  State.onMb_mbsWf (State.bellTaken_mbsWf src h) ..

theorem State.bellTaken_own (h : s.mbsWf) : (s.bellTaken src).mb src.mb =
    { s.mb src.mb with busy := true, done := false, header := (s.mb src.mb).word 0 } := by
  unfold State.bellTaken
  rw [State.mb_onPort, State.mb_onMb h]

theorem State.bellTaken_other {n : BitVec 4} (h : n ≠ src.mb) : (s.bellTaken src).mb n = s.mb n := by
  unfold State.bellTaken
  rw [State.mb_onPort, State.mb_onMb_other _ h]

theorem State.bellNewest_own (h : s.mbsWf) : (s.bellNewest src).mb src.mb =
    { s.mb src.mb with
      busy := true, done := false, header := (s.mb src.mb).word 0, lastAlive := some (s.mb src.mb).alive } := by
  unfold State.bellNewest
  rw [State.mb_onMb (State.bellTaken_mbsWf src h), State.bellTaken_own src h]

theorem State.bellBegun_lastAlive (h : s.mbsWf) :
    ((s.bellBegun src).mb src.mb).lastAlive = some (s.mb src.mb).alive := by
  show ((s.bellNewest src).mb src.mb).lastAlive = _
  rw [State.bellNewest_own src h]
end

/-! ### What a response that is turned away, and one that is repeated, leave in the mailbox (R415) -/

section
variable {s : State} (h : s.mbsWf) (src : Src)
include h

theorem State.turnAway_own (st : BitVec 16) (detail : Nat) : (s.turnAway src st detail).mb src.mb =
    { (s.respond src st detail false []).mb src.mb with
      kept0 := (s.mb src.mb).kept0, kept1 := (s.mb src.mb).kept1, keptBody := (s.mb src.mb).keptBody } := by
  unfold State.turnAway
  rw [State.mb_onMb (State.respond_mbsWf s src st detail false [] h)]

theorem State.turnAway_answered (st : BitVec 16) (detail : Nat) : (s.turnAway src st detail).answered src st := by
  unfold State.answered
  rw [State.turnAway_own h]
  exact State.respond_answered h src st detail false []

theorem State.turnAway_detail (st : BitVec 16) (detail : Nat) :
    fld 63 32 ((s.turnAway src st detail).mb src.mb).resp1 = detail % 2 ^ 32 := by
  rw [State.turnAway_own h, State.respond_own h, packW_four, fld_ofNat (by decide) (by decide)]
  have hst := st.isLt
  simp only [b2n]
  omega

theorem State.repeatResponse_own : (s.repeatResponse src).mb src.mb = { s.mb src.mb with
    busy := false, done := true, resp0 := (s.mb src.mb).kept0, resp1 := (s.mb src.mb).kept1 ||| 0x10000,
    respBody := (s.mb src.mb).keptBody } := by
  unfold State.repeatResponse
  rw [State.msix_mb, State.mb_onMb h]
  rfl
end

theorem State.repeatResponse_other {s : State} (src : Src) {n : BitVec 4} (h : n ≠ src.mb) :
    (s.repeatResponse src).mb n = s.mb n := by
  unfold State.repeatResponse
  rw [State.msix_mb, State.mb_onMb_other _ h]

/-! ### A performed command leaves its mailbox to its owner (R416) -/

theorem HostIf.onMb_eq_self {x : HostIf} {n : BitVec 4} {f : Mailbox → Mailbox} (h : f (x.mb n) = x.mb n) :
    x.onMb n f = x := by
  have hmbs : x.mbs.modify n.toNat f = x.mbs := by
    refine List.ext_getElem (List.length_modify ..) fun i _ hi => ?_
    rw [List.getElem_modify]
    split
    case isTrue hn =>
      subst hn
      have hmb : x.mb n = x.mbs[n.toNat] := by
        rw [HostIf.mb, List.getD_eq_getElem?_getD, List.getElem?_eq_getElem hi, Option.getD_some]
      rwa [hmb] at h
    case isFalse => rfl
  unfold HostIf.onMb
  rw [hmbs]

/-- A mailbox that has an owner keeps its last ALIVE. -/
theorem State.onMb_dropAlive_of_owned {s : State} {n : BitVec 4} (h : (s.mb n).owner.isSome = true) :
    (s.onMb n fun m => if m.owner.isNone then { m with lastAlive := none } else m) = s := by
  have hsame : s.host.onMb n (fun m => if m.owner.isNone then { m with lastAlive := none } else m) = s.host :=
    HostIf.onMb_eq_self (if_neg (Bool.not_eq_true _ ▸ Option.isNone_eq_false_iff.2 h))
  exact congrArg (fun x => { s with host := x }) hsame

section
variable {s : State} {src : Src} {m : Mailbox}

theorem State.perform_bellTaken_error {st : BitVec 16} (hm : s.mb src.mb = m) (h : s.mbsWf)
    (howned : m.owner.isSome = true) {c : Option Cmd} (hst : (s.bellNewest src).checked c (m.word 0) = .error st) :
    (s.bellTaken src).perform src (m.word 0) c = (s.bellNewest src).fail src st := by
  subst hm
  rw [State.perform_rejected (by rwa [State.onMb_bellTaken_eq_bellNewest]), State.onMb_bellTaken_eq_bellNewest]
  refine State.onMb_dropAlive_of_owned ?_
  rw [State.fail, State.respond_own (State.bellNewest_mbsWf src h), State.bellNewest_own src h]
  exact howned

theorem State.perform_bellTaken_ok {c : Option Cmd} {k : Cmd} {t : State} (hm : s.mb src.mb = m)
    (hk : (s.bellNewest src).checked c (m.word 0) = .ok k) (hrun : k.run (s.bellBegun src) = .next t)
    (howned : (t.mb src.mb).owner.isSome = true) : (s.bellTaken src).perform src (m.word 0) c = t := by
  subst hm
  rw [State.perform_accepted (by rwa [State.onMb_bellTaken_eq_bellNewest]), State.onMb_bellTaken_eq_bellNewest,
    ← State.bellBegun, hrun]
  exact State.onMb_dropAlive_of_owned howned
end

/-! ### The cases of a doorbell that is taken (Table 17-4, R414 and R415) -/

section
variable {s : State} {src : Src} {m : Mailbox}

theorem State.acceptBell_eq (hm : s.mb src.mb = m) : s.acceptBell src =
    if 127 < m.len then (s.bellTaken src).turnAway src ST.sysLength 0
    else if fld 127 64 (m.word 0) ≠ m.bodyCheck then (s.bellTaken src).turnAway src ST.sysBodyCrc 0
    else if anyAlive (fld 15 0 (m.word 0)) || fld 55 48 (m.word 0) == m.nextAlive.toNat then
      (s.bellTaken src).perform src (m.word 0) (m.command? src)
    else if m.lastAlive == some (bf 48 (m.word 0)) then (s.bellTaken src).repeatResponse src
    else (s.bellTaken src).turnAway src ST.sysAliveGap m.nextAlive.toNat := by
  subst hm
  rfl

theorem State.acceptBell_of_long (hm : s.mb src.mb = m) (h : 127 < m.len) :
    s.acceptBell src = (s.bellTaken src).turnAway src ST.sysLength 0 := by
  rw [State.acceptBell_eq hm, if_pos h]

theorem State.acceptBell_of_damaged (hm : s.mb src.mb = m) (hlen : m.len ≤ 127)
    (h : fld 127 64 (m.word 0) ≠ m.bodyCheck) :
    s.acceptBell src = (s.bellTaken src).turnAway src ST.sysBodyCrc 0 := by
  rw [State.acceptBell_eq hm, if_neg (Nat.not_lt.2 hlen), if_pos h]

/-- The three cases of the ALIVE of a command that is judged by it. -/
theorem State.acceptBell_of_judged (hm : s.mb src.mb = m) (h : m.AliveJudged) : s.acceptBell src =
    if m.alive = m.nextAlive then (s.bellTaken src).perform src (m.word 0) (m.command? src)
    else if m.lastAlive = some m.alive then (s.bellTaken src).repeatResponse src
    else (s.bellTaken src).turnAway src ST.sysAliveGap m.nextAlive.toNat := by
  rw [State.acceptBell_eq hm, if_neg (Nat.not_lt.2 h.fits), if_neg (fun hne => hne h.intact), h.ordered,
    ← Mailbox.alive_toNat, Mailbox.bf_alive]
  simp only [Bool.false_or, beq_iff_eq, BitVec.toNat_inj]

theorem State.acceptBell_of_repeat (hm : s.mb src.mb = m) (h : m.AliveJudged) (hlast : m.lastAlive = some m.alive) :
    s.acceptBell src = (s.bellTaken src).repeatResponse src := by
  rw [State.acceptBell_of_judged hm h, if_neg (Mailbox.alive_ne_next_of_repeat hlast), if_pos hlast]

theorem State.acceptBell_of_gap (hm : s.mb src.mb = m) (h : m.AliveJudged) (hnext : m.alive ≠ m.nextAlive)
    (hlast : m.lastAlive ≠ some m.alive) :
    s.acceptBell src = (s.bellTaken src).turnAway src ST.sysAliveGap m.nextAlive.toNat := by
  rw [State.acceptBell_of_judged hm h, if_neg hnext, if_neg hlast]

theorem State.acceptBell_of_next (hm : s.mb src.mb = m) (h : m.AliveJudged) (hnext : m.alive = m.nextAlive) :
    s.acceptBell src = (s.bellTaken src).perform src (m.word 0) (m.command? src) := by
  rw [State.acceptBell_of_judged hm h, if_pos hnext]
end

/-! ### MB_DOORBELL at a mailbox that takes it (R411) -/

/-- The doorbell comes from the owner's port, the mailbox is not busy and firmware runs. -/
structure State.TakesBell (s : State) (src : Src) : Prop where
  wf       : s.mbsWf
  linkUp   : (s.port src.port).linkUp = true
  ready    : s.power.ready = true
  firmware : s.firmware = true
  owned    : (s.mb src.mb).owner = some src.port
  idle     : (s.mb src.mb).busy = false

section
variable {s : State} {p : Port} {mb : BitVec 4} {v : BitVec 64}

theorem State.ring_of_takesBell {src : Src} (h : s.TakesBell src) : s.ring src = s.acceptBell src := by
  unfold State.ring
  simp only [h.ready, h.owned, h.idle, h.firmware, Bool.not_true, Bool.false_eq_true, if_false, ne_eq,
    not_true_eq_false]

theorem exec_mbDoorbell_of_takesBell (h : s.TakesBell ⟨p, mb⟩) (hv : v.getLsbD 0 = true) :
    exec (.mbDoorbell p mb v []) s = .next (s.acceptBell ⟨p, mb⟩) := by
  rw [exec_mbDoorbell, execMbDoorbell, List.foldl_nil, hv, h.linkUp, State.ring_of_takesBell h]
  rfl

theorem reaches_mbDoorbell {P : State → Prop} (h : s.TakesBell ⟨p, mb⟩) (hv : v.getLsbD 0 = true)
    {t : State} (ht : s.acceptBell ⟨p, mb⟩ = t) (hP : P t) : Reaches (exec (.mbDoorbell p mb v []) s) P :=
  reaches_of_next (ht ▸ exec_mbDoorbell_of_takesBell h hv) hP
end

/-! ### What the mailbox holds once the doorbell is answered -/

section
variable {s : State} (src : Src)

theorem State.bellTaken_turnAway_keeps (h : s.mbsWf) (st : BitVec 16) (detail : Nat) :
    let x := ((s.bellTaken src).turnAway src st detail).mb src.mb
    x.lastAlive = (s.mb src.mb).lastAlive ∧ x.kept0 = (s.mb src.mb).kept0 ∧ x.kept1 = (s.mb src.mb).kept1 ∧
      x.keptBody = (s.mb src.mb).keptBody := by
  rw [State.turnAway_own (State.bellTaken_mbsWf src h), State.respond_own (State.bellTaken_mbsWf src h),
    State.bellTaken_own src h]
  exact ⟨rfl, rfl, rfl, rfl⟩

/-- A command refused by a later check is the last one of its mailbox, and its response is the stored one. -/
theorem State.bellNewest_fail_keeps (h : s.mbsWf) (st : BitVec 16) :
    let x := ((s.bellNewest src).fail src st).mb src.mb
    x.lastAlive = some (s.mb src.mb).alive ∧ x.kept0 = x.resp0 ∧ x.kept1 = x.resp1 := by
  rw [State.fail, State.respond_own (State.bellNewest_mbsWf src h), State.bellNewest_own src h]
  exact ⟨rfl, rfl, rfl⟩

theorem State.bellTaken_repeat_onlyParts :
    OnlyParts [.ports, .queues, .mailboxes, .out] s ((s.bellTaken src).repeatResponse src) :=
  (((s.bellTaken_fr src).mono (by decide)).trans ((State.repeatResponse_fr ..).mono (by decide))).1

theorem State.bellTaken_repeat_own (h : s.mbsWf) (hidle : (s.mb src.mb).busy = false) :
    ((s.bellTaken src).repeatResponse src).mb src.mb = { s.mb src.mb with
      header := (s.mb src.mb).word 0, done := true, resp0 := (s.mb src.mb).kept0,
      resp1 := (s.mb src.mb).kept1 ||| 0x10000, respBody := (s.mb src.mb).keptBody } := by
  rw [State.repeatResponse_own (State.bellTaken_mbsWf src h), State.bellTaken_own src h, ← hidle]
end

/-- Settles O58: the six cases of a doorbell that the mailbox takes. -/
theorem newRepeatOrGap : Obligations.NewRepeatOrGap := by
  unfold Obligations.NewRepeatOrGap
  intro s p mb v src m h n a b crc next rung newest begun judged hwf hv hlink hready hfw howned hidle
  have htakes : s.TakesBell src := ⟨hwf, hlink, hready, hfw, howned, hidle⟩
  have hbell : (s.bellTaken src).mbsWf := State.bellTaken_mbsWf src hwf
  have hsome : m.owner.isSome = true := Option.isSome_of_eq_some howned
  have hm : s.mb src.mb = m := rfl
  refine ⟨fun hlong => ?tooLong, fun hlen hne => ?damaged, fun hlen heq hordered => ?_⟩
  case tooLong =>
    exact reaches_mbDoorbell htakes hv (State.acceptBell_of_long hm hlong)
      ⟨State.turnAway_answered hbell .., (State.bellTaken_turnAway_keeps src hwf ..).1⟩
  case damaged =>
    exact reaches_mbDoorbell htakes hv (State.acceptBell_of_damaged hm hlen hne)
      ⟨State.turnAway_answered hbell .., (State.bellTaken_turnAway_keeps src hwf ..).1⟩
  have hjudged : m.AliveJudged := ⟨hlen, heq, hordered⟩
  refine ⟨fun hlast => ?again, fun hnext hlast => ?gap, fun hnext => ⟨
    fun st hst => ?refused, fun k t hk hrun ht => ?run⟩⟩
  case again =>
    refine reaches_mbDoorbell htakes hv (State.acceptBell_of_repeat hm hjudged hlast)
      ⟨State.bellTaken_repeat_onlyParts src, fun i hi => ?_, State.bellTaken_repeat_own src hwf hidle⟩
    rw [State.repeatResponse_other src hi, State.bellTaken_other src hi]
  case gap =>
    refine reaches_mbDoorbell htakes hv (State.acceptBell_of_gap hm hjudged hnext hlast)
      ⟨State.turnAway_answered hbell .., ?_, State.bellTaken_turnAway_keeps src hwf ..⟩
    rw [State.turnAway_detail hbell]
    exact Nat.mod_eq_of_lt (Nat.lt_trans m.nextAlive.isLt (by decide))
  case refused =>
    exact reaches_mbDoorbell htakes hv
      ((State.acceptBell_of_next hm hjudged hnext).trans (State.perform_bellTaken_error hm hwf hsome hst))
      ⟨State.fail_answered (State.bellNewest_mbsWf src hwf) .., State.bellNewest_fail_keeps src hwf st⟩
  case run =>
    have hdone : s.acceptBell src = t :=
      (State.acceptBell_of_next hm hjudged hnext).trans (State.perform_bellTaken_ok hm hk hrun ht)
    exact ⟨hdone ▸ exec_mbDoorbell_of_takesBell htakes hv, State.bellBegun_lastAlive src hwf⟩

end Sys2Proof.Machine
end

section
/-!
PROOF. Clean stops (R448): what the clean-stop entry leaves in the fault log, the stops that keep it, and obligation
O59.
-/

namespace Sys2Proof.Machine

/-! ### The log that a clean stop leaves -/

/-- The log ends with a clean-stop entry and is written whole. -/
def FaultLog.EndsClean (l : FaultLog) : Prop :=
  l.clean = true ∧ l.buffer = [] ∧
    ∃ e, l.nv.getLast? = some e ∧ fld 15 0 (e.getD 0 0) = (Config.logCode 1).toNat

theorem getLast?_drop_length_sub {α : Type} (xs : List α) (x : α) {n : Nat} (hn : 0 < n) :
    ((xs ++ [x]).drop ((xs ++ [x]).length - n)).getLast? = some x := by
  have hlt : (xs ++ [x]).length - n < (xs ++ [x]).length := by
    rw [List.length_append, List.length_singleton]
    omega
  rw [List.getLast?_drop, if_neg (Nat.not_le.2 hlt), List.getLast?_concat]

/-- The ring keeps the newest entry, however many older ones the flush drops. -/
theorem FaultLog.flush_getLast {l : FaultLog} {es : List (List Word)} {e : List Word} (h : l.buffer = es ++ [e]) :
    l.flush.nv.getLast? = some e := by
  unfold FaultLog.flush
  rw [if_neg (by rw [h]; simp), h, ← List.append_assoc]
  dsimp only
  rw [getLast?_drop_length_sub _ e (by decide)]

theorem packW_three (p q r i j k a b c : Nat) : packW [(p, i, a), (q, j, b), (r, k, c)] =
    BitVec.ofNat 128 (0 + a % 2 ^ i * 2 ^ p + b % 2 ^ j * 2 ^ q + c % 2 ^ k * 2 ^ r) := rfl

theorem fld_packW_code (a b c : Nat) : fld 15 0 (packW [(0, 16, a), (16, 16, b), (64, 64, c)]) = a % 2 ^ 16 := by
  rw [packW_three, fld_low (by decide)]
  omega

/-- While the buffer has room, a new entry stands last in it, under its code (R447). -/
theorem State.logEntry_buffer {s : State} (h : s.log.buffer.length < 256) (e : Event) :
    ∃ w ws, (s.logEntry e).log.buffer = s.log.buffer ++ [w :: ws] ∧ fld 15 0 w = e.code.toNat := by
  unfold State.logEntry
  rw [if_pos h]
  refine ⟨_, _, rfl, (fld_packW_code ..).trans ?_⟩
  have hcode : (if s.log.lost = 0 then e else { e with d3 := BitVec.ofNat 64 s.log.lost }).code = e.code := by
    split <;> rfl
  rw [hcode]
  exact Nat.mod_eq_of_lt e.code.isLt

theorem State.cleanStop_endsClean (s : State) : s.cleanStop.log.EndsClean := by
  have hroom : (s.onLog (·.flush)).log.buffer.length < 256 := by
    rw [State.onLog_log, FaultLog.flush_buffer]
    decide
  obtain ⟨w, ws, hbuffer, hcode⟩ := State.logEntry_buffer hroom (logOnly 1 0 0 0)
  rw [State.cleanStop_log]
  exact ⟨rfl, FaultLog.flush_buffer _, w :: ws, FaultLog.flush_getLast hbuffer, hcode⟩

/-! ### What follows a clean stop leaves the log as it is -/

theorem State.supvDone_log (s : State) (via : Via) (code : Nat) (ok : Bool) (data : List (BitVec 64)) :
    (s.supvDone via code ok data).log = s.log :=
  ((State.supvDone_fr s via code ok data).1 .log).resolve_left (by decide)

/-- A commanded reset leaves the AON island, and the log in it, alone (Table 19-5). -/
theorem State.hostReset_log (s : State) (cause : BitVec 3) : (s.hostReset cause).log = s.log := by
  unfold State.hostReset
  split <;> rfl

/-! ### The three stops -/

/-- A module that has power and is not in thermal shutdown serves every command in its form (R489). -/
theorem State.supv_of_served {s : State} (hpow : s.power.powered = true) (hshut : s.power.shutdown = false) (via : Via)
    (code : Nat) (data : List (BitVec 64)) (k : State → State) :
    s.supv via code true data k = (k s).supvDone via code true data := by
  unfold State.supv
  rw [hpow, hshut]
  rfl

theorem reaches_resetAll_endsClean {s : State} (via : Via) (hpow : s.power.powered = true)
    (hshut : s.power.shutdown = false) : Reaches (exec (.resetAll via 0x5AA5#16) s) fun t => t.log.EndsClean := by
  refine reaches_of_next rfl ?_
  rw [beq_self_eq_true, hshut, Bool.not_false, Bool.true_or, Bool.and_self, State.supv_of_served hpow hshut,
    State.supvDone_log, State.onFw_log, State.onRef_log]
  exact State.cleanStop_endsClean _

theorem reaches_sysReset_endsClean {s : State} (src : Src) (node : BitVec 32) (hidle : s.active? = none) :
    Reaches (exec (.sysReset src 0 node) s) fun t => t.log.EndsClean := by
  have hpass : firstFail [(s.active?.isNone, ST.sysState)] = none := by rw [hidle]; rfl
  refine reaches_of_next (t := (s.cleanStop.ok src []).hostReset 3) ?_ ?_
  · rw [exec_sysReset, execSysReset, if_pos rfl, State.command_pass hpass]
  · rw [State.hostReset_log, State.ok_log]
    exact State.cleanStop_endsClean s

theorem reaches_supplyLossWarning_endsClean {s : State} (hpow : s.power.powered = true)
    (hstop : s.power.stopped = false) : Reaches (exec .supplyLossWarning s) fun t => t.log.EndsClean := by
  refine reaches_of_next rfl ?_
  rw [hpow, hstop, if_neg (by decide), State.onRef_log, State.onPower_log, State.powerDown_log]
  exact State.cleanStop_endsClean _

/-! ### The start -/

/-- After an unclean shutdown the plate that was attached joins those whose counts are owed (R250). -/
theorem Plate.kept_unclean (p : Plate) (unclean : Bool) :
    (p.kept unclean).unclean = if unclean then p.unclean ++ p.attached.toList else p.unclean := by
  unfold Plate.kept
  cases unclean
  · rfl
  · cases p.attached
    · exact (List.append_nil _).symm
    · rfl

theorem reaches_vinQualified {s : State} (h : s.power.powered = false) :
    Reaches (exec .vinQualified s) fun t => t.power.cause = (if s.log.clean then 0 else 1) ∧
      t.plate.unclean = if s.log.clean then s.plate.unclean else s.plate.unclean ++ s.plate.attached.toList := by
  refine reaches_of_next rfl ?_
  rw [h, Bool.false_and, Bool.false_and, if_neg (by decide)]
  refine ⟨rfl, (Plate.kept_unclean s.plate (!s.log.clean)).trans ?_⟩
  cases s.log.clean <;> rfl

/-- Settles O59: a clean stop is the last thing that each of the three stops writes to the log. That the buffer is
flushed before its entry is log entry 21, that SYS.RESET takes effect at once log entry 16. -/
theorem cleanStops : Obligations.CleanStops := by
  unfold Obligations.CleanStops
  exact ⟨fun _ via hpow hshut => reaches_resetAll_endsClean via hpow hshut,
    fun _ src node hidle _ => reaches_sysReset_endsClean src node hidle,
    fun _ hpow hstop => reaches_supplyLossWarning_endsClean hpow hstop,
    fun _ h => reaches_vinQualified h⟩

end Sys2Proof.Machine
end

section
/-!
PROOF. The two Marshals (R436 to R442, R459) and the self-test at idle (R432): what each row leaves of the Referee, the
firmware and the repair record, and obligation O54.
-/

namespace Sys2Proof.Machine

/-! ### The record of one Marshal -/

section
variable (r : Referee) (m : Marshal) (f : MarshalS → MarshalS)

@[simp] theorem Referee.onMarshal_active : (r.onMarshal m f).active = r.active := by cases m <;> rfl

@[simp] theorem Referee.onMarshal_failover : (r.onMarshal m f).failover = r.failover := by cases m <;> rfl
end

/-! ### What a failover's operations leave of the Referee -/

@[simp] theorem State.endTrims_ref (s : State) : s.endTrims.ref = s.ref :=
  ((State.endTrims_fr s).1 .ref).resolve_left (by decide)

@[simp] theorem State.switchFailed_ref (s : State) (m : Marshal) : (s.switchFailed m).ref = s.ref :=
  ((State.switchFailed_fr s m).1 .ref).resolve_left (by decide)

@[simp] theorem State.switchFailed_stage (s : State) (m : Marshal) : (s.switchFailed m).stage = s.stage :=
  ((State.switchFailed_fr s m).1 .stage).resolve_left (by decide)

@[simp] theorem State.answerFlight_ref (s : State) : s.answerFlight.ref = s.ref :=
  ((State.answerFlight_fr s).1 .ref).resolve_left (by decide)

@[simp] theorem State.answerFlight_held (s : State) : s.answerFlight.host.held = s.host.held :=
  ((State.answerFlight_fr s).1 .bells).resolve_left (by decide)

@[simp] theorem State.drainAll_ref (s : State) : s.drainAll.ref = s.ref :=
  ((State.drainAll_fr s).1 .ref).resolve_left (by decide)

@[simp] theorem State.plateCommit_ref (s : State) : s.plateCommit.ref = s.ref :=
  ((State.plateCommit_fr s).1 .ref).resolve_left (by decide)

/-- With no doorbell held there is none to accept. -/
theorem State.acceptHeld_ref {s : State} (h : s.host.held = []) : s.acceptHeld.ref = s.ref := by
  unfold State.acceptHeld
  rw [h]
  rfl

/-- The failed Marshal is reset and the other leads; the snapshot is yet to be replayed (Table 18-6, steps 1 and 2). -/
theorem State.failover_ref (s : State) (m : Marshal) : ∃ b, (s.failover m).ref =
    { (s.ref.onMarshal m fun x => { x with healthy := false, booting := true, failed := false }).onMarshal
        (otherMarshal m) (fun x => { x with lastBeat := s.now }) with
      active := otherMarshal m, failover := true, replayed := false, permitOut := b } := by
  unfold State.failover
  simp only [State.switchFailed_ref, State.onStage_ref, State.endTrims_ref]
  exact State.endPair_ref _ _

theorem State.failover_recovery (s : State) (m : Marshal) : (s.failover m).stage.recovery = true := by
  unfold State.failover
  simp only [State.switchFailed_stage, State.onStage_stage]

theorem State.failover_marshal (s : State) (m : Marshal) :
    ((s.failover m).ref.marshal m).healthy = false ∧ ((s.failover m).ref.marshal m).booting = true := by
  obtain ⟨b, h⟩ := s.failover_ref m
  rw [h]
  cases m <;> exact ⟨rfl, rfl⟩

theorem State.standbyFail_ref (s : State) (m : Marshal) : ∃ f : MarshalS → MarshalS,
    (∀ x, (f x).healthy = false) ∧ (s.standbyFail m).ref = s.ref.onMarshal m f := by
  refine ⟨_, fun x => ?_, by rw [State.standbyFail, State.fault_ref, State.onRef_ref]⟩
  dsimp only
  split <;> rfl

/-- The entry of the safe state leaves what a failover would end or go on with (R439). -/
theorem State.safeEnter_failover (s : State) (c : BitVec 8) : (s.safeEnter c).ref.failover = s.ref.failover := by
  cases h : s.ref.safe
  · obtain ⟨b, e⟩ := State.safeEnter_ref h c
    rw [e]
  · rw [State.safeEnter_held h]
    rfl

/-! ### Heartbeats and their silence (R436) -/

section
variable {s : State} {m : Marshal}

theorem reaches_marshalHeartbeat (h : (s.ref.marshal m).healthy = true) :
    Reaches (exec (.marshalHeartbeat m) s) fun t => (t.ref.marshal m).lastBeat = s.now ∧
      (m = s.ref.active → s.ref.failover = false → t.ref.snap = s.snapshotItems) := by
  refine reaches_of_next rfl ?_
  rw [h, if_neg (by decide), State.onRef_ref]
  dsimp only
  rw [Referee.onMarshal_active, Referee.onMarshal_failover]
  have hbeat : ((s.ref.onMarshal m fun x => { x with lastBeat := s.now }).marshal m).lastBeat = s.now := by
    rw [Referee.onMarshal_same]
  refine ⟨?_, fun hm hf => ?_⟩
  · split
    · exact hbeat
    · exact hbeat
  · rw [if_pos (by rw [hm, hf]; simp)]

/-- The Marshal is found silent: it reports itself, or its heartbeat is past its bound. -/
def State.Silent (s : State) (m : Marshal) (self : Bool) : Prop :=
  (s.ref.marshal m).healthy = true ∧
    (self = true ∨ (s.ref.marshal m).lastBeat + (if m = s.ref.active then cycMs 1 else cycMs 10) ≤ s.now)

variable {self : Bool}

/-- What follows a silence: the failover, the safe state, or the reset of the standby. -/
theorem exec_heartbeatTimeout_of_silent (h : s.Silent m self) : exec (.heartbeatTimeout m self) s = .next (
    if m ≠ s.ref.active then s.standbyFail m
    else if s.ref.failover = false ∧ (s.ref.marshal (otherMarshal m)).healthy = true then s.failover m
    else ((s.onRef fun r => { (r.onMarshal m fun x => { x with healthy := false, failed := true }) with
      failover := false }).endTrims).safeEnter 1) := by
  obtain ⟨hhealthy, hlate⟩ := h
  rw [exec_heartbeatTimeout, execHeartbeatTimeout]
  have hbound : (if (m == s.ref.active) = true then cycMs 1 else cycMs 10) =
      if m = s.ref.active then cycMs 1 else cycMs 10 := by simp only [beq_iff_eq]
  have hfound : (!(s.ref.marshal m).healthy || !(self || decide ((s.ref.marshal m).lastBeat +
      (if (m == s.ref.active) = true then cycMs 1 else cycMs 10) ≤ s.now))) = false := by
    rw [hbound, hhealthy]
    rcases hlate with rfl | hlate
    · rfl
    · rw [decide_eq_true hlate, Bool.or_true]
      rfl
  dsimp only
  rw [hfound, if_neg Bool.false_ne_true]
  simp

theorem reaches_heartbeatTimeout (h : s.Silent m self) : Reaches (exec (.heartbeatTimeout m self) s) fun t =>
    (m = s.ref.active → s.ref.failover = false → (s.ref.marshal (otherMarshal m)).healthy = true →
      t.ref.active = otherMarshal m ∧ t.ref.failover = true ∧ (t.ref.marshal m).healthy = false ∧
      (t.ref.marshal m).booting = true ∧ t.stage.recovery = true) ∧
    (m = s.ref.active → s.ref.failover = true ∨ (s.ref.marshal (otherMarshal m)).healthy = false →
      t.ref.safe = true) ∧
    (m ≠ s.ref.active → (t.ref.marshal m).healthy = false ∧ t.ref.active = s.ref.active) := by
  refine reaches_of_next (exec_heartbeatTimeout_of_silent h) ⟨fun hm hf hother => ?failover, fun hm hno => ?safe,
    fun hm => ?standby⟩
  case failover =>
    rw [if_neg fun hne => hne hm, if_pos ⟨hf, hother⟩]
    obtain ⟨b, href⟩ := s.failover_ref m
    obtain ⟨hhealthy, hbooting⟩ := s.failover_marshal m
    exact ⟨by rw [href], by rw [href], hhealthy, hbooting, s.failover_recovery m⟩
  case safe =>
    rw [if_neg fun hne => hne hm, if_neg]
    · exact State.safeEnter_safe _ _
    · rintro ⟨hf, hother⟩
      simp [hf, hother] at hno
  case standby =>
    rw [if_pos hm]
    obtain ⟨f, hf, href⟩ := s.standbyFail_ref m
    rw [href, Referee.onMarshal_same, Referee.onMarshal_active]
    exact ⟨hf _, rfl⟩
end

/-! ### The end of the replay (Table 18-6, step 4) -/

section
variable {s : State}

theorem reaches_failoverReplayComplete_good (hf : s.ref.failover = true) (hheld : s.host.held = []) :
    Reaches (exec (.failoverReplayComplete true) s) fun t => t.ref.failover = false ∧ t.ref.replayed = true := by
  refine reaches_of_next rfl ?_
  rw [if_pos hf, if_pos rfl]
  dsimp only
  generalize hu : State.drainAll _ = u
  have href : u.ref = { s.ref with failover := false, replayed := true } := by
    rw [← hu, State.drainAll_ref, State.acceptHeld_ref, State.answerFlight_ref, State.onRef_ref]
    rw [State.answerFlight_held]
    exact hheld
  have hend : ∀ v : State, v.ref = u.ref → v.ref.failover = false ∧ v.ref.replayed = true := fun v hv => by
    rw [hv, href]
    exact ⟨rfl, rfl⟩
  split
  · exact hend _ (by rw [State.plateCommit_ref, State.fault_ref])
  · exact hend _ (State.fault_ref ..)

/-- A failed replay ends the failover in the safe state (the model's choice, log entry 15). -/
theorem reaches_failoverReplayComplete_bad (hf : s.ref.failover = true) :
    Reaches (exec (.failoverReplayComplete false) s) fun t => t.ref.failover = false ∧ t.ref.safe = true := by
  refine reaches_of_next rfl ?_
  rw [if_pos hf, if_neg (by decide)]
  exact ⟨by rw [State.safeEnter_failover, State.onRef_ref], State.safeEnter_safe _ _⟩
end

/-! ### Boots and the firmware switch (R442, R459) -/

section
variable {s : State}

/-- A Marshal whose boot is complete. -/
def MarshalS.booted (now : Nat) (x : MarshalS) : MarshalS :=
  { x with healthy := true, booting := false, failed := false, lastBeat := now }

/-- Where the active Marshal is not healthy, the booted one leads. -/
theorem exec_marshalBootComplete_lead {m : Marshal} (h : (s.ref.marshal m).booting = true)
    (hactive : (s.ref.marshal s.ref.active).healthy = false) :
    exec (.marshalBootComplete m true) s = .next (s.onRef fun r =>
      { r.onMarshal m (MarshalS.booted s.now) with active := m, activeSince := some s.now, replayed := false }) := by
  rw [exec_marshalBootComplete, execMarshalBootComplete, h, hactive]
  simp only [Bool.not_true, Bool.not_false, Bool.and_false, Bool.false_eq_true, if_false, if_true]
  rfl

/-- Beside a healthy active Marshal the booted one is the standby, and a switch in step 1 goes on. -/
theorem exec_marshalBootComplete_standby {m : Marshal} (h : (s.ref.marshal m).booting = true)
    (hactive : (s.ref.marshal s.ref.active).healthy = true) :
    exec (.marshalBootComplete m true) s =
      let t := s.onRef (·.onMarshal m (MarshalS.booted s.now))
      .next (if s.fw.sw = 1 then t.onFw fun f => { f with sw := 2 } else t) := by
  rw [exec_marshalBootComplete, execMarshalBootComplete, h, hactive]
  simp only [Bool.not_true, Bool.not_false, Bool.and_true, Bool.false_eq_true, if_false, if_true, decide_eq_true_eq]
  rfl

theorem reaches_marshalBootComplete {m : Marshal} (h : (s.ref.marshal m).booting = true) :
    Reaches (exec (.marshalBootComplete m true) s) fun t =>
      (t.ref.marshal m).healthy = true ∧ (t.ref.marshal m).booting = false ∧
      ((s.ref.marshal s.ref.active).healthy = false → t.ref.active = m ∧ t.ref.activeSince = some s.now) ∧
      ((s.ref.marshal s.ref.active).healthy = true → t.ref.active = s.ref.active ∧
        t.fw.sw = if s.fw.sw = 1 then 2 else s.fw.sw) := by
  have hbooted : (s.ref.onMarshal m (MarshalS.booted s.now)).marshal m = MarshalS.booted s.now (s.ref.marshal m) :=
    Referee.onMarshal_same ..
  cases hactive : (s.ref.marshal s.ref.active).healthy
  case false =>
    refine reaches_of_next (exec_marshalBootComplete_lead h hactive) ⟨?_, ?_, fun _ => ⟨rfl, rfl⟩, nofun⟩
    · exact congrArg MarshalS.healthy hbooted
    · exact congrArg MarshalS.booting hbooted
  case true =>
    refine reaches_of_next (exec_marshalBootComplete_standby h hactive) ?_
    generalize hu : (if s.fw.sw = 1 then _ else _ : State) = u
    have href : u.ref = s.ref.onMarshal m (MarshalS.booted s.now) := by rw [← hu]; split <;> rfl
    have hsw : u.fw.sw = if s.fw.sw = 1 then 2 else s.fw.sw := by rw [← hu]; split <;> rfl
    rw [href, hbooted, Referee.onMarshal_active]
    exact ⟨rfl, rfl, nofun, fun _ => ⟨rfl, hsw⟩⟩

theorem reaches_fwSwitchRoleSwap (hsw : s.fw.sw = 2) (hidle : s.active? = none) (hf : s.ref.failover = false) :
    Reaches (exec .fwSwitchRoleSwap s) fun t => t.ref.active = otherMarshal s.ref.active ∧ t.fw.run = (!s.fw.run) ∧
      t.fw.sw = 5 ∧ t.fw.swAt = s.now := by
  refine reaches_of_next rfl ?_
  rw [if_neg (by simp [hsw, hidle, hf]), State.raise_ref, State.raise_fw]
  exact ⟨rfl, rfl, rfl, rfl⟩

/-- The slot of the running image after its update. -/
theorem Firmware.onSlot_run_slot (f : Firmware) (g : FwSlot → FwSlot) :
    (f.onSlot f.run g).slot (f.onSlot f.run g).run = g (f.slot f.run) := by
  cases h : f.run <;> simp [Firmware.onSlot, Firmware.slot, h]

theorem reaches_fwSwitchOldReboot (hsw : s.fw.sw = 5) (hdue : s.fw.swAt + cycS 60 ≤ s.now) :
    Reaches (exec .fwSwitchOldReboot s) fun t => t.fw.sw = 0 ∧
      (t.fw.slot t.fw.run).actseq = (s.fw.slot (!s.fw.run)).actseq + 1 ∧
      (t.ref.marshal (otherMarshal s.ref.active)).booting = true := by
  refine reaches_of_next rfl ?_
  rw [if_neg (by omega)]
  refine ⟨rfl, ?_, ?_⟩
  · exact congrArg FwSlot.actseq (Firmware.onSlot_run_slot s.fw _)
  · exact congrArg MarshalS.booting (Referee.onMarshal_same ..)
end

/-! ### A self-test at idle (R432) -/

section
variable {s : State}

/-- Without a stripe ARMED, RUNNING or STOPPING there is no run. -/
theorem State.run?_of_idle (h : s.active? = none) : s.run? = none := by
  cases hr : s.play.run with
  | none => unfold State.run?; rw [hr]; rfl
  | some r =>
    cases hx : s.stripe? r.st with
    | none => unfold State.run?; rw [hr, Option.bind_some, hx]; rfl
    | some x =>
      have hmem : x ∈ s.jobs.stripes := List.mem_of_find?_eq_some hx
      have hidle : x.st.active = false := by simpa using List.find?_eq_none.1 h x hmem
      have hst : ¬(x.st = .running ∨ x.st = .stopping) := by
        rintro (e | e) <;> rw [e] at hidle <;> exact absurd hidle (by decide)
      unfold State.run?
      rw [hr, Option.bind_some, hx, Option.bind_some, if_neg hst]

/-- A reset of the gain and history unit outside a run only loses the history (R240). -/
theorem State.resetHistory_of_idle (h : s.active? = none) : s.resetHistory = s.loseHistory := by
  unfold State.resetHistory
  rw [State.run?_of_idle h]

/-- The state of a lane alone never quarantines its node (Table 12-9). -/
theorem Link.laneRState_ne_quarantined (l : Link) (n : Nat) : l.laneRState n ≠ .quarantined := by
  unfold Link.laneRState
  split
  case h_6 => split <;> decide
  all_goals decide

/-- A quarantined node has a record that says so. -/
theorem State.repairRec_of_quarantined {r : BitVec 32} (h : s.rstate r = .quarantined) :
    ∃ x, s.repairRec r = some x ∧ x.st = .quarantined := by
  unfold State.rstate at h
  cases hx : s.repairRec r with
  | none =>
    exfalso
    rw [hx] at h
    split at h
    · exact Link.laneRState_ne_quarantined _ _ h
    · dsimp only at h
      split at h <;> cases h
  | some x =>
    refine ⟨x, rfl, ?_⟩
    rw [hx] at h
    dsimp only at h
    split at h
    · split at h
      · assumption
      · exact absurd h (Link.laneRState_ne_quarantined _ _)
    · exact h

theorem State.laneReturn_not_cmd (u : State) (r : BitVec 32) (pass : Bool) : u.laneReturn r false pass = u :=
  if_neg fun ⟨_, _, h, _⟩ => Bool.false_ne_true h

/-- A unit reset outside a run, not on a command, changes no repair record but that of its node. -/
theorem State.rstate_unitReset (h : s.active? = none) (r : BitVec 32) (pass : Bool) :
    (s.unitReset r false pass).rstate r = (s.onRepairRec r (·.tested false pass)).rstate r := by
  unfold State.unitReset
  dsimp only
  rw [State.laneReturn_not_cmd, State.resetHistory_of_idle h]
  generalize hu : (if nodeI1 r = 2 ∧ nodeI2 r = 4 then s.loseHistory else s) = u
  have hrepair : u.repair = s.repair := by rw [← hu]; split <;> rfl
  have hlink : u.link = s.link := by rw [← hu]; split <;> rfl
  have hrec : (u.onRepairRec r (·.tested false pass)).rstate r = (s.onRepairRec r (·.tested false pass)).rstate r := by
    refine State.rstate_of_repair ?_ ?_ r
    · unfold State.onRepairRec
      rw [State.onRepair_repair, State.onRepair_repair, hrepair]
    · exact hlink
  split
  · exact hrec
  · exact hrec

theorem RepairRec.tested_st_of_quarantined {x : RepairRec} (h : x.st = .quarantined) (pass : Bool) :
    (x.tested false pass).st =
      if sparedNode x.node then .quarantined else if pass then .inService else .failed := by
  unfold RepairRec.tested
  rw [h]
  cases pass <;> cases sparedNode x.node <;> rfl

theorem reaches_selfTestAtIdle {node r : BitVec 32} {pass : Bool} (hnode : repairNode node = some r)
    (hidle : s.active? = none) (hst : s.rstate r = .quarantined) (hdue : (s.repairRec r).any (·.selfTest) = true)
    (hlane : outputLane r = true → sparedNode r = true) : Reaches (exec (.selfTestAtIdle node pass) s) fun t =>
      t.rstate r = if sparedNode r then .quarantined else if pass then .inService else .failed := by
  have hexec : exec (.selfTestAtIdle node pass) s = .next (s.unitReset r false pass) := by
    rw [exec_selfTestAtIdle, execSelfTestAtIdle, hnode]
    dsimp only
    rw [hdue, hidle]
    rfl
  refine reaches_of_next hexec ?_
  obtain ⟨x, hx, hq⟩ := State.repairRec_of_quarantined hst
  have hxr : x.node = r := by simpa using List.find?_some hx
  have hrec : (s.onRepairRec r (·.tested false pass)).repairRec r = some (x.tested false pass) := by
    rw [State.repairRec_onRepairRec s r (·.tested false pass) fun _ => rfl, hx, Option.getD_some]
  have htested := RepairRec.tested_st_of_quarantined hq pass
  rw [hxr] at htested
  rw [State.rstate_unitReset hidle]
  unfold State.rstate
  rw [hrec]
  cases hl : outputLane r
  case false => exact htested
  case true =>
    rw [hlane hl] at htested ⊢
    exact if_pos htested
end

/-- Settles O54: each clause is one row, in the case that the clause names. That a replay which fails ends the failover
is log entry 15. -/
theorem marshalLife : Obligations.MarshalLife := by
  unfold Obligations.MarshalLife
  intro s
  exact ⟨fun _ h => reaches_marshalHeartbeat h, fun _ _ h hlate => reaches_heartbeatTimeout ⟨h, hlate⟩,
    fun hf => ⟨reaches_failoverReplayComplete_good hf, reaches_failoverReplayComplete_bad hf⟩,
    fun _ h => reaches_marshalBootComplete h, reaches_fwSwitchRoleSwap, reaches_fwSwitchOldReboot,
    fun _ _ _ hnode hidle hst hdue hlane => reaches_selfTestAtIdle hnode hidle hst hdue hlane⟩

end Sys2Proof.Machine
end

section
/-!
PROOF. What every command and every step keeps, and the plain facts of a step and of a response: obligations O1 to O6
and O9. One case analysis over the rows, `exec_fr`, carries the frame, the answer and the soundness of every command.
-/

namespace Sys2Proof.Machine

/-- Every command answers a next state; only the parts that its row may touch differ, and what is sound stays so. -/
theorem exec_fr (c : Instr) (s : State) : FrA (mayTouch c) s (exec c s) :=
  match c with
  | .sysIdent .. => (execSysIdent_fr ..).mono rfl
  | .sysClaim .. => (execSysClaim_fr ..).mono rfl
  | .sysRelease .. => (execSysRelease_fr ..).mono rfl
  | .sysTakeover .. => (execSysTakeover_fr ..).mono rfl
  | .sysEventq .. => (execSysEventq_fr ..).mono rfl
  | .sysRollcall .. => (execSysRollcall_fr ..).mono rfl
  | .sysReset .. => (execSysReset_fr ..).mono rfl
  | .sysFwStage .. => (execSysFwStage_fr ..).mono rfl
  | .sysFwSwitch .. => (execSysFwSwitch_fr ..).mono rfl
  | .sysFaultlogRead .. => (execSysFaultlogRead_fr ..).mono rfl
  | .jobOpen .. => (execJobOpen_fr ..).mono rfl
  | .jobFeed .. => (execJobFeed_fr ..).mono rfl
  | .jobQuery .. => (execJobQuery_fr ..).mono rfl
  | .jobAbort .. => (execJobAbort_fr ..).mono rfl
  | .jobClose .. => (execJobClose_fr ..).mono rfl
  | .jobLedgerRead .. => (execJobLedgerRead_fr ..).mono rfl
  | .stripeStatus .. => (execStripeStatus_fr ..).mono rfl
  | .stripeArm .. => (execStripeArm_fr ..).mono rfl
  | .stripeDisarm .. => (execStripeDisarm_fr ..).mono rfl
  | .stripeGo .. => (execStripeGo_fr ..).mono rfl
  | .stripeStop .. => (execStripeStop_fr ..).mono rfl
  | .stripeResume .. => (execStripeResume_fr ..).mono rfl
  | .stripeRelease .. => (execStripeRelease_fr ..).mono rfl
  | .beamGainLoad .. => (execBeamGainLoad_fr ..).mono rfl
  | .beamDeadSet .. => (execBeamDeadSet_fr ..).mono rfl
  | .beamDeadClear .. => (execBeamDeadClear_fr ..).mono rfl
  | .beamStuckClear .. => (execBeamStuckClear_fr ..).mono rfl
  | .beamHistoryRead .. => (execBeamHistoryRead_fr ..).mono rfl
  | .beamHistoryPolicy .. => (execBeamHistoryPolicy_fr ..).mono rfl
  | .beamFitSeal .. => (execBeamFitSeal_fr ..).mono rfl
  | .beamStatus .. => (execBeamStatus_fr ..).mono rfl
  | .stageConfig .. => (execStageConfig_fr ..).mono rfl
  | .stageMarks .. => (execStageMarks_fr ..).mono rfl
  | .stageStatus .. => (execStageStatus_fr ..).mono rfl
  | .stageFaultClear .. => (execStageFaultClear_fr ..).mono rfl
  | .stageSwitchTest .. => (execStageSwitchTest_fr ..).mono rfl
  | .stagePacePolicy .. => (execStagePacePolicy_fr ..).mono rfl
  | .stageEmu .. => (execStageEmu_fr ..).mono rfl
  | .camConfig .. => (execCamConfig_fr ..).mono rfl
  | .camSettings .. => (execCamSettings_fr ..).mono rfl
  | .camI2cXfer .. => (execCamI2cXfer_fr ..).mono rfl
  | .camStart .. => (execCamStart_fr ..).mono rfl
  | .camStop .. => (execCamStop_fr ..).mono rfl
  | .camDefects .. => (execCamDefects_fr ..).mono rfl
  | .camShading .. => (execCamShading_fr ..).mono rfl
  | .camTemplate .. => (execCamTemplate_fr ..).mono rfl
  | .camSpotgrid .. => (execCamSpotgrid_fr ..).mono rfl
  | .camRing .. => (execCamRing_fr ..).mono rfl
  | .camStatus .. => (execCamStatus_fr ..).mono rfl
  | .calAcquire .. => (execCalAcquire_fr ..).mono rfl
  | .calTsLimits .. => (execCalTsLimits_fr ..).mono rfl
  | .calTrimRun .. => (execCalTrimRun_fr ..).mono rfl
  | .calGainRun .. => (execCalGainRun_fr ..).mono rfl
  | .calGainAbort src abort => (execCalGainAbort_fr src abort s).mono rfl
  | .calPolicy .. => (execCalPolicy_fr ..).mono rfl
  | .calStatus .. => (execCalStatus_fr ..).mono rfl
  | .linkThermal .. => (execLinkThermal_fr ..).mono rfl
  | .linkStatus .. => (execLinkStatus_fr ..).mono rfl
  | .linkTest .. => (execLinkTest_fr ..).mono rfl
  | .memStatus .. => (execMemStatus_fr ..).mono rfl
  | .memLandingRead .. => (execMemLandingRead_fr ..).mono rfl
  | .dmaConfig .. => (execDmaConfig_fr ..).mono rfl
  | .dmaStart .. => (execDmaStart_fr ..).mono rfl
  | .dmaStop .. => (execDmaStop_fr ..).mono rfl
  | .dmaRingAdvance .. => (execDmaRingAdvance_fr ..).mono rfl
  | .dmaStatus .. => (execDmaStatus_fr ..).mono rfl
  | .cvuCompute .. => (execCvuCompute_fr ..).mono rfl
  | .cvuSave .. => (execCvuSave_fr ..).mono rfl
  | .cvuRestore .. => (execCvuRestore_fr ..).mono rfl
  | .timeDomain .. => (execTimeDomain_fr ..).mono rfl
  | .timeSelect .. => (execTimeSelect_fr ..).mono rfl
  | .timeStatus .. => (execTimeStatus_fr ..).mono rfl
  | .plateProvision .. => (execPlateProvision_fr ..).mono rfl
  | .plateToken .. => (execPlateToken_fr ..).mono rfl
  | .plateStatus .. => (execPlateStatus_fr ..).mono rfl
  | .repairQuery .. => (execRepairQuery_fr ..).mono rfl
  | .repairPolicy .. => (execRepairPolicy_fr ..).mono rfl
  | .repairSpare .. => (execRepairSpare_fr ..).mono rfl
  | .repairReturn .. => (execRepairReturn_fr ..).mono rfl
  | .repairDisable .. => (execRepairDisable_fr ..).mono rfl
  | .codecEncode .. => (execCodecEncode_fr ..).mono rfl
  | .codecDecode .. => (execCodecDecode_fr ..).mono rfl
  | .codecDisable .. => (execCodecDisable_fr ..).mono rfl
  | .traceStart .. => (execTraceStart_fr ..).mono rfl
  | .traceStop src abort => (execTraceStop_fr src abort s).mono rfl
  | .traceStatus .. => (execTraceStatus_fr ..).mono rfl
  | .status .. => (execStatus_fr ..).mono rfl
  | .snapshot .. => (execSnapshot_fr ..).mono rfl
  | .resetMarshal .. => (execResetMarshal_fr ..).mono rfl
  | .resetAll .. => (execResetAll_fr ..).mono rfl
  | .mbDoorbell .. => (execMbDoorbell_fr ..).mono rfl
  | .evqRpWrite .. => (execEvqRpWrite_fr ..).mono rfl
  | .tsnapCtrRead .. => (execTsnapCtrRead_fr ..).mono rfl
  | .supvStatusRead port => (execSupvStatusRead_fr port s).mono rfl
  | .memThaw .. => (execMemThaw_fr ..).mono rfl
  | .dmaCmdStart .. => (execDmaCmdStart_fr ..).mono rfl
  | .dmaCmdResume .. => (execDmaCmdResume_fr ..).mono rfl
  | .dmaCmdDrain .. => (execDmaCmdDrain_fr ..).mono rfl
  | .dmaCmdAbort .. => (execDmaCmdAbort_fr ..).mono rfl
  | .cvuDataFeed .. => (execCvuDataFeed_fr ..).mono rfl
  | .cvuCmdInit .. => (execCvuCmdInit_fr ..).mono rfl
  | .registerWrite .. => (execRegisterWrite_fr ..).mono rfl
  | .parseSlot .. => (execParseSlot_fr ..).mono rfl
  | .canopyPassStart .. => (execCanopyPassStart_fr ..).mono rfl
  | .canopyPassComplete .. => (execCanopyPassComplete_fr ..).mono rfl
  | .canopyFault .. => (execCanopyFault_fr ..).mono rfl
  | .checkPassStart .. => (execCheckPassStart_fr ..).mono rfl
  | .checkPassComplete .. => (execCheckPassComplete_fr ..).mono rfl
  | .landingPassStart .. => (execLandingPassStart_fr ..).mono rfl
  | .tileDispatch .. => (execTileDispatch_fr ..).mono rfl
  | .tileComplete .. => (execTileComplete_fr ..).mono rfl
  | .tileWatchdogExpiry .. => (execTileWatchdogExpiry_fr ..).mono rfl
  | .engineParityError .. => (execEngineParityError_fr ..).mono rfl
  | .graderMismatch .. => (execGraderMismatch_fr ..).mono rfl
  | .panelEncodeStart .. => (execPanelEncodeStart_fr ..).mono rfl
  | .panelEncodeComplete .. => (execPanelEncodeComplete_fr ..).mono rfl
  | .encodeMismatch .. => (execEncodeMismatch_fr ..).mono rfl
  | .decodeLaneFault .. => (execDecodeLaneFault_fr ..).mono rfl
  | .decodeBufferResume .. => (execDecodeBufferResume_fr ..).mono rfl
  | .serviceJobStart .. => (execServiceJobStart_fr ..).mono rfl
  | .serviceJobComplete .. => (execServiceJobComplete_fr ..).mono rfl
  | .segmentLanded .. => (execSegmentLanded_fr ..).mono rfl
  | .sealReadbackComplete .. => (execSealReadbackComplete_fr ..).mono rfl
  | .signatureTableParity .. => (execSignatureTableParity_fr ..).mono rfl
  | .preparationStart .. => (execPreparationStart_fr ..).mono rfl
  | .segmentReady .. => (execSegmentReady_fr ..).mono rfl
  | .arbitrationComplete .. => (execArbitrationComplete_fr ..).mono rfl
  | .copyRewriteComplete .. => (execCopyRewriteComplete_fr ..).mono rfl
  | .extentPatternTest .. => (execExtentPatternTest_fr ..).mono rfl
  | .scrubSegment .. => (execScrubSegment_fr ..).mono rfl
  | .playBufferEcc .. => (execPlayBufferEcc_fr ..).mono rfl
  | .rerenderStart .. => (execRerenderStart_fr ..).mono rfl
  | .rerenderComplete .. => (execRerenderComplete_fr ..).mono rfl
  | .refresh .. => (execRefresh_fr ..).mono rfl
  | .tempBandSample .. => (execTempBandSample_fr ..).mono rfl
  | .memUncorrectable .. => (execMemUncorrectable_fr ..).mono rfl
  | .memAutoThaw .. => (execMemAutoThaw_fr ..).mono rfl
  | .channelRetireTrigger .. => (execChannelRetireTrigger_fr ..).mono rfl
  | .unitMigrationComplete .. => (execUnitMigrationComplete_fr ..).mono rfl
  | .channelRetired .. => (execChannelRetired_fr ..).mono rfl
  | .flashPlace .. => (execFlashPlace_fr ..).mono rfl
  | .fireMarker .. => (execFireMarker_fr ..).mono rfl
  | .voidMarker .. => (execVoidMarker_fr ..).mono rfl
  | .paceFrameSend .. => (execPaceFrameSend_fr ..).mono rfl
  | .paceReply .. => (execPaceReply_fr ..).mono rfl
  | .mcAbsentTimeout .. => (execMcAbsentTimeout_fr ..).mono rfl
  | .encoderTick .. => (execEncoderTick_fr ..).mono rfl
  | .positionFrame .. => (execPositionFrame_fr ..).mono rfl
  | .axisFusion .. => (execAxisFusion_fr ..).mono rfl
  | .encoderIdentityRead .. => (execEncoderIdentityRead_fr ..).mono rfl
  | .referenceMarkEdge .. => (execReferenceMarkEdge_fr ..).mono rfl
  | .markResolve .. => (execMarkResolve_fr ..).mono rfl
  | .switchEdge .. => (execSwitchEdge_fr ..).mono rfl
  | .emuStep .. => (execEmuStep_fr ..).mono rfl
  | .permitInChange .. => (execPermitInChange_fr ..).mono rfl
  | .ackRecord .. => (execAckRecord_fr ..).mono rfl
  | .statusTimeout .. => (execStatusTimeout_fr ..).mono rfl
  | .tempRecord .. => (execTempRecord_fr ..).mono rfl
  | .thermalStaleTimeout .. => (execThermalStaleTimeout_fr ..).mono rfl
  | .stuckRecord .. => (execStuckRecord_fr ..).mono rfl
  | .mgmtRecord .. => (execMgmtRecord_fr ..).mono rfl
  | .mgmtRetryTimeout .. => (execMgmtRetryTimeout_fr ..).mono rfl
  | .linkstatRecord .. => (execLinkstatRecord_fr ..).mono rfl
  | .laneDegradedExit .. => (execLaneDegradedExit_fr ..).mono rfl
  | .returnLaneLost .. => (execReturnLaneLost_fr ..).mono rfl
  | .laneDown .. => (execLaneDown_fr ..).mono rfl
  | .laneBringupRetry .. => (execLaneBringupRetry_fr ..).mono rfl
  | .laneTestComplete .. => (execLaneTestComplete_fr ..).mono rfl
  | .mapsetEchoTimeout .. => (execMapsetEchoTimeout_fr ..).mono rfl
  | .syncBlockSend .. => (execSyncBlockSend_fr ..).mono rfl
  | .blankFrame .. => (execBlankFrame_fr ..).mono rfl
  | .plateAttachTimeout .. => (execPlateAttachTimeout_fr ..).mono rfl
  | .historyIdleDecay .. => (execHistoryIdleDecay_fr ..).mono rfl
  | .historyZero .. => (execHistoryZero_fr ..).mono rfl
  | .historyParityError .. => (execHistoryParityError_fr ..).mono rfl
  | .enforcedIdleEnd .. => (execEnforcedIdleEnd_fr ..).mono rfl
  | .gainParityError .. => (execGainParityError_fr ..).mono rfl
  | .windowEccUncorrectable .. => (execWindowEccUncorrectable_fr ..).mono rfl
  | .datapathMismatch .. => (execDatapathMismatch_fr ..).mono rfl
  | .pclkCheck .. => (execPclkCheck_fr ..).mono rfl
  | .camFrameStart .. => (execCamFrameStart_fr ..).mono rfl
  | .camFrameEnd .. => (execCamFrameEnd_fr ..).mono rfl
  | .camLineStart .. => (execCamLineStart_fr ..).mono rfl
  | .camLineReceived .. => (execCamLineReceived_fr ..).mono rfl
  | .pipelineLineComplete .. => (execPipelineLineComplete_fr ..).mono rfl
  | .locatorComplete .. => (execLocatorComplete_fr ..).mono rfl
  | .camFramePublish .. => (execCamFramePublish_fr ..).mono rfl
  | .i2cTransferComplete .. => (execI2cTransferComplete_fr ..).mono rfl
  | .camHealthPoll .. => (execCamHealthPoll_fr ..).mono rfl
  | .camParityError .. => (execCamParityError_fr ..).mono rfl
  | .bcSample .. => (execBcSample_fr ..).mono rfl
  | .acquisitionComplete .. => (execAcquisitionComplete_fr ..).mono rfl
  | .rtdConversion .. => (execRtdConversion_fr ..).mono rfl
  | .monitorRead .. => (execMonitorRead_fr ..).mono rfl
  | .autoTrimStart .. => (execAutoTrimStart_fr ..).mono rfl
  | .trimRunComplete .. => (execTrimRunComplete_fr ..).mono rfl
  | .gainRunStepComplete .. => (execGainRunStepComplete_fr ..).mono rfl
  | .gainPairEnd .. => (execGainPairEnd_fr ..).mono rfl
  | .descriptorFetch .. => (execDescriptorFetch_fr ..).mono rfl
  | .fetchTimeout .. => (execFetchTimeout_fr ..).mono rfl
  | .burstIssue .. => (execBurstIssue_fr ..).mono rfl
  | .burstComplete .. => (execBurstComplete_fr ..).mono rfl
  | .ptpMessageReceive .. => (execPtpMessageReceive_fr ..).mono rfl
  | .delayReqSend .. => (execDelayReqSend_fr ..).mono rfl
  | .announceTimeout .. => (execAnnounceTimeout_fr ..).mono rfl
  | .domainRevert .. => (execDomainRevert_fr ..).mono rfl
  | .hostLinkDown .. => (execHostLinkDown_fr ..).mono rfl
  | .hostLinkUp .. => (execHostLinkUp_fr ..).mono rfl
  | .hostLeaseExpiry .. => (execHostLeaseExpiry_fr ..).mono rfl
  | .waitingCommandComplete .. => (execWaitingCommandComplete_fr ..).mono rfl
  | .marshalHeartbeat .. => (execMarshalHeartbeat_fr ..).mono rfl
  | .heartbeatTimeout .. => (execHeartbeatTimeout_fr ..).mono rfl
  | .failoverReplayComplete .. => (execFailoverReplayComplete_fr ..).mono rfl
  | .marshalBootComplete .. => (execMarshalBootComplete_fr ..).mono rfl
  | .safeStateExit .. => (execSafeStateExit_fr ..).mono rfl
  | .faultLogFlush .. => (execFaultLogFlush_fr ..).mono rfl
  | .fwSwitchRoleSwap .. => (execFwSwitchRoleSwap_fr ..).mono rfl
  | .fwSwitchOldReboot .. => (execFwSwitchOldReboot_fr ..).mono rfl
  | .selfTestAtIdle .. => (execSelfTestAtIdle_fr ..).mono rfl
  | .vinQualified .. => (execVinQualified_fr ..).mono rfl
  | .startInstant .. => (execStartInstant_fr ..).mono rfl
  | .railEnableTimeout .. => (execRailEnableTimeout_fr ..).mono rfl
  | .railRetry .. => (execRailRetry_fr ..).mono rfl
  | .supplyOutOfRange .. => (execSupplyOutOfRange_fr ..).mono rfl
  | .supplyLossWarning .. => (execSupplyLossWarning_fr ..).mono rfl
  | .refLost .. => (execRefLost_fr ..).mono rfl
  | .pllUnlock .. => (execPllUnlock_fr ..).mono rfl
  | .pllRelockAttempt .. => (execPllRelockAttempt_fr ..).mono rfl
  | .resetN .. => (execResetN_fr ..).mono rfl
  | .perstN .. => (execPerstN_fr ..).mono rfl
  | .thermalShutdown .. => (execThermalShutdown_fr ..).mono rfl
  | .smbusAlertResponse .. => (execSmbusAlertResponse_fr ..).mono rfl
  | .jtagInstruction .. => (execJtagInstruction_fr ..).mono rfl
  | .netPortDown .. => (execNetPortDown_fr ..).mono rfl
  | .refRestored .. => (execRefRestored_fr ..).mono rfl
  | .aonRailOff .. => (execAonRailOff_fr ..).mono rfl
  | .counterFault .. => (execCounterFault_fr ..).mono rfl
  | .refereeSelfCheck .. => (execRefereeSelfCheck_fr ..).mono rfl
  | .agemaxExpiry .. => (execAgemaxExpiry_fr ..).mono rfl
  | .goWaitmaxExpiry .. => (execGoWaitmaxExpiry_fr ..).mono rfl
  | .returnBlockLock .. => (execReturnBlockLock_fr ..).mono rfl
  | .trainPresetExpiry .. => (execTrainPresetExpiry_fr ..).mono rfl
/-! ### Frame and answer of a command -/

/-- Settles O5: the frame of each row is the frame of its meaning. -/
theorem commandFrame : Obligations.CommandFrame := by
  intro c s t h
  obtain ⟨u, hu, hfr⟩ := exec_fr c s
  obtain rfl : u = t := by rw [hu] at h; injection h
  exact hfr.1

/-- Settles O6: each row has a meaning in every state. That a row whose condition fails leaves the state as it is, and
does not stop the block, is the model's choice (log entry 2). -/
theorem everyCommandAnswers : Obligations.EveryCommandAnswers := fun c s =>
  (exec_fr c s).imp fun _ h => h.1

/-! ### Soundness -/

theorem Keeps.sound {s t : State} (h : Keeps s t) (hs : s.sound) : t.sound :=
  ⟨h.1 hs.1, h.2.1 hs.2.1, h.2.2 hs.2.2⟩

theorem exec_sound {c : Instr} {s t : State} (hs : s.sound) (h : exec c s = .next t) : t.sound := by
  obtain ⟨u, hu, hfr⟩ := exec_fr c s
  obtain rfl : u = t := by rw [hu] at h; injection h
  exact hfr.2.sound hs

theorem State.idleTick_sound {s : State} (hs : s.sound) : s.idleTick.sound := by
  unfold State.idleTick
  split
  · exact (s.onTime_fr _).2.sound hs
  · exact hs

theorem step_of_empty {s : State} (h : s.pending = []) : step s = .next s.idleTick := by
  unfold step
  rw [h]

theorem step_of_cons {s : State} {c : Instr} {cs : List Instr} (h : s.pending = c :: cs) :
    step s = exec c { s with pending := cs } := by
  unfold step
  rw [h]

/-- Settles O4: the idle tick moves the counter only, and the front command keeps what is sound. -/
theorem stepKeepsSound : Obligations.StepKeepsSound := by
  intro s t hs h
  cases hp : s.pending with
  | nil =>
    obtain rfl : s.idleTick = t := by rw [step_of_empty hp] at h; injection h
    exact State.idleTick_sound hs
  | cons c cs => exact exec_sound (s := { s with pending := cs }) hs (step_of_cons hp ▸ h)

/-! ### A step and a response -/

/-- Settles O1. -/
theorem frontCommandRuns : Obligations.FrontCommandRuns :=
  ⟨fun _ _ => rfl, fun _ _ _ h => step_of_cons h⟩

/-- Settles O2: the idle tick is the model's choice of log entry 1. -/
theorem idleStepCounts : Obligations.IdleStepCounts := by
  intro s h
  refine ⟨_, step_of_empty h, ?_⟩
  unfold State.idleTick
  split
  · rfl
  · rfl

/-- Settles O3: no cell is listed, and the Referee starts outside the safe state. -/
theorem resetIsSound : Obligations.ResetIsSound :=
  ⟨⟨⟨cellsWf_nil, cellsWf_nil, cellsWf_nil, cellsWf_nil⟩, rfl, fun _ => rfl⟩, rfl⟩

/-- DETAIL of a response is the number it was given (Table 17-3). -/
theorem State.respond_detail {s : State} (h : s.mbsWf) (src : Src) (st : BitVec 16) {detail : Nat}
    (hd : detail < 2 ^ 32) (deferred : Bool) (body : List Word) :
    fld 63 32 ((s.respond src st detail deferred body).mb src.mb).resp1 = detail := by
  rw [State.respond_own h, packW_four, fld_ofNat (by decide) (by decide)]
  have hst := st.isLt
  have hflag : b2n deferred < 2 := by cases deferred <;> decide
  omega

/-- Settles O9. -/
theorem responseIsWritten : Obligations.ResponseIsWritten := by
  intro s src st detail body h hd
  refine ⟨State.respond_answered h .., State.respond_detail h src st hd .., ?_⟩
  rw [State.respond_own h]
  exact ⟨rfl, rfl, rfl, rfl, rfl, fun _ => State.respond_other _ _ _ _ _⟩

end Sys2Proof.Machine
end

section
/-!
PROOF. What a frame leaves, field by field, and how a command is run: the layer that the proofs of the mailbox commands
and of the events share.
-/

namespace Sys2Proof.Machine

/-! ### A part that a frame does not name reads as before -/

section
variable {ps : List Part} {s t : State} (h : Fr ps s t)
include h

theorem Fr.time_eq (hp : .time ∉ ps := by decide) : t.time = s.time := (h.1 .time).resolve_left hp
theorem Fr.jobs_eq (hp : .jobs ∉ ps := by decide) : t.jobs = s.jobs := (h.1 .jobs).resolve_left hp
theorem Fr.render_eq (hp : .render ∉ ps := by decide) : t.render = s.render := (h.1 .render).resolve_left hp
theorem Fr.land_eq (hp : .land ∉ ps := by decide) : t.land = s.land := (h.1 .land).resolve_left hp
theorem Fr.play_eq (hp : .play ∉ ps := by decide) : t.play = s.play := (h.1 .play).resolve_left hp
theorem Fr.beam_eq (hp : .beam ∉ ps := by decide) : t.beam = s.beam := (h.1 .beam).resolve_left hp
theorem Fr.stage_eq (hp : .stage ∉ ps := by decide) : t.stage = s.stage := (h.1 .stage).resolve_left hp
theorem Fr.pacer_eq (hp : .pacer ∉ ps := by decide) : t.pacer = s.pacer := (h.1 .pacer).resolve_left hp
theorem Fr.link_eq (hp : .link ∉ ps := by decide) : t.link = s.link := (h.1 .link).resolve_left hp
theorem Fr.plate_eq (hp : .plate ∉ ps := by decide) : t.plate = s.plate := (h.1 .plate).resolve_left hp
theorem Fr.cams_eq (hp : .cams ∉ ps := by decide) : t.cams = s.cams := (h.1 .cams).resolve_left hp
theorem Fr.meas_eq (hp : .meas ∉ ps := by decide) : t.meas = s.meas := (h.1 .meas).resolve_left hp
theorem Fr.dma_eq (hp : .dma ∉ ps := by decide) : t.dma = s.dma := (h.1 .dma).resolve_left hp
theorem Fr.repair_eq (hp : .repair ∉ ps := by decide) : t.repair = s.repair := (h.1 .repair).resolve_left hp
theorem Fr.ref_eq (hp : .ref ∉ ps := by decide) : t.ref = s.ref := (h.1 .ref).resolve_left hp
theorem Fr.fw_eq (hp : .fw ∉ ps := by decide) : t.fw = s.fw := (h.1 .fw).resolve_left hp
theorem Fr.power_eq (hp : .power ∉ ps := by decide) : t.power = s.power := (h.1 .power).resolve_left hp
theorem Fr.log_eq (hp : .log ∉ ps := by decide) : t.log = s.log := (h.1 .log).resolve_left hp
theorem Fr.ledger_eq (hp : .ledger ∉ ps := by decide) : t.ledger = s.ledger := (h.1 .ledger).resolve_left hp
theorem Fr.trace_eq (hp : .trace ∉ ps := by decide) : t.trace = s.trace := (h.1 .trace).resolve_left hp
theorem Fr.mgmt_eq (hp : .mgmt ∉ ps := by decide) : t.mgmt = s.mgmt := (h.1 .mgmt).resolve_left hp
theorem Fr.out_eq (hp : .out ∉ ps := by decide) : t.out = s.out := (h.1 .out).resolve_left hp
theorem Fr.pending_eq (hp : .pending ∉ ps := by decide) : t.pending = s.pending := (h.1 .pending).resolve_left hp
theorem Fr.mbs_eq (hp : .mailboxes ∉ ps := by decide) : t.host.mbs = s.host.mbs := (h.1 .mailboxes).resolve_left hp
theorem Fr.waiting_eq (hp : .waiting ∉ ps := by decide) : t.host.waiting = s.host.waiting := (h.1 .waiting).resolve_left hp
theorem Fr.held_eq (hp : .bells ∉ ps := by decide) : t.host.held = s.host.held := (h.1 .bells).resolve_left hp

theorem Fr.now_eq (hp : .time ∉ ps := by decide) : t.now = s.now := congrArg TimeBase.ctr (h.time_eq hp)

theorem Fr.mb_eq (n : BitVec 4) (hp : .mailboxes ∉ ps := by decide) : t.mb n = s.mb n := by
  unfold State.mb HostIf.mb
  rw [h.mbs_eq hp]

theorem Fr.waiter_eq (n : BitVec 4) (hp : .waiting ∉ ps := by decide) : t.waiter n = s.waiter n := by
  unfold State.waiter
  rw [h.waiting_eq hp]

theorem Fr.stripe_eq (id : StripeId) (hp : .jobs ∉ ps := by decide) : t.stripe? id = s.stripe? id :=
  State.stripe_of_jobs (h.jobs_eq hp) id

theorem Fr.seg_eq (id : StripeId) (k : Nat) (hp : .jobs ∉ ps := by decide) : t.seg? id k = s.seg? id k :=
  State.seg_of_jobs (h.jobs_eq hp) id k

theorem Fr.run_eq (hj : .jobs ∉ ps := by decide) (hp : .play ∉ ps := by decide) : t.run? = s.run? :=
  State.run_same (congrArg Play.run (h.play_eq hp)) (h.jobs_eq hj)

theorem Fr.rstate_eq (n : BitVec 32) (hr : .repair ∉ ps := by decide) (hl : .link ∉ ps := by decide) :
    t.rstate n = s.rstate n :=
  State.rstate_of_repair (h.repair_eq hr) (h.link_eq hl) n

theorem Fr.mbsWf (hs : s.mbsWf) : t.mbsWf := h.2.2.1 hs

theorem Fr.safePermit (hs : s.safePermit) : t.safePermit := h.2.2.2 hs

theorem Fr.pllDown_eq (hp : .mc ∉ ps := by decide) : t.mc.pllDown = s.mc.pllDown :=
  ((h.1 .mc).resolve_left hp).2.2.2

theorem Fr.port_fixed_eq (p : Port) (hp : .ports ∉ ps := by decide) : (t.port p).fixed = (s.port p).fixed := by
  obtain ⟨ha, hb⟩ := (h.1 .ports).resolve_left hp
  cases p
  · exact ha
  · exact hb

theorem Fr.linkUp_eq (p : Port) (hp : .ports ∉ ps := by decide) : (t.port p).linkUp = (s.port p).linkUp := by
  have hfix := congrArg PortS.linkUp (h.port_fixed_eq p hp)
  exact hfix

theorem Fr.departed_eq (p : Port) (hp : .ports ∉ ps := by decide) : (t.port p).departed = (s.port p).departed := by
  have hfix := congrArg PortS.departed (h.port_fixed_eq p hp)
  exact hfix

theorem Fr.answered {src : Src} {st : BitVec 16} (ha : s.answered src st) (hp : .mailboxes ∉ ps := by decide) :
    t.answered src st := by
  unfold State.answered
  rw [h.mb_eq src.mb hp]
  exact ha
end

/-! ### Preconditions of a command -/

theorem firstFail_cons {b : Bool} {st : BitVec 16} {r : List (Bool × BitVec 16)} (h : b = true) :
    firstFail ((b, st) :: r) = firstFail r := by
  rw [h, firstFail_true]

/-- A command whose preconditions hold answers with its effect (R424). -/
theorem reaches_command {a : Answer} {s : State} {src : Src} {pre : List (Bool × BitVec 16)} {k : State → State}
    {P : State → Prop} (ha : a = .next (s.command src pre k)) (hpre : firstFail pre = none) (h : P (k s)) :
    Reaches a P :=
  reaches_of_next (ha.trans (congrArg _ (State.command_pass hpre))) h

/-- A command refused by its first failing precondition answers with the status, and with nothing else (R424). -/
theorem reaches_command_fail {a : Answer} {s : State} {src : Src} {pre : List (Bool × BitVec 16)} {k : State → State}
    {st : BitVec 16} {P : State → Prop} (ha : a = .next (s.command src pre k)) (hpre : firstFail pre = some st)
    (h : P (s.fail src st)) : Reaches a P :=
  reaches_of_next (ha.trans (congrArg _ (State.command_fail hpre))) h

/-- DEFERRED of a response that has it set (Table 17-3). -/
theorem State.respond_deferred {s : State} (h : s.mbsWf) (src : Src) (st : BitVec 16) (detail : Nat) (body : List Word) :
    ((s.respond src st detail true body).mb src.mb).resp1.getLsbD 17 = true := by
  rw [State.respond_own h, packW_four]
  have hst := st.isLt
  simp only [BitVec.getLsbD_ofNat, Nat.testBit, b2n]
  simp
  omega

end Sys2Proof.Machine
end

section
/-!
PROOF. The SYS reports, resets and firmware commands and the supervisor's commands (Table 17-8, R440, R489): what each
leaves, and obligations O11, O12 and O13.
-/

namespace Sys2Proof.Machine

section
variable {s : State} (src : Src)

/-! ### Reports (O11) -/

theorem layoutBody_length (op : Nat) (vals : List Nat) : (layoutBody op vals).length = (vals.length + 1) / 2 := by
  rw [layoutBody, List.length_map, List.length_range]

theorem reaches_sysIdent (h : s.mbsWf) : Reaches (exec (.sysIdent src) s) fun t =>
    t.answered src ST.ok ∧ (t.mb src.mb).respBody.length = 4 ∧ t.mem = s.mem := by
  refine reaches_of_next rfl ⟨State.ok_answered h .., ?_, State.ok_mem ..⟩
  obtain ⟨-, -, hbody, -⟩ := State.ok_own h src (layoutBody 0x0101 [0xA512, Config.stepping.toNat, Config.serial.toNat,
    s.fw.slot0.version.toNat, s.fw.slot1.version.toNat, marshalNum s.ref.active, b2n s.standbyOk,
    (s.partners.filter (·.2.2.1)).length])
  simp [hbody, layoutBody_length]

theorem exec_sysRollcall_of_buffer {buf : BufRef} (h : outBuf buf 65536 = true) : exec (.sysRollcall src buf) s =
    .next ((s.writeBuf buf s.rollcall).ok src [packW [(0, 32, 16 * s.rollcall.length)]]) := by
  rw [exec_sysRollcall, execSysRollcall, State.command_pass (firstFail_cons h)]

theorem reaches_sysFaultlogRead (h : s.mbsWf) {first count : BitVec 32} {buf : BufRef}
    (hbuf : outBuf buf (64 * count.toNat) = true) :
    let base := s.log.lseq - s.log.buffer.length - s.log.nv.length
    Reaches (exec (.sysFaultlogRead src first count buf) s) fun t => t.answered src ST.ok ∧
      (base ≤ first.toNat → t.mem =
        (s.writeBuf buf ((s.log.nv.drop (first.toNat - base)).take count.toNat).flatten).mem) := by
  intro base
  refine reaches_command rfl (firstFail_cons hbuf) ⟨State.ok_answered ((State.writeBuf_fr ..).mbsWf h) .., fun hle => ?_⟩
  rw [State.ok_mem, if_pos hle]

/-! ### Resets (O12) -/

/-- A commanded module reset outside a thermal shutdown: the counter and host memory stay (Table 19-5). -/
theorem State.hostReset_of_running (h : s.power.shutdown = false) (cause : BitVec 3) : s.hostReset cause =
    s.moduleReset cause true true false { Beam.reset with idleEnd := s.loseHistory.beam.idleEnd } := by
  unfold State.hostReset
  rw [h, if_neg Bool.false_ne_true]

theorem State.cleanStop_mem (s : State) : s.cleanStop.mem = s.mem := State.logEntry_mem ..

theorem reaches_sysReset_module (node : BitVec 32) (hidle : s.active? = none) (hrun : s.power.shutdown = false) :
    Reaches (exec (.sysReset src 0 node) s) fun t => t.jobs = Jobs.reset ∧ t.host = HostIf.reset ∧
      t.mem.landing = [] ∧ t.mem.hostA = s.mem.hostA ∧ t.power.cause = 3 ∧ t.time.ctr = s.time.ctr := by
  have hexec : exec (.sysReset src 0 node) s = .next (s.command src [(s.active?.isNone, ST.sysState)] fun s =>
      ((s.cleanStop).ok src []).hostReset 3) := by
    rw [exec_sysReset, execSysReset, if_pos rfl]
  refine reaches_command hexec (firstFail_cons (by rw [hidle]; rfl)) ?_
  have hpow : (s.cleanStop.ok src []).power.shutdown = false := by
    rw [State.ok_power, (State.cleanStop_fr s).power_eq]
    exact hrun
  rw [State.hostReset_of_running hpow]
  refine ⟨rfl, rfl, rfl, ?_, rfl, ?_⟩
  · have hmem : (s.cleanStop.ok src []).mem = s.mem := (State.ok_mem ..).trans s.cleanStop_mem
    show (s.cleanStop.ok src []).mem.hostA = s.mem.hostA
    rw [hmem]
  · have htime : (s.cleanStop.ok src []).time = s.time := (State.ok_time ..).trans (State.cleanStop_fr s).time_eq
    show (s.cleanStop.ok src []).time.ctr = s.time.ctr
    rw [htime]

theorem reaches_sysReset_standby (h : s.mbsWf) (node : BitVec 32) :
    Reaches (exec (.sysReset src 1 node) s) fun t => t.answered src ST.ok ∧
      (t.ref.marshal (otherMarshal s.ref.active)).booting = true ∧
      (t.ref.marshal (otherMarshal s.ref.active)).healthy = false ∧
      t.ref.marshal s.ref.active = s.ref.marshal s.ref.active := by
  have hexec : exec (.sysReset src 1 node) s = .next ((s.resetM (otherMarshal s.ref.active)).ok src []) := by
    rw [exec_sysReset, execSysReset, if_neg (by decide), if_pos rfl]
  refine reaches_of_next hexec ⟨State.ok_answered (by exact h) .., ?_⟩
  rw [State.ok_ref]
  exact ⟨congrArg _ (Referee.onMarshal_same ..), congrArg _ (Referee.onMarshal_same ..), Referee.onMarshal_other ..⟩

/-- A unit reset, not on a command, changes no repair state but that of its node, in a run too. -/
theorem State.rstate_unitReset_node (s : State) (r : BitVec 32) (pass : Bool) :
    (s.unitReset r false pass).rstate r = (s.onRepairRec r (·.tested false pass)).rstate r := by
  unfold State.unitReset
  dsimp only
  rw [State.laneReturn_not_cmd]
  generalize hu : (if nodeI1 r = 2 ∧ nodeI2 r = 4 then s.resetHistory else s) = u
  have hfr : Fr [.queues, .jobs, .render, .land, .play, .beam, .log, .out] s u := by
    rw [← hu]
    exact Fr.ite (State.resetHistory_fr s) (Fr.refl ..)
  have hrec : (u.onRepairRec r (·.tested false pass)).rstate r = (s.onRepairRec r (·.tested false pass)).rstate r := by
    refine State.rstate_of_repair ?_ ?_ r
    · unfold State.onRepairRec
      rw [State.onRepair_repair, State.onRepair_repair, hfr.repair_eq]
    · exact hfr.link_eq
  split
  · exact hrec
  · exact hrec

/-- The state that a self-test leaves a quarantined instance in (R432, Table 18-2). -/
theorem State.rstate_unitReset_quarantined {r : BitVec 32} (hst : s.rstate r = .quarantined) (pass : Bool)
    (hlane : outputLane r = true → sparedNode r = true) : (s.unitReset r false pass).rstate r =
      if sparedNode r then .quarantined else if pass then .inService else .failed := by
  obtain ⟨x, hx, hq⟩ := State.repairRec_of_quarantined hst
  have hxr : x.node = r := by simpa using List.find?_some hx
  have hrec : (s.onRepairRec r (·.tested false pass)).repairRec r = some (x.tested false pass) := by
    rw [State.repairRec_onRepairRec s r (·.tested false pass) fun _ => rfl, hx, Option.getD_some]
  have htested := RepairRec.tested_st_of_quarantined hq pass
  rw [hxr] at htested
  rw [State.rstate_unitReset_node]
  unfold State.rstate
  rw [hrec]
  cases hl : outputLane r
  case false => exact htested
  case true =>
    rw [hlane hl] at htested ⊢
    exact if_pos htested

theorem reaches_sysReset_unit (h : s.mbsWf) {node r : BitVec 32} (hnode : repairNode node = some r)
    (hst : s.rstate r = .quarantined) (hlane : outputLane r = true → sparedNode r = true) :
    Reaches (exec (.sysReset src 2 node) s) fun t => t.answered src ST.ok ∧
      t.rstate r = if sparedNode r then .quarantined else if Config.selfTest r s.fresh then .inService else .failed := by
  have hexec : exec (.sysReset src 2 node) s = .next (s.command src [(s.rstate r == .quarantined, ST.sysState)] fun s =>
      ((s.unitReset r false (Config.selfTest r s.fresh)).draw).ok src []) := by
    rw [exec_sysReset, execSysReset, if_neg (by decide), if_neg (by decide), if_pos rfl, hnode]
  refine reaches_command hexec (firstFail_cons (by rw [hst]; rfl)) ⟨?_, ?_⟩
  · exact State.ok_answered (by exact (State.unitReset_fr ..).mbsWf h) ..
  · rw [State.rstate_ok, (State.draw_fr _).rstate_eq]
    exact State.rstate_unitReset_quarantined hst _ hlane

/-! ### Firmware (O12) -/

/-- Staging an image touches the slot that does not run alone (R442). -/
theorem Firmware.onSlot_other (f : Firmware) (b : Bool) (g : FwSlot → FwSlot) :
    (f.onSlot (!b) g).slot b = f.slot b ∧ (f.onSlot (!b) g).slot (!b) = g (f.slot (!b)) ∧ (f.onSlot (!b) g).run = f.run := by
  cases b <;> exact ⟨rfl, rfl, rfl⟩

theorem reaches_sysFwStage (h : s.mbsWf) {buf : BufRef} (hsw : s.fw.sw = 0) (hbuf : s.bufReads buf = true) :
    let image := s.mem.bytes buf.space buf.addr.toNat buf.len.toNat
    Reaches (exec (.sysFwStage src buf) s) fun t => t.fw.slot s.fw.run = s.fw.slot s.fw.run ∧ t.fw.run = s.fw.run ∧
      if Config.imageValid image then t.answered src ST.ok ∧ (t.fw.slot (!s.fw.run)).valid = true ∧
        (t.fw.slot (!s.fw.run)).version = Config.imageVersion image
      else t.answered src ST.sysFwImage ∧ t.fw = s.fw := by
  intro image
  cases himage : Config.imageValid image
  case true =>
    refine reaches_command rfl ?_ ?_
    · rw [firstFail_cons hbuf, firstFail_cons (by rw [hsw]; rfl), firstFail_cons himage, firstFail_nil]
    · rw [State.ok_fw, State.onFw_fw, if_pos rfl]
      obtain ⟨hrun, hother, hsame⟩ := s.fw.onSlot_other s.fw.run fun t =>
        { t with version := Config.imageVersion image, bootfail := 0, valid := true }
      exact ⟨hrun, hsame, State.ok_answered (by exact h) .., congrArg _ hother, congrArg _ hother⟩
  case false =>
    refine reaches_command_fail (st := ST.sysFwImage) rfl ?_ ?_
    · rw [firstFail_cons hbuf, firstFail_cons (by rw [hsw]; rfl), himage, firstFail_false]
    · rw [State.fail_fw, if_neg Bool.false_ne_true]
      exact ⟨rfl, rfl, State.fail_answered h .., rfl⟩

theorem reaches_sysFwSwitch (h : s.mbsWf) (hvalid : (s.fw.slot (!s.fw.run)).valid = true) (hstandby : s.standbyOk = true) :
    Reaches (exec (.sysFwSwitch src) s) fun t => t.answered src ST.ok ∧ t.fw.sw = 1 ∧ t.fw.swAt = s.now ∧
      (t.ref.marshal (otherMarshal s.ref.active)).booting = true := by
  refine reaches_command rfl ?_ ⟨State.respond_answered (by exact h) .., ?_⟩
  · rw [firstFail_cons hvalid, firstFail_cons hstandby, firstFail_nil]
  · rw [State.respond_fw, State.respond_ref]
    exact ⟨rfl, rfl, congrArg _ (Referee.onMarshal_same ..)⟩
end

/-- Settles O11. -/
theorem systemReports : Obligations.SystemReports :=
  ⟨fun _ src h => reaches_sysIdent src h, fun _ src _ h => exec_sysRollcall_of_buffer src h,
    fun _ src _ _ _ h hbuf => reaches_sysFaultlogRead src h hbuf⟩

/-- Settles O12: SYS.RESET in its three scopes, FW.STAGE and FW.SWITCH. That scope 0 resets at once after its response
is log entry 16, that an empty memory reads 0 log entry 4. -/
theorem resetAndFirmwareCommands : Obligations.ResetAndFirmwareCommands :=
  ⟨fun _ src node hidle hrun => reaches_sysReset_module src node hidle hrun,
    fun _ src node h => reaches_sysReset_standby src h node,
    fun _ src _ _ h hnode hst hlane => reaches_sysReset_unit src h hnode hst hlane,
    fun _ src _ h hsw hbuf => reaches_sysFwStage src h hsw hbuf,
    fun _ src h hvalid hstandby => reaches_sysFwSwitch src h hvalid hstandby⟩

/-! ### The supervisor's commands (O13) -/

section
variable {s : State} (via : Via)

theorem State.msix17_ref (s : State) : s.msix17.ref = s.ref := by
  unfold State.msix17
  rw [State.msix_ref, State.msix_ref]

/-- SUPV.RESULT holds the outcome and CODE; the data of a served command are four doublewords (Table 21-5). -/
theorem State.supvDone_ref (s : State) (code : Nat) (ok : Bool) (data : List (BitVec 64)) :
    (s.supvDone via code ok data).ref = { s.ref with
      supvResult := BitVec.ofNat 64 ((if ok then 2 else 3) + 2 ^ 8 * code + 2 ^ 16 * viaNum via +
        2 ^ 32 * fld 47 32 s.ref.supvResult)
      supvData := if ok then (List.range 4).map fun i => data.getD i 0 else s.ref.supvData } := by
  unfold State.supvDone
  dsimp only
  rw [State.msix17_ref]
  cases via with
  | window p => rfl
  | smbus => cases ok <;> rfl

/-- The outcome field of SUPV.RESULT and its CODE. -/
theorem fld_supvResult {outcome code v ign : Nat} (ho : outcome < 256) (hc : code < 256) :
    fld 7 0 (BitVec.ofNat 64 (outcome + 2 ^ 8 * code + 2 ^ 16 * v + 2 ^ 32 * ign)) = outcome ∧
      fld 15 8 (BitVec.ofNat 64 (outcome + 2 ^ 8 * code + 2 ^ 16 * v + 2 ^ 32 * ign)) = code := by
  rw [fld_ofNat (by decide) (by decide), fld_ofNat (by decide) (by decide)]
  omega

theorem State.supvDone_result (s : State) {code : Nat} (hc : code < 256) (ok : Bool) (data : List (BitVec 64)) :
    fld 7 0 (s.supvDone via code ok data).ref.supvResult = (if ok then 2 else 3) ∧
      fld 15 8 (s.supvDone via code ok data).ref.supvResult = code := by
  rw [State.supvDone_ref]
  exact fld_supvResult (by split <;> decide) hc

theorem State.supv_of_refused {code : Nat} {data : List (BitVec 64)} {k : State → State} (hpow : s.power.powered = true) :
    s.supv via code false data k = s.supvDone via code false [] := by
  unfold State.supv
  rw [hpow]
  rfl

/-- STATUS is served in a thermal shutdown too (R466). -/
theorem State.supv_status {data : List (BitVec 64)} {k : State → State} (hpow : s.power.powered = true) :
    s.supv via 0x51 true data k = (k s).supvDone via 0x51 true data := by
  unfold State.supv
  rw [hpow]
  dsimp only
  rw [beq_self_eq_true, Bool.or_true, Bool.true_or, Bool.and_self]
  rfl

theorem reaches_status (hpow : s.power.powered = true) : Reaches (exec (.status via) s) fun t =>
    fld 7 0 t.ref.supvResult = 2 ∧ fld 15 8 t.ref.supvResult = 0x51 ∧
      t.ref.supvData = [BitVec.ofNat 64 s.supvStatus, BitVec.ofNat 64 s.now, 0, 0] := by
  refine reaches_of_next rfl ?_
  rw [State.supv_status via hpow]
  obtain ⟨hout, hcode⟩ := s.supvDone_result via (code := 0x51) (by decide) true
    [BitVec.ofNat 64 s.supvStatus, BitVec.ofNat 64 s.now]
  exact ⟨hout, hcode, by rw [State.supvDone_ref]; rfl⟩

theorem map_getD_range_four {l : List (BitVec 64)} (h : l.length = 4) : (List.range 4).map (fun i => l.getD i 0) = l :=
  match l, h with
  | [_, _, _, _], _ => rfl

theorem State.snapshotData_length (s : State) (off : Nat) : (s.snapshotData off).length = 4 := by
  rw [State.snapshotData, List.length_map, List.length_range]

theorem reaches_snapshot {off : BitVec 16} (hpow : s.power.powered = true) (hrun : s.power.shutdown = false)
    (hoff : off.toNat ≤ 992) : Reaches (exec (.snapshot via off) s) fun t =>
      fld 7 0 t.ref.supvResult = 2 ∧ fld 15 8 t.ref.supvResult = 0x52 ∧ t.ref.supvData = s.snapshotData off.toNat := by
  refine reaches_of_next rfl ?_
  rw [decide_eq_true hoff, State.supv_of_served hpow hrun]
  obtain ⟨hout, hcode⟩ := s.supvDone_result via (code := 0x52) (by decide) true (s.snapshotData off.toNat)
  exact ⟨hout, hcode, by rw [id, State.supvDone_ref]; exact map_getD_range_four (s.snapshotData_length _)⟩

theorem reaches_snapshot_refused {off : BitVec 16} (hpow : s.power.powered = true) (hoff : 992 < off.toNat) :
    Reaches (exec (.snapshot via off) s) fun t => fld 7 0 t.ref.supvResult = 3 ∧ t.ref.supvData = s.ref.supvData := by
  refine reaches_of_next rfl ?_
  rw [decide_eq_false (by omega), State.supv_of_refused via hpow]
  obtain ⟨hout, -⟩ := s.supvDone_result via (code := 0x52) (by decide) false []
  exact ⟨hout, by rw [State.supvDone_ref]; rfl⟩

theorem reaches_resetMarshal {arg : BitVec 8} {m : Marshal} (hpow : s.power.powered = true)
    (hrun : s.power.shutdown = false) (harg : arg = BitVec.ofNat 8 (marshalNum m))
    (hmay : m ≠ s.ref.active ∨ s.ref.safe = true) : Reaches (exec (.resetMarshal via arg) s) fun t =>
      fld 7 0 t.ref.supvResult = 2 ∧ (t.ref.marshal m).booting = true ∧ (t.ref.marshal m).healthy = false := by
  have hm : (if arg = 0 then Marshal.a else .b) = m := by subst harg; cases m <;> rfl
  have hle : arg.toNat ≤ 1 := by subst harg; cases m <;> decide
  have hform : (decide (arg.toNat ≤ 1) && !(m == s.ref.active && !s.ref.safe)) = true := by
    rcases hmay with hne | hsafe
    · simp [hle, hne]
    · simp [hle, hsafe]
  refine reaches_of_next rfl ?_
  rw [hm, hform, State.supv_of_served hpow hrun]
  obtain ⟨hout, -⟩ := (s.resetM m).supvDone_result via (code := 0x53) (by decide) true []
  rw [State.supvDone_ref] at hout ⊢
  have hself := Referee.onMarshal_same s.ref m fun x => { x with healthy := false, booting := true, failed := false }
  exact ⟨hout, congrArg MarshalS.booting hself, congrArg MarshalS.healthy hself⟩

theorem reaches_resetAll (hpow : s.power.powered = true) (hrun : s.power.shutdown = false) :
    Reaches (exec (.resetAll via 0x5AA5#16) s) fun t => fld 7 0 t.ref.supvResult = 2 ∧ t.ref.safe = true ∧
      t.ref.latchedC = none ∧ t.ref.resetPend = some (s.now + cycMs 1) ∧ t.fw.slot0.bootfail = 0 ∧
      t.fw.slot1.bootfail = 0 ∧ t.log.clean = true := by
  refine reaches_of_next rfl ?_
  rw [beq_self_eq_true, hrun, Bool.not_false, Bool.true_or, Bool.and_self, State.supv_of_served hpow hrun]
  generalize hu : State.onFw _ _ = u
  have hsafe : u.ref.safe = true := by
    rw [← hu]
    show (s.safeEnter 7).cleanStop.ref.safe = true
    rw [(s.safeEnter 7).cleanStop_fr.ref_eq, State.safeEnter_safe]
  have hclean : u.log.clean = true := by
    obtain ⟨h, -⟩ := (s.safeEnter 7).cleanStop_endsClean
    rw [← hu]
    exact h
  have hlatched : u.ref.latchedC = none := by rw [← hu]; rfl
  have hpend : u.ref.resetPend = some (s.now + cycMs 1) := by rw [← hu]; rfl
  have hboot : u.fw.slot0.bootfail = 0 ∧ u.fw.slot1.bootfail = 0 := by rw [← hu]; exact ⟨rfl, rfl⟩
  obtain ⟨hout, -⟩ := u.supvDone_result via (code := 0x54) (by decide) true []
  rw [(State.supvDone_fr ..).fw_eq, (State.supvDone_fr ..).log_eq]
  refine ⟨hout, ?_, ?_, ?_, hboot.1, hboot.2, hclean⟩
  all_goals rw [State.supvDone_ref]
  · exact hsafe
  · exact hlatched
  · exact hpend
end

/-- Settles O13. That every command of the supervisor is answered in its own step is log entry 69. -/
theorem supervisorCommands : Obligations.SupervisorCommands :=
  ⟨fun _ via hpow => reaches_status via hpow, fun _ via _ hpow hrun hoff => reaches_snapshot via hpow hrun hoff,
    fun _ via _ hpow hoff => reaches_snapshot_refused via hpow hoff,
    fun _ via _ _ hpow hrun harg hmay => reaches_resetMarshal via hpow hrun harg hmay,
    fun _ via hpow hrun => reaches_resetAll via hpow hrun, fun _ _ => rfl⟩

end Sys2Proof.Machine
end

section
/-!
PROOF. Ports that come and go (R412), the safe state's events (R439 to R441, R478, R479), supply, start-up and resets
(chapter 19) and the clocks (R453 to R455): what each row leaves, and obligations O53, O55, O56 and O57.
-/

namespace Sys2Proof.Machine

-- Many proofs here are the first to unfold their functions of the model, and side by side each would hold a thread.
set_option Elab.async false

/-! ### Host ports (R412) -/

section
variable {s : State} {p : Port}

theorem State.depart_departed (s : State) (p : Port) : ((s.depart p).port p).departed = true := by
  unfold State.depart
  split
  · assumption
  · rw [(State.raise_fr ..).departed_eq, State.port_onPort]

theorem State.depart_linkUp (s : State) (p : Port) : ((s.depart p).port p).linkUp = (s.port p).linkUp := by
  unfold State.depart
  split
  · rfl
  · rw [(State.raise_fr ..).linkUp_eq, State.port_onPort]

theorem State.linkDown_port (h : (s.port p).linkUp = true) :
    (s.linkDown p).port p = { s.port p with linkUp := false, downAt := s.now } := by
  unfold State.linkDown
  rw [if_pos h, State.port_onPort]

/-- A link that the state still holds up goes down and its port departs in the same row. -/
theorem reaches_hostLinkDown_up (h : (s.port p).linkUp = true) : Reaches (exec (.hostLinkDown p) s) fun t =>
    (t.port p).linkUp = false ∧ (t.port p).departed = true := by
  refine reaches_of_next rfl ?_
  rw [if_pos h]
  refine ⟨?_, State.depart_departed ..⟩
  rw [State.depart_linkUp, State.linkDown_port h]

theorem reaches_hostLinkDown_late (h : (s.port p).linkUp = false) (hlate : (s.port p).downAt + cycMs 100 ≤ s.now) :
    Reaches (exec (.hostLinkDown p) s) fun t => (t.port p).departed = true := by
  refine reaches_of_next rfl ?_
  rw [if_neg (by simp [h]), if_pos hlate]
  exact State.depart_departed ..

theorem reaches_hostLinkUp (h : (s.port p).linkUp = false) : Reaches (exec (.hostLinkUp p) s) fun t =>
    (t.port p).linkUp = true ∧ (t.port p).departed = false := by
  refine reaches_of_next rfl ?_
  rw [if_neg (by simp [h]), (State.raise_fr ..).linkUp_eq, (State.raise_fr ..).departed_eq, State.port_onPort]
  exact ⟨rfl, rfl⟩

theorem reaches_hostLeaseExpiry (h : (s.port p).lease ≠ 0)
    (hlate : (s.port p).lastBell + cycMs (s.port p).lease.toNat ≤ s.now) :
    Reaches (exec (.hostLeaseExpiry p) s) fun t => (t.port p).departed = true := by
  have hdue : ((s.port p).lease != 0 && decide ((s.port p).lastBell + cycMs (s.port p).lease.toNat ≤ s.now)) = true := by
    rw [Bool.and_eq_true]
    exact ⟨bne_iff_ne.2 h, decide_eq_true hlate⟩
  refine reaches_of_next rfl ?_
  rw [if_pos hdue]
  exact State.depart_departed ..

theorem reaches_perstN (h : (s.port p).linkUp = true) : Reaches (exec (.perstN p) s) fun t =>
    (t.port p).linkUp = false ∧ (t.port p).downAt = s.now := by
  refine reaches_of_next rfl ?_
  rw [State.linkDown_port h]
  exact ⟨rfl, rfl⟩

/-- A command that is answered waits no more (R418). -/
theorem State.waiter_unwait (s : State) (mb : BitVec 4) : (s.unwait mb).waiter mb = none := by
  refine List.find?_eq_none.2 fun w hw => ?_
  obtain ⟨-, hne⟩ := List.mem_filter.1 hw
  simpa using hne

theorem State.waiter_ok (s : State) (src : Src) (body : List Word) (mb : BitVec 4) :
    (s.ok src body).waiter mb = s.waiter mb := by
  unfold State.waiter
  rw [State.ok_waiting]

theorem exec_waitingCommandComplete_of_waiter {mb : BitVec 4} {w : Waiting} (hw : s.waiter mb = some w)
    (hf : s.firmware = true) : exec (.waitingCommandComplete mb) s = .next (s.recheck mb w) := by
  rw [exec_waitingCommandComplete, execWaitingCommandComplete, hw]
  dsimp only
  rw [if_pos hf]

theorem State.recheck_dmaStop (s : State) (mb : BitVec 4) (src : Src) (chan : BitVec 5) (ab : Bool) (since : Nat) :
    s.recheck mb ⟨src, .dmaStop src chan ab, since⟩ =
      if (s.dmaCh chan.toNat).st = .draining then s else (s.unwait mb).ok src [] := by
  unfold State.recheck
  simp only

theorem reaches_waitingDmaStop {mb : BitVec 4} {src : Src} {chan : BitVec 5} {ab : Bool} {since : Nat} (h : s.mbsWf)
    (hw : s.waiter mb = some ⟨src, .dmaStop src chan ab, since⟩) (hf : s.firmware = true) :
    Reaches (exec (.waitingCommandComplete mb) s) fun t =>
      if (s.dmaCh chan.toNat).st = .draining then t = s else t.answered src ST.ok ∧ t.waiter mb = none := by
  refine reaches_of_next (exec_waitingCommandComplete_of_waiter hw hf) ?_
  rw [State.recheck_dmaStop]
  split
  · rfl
  · exact ⟨State.ok_answered (by exact h) .., by rw [State.waiter_ok, State.waiter_unwait]⟩
end

/-- Settles O53. That HOST_LINK_DOWN reports, of a port whose link the state holds up, a link that has been down for
its 100 ms is the row's reading of R412; that DMA.STOP waits while its channel drains is log entry 80. -/
theorem hostPorts : Obligations.HostPorts := by
  intro s p
  exact ⟨reaches_hostLinkDown_up, reaches_hostLinkDown_late, reaches_hostLinkUp, reaches_hostLeaseExpiry, reaches_perstN,
    fun _ _ _ _ _ h _ hw hf => reaches_waitingDmaStop h hw hf⟩

/-! ### The safe state (R439 to R441) -/

section
variable {s : State}

theorem State.msix17_fr' (s : State) : Fr [.queues, .out] s s.msix17 := by
  unfold State.msix17
  exact (State.msix_fr ..).trans (State.msix_fr ..)

theorem reaches_safeStateExit (h : s.safeMayEnd = true) : Reaches (exec .safeStateExit s) fun t =>
    t.ref.safe = false ∧ t.ref.cause = 0 ∧ t.ref.alert = false ∧ t.power.ready = true ∧ t.power.supplyBad = none := by
  refine reaches_of_next rfl ?_
  rw [h, Bool.not_true, if_neg Bool.false_ne_true]
  dsimp only
  rw [State.msix17_ref, State.logEntry_ref, State.raise_ref, (State.msix17_fr' _).power_eq, State.logEntry_power,
    State.raise_power]
  exact ⟨rfl, rfl, rfl, rfl, rfl⟩

theorem reaches_safeStateExit_early (h : s.safeMayEnd = false) : Reaches (exec .safeStateExit s) fun t => t = s := by
  refine reaches_of_next rfl ?_
  rw [h, Bool.not_false, if_pos rfl]

/-- Causes 3 and 6 latch, whether the safe state was held or not (R439). -/
theorem State.safeEnter_latched (s : State) (c : BitVec 8) :
    (s.safeEnter c).ref.latchedC = if c = 3 || c = 6 then some c else s.ref.latchedC := by
  cases h : s.ref.safe
  · obtain ⟨b, e⟩ := State.safeEnter_ref h c
    rw [e]
  · rw [State.safeEnter_held h]
    rfl

theorem reaches_refereeSelfCheck (h : s.safePermit) : Reaches (exec .refereeSelfCheck s) fun t =>
    t.ref.safe = true ∧ t.ref.permitOut = false ∧ t.ref.latchedC = some 3 :=
  reaches_of_next rfl ⟨State.safeEnter_safe .., State.safeEnter_permit h _, State.safeEnter_latched ..⟩

theorem reaches_supplyOutOfRange (rail : BitVec 3) (h : s.safePermit) (hon : s.power.railsOn = true) :
    Reaches (exec (.supplyOutOfRange rail) s) fun t =>
      t.ref.safe = true ∧ t.ref.permitOut = false ∧ t.power.supplyBad = some s.now := by
  refine reaches_of_next rfl ?_
  rw [hon, Bool.not_true, if_neg Bool.false_ne_true]
  refine ⟨State.safeEnter_safe .., State.safeEnter_permit ?_ _, ?_⟩
  · exact (State.logEntry_fr ..).safePermit h
  · rw [(State.safeEnter_fr ..).power_eq, State.logEntry_power]
    rfl

/-! ### The fault log's flush (R447) -/

/-- The ring of the log is the same, and its buffer has at most grown. -/
structure FaultLog.Grows (l m : FaultLog) : Prop where
  nv : m.nv = l.nv
  buffer : l.buffer <+: m.buffer

theorem FaultLog.Grows.refl (l : FaultLog) : l.Grows l := ⟨rfl, List.prefix_refl _⟩

theorem State.logEntry_grows (s : State) (e : Event) : s.log.Grows (s.logEntry e).log := by
  unfold State.logEntry
  split
  · exact ⟨rfl, List.prefix_append ..⟩
  · exact ⟨rfl, List.prefix_refl _⟩

theorem State.fault_grows {s t : State} (h : t.log = s.log) (job : Option (BitVec 16)) (e : Event) :
    s.log.Grows (t.fault job e).log := by
  have hraise : (t.raiseVia none job e).log = s.log := (State.raiseVia_log ..).trans h
  exact hraise ▸ State.logEntry_grows ..

theorem State.quarantine_grows (s : State) (n : BitVec 32) : s.log.Grows (s.quarantine n).log := by
  unfold State.quarantine State.quarantineWith
  split
  · exact State.fault_grows (by rfl) ..
  · exact .refl _

theorem State.sectorFails_grows (s : State) (n : Nat) : s.log.Grows (s.sectorFails n).log := by
  unfold State.sectorFails
  dsimp only
  generalize standIn _ _ = m
  rw [(State.assignSpare_fr ..).log_eq]
  exact State.quarantine_grows ..

theorem reaches_faultLogFlush (h : s.log.buffer ≠ []) : Reaches (exec .faultLogFlush s) fun t =>
    if Config.nvWrite s.fresh then t.log.buffer = [] ∧
      t.log.nv = (s.log.nv ++ s.log.buffer).drop ((s.log.nv ++ s.log.buffer).length - 16384)
    else t.log.nv = s.log.nv ∧ s.log.buffer <+: t.log.buffer := by
  have hsome : s.log.buffer.isEmpty = false := by simpa using h
  refine reaches_of_next rfl ?_
  unfold State.flushLog
  rw [hsome, if_neg Bool.false_ne_true]
  dsimp only
  split
  · show s.log.flush.buffer = [] ∧ s.log.flush.nv = _
    refine ⟨FaultLog.flush_buffer _, ?_⟩
    unfold FaultLog.flush
    rw [hsome, if_neg Bool.false_ne_true]
  · have hgrows := State.sectorFails_grows s.draw 3
    exact ⟨hgrows.nv, hgrows.buffer⟩

theorem reaches_smbusAlertResponse (halert : s.ref.alert = true) (hpow : s.power.powered = true) :
    Reaches (exec .smbusAlertResponse s) fun t =>
      t.out = s.out ++ [.smbus [BitVec.ofNat 8 (0x5C + s.mgmt.smbAddr.toNat)]] := by
  refine reaches_of_next rfl ?_
  rw [halert, hpow, Bool.and_self, if_pos rfl]
  rfl

theorem reaches_jtagInstruction (i : JtagInstr) : Reaches (exec (.jtagInstruction i) s) fun t =>
    t.mgmt.jtag = if (i = .extest ∨ i = .intest ∨ i = .clamp) ∧ s.power.ready = true ∧ s.ref.safe = false then .bypass
      else i := by
  refine reaches_of_next rfl ?_
  rw [State.onMgmt_mgmt]
  simp only [Bool.and_eq_true, Bool.or_eq_true, beq_iff_eq, Bool.not_eq_true', and_assoc, or_assoc]
end

/-- Settles O55. Whether the flush verifies is free (log entry 54); the PEC of the alert answer is left out (log
entry 19). -/
theorem safeStateEvents : Obligations.SafeStateEvents := fun _ =>
  ⟨reaches_safeStateExit, reaches_safeStateExit_early, reaches_refereeSelfCheck, reaches_supplyOutOfRange,
    reaches_faultLogFlush, reaches_smbusAlertResponse, reaches_jtagInstruction⟩

/-! ### Supply and resets (R449 to R452, R460, R466) -/

section
variable {s : State}

theorem reaches_vinQualified_start (h : s.power.powered = false) : Reaches (exec .vinQualified s) fun t =>
    t.power.powered = true ∧ t.power.qualified = true ∧ t.power.railsOn = false ∧ t.jobs = Jobs.reset ∧
      t.mem.landing = [] ∧ t.log.nv = s.log.nv ∧ t.power.cause = if s.log.clean then 0 else 1 := by
  refine reaches_of_next rfl ?_
  rw [h, Bool.false_and, Bool.false_and, if_neg Bool.false_ne_true]
  exact ⟨rfl, rfl, rfl, rfl, rfl, rfl, rfl⟩

theorem reaches_railEnableTimeout (rail : BitVec 3) (hramp : s.power.ramps = true) (hoff : s.power.railOffAt = none)
    (hrails : s.power.railsOn = false) : Reaches (exec (.railEnableTimeout rail) s) fun t => t.power = { s.power with
      railTries := s.power.railTries + 1, railOffAt := some s.now, railsHeld := decide (3 ≤ s.power.railTries + 1) } := by
  refine reaches_of_next rfl ?_
  rw [hramp, hoff, hrails, if_neg (by decide), State.onPower_power, State.logEntry_power]

theorem reaches_railRetry (hramp : s.power.ramps = true) (hoff : s.power.railOffAt.isSome = true) :
    Reaches (exec .railRetry s) fun t => t.power = { s.power with railOffAt := none } := by
  refine reaches_of_next rfl ?_
  rw [hramp, hoff, Bool.and_self, if_pos rfl, State.onPower_power]

/-- The log of a clean stop stays as the islands go down. -/
theorem FaultLog.EndsClean.flushed {l : FaultLog} (h : l.EndsClean) : l.clean = true ∧ l.buffer = [] := ⟨h.1, h.2.1⟩

theorem reaches_supplyLossWarning (hpow : s.power.powered = true) (hstop : s.power.stopped = false) :
    Reaches (exec .supplyLossWarning s) fun t => t.ref.safe = true ∧ t.ref.permitOut = false ∧ t.power.stopped = true ∧
      t.power.railsOn = false ∧ t.power.qualified = false ∧ t.log.clean = true ∧ t.log.buffer = [] := by
  refine reaches_of_next rfl ?_
  rw [hpow, hstop, if_neg (by decide)]
  refine ⟨rfl, rfl, rfl, rfl, rfl, ?_⟩
  rw [State.onRef_log, State.onPower_log, State.powerDown_log]
  exact (State.cleanStop_endsClean _).flushed

theorem reaches_thermalShutdown (hpow : s.power.powered = true) (hshut : s.power.shutdown = false) :
    Reaches (exec .thermalShutdown s) fun t => t.power.shutdown = true ∧ t.power.railsOn = false ∧
      t.ref.permitOut = false ∧ t.log.clean = true ∧ t.log.buffer = [] := by
  refine reaches_of_next rfl ?_
  rw [hpow, hshut, if_neg (by decide)]
  refine ⟨rfl, rfl, rfl, ?_⟩
  rw [State.onPower_log, State.powerDown_log]
  exact (State.cleanStop_endsClean _).flushed

theorem reaches_resetN (hpow : s.power.powered = true) : Reaches (exec .resetN s) fun t => t.jobs = Jobs.reset ∧
    t.mem.landing = [] ∧ t.ref.permitOut = false ∧ t.repair.recs = s.repair.recs ∧ t.fw.slot0 = s.fw.slot0 ∧
      t.fw.slot1 = s.fw.slot1 ∧ t.plate.keyM = s.plate.keyM ∧ t.beam.idleEnd = some (cycMs 50) := by
  refine reaches_of_next rfl ?_
  rw [hpow, if_neg (by decide)]
  exact ⟨rfl, rfl, rfl, rfl, rfl, rfl, rfl, rfl⟩

theorem reaches_aonRailOff (hpow : s.power.powered = true) : Reaches (exec .aonRailOff s) fun t =>
    t.power.powered = false ∧ t.power.railsOn = false ∧ t.ref.permitOut = false ∧ t.log.nv = s.log.nv := by
  refine reaches_of_next rfl ?_
  rw [hpow, if_neg (by decide)]
  exact ⟨rfl, rfl, rfl, rfl⟩

/-! ### Start-up to READY (Table 19-4) -/

/-- With an image to boot, a Marshal A that passes leads (R457, R459). -/
theorem State.bootMarshals_of_image {rep : StartReport} {slot : Bool} (hsel : s.fw.select = some slot)
    (hok : rep.marshalAOk = true) : (s.bootMarshals rep).ref.active = .a ∧ (s.bootMarshals rep).ref.ma.healthy = true ∧
      (s.bootMarshals rep).fw.run = slot := by
  unfold State.bootMarshals
  rw [hsel, hok]
  exact ⟨rfl, rfl, rfl⟩

/-- READY and its event change nothing of the supply and of the firmware's slots. -/
theorem State.readyReport_fr (s : State) (e : Event) (c : Prop) [Decidable c] (e' : Event) :
    Fr [.queues, .log, .out] s (if c then (s.raise e).logEntry e else ((s.raise e).logEntry e).raise e') := by
  have hlog : Fr [.queues, .log, .out] s ((s.raise e).logEntry e) :=
    ((State.raise_fr ..).mono (by decide)).trans ((State.logEntry_fr ..).mono (by decide))
  split
  · exact hlog
  · exact hlog.trans ((State.raise_fr ..).mono (by decide))

/-- READY (R458). -/
theorem State.reachReady_eqs (s : State) : s.reachReady.power = { s.power with ready := true } ∧
    s.reachReady.fw.run = s.fw.run ∧ (s.reachReady.fw.slot s.fw.run).bootfail = 0 := by
  unfold State.reachReady
  dsimp only
  rw [(State.readyReport_fr ..).power_eq, (State.readyReport_fr ..).fw_eq]
  refine ⟨rfl, ?_⟩
  show (s.fw.onSlot s.fw.run _).run = _ ∧ ((s.fw.onSlot s.fw.run _).slot s.fw.run).bootfail = 0
  unfold Firmware.onSlot Firmware.slot
  split <;> exact ⟨rfl, rfl⟩

/-- The state from which a good start reaches READY. -/
def State.started (s : State) (rep : StartReport) : State :=
  ((((((s.onPower fun p => { p with railsOn := true, railTries := 0, lost := [] }).onMgmt fun m =>
    { m with smbAddr := rep.smbAddr }).bootMarshals rep).onTime fun t => { t with running := true }).startFailures
      rep).startLanes).centre

theorem State.startUp_of_good {rep : StartReport} (href : rep.refereeOk = true)
    (hma : (s.started rep).ref.ma.healthy = true) : s.startUp rep = (s.started rep).reachReady := by
  unfold State.startUp
  dsimp only
  rw [href, Bool.not_true, if_neg Bool.false_ne_true]
  exact if_neg (by rw [show State.centre _ = s.started rep from rfl, hma, Bool.not_true, Bool.false_and]; decide)

theorem State.started_eqs {rep : StartReport} {slot : Bool} (hsel : s.fw.select = some slot)
    (hok : rep.marshalAOk = true) : (s.started rep).ref.active = .a ∧ (s.started rep).ref.ma.healthy = true ∧
      (s.started rep).fw.run = slot ∧ (s.started rep).power.railsOn = true ∧ (s.started rep).time.running = true := by
  unfold State.started
  generalize hu : (s.onPower _).onMgmt _ = u
  obtain ⟨hactive, hhealthy, hrun⟩ := State.bootMarshals_of_image (s := u) (rep := rep) (by rw [← hu]; exact hsel) hok
  have hpow : (u.bootMarshals rep).power.railsOn = true := by
    rw [(State.bootMarshals_fr ..).power_eq, ← hu]
    rfl
  generalize u.bootMarshals rep = v at hactive hhealthy hrun hpow
  generalize hw : State.startLanes _ = w
  have hfr : Fr [.queues, .mc, .repair, .log, .link, .out] (v.onTime fun t => { t with running := true }) w := by
    rw [← hw]
    exact ((State.startFailures_fr ..).mono (by decide)).trans ((State.startLanes_fr ..).mono (by decide))
  rw [w.centre_fr.ref_eq, w.centre_fr.fw_eq, w.centre_fr.time_eq, hfr.ref_eq, hfr.fw_eq, hfr.time_eq]
  refine ⟨hactive, hhealthy, hrun, ?_, rfl⟩
  show w.power.railsOn = true
  rw [hfr.power_eq]
  exact hpow

theorem exec_startInstant_of_may {rep : StartReport} (hpend : s.ref.resetPend = none) (hmay : s.mayStart = true) :
    exec (.startInstant rep) s = .next (s.startUp rep) := by
  rw [exec_startInstant, execStartInstant, hpend]
  dsimp only
  rw [if_neg Bool.false_ne_true, if_pos hmay]

theorem reaches_startInstant {rep : StartReport} {slot : Bool} (hpend : s.ref.resetPend = none)
    (hmay : s.mayStart = true) (href : rep.refereeOk = true) (hok : rep.marshalAOk = true)
    (hsel : s.fw.select = some slot) : Reaches (exec (.startInstant rep) s) fun t => t.power.ready = true ∧
      t.power.railsOn = true ∧ t.time.running = true ∧ t.ref.active = .a ∧ t.ref.ma.healthy = true ∧ t.fw.run = slot ∧
      (t.fw.slot slot).bootfail = 0 := by
  obtain ⟨hactive, hhealthy, hrun, hrails, htime⟩ := State.started_eqs hsel hok
  obtain ⟨hpow, hsame, hboot⟩ := (s.started rep).reachReady_eqs
  refine reaches_of_next (exec_startInstant_of_may hpend hmay) ?_
  rw [State.startUp_of_good href hhealthy]
  generalize s.started rep = u at hactive hhealthy hrun hrails htime hpow hsame hboot
  rw [(State.reachReady_fr _).time_eq, (State.reachReady_fr _).ref_eq, hpow, ← hrun]
  exact ⟨rfl, hrails, htime, hactive, hhealthy, hsame, hboot⟩
end

/-- Settles O56. What survives a reset is log entry 17, the empty landing memory log entry 4, the safe state at the loss
of supply log entry 18, the retry of a rail log entry 70, the start of the enforced idle log entry 71. -/
theorem supplyAndResets : Obligations.SupplyAndResets := fun _ =>
  ⟨reaches_vinQualified_start, fun _ _ => reaches_startInstant, reaches_railEnableTimeout, reaches_railRetry,
    reaches_supplyLossWarning, reaches_thermalShutdown, reaches_resetN, reaches_aonRailOff⟩

/-! ### Clocks (R453 to R455) -/

section
variable {s : State}

theorem State.clockLost_power (s : State) (c : Clock) : (s.clockLost c).power =
    if s.power.lost.contains c then s.power else { s.power with lost := s.power.lost ++ [c] } := by
  unfold State.clockLost
  split
  · rfl
  · cases c
    case pllC | pllL | beamTree | timeTree => exact (State.safeEnter_fr ..).power_eq
    case pllM => rfl
    case pllN =>
      exact (((State.netDown_fr ..).trans (State.netDown_fr ..)).trans ((State.reselect_fr _).mono (by decide))).power_eq
    case pcie => exact ((State.linkDown_fr ..).trans (State.linkDown_fr ..)).power_eq

theorem State.clockLost_mem_lost (s : State) (c : Clock) : c ∈ (s.clockLost c).power.lost := by
  rw [State.clockLost_power]
  split
  · exact List.contains_iff_mem.1 ‹_›
  · exact List.mem_append_right _ (List.mem_singleton.2 rfl)

theorem State.clockLost_keeps_lost {c d : Clock} (h : d ∈ s.power.lost) : d ∈ (s.clockLost c).power.lost := by
  rw [State.clockLost_power]
  split
  · exact h
  · exact List.mem_append_left _ h

theorem State.clockLost_refOk (s : State) (c : Clock) : (s.clockLost c).power.refOk = s.power.refOk := by
  rw [State.clockLost_power]
  split <;> rfl

/-- The clocks whose loss enters the safe state (Table 19-3). -/
theorem State.clockLost_enters {c : Clock} (hnew : s.power.lost.contains c = false)
    (h : c = .pllC ∨ c = .pllL ∨ c = .beamTree ∨ c = .timeTree) : (s.clockLost c).ref.safe = true := by
  unfold State.clockLost
  rw [hnew, if_neg Bool.false_ne_true]
  rcases h with rfl | rfl | rfl | rfl <;> exact State.safeEnter_safe ..

theorem State.clockLost_keeps_safe {c : Clock} (h : s.ref.safe = true) : (s.clockLost c).ref.safe = true := by
  by_cases hnew : s.power.lost.contains c = true
  · unfold State.clockLost
    rw [if_pos hnew]
    exact h
  · unfold State.clockLost
    rw [if_neg hnew]
    cases c
    case pllC | pllL | beamTree | timeTree => exact State.safeEnter_safe ..
    case pllM => exact h
    case pllN =>
      rw [((State.netDown_fr ..).trans ((State.netDown_fr ..).trans ((State.reselect_fr _).mono (by decide)))).ref_eq]
      exact h
    case pcie =>
      rw [((State.linkDown_fr ..).trans (State.linkDown_fr ..)).ref_eq]
      exact h

theorem State.foldl_clockLost_lost {cs : List Clock} {c : Clock} (h : c ∈ cs ∨ c ∈ s.power.lost) :
    c ∈ (cs.foldl State.clockLost s).power.lost := by
  induction cs generalizing s with
  | nil => exact h.resolve_left List.not_mem_nil
  | cons d cs ih =>
    refine ih ?_
    rcases h with h | h
    · rcases List.mem_cons.1 h with rfl | h
      · exact .inr (State.clockLost_mem_lost ..)
      · exact .inl h
    · exact .inr (State.clockLost_keeps_lost h)

theorem State.foldl_clockLost_refOk (cs : List Clock) (s : State) :
    (cs.foldl State.clockLost s).power.refOk = s.power.refOk := by
  induction cs generalizing s with
  | nil => rfl
  | cons d cs ih => exact (ih _).trans (State.clockLost_refOk ..)

theorem State.foldl_clockLost_safe {cs : List Clock} (h : s.ref.safe = true) :
    (cs.foldl State.clockLost s).ref.safe = true := by
  induction cs generalizing s with
  | nil => exact h
  | cons d cs ih => exact ih (State.clockLost_keeps_safe h)

theorem reaches_refLost (hon : s.power.railsOn = true) (hok : s.power.refOk = true) : Reaches (exec .refLost s) fun t =>
    t.power.refOk = false ∧ (s.power.lost.contains .pllC = false → t.ref.safe = true) ∧
      ∀ c ∈ [Clock.pllC, .pllM, .pllL, .pllN, .pcie], c ∈ t.power.lost := by
  refine reaches_of_next rfl ?_
  rw [hon, hok, Bool.and_self, if_pos rfl]
  refine ⟨State.foldl_clockLost_refOk .., fun hnew => ?_, fun c hc => State.foldl_clockLost_lost (.inl hc)⟩
  exact State.foldl_clockLost_safe (cs := [.pllM, .pllL, .pllN, .pcie]) (State.clockLost_enters (by exact hnew) (.inl rfl))

/-! What the loss of one PLL stops -/

theorem State.domLost_nets (s : State) (d : BitVec 1) :
    (s.domLost d).time.netA = s.time.netA ∧ (s.domLost d).time.netB = s.time.netB := by
  unfold State.domLost
  split
  · rw [State.fault_time]
    unfold State.domTo TimeBase.onDom
    rw [State.onTime_time]
    split <;> exact ⟨rfl, rfl⟩
  · exact ⟨rfl, rfl⟩

theorem State.netDown_nets (s : State) (p : NetPort) :
    (s.netDown p).time.netA = (s.time.netA && p != .netA) ∧ (s.netDown p).time.netB = (s.time.netB && p != .netB) := by
  unfold State.netDown
  dsimp only
  generalize hu : State.onTime s _ = u
  have hnets : u.time.netA = (s.time.netA && p != .netA) ∧ u.time.netB = (s.time.netB && p != .netB) := by
    rw [← hu]
    cases p <;> simp
  have hdom (v : State) (d : BitVec 1) (c : Prop) [Decidable c] :
      (if c then v.domLost d else v).time.netA = v.time.netA ∧ (if c then v.domLost d else v).time.netB = v.time.netB := by
    split
    · exact v.domLost_nets d
    · exact ⟨rfl, rfl⟩
  rw [(hdom _ 1 _).1, (hdom _ 1 _).2, (hdom _ 0 _).1, (hdom _ 0 _).2]
  exact hnets

/-- A change of the selection (R402, R404) moves no more of the time base than what device time is made of. -/
def TimeBase.Reselected (b c : TimeBase) : Prop :=
  ∃ y e t i, c = { b with sel := y, e0 := e, t0 := t, initial := i }

theorem TimeBase.Reselected.refl (b : TimeBase) : b.Reselected b := ⟨b.sel, b.e0, b.t0, b.initial, rfl⟩

theorem TimeBase.Reselected.trans {b c d : TimeBase} (h : b.Reselected c) (k : c.Reselected d) : b.Reselected d := by
  obtain ⟨_, _, _, _, rfl⟩ := h
  obtain ⟨y, e, t, i, rfl⟩ := k
  exact ⟨y, e, t, i, rfl⟩

theorem State.selectDomain_reselected (s : State) (y : BitVec 1) : s.time.Reselected (s.selectDomain y).time := by
  unfold State.selectDomain
  split
  · exact .refl _
  · dsimp only
    rw [State.raise_time]
    exact ⟨_, _, _, _, rfl⟩

theorem State.initialStep_reselected (s : State) : s.time.Reselected s.initialStep.time := by
  unfold State.initialStep
  split
  · rw [State.raise_time]
    exact ⟨s.time.sel, _, _, _, rfl⟩
  · exact .refl _

theorem State.reselect_reselected (s : State) : s.time.Reselected s.reselect.time :=
  (s.selectDomain_reselected _).trans (State.initialStep_reselected _)

theorem State.reselect_nets (s : State) : s.reselect.time.netA = s.time.netA ∧ s.reselect.time.netB = s.time.netB := by
  obtain ⟨_, _, _, _, h⟩ := s.reselect_reselected
  rw [h]
  exact ⟨rfl, rfl⟩

theorem State.linkDown_down (s : State) (p : Port) : ((s.linkDown p).port p).linkUp = false := by
  cases h : (s.port p).linkUp
  · unfold State.linkDown
    rw [if_neg (by simp [h])]
    exact h
  · rw [State.linkDown_port h]

theorem State.linkDown_keeps_down {p q : Port} (h : (s.port q).linkUp = false) : ((s.linkDown p).port q).linkUp = false := by
  unfold State.linkDown
  split
  · cases p <;> cases q
    case hostA.hostA | hostB.hostB => rfl
    case hostA.hostB | hostB.hostA => exact h
  · exact h

theorem reaches_pllUnlock {c : Clock} (hon : s.power.railsOn = true) (hnew : s.power.lost.contains c = false) :
    Reaches (exec (.pllUnlock c) s) fun t => t.power.lost = s.power.lost ++ [c] ∧
      (c = .pllC ∨ c = .pllL ∨ c = .beamTree ∨ c = .timeTree → t.ref.safe = true) ∧
      (c = .pllM → t.mc.pllDown = true) ∧ (c = .pllN → t.time.netA = false ∧ t.time.netB = false) ∧
      (c = .pcie → t.host.portA.linkUp = false ∧ t.host.portB.linkUp = false) := by
  refine reaches_of_next rfl ?_
  rw [if_pos hon]
  refine ⟨?_, State.clockLost_enters hnew, ?_, ?_, ?_⟩
  case refine_1 => rw [State.clockLost_power, hnew, if_neg Bool.false_ne_true]
  all_goals
    rintro rfl
    unfold State.clockLost
    rw [hnew, if_neg Bool.false_ne_true]
    dsimp only
  · rfl
  · rw [(State.reselect_nets _).1, (State.reselect_nets _).2, (State.netDown_nets _ .netB).1, (State.netDown_nets _ .netB).2,
      (State.netDown_nets _ .netA).1, (State.netDown_nets _ .netA).2]
    simp
  · exact ⟨State.linkDown_keeps_down (q := .hostA) (State.linkDown_down ..), State.linkDown_down _ .hostB⟩

/-! ### Relock (R455) -/

/-- The two figures of a lost clock that the end of a run does not touch. -/
def State.clockFigures (s : State) : List Clock × Bool := (s.power.lost, s.mc.pllDown)

theorem Fr.clockFigures_eq {ps : List Part} {t : State} (h : Fr ps s t) (hp : .power ∉ ps := by decide)
    (hm : .mc ∉ ps := by decide) : t.clockFigures = s.clockFigures := by
  unfold State.clockFigures
  rw [h.power_eq hp, h.pllDown_eq hm]

theorem State.programBand_clockFigures (s : State) : s.programBand.clockFigures = s.clockFigures := by
  unfold State.programBand
  split <;> rfl

theorem State.leaveActive_clockFigures (s : State) : s.leaveActive.clockFigures = s.clockFigures := by
  unfold State.leaveActive
  rw [(State.restartTrims_fr _).clockFigures_eq, (State.applyTrims_fr _).clockFigures_eq, State.programBand_clockFigures,
    (State.permitCheck_fr _).clockFigures_eq, (State.releaseSelect_fr _).clockFigures_eq]

theorem State.haltRun_clockFigures (s : State) (r : Run) (x : Stripe) (fh : Nat) :
    (s.haltRun r x fh).clockFigures = s.clockFigures := by
  unfold State.haltRun
  dsimp only
  rw [(State.raiseSt_fr ..).clockFigures_eq,
    (Fr.foldl (Fr.refl [.queues, .log, .out] _) fun t c h => h.trans (State.raiseCause_fr ..)).clockFigures_eq,
    (State.plateCommit_fr _).clockFigures_eq, State.leaveActive_clockFigures, (State.closeTail_fr _).clockFigures_eq]
  show ((s.dutyFlash x []).settleDeficits r x |>.freeSlots x.id).clockFigures = _
  rw [(State.freeSlots_fr ..).clockFigures_eq, (State.settleDeficits_fr ..).clockFigures_eq,
    (State.dutyFlash_fr ..).clockFigures_eq]

theorem State.abortAll_clockFigures (s : State) (l : List (BitVec 16)) (f : Mem → Mem) :
    ((l.foldl (fun t j => t.finishAbort j none) s).onMem f).clockFigures = s.clockFigures := by
  have hfold := Fr.foldl (xs := l) (Fr.refl [.queues, .jobs, .render, .land, .bytes, .play, .dma, .ledger, .out] s)
    fun t j h => h.trans (State.finishAbort_fr t j none)
  exact hfold.clockFigures_eq

theorem State.loseLanded_clockFigures (s : State) : s.loseLanded.clockFigures = s.clockFigures := by
  unfold State.loseLanded
  dsimp only
  rw [State.abortAll_clockFigures]
  split
  · exact State.haltRun_clockFigures ..
  · rfl

theorem exec_pllRelockAttempt_due {c : Clock} (hok : s.power.refOk = true) (hlost : s.power.lost.contains c = true)
    (hdue : s.due ((s.power.triedAt.find? (·.1 == c)).map (·.2)) (cycMs 10) = true) (locked : Bool) :
    exec (.pllRelockAttempt c locked) s = .next (
      if !locked then s.onPower fun p => { p with triedAt := p.triedAt.filter (·.1 != c) ++ [(c, s.now)] }
      else
        let s1 := s.onPower fun p => { p with lost := p.lost.filter (· != c), triedAt := p.triedAt.filter (·.1 != c) }
        match c with
        | .pllM =>
          (s1.onMc fun m => { m with pllDown := false, stA := m.stA.trainAll, stB := m.stB.trainAll }).centre.loseLanded
        | .pllN => s1.onTime fun t => { t with netA := true, netB := true }
        | _ => s1) := by
  rw [exec_pllRelockAttempt, execPllRelockAttempt]
  dsimp only
  rw [hok, hlost, hdue, if_neg (by decide)] <;> rfl

theorem not_mem_filter_ne {α : Type} [BEq α] [LawfulBEq α] (l : List α) (c : α) : c ∉ l.filter (· != c) := by
  simp

theorem reaches_pllRelock_locked {c : Clock} (hok : s.power.refOk = true) (hlost : s.power.lost.contains c = true)
    (hdue : s.due ((s.power.triedAt.find? (·.1 == c)).map (·.2)) (cycMs 10) = true) :
    Reaches (exec (.pllRelockAttempt c true) s) fun t => c ∉ t.power.lost ∧
      (c = .pllM → t.mc.pllDown = false ∧ t.mem.landing = []) ∧
      (c = .pllN → t.time.netA = true ∧ t.time.netB = true) := by
  refine reaches_of_next (exec_pllRelockAttempt_due hok hlost hdue true) ?_
  rw [Bool.not_true, if_neg Bool.false_ne_true]
  have hgone := not_mem_filter_ne s.power.lost c
  cases c
  case pllM =>
    dsimp only
    generalize hu : State.centre _ = u
    have hfig : (u.loseLanded.power.lost, u.loseLanded.mc.pllDown) = (s.power.lost.filter (· != .pllM), false) := by
      rw [← hu]
      exact State.loseLanded_clockFigures _
    obtain ⟨hl, hd⟩ := Prod.mk.inj hfig
    exact ⟨hl ▸ hgone, fun _ => ⟨hd, rfl⟩, nofun⟩
  case pllN => exact ⟨hgone, nofun, fun _ => ⟨rfl, rfl⟩⟩
  all_goals exact ⟨hgone, nofun, nofun⟩

theorem reaches_pllRelock_failed {c : Clock} (hok : s.power.refOk = true) (hlost : s.power.lost.contains c = true)
    (hdue : s.due ((s.power.triedAt.find? (·.1 == c)).map (·.2)) (cycMs 10) = true) :
    Reaches (exec (.pllRelockAttempt c false) s) fun t => t.power.lost = s.power.lost ∧
      t.power.triedAt = s.power.triedAt.filter (·.1 != c) ++ [(c, s.now)] :=
  reaches_of_next (exec_pllRelockAttempt_due hok hlost hdue false) ⟨rfl, rfl⟩
end

/-- Settles O57. What a lost clock stops, and that nets are up again with PLL-N, is log entry 18; an empty landing
memory reads 0 by log entry 4. -/
theorem clockEvents : Obligations.ClockEvents := fun _ =>
  ⟨reaches_refLost, reaches_of_next rfl rfl, fun _ => reaches_pllUnlock,
    fun _ hok hlost hdue => ⟨reaches_pllRelock_failed hok hlost hdue, reaches_pllRelock_locked hok hlost hdue⟩⟩

end Sys2Proof.Machine
end

section
/-!
PROOF. The JOB and STRIPE groups of Table 17-9: what the release of a stripe and of a job leaves of the jobs held, and
obligations O14 and O15.
-/

namespace Sys2Proof.Machine

/-! ### The jobs held, under what ends a stripe -/

section
variable {s : State}

/-- The jobs held, and the state of each stripe held: what the records of a run and a pass over its segments leave. -/
def State.standing (s : State) : List Job × List (StripeId × StripeSt) :=
  (s.jobs.jobs, s.jobs.stripes.map fun x => (x.id, x.st))

theorem State.standing_of_jobs {s t : State} (h : t.jobs = s.jobs) : t.standing = s.standing := by
  unfold State.standing
  rw [h]

theorem State.standing_onStripe (s : State) (id : StripeId) {f : Stripe → Stripe}
    (hid : ∀ x, (f x).id = x.id := by exact fun _ => rfl) (hst : ∀ x, (f x).st = x.st := by exact fun _ => rfl) :
    (s.onStripe id f).standing = s.standing := by
  refine congrArg (Prod.mk s.jobs.jobs) ?_
  show (s.jobs.stripes.map _).map _ = _
  rw [List.map_map]
  refine List.map_congr_left fun x _ => ?_
  show ((if x.id = id then f x else x).id, (if x.id = id then f x else x).st) = _
  split
  · rw [hid, hst]
  · rfl

/-- The state of a stripe is read from what stands. -/
theorem State.st_of_standing {s t : State} (h : t.standing = s.standing) (id : StripeId) :
    (t.stripe? id).map (·.st) = (s.stripe? id).map (·.st) := by
  have hfind (l : List Stripe) : (l.find? (·.id == id)).map (·.st) =
      ((l.map fun x => (x.id, x.st)).find? (·.1 == id)).map (·.2) := by
    rw [List.find?_map, Option.map_map]
    rfl
  show (t.jobs.stripes.find? _).map _ = (s.jobs.stripes.find? _).map _
  rw [hfind, hfind, show t.jobs.stripes.map _ = _ from congrArg Prod.snd h]
  rfl

theorem State.jobList_of_standing {s t : State} (h : t.standing = s.standing) : t.jobs.jobs = s.jobs.jobs :=
  congrArg Prod.fst h

theorem State.recordSeg_standing (s : State) (x : Stripe) (r : Run) (q : Nat) (e : Exposure) :
    (s.recordSeg x r q e).standing = s.standing := by
  unfold State.recordSeg
  dsimp only
  split
  · rfl
  · refine (State.standing_onStripe ..).trans (State.standing_of_jobs ?_)
    rw [(State.recordPut_fr ..).jobs_eq, (State.annexPut_fr ..).jobs_eq]

theorem State.recordRange_standing (s : State) (id : StripeId) (r : Run) (f : Stripe → Nat → Exposure) (qs : List Nat) :
    (s.recordRange id r f qs).standing = s.standing := by
  induction qs generalizing s with
  | nil => rfl
  | cons q qs ih =>
    unfold State.recordRange
    split
    · exact (ih _).trans (State.recordSeg_standing ..)
    · rfl

theorem State.forceTail_standing (s : State) : s.forceTail.standing = s.standing := by
  unfold State.forceTail
  split
  · exact State.recordRange_standing ..
  · rfl

theorem State.finishHalt_standing (s : State) (id : StripeId) (qr : Option Nat) :
    (s.finishHalt id qr).standing = s.standing := by
  unfold State.finishHalt
  dsimp only
  split
  · exact s.forceTail_standing
  · exact (State.standing_onStripe ..).trans
      ((State.recordRange_standing ..).trans s.forceTail_standing)

theorem State.freeSlots_standing (s : State) (id : StripeId) : (s.freeSlots id).standing = s.standing :=
  State.standing_onStripe ..

theorem State.dropReentry_standing (s : State) : s.dropReentry.standing = s.standing := by
  unfold State.dropReentry
  split
  · rfl
  · exact State.freeSlots_standing ..

/-- The stripes after a release are those that are not the one released. -/
theorem State.releaseStripe_stripe_self (s : State) (id : StripeId) : (s.releaseStripe id).stripe? id = none := by
  refine List.find?_eq_none.2 fun x hx => ?_
  obtain ⟨-, hne⟩ := List.mem_filter.1 hx
  simpa using hne

theorem State.releaseStripe_jobList (s : State) (id : StripeId) :
    (s.releaseStripe id).jobs.jobs = s.jobs.jobs := by
  rw [← State.jobList_of_standing (s.finishHalt_standing id none)]
  unfold State.releaseStripe
  dsimp only
  generalize s.finishHalt id none = u
  have hevent (c : Prop) [Decidable c] (e : Event) : (if c then u.raiseSt id e else u).jobs.jobs = u.jobs.jobs := by
    split
    · rw [(State.raiseSt_fr ..).jobs_eq]
    · rfl
  exact hevent ..

theorem State.releaseStripes_jobList (s : State) (ids : List StripeId) :
    (ids.foldl (fun t id => t.releaseStripe id) s).jobs.jobs = s.jobs.jobs := by
  induction ids generalizing s with
  | nil => rfl
  | cons id ids ih => exact (ih _).trans (s.releaseStripe_jobList id)

theorem State.releaseJob_jobList (s : State) (job : BitVec 16) :
    (s.releaseJob job).jobs.jobs = s.jobs.jobs.filter (·.id != job) :=
  congrArg (List.filter fun j : Job => j.id != job) (State.releaseStripes_jobList s _)

theorem State.releaseJob_job_self (s : State) (job : BitVec 16) : (s.releaseJob job).job? job = none := by
  refine List.find?_eq_none.2 fun j hj => ?_
  rw [State.releaseJob_jobList] at hj
  obtain ⟨-, hne⟩ := List.mem_filter.1 hj
  simpa using hne

theorem State.releaseJob_job_other (s : State) {job i : BitVec 16} (h : i ≠ job) : (s.releaseJob job).job? i = s.job? i := by
  show (s.releaseJob job).jobs.jobs.find? _ = s.jobs.jobs.find? _
  rw [State.releaseJob_jobList, List.find?_filter]
  congr 1
  funext j
  by_cases hj : j.id = i
  · simp [hj, h]
  · simp [hj]

theorem State.finishAbort_job_self (s : State) (job : BitVec 16) (via : Option Src) :
    (s.finishAbort job via).job? job = none := State.releaseJob_job_self ..

/-! ### The JOB commands -/

theorem State.ok_job (s : State) (src : Src) (body : List Word) (i : BitVec 16) : (s.ok src body).job? i = s.job? i :=
  State.job_of_jobs (State.ok_jobs ..) i

theorem State.ok_stripe (s : State) (src : Src) (body : List Word) (i : StripeId) :
    (s.ok src body).stripe? i = s.stripe? i := State.stripe_of_jobs (State.ok_jobs ..) i

theorem find_append_singleton_self {α : Type} {l : List α} {p : α → Bool} {a : α} (h : l.find? p = none) (ha : p a = true) :
    (l ++ [a]).find? p = some a := by
  rw [List.find?_append, h, List.find?_cons_of_pos ha, Option.none_or]

theorem find_append_singleton_other {α : Type} {l : List α} {p : α → Bool} {a : α} (ha : p a = false) :
    (l ++ [a]).find? p = l.find? p := by
  rw [List.find?_append, List.find?_cons_of_neg (by rw [ha]; exact Bool.false_ne_true), List.find?_nil, Option.or_none]

theorem openPre_holds {job : BitVec 16} {target : BitVec 2} (hring : s.jobs.parser.job = none) (hnew : s.job? job = none)
    (hroom : s.jobs.jobs.length < 16)
    (hplate : target = 0 → s.plate.attached.isSome = true ∧ s.plate.eol = false ∧ s.plate.refused = false) :
    firstFail (openPre job target s) = none := by
  unfold openPre
  rw [hring, hnew, Option.isNone_none, Option.isNone_none, firstFail_true, firstFail_true,
    firstFail_cons (decide_eq_true hroom)]
  by_cases ht : target = 0
  · obtain ⟨hatt, heol, href⟩ := hplate ht
    rw [hatt, heol, href, Bool.or_true, Bool.not_false, Bool.or_true]
    rfl
  · rw [bne_iff_ne.2 ht]
    rfl

theorem reaches_jobOpen {src : Src} {job : BitVec 16} {target : BitVec 2} {dual : Bool} (h : s.mbsWf)
    (hring : s.jobs.parser.job = none) (hnew : s.job? job = none) (hroom : s.jobs.jobs.length < 16)
    (hplate : target = 0 → s.plate.attached.isSome = true ∧ s.plate.eol = false ∧ s.plate.refused = false) :
    Reaches (exec (.jobOpen src job target dual) s) fun t => t.answered src ST.ok ∧
      (∃ j, t.job? job = some j ∧ j.owner = src.port ∧ j.target = target ∧ j.dual = dual ∧ j.st = .streaming) ∧
      t.jobs.parser = { Parser.reset with job := some job } ∧ (∀ i, i ≠ job → t.job? i = s.job? i) := by
  refine reaches_command rfl (openPre_holds hring hnew hroom hplate) ?_
  refine ⟨State.ok_answered (by exact h) .., ⟨Job.opened src job target dual s.plate.attached, ?_, rfl, rfl, rfl, rfl⟩,
    ?_, fun i hi => ?_⟩
  · rw [State.ok_job]
    exact find_append_singleton_self hnew (beq_self_eq_true job)
  · rw [State.ok_jobs]
    rfl
  · rw [State.ok_job]
    exact find_append_singleton_other (beq_eq_false_iff_ne.2 hi.symm)

theorem Job.mine_iff {j : Job} {src : Src} : j.mine src = true ↔ j.owner = src.port := beq_iff_eq

theorem reaches_jobFeed {src : Src} {job : BitVec 16} {wp : BitVec 32} {j : Job} (h : s.mbsWf) (hj : s.job? job = some j)
    (hown : j.owner = src.port) (hst : j.st = .streaming) (hfeed : s.jobs.parser.feedOk wp.toNat = true) :
    Reaches (exec (.jobFeed src job wp) s) fun t => t.answered src ST.ok ∧
      t.jobs.parser = { s.jobs.parser with wp := wp.toNat, stall := none } ∧ t.jobs.jobs = s.jobs.jobs := by
  have hpre : firstFail (feedPre src job wp.toNat s) = none := by
    unfold feedPre
    dsimp only
    rw [hj, Option.isSome_some, Option.any_some, Option.any_some, Job.mine_iff.2 hown, hst, hfeed]
    rfl
  refine reaches_command rfl hpre ⟨State.ok_answered (by exact h) .., ?_⟩
  rw [State.ok_jobs]
  exact ⟨rfl, rfl⟩

theorem reaches_jobQuery {src : Src} {job : BitVec 16} {j : Job} (h : s.mbsWf) (hj : s.job? job = some j) :
    Reaches (exec (.jobQuery src job) s) fun t => t.answered src ST.ok ∧ (t.mb src.mb).respBody.length = 2 ∧
      t.jobs = s.jobs := by
  refine reaches_command rfl (by rw [hj]; rfl) ?_
  rw [hj]
  refine ⟨State.ok_answered h .., ?_, State.ok_jobs ..⟩
  obtain ⟨-, -, hbody, -⟩ := State.ok_own h src _
  exact congrArg List.length hbody

theorem reaches_jobClose {src : Src} {job : BitVec 16} {j : Job} (h : s.mbsWf) (hj : s.job? job = some j)
    (hown : j.owner = src.port) (hst : j.st = .ended)
    (hidle : (s.jobs.stripes.any fun x => x.id.job == job && x.st.active) = false) :
    Reaches (exec (.jobClose src job) s) fun t => t.answered src ST.ok ∧ t.job? job = none ∧
      ∀ i, i ≠ job → t.job? i = s.job? i := by
  have hexec : exec (.jobClose src job) s = .next ((s.releaseJob job).ok src []) := by
    rw [exec_jobClose, execJobClose, hj]
    dsimp only
    rw [Job.mine_iff.2 hown, Bool.not_true, if_neg Bool.false_ne_true, if_neg (by simp [hst, hidle])]
  refine reaches_of_next hexec ⟨State.ok_answered ((State.releaseJob_fr ..).mbsWf h) .., ?_, fun i hi => ?_⟩
  · rw [State.ok_job]
    exact State.releaseJob_job_self ..
  · rw [State.ok_job]
    exact State.releaseJob_job_other _ hi

theorem reaches_jobAbort {src : Src} {job : BitVec 16} {abort : Bool} {j : Job} (h : s.mbsWf) (hj : s.job? job = some j)
    (hown : j.owner = src.port) (hrest : (s.beginAbort job abort).abortWaits job = false) :
    Reaches (exec (.jobAbort src job abort) s) fun t => t.answered src ST.ok ∧ t.job? job = none := by
  have hexec : exec (.jobAbort src job abort) s =
      .next (((s.beginAbort job abort).finishAbort job (some src)).ok src []) := by
    rw [exec_jobAbort, execJobAbort, hj]
    dsimp only
    rw [Job.mine_iff.2 hown, Bool.not_true, if_neg Bool.false_ne_true, hrest, if_neg Bool.false_ne_true]
  refine reaches_of_next hexec ⟨State.ok_answered ?_ .., ?_⟩
  · exact (State.finishAbort_fr ..).mbsWf ((State.beginAbort_fr ..).mbsWf h)
  · rw [State.ok_job]
    exact State.finishAbort_job_self ..

theorem exec_jobLedgerRead_held {src : Src} {id : StripeId} {first count : BitVec 16} {buf : BufRef} {x : Stripe}
    (hx : s.stripe? id = some x) :
    let rs := s.ledger.find id first.toNat count.toNat
    let an := s.ledger.annexOf rs
    let n := 4 * rs.length + an.length
    outBuf buf 0 = true →
    exec (.jobLedgerRead src id first count buf) s = .next
      (if 16 * n ≤ buf.len.toNat then (s.writeBuf buf (rs.flatten ++ an)).ok src
        [packW [(0, 32, rs.length), (32, 32, an.length), (64, 32, 16 * n)]]
      else s.respond src ST.sysBuffer n false []) := by
  intro rs an n hbuf
  have hpre : firstFail [(outBuf buf 0, ST.sysBuffer), ((s.stripe? id).isSome, ST.stripeUnknown)] = none := by
    rw [hbuf, hx]
    rfl
  rw [exec_jobLedgerRead, execJobLedgerRead, State.command_pass hpre]
  rfl
end

/-- Settles O14. -/
theorem jobCommands : Obligations.JobCommands :=
  ⟨fun _ _ _ _ _ => reaches_jobOpen, fun _ _ _ _ _ => reaches_jobFeed, fun _ _ _ _ => reaches_jobQuery,
    fun _ _ _ _ => reaches_jobClose, fun _ _ _ _ _ => reaches_jobAbort, fun _ _ _ _ _ _ _ => exec_jobLedgerRead_held⟩

/-! ### The STRIPE commands -/

section
variable {s : State} {src : Src} {id : StripeId} {x : Stripe}

/-- A command on a held stripe of the sender's job, in a state that it takes. -/
theorem State.onHeld_pass {ok : StripeSt → Bool} (hx : s.stripe? id = some x) (hown : s.owns src id.job = true)
    (hok : ok x.st = true) (k : Stripe → State) : s.onHeld src id ok k = k x := by
  unfold State.onHeld
  rw [hx]
  dsimp only
  rw [hown, Bool.not_true, if_neg Bool.false_ne_true, hok, Bool.not_true, if_neg Bool.false_ne_true]

theorem reaches_held {c : Instr} {ok : StripeSt → Bool} {k : Stripe → State} {P : State → Prop}
    (hexec : exec c s = .next (s.onHeld src id ok k)) (hx : s.stripe? id = some x) (hown : s.owns src id.job = true)
    (hok : ok x.st = true) (h : P (k x)) : Reaches (exec c s) P := by
  rw [State.onHeld_pass hx hown hok] at hexec
  exact reaches_of_next hexec h

theorem State.disarm_st (hx : s.stripe? id = some x) : ((s.disarm id).stripe? id).map (·.st) = some .checked := by
  unfold State.disarm
  rw [(State.leaveActive_fr _).stripe_eq]
  have hfree : (s.freeSlots id).stripe? id = some { x with segs := x.segs.map fun g =>
      if g.lstate = .ready ∨ g.lstate = .exposing then { g with lstate := .admitted } else g } :=
    State.stripe_onStripe_self (by exact hx) fun _ => rfl
  have hst := State.stripe_onStripe_self (f := fun y => { y with st := .checked }) hfree fun _ => rfl
  exact congrArg (Option.map (·.st)) hst

theorem reaches_stripeDisarm (h : s.mbsWf) (hx : s.stripe? id = some x) (hown : s.owns src id.job = true)
    (hst : x.st = .armed) : Reaches (exec (.stripeDisarm src id) s) fun t => t.answered src ST.ok ∧
      (t.stripe? id).map (·.st) = some .checked := by
  refine reaches_held rfl hx hown (beq_iff_eq.2 hst) ⟨?_, ?_⟩
  · exact State.ok_answered ((State.disarm_fr ..).mbsWf h) ..
  · rw [State.ok_stripe]
    exact State.disarm_st hx

/-! The start of a run (R235, R283) -/

/-- What follows the start of a run: the shadow array cleared, PERMIT_OUT asserted. -/
theorem State.goEffects_fr (s : State) (c d : Prop) [Decidable c] [Decidable d] (f : Beam → Beam) (g : Referee → Referee) :
    let t := if c then s else s.onBeam f
    (if d then t.onRef g else t).jobs = s.jobs ∧ (if d then t.onRef g else t).play = s.play := by
  intro t
  have ht : t.jobs = s.jobs ∧ t.play = s.play := by
    unfold t
    split <;> exact ⟨rfl, rfl⟩
  split
  · exact ht
  · exact ht

theorem State.goStart_stripe (hx : s.stripe? id = some x) (yref : BitVec 48) (sense : Bool) (cm : BitVec 23)
    (xc : BitVec 48) (tlb : BitVec 32) : ((s.goStart x yref sense cm xc tlb).stripe? id).map (·.st) = some .running := by
  have hid := State.stripe_id hx
  unfold State.goStart
  dsimp only
  rw [State.stripe_of_jobs (State.goEffects_fr ..).1, hid]
  show Option.map _ ((s.onStripe id _).stripe? id) = _
  rw [State.stripe_onStripe_self hx]
  · rfl
  · exact fun _ => rfl

theorem State.goStart_play (x : Stripe) (yref : BitVec 48) (sense : Bool) (cm : BitVec 23) (xc : BitVec 48)
    (tlb : BitVec 32) : (s.goStart x yref sense cm xc tlb).play.deficit = [] ∧
      ∃ r, (s.goStart x yref sense cm xc tlb).play.run = some r ∧ r.st = x.id ∧ r.yref = yref.toNat ∧
        r.sense = (if sense then -1 else 1) ∧ r.crossmax = cm.toNat ∧ r.xcref = xc.toNat ∧ r.tlb = tlb.toNat ∧
        r.goAt = s.now := by
  unfold State.goStart
  dsimp only
  rw [(State.goEffects_fr ..).2]
  exact ⟨rfl, _, rfl, rfl, rfl, rfl, rfl, rfl, rfl, rfl⟩

theorem State.goStart_offBeams (ht : x.target ≠ 0) (yref : BitVec 48) (sense : Bool) (cm : BitVec 23) (xc : BitVec 48)
    (tlb : BitVec 32) : (s.goStart x yref sense cm xc tlb).beam.shadow = [] ∧
      (s.goStart x yref sense cm xc tlb).ref = s.ref := by
  unfold State.goStart
  dsimp only
  rw [if_neg ht, decide_eq_false ht, Bool.false_and, if_neg Bool.false_ne_true]
  exact ⟨rfl, rfl⟩

theorem State.goTry_start {w : BitVec 16} {yref : BitVec 48} {sense : Bool} {cm : BitVec 23} {xc : BitVec 48}
    {tlb : BitVec 32} (hx : s.stripe? id = some x) (hown : s.owns src id.job = true) (hst : x.st = .armed) (hcm : cm ≠ 0)
    (htlb : tlb = 0 ∨ x.tmin ≤ tlb.toNat) (hpre : firstFail (s.goPre x true yref sense) = none) (hmet : s.goUnmet x = 0) :
    s.goTry src id w yref sense cm xc tlb true = (s.goStart x yref sense cm xc tlb).ok src [] := by
  have hok : (!true || (tlb == 0 || decide (x.tmin ≤ tlb.toNat))) = true := by simpa using htlb
  unfold State.goTry
  rw [if_neg hcm, State.onHeld_pass (ok := (· == .armed)) hx hown (beq_iff_eq.2 hst)]
  dsimp only
  rw [firstFail_cons hok, hpre]
  exact if_pos hmet

theorem reaches_stripeGo {w : BitVec 16} {yref : BitVec 48} {sense : Bool} {cm : BitVec 23} {xc : BitVec 48}
    {tlb : BitVec 32} (h : s.mbsWf) (hx : s.stripe? id = some x) (hown : s.owns src id.job = true) (hst : x.st = .armed)
    (hcm : cm ≠ 0) (htlb : tlb = 0 ∨ x.tmin ≤ tlb.toNat) (hpre : firstFail (s.goPre x true yref sense) = none)
    (hmet : s.goUnmet x = 0) :
    Reaches (exec (.stripeGo src id w yref sense cm xc tlb) s) fun t => t.answered src ST.ok ∧
      (t.stripe? id).map (·.st) = some .running ∧ t.play.deficit = [] ∧
      (∃ r, t.play.run = some r ∧ r.st = id ∧ r.yref = yref.toNat ∧ r.sense = (if sense then -1 else 1) ∧
        r.crossmax = cm.toNat ∧ r.xcref = xc.toNat ∧ r.tlb = tlb.toNat ∧ r.goAt = s.now) ∧
      (x.target ≠ 0 → t.beam.shadow = [] ∧ t.ref.permitOut = s.ref.permitOut) := by
  have hexec : exec (.stripeGo src id w yref sense cm xc tlb) s = .next ((s.goStart x yref sense cm xc tlb).ok src []) := by
    rw [exec_stripeGo, execStripeGo, State.goTry_start hx hown hst hcm htlb hpre hmet]
  refine reaches_of_next hexec ?_
  rw [State.ok_stripe, State.ok_play, State.ok_beam, State.ok_ref]
  obtain ⟨hdef, hrun⟩ := State.goStart_play (s := s) x yref sense cm xc tlb
  rw [State.stripe_id hx] at hrun
  refine ⟨State.ok_answered ((State.goStart_fr ..).mbsWf h) .., State.goStart_stripe hx .., hdef, hrun, fun ht => ?_⟩
  obtain ⟨hshadow, href⟩ := State.goStart_offBeams (s := s) ht yref sense cm xc tlb
  exact ⟨hshadow, congrArg Referee.permitOut href⟩

/-! The stop (R298, R299) -/

theorem mem_addCause (c : Cause) (l : List Cause) : c ∈ addCause c l := by
  induction l with
  | nil => exact List.mem_singleton.2 rfl
  | cons d l ih =>
    unfold addCause
    split
    · exact List.mem_cons_self ..
    · exact List.mem_cons_of_mem _ ih

/-- In a run a cause that is no cause of the stage is kept with the others. -/
theorem State.stopCause_kept {r : Run} {rank : Nat} (hrun : s.run? = some (r, x)) (hrank : stageRank rank = false)
    (ev : Option Event) (b : Option Nat) : ∃ q, (s.stopCause rank ev b).play.run = some q ∧ ⟨rank, ev, b⟩ ∈ q.causes := by
  unfold State.stopCause
  rw [hrun]
  dsimp only
  rw [hrank, Bool.false_and, if_neg Bool.false_ne_true]
  exact ⟨_, rfl, mem_addCause ..⟩

theorem reaches_stripeStop {abort : Bool} {r : Run} (h : s.mbsWf) (hx : s.stripe? id = some x)
    (hown : s.owns src id.job = true) (hst : x.st = .running ∨ x.st = .stopping) (hrun : s.run? = some (r, x)) :
    Reaches (exec (.stripeStop src id abort) s) fun t => t.waits src (.stripeStop src id abort) ∧
      ∃ q, t.play.run = some q ∧ ⟨if abort then 11 else 20, none, none⟩ ∈ q.causes := by
  refine reaches_held rfl hx hown (by simpa using hst) ⟨?_, ?_⟩
  · exact State.wait_waits ((State.stopCause_fr ..).mbsWf h) ..
  · rw [State.wait_play]
    exact State.stopCause_kept hrun (by cases abort <;> decide) none none

theorem reaches_stripeRelease (h : s.mbsWf) (hx : s.stripe? id = some x) (hown : s.owns src id.job = true)
    (hst : x.st = .refused ∨ x.st = .done ∨ x.st = .stopped ∨ x.st = .halted) :
    Reaches (exec (.stripeRelease src id) s) fun t => t.answered src ST.ok ∧ t.stripe? id = none := by
  refine reaches_held rfl hx hown (by simpa [or_assoc] using hst) ⟨?_, ?_⟩
  · exact State.ok_answered ((State.releaseStripe_fr ..).mbsWf h) ..
  · rw [State.ok_stripe]
    exact State.releaseStripe_stripe_self ..

theorem exec_stripeStatus_none (hx : s.stripe? id = some x) :
    exec (.stripeStatus src id none) s = .next (s.ok src (s.statusWords x 0)) := by
  have hpre : firstFail [((none : Option BufRef).all (outBuf · 0), ST.sysBuffer),
      ((s.stripe? id).isSome, ST.stripeUnknown)] = none := by
    rw [hx]
    rfl
  rw [exec_stripeStatus, execStripeStatus, State.command_pass hpre, hx]

theorem exec_stripeStatus_some {buf : BufRef} (hx : s.stripe? id = some x) (hbuf : outBuf buf 0 = true) :
    exec (.stripeStatus src id (some buf)) s = .next (if 16 * x.nseg ≤ buf.len.toNat then
      (s.writeBuf buf (x.segs.map Seg.entry)).ok src (s.statusWords x x.nseg)
      else s.respond src ST.sysBuffer x.nseg false []) := by
  have hpre : firstFail [((some buf).all (outBuf · 0), ST.sysBuffer), ((s.stripe? id).isSome, ST.stripeUnknown)] = none := by
    rw [hx, show (some buf).all (outBuf · 0) = true from hbuf]
    rfl
  rw [exec_stripeStatus, execStripeStatus, State.command_pass hpre, hx]
  rfl
end

/-- Settles O15. -/
theorem stripeCommands : Obligations.StripeCommands :=
  ⟨fun _ _ _ _ => reaches_stripeDisarm, fun _ _ _ _ _ _ _ _ _ _ => reaches_stripeGo,
    fun _ _ _ _ _ _ => reaches_stripeStop, fun _ _ _ _ => reaches_stripeRelease,
    fun _ _ _ _ hx => ⟨exec_stripeStatus_none hx, fun _ => exec_stripeStatus_some hx⟩⟩

end Sys2Proof.Machine
end

section
/-!
PROOF. STRIPE.ARM and STRIPE.RESUME whose every condition holds (R28, R325, Table 17-9), and obligation O16.
-/

namespace Sys2Proof.Machine

-- Many proofs here are the first to unfold their functions of the model, and side by side each would hold a thread.
set_option Elab.async false

/-- The lane map that the arm of a stripe builds (R325). -/
def State.armMap (s : State) (x : Stripe) : List (Option Nat) × List MapStep :=
  s.buildMap (x.target == 2) s.link.map [] []

/-- The events of the map are out where the stripe has a map. -/
def State.armMapped (s : State) (src : Src) (x : Stripe) : State :=
  if x.target == 2 || s.link.headPresent then s.mapEvents src (s.armMap x).1 (s.armMap x).2 else s

/-- The state in which the conditions of the arm are judged. -/
def State.armReady (s : State) (src : Src) (x : Stripe) : State :=
  (s.armMapped src x).prepareArm (s.armMap x).1 (x.target == 2 || s.link.headPresent)

/-- Every condition of an arm or of a resumption of the stripe holds, its first open segment being `q`. -/
structure State.ArmHolds (s : State) (src : Src) (id : StripeId) (resume : Bool) (x : Stripe) (q : Nat) : Prop where
  held : s.stripe? id = some x
  owned : s.owns src id.job = true
  inState : if resume then x.st = .stopped ∨ x.st = .halted else x.st = .checked
  quiet : s.quiet = true
  noEcho : s.link.arm = none
  firstOpen : x.firstOpen = some q
  table : s.beam.table.isSome = true
  gain : gainBad ((s.armReady src x).beam.activeT.getD ⟨0, 0, 0, 0, []⟩) (s.armReady src x).deadNow x.hdr.ghbound = none
  capacity : x.capacityBad (s.armReady src x).deadNow q = []
  offset : x.offsetOk s.beam.fit = true
  placement : x.hdr.place = true → x.placementBad (s.armReady src x).deadNow q = []
  rest : firstFail ((s.armReady src x).armRest x) = none

/-- The decode lanes that are spare before an arm. -/
def State.decSpares (s : State) : List Nat := (List.range 18).filter fun n => s.rstate (nodeR 2 0 n) == .spare

section
variable {s : State} {src : Src} {id : StripeId} {resume : Bool} {x : Stripe} {q : Nat}

theorem State.armMapped_fr (s : State) (src : Src) (x : Stripe) : Fr [.queues, .out] s (s.armMapped src x) :=
  Fr.ite (State.mapEvents_fr ..) (Fr.refl ..)

theorem State.armReady_fr (s : State) (src : Src) (x : Stripe) :
    Fr [.queues, .play, .beam, .link, .meas, .repair, .log, .out] s (s.armReady src x) :=
  ((s.armMapped_fr src x).mono (by decide)).trans (State.prepareArm_fr ..)

theorem State.ArmHolds.stateOk (h : s.ArmHolds src id resume x q) :
    (if resume then x.st == .stopped || x.st == .halted else x.st == .checked) = true := by
  have hst := h.inState
  cases resume
  · exact beq_iff_eq.2 hst
  · simpa using hst

theorem State.ArmHolds.placementList (h : s.ArmHolds src id resume x q) :
    (if x.hdr.place then x.placementBad (s.armReady src x).deadNow q else []) = [] := by
  split
  case isTrue hp => exact h.placement hp
  case isFalse => rfl

/-- An arm that meets every condition: ARMED in loopback, otherwise MAPSET goes out and the command waits. -/
theorem State.armStripe_holds (h : s.ArmHolds src id resume x q) : s.armStripe src id resume none =
    if x.target == 2 then (((s.armReady src x).abortTrims src).armed x q s.decSpares).ok src []
    else (((s.armMapped src x).sendHead 0x02 (mapsetBody (s.armMap x).1)).onLink fun l =>
      { l with arm := some ⟨src, id, s.now, resume, (s.armMap x).1⟩ }).wait src
        (if resume then .stripeResume src id else .stripeArm src id) := by
  have howned := h.owned
  have hgain := h.gain
  have hcap := h.capacity
  have hplace := h.placementList
  have hrest := h.rest
  unfold State.owns at howned
  unfold State.armReady State.armMapped State.armMap at hgain hcap hplace hrest
  unfold State.armStripe State.armReady State.armMapped State.armMap State.decSpares
  simp only [h.held, howned, h.stateOk, h.quiet, h.noEcho, h.firstOpen, h.table, hgain, hcap, h.offset, hplace, hrest,
    firstFail_true, firstFail_nil, Option.isSome_none, Option.isSome_some, Option.isNone_none, Option.getD_some,
    Bool.or_true, Bool.or_false, Bool.and_true, Bool.not_true, Bool.not_false, Bool.false_eq_true, if_false]

/-! ### What ARMED leaves (R30) -/

theorem State.armed_st (s : State) (x : Stripe) (q : Nat) (spares : List Nat) (hx : s.stripe? x.id = some x) :
    ((s.armed x q spares).stripe? x.id).map (·.st) = some .armed := by
  unfold State.armed
  dsimp only
  rw [(State.preempt_fr ..).stripe_eq]
  generalize hu : s.finishHalt x.id none = u
  have hheld : (u.stripe? x.id).map (·.st) = some x.st := by
    rw [← hu, State.st_of_standing (s.finishHalt_standing x.id none), hx]
    rfl
  obtain ⟨y, hy, -⟩ := Option.map_eq_some_iff.1 hheld
  generalize hv : State.onStripe u x.id _ = v
  have harmed : (v.stripe? x.id).map (·.st) = some .armed := by
    rw [← hv, State.stripe_onStripe_self hy]
    · rfl
    · exact fun _ => rfl
  rw [← harmed]
  refine State.st_of_standing ?_ x.id
  have hlink (w : State) (c : Prop) [Decidable c] (f : Link → Link) :
      (if c then w.onLink f else w).standing = w.standing := by
    split <;> rfl
  rw [hlink]
  show (State.dropReentry _).standing = _
  rw [State.dropReentry_standing]
  have hmem : (v.latchMem (s.latch x).band).standing = v.standing :=
    State.standing_of_jobs (State.latchMem_fr v (s.latch x).band).jobs_eq
  exact hmem

theorem State.armStripe_loop (hwf : s.mbsWf) (h : s.ArmHolds src id resume x q) (hloop : (x.target == 2) = true) :
    (s.armStripe src id resume none).answered src ST.ok ∧
      ((s.armStripe src id resume none).stripe? id).map (·.st) = some .armed := by
  have hid := State.stripe_id h.held
  have hready : Fr [.queues, .play, .beam, .link, .meas, .repair, .log, .out] s ((s.armReady src x).abortTrims src) :=
    (s.armReady_fr src x).trans ((State.abortTrims_fr ..).mono (by decide))
  rw [State.armStripe_holds h, if_pos hloop, State.ok_stripe]
  refine ⟨State.ok_answered ((State.armed_fr ..).mbsWf (hready.mbsWf hwf)) .., ?_⟩
  rw [← hid]
  refine State.armed_st _ x q _ ?_
  rw [hready.stripe_eq, hid]
  exact h.held

theorem State.armStripe_waits (hwf : s.mbsWf) (h : s.ArmHolds src id resume x q) (hloop : ¬ (x.target == 2) = true) :
    (s.armStripe src id resume none).waits src (if resume then .stripeResume src id else .stripeArm src id) ∧
      (s.armStripe src id resume none).link.arm = some ⟨src, id, s.now, resume, (s.armMap x).1⟩ := by
  rw [State.armStripe_holds h, if_neg hloop]
  refine ⟨State.wait_waits ?_ .., ?_⟩
  · exact (State.sendHead_fr ..).mbsWf ((s.armMapped_fr src x).mbsWf hwf)
  · rw [State.wait_link]
    rfl

theorem exec_armOrResume : exec (if resume then .stripeResume src id else .stripeArm src id) s =
    .next (s.armStripe src id resume none) := by
  cases resume <;> rfl

theorem reaches_armOrResume (hwf : s.mbsWf) (h : s.ArmHolds src id resume x q) :
    Reaches (exec (if resume then .stripeResume src id else .stripeArm src id) s) fun u =>
      if x.target == 2 then u.answered src ST.ok ∧ (u.stripe? id).map (·.st) = some .armed
      else u.waits src (if resume then .stripeResume src id else .stripeArm src id) ∧
        u.link.arm = some ⟨src, id, s.now, resume, (s.armMap x).1⟩ := by
  refine reaches_of_next exec_armOrResume ?_
  split
  case isTrue hloop => exact State.armStripe_loop hwf h hloop
  case isFalse hloop => exact State.armStripe_waits hwf h hloop
end

/-- Settles O16. -/
theorem armCommands : Obligations.ArmCommands :=
  fun _ _ _ _ _ _ hwf held owned inState quiet noEcho firstOpen table gain capacity offset placement rest =>
    reaches_armOrResume hwf
      ⟨held, owned, inState, quiet, noEcho, firstOpen, table, gain, capacity, offset, placement, rest⟩

end Sys2Proof.Machine
end

section
/-!
PROOF. The BEAM, STAGE and CAM groups of Tables 17-10 to 17-12: obligations O17, O18, O19 and O20.
-/

namespace Sys2Proof.Machine

/-! ### Gain tables, lists and the fit record (R207, R228, R231, R241 to R243) -/

section
variable {s : State} {src : Src}

theorem exec_beamGainLoad_good {buf : BufRef} (hbuf : s.bufReads buf = true)
    (hformat : gainFormatOk (s.mem.words buf.space buf.addr.toNat gainWords) = true)
    (hrange : gainRangeBad (fld 79 64 ((s.mem.words buf.space buf.addr.toNat gainWords).getD 0 0))
      (fld 111 80 ((s.mem.words buf.space buf.addr.toNat gainWords).getD 0 0))
      (gainValues (s.mem.words buf.space buf.addr.toNat gainWords)) = none) :
    exec (.beamGainLoad src buf) s = .next ((s.onBeam (·.accept 0
      (fld 79 64 ((s.mem.words buf.space buf.addr.toNat gainWords).getD 0 0))
      (fld 111 80 ((s.mem.words buf.space buf.addr.toNat gainWords).getD 0 0))
      (gainValues (s.mem.words buf.space buf.addr.toNat gainWords)))).ok src [packW [(0, 32, s.beam.lastGen + 1)]]) := by
  rw [exec_beamGainLoad, execBeamGainLoad]
  dsimp only
  rw [hbuf, hformat, hrange]
  rfl

theorem reaches_beamGainLoad {buf : BufRef} (h : s.mbsWf) :
    let ws := s.mem.words buf.space buf.addr.toNat gainWords
    let alpha := fld 79 64 (ws.getD 0 0)
    let tau := fld 111 80 (ws.getD 0 0)
    s.bufReads buf = true → gainFormatOk ws = true → gainRangeBad alpha tau (gainValues ws) = none →
    Reaches (exec (.beamGainLoad src buf) s) fun t => t.answered src ST.ok ∧
      t.beam.pendingT = some ⟨0, s.beam.lastGen + 1, alpha, tau, gainValues ws⟩ ∧
      t.beam.lastGen = s.beam.lastGen + 1 ∧ t.beam.activeT = s.beam.activeT := by
  intro ws alpha tau hbuf hformat hrange
  refine reaches_of_next (exec_beamGainLoad_good hbuf hformat hrange) ⟨State.ok_answered (by exact h) .., ?_⟩
  rw [State.ok_beam]
  exact ⟨rfl, rfl, rfl⟩

/-- A list whose entries all name beams. -/
theorem beamsBad_none {bs : List (BitVec 32)} (h : ∀ b ∈ bs, b.toNat < 262144) : beamsBad bs = none := by
  refine List.findIdx?_eq_none_iff.2 fun b hb => ?_
  simpa using h b hb

theorem reaches_beamDeadSet {bs : List (BitVec 32)} (h : s.mbsWf) (hbs : ∀ b ∈ bs, b.toNat < 262144) :
    Reaches (exec (.beamDeadSet src bs) s) fun t => t.answered src ST.ok ∧ (t.mb src.mb).resp1.getLsbD 17 = true ∧
      ∀ n, n ∈ t.beam.hostDead ↔ n ∈ s.beam.hostDead ∨ ∃ b ∈ bs, b.toNat = n := by
  have hexec : exec (.beamDeadSet src bs) s = .next ((s.onBeam fun b => { b with
      hostDead := b.hostDead ++ ((bs.map (·.toNat)).eraseDups.filter fun n => !b.hostDead.contains n) }).respond
        src ST.ok 0 true []) := by
    rw [exec_beamDeadSet, execBeamDeadSet, beamsBad_none hbs]
  refine reaches_of_next hexec ⟨State.respond_answered (by exact h) .., State.respond_deferred (by exact h) .., ?_⟩
  intro n
  rw [State.respond_beam]
  show n ∈ s.beam.hostDead ++ _ ↔ _
  by_cases hn : n ∈ s.beam.hostDead <;> simp [hn]

theorem reaches_beamDeadClear_some {bs : List (BitVec 32)} (h : s.mbsWf) (hbs : ∀ b ∈ bs, b.toNat < 262144) :
    Reaches (exec (.beamDeadClear src (some bs)) s) fun t => t.answered src ST.ok ∧
      ∀ n, n ∈ t.beam.hostDead ↔ n ∈ s.beam.hostDead ∧ ∀ b ∈ bs, b.toNat ≠ n := by
  have hexec : exec (.beamDeadClear src (some bs)) s = .next ((s.onBeam fun b => { b with
      hostDead := b.hostDead.filter fun n => !bs.any (·.toNat == n) }).respond src ST.ok 0 true []) := by
    rw [exec_beamDeadClear, execBeamDeadClear, Option.bind_some, beamsBad_none hbs]
  refine reaches_of_next hexec ⟨State.respond_answered (by exact h) .., fun n => ?_⟩
  rw [State.respond_beam]
  show n ∈ List.filter _ s.beam.hostDead ↔ _
  simp [List.mem_filter]

theorem reaches_beamDeadClear_none (h : s.mbsWf) : Reaches (exec (.beamDeadClear src none) s) fun t =>
    t.answered src ST.ok ∧ t.beam.hostDead = [] := by
  have hexec : exec (.beamDeadClear src none) s = .next ((s.onBeam fun b => { b with
      hostDead := [] }).respond src ST.ok 0 true []) := by
    rw [exec_beamDeadClear, execBeamDeadClear, Option.bind_none]
  refine reaches_of_next hexec ⟨State.respond_answered (by exact h) .., ?_⟩
  rw [State.respond_beam]
  rfl

theorem reaches_beamStuckClear {b : BitVec 18} (h : s.mbsWf) (hrec : b.toNat ∈ s.beam.recovered) :
    Reaches (exec (.beamStuckClear src b) s) fun t => t.answered src ST.ok ∧ b.toNat ∉ t.beam.stuckOn ∧
      b.toNat ∉ t.beam.stuckOff ∧ t.ref.permitOut = s.ref.permitOut ∧
      ∀ n, n ≠ b.toNat → (n ∈ t.beam.stuckOn ↔ n ∈ s.beam.stuckOn) ∧ (n ∈ t.beam.stuckOff ↔ n ∈ s.beam.stuckOff) := by
  refine reaches_command rfl (firstFail_cons (List.contains_iff_mem.2 hrec)) ?_
  rw [State.ok_beam, State.ok_ref]
  show _ ∧ _ ∉ List.filter _ s.beam.stuckOn ∧ _ ∉ List.filter _ s.beam.stuckOff ∧ _ ∧ ∀ n, _ →
    (n ∈ List.filter _ s.beam.stuckOn ↔ _) ∧ (n ∈ List.filter _ s.beam.stuckOff ↔ _)
  have hmem (l : List Nat) (n : Nat) : n ∈ l.filter (fun z => decide (z ≠ b.toNat)) ↔ n ∈ l ∧ n ≠ b.toNat := by simp
  exact ⟨State.ok_answered (by exact h) .., fun hin => ((hmem ..).1 hin).2 rfl, fun hin => ((hmem ..).1 hin).2 rfl, rfl,
    fun n hn => ⟨(hmem ..).trans (and_iff_left hn), (hmem ..).trans (and_iff_left hn)⟩⟩

theorem reaches_beamHistoryPolicy {z : Bool} (h : s.mbsWf) : Reaches (exec (.beamHistoryPolicy src z) s) fun t =>
    t.answered src ST.ok ∧ t.beam.reqZero = z ∧ t.beam.hist = s.beam.hist := by
  refine reaches_of_next rfl ⟨State.ok_answered (by exact h) .., ?_⟩
  rw [State.ok_beam]
  exact ⟨rfl, rfl⟩

theorem State.sealFit_fit (s : State) (via : Option Src) (f : FitRec) :
    (s.sealFit via f).beam.fit = { f with fgen := s.beam.fit.fgen + 1 } := by
  unfold State.sealFit
  dsimp only
  rw [State.raiseVia_beam]
  rfl

theorem reaches_beamFitSeal {f : FitRec} (h : s.mbsWf) (hf : s.fitOk f = true) :
    Reaches (exec (.beamFitSeal src f) s) fun t => t.answered src ST.ok ∧
      t.beam.fit = { f with fgen := s.beam.fit.fgen + 1 } := by
  refine reaches_command rfl (firstFail_cons hf) ⟨State.ok_answered ((State.sealFit_fr ..).mbsWf h) .., ?_⟩
  rw [State.ok_beam]
  exact State.sealFit_fit ..

/-! ### Reports of the beams -/

theorem exec_beamHistoryRead_of_snap {id : StripeId} {buf : BufRef} {hs : List (Nat × Nat)}
    (hsnap : s.beam.snap = some (id, hs)) : exec (.beamHistoryRead src id buf) s =
      .next ((s.write buf.space buf.addr.toNat (historyBytes hs)).ok src []) := by
  rw [exec_beamHistoryRead, execBeamHistoryRead, hsnap]
  dsimp only
  rw [if_pos rfl]

theorem reaches_beamStatus (h : s.mbsWf) : Reaches (exec (.beamStatus src) s) fun t =>
    t.answered src ST.ok ∧ t.beam = s.beam ∧ t.mem = s.mem :=
  reaches_of_next rfl ⟨State.ok_answered h .., State.ok_beam .., State.ok_mem ..⟩
end

/-- Settles O17. -/
theorem beamTableCommands : Obligations.BeamTableCommands :=
  ⟨fun _ _ _ => reaches_beamGainLoad, fun _ _ _ => reaches_beamDeadSet, fun _ _ _ => reaches_beamDeadClear_some,
    fun _ _ => reaches_beamDeadClear_none, fun _ _ _ => reaches_beamStuckClear, fun _ _ _ => reaches_beamHistoryPolicy,
    fun _ _ _ => reaches_beamFitSeal⟩

/-- Settles O18. -/
theorem beamReports : Obligations.BeamReports :=
  ⟨fun _ _ _ _ _ => exec_beamHistoryRead_of_snap, fun _ _ => reaches_beamStatus⟩

/-! ### The STAGE commands (R255, R274, R277, R278, R291) -/

section
variable {s : State} {src : Src}

theorem State.quiet_of_none (h : s.active? = none) : s.quiet = true := by
  unfold State.quiet
  rw [h, Option.isNone_none]

theorem reaches_stageConfig {ps : List PortRec} {tr : TrackerRec} (h : s.mbsWf) (hquiet : s.active? = none)
    (hcfg : stageCfgOk ps tr = true) : Reaches (exec (.stageConfig src ps tr) s) fun t => t.answered src ST.ok ∧
      t.stage = { s.stage with nextCfg := some (ps, tr) } := by
  refine reaches_command rfl ?_ ⟨State.ok_answered (by exact h) .., State.ok_stage ..⟩
  rw [firstFail_cons (State.quiet_of_none hquiet), firstFail_cons hcfg, firstFail_nil]

theorem Stage.onPos_port_self {g : Stage} {n : Nat} (hn : n < g.ports.length) (f : PosPort → PosPort) :
    (g.onPos n f).port n = f (g.port n) := by
  simp [Stage.onPos, Stage.port, hn]

theorem Stage.onPos_port_ne {g : Stage} {n m : Nat} (hm : m ≠ n) (f : PosPort → PosPort) :
    (g.onPos n f).port m = g.port m := by
  simp [Stage.onPos, Stage.port, hm.symm]

theorem reaches_stageMarks {port : BitVec 3} {ms : List MarkEntry} (h : s.mbsWf) (hquiet : s.active? = none)
    (hport : port.toNat < 6) (hlen : ms.length ≤ 16) (hwin : ∀ m ∈ ms, m.mtol.toNat ≤ m.mwin.toNat)
    (hports : s.stage.ports.length = 6) : Reaches (exec (.stageMarks src port ms) s) fun t => t.answered src ST.ok ∧
      t.stage.port port.toNat = { s.stage.port port.toNat with nextMarks := some ms } ∧
      ∀ n, n ≠ port.toNat → t.stage.port n = s.stage.port n := by
  have hmarks : (decide (port.toNat < 6 ∧ ms.length ≤ 16) && ms.all fun m => decide (m.mtol.toNat ≤ m.mwin.toNat)) = true := by
    simpa using ⟨⟨hport, hlen⟩, hwin⟩
  refine reaches_command rfl ?_ ⟨State.ok_answered (by exact h) .., ?_⟩
  · rw [firstFail_cons (State.quiet_of_none hquiet), firstFail_cons hmarks, firstFail_nil]
  · rw [State.ok_stage]
    exact ⟨Stage.onPos_port_self (by rw [hports]; exact hport) _, fun n hn => Stage.onPos_port_ne hn _⟩

theorem reaches_stageFaultClear (h : s.mbsWf) (hscan : s.stage.persists .scan = false)
    (hcross : s.stage.persists .cross = false) : Reaches (exec (.stageFaultClear src) s) fun t =>
      t.answered src ST.ok ∧ t.stage = { s.stage with integrity := false } := by
  refine reaches_command rfl ?_ ⟨State.ok_answered (by exact h) .., State.ok_stage ..⟩
  rw [hscan, hcross]
  rfl

theorem reaches_stageSwitchTest {on : Bool} (h : s.mbsWf) (hquiet : s.active? = none) :
    Reaches (exec (.stageSwitchTest src on) s) fun t => t.answered src ST.ok ∧ t.stage.swTest = on ∧
      (on = true → ∀ p ∈ t.stage.ports, p.swCount = [0, 0, 0]) := by
  refine reaches_command rfl (firstFail_cons (State.quiet_of_none hquiet)) ⟨State.ok_answered (by exact h) .., ?_⟩
  rw [State.ok_stage]
  refine ⟨rfl, ?_⟩
  rintro rfl p hp
  obtain ⟨q, -, rfl⟩ := List.mem_map.1 hp
  rfl

theorem reaches_stagePacePolicy {w : BitVec 64} (h : s.mbsWf) (hres : fld 63 42 w = 0) (hok : policyOk w = true) :
    Reaches (exec (.stagePacePolicy src w) s) fun t => t.answered src ST.ok ∧
      t.pacer = { s.pacer with policyNext := some w } := by
  refine reaches_command rfl ?_ ⟨State.ok_answered (by exact h) .., State.ok_pacer ..⟩
  rw [firstFail_cons (beq_iff_eq.2 hres), firstFail_cons hok, firstFail_nil]

theorem exists_pair_of_length {α : Type} : ∀ {l : List α}, l.length = 2 → ∃ a b, l = [a, b]
  | [a, b], _ => ⟨a, b, rfl⟩

theorem reaches_stageEmu {w0 w1 : BitVec 64} (h : s.mbsWf) (hres0 : fld 15 11 w0 = 0) (hres1 : fld 15 11 w1 = 0)
    (hok0 : emuWordOk w0 = true) (hok1 : emuWordOk w1 = true) (hemus : s.stage.emus.length = 2) :
    Reaches (exec (.stageEmu src w0 w1) s) fun t => t.answered src ST.ok ∧
      t.stage.emus.map (·.next) = [some w0, some w1] := by
  refine reaches_command rfl ?_ ⟨State.ok_answered (by exact h) .., ?_⟩
  · rw [hres0, hres1, hok0, hok1]
    rfl
  · obtain ⟨a, b, hab⟩ := exists_pair_of_length hemus
    rw [State.ok_stage]
    show ((s.stage.emus.zip [w0, w1]).map _).map _ = _
    rw [hab]
    rfl
end

/-- Settles O19. -/
theorem stageCommands : Obligations.StageCommands :=
  ⟨fun _ _ _ _ => reaches_stageConfig, fun _ _ _ _ => reaches_stageMarks,
    fun _ _ h => reaches_of_next rfl ⟨State.ok_answered h .., State.ok_stage ..⟩, fun _ _ => reaches_stageFaultClear,
    fun _ _ _ => reaches_stageSwitchTest, fun _ _ _ => reaches_stagePacePolicy, fun _ _ _ _ => reaches_stageEmu⟩

/-! ### The CAM commands (R332, R335 to R347) -/

section
variable {s : State} {src : Src} {cam : BitVec 2} {c : Cam} (h : s.mbsWf) (hcam : cam.toNat < s.cams.cams.length)
  (hc : s.cam cam.toNat = c)

theorem State.ok_cam (s : State) (src : Src) (body : List Word) (n : Nat) : (s.ok src body).cam n = s.cam n :=
  State.cam_of_cams (State.ok_cams ..) n

theorem State.wait_cam (s : State) (src : Src) (i : Instr) (n : Nat) : (s.wait src i).cam n = s.cam n :=
  State.cam_of_cams (State.wait_cams ..) n

theorem State.nextXfer_xfers {n : Nat} (hn : n < s.cams.cams.length) : ((s.nextXfer n).cam n).xfers = (s.cam n).xfers := by
  unfold State.nextXfer
  dsimp only
  split
  · show ((s.onCam n _).cam n).xfers = _
    rw [State.onCam_cam hn]
  · rw [State.onCam_cam hn]

theorem mem_setTemplate (ts : List Template) (t : Template) : t ∈ setTemplate ts t := by
  simp [setTemplate]

theorem State.queueBusy_unbindQueue (s : State) (q : Nat) : (s.unbindQueue q).queueBusy q = s.queueBusy q := by
  show (s.dma.chans.map _).any _ = s.dma.chans.any _
  rw [List.any_map]
  congr 1
  funext d
  simp only [Function.comp_apply]
  split <;> rfl

/-- The template that a buffer holds (R343). -/
def readTemplate (s : State) (tp : TemplateRec) (buf : BufRef) : Template :=
  ⟨tp, (List.range tp.th.toNat).map fun j =>
    ((s.read16 buf (tp.tw.toNat * tp.th.toNat)).drop (tp.tw.toNat * j)).take tp.tw.toNat⟩

include hcam hc in
theorem State.onCam_cam_of (f : Cam → Cam) : (s.onCam cam.toNat f).cam cam.toNat = f c := by
  rw [State.onCam_cam hcam, hc]

include hcam hc in
/-- A port that drains with a frame in work goes on running. -/
theorem State.drain_settleCam (hwork : c.work ≠ []) :
    ((s.onCam cam.toNat fun c => { c with draining := true }).settleCam cam.toNat).cam cam.toNat =
      { c with draining := true } := by
  have hsome : c.work.isEmpty = false := by simpa using hwork
  unfold State.settleCam
  rw [State.onCam_cam (by rw [State.onCam_length]; exact hcam), State.onCam_cam_of hcam hc]
  dsimp only
  rw [hsome, Bool.false_and, if_neg Bool.false_ne_true]

include h hcam hc

/-- A command that writes the port's record and answers. -/
theorem State.onCam_answers (f : Cam → Cam) (body : List Word) :
    ((s.onCam cam.toNat f).ok src body).answered src ST.ok ∧ ((s.onCam cam.toNat f).ok src body).cam cam.toNat = f c := by
  refine ⟨State.ok_answered (by exact h) .., ?_⟩
  rw [State.ok_cam]
  exact State.onCam_cam_of hcam hc f

theorem reaches_camConfig {r : CamRec} (hstop : c.stopped = true) (hr : camRecOk r = true) :
    Reaches (exec (.camConfig src cam r) s) fun t =>
      t.answered src ST.ok ∧ t.cam cam.toNat = { c with cfg := r } := by
  refine reaches_command rfl ?_ (State.onCam_answers h hcam hc _ _)
  rw [hc, firstFail_cons hstop, firstFail_cons hr, firstFail_nil]

theorem reaches_camSettings {slot : SettingsSlot} (hone : 1 ≤ slot.entries.length) (hmax : slot.entries.length ≤ 256) :
    Reaches (exec (.camSettings src cam slot) s) fun t => t.answered src ST.ok ∧ t.cam cam.toNat =
      { c with genAcc := c.genAcc + 1, pending := some (slot, c.genAcc + 1, 0), latest := some (slot, c.genAcc + 1) } := by
  refine reaches_command rfl (firstFail_cons (decide_eq_true ⟨hone, hmax⟩)) ?_
  dsimp only
  rw [hc]
  exact State.onCam_answers h hcam hc _ _

theorem reaches_camI2cXfer {w : List Byte} {rl : BitVec 7} (hpresent : c.present = true) :
    Reaches (exec (.camI2cXfer src cam w rl) s) fun t => t.waits src (.camI2cXfer src cam w rl) ∧
      (t.cam cam.toNat).xfers = c.xfers ++ [⟨src, w, rl.toNat⟩] := by
  refine reaches_command rfl ?_ ?_
  · rw [hc, firstFail_cons hpresent, firstFail_nil]
  · dsimp only
    generalize hu : State.wait _ src _ = u
    have hwaits : u.waits src (.camI2cXfer src cam w rl) := hu ▸ State.wait_waits (by exact h) ..
    have hxfers : (u.cam cam.toNat).xfers = c.xfers ++ [⟨src, w, rl.toNat⟩] := by
      rw [← hu, State.wait_cam, State.onCam_cam_of hcam hc]
    have hlen : cam.toNat < u.cams.cams.length := by
      rw [← hu, State.wait_cams, State.onCam_length]
      exact hcam
    split
    · refine ⟨?_, (State.nextXfer_xfers hlen).trans hxfers⟩
      unfold State.waits
      rw [(State.nextXfer_fr ..).mb_eq, (State.nextXfer_fr ..).waiting_eq]
      exact hwaits
    · exact ⟨hwaits, hxfers⟩

theorem reaches_camStart {n : BitVec 32} (hpresent : c.present = true) (hring : c.ringWords ≠ 0)
    (hunits : s.regionFailed 10 1 = false) : Reaches (exec (.camStart src cam n) s) fun t =>
      t.answered src ST.ok ∧ t.cam cam.toNat =
        { c with running := true, draining := false, left := if n = 0 then none else some n.toNat } := by
  refine reaches_command rfl ?_ (State.onCam_answers h hcam hc _ _)
  rw [hc, hpresent, decide_eq_true hring, hunits]
  rfl

theorem reaches_camStop_abort (hrun : c.running = true) (hwork : c.work = []) :
    Reaches (exec (.camStop src cam true) s) fun t => t.answered src ST.ok ∧
      t.cam cam.toNat = { c with running := false, draining := false } := by
  refine reaches_command rfl ?_ ?_
  · rw [hc, firstFail_cons hrun, firstFail_nil]
  · have hnone : (s.cam cam.toNat).work = [] := hc.symm ▸ hwork
    dsimp only
    rw [if_pos rfl, hnone, List.filter_nil, List.foldl_nil]
    exact State.onCam_answers h hcam hc (fun c => { c with running := false, draining := false }) _

theorem reaches_camStop_drain (hrun : c.running = true) (hwork : c.work ≠ []) :
    Reaches (exec (.camStop src cam false) s) fun t => t.waits src (.camStop src cam false) ∧
      t.cam cam.toNat = { c with draining := true } := by
  have hdrain := State.drain_settleCam hcam hc hwork
  refine reaches_command rfl ?_ ?_
  · rw [hc, firstFail_cons hrun, firstFail_nil]
  · dsimp only
    rw [if_neg Bool.false_ne_true, hdrain, if_pos hrun, State.wait_cam]
    exact ⟨State.wait_waits (by exact (State.settleCam_fr ..).mbsWf h) .., hdrain⟩

theorem reaches_camDefects (buf : BufRef) :
    let k := buf.len.toNat / 4
    let bs := s.mem.bytes buf.space buf.addr.toNat (4 * k)
    let ds := (List.range k).map fun i => (leNat ((bs.drop (4 * i)).take 2), leNat ((bs.drop (4 * i + 2)).take 2))
    s.bufReads buf = true → c.stopped = true → k ≤ 4096 → sortedDefects ds = true →
    Reaches (exec (.camDefects src cam buf) s) fun t =>
      t.answered src ST.ok ∧ t.cam cam.toNat = { c with defects := ds } := by
  intro k bs ds hbuf hstop hk hsort
  have hlist : (decide (k ≤ 4096) && sortedDefects ds) = true := by
    rw [decide_eq_true hk, hsort]
    rfl
  refine reaches_command rfl ?_ (State.onCam_answers h hcam hc _ _)
  rw [hc, firstFail_cons hbuf, firstFail_cons hstop, firstFail_cons hlist, firstFail_nil]

theorem reaches_camShading {buf : BufRef} (hbuf : s.bufReads buf = true) (hstop : c.stopped = true) :
    Reaches (exec (.camShading src cam buf) s) fun t =>
      t.answered src ST.ok ∧ t.cam cam.toNat = { c with shading := s.read16 buf 1089 } := by
  refine reaches_command rfl ?_ (State.onCam_answers h hcam hc _ _)
  rw [hc, firstFail_cons hbuf, firstFail_cons hstop, firstFail_nil]

theorem reaches_camTemplate {tp : TemplateRec} {buf : BufRef} (hbuf : s.bufReads buf = true)
    (htp : templateOk tp = true) : Reaches (exec (.camTemplate src cam tp buf) s) fun t =>
      t.answered src ST.ok ∧ ∃ u ∈ (t.cam cam.toNat).templates, u.cfg = tp ∧ u.img.length = tp.th.toNat := by
  refine reaches_command rfl ?_ ?_
  · rw [firstFail_cons hbuf, firstFail_cons htp, firstFail_nil]
  · obtain ⟨hans, hset⟩ := State.onCam_answers (src := src) h hcam hc
      (fun c => { c with templates := setTemplate c.templates (readTemplate s tp buf) }) []
    refine ⟨hans, readTemplate s tp buf, ?_, rfl, ?_⟩
    · exact hset ▸ mem_setTemplate ..
    · show (List.map _ (List.range tp.th.toNat)).length = _
      rw [List.length_map, List.length_range]

theorem reaches_camRing {buf : BufRef} (hstop : c.stopped = true) (hidle : s.queueBusy (cam.toNat + 2) = false) :
    Reaches (exec (.camRing src cam buf) s) fun t => t.answered src ST.ok ∧ t.cam cam.toNat = { c with
      ringBase := buf.addr, ringSpace := buf.space, ringWords := buf.len.toNat / 16, ringWp := 0, ringRp := 0 } := by
  refine reaches_command rfl ?_ ?_
  · rw [hc, firstFail_cons hstop, firstFail_nil]
  · dsimp only
    rw [State.queueBusy_unbindQueue, hidle, if_neg Bool.false_ne_true]
    exact State.onCam_answers (s := (s.unbindQueue (cam.toNat + 2)).onAhead (cam.toNat + 2) fun _ => 0) h hcam hc _ _
end

/-- Settles O20: the eleven CAM commands of Table 17-12 (0x0601 to 0x060B). -/
theorem cameraCommands : Obligations.CameraCommands := by
  intro s src cam h hcam c
  exact ⟨fun _ => reaches_camConfig h hcam rfl, fun _ => reaches_camSettings h hcam rfl,
    fun _ _ => reaches_camI2cXfer h hcam rfl, fun _ => reaches_camStart h hcam rfl, reaches_camStop_abort h hcam rfl,
    reaches_camStop_drain h hcam rfl, reaches_camDefects h hcam rfl, fun _ => reaches_camShading h hcam rfl,
    fun _ _ => reaches_camTemplate h hcam rfl, fun _ => reaches_of_next rfl (State.onCam_answers h hcam rfl _ _),
    fun _ => reaches_camRing h hcam rfl, reaches_of_next rfl ⟨State.ok_answered h .., State.ok_cams ..⟩⟩

end Sys2Proof.Machine
end

section
/-!
PROOF. The CAL, LINK, TIME and PLATE groups of Tables 17-12 and 17-13: obligations O21 and O22.
-/

namespace Sys2Proof.Machine

/-! ### The CAL commands (R352, R354, R357, R361, R366, R367) -/

section
variable {s : State} {src : Src}

theorem Meas.setRange_acqs (m : Meas) (n : Nat) (r : BitVec 2) : (m.setRange n r).acqs = m.acqs := by
  unfold Meas.setRange
  split <;> rfl

theorem Meas.setRanges_acqs (d : AcqDesc) (chs : List Nat) (m : Meas) :
    (chs.foldl (fun (m : Meas) n => m.setRange n (acqRange d n)) m).acqs = m.acqs := by
  induction chs generalizing m with
  | nil => rfl
  | cons n chs ih => exact (ih _).trans (Meas.setRange_acqs ..)

/-- No channel of the descriptor is in an acquisition, and none is the cup channel of a gain run. -/
theorem acquire_channels_free {d : AcqDesc}
    (hfree : ∀ n ∈ maskChannels d.chmask, (∀ a ∈ s.meas.acqs, a.desc.chmask.getLsbD n = false) ∧
      ∀ g, s.meas.gain = some g → g.policy.cupch.toNat ≠ n) :
    ((maskChannels d.chmask).any (fun n => s.meas.acqs.any (·.desc.chmask.getLsbD n)) ||
      s.meas.gain.any (fun g => (maskChannels d.chmask).contains g.policy.cupch.toNat)) = false := by
  rw [Bool.or_eq_false_iff]
  constructor
  · refine List.any_eq_false.2 fun n hn => ?_
    rw [List.any_eq_true]
    rintro ⟨a, ha, hbit⟩
    rw [(hfree n hn).1 a ha] at hbit
    exact Bool.false_ne_true hbit
  · cases hg : s.meas.gain with
    | none => rfl
    | some g =>
      rw [Option.any_some, ← Bool.not_eq_true, List.contains_iff_mem]
      exact fun hmem => (hfree _ hmem).2 g hg rfl

theorem reaches_calAcquire {d : AcqDesc} (h : s.mbsWf)
    (hfree : ∀ n ∈ maskChannels d.chmask, (∀ a ∈ s.meas.acqs, a.desc.chmask.getLsbD n = false) ∧
      ∀ g, s.meas.gain = some g → g.policy.cupch.toNat ≠ n)
    (hone : 1 ≤ d.count.toNat) (hmax : d.count.toNat ≤ 2 ^ 24) (hmask : d.chmask ≠ 0)
    (hbuf : d.bufAddr = 0 ∨ rangeOk d.bufSpace d.bufAddr.toNat d.bufLen.toNat = true ∧
      4 * (maskChannels d.chmask).length * d.count.toNat ≤ d.bufLen.toNat) :
    Reaches (exec (.calAcquire src d) s) fun t => t.waits src (.calAcquire src d) ∧
      t.meas.acqs = s.meas.acqs ++ [⟨src, d, 0, (maskChannels d.chmask).map fun _ => none⟩] := by
  have hok : (decide (1 ≤ d.count.toNat ∧ d.count.toNat ≤ 2 ^ 24) && d.chmask != 0 &&
      (d.bufAddr == 0 || (rangeOk d.bufSpace d.bufAddr.toNat d.bufLen.toNat &&
        decide (4 * (maskChannels d.chmask).length * d.count.toNat ≤ d.bufLen.toNat)))) = true := by
    rw [decide_eq_true ⟨hone, hmax⟩, bne_iff_ne.2 hmask, Bool.true_and, Bool.true_and, Bool.or_eq_true, beq_iff_eq,
      Bool.and_eq_true, decide_eq_true_iff]
    exact hbuf
  refine reaches_command rfl ?_ ⟨State.wait_waits (by exact h) .., ?_⟩
  · rw [acquire_channels_free hfree, Bool.not_false, firstFail_true, firstFail_cons hok, firstFail_nil]
  · rw [State.wait_meas]
    exact congrArg (· ++ _) (Meas.setRanges_acqs ..)

theorem reaches_calTsLimits {l : List (BitVec 16 × BitVec 16)} (h : s.mbsWf)
    (hl : ∀ p ∈ l, signedOf 16 p.1.toNat ≤ signedOf 16 p.2.toNat) :
    Reaches (exec (.calTsLimits src l) s) fun t => t.answered src ST.ok ∧
      ∀ n, n < 4 → t.meas.tsLimits.getD n (0, 0) =
        (l.map fun p => (signedOf 16 p.1.toNat, signedOf 16 p.2.toNat)).getD n (s.meas.tsLimits.getD n (0, 0)) := by
  have hord : ((l.map fun p => (signedOf 16 p.1.toNat, signedOf 16 p.2.toNat)).all fun p => decide (p.1 ≤ p.2)) = true := by
    rw [List.all_map, List.all_eq_true]
    exact fun p hp => decide_eq_true (hl p hp)
  refine reaches_command rfl (firstFail_cons hord) ⟨State.ok_answered (by exact h) .., fun n hn => ?_⟩
  rw [State.ok_meas, State.onMeas_meas]
  dsimp only
  rw [List.getD_eq_getElem?_getD, List.getElem?_map, List.getElem?_range hn]
  rfl

/-! A trim run starts (R357) -/

theorem Meas.item_modify (l : List Trim) (j k : Nat) (f : Trim → Trim) (hj : j < l.length) :
    (l.modify j f).getD k Trim.reset = if k = j then f (l.getD k Trim.reset) else l.getD k Trim.reset := by
  by_cases hk : k = j
  · subst hk
    simp [List.getD_eq_getElem?_getD, hj]
  · rw [if_neg hk]
    simp [List.getD_eq_getElem?_getD, Ne.symm hk]

/-- The runs of the items named start; the others stay as they are. -/
theorem State.startTrims_running {ks : List Nat} (hks : ∀ k ∈ ks, k < s.meas.items.length) (k : Nat) :
    ((ks.foldl (fun (t : State) k => t.onItem k fun x => { x with running := true, restart := false }) s).meas.item
      k).running = true ↔ (s.meas.item k).running = true ∨ k ∈ ks := by
  induction ks generalizing s with
  | nil => simp
  | cons j ks ih =>
    have hj : j < s.meas.items.length := hks j (List.mem_cons_self ..)
    rw [List.foldl_cons, ih fun i hi => ?_, List.mem_cons]
    · show ((s.meas.items.modify j _).getD k Trim.reset).running = true ∨ _ ↔ _
      rw [Meas.item_modify _ _ _ _ hj]
      by_cases hk : k = j
      · simp [hk]
      · simp only [hk, if_false, false_or]
        exact Iff.rfl
    · show i < (s.meas.items.modify j _).length
      rw [List.length_modify]
      exact hks i (List.mem_cons_of_mem _ hi)

theorem mem_trimItems_lt {item : BitVec 8} (h : item = 0xFF ∨ item.toNat < 71) : ∀ k ∈ trimItems item, k < 71 := by
  intro k hk
  unfold trimItems at hk
  split at hk
  · exact List.mem_range.1 hk
  · exact List.mem_singleton.1 hk ▸ h.resolve_left ‹_›

theorem reaches_calTrimRun {item : BitVec 8} (h : s.mbsWf) (hlen : s.meas.items.length = 71)
    (hitem : item = 0xFF ∨ item.toNat < 71) (hwait : s.meas.trimWait = none)
    (hmay : ∀ k ∈ trimItems item, s.mayTrim k = true ∧ (s.meas.item k).running = false) :
    Reaches (exec (.calTrimRun src item) s) fun t => t.waits src (.calTrimRun src item) ∧
      (∀ k, (t.meas.item k).running = true ↔ (s.meas.item k).running = true ∨ k ∈ trimItems item) ∧
      t.meas.trimSet = trimItems item ∧ t.meas.trimWait = some src := by
  have hfree : ((trimItems item).all s.mayTrim && (trimItems item).all (fun k => !(s.meas.item k).running) &&
      s.meas.trimWait.isNone) = true := by
    rw [hwait, Option.isNone_none, Bool.and_true, Bool.and_eq_true, List.all_eq_true, List.all_eq_true]
    exact ⟨fun k hk => (hmay k hk).1, fun k hk => by rw [(hmay k hk).2]; rfl⟩
  have hruns : Fr [.meas] s ((trimItems item).foldl (fun (t : State) k => t.onItem k fun x =>
      { x with running := true, restart := false }) s) :=
    Fr.foldl (Fr.refl [.meas] s) fun _ _ hfr => hfr.trans (State.onItem_fr ..)
  refine reaches_command rfl ?_ ⟨State.wait_waits (by exact hruns.mbsWf h) .., ?_⟩
  · rw [firstFail_cons (decide_eq_true hitem), firstFail_cons hfree, firstFail_nil]
  · rw [State.wait_meas]
    refine ⟨fun k => ?_, rfl, rfl⟩
    exact State.startTrims_running (fun i hi => hlen.symm ▸ mem_trimItems_lt hitem i hi) k

/-! The gain loop's commands -/

theorem reaches_calGainRun {g : BeamGrid} (h : s.mbsWf) (hmet : s.gainUnmet = 0) :
    Reaches (exec (.calGainRun src g) s) fun t => t.waits src (.calGainRun src g) ∧
      ∃ p, t.meas.gain = some p ∧ p.src = src ∧ p.grid = g ∧ p.policy = s.meas.policy ∧ p.second = false ∧ p.step = 0 := by
  refine reaches_of_next rfl ?_
  dsimp only
  rw [if_neg (Classical.not_not.2 hmet), State.wait_meas]
  generalize hu : State.onCam _ 2 _ = u
  have hwf : u.mbsWf := by
    rw [← hu]
    exact (State.sendHead_fr ..).mbsWf h
  have hgain : ∃ p, u.meas.gain = some p ∧ p.src = src ∧ p.grid = g ∧ p.policy = s.meas.policy ∧ p.second = false ∧
      p.step = 0 := by
    rw [← hu]
    exact ⟨_, rfl, rfl, rfl, rfl, rfl, rfl⟩
  split
  · exact ⟨State.wait_waits (by exact hwf) .., hgain⟩
  · exact ⟨State.wait_waits hwf .., hgain⟩

theorem State.closePair_gain (s : State) (g : GainPair) (st : BitVec 16) (body : List Word) :
    (s.closePair g st body).meas.gain = none := by
  unfold State.closePair
  rw [State.respond_meas, State.unwait_meas, (State.permitCheck_fr _).meas_eq, (State.plateCommit_fr _).meas_eq]
  rfl

theorem State.endPair_gain (s : State) (c : PairEnd) : (s.endPair c).meas.gain = none := by
  unfold State.endPair
  split
  · assumption
  · exact State.closePair_gain ..

theorem reaches_calGainAbort {abort : Bool} (h : s.mbsWf) : Reaches (exec (.calGainAbort src abort) s) fun t =>
    t.answered src ST.ok ∧ t.meas.gain = none := by
  refine reaches_of_next rfl ⟨State.ok_answered ((State.endPair_fr ..).mbsWf h) .., ?_⟩
  rw [State.ok_meas]
  exact State.endPair_gain ..

theorem reaches_calPolicy {p : CalPolicy} (h : s.mbsWf) (hccal : 1 ≤ p.ccal.toNat) (hmin : 10 ≤ p.mcup.toNat)
    (hmax : p.mcup.toNat ≤ 10000) (hbeam : 1 ≤ p.ibeam.toNat) (halpha : p.alpha0.toNat ≤ 16384)
    (hlo : 10000 ≤ p.tau0.toNat) (hhi : p.tau0.toNat ≤ 10000000) : Reaches (exec (.calPolicy src p) s) fun t =>
      t.answered src ST.ok ∧ t.meas = { s.meas with policy := p } := by
  refine reaches_command rfl ?_ ⟨State.ok_answered (by exact h) .., State.ok_meas ..⟩
  rw [decide_eq_true hccal, decide_eq_true ⟨hmin, hmax⟩, decide_eq_true hbeam, decide_eq_true halpha,
    decide_eq_true ⟨hlo, hhi⟩]
  rfl
end

/-- Settles O21. -/
theorem calibrationCommands : Obligations.CalibrationCommands :=
  ⟨fun _ _ _ => reaches_calAcquire, fun _ _ _ => reaches_calTsLimits, fun _ _ _ => reaches_calTrimRun,
    fun _ _ _ => reaches_calGainRun, fun _ _ _ => reaches_calGainAbort, fun _ _ _ => reaches_calPolicy,
    fun _ _ h => reaches_of_next rfl ⟨State.ok_answered h .., State.ok_meas ..⟩⟩

/-! ### The LINK commands (R295, R323) -/

section
variable {s : State} {src : Src}

theorem reaches_linkThermal {ch : BitVec 4} {warn stop trip : BitVec 16} {c : Thermal} (h : s.mbsWf)
    (hhead : s.link.headPresent = true) (hc : s.link.thermal[ch.toNat]? = some c)
    (hok : c.boundsOk (signedOf 16 warn.toNat) (signedOf 16 stop.toNat) (signedOf 16 trip.toNat) = true) :
    Reaches (exec (.linkThermal src ch warn stop trip) s) fun t => t.answered src ST.ok ∧
      t.link.thermal[ch.toNat]? = some { c with
        warn := signedOf 16 warn.toNat, stop := signedOf 16 stop.toNat, trip := signedOf 16 trip.toNat } ∧
      ∀ n, n ≠ ch.toNat → t.link.thermal[n]? = s.link.thermal[n]? := by
  refine reaches_command rfl ?_ ⟨State.ok_answered (by exact h) .., ?_⟩
  · rw [List.getD_eq_getElem?_getD, hc, Option.getD_some, firstFail_cons hhead, firstFail_cons hok, firstFail_nil]
  · rw [State.ok_link]
    show (s.link.thermal.modify _ _)[_]? = _ ∧ ∀ n, _ → (s.link.thermal.modify _ _)[n]? = _
    refine ⟨?_, fun n hn => List.getElem?_modify_ne _ _ (Ne.symm hn)⟩
    rw [List.getElem?_modify_eq, hc]
    rfl

theorem State.onLane_lane {n : Nat} (hn : n < s.link.lanes.length) (f : Lane → Lane) :
    (s.onLane n f).link.lane n = f (s.link.lane n) := Link.lane_onLane_self hn f

theorem State.onLane_lanes_length (s : State) (n : Nat) (f : Lane → Lane) :
    (s.onLane n f).link.lanes.length = s.link.lanes.length := Link.onLane_lanes_length ..

/-- The training of a lane leaves it under test where it was. -/
theorem State.startTraining_testing {n : Nat} (hn : n < s.link.lanes.length) :
    ((s.startTraining n).link.lane n).testing = (s.link.lane n).testing := by
  unfold State.startTraining
  dsimp only
  generalize hu : State.onLane s n _ = u
  have hlane : (u.link.lane n).testing = (s.link.lane n).testing := by
    rw [← hu, State.onLane_lane hn]
  have hlen : n < u.link.lanes.length := by
    rw [← hu, State.onLane_lanes_length]
    exact hn
  rw [← hlane]
  split
  · show ((u.onLane n _).link.lane n).testing = _
    rw [State.onLane_lane hlen]
  · rw [State.onLane_lane hlen]

theorem reaches_linkTest {lane : BitVec 7} (h : s.mbsWf) (hlane : lane.toNat < 68)
    (hfree : s.laneBusy lane.toNat = false) (hlen : s.link.lanes.length = 68) :
    Reaches (exec (.linkTest src lane) s) fun t => t.waits src (.linkTest src lane) ∧
      (t.link.lane lane.toNat).testing = true := by
  refine reaches_command rfl ?_ ⟨State.wait_waits (by exact (State.startTraining_fr ..).mbsWf h) .., ?_⟩
  · rw [hfree, firstFail_cons (decide_eq_true hlane)]
    rfl
  · rw [State.wait_link, State.startTraining_testing, State.onLane_lane (by rw [hlen]; exact hlane)]
    rw [State.onLane_lanes_length, hlen]
    exact hlane
end

/-! ### The TIME commands (R398, R404, R405) -/

section
variable {s : State} {src : Src} {d : BitVec 1}

theorem TimeBase.dom_onDom_self (b : TimeBase) (d : BitVec 1) (f : Domain → Domain) : (b.onDom d f).dom d = f (b.dom d) := by
  unfold TimeBase.onDom TimeBase.dom
  split <;> rfl

theorem TimeBase.onDom_ctr (b : TimeBase) (d : BitVec 1) (f : Domain → Domain) : (b.onDom d f).ctr = b.ctr := by
  unfold TimeBase.onDom
  split <;> rfl

theorem TimeBase.Reselected.dom_eq {b c : TimeBase} (h : b.Reselected c) (d : BitVec 1) : c.dom d = b.dom d := by
  obtain ⟨_, _, _, _, rfl⟩ := h
  rfl

theorem TimeBase.Reselected.ctr_eq {b c : TimeBase} (h : b.Reselected c) : c.ctr = b.ctr := by
  obtain ⟨_, _, _, _, rfl⟩ := h
  rfl

/-- A domain that returns to UNLOCKED (Table 16-3). -/
def Domain.unlocked (x : Domain) : Domain :=
  { x with st := .unlocked, value := 0, anchor := 0, rate := 0, inTol := 0, outTol := 0, goodSince := none, master := none }

theorem State.domUnlock_dom (s : State) (d : BitVec 1) : (s.domUnlock d).time.dom d = (s.time.dom d).unlocked := by
  unfold State.domUnlock
  rw [State.onTime_time, ← TimeBase.dom_onDom_self s.time d Domain.unlocked]
  split <;> rfl

theorem State.domUnlock_ctr (s : State) (d : BitVec 1) : (s.domUnlock d).time.ctr = s.time.ctr := by
  unfold State.domUnlock
  rw [State.onTime_time, ← TimeBase.onDom_ctr s.time d Domain.unlocked]
  split <;> rfl

theorem State.loadDomain_time (s : State) (d : BitVec 1) (r : DomainRec) :
    ((s.loadDomain d r).time.dom d).cfg = r ∧ (s.loadDomain d r).time.ctr = s.time.ctr := by
  unfold State.loadDomain
  dsimp only
  generalize hu : State.onTime s _ = u
  have hcfg : (u.time.dom d).cfg = r := by
    rw [← hu, State.onTime_time, TimeBase.dom_onDom_self]
  have hctr : u.time.ctr = s.time.ctr := by
    rw [← hu, State.onTime_time, TimeBase.onDom_ctr]
  split
  · exact ⟨hcfg, hctr⟩
  · have hsel := (u.domUnlock d).reselect_reselected
    rw [hsel.dom_eq, hsel.ctr_eq, State.domUnlock_dom, State.domUnlock_ctr]
    exact ⟨hcfg, hctr⟩

theorem reaches_timeDomain {r : DomainRec} (h : s.mbsWf) (hr : domainRecOk r (s.time.dom (d + 1)).cfg = true) :
    Reaches (exec (.timeDomain src d r) s) fun t => t.answered src ST.ok ∧ (t.time.dom d).cfg = r ∧
      t.time.ctr = s.time.ctr := by
  refine reaches_command rfl (firstFail_cons hr) ⟨State.ok_answered ((State.loadDomain_fr ..).mbsWf h) .., ?_⟩
  rw [State.ok_time]
  exact State.loadDomain_time ..

theorem State.applySelect_time (s : State) (mode : BitVec 2) (pref : BitVec 1) (rev : Bool) (slew : BitVec 8) :
    (s.applySelect mode pref rev slew).time.mode = mode ∧ (s.applySelect mode pref rev slew).time.pref = pref ∧
      (s.applySelect mode pref rev slew).time.revert = rev ∧ (s.applySelect mode pref rev slew).time.slew = slew ∧
      (s.applySelect mode pref rev slew).time.deferred = none := by
  unfold State.applySelect
  obtain ⟨_, _, _, _, hsel⟩ := State.reselect_reselected (s.onTime fun t =>
    { t with e0 := if t.initial then t.e0 else t.resid t.ctr, t0 := t.ctr, mode := mode, pref := pref, revert := rev,
             slew := slew, deferred := none })
  rw [hsel]
  exact ⟨rfl, rfl, rfl, rfl, rfl⟩

theorem reaches_timeSelect {mode : BitVec 2} {pref : BitVec 1} {rev : Bool} {slew : BitVec 8} (h : s.mbsWf)
    (hmode : mode.toNat ≤ 2) (hmin : 1 ≤ slew.toNat) (hmax : slew.toNat ≤ 50) :
    Reaches (exec (.timeSelect src mode pref rev slew) s) fun t => t.answered src ST.ok ∧
      if s.active? = none then t.time.mode = mode ∧ t.time.pref = pref ∧ t.time.revert = rev ∧ t.time.slew = slew ∧
        t.time.deferred = none
      else t.time = { s.time with deferred := some (mode, pref, rev, slew) } ∧
        (t.mb src.mb).resp1.getLsbD 17 = true := by
  refine reaches_command rfl ?_ ?_
  · rw [decide_eq_true hmode, decide_eq_true hmin, decide_eq_true hmax]
    rfl
  · cases hactive : s.active? with
    | none =>
      rw [Option.isSome_none, if_neg Bool.false_ne_true, if_pos rfl, State.ok_time]
      exact ⟨State.ok_answered ((State.applySelect_fr ..).mbsWf h) .., State.applySelect_time ..⟩
    | some x =>
      rw [Option.isSome_some, if_pos rfl, if_neg nofun, State.respond_time]
      exact ⟨State.respond_answered (by exact h) .., rfl, State.respond_deferred (by exact h) ..⟩
end

/-! ### The PLATE commands (R243, R252) -/

section
variable {s : State} {src : Src}

theorem reaches_plateProvision {svc : Bool} {key : BitVec 256} (h : s.mbsWf)
    (hnone : (if svc then s.plate.keySvc else s.plate.keyM) = none) :
    Reaches (exec (.plateProvision src svc key) s) fun t => t.answered src ST.ok ∧
      (if svc then t.plate.keySvc else t.plate.keyM) = some key ∧
      (if svc then t.plate.keyM else t.plate.keySvc) = if svc then s.plate.keyM else s.plate.keySvc := by
  refine reaches_command rfl (firstFail_cons ?_) ⟨State.ok_answered (by exact h) .., ?_⟩
  · cases svc <;> exact congrArg Option.isNone hnone
  · rw [State.ok_plate]
    cases svc <;> exact ⟨rfl, rfl⟩

/-- What a service token sets, and what neither a commit nor a comparison with the limits changes. -/
def Plate.tokenView (p : Plate) : Nat × Nat × Nat × Nat × Bool :=
  (p.hardFlash, p.hardOn, p.usage.tserial, p.usage.flashes, p.refused)

theorem Fr.tokenView_eq {ps : List Part} {t : State} (h : Fr ps s t) (hp : .plate ∉ ps := by decide) :
    t.plate.tokenView = s.plate.tokenView := congrArg Plate.tokenView (h.plate_eq hp)

theorem State.plateLimits_tokenView (s : State) : s.plateLimits.plate.tokenView = s.plate.tokenView := by
  unfold State.plateLimits
  dsimp only
  rw [State.onPlate_plate]
  generalize hw : List.foldl _ s _ = w
  have hwarn : Fr [.queues, .out] s w := by
    rw [← hw]
    exact Fr.foldl (Fr.refl _ s) fun _ _ hfr => hfr.trans (State.raise_fr ..)
  split
  · rw [State.raise_plate, hwarn.plate_eq]
    rfl
  · rw [hwarn.plate_eq]
    rfl

theorem State.putRecord_tokenView (s : State) : s.putRecord.plate.tokenView = s.plate.tokenView := by
  unfold State.putRecord
  dsimp only
  split
  · split
    · rfl
    · exact (State.raise_fr ..).tokenView_eq
  · rfl

theorem State.storePlate_tokenView (s : State) : s.storePlate.plate.tokenView = s.plate.tokenView := by
  unfold State.storePlate
  dsimp only
  split
  · exact s.draw.putRecord_tokenView
  · rw [State.fault_plate, (State.sectorFails_fr ..).tokenView_eq]
    rfl

theorem State.plateCommit_tokenView (s : State) : s.plateCommit.plate.tokenView = s.plate.tokenView := by
  unfold State.plateCommit
  split
  · rfl
  · split
    · rfl
    · split
      · rfl
      · dsimp only
        split
        · rw [State.plateLimits_tokenView, (State.sendHead_fr ..).tokenView_eq, State.storePlate_tokenView]
          rfl
        · rw [State.fault_plate, State.storePlate_tokenView]
          rfl

theorem State.applyToken_tokenView (s : State) (tk : TokenRec) : (s.applyToken tk).plate.tokenView =
    (fld 63 0 tk.w2, fld 127 64 tk.w2, fld 95 64 tk.w0,
      if fld 24 24 tk.w0 = 1 then fld 63 0 tk.w3 else s.plate.usage.flashes,
      if fld 24 24 tk.w0 = 1 then false else s.plate.refused) := by
  unfold State.applyToken
  dsimp only
  rw [State.plateCommit_tokenView]
  rfl

theorem reaches_plateToken {tk : TokenRec} (h : s.mbsWf) (hatt : s.plate.attached.isSome = true)
    (hok : s.plate.tokenOk tk = true) : Reaches (exec (.plateToken src tk) s) fun t =>
      t.answered src ST.ok ∧ t.plate.hardFlash = fld 63 0 tk.w2 ∧ t.plate.hardOn = fld 127 64 tk.w2 ∧
      t.plate.usage.tserial = fld 95 64 tk.w0 ∧
      (fld 24 24 tk.w0 = 1 → t.plate.refused = false ∧ t.plate.usage.flashes = fld 63 0 tk.w3) := by
  refine reaches_command rfl ?_ ⟨State.ok_answered ((State.applyToken_fr ..).mbsWf h) .., ?_⟩
  · rw [firstFail_cons hatt, firstFail_cons hok, firstFail_nil]
  · rw [State.ok_plate]
    have hview := s.applyToken_tokenView tk
    simp only [Plate.tokenView, Prod.mk.injEq] at hview
    obtain ⟨hflash, hon, hserial, hcount, hrefused⟩ := hview
    refine ⟨hflash, hon, hserial, fun hseed => ?_⟩
    rw [hrefused, hcount, if_pos hseed, if_pos hseed]
    exact ⟨rfl, rfl⟩

theorem reaches_plateStatus (h : s.mbsWf) (hatt : s.plate.attached.isSome = true) :
    Reaches (exec (.plateStatus src) s) fun t => t.answered src ST.ok ∧ t.plate = s.plate :=
  reaches_command rfl (firstFail_cons hatt) ⟨State.ok_answered h .., State.ok_plate ..⟩
end

/-- Settles O22. -/
theorem linkTimePlateCommands : Obligations.LinkTimePlateCommands :=
  ⟨fun _ _ _ _ _ _ _ => reaches_linkThermal,
    fun _ _ h => reaches_of_next rfl ⟨State.ok_answered h .., State.ok_link ..⟩, fun _ _ _ => reaches_linkTest,
    fun _ _ _ _ => reaches_timeDomain, fun _ _ _ _ _ _ => reaches_timeSelect,
    fun _ _ h => reaches_of_next rfl ⟨State.ok_answered h .., State.ok_time ..⟩, fun _ _ _ _ => reaches_plateProvision,
    fun _ _ _ => reaches_plateToken, fun _ _ => reaches_plateStatus⟩

end Sys2Proof.Machine
end

section
/-!
PROOF. The registers and the actions of a DMA channel (Table 15-7), the check-value units (R389, R390), and obligations
O23, O24 and O25.
-/

namespace Sys2Proof.Machine

/-! ### A channel and a unit under an update -/

section
variable {s : State} {n : Nat}

theorem State.onCh_dmaCh (hn : n < s.dma.chans.length) (f : Dma → Dma) : (s.onCh n f).dmaCh n = f (s.dmaCh n) := by
  simp [State.onCh, State.dmaCh, List.getD_eq_getElem?_getD, hn]

@[simp] theorem State.onCh_chans_length (s : State) (n : Nat) (f : Dma → Dma) :
    (s.onCh n f).dma.chans.length = s.dma.chans.length := by
  simp [State.onCh]

theorem State.dmaCh_of_dma {t : State} (h : t.dma = s.dma) (n : Nat) : t.dmaCh n = s.dmaCh n := by
  rw [State.dmaCh, h, State.dmaCh]

theorem State.onCvu_cvu (hn : n < s.dma.cvus.length) (f : Cvu → Cvu) : (s.onCvu n f).cvu n = f (s.cvu n) := by
  simp [State.onCvu, State.cvu, List.getD_eq_getElem?_getD, hn]

theorem State.ok_mc (s : State) (src : Src) (body : List Word) : (s.ok src body).mc = s.mc := by
  unfold State.ok State.respond State.msix
  dsimp only
  split <;> rfl

theorem Mem.bytes_length (m : Mem) (sp : BitVec 4) (a n : Nat) : (m.bytes sp a n).length = n := by
  unfold Mem.bytes
  rw [List.length_map, List.length_range]

theorem State.ok_dmaCh (s : State) (src : Src) (body : List Word) (n : Nat) : (s.ok src body).dmaCh n = s.dmaCh n :=
  State.dmaCh_of_dma (State.ok_dma ..) n

theorem State.wait_dmaCh (s : State) (src : Src) (i : Instr) (n : Nat) : (s.wait src i).dmaCh n = s.dmaCh n :=
  State.dmaCh_of_dma (State.wait_dma ..) n

theorem State.ok_cvu (s : State) (src : Src) (body : List Word) (n : Nat) : (s.ok src body).cvu n = s.cvu n := by
  rw [State.cvu, State.ok_dma, State.cvu]

/-! ### The boundary of a channel -/

/-- At a boundary a channel changes in its fetch and in the descriptor it is to fetch. -/
theorem State.dmaKick_dmaCh (hn : n < s.dma.chans.length) :
    ∃ f x, (s.dmaKick n).dmaCh n = { s.dmaCh n with fetching := f, next := x } := by
  unfold State.dmaKick
  rw [State.onCh_dmaCh hn]
  split
  · split
    · exact ⟨_, _, rfl⟩
    · exact ⟨(s.dmaCh n).fetching, (s.dmaCh n).next, rfl⟩
  · exact ⟨(s.dmaCh n).fetching, (s.dmaCh n).next, rfl⟩

/-- A channel that serves requests the descriptor that waits (R386). -/
theorem State.dmaKick_fetches {a : Nat} {sp : BitVec 4} (hn : n < s.dma.chans.length)
    (hnext : (s.dmaCh n).next = some (a, sp)) (hrec : (s.dmaCh n).recWait = none)
    (hst : (s.dmaCh n).st = .active ∨ (s.dmaCh n).st = .pacedOff) :
    (s.dmaKick n).dmaCh n = { s.dmaCh n with fetching := some (a, sp, s.now), next := none } := by
  unfold State.dmaKick
  rw [State.onCh_dmaCh hn, hnext]
  dsimp only
  exact if_pos (by rcases hst with hst | hst <;> rw [hrec, hst] <;> rfl)

/-- A channel that drains requests nothing. -/
theorem State.dmaKick_draining (hn : n < s.dma.chans.length) (hst : (s.dmaCh n).st = .draining) :
    (s.dmaKick n).dmaCh n = s.dmaCh n := by
  unfold State.dmaKick
  rw [State.onCh_dmaCh hn]
  split
  · exact if_neg (by rw [hst]; simp)
  · rfl

/-- A channel that drains, with nothing in flight and no record that waits (R387). -/
def Dma.drained (c : Dma) : Bool := c.st == .draining && c.burst.isNone && c.fetching.isNone && c.recWait.isNone

theorem State.dmaSettle_of_busy (h : ((s.dmaKick n).dmaCh n).drained = false) : s.dmaSettle n = s.dmaKick n := by
  have hbusy : (!((s.dmaKick n).dmaCh n).drained) = true := by rw [h, Bool.not_false]
  exact if_pos hbusy

/-- A channel that is drained and holds no descriptor stops. -/
theorem State.dmaSettle_of_drained (h : ((s.dmaKick n).dmaCh n).drained = true)
    (hdesc : ((s.dmaKick n).dmaCh n).desc = none) : s.dmaSettle n = (s.dmaKick n).onCh n fun c => { c with
      st := .stopped, resumable := !c.abortPend, next := if c.abortPend then none else c.next, abortPend := false } := by
  unfold Dma.drained at h
  unfold State.dmaSettle
  simp only [h, hdesc, Bool.not_true, Bool.false_eq_true, if_false, Option.isNone_none, if_true]

/-- A burst in flight keeps a channel that drains from stopping (R387). -/
theorem State.dmaSettle_of_burst (hn : n < s.dma.chans.length) (hst : (s.dmaCh n).st = .draining)
    (hburst : (s.dmaCh n).burst.isSome = true) : (s.dmaSettle n).dmaCh n = s.dmaCh n := by
  have hkick := State.dmaKick_draining hn hst
  rw [State.dmaSettle_of_busy, hkick]
  unfold Dma.drained
  rw [hkick, ← Option.not_isSome (s.dmaCh n).burst, hburst, Bool.not_true, Bool.and_false, Bool.false_and, Bool.false_and]

/-- A channel that drains with nothing in flight stops (R387). -/
theorem State.dmaSettle_stops (hn : n < s.dma.chans.length) (hst : (s.dmaCh n).st = .draining)
    (hburst : (s.dmaCh n).burst = none) (hfetch : (s.dmaCh n).fetching = none) (hrec : (s.dmaCh n).recWait = none)
    (hdesc : (s.dmaCh n).desc = none) : (s.dmaSettle n).dmaCh n = { s.dmaCh n with
      st := .stopped, resumable := !(s.dmaCh n).abortPend, abortPend := false
      next := if (s.dmaCh n).abortPend then none else (s.dmaCh n).next } := by
  have hkick := State.dmaKick_draining hn hst
  have hdrained : ((s.dmaKick n).dmaCh n).drained = true := by
    unfold Dma.drained
    rw [hkick, hst, hburst, hfetch, hrec]
    rfl
  rw [State.dmaSettle_of_drained hdrained (hkick ▸ hdesc), State.onCh_dmaCh, hkick]
  unfold State.dmaKick
  rw [State.onCh_chans_length]
  exact hn

/-! ### The four actions (Table 15-7) -/

/-- The state of a channel that starts or resumes: paced channels wait for their queue (R382). -/
def Dma.goSt (c : Dma) : DmaSt := if c.qid = 0 ∧ c.unbound = false then .active else .pacedOff

theorem Dma.goSt_eq (c : Dma) : (if c.qid = 0 && !c.unbound then DmaSt.active else .pacedOff) = c.goSt := by
  unfold Dma.goSt
  simp only [Bool.and_eq_true, decide_eq_true_eq, Bool.not_eq_true']

theorem Dma.goSt_cases (c : Dma) : c.goSt = .active ∨ c.goSt = .pacedOff := by
  unfold Dma.goSt
  split
  · exact .inl rfl
  · exact .inr rfl

theorem State.dmaStart_dmaCh (hn : n < s.dma.chans.length) (hst : (s.dmaCh n).st.rest = true)
    (hrec : (s.dmaCh n).recWait = none) :
    ((s.dmaStart n).dmaCh n).st = (s.dmaCh n).goSt ∧ ((s.dmaStart n).dmaCh n).expseq = (s.dmaCh n).seq0 ∧
      ((s.dmaStart n).dmaCh n).hops = 0 ∧ ((s.dmaStart n).dmaCh n).fetching =
        some (fld 47 0 (s.dmaCh n).head, BitVec.ofNat 4 (fld 51 48 (s.dmaCh n).head), s.now) := by
  unfold State.dmaStart
  rw [if_pos hst]
  generalize hu : State.onCh s n _ = u
  have hch := State.onCh_dmaCh (s := s) hn fun c => { c with
    st := if c.qid = 0 && !c.unbound then .active else .pacedOff
    expseq := c.seq0, hops := 0, pacedOn := false, fetching := none, desc := none, off := 0, abortPend := false
    resumable := false, closed := false, redo := false
    next := some (fld 47 0 c.head, BitVec.ofNat 4 (fld 51 48 c.head)) }
  rw [hu, Dma.goSt_eq] at hch
  have hlen : n < u.dma.chans.length := by
    rw [← hu, State.onCh_chans_length]
    exact hn
  have hnow : u.now = s.now := by rw [← hu]; rfl
  rw [State.dmaKick_fetches hlen (by rw [hch]) (by rw [hch]; exact hrec) (by rw [hch]; exact Dma.goSt_cases _), hch, hnow]
  exact ⟨rfl, rfl, rfl, rfl⟩

theorem State.dmaResume_dmaCh (hn : n < s.dma.chans.length) (hst : (s.dmaCh n).st = .stopped)
    (hres : (s.dmaCh n).resumable = true) (hdesc : (s.dmaCh n).desc.isSome = true) :
    ((s.dmaResume n).dmaCh n).st = (s.dmaCh n).goSt ∧ ((s.dmaResume n).dmaCh n).desc = (s.dmaCh n).desc ∧
      ((s.dmaResume n).dmaCh n).off = (s.dmaCh n).off := by
  have hcan : (s.dmaCh n).canResume = true := by
    unfold Dma.canResume
    rw [hst, hres]
    rfl
  unfold State.dmaResume
  rw [if_pos hcan]
  generalize hu : State.onCh s n _ = u
  have hlen : n < u.dma.chans.length := by
    rw [← hu, State.onCh_chans_length]
    exact hn
  obtain ⟨f, x, hkick⟩ := State.dmaKick_dmaCh hlen
  rw [hkick, ← hu, State.onCh_dmaCh hn]
  refine ⟨?_, rfl, rfl⟩
  dsimp only
  rw [← Option.not_isSome, hdesc, Bool.not_true, Bool.false_and, if_neg Bool.false_ne_true]
  exact Dma.goSt_eq _

theorem State.dmaDrain_dmaCh (hn : n < s.dma.chans.length) (hcan : (s.dmaCh n).canDrain = true)
    (hburst : (s.dmaCh n).burst.isSome = true) : (s.dmaDrain n).dmaCh n = { s.dmaCh n with st := .draining } := by
  unfold State.dmaDrain
  rw [if_pos hcan, State.dmaSettle_of_burst, State.onCh_dmaCh hn]
  · rw [State.onCh_chans_length]
    exact hn
  · rw [State.onCh_dmaCh hn]
  · rw [State.onCh_dmaCh hn]
    exact hburst

theorem State.dmaAbort_dmaCh (hn : n < s.dma.chans.length) (hst : (s.dmaCh n).st ≠ .idle)
    (hburst : (s.dmaCh n).burst = none) (hdesc : (s.dmaCh n).desc = none) (hrec : (s.dmaCh n).recWait = none) :
    (s.dmaAbort n).dmaCh n = { s.dmaCh n with
      st := .stopped, resumable := false, abortPend := false, fetching := none, next := none } := by
  unfold State.dmaAbort
  rw [if_neg hst, State.dmaSettle_stops, State.onCh_dmaCh hn]
  · rfl
  · rw [State.onCh_chans_length]
    exact hn
  all_goals rw [State.onCh_dmaCh hn]
  · exact hburst
  · exact hrec
  · exact hdesc

theorem State.setCrrp_room (hrec : (s.dmaCh n).recWait = none) (hn : n < s.dma.chans.length) (v : BitVec 64) :
    (s.setCrrp n v).dmaCh n = { s.dmaCh n with crrp := v &&& 0xFFFF#64 } := by
  unfold State.setCrrp
  dsimp only
  rw [State.onCh_dmaCh hn]
  split
  case h_1 w hw => exact absurd (hrec.symm.trans hw) nofun
  case h_2 => exact State.onCh_dmaCh hn _
end

/-! ### The MEM and DMA commands on a host channel -/

section
variable {s : State} {src : Src} {chan : BitVec 5}

theorem reaches_memLandingRead {id : StripeId} {seg : BitVec 16} {x : Stripe} {g : Seg} (h : s.mbsWf)
    (hx : s.stripe? id = some x) (hg : x.seg? seg.toNat = some g) (hheld : g.lstate.isHeld = true) :
    Reaches (exec (.memLandingRead src id seg) s) fun t => t.answered src ST.ok ∧
      (t.mb src.mb).respBody = x.landingRecord seg.toNat g 0 := by
  have hexec : exec (.memLandingRead src id seg) s = .next (s.ok src (x.landingRecord seg.toNat g 0)) := by
    rw [exec_memLandingRead, execMemLandingRead, hx, State.seg_of_stripe hx hg]
    dsimp only
    rw [hheld, if_pos rfl]
  obtain ⟨-, -, hbody, -⟩ := State.ok_own h src (x.landingRecord seg.toNat g 0)
  exact reaches_of_next hexec ⟨State.ok_answered h .., hbody⟩

variable (h : s.mbsWf) (hlen : s.dma.chans.length = 48)
include h hlen

omit h in
theorem hostChannel_lt : chan.toNat < s.dma.chans.length := by
  rw [hlen]
  omega

theorem reaches_dmaConfig {cfg pace head cring : BitVec 64} (hst : (s.dmaCh chan.toNat).st.rest = true)
    (hok : dmaConfigOk cfg pace head cring = true) : Reaches (exec (.dmaConfig src chan cfg pace head cring) s) fun t =>
      t.answered src ST.ok ∧ (t.dmaCh chan.toNat).pace = pace ∧ (t.dmaCh chan.toNat).wp = 0 ∧
      (t.dmaCh chan.toNat).phase = true ∧ (t.dmaCh chan.toNat).unbound = false ∧
      (t.dmaCh chan.toNat).st = (s.dmaCh chan.toNat).st := by
  refine reaches_command rfl ?_ ⟨State.ok_answered (by exact h) .., ?_⟩
  · rw [firstFail_cons hst, firstFail_cons hok, firstFail_nil]
  · rw [State.ok_dmaCh, State.onCh_dmaCh (hostChannel_lt hlen)]
    exact ⟨rfl, rfl, rfl, rfl, rfl⟩

theorem reaches_dmaStart_start (hserves : s.chanServes chan.toNat = true) (hst : (s.dmaCh chan.toNat).st.rest = true)
    (hrec : (s.dmaCh chan.toNat).recWait = none) : Reaches (exec (.dmaStart src chan false) s) fun t =>
      t.answered src ST.ok ∧ (t.dmaCh chan.toNat).st =
        (if (s.dmaCh chan.toNat).qid = 0 ∧ (s.dmaCh chan.toNat).unbound = false then .active else .pacedOff) ∧
      (t.dmaCh chan.toNat).expseq = (s.dmaCh chan.toNat).seq0 ∧ (t.dmaCh chan.toNat).hops = 0 ∧
      (t.dmaCh chan.toNat).fetching = some (fld 47 0 (s.dmaCh chan.toNat).head,
        BitVec.ofNat 4 (fld 51 48 (s.dmaCh chan.toNat).head), s.now) := by
  refine reaches_command rfl ?_ ⟨State.ok_answered ((State.dmaStart_fr ..).mbsWf h) .., ?_⟩
  · rw [hserves, hst]
    rfl
  · rw [State.ok_dmaCh]
    exact State.dmaStart_dmaCh (hostChannel_lt hlen) hst hrec

theorem reaches_dmaStart_resume (hserves : s.chanServes chan.toNat = true) (hst : (s.dmaCh chan.toNat).st = .stopped)
    (hres : (s.dmaCh chan.toNat).resumable = true) (hdesc : (s.dmaCh chan.toNat).desc.isSome = true) :
    Reaches (exec (.dmaStart src chan true) s) fun t => t.answered src ST.ok ∧ (t.dmaCh chan.toNat).st =
        (if (s.dmaCh chan.toNat).qid = 0 ∧ (s.dmaCh chan.toNat).unbound = false then .active else .pacedOff) ∧
      (t.dmaCh chan.toNat).desc = (s.dmaCh chan.toNat).desc ∧ (t.dmaCh chan.toNat).off = (s.dmaCh chan.toNat).off := by
  refine reaches_command rfl ?_ ⟨State.ok_answered ((State.dmaResume_fr ..).mbsWf h) .., ?_⟩
  · unfold Dma.canResume
    rw [hserves, hst, hres]
    rfl
  · rw [State.ok_dmaCh]
    exact State.dmaResume_dmaCh (hostChannel_lt hlen) hst hres hdesc

theorem reaches_dmaStop_drain (hcan : (s.dmaCh chan.toNat).canDrain = true)
    (hburst : (s.dmaCh chan.toNat).burst.isSome = true) : Reaches (exec (.dmaStop src chan false) s) fun t =>
      t.waits src (.dmaStop src chan false) ∧ (t.dmaCh chan.toNat).st = .draining ∧
      (t.dmaCh chan.toNat).desc = (s.dmaCh chan.toNat).desc := by
  have hch := State.dmaDrain_dmaCh (hostChannel_lt hlen) hcan hburst
  refine reaches_command rfl (firstFail_cons hcan) ?_
  dsimp only
  rw [if_neg Bool.false_ne_true, hch, if_pos rfl, State.wait_dmaCh, hch]
  exact ⟨State.wait_waits ((State.dmaDrain_fr ..).mbsWf h) .., rfl, rfl⟩

theorem reaches_dmaStop_abort (hst : (s.dmaCh chan.toNat).st ≠ .idle) (hburst : (s.dmaCh chan.toNat).burst = none)
    (hdesc : (s.dmaCh chan.toNat).desc = none) (hrec : (s.dmaCh chan.toNat).recWait = none) :
    Reaches (exec (.dmaStop src chan true) s) fun t => t.answered src ST.ok ∧ (t.dmaCh chan.toNat).st = .stopped ∧
      (t.dmaCh chan.toNat).resumable = false ∧ (t.dmaCh chan.toNat).fetching = none := by
  have hch := State.dmaAbort_dmaCh (hostChannel_lt hlen) hst hburst hdesc hrec
  refine reaches_command rfl (firstFail_cons (bne_iff_ne.2 hst)) ?_
  dsimp only
  rw [if_pos rfl, hch, if_neg nofun, State.ok_dmaCh, hch]
  exact ⟨State.ok_answered ((State.dmaAbort_fr ..).mbsWf h) .., rfl, rfl, rfl⟩

theorem reaches_dmaRingAdvance {rp : BitVec 16} (hrec : (s.dmaCh chan.toNat).recWait = none) :
    Reaches (exec (.dmaRingAdvance src chan rp) s) fun t => t.answered src ST.ok ∧
      t.dmaCh chan.toNat = { s.dmaCh chan.toNat with crrp := rp.setWidth 64 } := by
  have hrp : rp.setWidth 64 &&& 0xFFFF#64 = rp.setWidth 64 := by
    apply BitVec.eq_of_toNat_eq
    rw [BitVec.toNat_and, BitVec.toNat_setWidth]
    exact Nat.and_two_pow_sub_one_of_lt_two_pow (n := 16) (by omega)
  refine reaches_of_next rfl ⟨State.ok_answered ((State.setCrrp_fr ..).mbsWf h) .., ?_⟩
  rw [State.ok_dmaCh, State.setCrrp_room hrec (hostChannel_lt hlen), hrp]
end

/-- Settles O23. -/
theorem memoryAndDmaCommands : Obligations.MemoryAndDmaCommands :=
  ⟨fun _ _ h => reaches_of_next rfl ⟨State.ok_answered h .., State.ok_mem .., State.ok_mc ..⟩,
    fun _ _ _ _ _ _ => reaches_memLandingRead,
    fun _ _ _ h hlen => ⟨fun _ _ _ _ => reaches_dmaConfig h hlen, reaches_dmaStart_start h hlen,
      reaches_dmaStart_resume h hlen, reaches_dmaStop_drain h hlen, reaches_dmaStop_abort h hlen,
      fun _ => reaches_dmaRingAdvance h hlen, reaches_of_next rfl ⟨State.ok_answered h .., State.ok_dma ..⟩⟩⟩

/-- Settles O24. -/
theorem firmwareDmaCommands : Obligations.FirmwareDmaCommands := by
  intro s chan hlen hlo hhi n c
  have hn : chan.toNat < s.dma.chans.length := by omega
  refine ⟨fun hst hrec => reaches_of_next rfl ?_, fun hst hres hdesc => reaches_of_next rfl ?_,
    fun hcan hburst => reaches_of_next rfl ?_, fun hst hburst hdesc hrec => reaches_of_next rfl ?_⟩
  all_goals rw [if_pos ⟨hlo, hhi⟩]
  · obtain ⟨hgo, -, -, hfetch⟩ := State.dmaStart_dmaCh hn hst hrec
    exact ⟨hgo, hfetch⟩
  · obtain ⟨hgo, hkept, -⟩ := State.dmaResume_dmaCh hn hst hres hdesc
    exact ⟨hgo, hkept⟩
  · rw [State.dmaDrain_dmaCh hn hcan hburst]
    exact ⟨rfl, rfl⟩
  · rw [State.dmaAbort_dmaCh hn hst hburst hdesc hrec]
    exact ⟨rfl, rfl⟩

/-! ### The check-value units (R389, R390) -/

section
variable {s : State} {src : Src} {unit : BitVec 5}

theorem cvuPre_holds {free : Bool} (hhost : unit.toNat < 16) (hin : s.rstate (nodeR 7 2 unit.toNat) = .inService)
    (hfree : free = true → (s.cvu unit.toNat).bound = none) : firstFail (cvuPre unit free s) = none := by
  unfold cvuPre
  rw [decide_eq_true hhost, hin]
  cases free with
  | false => rfl
  | true =>
    rw [hfree rfl]
    rfl

theorem reaches_cvuCompute {init : Bool} {buf : BufRef} (h : s.mbsWf) (hlen : s.dma.cvus.length = 32)
    (hhost : unit.toNat < 16) (hin : s.rstate (nodeR 7 2 unit.toNat) = .inService)
    (hfree : (s.cvu unit.toNat).bound = none) (hbuf : s.bufReads buf = true) :
    Reaches (exec (.cvuCompute src unit init buf) s) fun t => t.answered src ST.ok ∧
      (t.cvu unit.toNat).value = crcRun (if init then BitVec.allOnes 64 else (s.cvu unit.toNat).value)
        (s.mem.bytes buf.space buf.addr.toNat buf.len.toNat) ∧
      (t.cvu unit.toNat).count = (if init then 0 else (s.cvu unit.toNat).count) + BitVec.ofNat 48 buf.len.toNat := by
  refine reaches_command rfl ?_ ⟨State.ok_answered (by exact h) .., ?_⟩
  · rw [firstFail_cons hbuf]
    exact cvuPre_holds hhost hin fun _ => hfree
  · rw [State.ok_cvu, State.onCvu_cvu (by omega)]
    unfold Cvu.feed
    rw [Mem.bytes_length]
    cases init <;> exact ⟨rfl, rfl⟩

theorem reaches_cvuSave (h : s.mbsWf) (hhost : unit.toNat < 16) (hin : s.rstate (nodeR 7 2 unit.toNat) = .inService) :
    Reaches (exec (.cvuSave src unit) s) fun t => t.answered src ST.ok ∧ t.dma = s.dma :=
  reaches_command rfl (cvuPre_holds hhost hin nofun) ⟨State.ok_answered h .., State.ok_dma ..⟩

theorem reaches_cvuRestore {v : BitVec 64} {n : BitVec 48} (h : s.mbsWf) (hlen : s.dma.cvus.length = 32)
    (hhost : unit.toNat < 16) (hin : s.rstate (nodeR 7 2 unit.toNat) = .inService)
    (hfree : (s.cvu unit.toNat).bound = none) : Reaches (exec (.cvuRestore src unit v n) s) fun t =>
      t.answered src ST.ok ∧ t.cvu unit.toNat = { s.cvu unit.toNat with value := v, count := n } := by
  refine reaches_command rfl (cvuPre_holds hhost hin fun _ => hfree) ⟨State.ok_answered (by exact h) .., ?_⟩
  rw [State.ok_cvu, State.onCvu_cvu (by omega)]

theorem Cvu.data_eq (u : Cvu) (d : BitVec 64) : u.data d = if u.bound.isSome then { u with err := true } else { u with
    value := crcRun u.value (leBytes (u.nbm1.toNat + 1) d.toNat)
    count := u.count + BitVec.ofNat 48 (u.nbm1.toNat + 1) } := by
  unfold Cvu.data Cvu.write Cvu.feed
  simp only [leBytes_length]

theorem reaches_cvuDataFeed {d : BitVec 64} (hlen : s.dma.cvus.length = 32) :
    Reaches (exec (.cvuDataFeed unit d) s) fun t => t.cvu unit.toNat =
      if (s.cvu unit.toNat).bound.isSome then { s.cvu unit.toNat with err := true }
      else { s.cvu unit.toNat with
        value := crcRun (s.cvu unit.toNat).value (leBytes ((s.cvu unit.toNat).nbm1.toNat + 1) d.toNat)
        count := (s.cvu unit.toNat).count + BitVec.ofNat 48 ((s.cvu unit.toNat).nbm1.toNat + 1) } := by
  refine reaches_of_next rfl ?_
  rw [State.onCvu_cvu (by omega), Cvu.data_eq]

/-- INIT starts a unit again, bound or not (R390). -/
theorem Cvu.cmd_init (u : Cvu) (nb : BitVec 3) : u.cmd (BitVec.ofNat 64 (1 + 2 * nb.toNat)) =
    ⟨BitVec.allOnes 64, 0, nb, none, false⟩ := by
  have hall : ∀ nb : BitVec 3, (BitVec.ofNat 64 (1 + 2 * nb.toNat)).getLsbD 0 = true ∧
      BitVec.ofNat 3 (fld 3 1 (BitVec.ofNat 64 (1 + 2 * nb.toNat))) = nb := by decide
  obtain ⟨hbit, hfld⟩ := hall nb
  unfold Cvu.cmd
  dsimp only
  rw [hbit, hfld, if_pos rfl]
  rfl

theorem reaches_cvuCmdInit {nb : BitVec 3} (hlen : s.dma.cvus.length = 32) :
    Reaches (exec (.cvuCmdInit unit nb) s) fun t =>
      t.cvu unit.toNat = ⟨BitVec.allOnes 64, 0, nb, none, false⟩ := by
  refine reaches_of_next rfl ?_
  rw [State.onCvu_cvu (by omega), Cvu.cmd_init]
end

/-- Settles O25. -/
theorem checkValueUnits : Obligations.CheckValueUnits :=
  ⟨fun _ _ _ _ _ => reaches_cvuCompute, fun _ _ _ => reaches_cvuSave, fun _ _ _ _ _ => reaches_cvuRestore,
    fun _ _ _ => reaches_cvuDataFeed, fun _ _ _ => reaches_cvuCmdInit⟩

end Sys2Proof.Machine
end

section
/-!
PROOF. The memory controller (chapter 7): a stack that has been thawed stays so under what firmware does next, the
channel that serves an address, and obligation O37.
-/

namespace Sys2Proof.Machine

/-- What each step of a fold keeps holds at its end. -/
theorem foldl_keeps {α β : Type} {P : β → Prop} {f : β → α → β} (hf : ∀ t x, P t → P (f t x)) (l : List α) {s : β}
    (h : P s) : P (l.foldl f s) := by
  induction l generalizing s with
  | nil => exact h
  | cons x l ih => exact ih (hf s x h)

/-! ### The controller of a stack under an update -/

section
variable (m : MemCtl) (k : Stack) (f : StackCtl → StackCtl)

@[simp] theorem MemCtl.stack_onStack : (m.onStack k f).stack k = f (m.stack k) := by
  cases k <;> rfl

@[simp] theorem MemCtl.stack_onStack_other : (m.onStack k f).stack (otherStack k) = m.stack (otherStack k) := by
  cases k <;> rfl
end

theorem StackCtl.chan_onChan {c : StackCtl} {n : Nat} {f : Chan → Chan} (hn : n < c.chans.length) :
    (c.onChan n f).chan n = f (c.chan n) := by
  simp [StackCtl.onChan, StackCtl.chan, List.getD_eq_getElem?_getD, hn]

theorem StackCtl.chan_withOrder (c : StackCtl) (order : List Nat) (n : Nat) :
    ({ c with order := order } : StackCtl).chan n = c.chan n := rfl

/-- What a frame leaves of a stack's controller: all but the writes that are held. -/
theorem Fr.stack_fixed {ps : List Part} {s t : State} (h : Fr ps s t) (k : Stack) (hp : .mc ∉ ps := by decide) :
    (t.mc.stack k).fixed = (s.mc.stack k).fixed := by
  obtain ⟨ha, hb, -⟩ := (h.1 .mc).resolve_left hp
  cases k
  · exact ha
  · exact hb

theorem Fr.stack_frz {ps : List Part} {s t : State} (h : Fr ps s t) (k : Stack) (hp : .mc ∉ ps := by decide) :
    (t.mc.stack k).frz = (s.mc.stack k).frz := by
  have hfixed := congrArg StackCtl.frz (h.stack_fixed k hp)
  exact hfixed

theorem StackCtl.fixed_chan {c d : StackCtl} (h : c.fixed = d.fixed) (n : Nat) : c.chan n = d.chan n := by
  have hchans := congrArg StackCtl.chans h
  change c.chans = d.chans at hchans
  rw [StackCtl.chan, hchans, StackCtl.chan]

/-! ### A stack without a freeze holds no write (Table 7-3) -/

/-- The stack is not frozen and holds nothing back. -/
structure State.Flowing (s : State) (k : Stack) : Prop where
  thawed : (s.mc.stack k).frozen = false
  held : (s.mc.stack k).heldWrites = []

section
variable {s : State} {k : Stack}

theorem State.flowing_of_mc {t : State} (h : s.Flowing k) (hmc : t.mc = s.mc) : t.Flowing k :=
  ⟨by rw [hmc, h.thawed], by rw [hmc, h.held]⟩

theorem State.write_flowing (h : s.Flowing k) (sp : BitVec 4) (a : Nat) (bs : List Byte) :
    (s.write sp a bs).Flowing k := by
  unfold State.write
  split
  · split
    · exact h
    · split
      case isTrue hfrozen =>
        have hk : otherStack (stackOf a) = k := by
          generalize stackOf a = j at hfrozen ⊢
          cases j <;> cases k
          · exact absurd (h.1.symm.trans hfrozen) Bool.false_ne_true
          · rfl
          · rfl
          · exact absurd (h.1.symm.trans hfrozen) Bool.false_ne_true
        have hstack (f : StackCtl → StackCtl) :
            (s.onMc fun m => m.onStack (stackOf a) f).mc.stack k = s.mc.stack k := by
          rw [State.onMc_mc, ← hk, MemCtl.stack_onStack_other]
        exact ⟨by rw [hstack, h.thawed], by rw [hstack, h.held]⟩
      case isFalse => exact State.flowing_of_mc h rfl
  · exact State.flowing_of_mc h rfl

theorem State.msix_mc (s : State) (p : Port) (v : Nat) : (s.msix p v).mc = s.mc := by
  unfold State.msix
  split <;> rfl

theorem State.onSeg_mc (s : State) (id : StripeId) (n : Nat) (f : Seg → Seg) : (s.onSeg id n f).mc = s.mc := rfl

theorem State.putEvent_flowing (h : s.Flowing k) (p : Port) (e : Event) : (s.putEvent p e).Flowing k :=
  State.flowing_of_mc (State.write_flowing h ..) (State.msix_mc ..)

theorem State.drainEvents_flowing (n : Nat) (p : Port) (h : s.Flowing k) : (State.drainEvents n p s).Flowing k := by
  induction n generalizing s with
  | zero => exact h
  | succ n ih =>
    unfold State.drainEvents
    dsimp only
    split
    · exact h
    · split
      · exact ih (State.flowing_of_mc (State.putEvent_flowing h ..) rfl)
      · split
        · exact h
        · exact ih (State.flowing_of_mc (State.putEvent_flowing h ..) rfl)

theorem State.raiseAt_flowing (h : s.Flowing k) (p : Port) (e : Event) : (s.raiseAt p e).Flowing k := by
  unfold State.raiseAt
  dsimp only
  apply State.drainEvents_flowing
  split <;> exact State.flowing_of_mc h rfl

theorem State.raise_flowing (h : s.Flowing k) (e : Event) : (s.raise e).Flowing k := by
  unfold State.raise State.raiseVia
  exact foldl_keeps (P := (State.Flowing · k)) (fun t p ht => State.raiseAt_flowing ht ..) _ (State.flowing_of_mc h rfl)

theorem State.fillSlot_flowing (h : s.Flowing k) (slot : Nat) (rows : List (List Nat)) :
    (s.fillSlot slot rows).Flowing k := by
  unfold State.fillSlot
  exact foldl_keeps (P := (State.Flowing · k)) (fun t r ht => State.write_flowing (State.write_flowing ht ..) ..) _ h

theorem State.prepDone_flowing (h : s.Flowing k) (id : StripeId) (n : Nat) : (s.prepDone id n).Flowing k := by
  unfold State.prepDone
  split
  · split
    · exact h
    · exact State.flowing_of_mc (State.fillSlot_flowing h ..) ((State.onSeg_mc ..).trans (State.onLand_mc ..))
  · exact h

theorem State.prepResume_flowing (h : s.Flowing k) : s.prepResume.Flowing k := by
  unfold State.prepResume
  refine foldl_keeps (P := (State.Flowing · k)) (fun t y ht => ?_) _ h
  split
  · split
    · exact State.prepDone_flowing ht ..
    · exact ht
  · exact ht

theorem State.resumeWrites_mc (cs : List Host.Cell) : (s.resumeWrites cs).mc = s.mc := by
  induction cs generalizing s with
  | nil => rfl
  | cons c cs ih =>
    rw [State.resumeWrites, ih]
    rfl

/-- The status register of a stack that thaws (Table 7-5). -/
def StackCtl.thawedFrz (c : StackCtl) (auto : Bool) : BitVec 64 :=
  (c.frz &&& ~~~3#64) ||| BitVec.ofNat 64 (2 * b2n auto)

theorem StackCtl.thawedFrz_frozen (c : StackCtl) (auto : Bool) : (c.thawedFrz auto).getLsbD 0 = false := by
  cases auto <;> simp [StackCtl.thawedFrz, b2n]

theorem StackCtl.thawedFrz_auto (c : StackCtl) : bitAt 1 (c.thawedFrz true) = true := by
  simp [StackCtl.thawedFrz, b2n, bitAt]

/-- A frozen stack thaws: it holds nothing back, and its register tells how (R194). -/
theorem State.thaw_flowing (h : (s.mc.stack k).frozen = true) (auto : Bool) :
    (s.thaw k auto).Flowing k ∧ ((s.thaw k auto).mc.stack k).frz = (s.mc.stack k).thawedFrz auto := by
  unfold State.thaw
  dsimp only
  rw [if_neg (by rw [h]; decide)]
  generalize hu : (s.onMc fun m => m.onStack k fun c => { c with
    frz := (c.frz &&& ~~~3#64) ||| BitVec.ofNat 64 (2 * b2n auto)
    heldWrites := [] }) = u
  have hstack : u.mc.stack k = { s.mc.stack k with frz := (s.mc.stack k).thawedFrz auto, heldWrites := [] } := by
    rw [← hu, State.onMc_mc, MemCtl.stack_onStack]
    rfl
  have hflow : u.Flowing k := ⟨by rw [hstack]; exact StackCtl.thawedFrz_frozen .., by rw [hstack]⟩
  refine ⟨State.prepResume_flowing (State.raise_flowing (State.flowing_of_mc hflow (State.resumeWrites_mc _)) _), ?_⟩
  have hresumed := (State.resumeWrites_fr u (s.mc.stack k).heldWrites).stack_frz k
  exact ((State.prepResume_fr _).stack_frz k).trans (((State.raise_fr ..).stack_frz k).trans
    (hresumed.trans (congrArg StackCtl.frz hstack)))
end

/-! ### The channel that serves an address (R183, R196) -/

section
variable {c : StackCtl} {n : Nat} {f : Chan → Chan}

theorem StackCtl.unmoved_onChan (hf : ∀ h, (f h).unmoved = h.unmoved) (m : Nat) :
    ((c.onChan n f).chan m).unmoved = (c.chan m).unmoved := by
  simp only [StackCtl.onChan, StackCtl.chan, List.getD_eq_getElem?_getD, List.getElem?_modify]
  cases c.chans[m]? with
  | none => rfl
  | some h =>
    show (if n = m then f h else h).unmoved = h.unmoved
    split
    · exact hf h
    · rfl

/-- Where a unit is backed turns on what the channels have still to move. -/
theorem StackCtl.backing_onChan (hf : ∀ h, (f h).unmoved = h.unmoved) (l : List Nat) (u : Nat) :
    (c.onChan n f).backing l u = c.backing l u := by
  induction l with
  | nil => rfl
  | cons x older ih => rw [StackCtl.backing, StackCtl.backing, StackCtl.unmoved_onChan hf, ih]

theorem StackCtl.remapped_onChan (hf : ∀ h, (f h).unmoved = h.unmoved) (k : Stack) (a : Nat) :
    (c.onChan n f).remapped k a = c.remapped k a := by
  unfold StackCtl.remapped
  exact congrArg (· != unitOf k a) (StackCtl.backing_onChan hf c.order _)
end

/-! ### The capture of a freeze (Tables 7-5 and 7-6) -/

/-- The status register of a stack that freezes. -/
def StackCtl.frozenFrz (c : StackCtl) (ch : Nat) : BitVec 64 := (c.frz &&& 2#64) ||| BitVec.ofNat 64 (1 + 4 + ch * 2 ^ 16)

theorem StackCtl.frozenFrz_frozen (c : StackCtl) (ch : Nat) : (c.frozenFrz ch).getLsbD 0 = true := by
  have hbit : (BitVec.ofNat 64 (1 + 4 + ch * 2 ^ 16)).getLsbD 0 = true := by
    rw [BitVec.getLsbD_ofNat]
    simp [Nat.testBit_zero]
    omega
  rw [StackCtl.frozenFrz, BitVec.getLsbD_or, hbit, Bool.or_true]

theorem StackCtl.frozenFrz_channel (c : StackCtl) {ch : Nat} (h : ch < 16) : fld 19 16 (c.frozenFrz ch) = ch := by
  have hlow : (c.frz &&& 2#64).toNat / 2 ^ 16 = 0 := by
    have : (c.frz &&& 2#64).toNat ≤ 2 := by
      rw [BitVec.toNat_and]
      exact Nat.and_le_right
    omega
  have hhigh : (BitVec.ofNat 64 (1 + 4 + ch * 2 ^ 16)).toNat / 2 ^ 16 = ch := by
    rw [BitVec.toNat_ofNat]
    omega
  rw [fld, StackCtl.frozenFrz, BitVec.toNat_or, Nat.or_div_two_pow, hlow, hhigh, Nat.zero_or]
  exact Nat.mod_eq_of_lt h

theorem captureAddr_toNat (addr : BitVec 48) (b : Bool) :
    (BitVec.ofNat 64 (addr.toNat + b2n b * 2 ^ 48)).toNat = addr.toNat + if b then 2 ^ 48 else 0 := by
  have haddr := addr.isLt
  rw [BitVec.toNat_ofNat]
  cases b
  · simp only [b2n, Bool.false_eq_true, if_false]
    omega
  · simp only [b2n, if_true]
    omega

/-! ### The clauses of O37 -/

section
variable {s : State} {st : Stack}

/-- A sample that finds the case hotter programs its band at once, and re-centres the timing (R186, R195). -/
theorem State.idleBand_hotter (h : s.mc.stA.band < bandOf s.tB) :
    let t := s.idleBand
    t.mc.stA.band = bandOf s.tB ∧ t.mc.stB.band = bandOf s.tB ∧ t.mc.coldSince = none ∧ t.mc.stA.centredAt = s.now ∧
      t.mc.stB.centredAt = s.now := by
  unfold State.idleBand
  dsimp only
  rw [if_pos h]
  split <;> exact ⟨rfl, rfl, rfl, rfl, rfl⟩

/-- A sample above the latched band takes an armed stripe from ARMED (R187). -/
theorem State.bandStop_armed {x : Stripe} (hx : s.stripe? x.id = some x) (hst : x.st = .armed) :
    ((s.bandStop x).stripe? x.id).map (·.st) = some .checked := by
  unfold State.bandStop
  rw [hst]
  exact State.disarm_st (((State.raiseSt_fr ..).stripe_eq x.id).trans hx)

/-- An uncorrectable error is counted for 24 h (R197). -/
def StackCtl.uncorrAt (now : Nat) (h : Chan) : Chan :=
  { h with uncorr := (h.uncorr.filter fun t => decide (now - t < cycH 24)) ++ [now] }

theorem outputLane_memChannel (k : Stack) (ch : BitVec 4) : outputLane (nodeR (3 + stackNum k) 0 ch.toNat) = false := by
  revert ch
  cases k <;> decide

/-- The retirement of a channel that is in service starts, with fewer than four before it (R198). -/
theorem State.startRetire_chan {n : Nat} (hn : n < (s.mc.stack st).chans.length)
    (hret : ((s.mc.stack st).chan n).retired = false) (hring : ((s.mc.stack st).chan n).retiring = false)
    (hord : (s.mc.stack st).order.length < 4) :
    ((s.startRetire st n).mc.stack st).chan n = { (s.mc.stack st).chan n with
      retiring := true, suspect := false, unmoved := s.unitsOn st (n :: (s.mc.stack st).order) } := by
  unfold State.startRetire
  dsimp only
  rw [if_neg (by rw [hret, hring]; decide), if_neg (Nat.not_le.2 hord),
    StackCtl.fixed_chan ((State.fault_fr ..).stack_fixed st), State.onMc_mc, MemCtl.stack_onStack]
  exact (StackCtl.chan_withOrder ..).trans (StackCtl.chan_onChan hn)

theorem exec_memUncorrectable_thawed {addr : BitVec 48} {loc : BitVec 31} {src syn : BitVec 32}
    (ha : s.mc.stA.frozen = false) (hb : s.mc.stB.frozen = false) (hin : ofStack st addr.toNat = true) :
    let ch := (s.mc.stack st).channelOf st addr.toNat
    Reaches (exec (.memUncorrectable st addr loc src syn) s) fun t =>
      (t.mc.stack st).frozen = true ∧ (t.mc.stack st).frozeAt = s.now ∧
      (t.mc.stack st).capTime = BitVec.ofNat 64 s.now ∧ (t.mc.stack st).capLoc = capLocOf loc ∧
      (t.mc.stack st).capSrc = BitVec.ofNat 64 (src.toNat + syn.toNat * 2 ^ 32) ∧
      (t.mc.stack (otherStack st)).frozen = false ∧
      (t.mc.stack st).capAddr.toNat =
        addr.toNat + (if (s.mc.stack st).remapped st addr.toNat then 2 ^ 48 else 0) ∧
      fld 19 16 (t.mc.stack st).frz = ch := by
  intro ch
  refine reaches_of_next rfl ?_
  rw [if_neg (by rw [hin]; decide), if_neg (by rw [ha]; decide), if_neg (by rw [hb]; decide)]
  generalize hu : State.onMc _ _ = u
  have hother : u.mc.stack (otherStack st) = s.mc.stack (otherStack st) := by
    rw [← hu, State.onMc_mc, MemCtl.stack_onStack_other, State.onMc_mc, MemCtl.stack_onStack_other]
  have hstack : ∃ c : StackCtl, c.remapped st addr.toNat = (s.mc.stack st).remapped st addr.toNat ∧
      u.mc.stack st = c.freeze ch addr.toNat (c.remapped st addr.toNat) loc src.toNat syn.toNat s.now := by
    refine ⟨_, ?_, by rw [← hu, State.onMc_mc, MemCtl.stack_onStack]⟩
    rw [State.onMc_mc, MemCtl.stack_onStack]
    exact StackCtl.remapped_onChan (f := StackCtl.uncorrAt s.now) (fun _ => rfl) ..
  obtain ⟨d, hremap, hfreeze⟩ := hstack
  have hch : ch < 16 := Nat.mod_lt _ (by decide)
  have hfault := State.fault_fr u none (memEvent ST.memUncorrectable st ch addr.toNat 0 0)
  clear hu
  generalize u.fault none _ = t at hfault ⊢
  have hfix := hfault.stack_fixed st
  rw [hfreeze] at hfix
  have hfrz := congrArg StackCtl.frz hfix
  refine ⟨?_, congrArg StackCtl.frozeAt hfix, congrArg StackCtl.capTime hfix, congrArg StackCtl.capLoc hfix,
    congrArg StackCtl.capSrc hfix, ?_, ?_, ?_⟩
  · exact (congrArg (·.getLsbD 0) hfrz).trans (d.frozenFrz_frozen ch)
  · have hother' := congrArg (·.getLsbD 0) (hfault.stack_frz (otherStack st))
    rw [hother] at hother'
    refine hother'.trans ?_
    cases st
    · exact hb
    · exact ha
  · exact (congrArg (fun c : StackCtl => c.capAddr.toNat) hfix).trans
      ((captureAddr_toNat ..).trans (by rw [hremap]))
  · exact (congrArg (fld 19 16) hfrz).trans (d.frozenFrz_channel hch)

end

/-- Settles O37: the re-centring at once is the model's choice (log entry 59), and so are the refresh instants after a
pause (log entry 58). -/
theorem memoryController : Obligations.MemoryController := by
  unfold Obligations.MemoryController
  intro s st c
  refine ⟨fun hdue hfailed hpll => ?refresh, fun hidle hdue hhot => ?hotter, fun x hx hhx hst hdue hlim => ?armed,
    fun addr loc src syn ha hb hin => exec_memUncorrectable_thawed ha hb hin,
    fun addr loc src syn hin ha => ?overflow, fun hfrozen hlate => ?auto,
    fun ch tr hlen hret hring hsus htrig hord => ?trigger, fun u bad x hx hfind hreads hrfc hfree hbad => ?unit,
    fun ch hlen hring hreads hempty hmoved => ?retired⟩
  case refresh =>
    refine reaches_of_next rfl ?_
    rw [if_pos ⟨hdue, by rw [hfailed]; rfl, by rw [hpll]; rfl⟩]
    have hstack : (s.mc.onStack st fun c => c.refresh (s.mc.refreshDue st) s.now).stack st =
        c.refresh (s.mc.refreshDue st) s.now := MemCtl.stack_onStack ..
    refine ⟨hstack, (congrArg StackCtl.refreshes hstack).trans rfl, fun hnear => ?_,
      MemCtl.stack_onStack_other .., List.mem_append_right _ (List.mem_singleton_self _)⟩
    exact (congrArg StackCtl.lastRefresh hstack).trans (if_neg (Nat.not_le.2 hnear))
  case hotter =>
    refine reaches_of_next rfl ?_
    rw [hdue, hidle]
    exact State.idleBand_hotter (s := s.onMc _) hhot
  case armed =>
    refine reaches_of_next rfl ?_
    rw [hdue, hx]
    dsimp only
    rw [if_neg (by decide), if_pos hlim]
    exact State.bandStop_armed hhx hst
  case overflow =>
    refine reaches_of_next rfl ?_
    rw [hin, ha]
    cases st <;> exact ⟨rfl, rfl, rfl⟩
  case auto =>
    refine reaches_of_next rfl ?_
    rw [if_pos hlate]
    obtain ⟨⟨hthawed, hheld⟩, hfrz⟩ := State.thaw_flowing hfrozen true
    exact ⟨hthawed, hheld, hfrz ▸ StackCtl.thawedFrz_auto _⟩
  case trigger =>
    have hn : ch.toNat < c.chans.length := hlen.symm ▸ ch.isLt
    have htraining : tr ≠ .training := by
      rintro rfl
      exact Bool.false_ne_true htrig
    refine reaches_of_next rfl ?_
    have hfree : ¬ ((c.chan ch.toNat).retired || (c.chan ch.toNat).retiring || (c.chan ch.toNat).suspect ||
        !s.triggered st ch.toNat tr) = true := by
      rw [hret, hring, hsus, htrig]
      decide
    rw [if_neg (fun h : _ ∧ _ => htraining h.1), if_neg hfree]
    cases hman : s.repair.manual with
    | true =>
      rw [if_pos rfl, if_pos rfl]
      refine ⟨?_, State.rstate_setRState _ (outputLane_memChannel st ch) _⟩
      rw [StackCtl.fixed_chan ((State.setRState_fr ..).stack_fixed st), State.onMc_mc, MemCtl.stack_onStack,
        StackCtl.chan_onChan hn]
    | false =>
      have hchan := State.startRetire_chan hn hret hring hord
      rw [if_neg Bool.false_ne_true, if_neg Bool.false_ne_true]
      rw [hchan]
      refine ⟨rfl, ?_⟩
      dsimp only [c]
  case unit =>
    refine reaches_of_next rfl ?_
    rw [hfind]
    dsimp only
    rw [if_neg (by rw [hreads, hrfc, hfree]; rcases hbad with h | h | h <;> simp [h])]
    rw [State.onMc_mc, MemCtl.stack_onStack]
    refine ⟨StackCtl.chan_onChan hx, ?_, rfl⟩
    rintro w rfl hmir rfl
    rw [hmir]
    rfl
  case retired =>
    refine reaches_of_next rfl ?_
    rw [if_pos ⟨hring, hreads⟩]
    dsimp only
    have hmoves := (State.moveRecords_fr s st).stack_fixed st
    have hn : ch.toNat < ((s.moveRecords st).mc.stack st).chans.length := by
      have hchans := congrArg (fun c : StackCtl => c.chans.length) hmoves
      exact (hchans.trans hlen).symm ▸ ch.isLt
    rw [if_pos (by rw [Bool.and_eq_true]; exact ⟨hempty, hmoved⟩)]
    generalize s.moveRecords st = u at hn ⊢
    generalize hw : State.setRState _ _ _ = w
    have hchan : (w.mc.stack st).chan ch.toNat =
        { (u.mc.stack st).chan ch.toNat with retiring := false, retired := true, unmoved := [] } := by
      rw [← hw, StackCtl.fixed_chan ((State.setRState_fr ..).stack_fixed st), State.onMc_mc, MemCtl.stack_onStack,
        StackCtl.chan_onChan hn]
    have hraise := State.raise_fr w (memEvent ST.memChannelRetired st ch.toNat 0 0 0)
    rw [StackCtl.fixed_chan (hraise.stack_fixed st), hchan, hraise.rstate_eq, ← hw]
    exact ⟨rfl, rfl, State.rstate_setRState _ (outputLane_memChannel st ch) _⟩

end Sys2Proof.Machine
end

section
/-!
PROOF. The registers written directly, and obligation O28.
-/

namespace Sys2Proof.Machine

/-! ### A doorbell that brings SYS.IDENT (R413, R415) -/

theorem packW_two_ofNat (p q i j a b : Nat) :
    packW [(p, i, a), (q, j, b)] = BitVec.ofNat 128 (0 + a % 2 ^ i * 2 ^ p + b % 2 ^ j * 2 ^ q) := rfl

/-- Word 0 of the mailbox is that of SYS.IDENT with the next ALIVE. -/
def Mailbox.BringsIdent (m : Mailbox) : Prop := m.word 0 = packW [(0, 16, 0x0101), (48, 8, m.nextAlive.toNat)]

section
variable {m : Mailbox} (h : m.BringsIdent)
include h

theorem Mailbox.BringsIdent.word_toNat : (m.word 0).toNat = 0x0101 + m.nextAlive.toNat * 2 ^ 48 := by
  have hlt := m.nextAlive.isLt
  rw [h, packW_two_ofNat, BitVec.toNat_ofNat]
  omega

theorem Mailbox.BringsIdent.opcode : fld 15 0 (m.word 0) = 0x0101 := by
  rw [fld, h.word_toNat]
  omega

theorem Mailbox.BringsIdent.len_eq : m.len = 0 := by
  have hlt := m.nextAlive.isLt
  rw [Mailbox.len, fld, h.word_toNat]
  omega

theorem Mailbox.BringsIdent.alive_eq : m.alive = m.nextAlive := by
  have hlt := m.nextAlive.isLt
  apply BitVec.eq_of_toNat_eq
  rw [Mailbox.alive_toNat, fld, h.word_toNat]
  omega

theorem Mailbox.BringsIdent.judged : m.AliveJudged where
  fits := h.len_eq ▸ Nat.zero_le _
  intact := by
    have hlt := m.nextAlive.isLt
    rw [Mailbox.bodyCheck, if_pos h.len_eq, fld, h.word_toNat]
    omega
  ordered := by
    rw [h.opcode]
    decide

theorem Mailbox.BringsIdent.command_eq (src : Src) :
    m.command? src = some { len := 0, run := execSysIdent src } := by
  rw [Mailbox.command?, h.opcode]
  rfl

/-- The command passes the checks of Table 17-4. -/
theorem Mailbox.BringsIdent.checked (s : State) (src : Src) :
    s.checked (m.command? src) (m.word 0) = .ok { len := 0, run := execSysIdent src } := by
  have hlt := m.nextAlive.isLt
  have hlen : fld 47 32 (m.word 0) = 0 := h.len_eq
  have habort : bitAt 56 (m.word 0) = false := by
    rw [bitAt, BitVec.getLsbD, h.word_toNat, Nat.testBit_eq_decide_div_mod_eq]
    simp only [decide_eq_false_iff_not]
    omega
  have hflags : fld 63 57 (m.word 0) = 0 := by
    rw [fld, h.word_toNat]
    omega
  rw [h.command_eq]
  unfold State.checked
  simp only [hlen, habort, hflags]
  rfl
end

theorem State.bellBegun_mbsWf {s : State} (src : Src) (h : s.mbsWf) : (s.bellBegun src).mbsWf := by
  unfold State.bellBegun
  exact (State.onRef_fr (hf := fun _ hr => hr) ..).mbsWf (State.bellNewest_mbsWf src h)

/-- A doorbell that brings SYS.IDENT is journalled and answered. -/
theorem State.acceptBell_ident {s : State} {src : Src} (hwf : s.mbsWf) (howned : (s.mb src.mb).owner = some src.port)
    (h : (s.mb src.mb).BringsIdent) : ∃ body, s.acceptBell src = (s.bellBegun src).ok src body := by
  obtain ⟨body, hrun⟩ : ∃ body, execSysIdent src (s.bellBegun src) = .next ((s.bellBegun src).ok src body) :=
    ⟨_, by rw [execSysIdent]⟩
  refine ⟨body, (State.acceptBell_of_next rfl h.judged h.alive_eq).trans
    (State.perform_bellTaken_ok rfl (h.checked (s.bellNewest src) src) hrun ?_)⟩
  have hbegun := State.bellBegun_mbsWf src hwf
  have hown : ((s.bellBegun src).mb src.mb).owner = some src.port :=
    (congrArg Mailbox.owner (State.bellNewest_own src hwf)).trans howned
  rw [(State.ok_own hbegun ..).1, hown]
  rfl

/-! ### EVQ.RP (R486) -/

/-- A queue with nothing staged and nothing lost has nothing to write. -/
theorem State.drainEvents_of_empty {s : State} {p : Port} (hst : (s.port p).evq.staged = [])
    (hlost : (s.port p).evq.lost = 0) (n : Nat) : State.drainEvents n p s = s := by
  cases n with
  | zero => rfl
  | succ n =>
    unfold State.drainEvents
    dsimp only
    split
    · rfl
    · rw [if_neg (Classical.not_not.2 hlost), hst]

/-! ### A register of a firmware channel (Table 15-7) -/

theorem State.devWrite_pace (s : State) {n : Nat} (hlow : 32 ≤ n) (hn : n < 48) (hrest : (s.dmaCh n).st.rest = true)
    (v : BitVec 64) : s.devWrite (0xC0000 + 64 * n + 8) v = s.onCh n fun c => { c with pace := v } := by
  have hpage : (0xC0000 + 64 * n + 8) / 4096 = 0xC0 := by omega
  have hchan : (0xC0000 + 64 * n + 8) % 4096 / 64 = n := by omega
  have hreg : (0xC0000 + 64 * n + 8) % 4096 % 64 / 8 = 1 := by omega
  unfold State.devWrite
  dsimp only
  rw [hpage, hchan, hreg]
  unfold State.dmaRegWrite
  rw [if_neg (Nat.not_lt.2 hlow)]
  exact if_pos hrest

/-- Settles O28: doorbells, EVQ.RP, TSNAP.CTR, THAW, and DMA.PACE (15, Registers). -/
theorem directRegisters : Obligations.DirectRegisters := by
  unfold Obligations.DirectRegisters
  refine ⟨fun s p mb v hwf hv hlink hready howner hbusy => ?overrun,
    fun s p mb v hwf hv hlink hready hfw howner hidle hword => ?ident,
    fun s p v hsize hstaged hlost hroom => ?evq, fun s p => ?tsnap, fun s st v hv hfrozen => ?thaw,
    fun s chan v hlen hlow hhigh hrest => ?pace⟩
  case overrun =>
    refine reaches_of_next rfl ?_
    rw [List.foldl_nil, hv, hlink]
    have hring : s.ring ⟨p, mb⟩ = s.onMb mb fun m => { m with overrun := satInc 16 m.overrun } := by
      unfold State.ring
      simp only [hready, howner, hbusy, Bool.not_true, Bool.false_eq_true, if_false, ne_eq, not_true_eq_false, if_true]
    rw [Bool.and_self, if_pos rfl, hring]
    exact ⟨State.mb_onMb hwf .., fun n hn => State.mb_onMb_other _ hn⟩
  case ident =>
    obtain ⟨body, hbell⟩ := State.acceptBell_ident (src := ⟨p, mb⟩) hwf howner hword
    have hbegun := State.bellBegun_mbsWf ⟨p, mb⟩ hwf
    refine reaches_mbDoorbell ⟨hwf, hlink, hready, hfw, howner, hidle⟩ hv hbell ⟨State.ok_answered hbegun .., ?_, ?_⟩
    · have halive : ((s.bellBegun ⟨p, mb⟩).mb mb).lastAlive = some (s.mb mb).alive :=
        State.bellBegun_lastAlive ⟨p, mb⟩ hwf
      have hnext : (s.mb mb).alive = (s.mb mb).nextAlive := Mailbox.BringsIdent.alive_eq hword
      exact (State.ok_own hbegun ..).2.1.trans (halive.trans (congrArg some hnext))
    · rw [State.ok_ref]
      rfl
  case evq =>
    refine reaches_of_next rfl ?_
    rw [if_neg hsize, if_neg hsize, if_pos hroom, State.drainEvents_of_empty, State.port_onPort]
    · rw [State.port_onPort]
      exact hstaged
    · rw [State.port_onPort]
      exact hlost
  case tsnap =>
    refine reaches_of_next rfl ?_
    rw [if_pos rfl, State.port_onPort]
    exact ⟨rfl, rfl, rfl⟩
  case thaw =>
    refine reaches_of_next rfl ?_
    rw [State.thawWrite, hv, hfrozen, Bool.and_self, if_pos rfl]
    have hlogged : (s.logEntry ((s.mc.stack st).capture st)).mc = s.mc := by
      unfold State.logEntry
      split <;> rfl
    have hflow := (State.thaw_flowing (by rw [hlogged, hfrozen]) false).1
    exact ⟨hflow.thawed, hflow.held⟩
  case pace =>
    have haddr : (BitVec.ofNat 32 (0xC0000 + 64 * chan.toNat + 8)).toNat = 0xC0000 + 64 * chan.toNat + 8 := by
      rw [BitVec.toNat_ofNat]
      omega
    refine reaches_of_next rfl ?_
    rw [haddr, State.devWrite_pace s hlow hhigh hrest, State.onCh_dmaCh (hlen.symm ▸ hhigh)]

end Sys2Proof.Machine
end

section
/-!
PROOF. Network time (chapter 16): what the messages, the timeouts and the faults leave of a domain, and obligation O52.
-/

namespace Sys2Proof.Machine

/-! ### A domain under an update of one domain -/

theorem domain_zero_or_one (d : BitVec 1) : d = 0 ∨ d = 1 := by
  revert d
  decide

theorem TimeBase.dom_onDom_other (b : TimeBase) {d e : BitVec 1} (h : e ≠ d) (f : Domain → Domain) :
    (b.onDom d f).dom e = b.dom e := by
  rcases domain_zero_or_one d with rfl | rfl <;> rcases domain_zero_or_one e with rfl | rfl
  · exact absurd rfl h
  · rfl
  · rfl
  · exact absurd rfl h

/-- A domain that goes to another state than LOCKED (Table 16-3). -/
def Domain.to (x : Domain) (st : DomSt) : Domain := { x with st := st, inTol := 0, outTol := 0, goodSince := none }

section
variable {s : State} {d e : BitVec 1} {st : DomSt}

theorem State.domTo_dom (hst : st ≠ .locked) : (s.domTo d st).time.dom d = (s.time.dom d).to st := by
  unfold State.domTo
  rw [State.onTime_time, TimeBase.dom_onDom_self, if_neg hst]
  rfl

theorem State.domTo_other (h : e ≠ d) : (s.domTo d st).time.dom e = s.time.dom e := by
  unfold State.domTo
  rw [State.onTime_time, TimeBase.dom_onDom_other _ h]

theorem State.domLost_dom (h : (s.time.dom d).st.following = true) :
    (s.domLost d).time.dom d = (s.time.dom d).to .holdover := by
  unfold State.domLost
  rw [if_pos h, State.fault_time, State.domTo_dom (by decide)]

theorem State.domLost_other (h : e ≠ d) : (s.domLost d).time.dom e = s.time.dom e := by
  unfold State.domLost
  split
  · rw [State.fault_time, State.domTo_other h]
  · rfl

/-- A lost port puts each domain that follows it in HOLDOVER (R399). -/
theorem State.netDown_dom (h : (s.time.dom d).st.following = true) :
    ((s.netDown (s.time.dom d).cfg.port).time.dom d).st = .holdover := by
  unfold State.netDown
  generalize hu : State.onTime s _ = u
  have hdom (e : BitVec 1) : u.time.dom e = s.time.dom e := by
    rw [← hu, State.onTime_time]
    split <;> rfl
  dsimp only
  rcases domain_zero_or_one d with rfl | rfl
  · have hA : u.time.domA = s.time.domA := hdom 0
    rw [if_pos (show u.time.domA.cfg.port = (s.time.dom 0).cfg.port from congrArg (·.cfg.port) hA)]
    have hlost : ((u.domLost 0).time.dom 0).st = .holdover := by
      rw [State.domLost_dom (by rw [hdom]; exact h)]
      rfl
    split
    · rw [State.domLost_other (by decide)]
      exact hlost
    · exact hlost
  · generalize hv : (if u.time.domA.cfg.port = (s.time.dom 1).cfg.port then u.domLost 0 else u) = v
    have hB : v.time.dom 1 = s.time.dom 1 := by
      rw [← hv]
      split
      · rw [State.domLost_other (by decide), hdom]
      · exact hdom 1
    rw [if_pos (show v.time.domB.cfg.port = (s.time.dom 1).cfg.port from congrArg (·.cfg.port) hB), State.domLost_dom (by rw [hB]; exact h)]
    rfl

theorem State.initialStep_sel (s : State) : s.initialStep.time.sel = s.time.sel := by
  unfold State.initialStep
  split
  · rw [State.raise_time]
    rfl
  · rfl

theorem State.selectDomain_sel (s : State) (y : BitVec 1) : (s.selectDomain y).time.sel = y := by
  unfold State.selectDomain
  split
  case isTrue h => exact h.symm
  case isFalse =>
    dsimp only
    rw [State.raise_time]
    rfl

theorem State.reselect_dom (s : State) (d : BitVec 1) : s.reselect.time.dom d = s.time.dom d :=
  s.reselect_reselected.dom_eq d

/-! ### Messages for a domain (R397, R400) -/

/-- An Announce gives a domain that is unlocked its master, and leaves the other domain as it was. -/
theorem State.announce_unlocked {m : PtpMsg} (h : (s.time.dom d).st = .unlocked) :
    let x := (s.announce d m).time.dom d
    x.master = some m.master ∧ x.lastAnnounce = s.now ∧ x.clockClass = m.clockClass ∧ x.st = .acquiring ∧
      ∀ e, e ≠ d → (s.announce d m).time.dom e = s.time.dom e := by
  unfold State.announce
  dsimp only
  rw [h, if_neg (by simp)]
  generalize hu : State.onTime s _ = u
  have hself : u.time.dom d = { s.time.dom d with
      master := some m.master, lastAnnounce := s.now, annInterval := signedOf 8 m.logInterval.toNat
      clockClass := m.clockClass } := by
    rw [← hu, State.onTime_time, TimeBase.dom_onDom_self]
  have hother (e) (he : e ≠ d) : u.time.dom e = s.time.dom e := by
    rw [← hu, State.onTime_time, TimeBase.dom_onDom_other _ he]
  have hacq : (u.domTo d .acquiring).time.dom d = (u.time.dom d).to .acquiring := State.domTo_dom (by decide)
  simp only [State.reselect_dom]
  split
  · simp only [State.raise_time, hacq, hself]
    exact ⟨rfl, rfl, rfl, rfl, fun e he => (State.domTo_other he).trans (hother e he)⟩
  · rw [if_pos (by decide), hacq, hself]
    exact ⟨rfl, rfl, rfl, rfl, fun e he => (State.domTo_other he).trans (hother e he)⟩
end

/-- What a message that domain A alone hears leaves, where it leaves domain B as it was. -/
theorem reaches_ptpForA {s : State} {p : NetPort} {m : PtpMsg} {P : State → Prop} (hkind : m.kind ≠ .other)
    (hA : s.time.domA.hears p m = true) (hB : s.time.domB.hears p m = false)
    (h : ∀ u : State, u.time.domA = s.time.domA → u.time.domB = s.time.domB → u.now = s.now →
      (u.ptpFor 0 m).time.domB = s.time.domB ∧ P (u.ptpFor 0 m)) :
    Reaches (exec (.ptpMessageReceive p m) s) P := by
  rw [exec_ptpMessageReceive]
  unfold execPtpMessageReceive
  dsimp only
  generalize hu : State.onTime s _ = u
  have hsame : u.time.domA = s.time.domA ∧ u.time.domB = s.time.domB ∧ u.now = s.now := by
    rw [← hu]
    cases p <;> exact ⟨rfl, rfl, rfl⟩
  obtain ⟨hdomA, hdomB, hnow⟩ := hsame
  obtain ⟨hkept, hP⟩ := h u hdomA hdomB hnow
  have hfor : (if u.time.domA.hears p m = true then u.ptpFor 0 m else u) = u.ptpFor 0 m :=
    if_pos (by rw [hdomA]; exact hA)
  rw [if_neg hkind, hfor, if_neg (by rw [hkept, hB]; decide)]
  exact reaches_of_next rfl hP

/-- Settles O52: each clause by the lemma about the transition of its domain. -/
theorem networkTime : Obligations.NetworkTime := by
  unfold Obligations.NetworkTime
  intro s
  refine ⟨fun p m hkind => ?other, fun p m hA hB => ⟨fun hkind hst => ?announce, fun hkind htwo hmaster hfol => ?sync,
    fun t3 hkind hmaster hfol hmech ht3 => ?delayResp⟩, fun d => ⟨fun hfol hdue hup => ?delayReq,
    fun hfol hlate => ?timeout, fun hfol => ?port, ?fault⟩, fun hsafe => ?counter,
    fun t0 hmode hrev hsel hgood hripe => ?revert⟩
  case other =>
    refine reaches_of_next (exec_ptpMessageReceive.trans (if_pos hkind)) ?_
    cases p <;> exact ⟨rfl, rfl, rfl⟩
  case announce =>
    refine reaches_ptpForA (by rw [hkind]; decide) hA hB fun u huA huB hnow => ?_
    unfold State.ptpFor
    rw [hkind]
    dsimp only
    generalize hv : State.onTime u _ = v
    have hvA : v.time.dom 0 = { s.time.domA with rsFec := m.rsFec } := by
      rw [← hv, ← huA]
      rfl
    have hvB : v.time.dom 1 = s.time.domB := by
      rw [← hv, ← huB]
      rfl
    have hvnow : v.now = s.now := by
      rw [← hv, ← hnow]
      rfl
    obtain ⟨hmaster, hlast, hclass, hacq, hother⟩ := State.announce_unlocked (s := v) (d := 0) (m := m)
      (by rw [hvA]; exact hst)
    have hkept : (v.announce 0 m).time.domB = s.time.domB := (hother 1 (by decide)).trans hvB
    exact ⟨hkept, hmaster, hlast.trans hvnow, hclass, hacq, hkept⟩
  case sync =>
    refine reaches_ptpForA (by rw [hkind]; decide) hA hB fun u huA huB hnow => ?_
    have hdom : u.time.dom 0 = s.time.domA := huA
    unfold State.ptpFor
    rw [hkind]
    dsimp only
    rw [hdom, hmaster, hfol, if_neg (by simp), if_pos htwo, ← hnow]
    exact ⟨huB, rfl⟩
  case delayResp =>
    refine reaches_ptpForA (by rw [hkind]; decide) hA hB fun u huA huB hnow => ?_
    have hdom : u.time.dom 0 = s.time.domA := huA
    unfold State.ptpFor
    rw [hkind]
    dsimp only
    rw [hdom, hmaster, hfol, hmech, ht3, BEq.rfl]
    refine ⟨huB, rfl, ?_⟩
    rw [← congrArg Domain.t1t2 huA]
    rfl
  case delayReq =>
    have hcond : ((s.time.dom d).st.following &&
        (match (s.time.dom d).lastReq with
          | some t => decide (t + pow2s (s.time.dom d).reqInterval ≤ s.now)
          | none => true) &&
        (match (s.time.dom d).cfg.port with
          | .netA => s.time.netA
          | .netB => s.time.netB)) = true := by
      simp only [Bool.and_eq_true]
      refine ⟨⟨hfol, ?_⟩, ?_⟩
      · split
        case h_1 t0 ht0 => exact decide_eq_true (hdue t0 ht0)
        case h_2 => rfl
      · rcases hup with ⟨hport, hnet⟩ | ⟨hport, hnet⟩
        · rw [hport]
          exact hnet
        · rw [hport]
          exact hnet
    refine reaches_of_next (exec_delayReqSend.trans (if_pos hcond)) ?_
    rw [State.emit_time, State.onTime_time, TimeBase.dom_onDom_self]
    exact ⟨rfl, rfl, rfl⟩
  case timeout =>
    refine reaches_of_next rfl ?_
    rw [if_pos hlate, State.reselect_dom, State.domLost_dom hfol]
    exact ⟨rfl, rfl, rfl, rfl⟩
  case port =>
    refine reaches_of_next rfl ?_
    rw [State.reselect_dom]
    exact State.netDown_dom hfol
  case fault =>
    refine reaches_of_next rfl ?_
    dsimp only
    rw [State.reselect_dom, State.fault_time, State.domUnlock_dom]
    exact ⟨rfl, rfl, rfl, rfl⟩
  case counter =>
    refine reaches_of_next rfl ?_
    dsimp only
    exact ⟨State.safeEnter_safe _ 6, State.safeEnter_permit ((State.fault_fr s none _).safePermit hsafe) 6⟩
  case revert =>
    refine reaches_of_next rfl ?_
    rw [hgood]
    have hcond : (s.time.mode == 2 && s.time.revert && s.time.sel != s.time.pref &&
        decide (t0 + cycS 60 ≤ s.time.ctr)) = true := by
      simp [hmode, hrev, hsel]
      exact hripe
    rw [if_pos hcond, State.initialStep_sel, State.selectDomain_sel]

end Sys2Proof.Machine
end

section
/-!
PROOF. Stage position and the pacer (chapters 10 and 11): what is sent stays sent, what the marks and the faults of an
axis leave of the ports and the axes, and obligations O39, O40 and O41.
-/

namespace Sys2Proof.Machine

/-! ### What has been sent stays sent -/

/-- The outputs of a state are the first of those of a later one. -/
def State.sentIn (s t : State) : Prop := s.out <+: t.out

section
variable {s t : State}

theorem State.sentIn_refl (s : State) : s.sentIn s := List.prefix_refl _

theorem State.sentIn.trans {u : State} (h : s.sentIn t) (k : t.sentIn u) : s.sentIn u := List.IsPrefix.trans h k

theorem State.sentIn.mem (h : s.sentIn t) {o : Output} (ho : o ∈ s.out) : o ∈ t.out := h.subset ho

theorem State.sentIn_of_out (h : t.out = s.out) : s.sentIn t := ⟨[], by rw [List.append_nil, h]⟩

theorem Fr.sentIn {ps : List Part} (h : Fr ps s t) (hp : .out ∉ ps := by decide) : s.sentIn t := by
  exact State.sentIn_of_out (h.out_eq hp)

theorem State.emit_sentIn (s : State) (o : Output) : s.sentIn (s.emit o) := List.prefix_append ..

theorem State.msix_sentIn (s : State) (p : Port) (v : Nat) : s.sentIn (s.msix p v) := by
  unfold State.msix
  split
  · exact List.prefix_refl _
  · exact State.emit_sentIn ..

theorem State.putEvent_sentIn (s : State) (p : Port) (e : Event) : s.sentIn (s.putEvent p e) := by
  unfold State.putEvent
  refine State.sentIn.trans ?_ (State.msix_sentIn ..)
  exact State.sentIn_of_out ((State.onPort_out ..).trans (State.write_fr ..).out_eq)

theorem State.drainEvents_sentIn (n : Nat) (p : Port) (s : State) : s.sentIn (State.drainEvents n p s) := by
  induction n generalizing s with
  | zero => exact State.sentIn_refl _
  | succ n ih =>
    unfold State.drainEvents
    dsimp only
    split
    · exact State.sentIn_refl _
    · split
      · exact (State.putEvent_sentIn ..).trans ((State.sentIn_of_out (State.onPort_out ..)).trans (ih _))
      · split
        · exact State.sentIn_refl _
        · exact (State.putEvent_sentIn ..).trans ((State.sentIn_of_out (State.onPort_out ..)).trans (ih _))

theorem State.raiseAt_sentIn (s : State) (p : Port) (e : Event) : s.sentIn (s.raiseAt p e) := by
  unfold State.raiseAt
  dsimp only
  split
  · exact (State.sentIn_of_out (State.onPort_out ..)).trans (State.drainEvents_sentIn ..)
  · exact (State.sentIn_of_out (State.onPort_out ..)).trans (State.drainEvents_sentIn ..)

theorem State.foldl_sentIn {α : Type} {f : State → α → State} (hf : ∀ (t : State) x, t.sentIn (f t x)) (l : List α) (s : State) :
    s.sentIn (l.foldl f s) :=
  foldl_keeps (P := s.sentIn) (fun t x ht => ht.trans (hf t x)) l (State.sentIn_refl s)

theorem State.raiseVia_sentIn (s : State) (via : Option Src) (job : Option (BitVec 16)) (e : Event) :
    s.sentIn (s.raiseVia via job e) :=
  State.foldl_sentIn (fun t p => State.raiseAt_sentIn t p _) (s.routes via job) s.draw

theorem State.traceRec_sentIn (s : State) (n : Nat) (w : Word) : s.sentIn (s.traceRec n w) := by
  unfold State.traceRec
  dsimp only
  split
  · exact State.sentIn_refl _
  · split
    · exact State.sentIn.trans (State.write_fr ..).sentIn (State.sentIn_of_out (State.onTrace_out ..))
    · split
      · exact State.sentIn_of_out (State.onTrace_out ..)
      · exact State.sentIn.trans (State.sentIn_of_out (State.onTrace_out ..)) (State.raiseVia_sentIn ..)
end

/-! ### A cause in a run (Table 11-8) -/

/-- A cause that the target does not leave out is kept in the run; one of the first eleven ranks halts it. -/
theorem State.stopCause_run {s : State} {r : Run} {x : Stripe} {rank : Nat} (hrun : s.run? = some (r, x))
    (hrank : (stageRank rank && x.target == 2) = false) (ev : Option Event) (b : Option Nat) :
    ∃ q, (s.stopCause rank ev b).play.run = some q ∧ ⟨rank, ev, b⟩ ∈ q.causes ∧ (rank ≤ 11 → q.halt.isSome = true) := by
  unfold State.stopCause
  rw [hrun]
  dsimp only
  rw [hrank, if_neg Bool.false_ne_true]
  refine ⟨_, rfl, mem_addCause .., fun hle => ?_⟩
  dsimp only
  rw [if_pos hle]
  split <;> rfl

/-! ### The pacer (R290 to R293) -/

section
variable {s : State}

theorem reaches_paceFrameSend (hdue : s.pacer.sentAt.all (fun t => decide (t + 25000 ≤ s.now)) = true) :
    let policy := s.pacer.policyNext.getD s.pacer.policy
    let c := s.ceiling policy
    let u := s.onPacer fun p => { p with
      policy := policy, policyNext := none, ceil := BitVec.ofNat 32 c.1, bind := BitVec.ofNat 4 c.2 }
    Reaches (exec .paceFrameSend s) fun t => t.pacer.policy = policy ∧ t.pacer.ceil = BitVec.ofNat 32 c.1 ∧
      t.pacer.bind = BitVec.ofNat 4 c.2 ∧ t.pacer.seq = s.pacer.seq + 1 ∧ t.pacer.sentAt = some s.now ∧
      .pace (paceFrame u.pacePayload) ∈ t.out := by
  intro policy c u
  have hexec : exec .paceFrameSend s = .next (((u.emit (.pace (paceFrame u.pacePayload))).traceRec 3 u.pacePayload).onPacer
      fun p => { p with seq := p.seq + 1, frames := p.frames + 1, sentAt := some s.now }) := by
    rw [exec_paceFrameSend, execPaceFrameSend]
    refine if_neg ?_
    revert hdue
    cases s.pacer.sentAt with
    | none => exact fun _ => Bool.false_ne_true
    | some t => exact fun hdue => by simpa using hdue
  refine reaches_of_next hexec ?_
  have hpacer := State.traceRec_pacer (s := u.emit (.pace (paceFrame u.pacePayload))) (src := 3) (w := u.pacePayload)
  rw [State.onPacer_pacer, hpacer]
  exact ⟨rfl, rfl, rfl, rfl, rfl,
    (State.traceRec_sentIn ..).mem (List.mem_append_right _ (List.mem_singleton_self _))⟩

theorem State.mcReport_pacer (s : State) (w : Word) : (s.mcReport w).pacer = { s.pacer with
    mcState := BitVec.ofNat 2 (fld 13 12 w), mcCmdv := BitVec.ofNat 32 (fld 47 16 w)
    mcId := BitVec.ofNat 16 (fld 63 48 w) } := by
  unfold State.mcReport
  dsimp only
  rw [apply_ite State.pacer, (State.stopCause_fr ..).pacer_eq, ite_self]
  rfl

theorem reaches_paceReply_bad {w : Word} {crc : BitVec 16} (h : s.pacer.goodReply w crc = false) :
    Reaches (exec (.paceReply w crc) s) fun t => t.pacer = { s.pacer with mcGood := 0 } := by
  have hpacer := (State.traceRec_fr s 4 w).pacer_eq
  rw [exec_paceReply, execPaceReply, hpacer, h]
  exact reaches_of_next rfl (congrArg (fun p : Pacer => { p with mcGood := 0 }) hpacer)

theorem reaches_paceReply_good {w : Word} {crc : BitVec 16} (h : s.pacer.goodReply w crc = true) :
    Reaches (exec (.paceReply w crc) s) fun t =>
      t.pacer.mcGood = s.pacer.mcGood + 1 ∧ t.pacer.mcLast = s.now ∧
      t.pacer.mcPresent = (s.pacer.mcPresent || decide (16 ≤ s.pacer.mcGood + 1)) ∧
      (s.pacer.mcPresent = true → t.pacer.mcState = BitVec.ofNat 2 (fld 13 12 w) ∧
        t.pacer.mcCmdv = BitVec.ofNat 32 (fld 47 16 w) ∧ t.pacer.mcId = BitVec.ofNat 16 (fld 63 48 w)) := by
  have hpacer := (State.traceRec_fr s 4 w).pacer_eq
  have hnow := (State.traceRec_fr s 4 w).now_eq
  rw [exec_paceReply, execPaceReply]
  generalize s.traceRec 4 w = u at hpacer hnow
  dsimp only
  rw [← hpacer] at h ⊢
  rw [← hnow, h]
  cases hpresent : u.pacer.mcPresent with
  | true =>
    refine reaches_of_next rfl ?_
    rw [State.mcReport_pacer]
    exact ⟨rfl, rfl, hpresent, fun _ => ⟨rfl, rfl, rfl⟩⟩
  | false =>
    by_cases hmany : 16 ≤ u.pacer.mcGood + 1
    · refine reaches_of_next (if_pos hmany) ?_
      rw [State.raise_pacer]
      exact ⟨rfl, rfl, (decide_eq_true hmany).symm, fun h => absurd h Bool.false_ne_true⟩
    · refine reaches_of_next (if_neg hmany) ?_
      exact ⟨rfl, rfl, hpresent.trans (decide_eq_false hmany).symm, fun h => absurd h Bool.false_ne_true⟩

theorem reaches_mcAbsentTimeout (hpresent : s.pacer.mcPresent = true) (hlate : s.pacer.mcLast + 200000 ≤ s.now) :
    Reaches (exec .mcAbsentTimeout s) fun t => t.pacer = { s.pacer with mcPresent := false, mcGood := 0 } ∧
      ∀ r x, s.run? = some (r, x) → x.target ≠ 2 → ∃ q c, t.play.run = some q ∧ c ∈ q.causes ∧ c.rank = 17 := by
  have hexec : exec .mcAbsentTimeout s = .next ((s.onPacer fun p => { p with mcPresent := false, mcGood := 0 }).stopCause
      17 (some (stageEvent ST.stageMcDeparted 0 s.stage.axScan.x 0 s.now)) none) := by
    rw [exec_mcAbsentTimeout, execMcAbsentTimeout, hpresent]
    exact if_neg (by simpa using hlate)
  refine reaches_of_next hexec ⟨(State.stopCause_fr ..).pacer_eq, fun r x hrun htarget => ?_⟩
  have hkept : (s.onPacer fun p => { p with mcPresent := false, mcGood := 0 }).run? = some (r, x) := hrun
  obtain ⟨q, hq, hcause, -⟩ := State.stopCause_run (rank := 17) hkept (by rw [beq_false_of_ne htarget, Bool.and_false])
    (some (stageEvent ST.stageMcDeparted 0 s.stage.axScan.x 0 s.now)) none
  exact ⟨q, _, hq, hcause, rfl⟩
end

/-- Settles O39: a lemma for each of the frame, the two kinds of reply and the timeout. -/
theorem pacerEvents : Obligations.PacerEvents := fun _ =>
  ⟨reaches_paceFrameSend, fun _ _ => reaches_paceReply_bad, fun _ _ => reaches_paceReply_good, reaches_mcAbsentTimeout⟩

end Sys2Proof.Machine
end

section
/-!
PROOF. The position ports and the axes (chapter 10), and obligations O40 and O41.
-/

namespace Sys2Proof.Machine

/-! ### What judging the marks leaves of the ports and the axes (R271, R273) -/

/-- A stage after marks were judged: the axes and the tick as before, the ports but for their marks. -/
structure Stage.Watched (g h : Stage) : Prop where
  axis : ∀ ax, h.axis ax = g.axis ax
  tick : h.tick = g.tick
  port : ∀ n, ∃ ms, h.port n = { g.port n with marks := ms }

theorem Stage.Watched.refl (g : Stage) : g.Watched g := ⟨fun _ => rfl, rfl, fun n => ⟨(g.port n).marks, rfl⟩⟩

theorem Stage.Watched.trans {g h k : Stage} (a : g.Watched h) (b : h.Watched k) : g.Watched k := by
  refine ⟨fun ax => (b.axis ax).trans (a.axis ax), b.tick.trans a.tick, fun n => ?_⟩
  obtain ⟨_, ha⟩ := a.port n
  obtain ⟨ms, hb⟩ := b.port n
  exact ⟨ms, by rw [hb, ha]⟩

theorem Stage.Watched.of_eq {g h : Stage} (e : h = g) : g.Watched h := e ▸ .refl g

theorem Stage.onPos_port_absent {g : Stage} {n : Nat} (hn : ¬ n < g.ports.length) (f : PosPort → PosPort) :
    (g.onPos n f).port n = g.port n := by
  simp [Stage.onPos, Stage.port, List.getD_eq_getElem?_getD, hn]

theorem Stage.onPos_marks_watched (g : Stage) (n : Nat) (ms : List MarkS) :
    g.Watched (g.onPos n fun p => { p with marks := ms }) := by
  refine ⟨fun ax => by cases ax <;> rfl, rfl, fun m => ?_⟩
  by_cases hm : m = n
  · subst hm
    by_cases hlen : m < g.ports.length
    · exact ⟨ms, Stage.onPos_port_self hlen _⟩
    · exact ⟨(g.port m).marks, Stage.onPos_port_absent hlen _⟩
  · exact ⟨(g.port m).marks, Stage.onPos_port_ne hm _⟩

section
variable {s : State}

theorem State.integrityFault_watched (s : State) (e : Event) : s.stage.Watched (s.integrityFault e).stage := by
  unfold State.integrityFault
  rw [(State.stopCause_fr ..).stage_eq]
  exact ⟨fun ax => by cases ax <;> rfl, rfl, fun n => ⟨(s.stage.port n).marks, rfl⟩⟩

theorem State.axisFault_watched (s : State) (e : Event) : s.stage.Watched (s.axisFault e).stage := by
  unfold State.axisFault
  split
  · exact State.integrityFault_watched ..
  · exact .of_eq (State.fault_fr ..).stage_eq

theorem State.foldl_watched {α : Type} {f : State → α → State} (hf : ∀ (t : State) x, t.stage.Watched (f t x).stage)
    (l : List α) (s : State) : s.stage.Watched (l.foldl f s).stage :=
  foldl_keeps (P := fun t => s.stage.Watched t.stage) (fun t x ht => ht.trans (hf t x)) l (.refl _)

theorem State.watchMarks_watched (s : State) (n : Nat) : s.stage.Watched (s.watchMarks n).stage := by
  unfold State.watchMarks
  dsimp only
  split
  · refine Stage.Watched.trans ?_ (State.foldl_watched (fun t z => ?_) _ _)
    · exact Stage.onPos_marks_watched ..
    split
    · exact .refl _
    · split
      · exact State.integrityFault_watched ..
      · exact .of_eq (State.raise_fr ..).stage_eq
  · exact .refl _

theorem State.watchAxis_watched (s : State) (ax : Axis) : s.stage.Watched (s.watchAxis ax).stage := by
  unfold State.watchAxis
  refine State.foldl_watched (fun t n => ?_) _ _
  split
  · exact State.watchMarks_watched ..
  · exact .refl _

theorem State.fuseFaults_watched (s : State) (ax : Axis) (dis gap lost : Bool) :
    s.stage.Watched (s.fuseFaults ax dis gap lost).stage := by
  have ha (u : State) (b : Bool) (e : Event) : u.stage.Watched (if b = true then u.axisFault e else u).stage := by
    split
    · exact State.axisFault_watched ..
    · exact .refl _
  have hi (u : State) (b : Bool) (e : Event) : u.stage.Watched (if b = true then u.integrityFault e else u).stage := by
    split
    · exact State.integrityFault_watched ..
    · exact .refl _
  unfold State.fuseFaults
  exact ((hi ..).trans (ha ..)).trans (ha ..)
end

/-! ### Fusion (R264) -/

theorem Stage.axis_onAxis_self (g : Stage) (ax : Axis) (f : AxisS → AxisS) :
    (g.onAxis ax f).axis ax = f (g.axis ax) := by
  cases ax <;> rfl

theorem AxisS.sample_tk (a : AxisS) (c : AxisRec) (treq tick x : Nat) (filled degraded : Bool) :
    (a.sample c treq tick x filled degraded).tk = a.tk := by
  simp only [AxisS.sample, apply_ite AxisS.tk, ite_self]

/-- What a fusion gives an axis is of this tick. -/
theorem Stage.fuse_tk (g : Stage) (ax : Axis) : (g.fuse ax).1.tk = some g.tick := by
  unfold Stage.fuse
  cases g.roleSample (firstRole ax) <;> cases g.roleSample (secondRole ax) <;>
    simp only [apply_ite Prod.fst, apply_ite AxisS.tk, AxisS.sample_tk, AxisS.empty, ite_self]

theorem State.newSample_stage (s : State) (ax : Axis) : (s.newSample ax).stage = s.stage := by
  cases ax
  · exact ((State.rowClock_fr 8192 true s.evaluateRun).stage_eq).trans (State.evaluateRun_fr s).stage_eq
  · rfl

theorem State.axisFusion_axis (s : State) (ax : Axis) : (s.axisFusion ax).stage.axis ax = (s.stage.fuse ax).1 := by
  unfold State.axisFusion
  dsimp only
  rw [(State.traceRec_fr ..).stage_eq, State.newSample_stage]
  refine ((State.watchAxis_watched _ ax).axis ax).trans (((State.fuseFaults_watched ..).axis ax).trans ?_)
  rw [apply_ite State.stage, (State.endPair_fr _ .stage).stage_eq, ite_self]
  exact Stage.axis_onAxis_self ..

theorem reaches_axisFusion {s : State} {ax : Axis} (htreq : s.stage.tracker.treq ≠ 0)
    (htk : (s.stage.axis ax).tk ≠ some s.stage.tick) (hended : s.stage.framesEnded ax = true) :
    Reaches (exec (.axisFusion ax) s) fun t =>
      t.stage.axis ax = (s.stage.fuse ax).1 ∧ (t.stage.axis ax).tk = some s.stage.tick := by
  refine reaches_of_next (exec_axisFusion.trans (if_neg ?_)) ⟨State.axisFusion_axis .., ?_⟩
  · rw [hended]
    exact fun h => h.elim htreq fun h => h.elim htk Bool.false_ne_true
  · rw [State.axisFusion_axis, Stage.fuse_tk]

/-! ### The emulation outputs (R279) -/

/-- An output after a step of the clock: one count toward its target where the spacing has passed. -/
def Emu.stepped (e : Emu) (now : Nat) : Emu :=
  let go := decide (e.todo ≠ 0) && decide (e.lastStep + e.gap ≤ now)
  { e with
    m := if go then e.m + e.todo.sign else e.m
    lastStep := if go then now else e.lastStep
    zPulse := e.zPulse.filter fun t => decide (now < t + 100) }

theorem Emu.stepped_m (e : Emu) (now : Nat) :
    (e.stepped now).m = if e.todo ≠ 0 ∧ e.lastStep + e.gap ≤ now then e.m + e.todo.sign else e.m := by
  show (if _ then _ else _) = _
  simp only [Bool.and_eq_true, decide_eq_true_eq]

theorem reaches_emuStep {s : State} {k : BitVec 1} {e : Emu} (he : s.stage.emus[k.toNat]? = some e)
    (hon : e.enabled = true) : Reaches (exec (.emuStep k) s) fun t => ∃ e1, t.stage.emus[k.toNat]? = some e1 ∧
      e1.m = (if e.todo ≠ 0 ∧ e.lastStep + e.gap ≤ s.now then e.m + e.todo.sign else e.m) ∧
      t.out = s.out ++ [.emu k.toNat (quadA e1.m) (quadB e1.m) (e1.zLevel s.now)] := by
  have hget : s.stage.emus.getD k.toNat Emu.reset = e := by
    rw [List.getD_eq_getElem?_getD, he, Option.getD_some]
  have hlt : k.toNat < s.stage.emus.length := (List.getElem?_eq_some_iff.1 he).1
  have hexec : exec (.emuStep k) s = .next ((s.onStage fun g => { g with
      emus := g.emus.set k.toNat (e.stepped s.now) }).emit (.emu k.toNat (quadA (e.stepped s.now).m)
        (quadB (e.stepped s.now).m) ((e.stepped s.now).zLevel s.now))) := by
    rw [exec_emuStep, execEmuStep, hget]
    exact if_neg (by rw [hon]; decide)
  exact reaches_of_next hexec ⟨e.stepped s.now, List.getElem?_set_self hlt, e.stepped_m s.now, rfl⟩

/-! ### The permit input (R434) -/

/-- PERMIT_OUT only falls, and PERMIT_IN stays. -/
structure Referee.PermitFalls (r q : Referee) : Prop where
  input  : q.permitIn = r.permitIn
  output : r.permitOut = false → q.permitOut = false

theorem Referee.PermitFalls.of_eq {r q : Referee} (h : q = r) : r.PermitFalls q := ⟨by rw [h], fun hr => by rw [h, hr]⟩

theorem Referee.PermitFalls.trans {r q p : Referee} (a : r.PermitFalls q) (b : q.PermitFalls p) : r.PermitFalls p :=
  ⟨b.input.trans a.input, fun h => b.output (a.output h)⟩

section
variable {s : State}

theorem State.permitCheck_falls (s : State) : s.ref.PermitFalls s.permitCheck.ref := by
  unfold State.permitCheck
  split
  · exact ⟨rfl, fun _ => rfl⟩
  · exact .of_eq rfl

/-- Without PERMIT_IN there is no PERMIT_OUT. -/
theorem State.permitCheck_out (h : s.ref.permitIn = false) : s.permitCheck.ref.permitOut = false := by
  unfold State.permitCheck State.permitHolds
  rw [h, Bool.false_and, Bool.false_and, Bool.not_false, Bool.and_true]
  cases hout : s.ref.permitOut
  · exact hout
  · rfl

theorem State.endPair_falls (s : State) (c : PairEnd) : s.ref.PermitFalls (s.endPair c).ref := by
  unfold State.endPair State.closePair
  split
  · exact .of_eq rfl
  case h_2 g _ =>
    dsimp only
    generalize hu : (if c.status = ST.calAborted then _ else _ : State) = u
    have hraised : u.ref = s.ref := by
      rw [← hu]
      simp only [apply_ite State.ref, State.raiseVia_ref, ite_self]
    rw [State.respond_ref, State.unwait_ref]
    refine Referee.PermitFalls.trans (.of_eq ?_) (State.permitCheck_falls _)
    exact ((State.plateCommit_fr _).ref_eq).trans hraised

theorem reaches_permitInChange {level : Bool} : Reaches (exec (.permitInChange level) s) fun t =>
    t.ref.permitIn = level ∧ (level = false → t.ref.permitOut = false) ∧
      (level = false → ∀ r x, s.run? = some (r, x) → x.target = 0 →
        ∃ q c, t.play.run = some q ∧ c ∈ q.causes ∧ c.rank = 4 ∧ q.halt.isSome = true) := by
  generalize hu : (s.onRef fun r => { r with permitIn := level }).permitCheck = u
  have hin : u.ref.permitIn = level := by
    rw [← hu, (State.permitCheck_falls _).input]
    rfl
  have hrun : u.run? = s.run? := by
    rw [← hu, (State.permitCheck_fr _).run_eq]
    rfl
  cases level with
  | true =>
    refine reaches_of_next (exec_permitInChange.trans rfl) ?_
    rw [hu]
    exact ⟨hin, fun h => absurd h.symm Bool.false_ne_true, fun h => absurd h.symm Bool.false_ne_true⟩
  | false =>
    have hout : u.ref.permitOut = false := hu ▸ State.permitCheck_out rfl
    rw [exec_permitInChange, execPermitInChange, hu]
    rw [if_neg Bool.false_ne_true]
    have hfalls := State.endPair_falls u .abort
    cases hr : s.run? with
    | none => exact reaches_of_next rfl ⟨hfalls.input.trans hin, fun _ => hfalls.output hout, fun _ r x h => nomatch h⟩
    | some p =>
      obtain ⟨r, x⟩ := p
      by_cases htarget : x.target = 0
      · have hstop := (State.stopCause_fr u 4 (some (stripeEvent ST.stripePermitLost 0 none)) none).ref_eq
        refine reaches_of_next (congrArg _ (if_pos (beq_iff_eq.2 htarget))) ?_
        rw [hstop]
        refine ⟨hin, fun _ => hout, fun _ r' x' _ _ => ?_⟩
        obtain ⟨q, hq, hcause, hhalt⟩ := State.stopCause_run (rank := 4) (hrun.trans hr) (by rw [htarget]; rfl)
          (some (stripeEvent ST.stripePermitLost 0 none)) none
        exact ⟨q, _, hq, hcause, rfl, hhalt (by decide)⟩
      · refine reaches_of_next (congrArg _ (if_neg fun h => htarget (beq_iff_eq.1 h))) ?_
        refine ⟨hfalls.input.trans hin, fun _ => hfalls.output hout, fun _ r' x' h hx => ?_⟩
        obtain ⟨-, rfl⟩ := Prod.mk.inj (Option.some.inj h)
        exact absurd hx htarget
end

/-- Settles O41: a lemma for each of the fusion, the emulation outputs and the permit input. -/
theorem stageAxes : Obligations.StageAxes :=
  ⟨fun _ _ => reaches_axisFusion, fun _ _ _ => reaches_emuStep, fun _ _ => reaches_permitInChange⟩

end Sys2Proof.Machine
end

section
/-!
PROOF. The position ports (chapter 10): the tick, a frame, the identity, the marks and the switches, and obligation O40.
-/

namespace Sys2Proof.Machine

section
variable {s : State}

/-! ### The tick (R255, R257) -/

theorem State.tickEmus_stage (s : State) : ∃ es, s.tickEmus.stage = { s.stage with emus := es } := by
  unfold State.tickEmus
  refine foldl_keeps (P := fun t : State => ∃ es, t.stage = { s.stage with emus := es }) ?_ _ ⟨_, rfl⟩
  rintro t p ⟨es, ht⟩
  dsimp only
  rw [apply_ite State.stage, State.raise_stage, ite_self, State.onStage_stage, ht]
  exact ⟨_, rfl⟩

theorem Stage.applyCfg_emus (g : Stage) (es : List Emu) :
    ({ g with emus := es } : Stage).applyCfg = { g.applyCfg with emus := es } := by
  rcases g with ⟨_, _, _, _, _, _, cfg, _, _, _, _⟩
  cases cfg <;> rfl

theorem Stage.applyCfg_tick (g : Stage) : g.applyCfg.tick = g.tick ∧ g.applyCfg.nextCfg = none := by
  unfold Stage.applyCfg
  cases h : g.nextCfg with
  | none => exact ⟨rfl, h⟩
  | some c => exact ⟨rfl, rfl⟩

/-- A port at the start of a tick. -/
def PosPort.atTick (p : PosPort) : PosPort := { p.takeMarks with ended := false, cur := none }

theorem PosPort.atTick_cfg (p : PosPort) : p.atTick.cfg = p.cfg ∧ p.atTick.wantsId = p.wantsId := by
  unfold PosPort.atTick PosPort.takeMarks
  split <;> exact ⟨rfl, rfl⟩

theorem reaches_encoderTick (hreq : s.stage.tracker.treq ≠ 0 ∨ s.stage.nextCfg.isSome = true)
    (hdue : s.stage.tracker.treq ≠ 0 → s.stage.tick + s.stage.tracker.treq.toNat ≤ s.now) :
    let g := s.stage.applyCfg
    Reaches (exec .encoderTick s) fun t => t.stage.tick = s.now ∧ t.stage.prevTick = s.stage.tick ∧
      t.stage.nextCfg = none ∧ t.stage.tracker = g.tracker ∧ t.stage.ports = g.ports.map PosPort.atTick ∧
      ∀ (n : Nat) (p : PosPort), g.ports[n]? = some p → p.cfg.role ≠ 0 → .posRequest n p.wantsId s.now ∈ t.out := by
  intro g
  have hzero : s.stage.tracker.treq.toNat = 0 ↔ s.stage.tracker.treq = 0 := by
    rw [← BitVec.toNat_inj]
    rfl
  have hgo : ¬ ((s.stage.tracker.treq.toNat = 0 ∧ s.stage.nextCfg.isNone) ∨
      (s.stage.tracker.treq.toNat ≠ 0 ∧ s.now < s.stage.tick + s.stage.tracker.treq.toNat)) := by
    rintro (⟨h0, hnone⟩ | ⟨hne, hearly⟩)
    · rcases hreq with h | h
      · exact h (hzero.1 h0)
      · rw [Option.isNone_iff_eq_none] at hnone
        rw [hnone] at h
        exact absurd h Bool.false_ne_true
    · exact absurd (hdue fun h => hne (hzero.2 h)) (Nat.not_le.2 hearly)
  obtain ⟨es, hes⟩ := s.tickEmus_stage
  obtain ⟨htick, hcfg⟩ := s.stage.applyCfg_tick
  refine reaches_of_next (exec_encoderTick.trans (if_neg hgo)) ?_
  rw [State.emits_stage, State.onStage_stage, hes, Stage.applyCfg_emus]
  refine ⟨rfl, htick, hcfg, rfl, rfl, fun n p hp hrole => ?_⟩
  refine List.mem_append_right _ (List.mem_filterMap.2 ⟨(p.atTick, n), ?_, ?_⟩)
  · rw [List.mem_zipIdx_iff_getElem?]
    show (g.ports.map PosPort.atTick)[n]? = some p.atTick
    rw [List.getElem?_map, hp, Option.map_some]
  · rw [p.atTick_cfg.1, p.atTick_cfg.2, if_neg hrole]

/-! ### A frame (R258 to R262) -/

/-- The port but for its presence. -/
def PosPort.absentIn (p q : PosPort) : Prop :=
  ∃ pr at_ idr, q = { p with present := pr, presentAt := at_, idRead := idr }

theorem PosPort.absentIn_refl (p : PosPort) : p.absentIn p := ⟨p.present, p.presentAt, p.idRead, rfl⟩

theorem State.portArrives_port (s : State) (n : Nat) :
    ∃ pr at_, (s.portArrives n).stage.port n = { s.stage.port n with present := pr, presentAt := at_ } := by
  unfold State.portArrives
  dsimp only
  split
  · rw [State.raise_stage]
    by_cases hn : n < s.stage.ports.length
    · exact ⟨_, _, Stage.onPos_port_self hn _⟩
    · exact ⟨(s.stage.port n).present, (s.stage.port n).presentAt, Stage.onPos_port_absent hn _⟩
  · exact ⟨(s.stage.port n).present, (s.stage.port n).presentAt, rfl⟩

theorem State.frameFails_port {n : Nat} (hn : n < s.stage.ports.length) (f : PosPort → PosPort) :
    PosPort.absentIn { f (s.stage.port n) with fails := (s.stage.port n).fails + 1, passes := 0, ended := true, cur := none }
      ((s.frameFails n f).stage.port n) := by
  unfold State.frameFails
  dsimp only
  generalize hu : State.onPos s n _ = u
  have hport : u.stage.port n =
      { f (s.stage.port n) with fails := (s.stage.port n).fails + 1, passes := 0, ended := true, cur := none } := by
    rw [← hu]
    exact Stage.onPos_port_self hn _
  have hlen : n < u.stage.ports.length := by
    rw [← hu]
    exact (List.length_modify ..).symm ▸ hn
  rw [← hport]
  split
  · rw [State.fault_stage]
    exact ⟨_, _, _, Stage.onPos_port_self hlen _⟩
  · exact PosPort.absentIn_refl _

theorem State.framePasses_port {n x : Nat} {warn : Bool} {bits : BitVec 6} (hn : n < s.stage.ports.length) :
    let q := (s.framePasses n x warn bits).stage.port n
    q.cur = some x ∧ q.last = some (x, s.stage.tick) ∧ q.fails = 0 ∧ q.passes = (s.stage.port n).passes + 1 ∧
      q.ended = true := by
  unfold State.framePasses
  dsimp only
  generalize hu : State.onPos s n _ = u
  have hport : u.stage.port n = { s.stage.port n with
      status := bits, fails := 0, passes := (s.stage.port n).passes + 1
      cWarn := if warn then (s.stage.port n).cWarn + 1 else (s.stage.port n).cWarn
      before := (s.stage.port n).last, last := some (x, s.stage.tick), cur := some x, ended := true } := by
    rw [← hu]
    exact Stage.onPos_port_self hn _
  have hwatched (c : Prop) [Decidable c] : u.stage.Watched (if c then u.watchMarks n else u).stage := by
    split
    · exact State.watchMarks_watched ..
    · exact .refl _
  obtain ⟨_, hmarks⟩ := (hwatched (roleAxis (s.stage.port n).cfg.role = none)).port n
  obtain ⟨_, _, harrived⟩ := State.portArrives_port (if roleAxis (s.stage.port n).cfg.role = none then u.watchMarks n else u) n
  rw [harrived, hmarks, hport]
  exact ⟨rfl, rfl, rfl, rfl, rfl⟩

theorem reaches_positionFrame {port : BitVec 3} {f : Option PosFrame} :
    let n := port.toNat
    let p := s.stage.port n
    n < s.stage.ports.length → p.cfg.role ≠ 0 → p.ended = false → Reaches (exec (.positionFrame port f) s) fun t =>
      let q := t.stage.port n
      match judgeFrame s.stage p f with
      | .pass x _ => q.cur = some x ∧ q.last = some (x, s.stage.tick) ∧ q.fails = 0 ∧ q.passes = p.passes + 1 ∧
          q.ended = true
      | .noResp => q.fails = p.fails + 1 ∧ q.cNoResp = p.cNoResp + 1 ∧ q.cur = none ∧ q.passes = 0
      | .crc => q.fails = p.fails + 1 ∧ q.cCrc = p.cCrc + 1 ∧ q.cur = none ∧ q.passes = 0
      | .err => q.fails = p.fails + 1 ∧ q.cErr = p.cErr + 1 ∧ q.cur = none ∧ q.passes = 0
      | .jump => q.fails = p.fails + 1 ∧ q.cJump = p.cJump + 1 ∧ q.cur = none ∧ q.passes = 0 := by
  intro n p hn hrole hended
  rw [exec_positionFrame, execPositionFrame]
  dsimp only
  rw [if_neg (by
    rintro (h | h)
    · exact hrole h
    · exact absurd (hended.symm.trans h) Bool.false_ne_true)]
  have hfails (g : PosPort → PosPort) : ∃ pr at_ idr, (s.frameFails n g).stage.port n =
      { g p with fails := p.fails + 1, passes := 0, ended := true, cur := none, present := pr, presentAt := at_,
                 idRead := idr } := State.frameFails_port hn g
  cases judgeFrame s.stage (s.stage.port port.toNat) f with
  | pass x w => exact reaches_of_next rfl (State.framePasses_port hn)
  | noResp =>
    obtain ⟨_, _, _, hp⟩ := hfails fun p => { p with cNoResp := p.cNoResp + 1 }
    exact reaches_of_next rfl (by rw [hp]; exact ⟨rfl, rfl, rfl, rfl⟩)
  | crc =>
    obtain ⟨_, _, _, hp⟩ := hfails fun p => { p with cCrc := p.cCrc + 1 }
    exact reaches_of_next rfl (by rw [hp]; exact ⟨rfl, rfl, rfl, rfl⟩)
  | err =>
    obtain ⟨_, _, _, hp⟩ := hfails fun p => { p with
      cErr := p.cErr + 1, status := ((f.map fun (z : PosFrame) => z.status).getD 0).setWidth 6 }
    exact reaches_of_next rfl (by rw [hp]; exact ⟨rfl, rfl, rfl, rfl⟩)
  | jump =>
    obtain ⟨_, _, _, hp⟩ := hfails fun p => { p with
      cJump := p.cJump + 1, status := ((f.map fun (z : PosFrame) => z.status).getD 0).setWidth 6 }
    exact reaches_of_next rfl (by rw [hp]; exact ⟨rfl, rfl, rfl, rfl⟩)

/-! ### The identity (R263) -/

theorem reaches_encoderIdentityRead {port : BitVec 3} {a : IdAnswer} (hn : port.toNat < s.stage.ports.length)
    (hrole : (s.stage.port port.toNat).cfg.role ≠ 0) (hwants : (s.stage.port port.toNat).wantsId = true)
    (hok : identityOk a = true) : Reaches (exec (.encoderIdentityRead port (some a)) s) fun t =>
      if fld 103 96 a.bits = (s.stage.port port.toNat).cfg.lat.toNat ∧
          fld 119 104 a.bits = (s.stage.port port.toNat).cfg.td.toNat then (t.stage.port port.toNat).idRead = true
      else (t.stage.port port.toNat).heldOut = true := by
  rw [exec_encoderIdentityRead, execEncoderIdentityRead]
  dsimp only
  rw [if_neg (by
    rintro (h | h)
    · exact hrole h
    · exact absurd (h.symm.trans hwants) Bool.false_ne_true), if_neg (by rw [hok]; decide)]
  by_cases hsame : fld 103 96 a.bits = (s.stage.port port.toNat).cfg.lat.toNat ∧
      fld 119 104 a.bits = (s.stage.port port.toNat).cfg.td.toNat
  · refine reaches_of_next (if_neg (not_or.2 ⟨Classical.not_not.2 hsame.1, Classical.not_not.2 hsame.2⟩)) ?_
    rw [if_pos hsame]
    obtain ⟨_, _, hport⟩ := State.portArrives_port
      (s.onPos port.toNat fun p => { p with idRead := true, ident := some a.bits }) port.toNat
    rw [hport]
    exact congrArg PosPort.idRead (Stage.onPos_port_self hn _)
  · refine reaches_of_next (if_pos (Classical.not_and_iff_not_or_not.1 hsame)) ?_
    rw [if_neg hsame, State.fault_stage]
    exact congrArg PosPort.heldOut (Stage.onPos_port_self hn _)

/-! ### Marks (R271, R272) -/

theorem reaches_referenceMarkEdge {port : BitVec 3} {rising : Bool} :
    let n := port.toNat
    let p := s.stage.port n
    n < s.stage.ports.length → p.cfg.role ≠ 0 → p.cfg.refen = true → rising ≠ p.cfg.refpol →
    Reaches (exec (.referenceMarkEdge port rising) s) fun t =>
      if p.edgeSeen.any (fun t0 => decide (s.now < t0 + cycUs 1)) then (t.stage.port n).edgeIgn = p.edgeIgn + 1 ∧
        (t.stage.port n).edges = p.edges
      else (t.stage.port n).edges = p.edges ++ [s.now] ∧ (t.stage.port n).edgeSeen = some s.now := by
  intro n p hn hrole hen hpol
  rw [exec_referenceMarkEdge, execReferenceMarkEdge]
  dsimp only
  rw [if_neg (by
    rintro (h | h | h)
    · exact hrole h
    · exact absurd (h.symm.trans hen) Bool.false_ne_true
    · exact hpol h)]
  have hself (f : PosPort → PosPort) : (s.onPos n f).stage.port n = f p := Stage.onPos_port_self hn f
  have hnew : ((s.onPos n fun p => { p with edges := p.edges ++ [s.now], edgeSeen := some s.now }).onStage
      (·.owePulse n s.now)).stage.port n = { p with edges := p.edges ++ [s.now], edgeSeen := some s.now } := hself _
  cases hseen : (s.stage.port port.toNat).edgeSeen with
  | none =>
    refine reaches_of_next (if_neg Bool.false_ne_true) ?_
    rw [hnew]
    exact ⟨rfl, rfl⟩
  | some t0 =>
    by_cases hclose : s.now < t0 + cycUs 1
    · refine reaches_of_next (if_pos (decide_eq_true hclose)) ?_
      rw [hself, Option.any_some, if_pos (decide_eq_true hclose)]
      exact ⟨rfl, rfl⟩
    · refine reaches_of_next (if_neg (by simpa using hclose)) ?_
      rw [hnew, Option.any_some, if_neg (by simpa using hclose)]
      exact ⟨rfl, rfl⟩

theorem reaches_markResolve {port : BitVec 3} {e : Nat} {m : MarkS} :
    let n := port.toNat
    let p := s.stage.port n
    let l := s.stage.latch p e
    n < s.stage.ports.length → s.stage.resolvable p = true → p.edges = [e] → e < s.stage.tick → p.homeEdge = none →
    (p.marks.find? fun m => m.e.used && m.within l m.e.mtol.toNat) = some m →
    Reaches (exec (.markResolve port) s) fun t => (t.stage.port n).edges = [] ∧
      (t.stage.port n).markDev = some (wrap48 ((l : Int) - m.e.mpos.toNat)) := by
  intro n p l hn hres hedges hpast hhome hfind
  rw [exec_markResolve, execMarkResolve]
  dsimp only
  rw [if_neg (by rw [hres]; decide), hedges, List.filter_cons_of_pos (by simpa using hpast), List.filter_nil,
    List.foldl_cons, List.foldl_nil]
  refine reaches_of_next rfl ?_
  generalize hu : State.onPos s port.toNat _ = u
  have hlen : n < u.stage.ports.length := by
    rw [← hu]
    exact (List.length_modify ..).symm ▸ hn
  have hport : (u.stage.port n).edges = [] ∧ (u.stage.port n).marks = p.marks := by
    rw [← hu, State.onPos, State.onStage_stage, Stage.onPos_port_self hn]
    refine ⟨?_, rfl⟩
    show p.edges.filter _ = []
    rw [hedges, List.filter_cons_of_neg (by simpa using hpast), List.filter_nil]
  unfold State.judgeMark
  dsimp only
  rw [hport.2, hfind]
  have hself := Stage.onPos_port_self hlen fun q => { q with
    markDev := some (wrap48 ((l : Int) - m.e.mpos.toNat))
    marks := q.marks.map fun k => if k.e = m.e then { k with passed := true } else k }
  exact ⟨(congrArg PosPort.edges hself).trans hport.1, congrArg PosPort.markDev hself⟩

/-! ### Switches (R275 to R277) -/

theorem State.rateCheck_port {n i : Nat} (p : PosPort) (hn : n < s.stage.ports.length) :
    ((s.rateCheck n p i).stage.port n).swLast = (s.stage.port n).swLast ∧
      (s.rateCheck n p i).stage.ports.length = s.stage.ports.length := by
  unfold State.rateCheck
  refine iteInduction (motive := fun u : State => (u.stage.port n).swLast = (s.stage.port n).swLast ∧
    u.stage.ports.length = s.stage.ports.length) (fun _ => ⟨rfl, rfl⟩) fun _ => ?_
  dsimp only
  rw [apply_ite State.stage, State.raise_stage, ite_self, State.onPos, State.onStage_stage, Stage.onPos_port_self hn]
  exact ⟨rfl, List.length_modify ..⟩

theorem reaches_switchEdge {port : BitVec 3} {i : SwitchInput} {level : Bool} :
    let n := port.toNat
    let p := s.stage.port n
    let active := level != p.cfg.swpol.getLsbD (inputIx i)
    n < s.stage.ports.length → p.swLevel.getD (inputIx i) false ≠ active →
    Reaches (exec (.switchEdge port i level) s) fun t =>
      (t.stage.port n).swLevel = p.swLevel.set (inputIx i) active ∧
      (t.stage.port n).swLast = p.swLast.set (inputIx i) (some s.now) := by
  intro n p active hn hedge
  rw [exec_switchEdge, execSwitchEdge]
  dsimp only
  rw [if_neg hedge]
  refine reaches_of_next rfl ?_
  generalize hu : (if s.edgeRate = true then _ else _ : State) = u
  have hkept : (u.stage.port n).swLast = p.swLast ∧ u.stage.ports.length = s.stage.ports.length := by
    rw [← hu]
    split
    · exact State.rateCheck_port p hn
    · rw [(State.comboCheck_fr ..).stage_eq]
      exact ⟨rfl, rfl⟩
  have hself := Stage.onPos_port_self (g := u.stage) (hkept.2.symm ▸ hn) fun q => { q with
    swLevel := p.swLevel.set (inputIx i) active
    swLast := q.swLast.set (inputIx i) (some s.now)
    homeEdge := if i = .home then some s.now else q.homeEdge }
  refine ⟨congrArg PosPort.swLevel hself, (congrArg PosPort.swLast hself).trans ?_⟩
  exact congrArg (fun l => l.set (inputIx i) (some s.now)) hkept.1
end

/-- Settles O40: a lemma for each of the tick, the frame, the identity, the marks and the switches. -/
theorem positionPorts : Obligations.PositionPorts :=
  ⟨fun _ => reaches_encoderTick, fun _ _ _ => reaches_positionFrame, fun _ _ _ => reaches_encoderIdentityRead,
    fun _ _ _ => reaches_referenceMarkEdge, fun _ _ _ _ => reaches_markResolve, fun _ _ _ _ => reaches_switchEdge⟩

end Sys2Proof.Machine
end

section
/-!
PROOF. Measurement and calibration (chapter 14): samples, acquisitions and reads, trim runs, the gain loop, and
obligations O48, O49 and O50.
-/

namespace Sys2Proof.Machine

/-! ### Samples (R350 to R352) -/

section
variable {s : State}

/-- What an acquisition takes of an instant turns on the time and on the trim runs. -/
theorem State.acquire_snd {t : State} (hnow : t.now = s.now) (htrim : t.meas.trimming = s.meas.trimming)
    (xs : List Sample) (a : Acq) : (t.acquire xs a).2 = (s.acquire xs a).2 := by
  unfold State.acquire
  rw [hnow, htrim]
  dsimp only
  split <;> rfl

theorem State.acquireFold_meas (xs : List Sample) (as : List Acq) {ps : List Acq} {u : State}
    (hnow : u.now = s.now) (hmeas : u.meas = { s.meas with acqs := ps }) :
    (as.foldl (fun (t : State) a => (t.acquire xs a).1.onMeas fun m => { m with acqs := m.acqs ++ [(t.acquire xs a).2] })
      u).meas = { s.meas with acqs := ps ++ as.map fun a => (s.acquire xs a).2 } := by
  induction as generalizing ps u with
  | nil => rw [List.foldl_nil, List.map_nil, List.append_nil, hmeas]
  | cons a as ih =>
    have hfr := State.acquire_fr u xs a
    have htrim : u.meas.trimming = s.meas.trimming := by
      rw [hmeas]
      rfl
    have hstep : ((u.acquire xs a).1.onMeas fun m => { m with acqs := m.acqs ++ [(u.acquire xs a).2] }).meas =
        { s.meas with acqs := ps ++ [(s.acquire xs a).2] } := by
      rw [State.onMeas_meas, hfr.meas_eq, hmeas, State.acquire_snd hnow htrim]
    refine (ih (u := (u.acquire xs a).1.onMeas _) (hfr.now_eq.trans hnow) hstep).trans ?_
    rw [List.map_cons, List.append_assoc, List.singleton_append]

/-- Every acquisition takes the instant. -/
theorem State.acquireAll_meas (s : State) (xs : List Sample) :
    (s.acquireAll xs).meas = { s.meas with acqs := s.meas.acqs.map fun a => (s.acquire xs a).2 } :=
  State.acquireFold_meas xs s.meas.acqs (ps := []) rfl rfl

theorem State.closePair_meas (s : State) (g : GainPair) (st : BitVec 16) (body : List Word) :
    (s.closePair g st body).meas = { s.meas with gain := none } := by
  unfold State.closePair
  rw [State.respond_meas, State.unwait_meas, (State.permitCheck_fr _).meas_eq, (State.plateCommit_fr _).meas_eq]
  rfl

theorem State.endPair_meas (s : State) (c : PairEnd) : (s.endPair c).meas = { s.meas with gain := none } := by
  unfold State.endPair
  split
  case h_1 h => rw [← h]
  case h_2 g _ =>
    dsimp only
    rw [State.closePair_meas]
    simp only [apply_ite State.meas, State.raiseVia_meas, ite_self]

/-- A cup sample moves nothing but the gain pair. -/
theorem State.cupSample_meas (s : State) (xs : List Sample) : ∃ g, (s.cupSample xs).meas = { s.meas with gain := g } := by
  unfold State.cupSample
  split
  · exact ⟨s.meas.gain, rfl⟩
  · dsimp only
    split
    · exact ⟨s.meas.gain, rfl⟩
    · split
      · exact ⟨none, State.endPair_meas ..⟩
      · split <;> exact ⟨_, rfl⟩

theorem reaches_bcSample (codes : List Int) :
    let xs := (List.range 8).map fun n => s.meas.sample n (codes.getD n 0)
    let at_ := s.now / 25000 * 25000
    Reaches (exec (.bcSample codes) s) fun t =>
      if s.now / 25000 ≤ s.meas.bcAt then t = s
      else (∀ n v, s.meas.bc[n]? = some v → t.meas.bc[n]? = some (
          if s.meas.trimming n = true ∨ s.rstate (nodeR 9 0 n) ≠ .inService then v ||| 0x10000000#64
          else BitVec.ofNat 64 ((xs.getD n ⟨0, 0, false, false⟩).bits + 2 ^ 32 * (at_ / 2 ^ 15 % 2 ^ 32)))) ∧
        t.meas.bcSettle = s.meas.bcSettle.map (· - 1) ∧ t.meas.bcAt = s.now / 25000 ∧
        t.meas.acqs = s.meas.acqs.map fun a => (s.acquire xs a).2 := by
  intro xs at_
  refine reaches_of_next rfl ?_
  by_cases hearly : s.now / 25000 ≤ s.meas.bcAt
  · rw [if_pos hearly, if_pos hearly]
  · rw [if_neg hearly, if_neg hearly]
    obtain ⟨g, hcup⟩ := State.cupSample_meas ((s.acquireAll xs).onMeas (·.latch at_ s.frontEndOut xs)) xs
    rw [State.onMeas_meas, State.acquireAll_meas] at hcup
    rw [hcup]
    refine ⟨fun n v hv => ?_, rfl, Nat.mul_div_cancel _ (by decide), rfl⟩
    have hzip : s.meas.bc.zipIdx[n]? = some (v, n) := by
      rw [List.getElem?_zipIdx, hv, Option.map_some, Nat.zero_add]
    show (s.meas.bc.zipIdx.map _)[n]? = _
    rw [List.getElem?_map, hzip, Option.map_some]
    have hout : (s.meas.trimming n || s.frontEndOut n) = true ↔
        s.meas.trimming n = true ∨ s.rstate (nodeR 9 0 n) ≠ .inService := by
      rw [Bool.or_eq_true, State.frontEndOut, bne_iff_ne]
    exact congrArg some (ite_congr (propext hout) (fun _ => rfl) fun _ => rfl)

/-! ### The end of an acquisition (Table 14-10) -/

theorem outputLane_frontEnd {n : Nat} (hn : n < 16) : outputLane (nodeR 9 0 n) = false := by
  revert n
  decide

theorem maskChannels_headD_lt (mask : BitVec 8) : (maskChannels mask).headD 0 < 16 := by
  cases h : maskChannels mask with
  | nil => decide
  | cons n ns =>
    have hn : n ∈ maskChannels mask := h ▸ List.mem_cons_self ..
    have hrange := List.mem_range.1 (List.mem_filter.1 hn).1
    exact Nat.lt_of_lt_of_le hrange (by decide)

theorem reaches_acquisitionComplete {mb : BitVec 4} {a : Acq} (h : s.mbsWf)
    (ha : (s.meas.acqs.find? (·.src.mb == mb)) = some a) :
    (a.desc.count.toNat ≤ a.taken → Reaches (exec (.acquisitionComplete mb false) s) fun t =>
      t.answered a.src ST.ok ∧ (t.mb a.src.mb).respBody = a.sums.map (summaryWord s.fresh) ∧
      t.meas.acqs = s.meas.acqs.filter (·.src.mb != mb)) ∧
    Reaches (exec (.acquisitionComplete mb true) s) fun t =>
      let n := (maskChannels a.desc.chmask).headD 0
      t.answered a.src ST.calParity ∧ t.meas.acqs = s.meas.acqs.filter (·.src.mb != mb) ∧
      (t.rstate (nodeR 9 0 n) = .quarantined ∨ t.rstate (nodeR 9 0 n) = .failed) := by
  generalize hu : (s.onMeas fun m => { m with acqs := m.acqs.filter (·.src.mb != mb) }).unwait mb = u
  have hwf : u.mbsWf := by
    rw [← hu]
    exact (State.unwait_fr ..).mbsWf (by exact h)
  have hacqs : u.meas.acqs = s.meas.acqs.filter (·.src.mb != mb) := by
    rw [← hu, State.unwait_meas]
    rfl
  constructor
  · intro hall
    have hexec : exec (.acquisitionComplete mb false) s =
        .next ((u.ok a.src (a.sums.map (summaryWord s.fresh))).draw) := by
      rw [exec_acquisitionComplete, execAcquisitionComplete, ha]
      dsimp only
      rw [hu, if_neg Bool.false_ne_true, if_pos hall]
    refine reaches_of_next hexec ⟨State.ok_answered hwf .., (State.ok_own hwf ..).2.2.1, ?_⟩
    rw [State.draw_meas, State.ok_meas, hacqs]
  · generalize hv : (u.onMeas fun m => { m with
      bc := m.bc.modify ((maskChannels a.desc.chmask).headD 0) (· ||| 0x10000000#64) }) = v
    have hexec : exec (.acquisitionComplete mb true) s = .next (((v.unitFault
        (nodeR 9 0 ((maskChannels a.desc.chmask).headD 0))).fault none { calEvent ST.calParity
          ((maskChannels a.desc.chmask).headD 0) 0 0 0 with
        nodef := nodeF 15 0 ((maskChannels a.desc.chmask).headD 0)
        noder := nodeR 9 0 ((maskChannels a.desc.chmask).headD 0) }).fail a.src ST.calParity) := by
      rw [exec_acquisitionComplete, execAcquisitionComplete, ha]
      dsimp only
      rw [hu, if_pos rfl, hv]
    have hvwf : v.mbsWf := by
      rw [← hv]
      exact hwf
    refine reaches_of_next hexec ⟨State.fail_answered ?_ .., ?_, ?_⟩
    · exact (State.fault_fr ..).mbsWf ((State.unitFault_fr ..).mbsWf hvwf)
    · rw [State.fail_meas, State.fault_meas, (State.unitFault_fr ..).meas_eq, ← hv]
      exact hacqs
    · have hkeep := State.unitFault_rstate v (outputLane_frontEnd (maskChannels_headD_lt a.desc.chmask))
      rw [(State.fail_fr ..).rstate_eq, (State.fault_fr ..).rstate_eq]
      exact hkeep

/-! ### Temperature inputs and monitors (R353 to R355) -/

theorem reaches_rtdConversion (ch : BitVec 2) (mohm : BitVec 32) :
    let n := ch.toNat
    Reaches (exec (.rtdConversion ch mohm) s) fun t =>
      if s.due (s.meas.tsAt.getD n none) (cycMs 10) = false then t = s
      else t.meas.ts = s.meas.ts.set n (
        if s.meas.rtdTrimming n = true ∨ s.rstate (nodeR 9 0 (8 + n)) ≠ .inService then
          s.meas.ts.getD n 0 ||| 0x1000000000000#64
        else if 500000 ≤ mohm.toNat ∧ mohm.toNat ≤ 4000000 then
          BitVec.ofNat 64 (toU 16 (rtdTemp mohm.toNat) + 2 ^ 16 * mohm.toNat)
        else BitVec.ofNat 64 (0x8000 + 2 ^ 16 * mohm.toNat + 2 ^ 49)) := by
  intro n
  refine reaches_of_next rfl ?_
  cases hdue : s.due (s.meas.tsAt.getD ch.toNat none) (cycMs 10) with
  | false =>
    rw [if_pos rfl]
    rfl
  | true =>
    rw [if_neg (by decide), if_neg (by decide)]
    have hout : (s.meas.rtdTrimming ch.toNat || s.frontEndOut (8 + ch.toNat)) = true ↔
        s.meas.rtdTrimming n = true ∨ s.rstate (nodeR 9 0 (8 + n)) ≠ .inService := by
      rw [Bool.or_eq_true, State.frontEndOut, bne_iff_ne]
    by_cases hstale : s.meas.rtdTrimming n = true ∨ s.rstate (nodeR 9 0 (8 + n)) ≠ .inService
    · rw [if_pos (hout.2 hstale), if_pos hstale]
      rfl
    · rw [if_neg (fun h => hstale (hout.1 h)), if_neg hstale]
      dsimp only
      by_cases hopen : 4000000 < mohm.toNat ∨ mohm.toNat < 500000
      · have hrange : ¬ (500000 ≤ mohm.toNat ∧ mohm.toNat ≤ 4000000) := by omega
        rw [if_pos hopen, if_neg hrange, apply_ite State.meas, State.fault_meas, ite_self]
        rfl
      · have hrange : 500000 ≤ mohm.toNat ∧ mohm.toNat ≤ 4000000 := by omega
        rw [if_neg hopen, if_pos hrange, apply_ite State.meas, State.raise_meas, ite_self]
        rfl

theorem reaches_monitorRead (values : List (BitVec 16)) : Reaches (exec (.monitorRead values) s) fun t =>
    if s.due s.meas.monAt (cycMs 1) = false then t = s
    else (∀ p v, s.meas.mon[p]? = some v → t.meas.mon[p]? = some (if 20 ≤ p then 0
        else if s.meas.monTrimming = true ∨ s.rstate (nodeR 9 0 12) ≠ .inService then v ||| 0x10000#64
        else (values.getD p 0).setWidth 64)) ∧
      (supplyInRange values = true → t.power = s.power) ∧
      (supplyInRange values = false → t.power.supplyBad = s.power.supplyBad.map fun _ => s.now) := by
  refine reaches_of_next rfl ?_
  cases hdue : s.due s.meas.monAt (cycMs 1) with
  | false =>
    rw [if_pos rfl]
    rfl
  | true =>
    rw [if_neg (by decide), if_neg (by decide), State.onMeas_meas, State.onMeas_power]
    refine ⟨fun p v hv => ?_, fun hin => by rw [if_pos hin], fun hout => ?_⟩
    · rw [apply_ite State.meas, State.onPower_meas, ite_self]
      have hzip : s.meas.mon.zipIdx[p]? = some (v, p) := by
        rw [List.getElem?_zipIdx, hv, Option.map_some, Nat.zero_add]
      have hstale : (s.meas.monTrimming || s.frontEndOut 12) = true ↔
          s.meas.monTrimming = true ∨ s.rstate (nodeR 9 0 12) ≠ .inService := by
        rw [Bool.or_eq_true, State.frontEndOut, bne_iff_ne]
      show (s.meas.mon.zipIdx.map _)[p]? = _
      rw [List.getElem?_map, hzip, Option.map_some]
      exact congrArg some (ite_congr rfl (fun _ => rfl) fun _ => ite_congr (propext hstale) (fun _ => rfl) fun _ => rfl)
    · rw [if_neg (by rw [hout]; decide)]
      rfl
end

/-- Settles O48: each reading acts once per period (log entry 62), and a temperature is that of rtdTemp (log entry 76). -/
theorem measurements : Obligations.Measurements :=
  ⟨fun _ => reaches_bcSample, fun _ _ _ => reaches_acquisitionComplete, fun _ => reaches_rtdConversion,
    fun _ => reaches_monitorRead⟩

end Sys2Proof.Machine
end

section
/-!
PROOF. Trim runs (R357 to R359) and the gain loop (R361 to R366): obligations O49 and O50.
-/

namespace Sys2Proof.Machine

/-! ### Trim runs start by themselves (R357) -/

section
variable {s : State}

theorem Meas.item_onItem {u : State} {j k : Nat} {f : Trim → Trim} (hj : j < u.meas.items.length) :
    (u.onItem j f).meas.item k = if k = j then f (u.meas.item k) else u.meas.item k :=
  Meas.item_modify _ _ _ _ hj

/-- What AUTO_TRIM_START does to one item. -/
def State.autoTrim (s t : State) (k : Nat) : State :=
  if (s.meas.item k).running then t
  else if s.mayTrim k then t.onItem k fun x => { x with running := true, restart := false }
  else if coupledItem k then t.onItem k fun x => { x with restart := true }
  else t

theorem State.autoTrim_item {u : State} {j : Nat} (hj : j < u.meas.items.length) (k : Nat) :
    ((s.autoTrim u j).meas.item k).running =
        ((u.meas.item k).running || (decide (k = j) && !(s.meas.item k).running && s.mayTrim k)) ∧
      ((s.autoTrim u j).meas.item k).coef = (u.meas.item k).coef ∧
      (s.autoTrim u j).meas.items.length = u.meas.items.length := by
  unfold State.autoTrim
  cases hrun : (s.meas.item j).running with
  | true =>
    rw [if_pos rfl]
    by_cases hk : k = j
    · simp [hk, hrun]
    · simp [hk]
  | false =>
    rw [if_neg Bool.false_ne_true]
    cases hmay : s.mayTrim j with
    | true =>
      rw [if_pos rfl, Meas.item_onItem hj]
      refine ⟨?_, ?_, List.length_modify ..⟩
      · by_cases hk : k = j
        · simp [hk, hrun, hmay]
        · simp [hk]
      · split <;> rfl
    | false =>
      rw [if_neg Bool.false_ne_true]
      have hsame : (decide (k = j) && !(s.meas.item k).running && s.mayTrim k) = false := by
        by_cases hk : k = j
        · simp [hk, hmay]
        · simp [hk]
      rw [hsame, Bool.or_false]
      split
      · rw [Meas.item_onItem hj]
        exact ⟨by split <;> rfl, by split <;> rfl, List.length_modify ..⟩
      · exact ⟨rfl, rfl, rfl⟩

theorem State.autoTrims_item {ks : List Nat} {u : State} (hks : ∀ k ∈ ks, k < u.meas.items.length) (k : Nat) :
    ((ks.foldl s.autoTrim u).meas.item k).running =
        ((u.meas.item k).running || (decide (k ∈ ks) && !(s.meas.item k).running && s.mayTrim k)) ∧
      ((ks.foldl s.autoTrim u).meas.item k).coef = (u.meas.item k).coef := by
  induction ks generalizing u with
  | nil => simp
  | cons j ks ih =>
    have hj := hks j (List.mem_cons_self ..)
    obtain ⟨hrun, hcoef, hlen⟩ := State.autoTrim_item (s := s) hj k
    obtain ⟨hruns, hcoefs⟩ := ih (u := s.autoTrim u j) fun i hi => hlen.symm ▸ hks i (List.mem_cons_of_mem _ hi)
    rw [List.foldl_cons, hruns, hcoefs, hrun, hcoef]
    refine ⟨?_, rfl⟩
    have hmem : decide (k ∈ j :: ks) = (decide (k = j) || decide (k ∈ ks)) := by simp
    rw [hmem, Bool.and_or_distrib_right, Bool.and_or_distrib_right, Bool.or_assoc]

theorem reaches_autoTrimStart (hlen : s.meas.items.length = 71) (hper : s.meas.policy.trimper.toNat ≠ 0)
    (hlate : s.meas.lastAuto + cycS (60 * s.meas.policy.trimper.toNat) ≤ s.now) :
    Reaches (exec .autoTrimStart s) fun t => t.meas.lastAuto = s.now ∧ ∀ k < 71,
      (t.meas.item k).running = ((s.meas.item k).running || s.mayTrim k) ∧
      (t.meas.item k).coef = (s.meas.item k).coef := by
  refine reaches_of_next rfl ?_
  rw [if_neg (by
    rintro (h | h)
    · exact hper h
    · exact absurd hlate (Nat.not_le.2 h))]
  refine ⟨rfl, fun k hk => ?_⟩
  obtain ⟨hrun, hcoef⟩ := State.autoTrims_item (s := s) (u := s) (ks := List.range 71)
    (fun i hi => hlen.symm ▸ List.mem_range.1 hi) k
  refine ⟨hrun.trans ?_, hcoef⟩
  rw [decide_eq_true (List.mem_range.2 hk)]
  cases (s.meas.item k).running <;> rfl

/-! ### The end of a trim run (R358, R359) -/

theorem State.writeNv_items (s : State) (ok : Bool) : (s.writeNv ok).meas.items = s.meas.items := by
  unfold State.writeNv
  dsimp only
  split
  · show (if _ then _ else _ : Meas).items = _
    split <;> rfl
  · rw [State.fault_meas, (State.sectorFails_fr ..).meas_eq]

theorem Meas.trimResult_items (m : Meas) (k : Nat) (st : BitVec 16) : (m.trimResult k st).items = m.items := by
  unfold Meas.trimResult
  split
  · rfl
  · split <;> rfl

theorem State.trimAnswer_items (s : State) : s.trimAnswer.meas.items = s.meas.items := by
  unfold State.trimAnswer
  split
  · rfl
  · split
    · rfl
    · dsimp only
      split
      · rw [State.ok_meas, State.unwait_meas]
        rfl
      · rw [State.fail_meas, State.unwait_meas]
        rfl

theorem Meas.item_of_items {m n : Meas} (h : m.items = n.items) (k : Nat) : m.item k = n.item k := by
  rw [Meas.item, h, Meas.item]

/-- Noting a result and answering the command that waits leave the items as they are. -/
theorem State.trimEnd_item (s : State) (j k : Nat) (st : BitVec 16) :
    ((s.onMeas (·.trimResult j st)).trimAnswer).meas.item k = s.meas.item k :=
  Meas.item_of_items ((State.trimAnswer_items _).trans (Meas.trimResult_items ..)) k

/-- The item of a run after its end: accepted, with the mean of its two coefficients, or failed. -/
theorem reaches_trimRunComplete (hlen : s.meas.items.length = 71) {item : BitVec 8} {ok nv : Bool} {c1 c2 : BitVec 16}
    {r1 r2 : Int} :
    let k := item.toNat
    let x := s.meas.item k
    k < 71 → x.running = true → Reaches (exec (.trimRunComplete item ok c1 c2 r1 r2 nv) s) fun t =>
      if ok = true ∧ (r1 - r2).natAbs ≤ trimTolerance k then
        let c : BitVec 16 := BitVec.ofNat 16 ((c1.toNat + c2.toNat + 1) / 2)
        (t.meas.item k).coef = (if s.idle then c else x.coef) ∧
        (t.meas.item k).pend = (if s.idle then none else some (c, r1, r2)) ∧ (t.meas.item k).running = false ∧
        (t.meas.item k).failed = false ∧ (t.meas.item k).prov = false ∧ (t.meas.item k).accAt = some s.now
      else t.meas.item k = { x with running := false, failed := true } := by
  intro k x hk hrun
  have hitem (f : Trim → Trim) : (s.onItem k f).meas.item k = f x :=
    (Meas.item_onItem (hlen.symm ▸ hk)).trans (if_pos rfl)
  have hgo : ¬ (71 ≤ item.toNat ∨ (s.meas.item item.toNat).running = false) := fun h =>
    h.elim (Nat.not_le.2 hk) fun h => Bool.false_ne_true (h.symm.trans hrun)
  have hbad (st : BitVec 16) (e : Event) : ((((s.onItem k fun x => { x with running := false, failed := true }).fault none
      e).onMeas (·.trimResult k st)).trimAnswer).meas.item k = { x with running := false, failed := true } := by
    rw [State.trimEnd_item, State.fault_meas]
    exact hitem fun x => { x with running := false, failed := true }
  refine reaches_of_next rfl ?_
  rw [if_neg hgo]
  dsimp only
  cases ok with
  | false =>
    rw [if_pos Bool.not_false, if_neg (fun h : false = true ∧ _ => Bool.false_ne_true h.1)]
    exact hbad _ _
  | true =>
    rw [if_neg (show ¬ (!true) = true from Bool.false_ne_true)]
    by_cases htol : (r1 - r2).natAbs ≤ trimTolerance k
    · rw [if_neg (Nat.not_lt.2 htol), if_pos (show true = true ∧ _ from ⟨rfl, htol⟩), State.trimEnd_item,
        Meas.item_of_items (State.writeNv_items ..), apply_ite State.meas, State.raise_meas, ite_self, hitem]
      exact ⟨rfl, rfl, rfl, rfl, rfl, rfl⟩
    · rw [if_pos (Nat.not_le.1 htol), if_neg (fun h : true = true ∧ _ => htol h.2)]
      exact hbad _ _

theorem reaches_agemaxExpiry (hlen : s.meas.items.length = 71) {item : BitVec 8} {t0 : Nat} (hk : item.toNat < 71)
    (hacc : (s.meas.item item.toNat).accAt = some t0) (hage : s.meas.policy.agemax.toNat ≠ 0)
    (hold : t0 + cycH s.meas.policy.agemax.toNat < s.now) :
    Reaches (exec (.agemaxExpiry item) s) fun t => (t.meas.item item.toNat).prov = true := by
  refine reaches_of_next rfl ?_
  rw [if_neg (by
    rintro (h | h)
    · exact hage h
    · exact absurd hk (Nat.not_lt.2 h)), hacc]
  dsimp only
  rw [if_pos hold, Meas.item_onItem (hlen.symm ▸ hk), if_pos rfl]
end

/-- Settles O49: a lemma for each of the start, the end and the age of a run. -/
theorem trimRuns : Obligations.TrimRuns := fun _ hlen =>
  ⟨reaches_autoTrimStart hlen, fun _ _ _ _ _ _ _ => reaches_trimRunComplete hlen, fun _ _ => reaches_agemaxExpiry hlen⟩

end Sys2Proof.Machine
end

section
/-!
PROOF. The gain loop (R361 to R366): its steps, its end, and obligation O50.
-/

namespace Sys2Proof.Machine

section
variable {s : State} {g : GainPair}

/-- A gain pair at its next step, before what the step itself adds. -/
def GainPair.onward (g : GainPair) : GainPair :=
  { g with step := g.step + 1, wait := 0, cupSum := 0, cupN := 0, useFrame := none, got := false, retries := 0 }

/-- The pair after the step of a sample: the dark current, or a region's (R363). -/
theorem State.gainNext_cup (hstep : g.step ≤ 64) : ∃ h, (s.gainNext g).meas.gain = some h ∧ h.step = g.step + 1 ∧
    h.cupN = 0 ∧ h.cupSum = 0 ∧
    (g.step = 0 → h.dark = g.mean ∧ h.fired = 1 ∧ h.wait = settlePeriods (s.gainParams g).2) ∧
    (0 < g.step → h.current = g.current ++ [g.mean - g.dark] ∧
      (g.step < 64 → h.fired = g.step + 1 ∧ h.wait = settlePeriods (s.gainParams g).2)) := by
  unfold State.gainNext
  dsimp only
  by_cases h0 : g.step = 0
  · rw [if_pos h0]
    exact ⟨_, rfl, rfl, rfl, rfl, fun _ => ⟨rfl, rfl, rfl⟩, fun h => absurd h0 (Nat.ne_of_gt h)⟩
  · rw [if_neg h0]
    by_cases hlt : g.step < 64
    · rw [if_pos hlt]
      exact ⟨_, rfl, rfl, rfl, rfl, fun h => absurd h h0, fun _ => ⟨rfl, fun _ => ⟨rfl, rfl⟩⟩⟩
    · rw [if_neg hlt, if_pos (by omega)]
      exact ⟨_, rfl, rfl, rfl, rfl, fun h => absurd h h0, fun _ => ⟨rfl, fun h => absurd h hlt⟩⟩

/-- The pair after the step of a frame (R363). -/
theorem State.gainNext_frame (hlow : 65 ≤ g.step) (hhigh : g.step ≤ 72) : ∃ h, (s.gainNext g).meas.gain = some h ∧
    h.step = g.step + 1 ∧ h.got = false ∧ h.useFrame = none ∧ (g.step = 72 → h.fired = 0) := by
  unfold State.gainNext
  dsimp only
  rw [if_neg (show ¬ g.step = 0 by omega), if_neg (show ¬ g.step < 64 by omega), if_neg (show ¬ g.step = 64 by omega)]
  by_cases hlt : g.step < 72
  · rw [if_pos hlt]
    refine ⟨g.onward, ?_, rfl, rfl, rfl, fun h => absurd h (Nat.ne_of_lt hlt)⟩
    split <;> rfl
  · rw [if_neg hlt, if_pos (show g.step = 72 by omega)]
    exact ⟨_, rfl, rfl, rfl, rfl, fun _ => rfl⟩

/-- The pair after the last step of a run: the second run begins, or the pair has its gains (R364, R365). -/
theorem State.gainNext_run (hstep : g.step = 73) : ∃ h, (s.gainNext g).meas.gain = some h ∧
    if g.second then h.step = 74 ∧ h.out = (g.gains (s.gainParams g).1).1
    else h.step = 0 ∧ h.second = true ∧ h.first = (g.gains (s.gainParams g).1).1 ∧ h.spots = [] := by
  unfold State.gainNext
  dsimp only
  rw [if_neg (show ¬ g.step = 0 by omega), if_neg (show ¬ g.step < 64 by omega), if_neg (show ¬ g.step = 64 by omega),
    if_neg (show ¬ g.step < 72 by omega), if_neg (show ¬ g.step = 72 by omega)]
  cases g.second with
  | true => exact ⟨_, rfl, by rw [hstep], rfl⟩
  | false => exact ⟨_, rfl, rfl, rfl, rfl, rfl⟩

theorem exec_gainRunStepComplete_of_pair (hg : s.meas.gain = some g)
    (hin : (g.step ≤ 64 ∧ g.policy.mcup.toNat ≤ g.cupN) ∨ (65 ≤ g.step ∧ g.step ≤ 72 ∧ g.got = true) ∨ g.step = 73) :
    exec .gainRunStepComplete s = .next (s.gainNext g) := by
  rw [exec_gainRunStepComplete, execGainRunStepComplete, hg]
  dsimp only
  rcases hin with ⟨hstep, hcup⟩ | ⟨hlow, hhigh, hgot⟩ | hstep
  · rw [if_pos hstep, if_pos hcup]
  · rw [if_neg (show ¬ g.step ≤ 64 by omega), if_pos hhigh, if_pos hgot]
  · rw [if_neg (show ¬ g.step ≤ 64 by omega), if_neg (show ¬ g.step ≤ 72 by omega), if_pos hstep]

theorem State.closePair_beam (s : State) (g : GainPair) (st : BitVec 16) (body : List Word) :
    (s.closePair g st body).beam = s.beam := by
  exact (State.closePair_fr s g st body).beam_eq

theorem State.closePair_answered (h : s.mbsWf) (st : BitVec 16) (body : List Word) :
    (s.closePair g st body).answered g.src st := by
  unfold State.closePair
  refine State.respond_answered ((State.unwait_fr ..).mbsWf ?_) ..
  exact (State.permitCheck_fr ..).mbsWf ((State.plateCommit_fr ..).mbsWf (by exact h))

theorem reaches_gainPairEnd (hg : s.meas.gain = some g) (hstep : g.step = 74) (h : s.mbsWf) :
    let pairs := g.first.zip g.out
    let bad := pairs.zipIdx.filterMap fun (p : (Nat × Nat) × Nat) => if gainDiffers p.1.1 p.1.2 then some p.2 else none
    Reaches (exec .gainPairEnd s) fun t => t.meas.gain = none ∧
      (bad = [] → t.answered g.src ST.ok ∧ t.beam =
        s.beam.accept 1 (s.gainParams g).1 (s.gainParams g).2 (pairs.map fun p => (p.1 + p.2 + 1) / 2)) ∧
      (bad ≠ [] → t.answered g.src ST.calDisagree ∧ t.beam = s.beam) := by
  intro pairs bad
  rw [exec_gainPairEnd, execGainPairEnd, hg]
  dsimp only
  rw [if_neg (Classical.not_not.2 hstep)]
  by_cases hbad : bad = []
  · refine reaches_of_next (congrArg _ (if_pos (List.isEmpty_iff.2 hbad))) ?_
    refine ⟨State.closePair_gain .., fun _ => ⟨State.closePair_answered ?_ .., ?_⟩, fun hne => absurd hbad hne⟩
    · exact (State.raiseVia_fr ..).mbsWf (by exact h)
    · rw [State.closePair_beam, State.raiseVia_beam]
      rfl
  · refine reaches_of_next (congrArg _ (if_neg fun he => hbad (List.isEmpty_iff.1 he))) ?_
    refine ⟨State.closePair_gain .., fun he => absurd he hbad, fun _ => ⟨State.closePair_answered ?_ .., ?_⟩⟩
    · exact (State.raiseVia_fr ..).mbsWf h
    · rw [State.closePair_beam, State.raiseVia_beam]
end

/-- Settles O50: the three kinds of step, and the end of the pair. -/
theorem gainLoop : Obligations.GainLoop := fun _ _ hg =>
  ⟨fun hstep hcup => reaches_of_next (exec_gainRunStepComplete_of_pair hg (.inl ⟨hstep, hcup⟩)) (State.gainNext_cup hstep),
    fun hlow hhigh hgot => reaches_of_next (exec_gainRunStepComplete_of_pair hg (.inr (.inl ⟨hlow, hhigh, hgot⟩)))
      (State.gainNext_frame hlow hhigh),
    fun hstep => reaches_of_next (exec_gainRunStepComplete_of_pair hg (.inr (.inr hstep))) (State.gainNext_run hstep),
    fun hstep h => reaches_gainPairEnd hg hstep h⟩

end Sys2Proof.Machine
end

section
/-!
PROOF. Camera ports (R330, R333 to R337, R348): clock, identity, health, transfers and parity, and obligation O46.
-/

namespace Sys2Proof.Machine

/-! ### Where a port stands: present, with a good clock, identified -/

/-- The clock, the identity and the presence of a port. -/
def Cam.standing (c : Cam) : Bool × Bool × Bool × BitVec 32 := (c.present, c.clockOk, c.idSeen, c.khz)

/-- Where the port of a number stands, if there is such a port. -/
def State.camStanding (s : State) (n : Nat) : Option (Bool × Bool × Bool × BitVec 32) :=
  s.cams.cams[n]?.map Cam.standing

section
variable {s : State} {n : Nat}

theorem State.camStanding_of_cams {t : State} (h : t.cams = s.cams) : t.camStanding n = s.camStanding n := by
  rw [State.camStanding, h, State.camStanding]

theorem State.camStanding_of_cam {c : Cam} (hn : n < s.cams.cams.length) (h : s.cam n = c) :
    s.camStanding n = some c.standing := by
  subst h
  simp [State.camStanding, State.cam, hn]

theorem State.cam_standing {x : Bool × Bool × Bool × BitVec 32} (h : s.camStanding n = some x) :
    (s.cam n).standing = x := by
  obtain ⟨c, hc, hx⟩ := Option.map_eq_some_iff.1 h
  rw [State.cam, List.getD_eq_getElem?_getD, hc]
  exact hx

theorem State.of_camStanding {present clockOk idSeen : Bool} {khz : BitVec 32}
    (h : s.camStanding n = some (present, clockOk, idSeen, khz)) :
    (s.cam n).present = present ∧ (s.cam n).clockOk = clockOk ∧ (s.cam n).idSeen = idSeen ∧ (s.cam n).khz = khz := by
  simpa only [Cam.standing, Prod.mk.injEq] using State.cam_standing h

theorem State.onCam_standing {f : Cam → Cam} (h : ∀ c : Cam, (f c).standing = c.standing := by exact fun _ => rfl) :
    (s.onCam n f).camStanding n = s.camStanding n := by
  show ((s.cams.cams.modify n f)[n]?).map _ = _
  rw [List.getElem?_modify_eq, State.camStanding]
  cases s.cams.cams[n]? with
  | none => rfl
  | some c => exact congrArg some (h c)

theorem State.ringPut_standing (ws : List Word) : (s.ringPut n ws).camStanding n = s.camStanding n := by
  induction ws generalizing s with
  | nil => rfl
  | cons w ws ih => exact ih.trans ((State.onCam_standing ..).trans (State.camStanding_of_cams (State.write_fr ..).cams_eq))

theorem State.flushDrops_standing (fuel : Nat) : (s.flushDrops n fuel).camStanding n = s.camStanding n := by
  induction fuel generalizing s with
  | zero => rfl
  | succ fuel ih =>
    unfold State.flushDrops
    split
    · rfl
    · split
      · rfl
      · refine ih.trans ((State.onCam_standing ..).trans ?_)
        split
        · rfl
        · exact State.ringPut_standing _

theorem State.settleCam_standing : (s.settleCam n).camStanding n = s.camStanding n :=
  State.onCam_standing fun c => by split <;> rfl

/-- A frame that is dropped leaves its port where it stands. -/
theorem State.dropFrame_standing (num cause : Nat) : (s.dropFrame n num cause).camStanding n = s.camStanding n := by
  unfold State.dropFrame
  dsimp only
  rw [State.camStanding_of_cams (State.gainRetry_fr ..).cams_eq, State.settleCam_standing, State.flushDrops_standing]
  exact State.onCam_standing

/-- Transfers that are answered leave the port where it stands. -/
theorem State.failXfers_standing : (s.failXfers n).camStanding n = s.camStanding n := by
  unfold State.failXfers
  refine foldl_keeps (P := fun t : State => t.camStanding n = s.camStanding n) (fun t x ht => ?_) _ State.onCam_standing
  rw [State.camStanding_of_cams (State.fail_cams ..), State.camStanding_of_cams (State.unwait_cams ..), ht]

theorem State.camDeparts_standing {present clockOk idSeen : Bool} {khz : BitVec 32}
    (h : s.camStanding n = some (present, clockOk, idSeen, khz)) :
    (s.camDeparts n).camStanding n = some (false, clockOk, idSeen, khz) := by
  unfold State.camDeparts
  rw [State.camStanding_of_cams (State.raise_cams ..), State.failXfers_standing]
  obtain ⟨c, hc, hx⟩ := Option.map_eq_some_iff.1 h
  show ((s.cams.cams.modify n _)[n]?).map _ = _
  rw [List.getElem?_modify_eq, hc]
  obtain ⟨-, htail⟩ := Prod.mk.injEq .. ▸ hx
  exact congrArg (fun x => some (false, x)) htail

/-- A port whose clock is lost departs if it was present. -/
theorem State.clockLost_cam {p : Bool} {khz : BitVec 32} (h : s.camStanding n = some (p, false, false, khz)) :
    let t := if p then s.camDeparts n else s
    (t.cam n).khz = khz ∧ (t.cam n).clockOk = false ∧ (t.cam n).idSeen = false ∧ (t.cam n).present = false := by
  cases p with
  | true =>
    obtain ⟨hpres, hclock, hid, hkhz⟩ := State.of_camStanding (State.camDeparts_standing h)
    exact ⟨hkhz, hclock, hid, hpres⟩
  | false =>
    obtain ⟨hpres, hclock, hid, hkhz⟩ := State.of_camStanding h
    exact ⟨hkhz, hclock, hid, hpres⟩

theorem State.nextXfer_kept (hn : n < s.cams.cams.length) :
    ∃ b, (s.nextXfer n).cam n = { s.cam n with xferOpen := b } := by
  unfold State.nextXfer
  dsimp only
  split
  · exact ⟨true, State.onCam_cam hn _⟩
  · exact ⟨false, State.onCam_cam hn _⟩
end

section
variable {s : State} {cam : BitVec 2} (hn : cam.toNat < s.cams.cams.length)
include hn

/-! ### The clock (R330) -/

theorem reaches_pclkCheck (khz : BitVec 32) :
    let n := cam.toNat
    let c := s.cam n
    let idRead : Output := .i2c n (i2cReg c.cfg c.cfg.idreg.toNat ++ [BitVec.ofNat 8 (2 * c.cfg.i2caddr.toNat + 1)])
    Reaches (exec (.pclkCheck cam khz) s) fun t =>
      if s.due c.pclkAt (cycMs 1) = false then t = s
      else if clockFault c.cfg khz.toNat = false then
        t.cam n = { c with khz := khz, pclkAt := some s.now, clockOk := true } ∧
        (c.present = false → c.clockOk = false → idRead ∈ t.out)
      else (t.cam n).khz = khz ∧ (t.cam n).clockOk = false ∧ (t.cam n).idSeen = false ∧ (t.cam n).present = false := by
  intro n c idRead
  refine reaches_of_next rfl ?_
  cases hdue : s.due (s.cam cam.toNat).pclkAt (cycMs 1) with
  | false =>
    rw [if_pos rfl]
    rfl
  | true =>
    rw [if_neg (show ¬ (!true) = true from Bool.false_ne_true), if_neg (show ¬ true = false from Bool.noConfusion)]
    cases hfault : clockFault (s.cam cam.toNat).cfg khz.toNat with
    | false =>
      rw [if_neg Bool.false_ne_true, if_pos rfl]
      dsimp only
      generalize hu : State.onCam _ _ _ = u
      have hcam : u.cam n = { c with khz := khz, pclkAt := some s.now, clockOk := true } := by
        rw [← hu, State.onCam_cam (by rw [State.onCam_length]; exact hn), State.onCam_cam hn]
      split
      · refine ⟨hcam, fun _ _ => ?_⟩
        have hid : u.readId n = u.emit idRead := by
          unfold State.readId
          rw [hcam]
        rw [hid]
        exact List.mem_append_right _ (List.mem_singleton_self _)
      case isFalse hneg =>
        refine ⟨hcam, fun hpresent hclock => absurd ?_ hneg⟩
        rw [hpresent, hclock]
        rfl
    | true =>
      rw [if_pos rfl, if_neg (show ¬ true = false from Bool.noConfusion)]
      dsimp only
      generalize hu : State.onCam _ _ _ = u
      have hcam : u.cam n = { c with khz := khz, pclkAt := some s.now, clockOk := false, idSeen := false } := by
        rw [← hu, State.onCam_cam (by rw [State.onCam_length]; exact hn), State.onCam_cam hn]
      have hlen : n < u.cams.cams.length := by
        rw [← hu, State.onCam_length, State.onCam_length]
        exact hn
      cases hcur : (s.cam cam.toNat).current with
      | none => exact State.clockLost_cam (State.camStanding_of_cam hlen hcam)
      | some f => exact State.clockLost_cam ((State.dropFrame_standing ..).trans (State.camStanding_of_cam hlen hcam))

/-! ### Health polls and the identity (R334) -/

theorem reaches_camHealthPoll (hpresent : (s.cam cam.toNat).present = true) (hblank : (s.cam cam.toNat).inFrame = false)
    (ack : Bool) :
    let n := cam.toNat
    let c := s.cam n
    let idRead : Output := .i2c n (i2cReg c.cfg c.cfg.idreg.toNat ++ [BitVec.ofNat 8 (2 * c.cfg.i2caddr.toNat + 1)])
    Reaches (exec (.camHealthPoll cam ack) s) fun t =>
      if s.due c.pollAt (cycS 1) = false then t = s
      else if ack = true ∨ c.healthBad + 1 < 3 then
        t.cam n = { c with pollAt := some s.now, healthBad := if ack then 0 else c.healthBad + 1 } ∧ idRead ∈ t.out
      else (t.cam n).present = false ∧ (t.cam n).clockOk = false := by
  intro n c idRead
  refine reaches_of_next rfl ?_
  cases hdue : s.due (s.cam cam.toNat).pollAt (cycS 1) with
  | false =>
    rw [if_pos rfl, if_pos (by rw [Bool.not_false, Bool.or_true])]
  | true =>
    rw [if_neg (show ¬ true = false from Bool.noConfusion),
      if_neg (show ¬ (!(s.cam cam.toNat).present || (s.cam cam.toNat).inFrame || !true) = true by
        rw [hpresent, hblank]; exact Bool.false_ne_true)]
    dsimp only
    generalize hu : State.onCam _ _ _ = u
    have hcam : u.cam n = { c with pollAt := some s.now, healthBad := if ack then 0 else c.healthBad + 1 } := by
      rw [← hu]
      exact State.onCam_cam (s := s.readId n) hn _
    by_cases hgood : ack = true ∨ c.healthBad + 1 < 3
    · rw [if_pos hgood, if_pos (by rwa [Bool.or_eq_true, decide_eq_true_eq])]
      refine ⟨hcam, ?_⟩
      rw [← hu]
      exact List.mem_append_right _ (List.mem_singleton_self _)
    · rw [if_neg hgood, if_neg (by rwa [Bool.or_eq_true, decide_eq_true_eq])]
      have hlen : n < u.cams.cams.length := by
        rw [← hu, State.onCam_length]
        exact hn
      have hstand : (u.onCam n fun c => { c with idSeen := false, clockOk := false }).camStanding n =
          some ((u.cam n).present, false, false, (u.cam n).khz) :=
        State.camStanding_of_cam (by rw [State.onCam_length]; exact hlen) (State.onCam_cam hlen _)
      obtain ⟨hpres, hclock, -⟩ := State.of_camStanding (State.camDeparts_standing hstand)
      exact ⟨hpres, hclock⟩

theorem reaches_i2cIdRead (data : List Byte) (habsent : (s.cam cam.toNat).present = false)
    (hclock : (s.cam cam.toNat).clockOk = true) (hnew : (s.cam cam.toNat).idSeen = false) :
    let n := cam.toNat
    let c := s.cam n
    let id := idOf (data.take (c.cfg.idlen.toNat + 1))
    Reaches (exec (.i2cTransferComplete cam true data) s) fun t => (t.cam n).idSeen = true ∧
      ((t.cam n).present = true ↔ c.cfg.idval = 0 ∨ c.cfg.idval.toNat = id) := by
  intro n c id
  refine reaches_of_next rfl ?_
  rw [habsent, hclock, hnew, if_pos Bool.not_false, if_pos (show (true && !false) = true from rfl)]
  unfold State.idRead
  dsimp only
  rw [if_neg (show ¬ (!true) = true from Bool.false_ne_true)]
  have hseen := State.onCam_cam hn fun c => { c with idSeen := true }
  by_cases hid : c.cfg.idval = 0 ∨ c.cfg.idval.toNat = id
  · rw [if_pos hid]
    unfold State.camArrives
    rw [State.raise_cam, State.onCam_cam (by rw [State.onCam_length]; exact hn), hseen]
    exact ⟨rfl, fun _ => hid, fun _ => rfl⟩
  · rw [if_neg hid, State.raise_cam, hseen]
    exact ⟨rfl, fun h => absurd (habsent.symm.trans h) Bool.false_ne_true, fun h => absurd h hid⟩

/-! ### Transfers (R336, R337) -/

theorem reaches_i2cSlotSent {p : SettingsSlot × BitVec 32 × Nat} (data : List Byte)
    (hpresent : (s.cam cam.toNat).present = true) (hflight : (s.cam cam.toNat).flight = some p) :
    let n := cam.toNat
    let c := s.cam n
    Reaches (exec (.i2cTransferComplete cam true data) s) fun t => (t.cam n).flight = none ∧ (t.cam n).genSent = p.2.1 ∧
      (t.cam n).genQueue = c.genQueue ++
        [(if c.sendFrame < c.frames then c.sendFrame + 2 + c.cfg.lat.toNat else c.sendFrame + 1 + c.cfg.lat.toNat,
          p.2.1)] := by
  intro n c
  refine reaches_of_next rfl ?_
  rw [hpresent, hflight, if_neg (show ¬ (!true) = true from Bool.false_ne_true)]
  unfold State.slotSent
  dsimp only
  rw [if_pos rfl]
  generalize hu : State.onCam s _ _ = u
  generalize hv : (if decide (c.sendFrame < c.frames) = true then _ else _ : State) = v
  have hcam : v.cam n = u.cam n ∧ v.cams.cams.length = u.cams.cams.length := by
    rw [← hv]
    split
    · exact ⟨State.raise_cam .., by rw [State.raise_cams]⟩
    · exact ⟨rfl, rfl⟩
  have hlen : n < v.cams.cams.length := by
    rw [hcam.2, ← hu, State.onCam_length]
    exact hn
  obtain ⟨b, hnext⟩ := State.nextXfer_kept hlen
  rw [hnext, hcam.1, ← hu, State.onCam_cam hn]
  refine ⟨rfl, rfl, ?_⟩
  simp only [decide_eq_true_eq]
  have hlate : c.sendFrame + 1 + c.cfg.lat.toNat + 1 = c.sendFrame + 2 + c.cfg.lat.toNat := by omega
  rw [← hlate]

theorem reaches_i2cXferDone {x : I2cXfer} {xs : List I2cXfer} (ack : Bool) (data : List Byte) (h : s.mbsWf)
    (hpresent : (s.cam cam.toNat).present = true) (hflight : (s.cam cam.toNat).flight = none)
    (hopen : (s.cam cam.toNat).xferOpen = true) (hxs : (s.cam cam.toNat).xfers = x :: xs) :
    Reaches (exec (.i2cTransferComplete cam ack data) s) fun t =>
      t.answered x.src (if ack then ST.ok else ST.camI2c) ∧ (t.cam cam.toNat).xfers = xs := by
  refine reaches_of_next rfl ?_
  rw [hpresent, hflight, hopen, hxs, if_neg (show ¬ (!true) = true from Bool.false_ne_true), if_pos rfl]
  unfold State.xferDone
  dsimp only
  generalize hu : State.unwait _ _ = u
  have hwf : u.mbsWf := by
    rw [← hu]
    exact (State.unwait_fr ..).mbsWf (by exact h)
  have hxfers : (u.cam cam.toNat).xfers = xs := by
    rw [← hu, State.cam_of_cams (State.unwait_cams ..), State.onCam_cam hn, hxs]
    rfl
  have hlen : cam.toNat < u.cams.cams.length := by
    rw [← hu, State.unwait_cams, State.onCam_length]
    exact hn
  cases ack with
  | true =>
    rw [if_pos rfl, if_pos rfl]
    refine ⟨(State.nextXfer_fr ..).answered (State.ok_answered hwf ..), ?_⟩
    rw [State.nextXfer_xfers (by rw [State.ok_cams]; exact hlen), State.ok_cam, hxfers]
  | false =>
    rw [if_neg Bool.false_ne_true, if_neg Bool.false_ne_true]
    refine ⟨(State.nextXfer_fr ..).answered (State.fail_answered hwf ..), ?_⟩
    rw [State.nextXfer_xfers (by rw [State.fail_cams]; exact hlen), State.cam_of_cams (State.fail_cams ..), hxfers]

/-! ### Parity (R348) -/

omit hn in
theorem outputLane_camUnit (unit : BitVec 2) : outputLane (nodeR 10 1 unit.toNat) = false := by
  revert unit
  decide

theorem reaches_camParityError {unit : BitVec 2} (hunit : unit.toNat < 3) :
    Reaches (exec (.camParityError cam unit) s) fun t =>
      (t.rstate (nodeR 10 1 unit.toNat) = .quarantined ∨ t.rstate (nodeR 10 1 unit.toNat) = .failed) ∧
      (((s.cam cam.toNat).work.find? (·.drop.isNone)).isSome = true →
        (t.cam cam.toNat).lastDrop = 7 ∧ (t.cam cam.toNat).drops = satInc 64 (s.cam cam.toNat).drops) := by
  rw [exec_camParityError, execCamParityError]
  dsimp only
  rw [if_neg (Nat.not_le.2 hunit)]
  refine reaches_of_next rfl ?_
  rw [(State.fault_fr ..).rstate_eq, (State.fault_fr ..).cam_eq (by decide), (State.unitFault_fr ..).cam_eq (by decide)]
  refine ⟨State.unitFault_rstate _ (outputLane_camUnit unit), fun hwork => ?_⟩
  obtain ⟨f, hf⟩ := Option.isSome_iff_exists.1 hwork
  rw [hf]
  exact State.dropFrame_counts hn f.num 7
end

/-- Settles O46: one faulty reading of the clock makes a port depart (log entry 27), and a check acts once per period
(log entry 62). -/
theorem cameraPorts : Obligations.CameraPorts := fun _ _ hn =>
  ⟨reaches_pclkCheck hn, reaches_camHealthPoll hn, reaches_i2cIdRead hn, fun _ => reaches_i2cSlotSent hn,
    fun _ _ => reaches_i2cXferDone hn, fun _ => reaches_camParityError hn⟩

end Sys2Proof.Machine
end

section
/-!
PROOF. The REPAIR commands (R22, R429 to R432, Table 17-14), obligation O26.
-/

namespace Sys2Proof.Machine

-- Many proofs here are the first to unfold their functions of the model, and side by side each would hold a thread.
set_option Elab.async false

section
variable {s : State} {r : BitVec 32}

/-! ### Repair records -/

theorem State.repairRec_of_repair {t : State} (h : t.repair = s.repair) (n : BitVec 32) : t.repairRec n = s.repairRec n := by
  unfold State.repairRec
  rw [h]

theorem find_map_node_ne {xs : List RepairRec} {n : BitVec 32} {f : RepairRec → RepairRec} (hn : n ≠ r)
    (hf : ∀ x, (f x).node = x.node) :
    (xs.map fun x => if x.node = r then f x else x).find? (·.node == n) = xs.find? (·.node == n) := by
  induction xs with
  | nil => rfl
  | cons x xs ih =>
    by_cases hx : x.node = r
    · simp [hx, hf, hn.symm, ih]
    · rw [List.map_cons, if_neg hx, List.find?_cons, List.find?_cons, ih]

/-- The update of one record leaves those of the other instances. -/
theorem State.repairRec_onRepairRec_ne {n : BitVec 32} (hn : n ≠ r) {f : RepairRec → RepairRec}
    (hf : ∀ x, (f x).node = x.node := by exact fun _ => rfl) : (s.onRepairRec r f).repairRec n = s.repairRec n := by
  unfold State.onRepairRec State.repairRec
  rw [State.onRepair_repair]
  split
  · exact find_map_node_ne hn hf
  · rw [List.find?_append, List.find?_cons, hf, beq_eq_false_iff_ne.2 hn.symm]
    exact Option.or_none

/-- An update of a record that keeps its state changes no repair state. -/
theorem State.rstate_onRepairRec_kept {f : RepairRec → RepairRec} (hf : ∀ x, (f x).node = x.node := by exact fun _ => rfl)
    (hst : ∀ x, (f x).st = x.st := by exact fun _ => rfl) (n : BitVec 32) : (s.onRepairRec r f).rstate n = s.rstate n := by
  by_cases hn : n = r
  · subst hn
    unfold State.rstate
    rw [State.repairRec_onRepairRec s n f hf]
    cases s.repairRec n with
    | some x =>
      dsimp only [Option.getD_some]
      rw [hst]
      rfl
    | none =>
      dsimp only [Option.getD_none]
      rw [hst]
      cases factorySpare n <;> rfl
  · unfold State.rstate
    rw [State.repairRec_onRepairRec_ne hn hf]
    rfl

/-- The repair state of an instance that is no output lane stands in its record. -/
theorem State.rstate_of_repair_only {t : State} (hr : outputLane r = false) (h : t.repair = s.repair) :
    t.rstate r = s.rstate r := by
  unfold State.rstate
  rw [hr, State.repairRec_of_repair h]
  rfl

/-! ### Nodes -/

theorem repairNode_exists {node : BitVec 32} (h : repairNode node = some r) :
    nodeTree r = true ∧ instanceExists (nodeI1 r) (nodeI2 r) (nodeI3 r) = true := by
  unfold repairNode at h
  split at h
  · unfold instanceOf at h
    dsimp only at h
    split at h
    · cases h
    · generalize (if nodeTree node = true then node else _) = x at h
      rw [Option.ite_none_right_eq_some, Bool.and_eq_true, Option.some.injEq] at h
      exact h.2 ▸ h.1
  · cases h

theorem outputLane_iff (htree : nodeTree r = true) : outputLane r = true ↔ nodeI1 r = 5 ∧ nodeI2 r = 0 := by
  unfold outputLane
  unfold nodeTree at htree
  rw [htree, Bool.and_true, Bool.and_eq_true, beq_iff_eq, beq_iff_eq]
  rfl

/-- An output lane is one of 68. -/
theorem outputLane_lane (h : instanceExists (nodeI1 r) (nodeI2 r) (nodeI3 r) = true) (h1 : nodeI1 r = 5)
    (h2 : nodeI2 r = 0) : nodeI3 r < 68 := by
  rw [h1, h2] at h
  exact of_decide_eq_true h

/-! ### REPAIR.QUERY and REPAIR.POLICY -/

theorem reaches_repairQuery {src : Src} {node : BitVec 32} (h : s.mbsWf) (hnode : nodeExists node = true) :
    let n := (nodePairs node).length
    Reaches (exec (.repairQuery src node none) s) fun t => t.repair = s.repair ∧ t.mem = s.mem ∧
      if nodeDepth node = 3 ∨ n ≤ 126 then t.answered src ST.ok else t.answered src ST.sysBuffer := by
  refine reaches_command rfl (firstFail_cons rfl |>.trans (firstFail_cons hnode)) ?_
  dsimp only
  by_cases hdepth : nodeDepth node = 3
  · rw [if_pos hdepth, if_pos (Or.inl hdepth)]
    exact ⟨State.ok_repair .., State.ok_mem .., State.ok_answered h ..⟩
  · rw [if_neg hdepth]
    by_cases hlen : (nodePairs node).length ≤ 126
    · rw [if_pos hlen, if_pos (Or.inr hlen)]
      exact ⟨State.ok_repair .., State.ok_mem .., State.ok_answered h ..⟩
    · rw [if_neg hlen, if_neg (by rw [not_or]; exact ⟨hdepth, hlen⟩)]
      exact ⟨State.respond_repair .., State.respond_mem .., State.respond_answered h ..⟩

theorem reaches_repairQuery_buf {src : Src} {node : BitVec 32} {buf : BufRef} (h : s.mbsWf)
    (hnode : nodeExists node = true) (hbuf : outBuf buf 0 = true) :
    let n := (nodePairs node).length
    Reaches (exec (.repairQuery src node (some buf)) s) fun t => t.repair = s.repair ∧
      if 16 * n ≤ buf.len.toNat then t.answered src ST.ok else t.answered src ST.sysBuffer ∧ t.mem = s.mem := by
  refine reaches_command rfl ((firstFail_cons hbuf).trans (firstFail_cons hnode)) ?_
  dsimp only [State.sized]
  by_cases hlen : 16 * (nodePairs node).length ≤ buf.len.toNat
  · rw [if_pos hlen, if_pos hlen]
    exact ⟨(State.ok_repair ..).trans (State.write_fr ..).repair_eq,
      State.ok_answered ((State.write_fr ..).mbsWf h) ..⟩
  · rw [if_neg hlen, if_neg hlen]
    exact ⟨State.respond_repair .., State.respond_answered h .., State.respond_mem ..⟩

theorem reaches_repairPolicy {src : Src} {manual : Bool} (h : s.mbsWf) :
    Reaches (exec (.repairPolicy src manual) s) fun t =>
      t.answered src ST.ok ∧ t.repair = { s.repair with manual := manual } :=
  reaches_of_next rfl ⟨State.ok_answered (by exact h) .., State.ok_repair ..⟩

/-! ### REPAIR.SPARE -/

theorem State.freeSpare_of_rstate {t : State} (h : ∀ n, t.rstate n = s.rstate n) : t.freeSpare r = s.freeSpare r := by
  unfold State.freeSpare
  simp only [h]

theorem State.freeSpare_spare {c : BitVec 32} (h : s.freeSpare r = some c) :
    s.rstate c = .spare ∧ ∃ n ∈ spareRange (nodeI1 r) (nodeI2 r), c = nodeR (nodeI1 r) (nodeI2 r) n := by
  obtain ⟨n, hn, hc⟩ := List.exists_of_findSome?_eq_some h
  dsimp only at hc
  split at hc
  case isTrue hst =>
    rw [Option.some.injEq] at hc
    exact ⟨hc ▸ hst, n, hn, hc.symm⟩
  · cases hc

theorem outputLane_sector : ∀ k < 64, outputLane (nodeR 11 1 (k + 960)) = false := by decide

/-- The spare of a sector of the non-volatile store is a sector. -/
theorem outputLane_spareSector {i2 n : Nat} (h : n ∈ spareRange 11 i2) : outputLane (nodeR 11 i2 n) = false := by
  unfold spareRange at h
  split at h
  case h_10 =>
    obtain ⟨k, hk, rfl⟩ := List.mem_map.1 h
    exact outputLane_sector k (List.mem_range.1 hk)
  case h_11 => cases h
  all_goals omega

/-- A spare sector takes the place of the one it is given for (R431). -/
theorem State.assignSpare_sector {c : BitVec 32} (hc : s.freeSpare r = some c) (hr : s.rstate r ≠ .spare)
    (hsector : nodeI1 r = 11) :
    (s.assignSpare r).rstate c = .inService ∧ ((s.assignSpare r).repairRec r).map (·.by_) = some (some c) := by
  obtain ⟨hspare, n, hn, hcn⟩ := State.freeSpare_spare hc
  have hlane : outputLane c = false := by
    rw [hcn, hsector]
    exact outputLane_spareSector (hsector ▸ hn)
  have hne : r ≠ c := fun e => hr (e ▸ hspare)
  unfold State.assignSpare
  rw [hc]
  dsimp only
  rw [State.rstate_of_repair (State.raise_repair ..) (State.raise_link ..), State.repairRec_of_repair (State.raise_repair ..)]
  refine ⟨State.rstate_record _ c _ _ (fun _ => rfl) (fun _ => rfl) hlane, ?_⟩
  have hrec := State.repairRec_onRepairRec s r
    (fun x => { x with st := if x.st = .failed then .failed else .retired, by_ := some c, manualSpare := false }) fun _ => rfl
  rw [State.repairRec_onRepairRec_ne hne, hrec]
  rfl

/-- Where REPAIR.SPARE may be given, the instance is no spare itself. -/
inductive State.MaySpare (s : State) (r : BitVec 32) : Prop
  | quarantined : s.rstate r = .quarantined → s.MaySpare r
  | suspect : s.rstate r = .suspect → s.MaySpare r
  | failed : s.rstate r = .failed → s.MaySpare r
  | carrier : nodeI1 r = 5 → nodeI2 r = 0 → s.rstate r = .retired → some (nodeI3 r) ∈ s.link.map → s.MaySpare r

theorem State.maySpare_of (h : s.rstate r = .quarantined ∨ s.rstate r = .suspect ∨ s.rstate r = .failed ∨
    nodeI1 r = 5 ∧ nodeI2 r = 0 ∧ s.rstate r = .retired ∧ some (nodeI3 r) ∈ s.link.map) : s.MaySpare r := by
  rcases h with h | h | h | ⟨h1, h2, h, hmap⟩
  · exact .quarantined h
  · exact .suspect h
  · exact .failed h
  · exact .carrier h1 h2 h hmap

theorem State.maySpare_ne_spare (h : s.MaySpare r) : s.rstate r ≠ .spare := by
  rcases h with h | h | h | ⟨-, -, h, -⟩ <;> rw [h] <;> decide

theorem State.maySpare_pre (h : s.MaySpare r) :
    (s.rstate r == .quarantined || s.rstate r == .suspect || s.rstate r == .failed ||
      (decide (nodeI1 r = 5 ∧ nodeI2 r = 0) && s.rstate r == .retired && s.link.map.contains (some (nodeI3 r)))) = true := by
  rcases h with h | h | h | ⟨h1, h2, h, hmap⟩
  · rw [h]; rfl
  · rw [h]; rfl
  · rw [h]; rfl
  · rw [h, decide_eq_true ⟨h1, h2⟩, List.contains_iff_mem.2 hmap]
    rfl

theorem reaches_repairSpare {src : Src} {node c : BitVec 32} (h : s.mbsWf) (hnode : repairNode node = some r)
    (hchan : memChannel r = none) (hmay : s.MaySpare r) (hfree : s.freeSpare r = some c) :
    Reaches (exec (.repairSpare src node) s) fun t => t.answered src ST.ok ∧
      if nodeI1 r = 11 then t.rstate c = .inService ∧ (t.repairRec r).map (·.by_) = some (some c)
      else (t.repairRec r).map (·.manualSpare) = some true := by
  rw [exec_repairSpare, execRepairSpare, hnode]
  dsimp only
  rw [hchan]
  refine reaches_command rfl ((firstFail_cons (State.maySpare_pre hmay)).trans (firstFail_cons (by rw [hfree]; rfl))) ?_
  have hkept := State.rstate_onRepairRec_kept (s := s) (r := r) (f := fun x => { x with manualSpare := true })
  have hrec := State.repairRec_onRepairRec s r (fun x => { x with manualSpare := true }) fun _ => rfl
  have hwf := (State.onRepairRec_fr s r fun x => { x with manualSpare := true }).mbsWf h
  generalize State.onRepairRec s r _ = u at hkept hrec hwf ⊢
  by_cases hsector : nodeI1 r = 11
  · rw [if_pos hsector, if_pos hsector]
    refine ⟨State.respond_answered ((State.assignSpare_fr ..).mbsWf hwf) .., ?_⟩
    rw [State.rstate_of_repair (State.respond_repair ..) (State.respond_link ..),
      State.repairRec_of_repair (State.respond_repair ..)]
    exact State.assignSpare_sector ((State.freeSpare_of_rstate hkept).trans hfree)
      (by rw [hkept]; exact State.maySpare_ne_spare hmay) hsector
  · rw [if_neg hsector, if_neg hsector]
    refine ⟨State.respond_answered hwf .., ?_⟩
    rw [State.repairRec_of_repair (State.respond_repair ..), hrec]
    rfl

theorem State.respond_mc (src : Src) (st : BitVec 16) (d : Nat) (g : Bool) (b : List Word) :
    (s.respond src st d g b).mc = s.mc := by
  unfold State.respond State.msix
  dsimp only
  split <;> rfl

theorem reaches_repairSpare_channel {src : Src} {node : BitVec 32} {k : Stack} {n : Nat} (h : s.mbsWf)
    (hnode : repairNode node = some r) (hchan : memChannel r = some (k, n))
    (hmay : s.rstate r = .quarantined ∨ s.rstate r = .suspect ∨ s.rstate r = .failed) :
    Reaches (exec (.repairSpare src node) s) fun t => t.answered src ST.ok ∧ t.mc = (s.startRetire k n).mc := by
  have hmay' : s.MaySpare r := State.maySpare_of (hmay.imp_right fun h => h.imp_right Or.inl)
  rw [exec_repairSpare, execRepairSpare, hnode]
  dsimp only
  rw [hchan]
  exact reaches_command rfl (firstFail_cons (State.maySpare_pre hmay'))
    ⟨State.respond_answered ((State.startRetire_fr ..).mbsWf h) .., State.respond_mc ..⟩

/-! ### REPAIR.RETURN -/

/-- A reset of one unit changes the records of the repair manager by its self-test alone. -/
theorem State.unitReset_repair (s : State) (r : BitVec 32) (cmd pass : Bool) :
    (s.unitReset r cmd pass).repair = (s.onRepairRec r (·.tested cmd pass)).repair := by
  unfold State.unitReset
  dsimp only
  generalize hu : (if nodeI1 r = 2 ∧ nodeI2 r = 4 then s.resetHistory else s) = u
  have hfr : Fr [.queues, .jobs, .render, .land, .play, .beam, .log, .out] s u := by
    rw [← hu]
    exact Fr.ite (State.resetHistory_fr s) (Fr.refl ..)
  have hrec : (u.onRepairRec r (·.tested cmd pass)).repair = (s.onRepairRec r (·.tested cmd pass)).repair := by
    unfold State.onRepairRec
    rw [State.onRepair_repair, State.onRepair_repair, hfr.repair_eq]
  rw [← hrec, ← (State.laneReturn_fr (u.onRepairRec r (·.tested cmd pass)) r cmd pass).repair_eq]
  split <;> rfl

theorem RepairRec.tested_return {x : RepairRec} (h : x.st = .quarantined ∨ x.st = .retired) (pass : Bool) :
    (x.tested true pass).st = if pass then (if x.st = .quarantined then .inService else .spare)
      else if x.st = .retired then .retired else if sparedNode x.node then .quarantined else .failed := by
  unfold RepairRec.tested
  rcases h with h | h <;> rw [h] <;> cases pass <;> rfl

theorem State.repairRec_of_rstate (hlane : outputLane r = false)
    (h : s.rstate r = .quarantined ∨ s.rstate r = .retired) : ∃ x, s.repairRec r = some x ∧ x.st = s.rstate r := by
  unfold State.rstate at h ⊢
  rw [hlane, if_neg Bool.false_ne_true] at h ⊢
  cases hx : s.repairRec r with
  | some x => exact ⟨x, rfl, rfl⟩
  | none =>
    rw [hx] at h
    dsimp only at h
    cases hspare : factorySpare r <;> rw [hspare] at h <;> exact absurd h (by decide)

theorem State.rstate_unitReset_return (hlane : outputLane r = false)
    (hst : s.rstate r = .quarantined ∨ s.rstate r = .retired) (pass : Bool) :
    (s.unitReset r true pass).rstate r = if pass then (if s.rstate r = .quarantined then .inService else .spare)
      else if s.rstate r = .retired then .retired else if sparedNode r then .quarantined else .failed := by
  obtain ⟨x, hx, hxst⟩ := State.repairRec_of_rstate hlane hst
  have hxr : x.node = r := by simpa using List.find?_some hx
  rw [State.rstate_of_repair_only hlane (State.unitReset_repair ..),
    State.rstate_onRepairRec s r (·.tested true pass) (fun _ => rfl) hlane, hx, Option.getD_some,
    RepairRec.tested_return (by rwa [hxst]), hxst, hxr]

theorem execRepairReturn_passes {src : Src} {node : BitVec 32} (hnode : repairNode node = some r) (hidle : s.active? = none)
    (hst : s.rstate r = .quarantined ∨ s.rstate r = .retired) : exec (.repairReturn src node) s =
      .next (if Config.selfTest r s.fresh then (s.unitReset r true (Config.selfTest r s.fresh)).draw.ok src []
        else (s.unitReset r true (Config.selfTest r s.fresh)).draw.fail src ST.repairSelftest) := by
  rw [exec_repairReturn, execRepairReturn, hnode]
  dsimp only
  have hmay : (s.rstate r == .quarantined || s.rstate r == .retired) = true := by
    rcases hst with h | h <;> rw [h] <;> rfl
  rw [State.command_pass ((firstFail_cons hmay).trans (firstFail_cons (by rw [hidle]; rfl)))]

theorem reaches_repairReturn {src : Src} {node : BitVec 32} (h : s.mbsWf) (hnode : repairNode node = some r)
    (hidle : s.active? = none) (hst : s.rstate r = .quarantined ∨ s.rstate r = .retired) (hlane : outputLane r = false) :
    Reaches (exec (.repairReturn src node) s) fun t =>
      if Config.selfTest r s.fresh then t.answered src ST.ok ∧
        t.rstate r = (if s.rstate r = .quarantined then .inService else .spare)
      else t.answered src ST.repairSelftest ∧ t.rstate r =
        (if s.rstate r = .retired then .retired else if sparedNode r then .quarantined else .failed) := by
  refine reaches_of_next (execRepairReturn_passes hnode hidle hst) ?_
  have htest := State.rstate_unitReset_return hlane hst (Config.selfTest r s.fresh)
  have hwf := (State.unitReset_fr s r true (Config.selfTest r s.fresh)).mbsWf h
  generalize State.unitReset s r true _ = u at htest hwf ⊢
  cases hpass : Config.selfTest r s.fresh with
  | true =>
    rw [hpass] at htest
    exact ⟨State.ok_answered (by exact hwf) .., (State.rstate_ok ..).trans htest⟩
  | false =>
    rw [hpass] at htest
    exact ⟨State.fail_answered (by exact hwf) ..,
      (State.rstate_of_repair (State.fail_repair ..) (State.fail_link ..) r).trans htest⟩

/-- A lane whose own state makes it retired. -/
theorem State.lane_retired (hlane : outputLane r = true) (h : s.rstate r = .retired) :
    (s.link.lane (nodeI3 r)).st = .retired := by
  have hown : s.link.laneRState (nodeI3 r) = .retired := by
    unfold State.rstate at h
    rw [hlane, if_pos rfl] at h
    split at h
    · split at h
      · cases h
      · exact h
    · exact h
  unfold Link.laneRState at hown
  show (s.link.lanes.getD (nodeI3 r) Lane.reset).st = .retired
  split at hown
  case h_3 hst => exact hst
  case h_6 => split at hown <;> cases hown
  all_goals cases hown

theorem State.unitReset_lane (h1 : nodeI1 r = 5) (pass : Bool) :
    (s.unitReset r true pass).link = ((s.onRepairRec r (·.tested true pass)).laneReturn r true pass).link := by
  have hcanopy : r ≠ nodeR 1 1 0 := fun e => by
    rw [e] at h1
    exact absurd h1 (by decide)
  unfold State.unitReset
  dsimp only
  rw [if_neg (fun h : nodeI1 r = 2 ∧ nodeI2 r = 4 => by omega), if_neg fun h => hcanopy h.1]

theorem reaches_repairReturn_lane {src : Src} {node : BitVec 32} (h : s.mbsWf) (hnode : repairNode node = some r)
    (hidle : s.active? = none) (hlane : outputLane r = true) (hst : s.rstate r = .retired)
    (hlen : s.link.lanes.length = 68) :
    let x := s.link.lane (nodeI3 r)
    Reaches (exec (.repairReturn src node) s) fun t =>
      if Config.selfTest r s.fresh then t.answered src ST.ok ∧ t.link.lane (nodeI3 r) = { x with
        st := if x.ident.isSome = true ∧ s.link.retUp (nodeI3 r) = true then .spare else .down
        fails := 0
        step := 0 }
      else t.answered src ST.repairSelftest ∧ t.link.lane (nodeI3 r) = x := by
  intro x
  obtain ⟨htree, hex⟩ := repairNode_exists hnode
  obtain ⟨h1, h2⟩ := (outputLane_iff htree).1 hlane
  have hn : nodeI3 r < s.link.lanes.length := hlen ▸ outputLane_lane hex h1 h2
  refine reaches_of_next (execRepairReturn_passes hnode hidle (Or.inr hst)) ?_
  have hold : ((s.onRepairRec r (·.tested true (Config.selfTest r s.fresh))).link.lane (nodeI3 r)).st = .retired :=
    (State.lane_retired (s := s) hlane hst :)
  have hwf := (State.unitReset_fr s r true (Config.selfTest r s.fresh)).mbsWf h
  have hlink := State.unitReset_lane (s := s) h1 (Config.selfTest r s.fresh)
  unfold State.laneReturn at hlink
  dsimp only at hlink
  generalize State.unitReset s r true _ = u at hlink hwf ⊢
  cases hpass : Config.selfTest r s.fresh with
  | true =>
    rw [hpass, if_pos ⟨h1, h2, rfl, rfl, hpass ▸ hold⟩] at hlink
    rw [if_pos rfl, if_pos rfl]
    refine ⟨State.ok_answered (by exact hwf) .., ?_⟩
    rw [State.ok_link]
    show u.link.lane _ = _
    rw [hlink, State.onLane_lane (by exact hn)]
    simp only [Bool.and_eq_true]
    rfl
  | false =>
    rw [hpass, if_neg fun hc => Bool.false_ne_true hc.2.2.2.1] at hlink
    rw [if_neg Bool.false_ne_true, if_neg Bool.false_ne_true]
    refine ⟨State.fail_answered (by exact hwf) .., ?_⟩
    rw [State.fail_link]
    show u.link.lane _ = _
    rw [hlink]
    rfl

/-! ### REPAIR.DISABLE -/

/-- A unit that Table 17-7 does not list stops at once. -/
theorem State.stopUnit_unlisted (h : (nodeI1 r, nodeI2 r) ∉ [(1, 2), (1, 4), (2, 0), (7, 1), (10, 0)]) (abort : Bool) :
    s.stopUnit r abort = s ∧ s.unitStopped r = true := by
  simp only [List.mem_cons, Prod.mk.injEq, List.not_mem_nil, or_false, not_or] at h
  obtain ⟨h12, h14, h20, h71, h100⟩ := h
  constructor
  · unfold State.stopUnit
    split
    case h_1 e1 e2 => exact absurd ⟨e1, e2⟩ h71
    case h_2 e1 e2 => exact absurd ⟨e1, e2⟩ h100
    case h_3 e1 e2 => exact absurd ⟨e1, e2⟩ h12
    · rfl
  · unfold State.unitStopped
    split
    case h_1 e1 e2 => exact absurd ⟨e1, e2⟩ h71
    case h_2 e1 e2 => exact absurd ⟨e1, e2⟩ h100
    case h_3 e1 e2 => exact absurd ⟨e1, e2⟩ h14
    case h_4 e1 e2 => exact absurd ⟨e1, e2⟩ h20
    · rfl

theorem reaches_repairDisable {src : Src} {node : BitVec 32} {abort : Bool} (h : s.mbsWf)
    (hnode : repairNode node = some r) (hst : s.rstate r = .inService)
    (hunit : (nodeI1 r, nodeI2 r) ∉ [(1, 2), (1, 4), (2, 0), (7, 1), (10, 0)]) :
    Reaches (exec (.repairDisable src node abort) s) fun t => t.answered src ST.ok ∧ t.rstate r = .quarantined := by
  obtain ⟨hstop, hstopped⟩ := State.stopUnit_unlisted (s := s) hunit abort
  have hlane : ((nodeI1 r == 1 && nodeI2 r == 4) || (nodeI1 r == 2 && nodeI2 r == 0)) = false := by
    simp only [List.mem_cons, Prod.mk.injEq, List.not_mem_nil, or_false, not_or] at hunit
    simpa using And.intro (not_and.1 hunit.2.1) (not_and.1 hunit.2.2.1)
  rw [exec_repairDisable, execRepairDisable, hnode]
  dsimp only
  refine reaches_command rfl (firstFail_cons (by rw [hst]; rfl)) ?_
  rw [hlane, if_neg Bool.false_ne_true, hstop, if_pos hstopped]
  unfold State.quarantineBy
  rw [if_pos hst]
  refine ⟨State.ok_answered ((State.raiseVia_fr ..).mbsWf ((State.setRState_fr ..).mbsWf h)) .., ?_⟩
  rw [State.rstate_ok, State.rstate_of_repair (State.raiseVia_repair ..) (State.raiseVia_link ..)]
  exact State.rstate_quarantined s r _ (fun _ => rfl) fun _ => rfl
end

/-- Settles O26: the answer without a buffer rests on log entry 31, the return of an instance to the spares on log
entry 72. -/
theorem repairCommands : Obligations.RepairCommands :=
  ⟨fun _ _ _ h hnode => ⟨reaches_repairQuery h hnode, fun _ => reaches_repairQuery_buf h hnode⟩,
    fun _ _ _ => reaches_repairPolicy, fun _ _ _ _ _ h hnode hchan hmay => reaches_repairSpare h hnode hchan (State.maySpare_of hmay),
    fun _ _ _ _ _ _ h hnode => reaches_repairSpare_channel h hnode, fun _ _ _ _ h hnode => reaches_repairReturn h hnode,
    fun _ _ _ _ h hnode => reaches_repairReturn_lane h hnode, fun _ _ _ _ _ h hnode => reaches_repairDisable h hnode⟩

end Sys2Proof.Machine
end

section
/-!
PROOF. The CODEC and TRACE commands (R154 to R156, Table 17-14), obligation O27.
-/

namespace Sys2Proof.Machine

section
variable {s : State} {src : Src} (h : s.mbsWf)
include h

theorem reaches_codecEncode {d : CodecDesc} (hd : descOk false d = true) :
    Reaches (exec (.codecEncode src d) s) fun t => t.waits src (.codecEncode src d) ∧
      t.render.services = s.render.services ++ [⟨src.mb, false, d, none, []⟩] :=
  reaches_command rfl (firstFail_cons hd) ⟨State.wait_waits h .., by rw [State.onRender_render, State.wait_render]⟩

theorem reaches_codecDecode {d : CodecDesc} (hd : descOk true d = true) :
    Reaches (exec (.codecDecode src d) s) fun t => t.waits src (.codecDecode src d) ∧
      t.render.services = s.render.services ++ [⟨src.mb, true, d, none, []⟩] :=
  reaches_command rfl (firstFail_cons hd) ⟨State.wait_waits h .., by rw [State.onRender_render, State.wait_render]⟩

theorem reaches_codecDisable_idle {lane : BitVec 5} (hlane : lane.toNat < 18)
    (hin : s.rstate (nodeR 1 4 lane.toNat) = .inService) (hidle : s.laneIdle false lane.toNat = true) :
    Reaches (exec (.codecDisable src lane false false) s) fun t => t.answered src ST.ok ∧
      t.rstate (nodeR 1 4 lane.toNat) = .quarantined := by
  have hpre : (decide (lane.toNat < 18) && s.rstate (nodeR 1 4 lane.toNat) == .inService) = true := by
    rw [decide_eq_true hlane, hin]
    rfl
  refine reaches_command rfl (firstFail_cons hpre) ?_
  unfold State.drainLane
  rw [if_neg Bool.false_ne_true, if_pos hidle]
  exact ⟨State.ok_answered ((State.quarantine_fr ..).mbsWf h) .., (State.rstate_ok ..).trans (State.quarantine_rstate hin)⟩

theorem reaches_traceStart {mask : BitVec 8} {buf : BufRef} (hrun : s.trace.running = false)
    (hok : traceOk mask buf = true) :
    Reaches (exec (.traceStart src mask buf) s) fun t => t.answered src ST.ok ∧ t.trace.running = true ∧
      t.trace.mask = mask ∧ t.trace.base = buf.addr ∧ t.trace.space = buf.space ∧ t.trace.words = buf.len.toNat / 16 ∧
      t.trace.off = 0 ∧ t.trace.written = 0 ∧ t.trace.lost = 0 := by
  refine reaches_command rfl ((firstFail_cons (by rw [hrun]; rfl)).trans (firstFail_cons hok)) ?_
  rw [State.ok_trace, State.onTrace_trace]
  exact ⟨State.ok_answered (by exact h) .., rfl, rfl, rfl, rfl, rfl, rfl, rfl, rfl⟩

theorem reaches_traceStop {abort : Bool} (hrun : s.trace.running = true) :
    Reaches (exec (.traceStop src abort) s) fun t => t.answered src ST.ok ∧
      t.trace = { s.trace with running := false } :=
  reaches_command rfl (firstFail_cons hrun) ⟨State.ok_answered (by exact h) .., State.ok_trace ..⟩

theorem reaches_traceStatus :
    Reaches (exec (.traceStatus src) s) fun t => t.answered src ST.ok ∧ t.trace = s.trace :=
  reaches_of_next rfl ⟨State.ok_answered h .., State.ok_trace ..⟩
end

/-- Settles O27. -/
theorem codecAndTraceCommands : Obligations.CodecAndTraceCommands :=
  ⟨fun _ _ _ h => reaches_codecEncode h, fun _ _ _ h => reaches_codecDecode h, fun _ _ _ h => reaches_codecDisable_idle h,
    fun _ _ _ _ h => reaches_traceStart h, fun _ _ _ h => reaches_traceStop h, fun _ _ h => reaches_traceStatus h⟩

end Sys2Proof.Machine
end

section
/-!
PROOF. The passes of a stripe (R23, R24, R117 to R121, R149), obligation O30.
-/

namespace Sys2Proof.Machine

-- Many proofs here are the first to unfold their functions of the model, and side by side each would hold a thread.
set_option Elab.async false

section
variable {s : State} {id : StripeId} {x : Stripe} (hx : s.stripe? id = some x)
include hx

/-! ### Canopy passes -/

theorem reaches_canopyPassStart (hdue : s.canopyDue x = true)
    (hin : x.hdr.lrc = true → s.rstate (nodeR 1 1 0) = .inService) :
    Reaches (exec (.canopyPassStart id) s) fun t =>
      if x.hdr.lrc then t.stripe? id = some { x with canopy := .running, canopyAt := s.now } ∧
        t.render.canopy = some id
      else t.stripe? id = some { x with canopy := .complete, canopyTime := 0 } ∧ t.render = s.render := by
  refine reaches_of_next rfl ?_
  rw [hx]
  dsimp only
  rw [hdue, if_neg (show ¬ (!true) = true from Bool.false_ne_true)]
  cases hlrc : x.hdr.lrc with
  | false =>
    rw [if_pos (show (!false) = true from rfl), if_neg Bool.false_ne_true]
    exact ⟨State.stripe_onStripe_self hx fun _ => rfl, rfl⟩
  | true =>
    rw [if_neg (show ¬ (!true) = true from Bool.false_ne_true), if_pos rfl, hin hlrc]
    exact ⟨State.stripe_onStripe_self hx fun _ => rfl, rfl⟩

theorem State.writeMap_stripe (us : List Nat × List Nat) (n : Nat) (vals : List Nat) :
    ∃ f : FactorMap, f.unitsA = us.1 ∧ f.unitsB = us.2 ∧ f.crcs.length = n ∧
      (s.writeMap id us n vals).stripe? id = some { x with fmap := some f } := by
  have hmap (f : FactorMap) : (((s.writeUnits ((vals.map (leBytes 2)).flatten) us.1).writeUnits
      ((vals.map (leBytes 2)).flatten) us.2).onStripe id fun y => { y with fmap := some f }).stripe? id =
        some { x with fmap := some f } := by
    refine State.stripe_onStripe_self ?_ fun _ => rfl
    rw [(State.writeUnits_fr ..).stripe_eq, (State.writeUnits_fr ..).stripe_eq, hx]
  exact ⟨_, rfl, rfl, by rw [List.length_map, List.length_range], hmap _⟩

theorem reaches_canopyPassComplete {us : List Nat × List Nat} (hcanopy : s.render.canopy = some id)
    (hrun : x.canopy = .running) (hthaw : s.thawed = true) (hplace : s.mapPlace x = some us) :
    Reaches (exec (.canopyPassComplete id) s) fun t => ∃ f, f.unitsA = us.1 ∧ f.unitsB = us.2 ∧
      f.crcs.length = x.nseg ∧ t.stripe? id = some { x with
        canopy := .complete, canopyTime := s.now - x.canopyAt, remap := false, fmap := some f } ∧
      t.render = { s.render with canopy := none } := by
  refine reaches_of_next rfl ?_
  rw [hx]
  dsimp only
  rw [hplace]
  dsimp only
  rw [if_pos ⟨hcanopy, hrun, hthaw⟩]
  have hstart : (s.onStripe id fun y => { y with
      canopy := .complete, canopyTime := s.now - y.canopyAt, remap := false }).stripe? id = some { x with
        canopy := .complete, canopyTime := s.now - x.canopyAt, remap := false } :=
    State.stripe_onStripe_self hx fun _ => rfl
  obtain ⟨f, hA, hB, hlen, hf⟩ := State.writeMap_stripe hstart us x.nseg x.factorMap
  refine ⟨f, hA, hB, hlen, hf, ?_⟩
  rw [State.onRender_render, (State.writeMap_fr ..).render_eq]
  rfl

theorem reaches_canopyFault (hcanopy : s.render.canopy = some id) :
    Reaches (exec .canopyFault s) fun t =>
      if x.canopyFails < 2 then t.stripe? id = some { x with canopyFails := x.canopyFails + 1, canopyAt := s.now } ∧
        t.render = s.render
      else t.stripe? id = some { x with canopyFails := 3, canopy := .waiting } ∧
        t.render = { s.render with canopy := none } ∧
        (t.rstate (nodeR 1 1 0) = .quarantined ∨ t.rstate (nodeR 1 1 0) = .failed) := by
  obtain rfl := State.stripe_id hx
  refine reaches_of_next rfl ?_
  rw [hcanopy, Option.bind_some, hx]
  dsimp only
  by_cases hfew : x.canopyFails < 2
  · rw [if_pos hfew, if_pos (by omega)]
    exact ⟨State.stripe_onStripe_self hx fun _ => rfl, rfl⟩
  · rw [if_neg hfew, if_neg (by omega)]
    unfold State.canopyStuck
    refine ⟨?_, ?_, State.unitFault_rstate _ (by decide)⟩
    · rw [(State.unitFault_fr ..).stripe_eq, (State.faultSt_fr ..).stripe_eq]
      exact State.stripe_onStripe_self (f := fun y => { y with canopy := .waiting, canopyFails := 3 }) hx fun _ => rfl
    · rw [(State.unitFault_fr ..).render_eq, (State.faultSt_fr ..).render_eq]
      rfl

/-! ### Check passes -/

omit hx in
theorem length_flatten_range (n m : Nat) (f : Nat → Nat → TileVal) :
    (((List.range n).map fun k => (List.range m).map (f k)).flatten).length = m * n := by
  rw [List.length_flatten, List.map_map]
  show (List.map (fun k => (List.map (f k) (List.range m)).length) (List.range n)).sum = m * n
  simp only [List.length_map, List.length_range, List.map_const', List.sum_replicate_nat]
  exact Nat.mul_comm n m

theorem reaches_checkPassStart (hst : x.st = .defined) (hcanopy : x.canopy = .complete) (hcheck : x.check = .waiting)
    (hcap : s.jobs.capUsed + capBytes x.nseg ≤ 64 * 2 ^ 20) :
    Reaches (exec (.checkPassStart id) s) fun t =>
      (∃ y, t.stripe? id = some y ∧ y.check = .running ∧ y.checkDead = s.deadNow ∧ y.tiles.length = 32 * x.nseg ∧
        y.st = .defined) ∧ t.beam = s.beam := by
  refine reaches_of_next rfl ?_
  rw [hx]
  dsimp only
  rw [if_pos ⟨hst, hcanopy, hcheck, hcap⟩]
  exact ⟨⟨_,
    (State.stripe_of_jobs (State.enqueueAll_jobs ..) id).trans (State.stripe_onStripe_self hx fun _ => rfl), rfl, rfl, length_flatten_range .., hst⟩, rfl⟩

theorem State.refuse_stripe (via : Option Src) (ev : Event) : ∃ y, (s.refuse id via ev).stripe? id = some y ∧
    y.st = .refused ∧ y.check = x.check ∧ y.capMap = x.capMap := by
  have hfreed : ∃ y, (s.freeSlots id).stripe? id = some y ∧ y.check = x.check ∧ y.capMap = x.capMap :=
    ⟨_, State.stripe_onStripe_self hx fun _ => rfl, rfl, rfl⟩
  obtain ⟨z, hz, hcheck, hcap⟩ := hfreed
  unfold State.refuse
  dsimp only
  generalize hu : State.onRender _ (fun r => r.drop id) = u
  have hrefused : ∃ y, u.stripe? id = some y ∧ y.st = .refused ∧ y.check = x.check ∧ y.capMap = x.capMap := by
    rw [← hu]
    exact ⟨_, State.stripe_onStripe_self hz fun _ => rfl, rfl, hcheck, hcap⟩
  obtain ⟨y, hy, hrest⟩ := hrefused
  refine ⟨y, ?_, hrest⟩
  generalize (Option.map (fun x : Stripe => x.landing == .running || x.landing == .paused) (s.stripe? id)).getD false = under
  cases under with
  | true => rw [if_pos rfl, (State.raiseSt_fr ..).stripe_eq, (State.raiseVia_fr ..).stripe_eq, hy]
  | false => rw [if_neg Bool.false_ne_true, (State.raiseVia_fr ..).stripe_eq, hy]

theorem reaches_checkPassComplete (hcheck : x.check = .running) (hmap : x.remap = false) (hthaw : s.thawed = true)
    (htiles : (x.tiles.all fun v => v.check.isSome || v.good) = true)
    (hblocks : ((List.range x.nseg).map (s.badBlocks x)).flatten = [])
    (hgood : (List.range x.nseg).all (s.mapGood x) = true) :
    Reaches (exec (.checkPassComplete id) s) fun t => ∃ y, t.stripe? id = some y ∧ y.check = .complete ∧
      y.capMap = capMapOf x.nseg ((List.range x.nseg).map (s.verdict x)) ∧
      y.st = if (List.range x.nseg).any (fun k => (s.verdict x k).unexp) then .refused else .checked := by
  refine reaches_of_next rfl ?_
  rw [hx]
  dsimp only
  rw [if_neg (by simp [hcheck, hmap, hthaw, htiles]), hblocks]
  dsimp only
  rw [hgood, if_neg (show ¬ (!true) = true from Bool.false_ne_true)]
  generalize hvs : (List.range x.nseg).map (s.verdict x) = vs
  have hbad : (List.range x.nseg).filter (fun k => (vs.getD k ⟨0, 0, 0, 0, false, none, []⟩).unexp) =
      (List.range x.nseg).filter fun k => (s.verdict x k).unexp := by
    refine List.filter_congr fun k hk => ?_
    rw [← hvs, List.getD_eq_getElem?_getD, List.getElem?_map, List.getElem?_range (List.mem_range.1 hk)]
    rfl
  rw [hbad]
  generalize hu : State.writeCaps _ _ _ = u
  have hchecked : ∃ y, u.stripe? id = some y ∧ y.check = .complete ∧ y.capMap = capMapOf x.nseg vs := by
    rw [← hu, (State.writeCaps_fr ..).stripe_eq]
    exact ⟨_, State.stripe_onStripe_self hx fun _ => rfl, rfl, rfl⟩
  obtain ⟨y, hy, hdone, hcap⟩ := hchecked
  cases hbads : (List.range x.nseg).filter fun k => (s.verdict x k).unexp with
  | nil =>
    have hnone : (List.range x.nseg).any (fun k => (s.verdict x k).unexp) = false := by
      rw [List.any_eq_false]
      exact fun k hk => List.filter_eq_nil_iff.1 hbads k hk
    rw [hnone, if_neg Bool.false_ne_true]
    dsimp only
    rw [(State.raiseSt_fr ..).stripe_eq]
    exact ⟨_, State.stripe_onStripe_self hy fun _ => rfl, hdone, hcap, rfl⟩
  | cons b bs =>
    have hsome : (List.range x.nseg).any (fun k => (s.verdict x k).unexp) = true := by
      obtain ⟨hmem, hunexp⟩ := List.mem_filter.1 (hbads ▸ List.mem_cons_self : b ∈ List.filter _ _)
      exact List.any_eq_true.2 ⟨b, hmem, hunexp⟩
    rw [hsome, if_pos rfl]
    obtain ⟨z, hz, hst, hzcheck, hzcap⟩ := State.refuse_stripe hy none (listEvent ST.stripeUnexposable (b :: bs))
    exact ⟨z, hz, hzcheck.trans hdone, hzcap.trans hcap, hst⟩

/-! ### Landing passes -/

theorem State.queueLanding_stripe : ∃ y, (s.queueLanding id).stripe? id = some y ∧ y.landing = x.landing ∧ y.st = x.st := by
  rcases s.queueLanding_cases id with h | ⟨q, ts, -, h⟩
  · exact ⟨x, by rw [h, hx], rfl, rfl⟩
  · exact ⟨{ x with landNext := q }, by rw [h]; exact State.stripe_onStripe_self hx fun _ => rfl, rfl, rfl⟩

omit hx in
theorem State.queueLanding_landSt : (s.queueLanding id).render.landSt = s.render.landSt := by
  rcases s.queueLanding_cases id with h | ⟨q, ts, -, h⟩ <;> rw [h]
  rfl

theorem reaches_landingPassStart (hst : x.st = .checked ∨ x.st = .armed) (hcheck : x.check = .complete)
    (hland : x.landing = .waiting) (hfree : s.render.landSt = none)
    (hbefore : (s.before id).all (fun y => y.landing == .complete) = true) :
    Reaches (exec (.landingPassStart id) s) fun t =>
      (∃ y, t.stripe? id = some y ∧ y.landing = .running ∧ y.st = x.st) ∧ t.render.landSt = some id := by
  refine reaches_of_next rfl ?_
  rw [hx]
  dsimp only
  rw [if_pos ⟨hst, hcheck, hland, by rw [hfree]; rfl, hbefore⟩]
  generalize hu : State.preempt _ _ _ = u
  have hux : u.stripe? id = some x := by
    rw [← hu, (State.preempt_fr ..).stripe_eq, (State.spareRegion_fr ..).stripe_eq, hx]
  rw [State.queueLanding_landSt]
  obtain ⟨y, hy, hyland, hyst⟩ := State.queueLanding_stripe (State.stripe_onStripe_self
    (s := u.onRender fun r => { r with landSt := some id, encBind := bindLanes u.encLanes })
    (f := fun y => { y with landing := .running, landNext := 0, cols := List.replicate 16 (0, CodecCtx.default) })
    hux fun _ => rfl)
  exact ⟨⟨y, hy, hyland, hyst⟩, rfl⟩
end

/-- Settles O30. -/
theorem renderPasses : Obligations.RenderPasses := fun _ _ _ hx =>
  ⟨reaches_canopyPassStart hx, fun _ => reaches_canopyPassComplete hx, reaches_canopyFault hx, reaches_checkPassStart hx,
    reaches_checkPassComplete hx, reaches_landingPassStart hx⟩

end Sys2Proof.Machine
end

section
/-!
PROOF. Encode lanes (R105, R141 to R151, R160 to R163), obligation O32.
-/

namespace Sys2Proof.Machine

-- Many proofs here are the first to unfold their functions of the model, and side by side each would hold a thread.
set_option Elab.async false

/-! ### A segment looked up, and the panel of a lane, after the operations on them -/

section
variable {s : State} {id : StripeId} {k : Nat} {g : Seg}

/-- A segment looked up after an update of its stripe that keeps the segments. -/
theorem State.seg_onStripe_kept (i : StripeId) {f : Stripe → Stripe} (hid : ∀ x, (f x).id = x.id := by exact fun _ => rfl)
    (hsegs : ∀ x, (f x).segs = x.segs := by exact fun _ => rfl) : (s.onStripe i f).seg? id k = s.seg? id k := by
  unfold State.seg?
  rw [State.stripe_onStripe s i id f hid, Option.bind_map]
  congr 1
  funext x
  show (if id = i then f x else x).segs[k]? = x.segs[k]?
  split
  · rw [hsegs]
  · rfl

theorem State.queueLanding_seg (i : StripeId) : (s.queueLanding i).seg? id k = s.seg? id k := by
  rcases s.queueLanding_cases i with h | ⟨q, ts, -, h⟩ <;> rw [h]
  rw [State.seg_of_jobs (State.enqueueAll_jobs ..)]
  exact State.seg_onStripe_kept i

theorem State.queueLanding_encoding (i : StripeId) (n : Nat) :
    (s.queueLanding i).render.encoding n = s.render.encoding n := by
  rcases s.queueLanding_cases i with h | ⟨q, ts, -, h⟩ <;> rw [h]
  rfl

theorem State.setEnc_encoding {n : Nat} (hn : n < s.render.encWork.length) (w : Option LaneWork) :
    (s.setEnc n w).render.encoding n = w := by
  simp [State.setEnc, Render.encoding, List.getD_eq_getElem?_getD, hn]

theorem State.rebind_encoding (p n m : Nat) : (s.rebind p n).render.encoding m = s.render.encoding m := by
  unfold State.rebind Render.encoding
  rw [State.onRender_render]

/-- A lane that leaves its drain is quarantined; of the render side its drain alone changes (R154). -/
theorem State.settleDrain_cases (s : State) (dec : Bool) (n : Nat) : s.settleDrain dec n = s ∨ ∃ ds es,
    s.settleDrain dec n = (s.onRender fun r => { r with drainDec := ds, drainEnc := es }).quarantine
      (if dec then nodeR 2 0 n else nodeR 1 4 n) := by
  unfold State.settleDrain
  dsimp only
  by_cases hdone : ((if dec then s.render.drainDec else s.render.drainEnc).contains n && s.render.laneFree dec n) = true
  · rw [if_pos hdone]
    cases dec
    · exact .inr ⟨_, _, rfl⟩
    · exact .inr ⟨_, _, rfl⟩
  · rw [if_neg hdone]
    exact .inl rfl

theorem State.settleDrain_encoding (dec : Bool) (n m : Nat) :
    (s.settleDrain dec n).render.encoding m = s.render.encoding m := by
  rcases s.settleDrain_cases dec n with h | ⟨ds, es, h⟩ <;> rw [h]
  rw [State.quarantine_render]
  rfl

theorem State.failService_encoding (dec : Bool) (n : Nat) (st : BitVec 16) (m : Nat) :
    (s.failService dec n st).render.encoding m = s.render.encoding m := by
  unfold State.failService
  split
  · rfl
  · dsimp only
    split
    · rfl
    · rw [State.respond_render, State.unwait_render]
      rfl

/-- The state record is written beside the panels, not into them. -/
theorem State.writeStates_seg (hg : s.seg? id k = some g) :
    ∃ h, (s.writeStates id k).seg? id k = some h ∧ h.panels = g.panels := by
  unfold State.writeStates
  split
  · split
    · refine ⟨_, State.seg_onSeg ?_, rfl⟩
      rw [(State.write_fr ..).seg_eq, (State.write_fr ..).seg_eq, hg]
    · exact ⟨g, hg, rfl⟩
  · exact ⟨g, hg, rfl⟩
end

section
variable {s : State} {lane : BitVec 5} (hlen : lane.toNat < s.render.encWork.length)
include hlen

/-! ### A panel starts and is coded -/

theorem reaches_panelEncodeStart {id : StripeId} {seg : BitVec 16} {p : BitVec 4} {ea eb recs : List (BitVec 48)}
    {x : Stripe} {g : Seg} (hx : s.stripe? id = some x) (hg : x.seg? seg.toNat = some g) (hpanels : g.panels.length = 16)
    (hdue : s.panelDue x seg.toNat p.toNat lane.toNat = true) (hea : ea.length = 257) (heb : eb.length = 257)
    (hfreeA : s.extentsFree .a (ea.map (·.toNat)) = true) (hfreeB : s.extentsFree .b (eb.map (·.toNat)) = true)
    (hblocks : s.badBlocks x seg.toNat = []) (hmap : s.mapGood x seg.toNat = true) :
    Reaches (exec (.panelEncodeStart lane id seg p ea eb recs) s) fun t =>
      t.render.encoding lane.toNat = some ⟨id, seg.toNat, p.toNat⟩ ∧
      ((t.seg? id seg.toNat).map (·.panels)) = some (g.panels.modify p.toNat fun q => { q with
        st := .encoding, again := false, extA := ea.map (·.toNat), extB := eb.map (·.toNat),
        start := s.startState x seg.toNat p.toNat }) := by
  have hfirst : ((x.seg? seg.toNat).map (·.panels.isEmpty)).getD false = false := by
    rw [hg, Option.map_some, Option.getD_some, List.isEmpty_eq_false_iff]
    exact List.ne_nil_of_length_pos (by omega)
  refine reaches_of_next rfl ?_
  rw [hx]
  dsimp only
  rw [hfirst, if_neg (by simp [hdue, hea, heb, hfreeA, hfreeB]), if_neg fun h => Bool.false_ne_true h.1, hblocks]
  dsimp only [List.find?_nil]
  rw [hmap, if_neg (show ¬ (!true) = true from Bool.false_ne_true), if_neg Bool.false_ne_true]
  rw [State.queueLanding_encoding, State.rebind_encoding, State.setEnc_encoding (by exact hlen), State.queueLanding_seg,
    (State.rebind_fr ..).seg_eq, (State.setEnc_fr ..).seg_eq, State.onPanel_seg (State.seg_of_stripe hx hg)]
  exact ⟨rfl, rfl⟩

omit hlen in
theorem panel_modify {ps : List Panel} {n : Nat} {q : Panel} (hq : ps[n]? = some q) (f : Panel → Panel) :
    (ps.modify n f)[n]? = some (f q) := by
  rw [List.getElem?_modify_eq, hq]
  rfl

omit hlen in
/-- What a lane has coded stands in its panel (R144, R161, R163). -/
theorem State.encodePanel_panel (s : State) {x : Stripe} {g : Seg} {w : LaneWork} (hx : s.stripe? w.st = some x)
    (hg : x.seg? w.seg = some g) (hp : w.panel < g.panels.length) :
    let rows := codingOrder x.rev (x.panelRows s.mem (s.mapValue x w.seg) w.seg w.panel)
    let b := encodeBlock (x.streamId w.seg w.panel) rows ((x.panel w.seg w.panel).start.getD CodecCtx.default)
    ∃ q, ((s.encodePanel x w).seg? w.st w.seg).bind (·.panels[w.panel]?) = some q ∧ q.st = .encoded ∧
      q.bsig = signature rows ∧ q.after = some b.after ∧
      q.extA = (x.panel w.seg w.panel).extA.take (extentsFor b.words.length) := by
  intro rows b
  unfold State.encodePanel
  dsimp only
  rw [State.stripe_id hx]
  generalize hu : State.onSeg _ w.st w.seg _ = u
  have hcoded : ∃ h q, u.seg? w.st w.seg = some h ∧ h.panels[w.panel]? = some q ∧ q.st = .encoded ∧
      q.bsig = signature rows ∧ q.after = some b.after ∧
      q.extA = (x.panel w.seg w.panel).extA.take (extentsFor b.words.length) := by
    have hseg : ((s.writeImages (extentImages b ((x.panel w.seg w.panel).extA.take (extentsFor b.words.length)))).writeImages
        (extentImages b ((x.panel w.seg w.panel).extB.take (extentsFor b.words.length)))).seg? w.st w.seg = some g := by
      rw [(State.writeImages_fr ..).seg_eq, (State.writeImages_fr ..).seg_eq, State.seg_of_stripe hx hg]
    rw [← hu]
    exact ⟨_, _, State.seg_onSeg hseg, panel_modify (List.getElem?_eq_getElem hp) _, rfl, rfl, rfl, rfl⟩
  obtain ⟨h, q, hseg, hq, hrest⟩ := hcoded
  generalize hv : (if ((x.seg? w.seg).bind (·.old)).isSome = true then u else _ : State) = v
  have hsegv : v.seg? w.st w.seg = some h := by
    rw [← hv]
    split
    · exact hseg
    · rw [State.seg_onStripe_kept, hseg]
  obtain ⟨h', hseg', hpanels⟩ := State.writeStates_seg hsegv
  exact ⟨q, by rw [hseg', Option.bind_some, hpanels, hq], hrest⟩

theorem reaches_panelEncodeComplete {w : LaneWork} {x : Stripe} {g : Seg} (hw : s.render.encoding lane.toNat = some w)
    (hx : s.stripe? w.st = some x) (hg : x.seg? w.seg = some g) (hp : w.panel < g.panels.length)
    (hthaw : s.thawed = true) (hmap : s.mapGood x w.seg = true) :
    let rows := codingOrder x.rev (x.panelRows s.mem (s.mapValue x w.seg) w.seg w.panel)
    let b := encodeBlock (x.streamId w.seg w.panel) rows ((x.panel w.seg w.panel).start.getD CodecCtx.default)
    Reaches (exec (.panelEncodeComplete lane) s) fun t =>
      t.render.encoding lane.toNat = none ∧
      ∃ q, (t.seg? w.st w.seg).bind (·.panels[w.panel]?) = some q ∧ q.st = .encoded ∧ q.bsig = signature rows ∧
        q.after = some b.after ∧ q.extA = (x.panel w.seg w.panel).extA.take (extentsFor b.words.length) := by
  intro rows b
  refine reaches_of_next rfl ?_
  rw [hw]
  dsimp only
  rw [hthaw, if_neg (show ¬ true = false from Bool.noConfusion), hx]
  dsimp only
  have hmap' : (s.setEnc lane.toNat none).mapGood x w.seg = true := hmap
  rw [State.finishPanel, if_pos hmap', State.settleDrain_encoding, State.queueLanding_encoding,
    (State.encodePanel_fr ..).render_eq, State.setEnc_encoding hlen, (State.settleDrain_fr ..).seg_eq,
    State.queueLanding_seg]
  exact ⟨rfl, State.encodePanel_panel (s.setEnc lane.toNat none) hx hg hp⟩

/-! ### A lane or a datapath fails -/

omit hlen in
theorem modify_panel_congr {ps : List Panel} {n : Nat} {q : Panel} (hq : ps[n]? = some q) {f f' : Panel → Panel}
    (h : f q = f' q) : ps.modify n f = ps.modify n f' := by
  refine List.ext_getElem? fun i => ?_
  rw [List.getElem?_modify, List.getElem?_modify]
  by_cases hi : n = i
  · subst hi
    rw [hq]
    simp [h]
  · simp [hi]

omit hlen in
theorem Stripe.panel_onPanel {x : Stripe} {g : Seg} {k p : Nat} {q : Panel} (hg : x.seg? k = some g)
    (hq : g.panels[p]? = some q) (f : Panel → Panel) : (x.onSeg k (·.onPanel p f)).panel k p = f q := by
  have hseg : (x.onSeg k (·.onPanel p f)).seg? k = some (g.onPanel p f) := by
    show (x.segs.modify k _)[k]? = _
    rw [List.getElem?_modify_eq, show x.segs[k]? = some g from hg]
    rfl
  unfold Stripe.panel
  rw [hseg, Option.bind_some]
  show ((g.panels.modify p f)[p]?).getD Panel.idle = f q
  rw [panel_modify hq, Option.getD_some]

/-- A panel that its lane gives up, to be encoded again. -/
def Panel.discarded (mism : Nat) (q : Panel) : Panel :=
  { q with st := .idle, again := true, extA := [], extB := [], start := none, encodeMism := q.encodeMism + mism }

omit hlen in
theorem State.discardPanel_of {n : Nat} {w : LaneWork} (hw : s.render.encoding n = some w) (mism : Nat) :
    s.discardPanel n mism = (s.setEnc n none).onPanel w.st w.seg w.panel (·.discarded mism) := by
  unfold State.discardPanel
  rw [hw]
  rfl

theorem reaches_encodeMismatch (hlane : lane.toNat < 18) {w : LaneWork} {x : Stripe} {g : Seg} {q : Panel}
    (hw : s.render.encoding lane.toNat = some w) (hx : s.stripe? w.st = some x) (hg : x.seg? w.seg = some g)
    (hq : g.panels[w.panel]? = some q) (hfirst : q.encodeMism = 0)
    (hin : s.rstate (nodeR 1 4 lane.toNat) = .inService) :
    Reaches (exec (.encodeMismatch lane) s) fun t =>
      t.render.encoding lane.toNat = none ∧ t.rstate (nodeR 1 4 lane.toNat) = .quarantined ∧
      (t.seg? w.st w.seg).map (·.panels) = some (g.panels.modify w.panel fun q => { q with
        st := .idle, again := true, extA := [], extB := [], start := none, encodeMism := 1 }) := by
  refine reaches_of_next rfl ?_
  rw [if_neg (Nat.not_le.2 hlane)]
  dsimp only
  rw [hw, State.discardPanel_of hw]
  dsimp only
  generalize hu : State.onPanel _ _ _ _ _ = u
  have hst : u.rstate (nodeR 1 4 lane.toNat) = .inService := by
    rw [← hu, (State.onPanel_fr ..).rstate_eq, (State.setEnc_fr ..).rstate_eq, hin]
  have henc : u.render.encoding lane.toNat = none := by
    rw [← hu]
    exact State.setEnc_encoding hlen none
  have hseg : u.seg? w.st w.seg = some (g.onPanel w.panel (·.discarded 1)) := by
    rw [← hu]
    exact State.onPanel_seg (State.seg_of_stripe hx hg)
  have hstripe : u.stripe? w.st = some (x.onSeg w.seg (·.onPanel w.panel (·.discarded 1))) := by
    rw [← hu]
    exact State.stripe_onSeg_self hx
  have hfail := State.failService_fr u false lane.toNat ST.codecEncodeMismatch
  have hquar := State.quarantine_fr (u.failService false lane.toNat ST.codecEncodeMismatch) (nodeR 1 4 lane.toNat)
  rw [hquar.stripe_eq, hfail.stripe_eq, hstripe]
  dsimp only
  rw [Stripe.panel_onPanel hg hq, if_neg (by show ¬ 2 ≤ q.encodeMism + 1; omega)]
  refine ⟨?_, State.quarantine_rstate (by rw [hfail.rstate_eq, hst]), ?_⟩
  · rw [State.quarantine_render, State.failService_encoding, henc]
  · rw [hquar.seg_eq, hfail.seg_eq, hseg]
    exact congrArg some (modify_panel_congr hq (by rw [Panel.discarded, hfirst]))

omit hlen in
theorem reaches_graderMismatch {id : StripeId} {seg : BitVec 16} {p : BitVec 4} {x : Stripe} {g : Seg} {q : Panel}
    (hx : s.stripe? id = some x) (hg : x.seg? seg.toNat = some g) (hq : g.panels[p.toNat]? = some q)
    (hst : q.st = .encoding) (hfirst : q.graderMism = 0) :
    Reaches (exec (.graderMismatch id seg p) s) fun t =>
      (t.seg? id seg.toNat).map (·.panels) = some (g.panels.modify p.toNat fun q => { q with graderMism := 1 }) ∧
      (t.rstate (nodeR 1 3 0) = .quarantined ∨ t.rstate (nodeR 1 3 0) = .failed) := by
  have hpanel : x.panel seg.toNat p.toNat = q := by
    unfold Stripe.panel
    rw [hg, Option.bind_some, hq, Option.getD_some]
  refine reaches_of_next rfl ?_
  rw [hx, State.seg_of_stripe hx hg]
  dsimp only
  rw [hpanel, if_pos hst, if_pos hfirst]
  refine ⟨?_, State.unitFault_rstate _ (by decide)⟩
  rw [(State.unitFault_fr ..).seg_eq, State.onPanel_seg (State.seg_of_stripe hx hg)]
  exact congrArg some (modify_panel_congr hq (by rw [hfirst]))
end

/-- Settles O32: a difference of the two datapaths names instance 0 (log entry 42). -/
theorem encodeLanes : Obligations.EncodeLanes := fun _ _ hlane hwork => by
  have hlen := hwork ▸ hlane
  exact ⟨fun _ _ _ _ _ _ _ _ => reaches_panelEncodeStart hlen, fun _ _ _ => reaches_panelEncodeComplete hlen,
    fun _ _ _ _ => reaches_encodeMismatch hlen hlane, fun _ _ _ _ _ _ => reaches_graderMismatch⟩

end Sys2Proof.Machine
end

section
/-!
PROOF. Decode lanes and service jobs (R147, R153 to R157), obligation O33.
-/

namespace Sys2Proof.Machine

-- Many proofs here are the first to unfold their functions of the model, and side by side each would hold a thread.
set_option Elab.async false

section
variable {s : State}

/-! ### Decode lanes -/

theorem State.setDec_none_decoding (s : State) (n : Nat) : (s.setDec n none).render.decoding n = none := by
  simp only [State.setDec, Render.decoding, State.onRender_render, List.getD_eq_getElem?_getD, List.getElem?_set, if_true]
  split <;> rfl

theorem State.callArb_decWork (x : Stripe) (k p : Nat) : (s.callArb x k p).render.decWork = s.render.decWork := by
  unfold State.callArb
  split <;> rfl

theorem State.moveArbs_decWork (s : State) (n : Nat) : (s.moveArbs n).render.decWork = s.render.decWork := by
  unfold State.moveArbs
  refine foldl_keeps (P := fun t : State => t.render.decWork = s.render.decWork) (fun t a ht => ?_) _ rfl
  split
  · rw [State.callArb_decWork, ht]
  · exact ht

theorem reaches_decodeLaneFault {lane : BitVec 5} (hlane : lane.toNat < 18)
    (hin : s.rstate (nodeR 2 0 lane.toNat) = .inService) :
    Reaches (exec (.decodeLaneFault lane) s) fun t =>
      t.rstate (nodeR 2 0 lane.toNat) = .quarantined ∧ t.render.decoding lane.toNat = none := by
  refine reaches_of_next rfl ?_
  rw [if_neg (Nat.not_le.2 hlane)]
  dsimp only
  generalize hu : State.setDec _ lane.toNat none = u
  have hst : u.rstate (nodeR 2 0 lane.toNat) = .inService := by
    rw [← hu, (State.setDec_fr ..).rstate_eq, (State.failService_fr ..).rstate_eq, (State.stopForLane_fr ..).rstate_eq, hin]
  rw [(State.moveArbs_fr ..).rstate_eq]
  refine ⟨State.quarantine_rstate hst, ?_⟩
  unfold Render.decoding
  rw [State.moveArbs_decWork, State.quarantine_render, ← hu]
  exact State.setDec_none_decoding _ lane.toNat

/-! ### Service jobs -/

theorem reaches_decodeBufferResume {lane : BitVec 5} {addr : BitVec 48} {space : BitVec 4} {len : BitVec 32} {v : Service}
    (hv : v ∈ s.render.services) (hdec : v.decode = true) (hlane : v.lane = some lane.toNat) :
    Reaches (exec (.decodeBufferResume lane addr space len) s) fun t =>
      { v with bufs := v.bufs ++ [(addr, space, len)] } ∈ t.render.services ∧ t.jobs = s.jobs := by
  refine reaches_of_next rfl ⟨List.mem_map.2 ⟨v, hv, if_pos ?_⟩, rfl⟩
  rw [hdec, hlane, beq_self_eq_true]
  rfl

theorem reaches_serviceJobStart {mb : BitVec 4} {lane : BitVec 5} {v : Service}
    (hv : (s.render.services.find? fun v => v.mb == mb && v.lane.isNone) = some v)
    (hok : s.qualifies v.decode lane.toNat = true) :
    Reaches (exec (.serviceJobStart mb lane) s) fun t => { v with lane := some lane.toNat } ∈ t.render.services := by
  refine reaches_of_next rfl ?_
  rw [hv]
  dsimp only
  rw [if_pos hok]
  exact List.mem_map.2 ⟨v, List.mem_of_find?_eq_some hv, if_pos (List.find?_some hv)⟩

theorem State.settleDrain_services (dec : Bool) (n : Nat) : (s.settleDrain dec n).render.services = s.render.services := by
  rcases s.settleDrain_cases dec n with h | ⟨ds, es, h⟩ <;> rw [h]
  rw [State.quarantine_render]
  rfl

theorem reaches_serviceJobComplete_ok {mb : BitVec 4} {v : Service} {w : Waiting} (h : s.mbsWf)
    (hv : (s.render.services.find? fun v => v.mb == mb && v.lane.isSome) = some v) (hw : s.waiter mb = some w)
    (hwrites : s.serviceWrites v = true) (r : List Byte × CodecCtx × Nat) (hr : s.serviceResult v = .ok r) :
    Reaches (exec (.serviceJobComplete mb false) s) fun t =>
      t.answered w.src ST.ok ∧ (∀ u ∈ t.render.services, u.mb ≠ mb) ∧ t.waiter mb = none := by
  refine reaches_of_next rfl ?_
  rw [hv]
  dsimp only
  rw [hwrites, if_neg (show ¬ (!true) = true from Bool.false_ne_true), if_neg Bool.false_ne_true, hr]
  dsimp only
  generalize hu : State.writeOver s _ _ = u
  generalize hs2 : (if v.desc.soutUse = true then State.write u _ _ _ else u) = s2
  have hfr : Fr [.bytes] s s2 := by
    rw [← hs2, ← hu]
    exact Fr.ite ((State.writeOver_fr ..).trans (State.write_fr ..)) (State.writeOver_fr ..)
  generalize hs3 : State.settleDrain _ v.decode (v.lane.getD 0) = s3
  have hwait : s3.waiter mb = some w := by
    rw [← hs3, (State.settleDrain_fr ..).waiter_eq]
    exact (hfr.waiter_eq mb).trans hw
  have hwf : s3.mbsWf := by
    rw [← hs3]
    exact (State.settleDrain_fr ..).mbsWf (hfr.mbsWf h)
  have hgone : ∀ u ∈ s3.render.services, u.mb ≠ mb := by
    rw [← hs3, State.settleDrain_services]
    exact fun u hu => bne_iff_ne.1 (List.mem_filter.1 hu).2
  rw [hwait]
  dsimp only
  refine ⟨State.ok_answered (by exact hwf) .., ?_, by rw [State.waiter_ok, State.waiter_unwait]⟩
  rw [State.ok_render, State.unwait_render]
  exact hgone

/-- A service job that fails on a lane is answered with its status and leaves the list (R157). -/
theorem State.failService_answers {dec : Bool} {n : Nat} {st : BitVec 16} {v : Service} {w : Waiting} (h : s.mbsWf)
    (hv : (s.render.services.find? fun u => u.decode == dec && u.lane == some n) = some v) (hw : s.waiter v.mb = some w) :
    (s.failService dec n st).answered w.src st ∧
      (s.failService dec n st).render.services = s.render.services.filter fun u => u.mb != v.mb := by
  have hwait : (s.onRender fun r => { r with services := r.services.filter fun u => u.mb != v.mb }).waiter v.mb = some w := hw
  unfold State.failService
  rw [hv]
  dsimp only
  rw [hwait]
  exact ⟨State.respond_answered (by exact h) .., by rw [State.respond_render, State.unwait_render]; rfl⟩

theorem reaches_serviceJobComplete_error {mb : BitVec 4} {v : Service} {w : Waiting} (h : s.mbsWf)
    (hv : (s.render.services.find? fun v => v.mb == mb && v.lane.isSome) = some v) (hw : s.waiter mb = some w)
    (hwrites : s.serviceWrites v = true) (e : BitVec 16) (he : s.serviceResult v = .error e)
    (huniq : ∀ u ∈ s.render.services, u.decode = v.decode → u.lane = v.lane → u = v) :
    Reaches (exec (.serviceJobComplete mb false) s) fun t =>
      t.answered w.src e ∧ t.render.services.all (fun u => u.mb != v.mb) = true := by
  have hmem := List.mem_of_find?_eq_some hv
  have hpred := List.find?_some hv
  rw [Bool.and_eq_true, beq_iff_eq, Option.isSome_iff_exists] at hpred
  obtain ⟨rfl, lane, hlane⟩ := hpred
  have hfind : (s.render.services.find? fun u => u.decode == v.decode && u.lane == some lane) = some v := by
    have hsome : (s.render.services.find? fun u => u.decode == v.decode && u.lane == some lane).isSome = true :=
      List.find?_isSome.2 ⟨v, hmem, by rw [hlane, beq_self_eq_true, beq_self_eq_true]; rfl⟩
    obtain ⟨u, hu⟩ := Option.isSome_iff_exists.1 hsome
    have hupred := List.find?_some hu
    rw [Bool.and_eq_true, beq_iff_eq, beq_iff_eq] at hupred
    rw [hu, huniq u (List.mem_of_find?_eq_some hu) hupred.1 (hupred.2.trans hlane.symm)]
  refine reaches_of_next rfl ?_
  rw [hv]
  dsimp only
  rw [hwrites, if_neg (show ¬ (!true) = true from Bool.false_ne_true), if_neg Bool.false_ne_true, he, hlane, Option.getD_some]
  dsimp only
  obtain ⟨hans, hservices⟩ := State.failService_answers (st := e) h hfind hw
  refine ⟨(State.settleDrain_fr ..).answered hans, ?_⟩
  rw [State.settleDrain_services, hservices]
  exact List.all_eq_true.2 fun u hu => (List.mem_filter.1 hu).2
end

/-- Settles O33. -/
theorem decodeLanesAndServiceJobs : Obligations.DecodeLanesAndServiceJobs :=
  ⟨fun _ _ => reaches_decodeLaneFault, fun _ _ _ _ _ _ => reaches_decodeBufferResume,
    fun _ _ _ _ => reaches_serviceJobStart, fun _ _ _ _ h hv hw hwrites =>
      ⟨reaches_serviceJobComplete_ok h hv hw hwrites, reaches_serviceJobComplete_error h hv hw hwrites⟩⟩

end Sys2Proof.Machine
end

section
/-!
PROOF. From a coded segment to a sealed one (R163 to R168, Tables 6-3 and 6-6), obligation O34.
-/

namespace Sys2Proof.Machine

-- Many proofs here are the first to unfold their functions of the model, and side by side each would hold a thread.
set_option Elab.async false

section
variable {s : State} {id : StripeId} {k : Nat} {x : Stripe} {g : Seg}

/-! ### Segments after the operations of the landing store -/

theorem State.landingDone_seg (i : StripeId) : (s.landingDone i).seg? id k = s.seg? id k := by
  unfold State.landingDone
  split
  · rfl
  · split
    · rw [(State.raiseSt_fr ..).seg_eq]
      exact State.seg_onStripe_kept i
    · rfl

/-- An unverifiable segment that falls due calls a stop of the run, which changes no stripe and no slot. -/
theorem State.dueUnverifiable_kept (id : StripeId) :
    (s.dueUnverifiable id).jobs = s.jobs ∧ (s.dueUnverifiable id).land = s.land := by
  unfold State.dueUnverifiable
  split
  · exact ⟨rfl, rfl⟩
  · rename_i r y hrun
    dsimp only
    split
    · unfold State.stopCause
      rw [hrun]
      dsimp only
      split
      · exact ⟨rfl, rfl⟩
      · exact ⟨rfl, rfl⟩
    · exact ⟨rfl, rfl⟩

theorem State.dropArbs_seg (hg : s.seg? id k = some g) : (s.dropArbs id k).seg? id k =
    some { g with panels := g.panels.map fun p => { p with arb := false } } := State.seg_onSeg (by exact hg)

/-- A segment that nothing exposes becomes unverifiable where it stands, and is counted (R179). -/
theorem State.unverifiable_marks (hg : s.seg? id k = some g) (hidle : g.lstate ≠ .exposing) (panel cause : Nat) :
    ((s.unverifiable id k panel cause).seg? id k).map (·.lstate) = some .unverifiable ∧
      (s.unverifiable id k panel cause).land.unverifs = s.land.unverifs + 1 := by
  unfold State.unverifiable
  rw [hg]
  dsimp only
  rw [if_neg hidle]
  generalize hu : State.freeSlot _ id k = u
  have hug : u.seg? id k = some g := by
    rw [← hu, (State.freeSlot_fr ..).seg_eq]
    exact hg
  have huland : u.land.unverifs = s.land.unverifs + 1 := by
    rw [← hu]
    rfl
  obtain ⟨hjobs, hland⟩ := State.dueUnverifiable_kept (s := State.landingDone (State.faultSt (State.onSeg (u.dropArbs id k)
    id k fun g => { g with lstate := .unverifiable }) id (segEvent ST.memUnverifiable k panel 0 cause 0)) id) id
  constructor
  · rw [State.seg_of_jobs hjobs, State.landingDone_seg, (State.faultSt_fr ..).seg_eq,
      State.seg_onSeg (State.dropArbs_seg hug)]
    rfl
  · rw [hland, (State.landingDone_fr ..).land_eq, (State.faultSt_fr ..).land_eq, ← huland, (State.onSeg_fr ..).land_eq,
      (State.dropArbs_fr ..).land_eq]

theorem State.callRewrite_seg (hg : s.seg? id k = some g) (p : Nat) (c : Stack) : (s.callRewrite id k p c).seg? id k =
    some { g with panels := g.panels.modify p fun q => { q with rewrite := some c, badCopy := some c, arb := false } } := by
  have hended : (s.endArb id k p).seg? id k = some { g with panels := g.panels.modify p fun q => { q with arb := false } } :=
    State.onPanel_seg (by exact hg)
  unfold State.callRewrite
  rw [State.onPanel_seg hended, List.modify_modify_eq]
  rfl

theorem State.admitSeg_seg (hg : s.seg? id k = some g) : (s.admitSeg id k).seg? id k =
    some { g with lstate := .admitted, tadm := s.now, admittedOnce := true } := by
  unfold State.admitSeg
  rw [State.landingDone_seg, (State.writeLanding_fr ..).seg_eq, State.seg_onSeg hg]

/-! ### SEGMENT_LANDED (R166) -/

variable (hx : s.stripe? id = some x) {seg : BitVec 16} (hg : x.seg? seg.toNat = some g)
include hx hg

theorem reaches_segmentLanded (hst : g.lstate = .landing) (hold : g.old = none) (hlen : g.panels.length = 16)
    (hcoded : g.panels.all (fun p => p.st == .encoded) = true) (hA : s.stackReads .a = true)
    (hB : s.stackReads .b = true) :
    Reaches (exec (.segmentLanded id seg) s) fun t =>
      t.seg? id seg.toNat = some { g with lstate := .landed, tland := s.now, lastScrub := s.now } := by
  refine reaches_of_next rfl ?_
  rw [State.seg_of_stripe hx hg]
  dsimp only
  rw [if_pos ⟨hst, by rw [hold]; rfl, hlen, hcoded, by rw [hA, hB]; rfl⟩, (State.writeLanding_fr ..).seg_eq]
  exact State.seg_onSeg (State.seg_of_stripe hx hg)

/-! ### SEAL_READBACK_COMPLETE (R166, R167) -/

omit hx hg in
/-- The copy of a panel in a stack fails its read-back: its mask names it, or it is not sound. -/
def State.copyBad (s : State) (x : Stripe) (k : Nat) (m : BitVec 16) (c : Stack) (p : Nat) : Bool :=
  inMask m p || !s.copySound (x.panel k p) c

/-- The read-back of a landed segment whose bad copies are known. -/
theorem exec_sealReadback (badA badB : BitVec 16) (hst : g.lstate = .landed)
    (hrewrite : g.panels.any (fun p => p.rewrite.isSome) = false) :
    let k := seg.toNat
    let a := s.copyBad x k badA .a
    let b := s.copyBad x k badB .b
    exec (.sealReadbackComplete id seg badA badB) s = .next (
      ((List.range 16).find? fun p => a p && b p).elim
        (let s1 := (List.range 16).foldl (fun t p =>
          if a p then t.callRewrite id k p .a else if b p then t.callRewrite id k p .b else t) s
        if (List.range 16).any (fun p => a p || b p) then s1
        else if s.recordOk g .a && s.recordOk g .b then s1.seal id k
        else s1.writeLanding id k)
        fun p => s.unverifiable id k p 1) := by
  intro k a b
  rw [exec_sealReadbackComplete, execSealReadbackComplete, hx, State.seg_of_stripe hx hg]
  dsimp only
  rw [if_neg (by rw [hst, hrewrite]; decide)]
  refine congrArg _ ?_
  cases hfind : (List.range 16).find? fun p => a p && b p with
  | none =>
    dsimp only [a, b, State.copyBad] at hfind
    rw [hfind]
    rfl
  | some p =>
    dsimp only [a, b, State.copyBad] at hfind
    rw [hfind]
    rfl

omit hx hg in
theorem foldl_none {α β : Type} {f : α → β → α} {l : List β} (h : ∀ t, ∀ b ∈ l, f t b = t) (t : α) : l.foldl f t = t := by
  induction l with
  | nil => rfl
  | cons b bs ih =>
    rw [List.foldl_cons, h t b (List.mem_cons_self ..)]
    exact ih fun t c hc => h t c (List.mem_cons_of_mem _ hc)

omit hx hg in
/-- A fold that acts at one element alone. -/
theorem foldl_one {α β : Type} {f : α → β → α} {l : List β} {b : β} (hb : b ∈ l) (hnd : l.Nodup)
    (h : ∀ t, ∀ c ∈ l, c ≠ b → f t c = t) (t : α) : l.foldl f t = f t b := by
  induction l generalizing t with
  | nil => cases hb
  | cons c cs ih =>
    obtain ⟨hc, hcs⟩ := List.nodup_cons.1 hnd
    rw [List.foldl_cons]
    by_cases hcb : c = b
    · subst hcb
      exact foldl_none (fun t d hd => h t d (List.mem_cons_of_mem _ hd) fun e => hc (e ▸ hd)) _
    · rw [h t c (List.mem_cons_self ..) hcb]
      exact ih ((List.mem_cons.1 hb).resolve_left (Ne.symm hcb)) hcs
        (fun t d hd => h t d (List.mem_cons_of_mem _ hd)) t

/-- The read-back of a segment without a bad copy. -/
theorem exec_sealReadback_sound {badA badB : BitVec 16} (hst : g.lstate = .landed)
    (hrewrite : g.panels.any (fun p => p.rewrite.isSome) = false)
    (hok : ∀ p, p < 16 → s.copyBad x seg.toNat badA .a p = false ∧ s.copyBad x seg.toNat badB .b p = false) :
    exec (.sealReadbackComplete id seg badA badB) s = .next (
      if s.recordOk g .a && s.recordOk g .b then s.seal id seg.toNat else s.writeLanding id seg.toNat) := by
  have hall (p : Nat) (hp : p ∈ List.range 16) := hok p (List.mem_range.1 hp)
  rw [exec_sealReadback hx hg badA badB hst hrewrite,
    List.find?_eq_none.2 fun p hp => by rw [(hall p hp).1]; exact Bool.false_ne_true]
  dsimp only [Option.elim]
  rw [foldl_none fun t p hp => by rw [(hall p hp).1, (hall p hp).2]; rfl,
    if_neg (by rw [Bool.not_eq_true, List.any_eq_false]; exact fun p hp => by rw [(hall p hp).1, (hall p hp).2]; decide)]

theorem reaches_sealReadback_sealed {badA badB : BitVec 16} (hst : g.lstate = .landed)
    (hrewrite : g.panels.any (fun p => p.rewrite.isSome) = false)
    (hok : ∀ p, p < 16 → s.copyBad x seg.toNat badA .a p = false ∧ s.copyBad x seg.toNat badB .b p = false)
    (hA : s.recordOk g .a = true) (hB : s.recordOk g .b = true) :
    Reaches (exec (.sealReadbackComplete id seg badA badB) s) fun t =>
      (x.hdr.witness = false →
        t.seg? id seg.toNat = some { g with lstate := .admitted, tadm := s.now, admittedOnce := true }) ∧
      (x.hdr.witness = true → (x.witnesses.find? (·.seg == seg.toNat)) = none →
        t.seg? id seg.toNat = some { g with lstate := .sealed }) := by
  refine reaches_of_next (exec_sealReadback_sound hx hg hst hrewrite hok) ?_
  rw [hA, hB, if_pos (show (true && true) = true from rfl)]
  unfold State.seal
  rw [hx]
  dsimp only
  refine ⟨fun hwit => ?_, fun hwit hnone => ?_⟩
  · rw [hwit, if_neg Bool.false_ne_true]
    exact State.admitSeg_seg (State.seg_of_stripe hx hg)
  · have hsealed : (s.onSeg id seg.toNat fun g => { g with lstate := .sealed }).seg? id seg.toNat =
        some { g with lstate := .sealed } := State.seg_onSeg (State.seg_of_stripe hx hg)
    rw [hwit, if_pos rfl, State.judgeWitness, State.stripe_onSeg_self hx, hsealed]
    dsimp only
    rw [if_neg (Classical.not_not.2 rfl), show (x.onSeg seg.toNat _).witnesses = x.witnesses from rfl, hnone]
    exact hsealed

theorem exec_sealReadback_record {badA badB : BitVec 16} (hst : g.lstate = .landed)
    (hrewrite : g.panels.any (fun p => p.rewrite.isSome) = false)
    (hok : ∀ p, p < 16 → s.copyBad x seg.toNat badA .a p = false ∧ s.copyBad x seg.toNat badB .b p = false)
    (hbad : s.recordOk g .a = false ∨ s.recordOk g .b = false) :
    exec (.sealReadbackComplete id seg badA badB) s = .next (s.writeLanding id seg.toNat) := by
  have hrec : ¬ (s.recordOk g .a && s.recordOk g .b) = true := by
    rcases hbad with h | h <;> rw [h]
    · exact Bool.false_ne_true
    · rw [Bool.and_false]
      exact Bool.false_ne_true
  rw [exec_sealReadback_sound hx hg hst hrewrite hok, if_neg hrec]

theorem reaches_sealReadback_unverifiable {badA badB : BitVec 16} (hst : g.lstate = .landed)
    (hrewrite : g.panels.any (fun p => p.rewrite.isSome) = false) (p : Nat) (hp : p < 16)
    (ha : s.copyBad x seg.toNat badA .a p = true) (hb : s.copyBad x seg.toNat badB .b p = true) :
    Reaches (exec (.sealReadbackComplete id seg badA badB) s) fun t =>
      (t.seg? id seg.toNat).map (·.lstate) = some .unverifiable ∧ t.land.unverifs = s.land.unverifs + 1 := by
  refine reaches_of_next (exec_sealReadback hx hg badA badB hst hrewrite) ?_
  have hsome : ((List.range 16).find? fun p => s.copyBad x seg.toNat badA .a p && s.copyBad x seg.toNat badB .b p).isSome =
      true := List.find?_isSome.2 ⟨p, List.mem_range.2 hp, by rw [ha, hb]; rfl⟩
  obtain ⟨q, hq⟩ := Option.isSome_iff_exists.1 hsome
  rw [hq]
  exact State.unverifiable_marks (State.seg_of_stripe hx hg) (by rw [hst]; decide) q 1

theorem reaches_sealReadback_rewrite {badA badB : BitVec 16} (hst : g.lstate = .landed)
    (hrewrite : g.panels.any (fun p => p.rewrite.isSome) = false) (p : Nat) (hp : p < 16)
    (hbad : ∀ q, q < 16 → (q = p ↔ s.copyBad x seg.toNat badA .a q = true) ∧ s.copyBad x seg.toNat badB .b q = false) :
    Reaches (exec (.sealReadbackComplete id seg badA badB) s) fun t =>
      t.seg? id seg.toNat = some { g with panels := g.panels.modify p fun q => { q with
        rewrite := some .a, badCopy := some .a, arb := false } } := by
  have hall (q : Nat) (hq : q ∈ List.range 16) := hbad q (List.mem_range.1 hq)
  have hp' : p ∈ List.range 16 := List.mem_range.2 hp
  have hpa : s.copyBad x seg.toNat badA .a p = true := (hall p hp').1.1 rfl
  refine reaches_of_next (exec_sealReadback hx hg badA badB hst hrewrite) ?_
  rw [List.find?_eq_none.2 fun q hq => by rw [(hall q hq).2, Bool.and_false]; exact Bool.false_ne_true]
  dsimp only [Option.elim]
  rw [if_pos (List.any_eq_true.2 ⟨p, hp', by rw [hpa]; rfl⟩), foldl_one hp' List.nodup_range fun t q hq hne => ?_]
  · rw [if_pos hpa]
    exact State.callRewrite_seg (State.seg_of_stripe hx hg) p .a
  · rw [if_neg fun ha => hne ((hall q hq).1.2 ha), (hall q hq).2, if_neg Bool.false_ne_true]

/-! ### SIGNATURE_TABLE_PARITY (R164) -/

theorem reaches_signatureTable_reload (htabled : g.lstate.tabled = true) (a : List Word)
    (hA : s.recordSigs g .a = some a) (hB : s.recordSigs g .b = some a) :
    Reaches (exec (.signatureTableParity id seg false false) s) fun t =>
      (t.seg? id seg.toNat).map (·.panels) = some (g.panels.zipIdx.map fun (p : Panel × Nat) =>
        { p.1 with bsig := BitVec.ofNat 64 (fld (64 * (p.2 % 2) + 63) (64 * (p.2 % 2)) (a.getD (p.2 / 2) 0)) }) ∧
      t.land.reloads = s.land.reloads + 1 := by
  refine reaches_of_next rfl ?_
  rw [State.seg_of_stripe hx hg]
  dsimp only
  rw [htabled, if_neg (show ¬ (!true) = true from Bool.false_ne_true), hA, hB]
  dsimp only
  rw [if_neg (by simp)]
  have hfr := State.quarantine_fr (s.onLand fun l => { l with reloads := l.reloads + 1 })
    (nodeR 2 5 (seg.toNat % 8192 / 32))
  constructor
  · rw [State.seg_onSeg ((hfr.seg_eq ..).trans (State.seg_of_stripe hx hg))]
    rfl
  · rw [(State.onSeg_fr ..).land_eq, hfr.land_eq]
    rfl

theorem reaches_signatureTable_unverifiable (htabled : g.lstate.tabled = true) (hidle : g.lstate ≠ .exposing)
    (hA : s.recordSigs g .a = none) :
    Reaches (exec (.signatureTableParity id seg false false) s) fun t =>
      (t.seg? id seg.toNat).map (·.lstate) = some .unverifiable := by
  refine reaches_of_next rfl ?_
  rw [State.seg_of_stripe hx hg]
  dsimp only
  rw [htabled, if_neg (show ¬ (!true) = true from Bool.false_ne_true), hA]
  dsimp only
  refine (State.unverifiable_marks ?_ hidle 0 4).1
  rw [(State.quarantine_fr ..).seg_eq]
  exact State.seg_of_stripe hx hg
end

/-- Settles O34: a landing record that fails its check value is written again (log entry 46). -/
theorem segmentsLandAndSeal : Obligations.SegmentsLandAndSeal := fun _ _ _ _ _ hx hg =>
  ⟨reaches_segmentLanded hx hg, fun _ _ hst hrewrite =>
      ⟨fun hok => reaches_sealReadback_sealed hx hg hst hrewrite hok,
        fun hok => exec_sealReadback_record hx hg hst hrewrite hok, reaches_sealReadback_unverifiable hx hg hst hrewrite,
        reaches_sealReadback_rewrite hx hg hst hrewrite⟩,
    reaches_signatureTable_reload hx hg, reaches_signatureTable_unverifiable hx hg⟩

end Sys2Proof.Machine
end

section
/-!
PROOF. Preparation, arbitration, scrubbing and the play buffer (R169 to R178, Tables 6-3 and 6-5), obligation O35.
-/

namespace Sys2Proof.Machine

-- Many proofs here are the first to unfold their functions of the model, and side by side each would hold a thread.
set_option Elab.async false

section
variable {s : State} {id : StripeId} {k : Nat} {x : Stripe} {g : Seg}

/-! ### PREPARATION_START (R169, R206) -/

/-- Each lane bound to the segment decodes its first bound panel. -/
theorem State.bindDecode_decoding {n : Nat} (hn : n < s.render.decWork.length)
    (hb : ((x.latched.map (·.decBind)).getD []).contains n = true) : (s.bindDecode x k).render.decoding n =
      some ⟨x.id, k, ((x.latched.map (·.decBind)).getD []).idxOf n⟩ := by
  unfold State.bindDecode Render.decoding
  rw [State.onRender_render, List.getD_eq_getElem?_getD, List.getElem?_map, List.getElem?_zipIdx,
    List.getElem?_eq_getElem hn]
  dsimp only [Option.map_some, Option.getD_some]
  rw [Nat.zero_add, if_pos hb]

theorem reaches_preparationStart {seg : BitVec 16} (hx : s.stripe? id = some x) (hg : x.seg? seg.toNat = some g)
    (slot : BitVec 2) (q : Nat) (hfrom : s.prepFrom x = some q) (hst : g.lstate = .admitted)
    (hslot : s.land.slots[slot.toNat]? = some none) (hq : q ≤ x.pos seg.toNat)
    (hbefore : (upto q (x.pos seg.toNat)).all (s.slotOrExposed x) = true)
    (hnew : s.land.slots.all (fun t => !t.any fun y => y.st == id && y.seg == seg.toNat) = true)
    (hlanes : ((x.latched.map (·.decBind)).getD []).all (fun n =>
      s.rstate (nodeR 2 0 n) == .inService && s.laneIdle true n) = true) :
    let b := (x.latched.map (·.decBind)).getD []
    Reaches (exec (.preparationStart id seg slot) s) fun t =>
      t.land.slots[slot.toNat]? = some (some ⟨id, seg.toNat, false⟩) ∧
      (t.seg? id seg.toNat) = some { g with fit := some s.beam.fit } ∧
      (t.stripe? id).map (·.fgen) = some s.beam.fit.fgen.toNat ∧
      ∀ n, b.contains n = true → n < s.render.decWork.length →
        t.render.decoding n = some ⟨id, seg.toNat, b.idxOf n⟩ := by
  intro b
  obtain rfl := State.stripe_id hx
  refine reaches_of_next rfl ?_
  rw [hx, State.seg_of_stripe hx hg]
  dsimp only
  rw [if_pos ⟨hst, hslot, by rw [hfrom, Option.any_some, decide_eq_true hq, hbefore]; rfl, hnew, hlanes⟩]
  refine ⟨?_, ?_, ?_, fun n hn hlen => State.bindDecode_decoding (by exact hlen) hn⟩
  · rw [(State.bindDecode_fr ..).land_eq]
    show (s.land.slots.set _ _)[slot.toNat]? = _
    obtain ⟨hlt, -⟩ := List.getElem?_eq_some_iff.1 hslot
    rw [List.getElem?_set_self hlt]
  · rw [(State.bindDecode_fr ..).seg_eq, State.seg_onStripe_kept]
    exact State.seg_onSeg (State.seg_of_stripe hx hg)
  · have hlatched : (s.onSeg x.id seg.toNat fun g => { g with fit := some s.beam.fit }).stripe? x.id = some _ :=
      State.stripe_onSeg_self hx
    rw [(State.bindDecode_fr ..).stripe_eq]
    exact congrArg (Option.map (·.fgen)) (State.stripe_onStripe_self
      (f := fun y => { y with fgen := s.beam.fit.fgen.toNat }) hlatched fun _ => rfl)

/-! ### SEGMENT_READY (R173) -/

theorem Fr.thawed_eq {ps : List Part} {t : State} (h : Fr ps s t) (hp : .mc ∉ ps := by decide) : t.thawed = s.thawed := by
  have hfrozen (k : Stack) : (t.mc.stack k).frozen = (s.mc.stack k).frozen := by
    have hfixed := congrArg StackCtl.frozen (h.stack_fixed k hp)
    exact hfixed
  show (!(t.mc.stack .a).frozen && !(t.mc.stack .b).frozen) = (!(s.mc.stack .a).frozen && !(s.mc.stack .b).frozen)
  rw [hfrozen, hfrozen]

/-- A segment whose panels have all passed is READY, with the slot that waits for it (R173). -/
theorem State.prepDone_ready (hx : s.stripe? id = some x) (hg : s.seg? id k = some g) (hst : g.lstate = .admitted)
    (harb : g.panels.any (·.arb) = false) (hthaw : s.thawed = true) (hslot : s.slotWaits id k = true) :
    (s.prepDone id k).seg? id k = some { g with lstate := .ready } ∧
      ∃ y, some y ∈ (s.prepDone id k).land.slots ∧ y.st = id ∧ y.seg = k ∧ y.ready = true := by
  unfold State.prepDone
  rw [hx, hg]
  dsimp only
  rw [if_neg (by rw [hst, harb, hthaw]; decide)]
  generalize hu : State.fillSlot _ _ _ = u
  have hfr : Fr [.bytes] s u := by
    rw [← hu]
    exact State.fillSlot_fr ..
  refine ⟨State.seg_onSeg (((State.onLand_fr ..).seg_eq id k).trans ((hfr.seg_eq id k).trans hg)), ?_⟩
  obtain ⟨t, ht, hwaits⟩ := List.any_eq_true.1 hslot
  obtain ⟨y, rfl, hy⟩ := Option.any_eq_true _ _ |>.1 hwaits
  rw [Bool.and_eq_true, Bool.and_eq_true, beq_iff_eq, beq_iff_eq] at hy
  obtain ⟨⟨hid, hseg⟩, -⟩ := hy
  refine ⟨{ y with ready := true }, ?_, hid, hseg, rfl⟩
  show some { y with ready := true } ∈ u.land.slots.map _
  rw [hfr.land_eq]
  refine List.mem_map.2 ⟨some y, ht, ?_⟩
  dsimp only
  rw [if_pos ⟨hid, hseg⟩]

theorem reaches_segmentReady {seg : BitVec 16} (hx : s.stripe? id = some x) (hg : x.seg? seg.toNat = some g)
    (hst : g.lstate = .admitted) (harb : g.panels.any (·.arb) = false) (hslot : s.slotWaits id seg.toNat = true)
    (hdec : s.decodes id seg.toNat = true) (hthaw : s.thawed = true)
    (hlanes : ((x.latched.map (·.decBind)).getD []).all (fun n =>
      (s.render.decoding n).any fun w => w.st == id && w.seg == seg.toNat) = true) :
    Reaches (exec (.segmentReady id seg 0) s) fun t => (∀ p, p < 16 → s.prepFails x seg.toNat p 0 = false) →
      t.seg? id seg.toNat = some { g with lstate := .ready } ∧
      (∃ y, some y ∈ t.land.slots ∧ y.st = id ∧ y.seg = seg.toNat ∧ y.ready = true) := by
  refine reaches_of_next rfl fun hpass => ?_
  rw [hx]
  dsimp only
  rw [if_pos ⟨hslot, hdec, hlanes⟩, List.filter_eq_nil_iff.2 fun p hp => by
    rw [hpass p (List.mem_range.1 hp)]; exact Bool.false_ne_true]
  have hfr := State.releaseDecode_fr s id seg.toNat
  refine State.prepDone_ready ((hfr.stripe_eq id).trans hx) ((hfr.seg_eq id _).trans (State.seg_of_stripe hx hg)) hst harb
    ((Fr.thawed_eq hfr).trans hthaw) ?_
  show (s.releaseDecode id seg.toNat).slotWaits id seg.toNat = true
  unfold State.slotWaits
  rw [hfr.land_eq]
  exact hslot

/-! ### ARBITRATION_COMPLETE (Table 6-5) -/

theorem State.endArb_seg (hg : s.seg? id k = some g) (p : Nat) : (s.endArb id k p).seg? id k =
    some { g with panels := g.panels.modify p fun q => { q with arb := false } } := State.onPanel_seg (by exact hg)

theorem State.slotWaits_of_land {t : State} (h : t.land.slots = s.land.slots) : t.slotWaits id k = s.slotWaits id k := by
  unfold State.slotWaits
  rw [h]

/-- What an arbitration leaves of a segment that no slot waits for: its lane falls idle. -/
theorem State.arbDone_kept {t : State} {lane : Nat} (hslot : t.slotWaits id k = false) :
    let u := (if t.slotWaits id k && !t.decodes id k then t.prepDone id k else t).settleDrain true lane
    u.seg? id k = t.seg? id k ∧ u.land = t.land := by
  intro u
  have hu : u = t.settleDrain true lane := by
    show State.settleDrain _ true lane = _
    rw [hslot, Bool.false_and, if_neg Bool.false_ne_true]
  rw [hu]
  exact ⟨(State.settleDrain_fr ..).seg_eq id k, (State.settleDrain_fr ..).land_eq⟩

theorem reaches_arbitrationComplete {seg : BitVec 16} (hx : s.stripe? id = some x) (hg : x.seg? seg.toNat = some g)
    (panel : BitVec 4) (harb : (x.panel seg.toNat panel.toNat).arb = true) (hst : g.lstate.arbitrated = true) {a c : Bool}
    (ha : s.copyGood x seg.toNat panel.toNat .a = a) (hc : s.copyGood x seg.toNat panel.toNat .b = c) :
    let k := seg.toNat
    let p := panel.toNat
    Reaches (exec (.arbitrationComplete id seg panel false false) s) fun t =>
      (a = true → c = true → s.copiesSame x k p = true → s.slotWaits id k = false →
        t.seg? id k = some { g with panels := g.panels.modify p fun q => { q with arb := false } } ∧
        t.land.transient = s.land.transient + 1) ∧
      (a ≠ c → s.slotWaits id k = false → t.seg? id k = some { g with panels := g.panels.modify p fun q =>
        { q with rewrite := some (if a then .b else .a), badCopy := some (if a then .b else .a), arb := false } }) ∧
      (a = c → (a = true → s.copiesSame x k p = false) → g.lstate ≠ .exposing →
        (t.seg? id k).map (·.lstate) = some .unverifiable) := by
  intro k p
  have hseg : s.seg? id k = some g := State.seg_of_stripe hx hg
  have hended := State.endArb_seg hseg p
  have hrewrite (d : Stack) := State.callRewrite_seg hseg p d
  have hslots : (s.endArb id k p).slotWaits id k = s.slotWaits id k :=
    State.slotWaits_of_land (by rw [(State.endArb_fr ..).land_eq])
  have hslots' (d : Stack) : (s.callRewrite id k p d).slotWaits id k = s.slotWaits id k :=
    State.slotWaits_of_land (by rw [(State.callRewrite_fr ..).land_eq])
  have htrans : (s.endArb id k p).land.transient = s.land.transient := by rw [(State.endArb_fr ..).land_eq]
  refine reaches_of_next rfl ?_
  rw [hx]
  dsimp only
  rw [harb, hg, Option.any_some, hst, if_neg (by decide), Bool.not_false, Bool.true_and, Bool.true_and]
  rw [ha, hc]
  cases a with
  | false =>
    rw [Bool.false_and, if_neg Bool.false_ne_true, if_neg Bool.false_ne_true]
    refine ⟨fun h => absurd h Bool.false_ne_true, fun hne hslot => ?_, fun heq _ hidle => ?_⟩
    · rw [if_pos (Bool.of_not_eq_false fun h => hne h.symm)]
      exact ((State.arbDone_kept ((hslots' .a).trans hslot)).1).trans (hrewrite .a)
    · rw [if_neg (by rw [← heq]; exact Bool.false_ne_true)]
      exact (State.unverifiable_marks hended hidle p 2).1
  | true =>
    rw [Bool.true_and]
    refine ⟨fun _ htrue hsame hslot => ?_, fun hne hslot => ?_, fun heq hsame hidle => ?_⟩
    · rw [if_pos htrue, if_pos hsame]
      have hwait : ((s.endArb id k p).onLand fun l => { l with transient := l.transient + 1 }).slotWaits id k = false :=
        hslots.trans hslot
      obtain ⟨hkept, hland⟩ := State.arbDone_kept
        (lane := ((s.render.arbs.find? fun w => w.2 == ⟨id, k, p⟩).map (·.1)).getD 18) hwait
      exact ⟨hkept.trans hended, (congrArg (fun l => l.transient) hland).trans (congrArg (· + 1) htrans)⟩
    · rw [if_neg fun h => hne h.symm, if_pos rfl]
      exact ((State.arbDone_kept ((hslots' .b).trans hslot)).1).trans (hrewrite .b)
    · rw [if_pos heq.symm, if_neg (by rw [hsame rfl]; exact Bool.false_ne_true)]
      exact (State.unverifiable_marks hended hidle p 3).1

/-! ### SCRUB_SEGMENT (R177, R178) -/

/-- An arbitration of the panel is under way. -/
def State.arbitrating (s : State) (id : StripeId) (k p : Nat) : Bool := s.render.arbs.any fun a => a.2 == ⟨id, k, p⟩

/-- The panel numbered `p` after arbitration was called for those of a list that have none. -/
def State.arbCalled (s : State) (id : StripeId) (k : Nat) (ps : List Nat) (p : Nat) (q : Panel) : Panel :=
  if ps.contains p && !s.arbitrating id k p then { q with arb := true } else q

theorem State.callArb_arbitrating (p : Nat) {p' : Nat} (hne : p' ≠ p) :
    (s.callArb x k p).arbitrating id k p' = s.arbitrating id k p' := by
  unfold State.callArb
  split
  · rfl
  · show List.any (s.render.arbs ++ [_]) _ = List.any s.render.arbs _
    rw [List.any_append, List.any_cons, List.any_nil, Bool.or_false]
    have hother : (((s.arbLane x p, (⟨x.id, k, p⟩ : LaneWork)) : Nat × LaneWork).2 == ⟨id, k, p'⟩) = false := by
      simp [Ne.symm hne]
    rw [hother, Bool.or_false]

theorem State.callArb_seg (hid : x.id = id) (hg : s.seg? id k = some g) (p : Nat) : (s.callArb x k p).seg? id k =
    some { g with panels := g.panels.modify p (s.arbCalled id k [p] p) } := by
  subst hid
  unfold State.callArb State.arbCalled State.arbitrating
  by_cases harb : (s.render.arbs.any fun a => a.2 == ⟨x.id, k, p⟩) = true
  · rw [if_pos harb, hg, harb]
    simp only [Bool.not_true, Bool.and_false, Bool.false_eq_true, if_false]
    rw [show (fun q : Panel => q) = id from rfl, List.modify_id]
  · rw [if_neg harb, Bool.eq_false_iff.2 harb]
    simp only [List.contains_cons, beq_self_eq_true, Bool.true_or, Bool.not_false, Bool.and_true, if_true]
    exact State.onPanel_seg hg

/-- Arbitration called for each of a list of panels (R177, R178). -/
theorem State.callArbs_seg (hid : x.id = id) (hg : s.seg? id k = some g) {ps : List Nat} (hnd : ps.Nodup) :
    ∃ h, (ps.foldl (fun t p => t.callArb x k p) s).seg? id k = some h ∧ h.lastScrub = g.lastScrub ∧
      h.lstate = g.lstate ∧ ∀ p, h.panels[p]? = (g.panels[p]?).map (s.arbCalled id k ps p) := by
  induction ps generalizing s g with
  | nil => exact ⟨g, hg, rfl, rfl, fun p => by cases g.panels[p]? <;> rfl⟩
  | cons c cs ih =>
    obtain ⟨hc, hcs⟩ := List.nodup_cons.1 hnd
    obtain ⟨h, hseg, hscrub, hst, hpanels⟩ := ih (State.callArb_seg hid hg c) hcs
    refine ⟨h, hseg, hscrub, hst, fun p => ?_⟩
    rw [hpanels, List.getElem?_modify]
    cases hp : g.panels[p]? with
    | none => rfl
    | some q =>
      refine congrArg some ?_
      by_cases hpc : c = p
      · subst hpc
        simp [State.arbCalled, hc]
      · simp [State.arbCalled, State.callArb_arbitrating c (Ne.symm hpc), hpc, Ne.symm hpc]

theorem reaches_scrubSegment {seg : BitVec 16} (hx : s.stripe? id = some x) (hg : x.seg? seg.toNat = some g)
    (badA badB : BitVec 16) (hst : g.lstate.scrubbed = true) (hslot : s.slotWaits id seg.toNat = false)
    (hnext : s.scrubNext g = true) :
    let k := seg.toNat
    Reaches (exec (.scrubSegment id seg badA badB) s) fun t =>
      ∃ h, t.seg? id k = some h ∧ h.lastScrub = s.now ∧ h.lstate = g.lstate ∧ ∀ p : Nat, p < 16 →
        h.panels[p]? = (g.panels[p]?).map fun q => if q.rewrite.isNone && (inMask badA p || inMask badB p ||
          !s.scrubGood q) && !(s.render.arbs.any fun a => a.2 == ⟨id, k, p⟩) then { q with arb := true } else q := by
  intro k
  refine reaches_of_next rfl ?_
  rw [hx, State.seg_of_stripe hx hg]
  dsimp only
  rw [if_neg (by rw [hst, hslot, hnext]; decide)]
  obtain ⟨h, hseg, hscrub, hlstate, hpanels⟩ := State.callArbs_seg (State.stripe_id hx)
    (State.seg_onSeg (f := fun g => { g with lastScrub := s.now }) (State.seg_of_stripe hx hg))
    (List.nodup_range.filter fun p => (x.panel k p).rewrite.isNone &&
      (inMask badA p || inMask badB p || !s.scrubGood (x.panel k p)) : (List.filter _ (List.range 16)).Nodup)
  refine ⟨h, hseg, hscrub, hlstate, fun p hp => ?_⟩
  rw [hpanels]
  show (g.panels[p]?).map _ = _
  cases hq : g.panels[p]? with
  | none => rfl
  | some q =>
    have hpanel : x.panel k p = q := by
      unfold Stripe.panel
      rw [hg, Option.bind_some, hq, Option.getD_some]
    have hcalled : ((List.range 16).filter fun p => (x.panel k p).rewrite.isNone &&
        (inMask badA p || inMask badB p || !s.scrubGood (x.panel k p))).contains p =
          (q.rewrite.isNone && (inMask badA p || inMask badB p || !s.scrubGood q)) := by
      rw [← hpanel, Bool.eq_iff_iff, List.contains_iff_mem, List.mem_filter, List.mem_range]
      exact and_iff_right hp
    refine congrArg some ?_
    unfold State.arbCalled
    rw [hcalled]
    rfl

/-! ### PLAY_BUFFER_ECC (R174, R212) -/

/-- Whether a stripe runs hangs on the state of the stripe that play names. -/
theorem State.run_isSome (s : State) : s.run?.isSome =
    ((s.play.run.map (·.st)).bind fun i => (s.stripe? i).map (·.st)).any fun st => st == .running || st == .stopping := by
  unfold State.run?
  cases s.play.run with
  | none => rfl
  | some r =>
    dsimp only [Option.bind_some, Option.map_some]
    cases s.stripe? r.st with
    | none => rfl
    | some y =>
      dsimp only [Option.bind_some, Option.map_some, Option.any_some]
      by_cases hst : y.st = .running ∨ y.st = .stopping
      · rw [if_pos hst]
        simpa using hst
      · rw [if_neg hst]
        simpa using hst

theorem State.run_isSome_of {t : State} (hst : t.standing = s.standing)
    (hrun : t.play.run.map (·.st) = s.play.run.map (·.st)) : t.run?.isSome = s.run?.isSome := by
  rw [State.run_isSome, State.run_isSome, hrun]
  simp only [State.st_of_standing hst]

theorem State.landingDone_standing (i : StripeId) : (s.landingDone i).standing = s.standing := by
  unfold State.landingDone
  split
  · rfl
  · split
    · exact (State.standing_of_jobs (State.raiseSt_fr ..).jobs_eq).trans (State.standing_onStripe ..)
    · rfl

theorem State.dueUnverifiable_run (i : StripeId) :
    (s.dueUnverifiable i).play.run.map (·.st) = s.play.run.map (·.st) := by
  unfold State.dueUnverifiable
  split
  · rfl
  · rename_i r y hrun
    dsimp only
    split
    · unfold State.stopCause
      rw [hrun]
      dsimp only
      split
      · rfl
      · rw [State.onPlay_play, (State.run_of hrun).1]
        rfl
    · rfl

/-- A segment that nothing exposes becomes unverifiable and leaves the run as it goes on. -/
theorem State.unverifiable_run (hg : s.seg? id k = some g) (hidle : g.lstate ≠ .exposing) (panel cause : Nat) :
    (s.unverifiable id k panel cause).run?.isSome = s.run?.isSome := by
  unfold State.unverifiable
  rw [hg]
  dsimp only
  rw [if_neg hidle]
  generalize hu : State.faultSt _ id _ = u
  have hstand : u.standing = s.standing := by
    rw [← hu, State.standing_of_jobs (State.faultSt_fr ..).jobs_eq]
    refine (State.standing_onStripe ..).trans ((State.standing_onStripe ..).trans ?_)
    rfl
  have hplay : u.play = s.play := by
    rw [← hu, (State.faultSt_fr ..).play_eq, (State.onSeg_fr ..).play_eq, (State.dropArbs_fr ..).play_eq,
      (State.freeSlot_fr ..).play_eq]
    rfl
  refine State.run_isSome_of ?_ ?_
  · rw [State.standing_of_jobs (State.dueUnverifiable_kept id).1, State.landingDone_standing, hstand]
  · rw [State.dueUnverifiable_run, (State.landingDone_fr ..).play_eq, hplay]

theorem State.freeSlots_unverifiable (i : StripeId) (h : (s.seg? id k).map (·.lstate) = some .unverifiable) :
    ((s.freeSlots i).seg? id k).map (·.lstate) = some .unverifiable := by
  obtain ⟨g, hg, hst⟩ := Option.map_eq_some_iff.1 h
  obtain ⟨x, hx, hxg⟩ := Option.bind_eq_some_iff.1 hg
  unfold State.seg? State.freeSlots
  generalize hu : State.onRender _ _ = u
  have hfreed := State.stripe_onStripe u i id (fun x => { x with segs := x.segs.map fun g =>
    if g.lstate = .ready ∨ g.lstate = .exposing then { g with lstate := .admitted } else g }) fun _ => rfl
  have hux : u.stripe? id = some x := by
    rw [← hu]
    exact hx
  rw [hfreed, hux, Option.map_some, Option.bind_some]
  split
  · show ((x.segs.map _)[k]?).map _ = _
    rw [List.getElem?_map, show x.segs[k]? = some g from hxg, Option.map_some, Option.map_some, if_neg (by rw [hst]; decide),
      hst]
  · rw [hxg, Option.map_some, hst]

/-- A cause of a stop leaves an unverifiable segment what it is. -/
theorem State.stopCause_unverifiable (h : (s.seg? id k).map (·.lstate) = some .unverifiable) (rank : Nat)
    (b : Option Nat) : ((s.stopCause rank none b).seg? id k).map (·.lstate) = some .unverifiable ∧
      (s.stopCause rank none b).land.unverifs = s.land.unverifs := by
  unfold State.stopCause
  split
  · split
    · exact ⟨h, rfl⟩
    · exact ⟨h, rfl⟩
  · dsimp only
    unfold State.dropReentry
    split
    · exact ⟨h, rfl⟩
    · exact ⟨State.freeSlots_unverifiable _ h, rfl⟩

theorem reaches_playBufferEcc_ready {seg : BitVec 16} (hx : s.stripe? id = some x) (hg : x.seg? seg.toNat = some g)
    (panel : BitVec 4) (row : BitVec 12) (hst : g.lstate = .ready) :
    Reaches (exec (.playBufferEcc id seg ⟨panel, row⟩) s) fun t =>
      (t.seg? id seg.toNat).map (·.lstate) = some .unverifiable ∧ t.land.unverifs = s.land.unverifs + 1 := by
  refine reaches_of_next rfl ?_
  rw [State.seg_of_stripe hx hg]
  dsimp only
  rw [if_pos (Or.inl hst)]
  generalize hu : State.faultSt s id _ = u
  have hug : u.seg? id seg.toNat = some g := by
    rw [← hu, (State.faultSt_fr ..).seg_eq]
    exact State.seg_of_stripe hx hg
  have hland : u.land = s.land := by rw [← hu, (State.faultSt_fr ..).land_eq]
  obtain ⟨hmark, hcount⟩ := State.unverifiable_marks hug (by rw [hst]; decide) panel.toNat 5
  rw [hland] at hcount
  split
  · obtain ⟨hkept, hsame⟩ := State.stopCause_unverifiable hmark 10 none
    exact ⟨hkept, hsame.trans hcount⟩
  · exact ⟨hmark, hcount⟩

theorem reaches_playBufferEcc_run {seg : BitVec 16} (hx : s.stripe? id = some x) (hg : x.seg? seg.toNat = some g)
    (panel : BitVec 4) (row : BitVec 12) (r : Run) (y : Stripe) (hrun : s.run? = some (r, y))
    (hst : g.lstate = .exposing ∨ g.lstate = .ready ∧ s.neededExposing id seg.toNat row.toNat panel.toNat = true) :
    Reaches (exec (.playBufferEcc id seg ⟨panel, row⟩) s) fun t =>
      ∃ z c, t.play.run = some z ∧ c ∈ z.causes ∧ c.rank = 10 ∧ z.halt.isSome = true := by
  refine reaches_of_next rfl ?_
  rw [State.seg_of_stripe hx hg]
  dsimp only
  rw [if_pos (hst.symm.imp_left And.left)]
  generalize hu : State.faultSt s id _ = u
  have hug : u.seg? id seg.toNat = some g := by
    rw [← hu, (State.faultSt_fr ..).seg_eq]
    exact State.seg_of_stripe hx hg
  have hurun : u.run? = some (r, y) := by rw [← hu, (State.faultSt_fr ..).run_eq, hrun]
  rcases hst with hexp | ⟨hready, hneed⟩
  · rw [if_neg fun h => absurd (hexp.symm.trans h.1) (by decide)]
    unfold State.unverifiable
    rw [hug]
    dsimp only
    rw [if_pos hexp]
    obtain ⟨z, hz, hmem, hhalt⟩ := State.stopCause_run
      (s := u.onLand fun l => { l with unverifs := l.unverifs + 1 }) (rank := 10) hurun rfl
      (some { segEvent ST.memUnverifiable seg.toNat panel.toNat 0 5 0 with job := id.job, stripe := id.stripe }) none
    exact ⟨z, _, hz, hmem, rfl, hhalt (by decide)⟩
  · rw [if_pos ⟨hready, hneed⟩]
    have hgoes := State.unverifiable_run hug (by rw [hready]; decide) panel.toNat 5
    rw [hurun] at hgoes
    obtain ⟨⟨q, w⟩, hq⟩ := Option.isSome_iff_exists.1 hgoes
    obtain ⟨z, hz, hmem, hhalt⟩ := State.stopCause_run (rank := 10) hq rfl none none
    exact ⟨z, _, hz, hmem, rfl, hhalt (by decide)⟩
end

/-- Settles O35. -/
theorem preparationAndArbitration : Obligations.PreparationAndArbitration := fun _ _ _ _ _ hx hg =>
  ⟨fun slot q => reaches_preparationStart hx hg slot q, reaches_segmentReady hx hg,
    fun panel harb hst => reaches_arbitrationComplete hx hg panel harb hst rfl rfl,
    fun badA badB => reaches_scrubSegment hx hg badA badB, fun panel row =>
      ⟨reaches_playBufferEcc_ready hx hg panel row, reaches_playBufferEcc_run hx hg panel row⟩⟩

end Sys2Proof.Machine
end

section
/-!
PROOF. Rewrites, pattern tests and re-render (R160, R176, R179, R180, R198), obligation O36.
-/

namespace Sys2Proof.Machine

-- Many proofs here are the first to unfold their functions of the model, and side by side each would hold a thread.
set_option Elab.async false

/-! ### COPY_REWRITE_COMPLETE (R176) -/

/-- A panel whose copy stands rewritten in fresh extents. -/
def Panel.rewritten (c : Stack) (es : List Nat) (p : Panel) : Panel :=
  { p.setExts c es with rewrite := none, badCopy := none }

theorem Panel.rewritten_exts (p : Panel) (c : Stack) (es : List Nat) : (p.rewritten c es).exts c = es ∧
    (p.rewritten c es).exts (otherStack c) = p.exts (otherStack c) := by
  cases c <;> exact ⟨rfl, rfl⟩

section
variable {s : State} {id : StripeId} {seg : BitVec 16} {x : Stripe} {g : Seg}

/-- A panel whose rewrite is called for is not one of the landing that a re-render replaces. -/
theorem State.evictsOld_of_rewrite {p : Nat} {q : Panel} {c : Stack} (hq : g.panels[p]? = some q)
    (hrewrite : q.rewrite = some c) : s.evictsOld g p c = false := by
  unfold State.evictsOld
  dsimp only
  rw [List.getD_eq_getElem?_getD, hq, Option.getD_some, hrewrite, beq_self_eq_true, Bool.true_or, Bool.not_true,
    Bool.and_false]

variable (hx : s.stripe? id = some x) (hg : x.seg? seg.toNat = some g)
include hx hg

theorem reaches_copyRewriteComplete {panel : BitVec 4} {copy : Stack} {exts : List (BitVec 48)} {q : Panel}
    (hq : g.panels[panel.toNat]? = some q) (hrewrite : q.rewrite = some copy)
    (hlen : exts.length = (q.exts (s.rewriteFrom x seg.toNat panel.toNat copy)).length)
    (hfree : s.extentsFree copy (exts.map (·.toNat)) = true) (hcopy : s.stackReads copy = true)
    (hsrc : s.stackReads (s.rewriteFrom x seg.toNat panel.toNat copy) = true)
    (hrfc : (s.mc.stack copy).inRfc s.now = false)
    (hrfc' : (s.mc.stack (s.rewriteFrom x seg.toNat panel.toNat copy)).inRfc s.now = false) :
    Reaches (exec (.copyRewriteComplete id seg panel copy exts true) s) fun t =>
      (∃ r, (t.seg? id seg.toNat).bind (·.panels[panel.toNat]?) = some r ∧ r.exts copy = exts.map (·.toNat) ∧
        r.exts (otherStack copy) = q.exts (otherStack copy) ∧ r.rewrite = none) ∧
      t.land.testing = s.land.testing ++ (q.exts copy).map fun e => (copy, e) := by
  have hpanel : x.panel seg.toNat panel.toNat = q := by
    unfold Stripe.panel
    rw [hg, Option.bind_some, hq, Option.getD_some]
  refine reaches_of_next rfl ?_
  rw [hx]
  dsimp only
  rw [hpanel, hg, Option.any_some, State.evictsOld_of_rewrite hq hrewrite, Option.any_some]
  simp only [Bool.false_eq_true, if_false]
  rw [if_pos ⟨Or.inl hrewrite, trivial, by rw [List.length_map, hlen], hfree, hcopy, hsrc, by rw [hrfc, hrfc']; rfl⟩]
  generalize hu : State.writeImages _ _ = u
  have hfr : Fr [.bytes] s u := by
    rw [← hu]
    exact Fr.trans (Fr.ite (State.write_fr ..) (Fr.refl ..)) (State.writeImages_fr ..)
  generalize hv : State.onLand (State.onSeg u _ _ _) _ = v
  have hvseg : v.seg? id seg.toNat = some { g.onPanel panel.toNat (·.rewritten copy (exts.map (·.toNat))) with
      repairs := satInc 16 g.repairs } := by
    rw [← hv, (State.onLand_fr ..).seg_eq]
    exact State.seg_onSeg ((hfr.seg_eq id _).trans (State.seg_of_stripe hx hg))
  have hvland : v.land.testing = s.land.testing ++ (q.exts copy).map fun e => (copy, e) := by
    rw [← hv, State.onLand_land, (State.onSeg_fr ..).land_eq, hfr.land_eq]
  have hend : Fr [.bytes] v (if (g.tland != 0) = true then v.writeLanding id seg.toNat else v) :=
    Fr.ite (State.writeLanding_fr ..) (Fr.refl ..)
  rw [(State.faultSt_fr ..).seg_eq, (State.faultSt_fr ..).land_eq, hend.seg_eq, hend.land_eq, hvseg]
  obtain ⟨hown, hother⟩ := q.rewritten_exts copy (exts.map (·.toNat))
  exact ⟨⟨_, panel_modify hq _, hown, hother, rfl⟩, hvland⟩

/-! ### Re-render (R180) -/

omit hx hg in
theorem Stripe.seg_onSeg {k : Nat} (hg : x.seg? k = some g) (f : Seg → Seg) : (x.onSeg k f).seg? k = some (f g) := by
  show (x.segs.modify k f)[k]? = some (f g)
  rw [List.getElem?_modify_eq, show x.segs[k]? = some g from hg]
  rfl

theorem reaches_rerenderStart (hst : g.lstate = .unverifiable) (hstarted : x.started = false)
    (hland : x.landing ≠ .complete) (hold : g.old = none) (hheld : s.heldCount < 8192) :
    Reaches (exec (.rerenderStart id seg) s) fun t =>
      t.seg? id seg.toNat = some { g with
        lstate := .landing, old := some (g.panels, g.recA, g.recB), panels := [], recA := 0, recB := 0, tadm := 0,
        feedWait := false } := by
  refine reaches_of_next rfl ?_
  rw [hx, State.seg_of_stripe hx hg]
  dsimp only
  rw [if_pos ⟨hst, by rw [hstarted]; rfl, hland, by rw [hold]; rfl, hheld⟩, State.seg_of_jobs (State.enqueueAll_jobs ..)]
  exact State.seg_of_stripe (State.stripe_onStripe_self hx fun _ => rfl) (Stripe.seg_onSeg hg _)

/-- A segment that is withheld while a re-render of it is under way (R180). -/
theorem State.withhold_rerender (hold : g.old.isSome = true) :
    ((s.withhold id seg.toNat).seg? id seg.toNat).map (·.lstate) = some .withheld := by
  unfold State.withhold
  rw [hx]
  dsimp only
  rw [hg, Option.map_some, Option.getD_some, hold, if_pos rfl, State.landingDone_seg, State.queueLanding_seg,
    (State.onRender_fr ..).seg_eq, State.seg_onSeg (State.seg_of_stripe hx hg)]
  rfl

theorem reaches_rerenderComplete (ps : List Panel) (ra rb : Nat) (hold : g.old = some (ps, ra, rb))
    (hlen : g.panels.length = 16) (hcoded : g.panels.all (fun p => p.st == .encoded) = true) (hst : g.lstate = .landing)
    (hA : s.stackReads .a = true) (hB : s.stackReads .b = true) :
    Reaches (exec (.rerenderComplete id seg true) s) fun t =>
      if (g.panels.map fun p => (p.bsig, p.after)) = (ps.map fun p => (p.bsig, p.after)) then
        t.seg? id seg.toNat = some { g with old := none, lstate := .landed, tland := s.now, lastScrub := s.now }
      else (t.seg? id seg.toNat).map (·.lstate) = some .withheld := by
  refine reaches_of_next rfl ?_
  rw [State.seg_of_stripe hx hg]
  dsimp only
  rw [hold]
  dsimp only
  have hdue : ¬ (g.panels.length ≠ 16 ∨ g.panels.all (fun p => p.st == .encoded) ≠ true ∨ g.lstate ≠ .landing ∨
      (s.stackReads .a && s.stackReads .b) ≠ true) := by
    rw [hlen, hcoded, hst, hA, hB]
    decide
  rw [if_neg hdue]
  by_cases heq : (g.panels.map fun p => (p.bsig, p.after)) = ps.map fun p => (p.bsig, p.after)
  · rw [heq, beq_self_eq_true, if_pos rfl, if_pos (show (true && true) = true from rfl), (State.writeLanding_fr ..).seg_eq]
    exact State.seg_onSeg (State.seg_of_stripe hx hg)
  · rw [beq_eq_false_iff_ne.2 heq, if_neg heq, if_neg (show ¬ (true && false) = true from Bool.false_ne_true)]
    exact State.withhold_rerender (((State.faultSt_fr ..).stripe_eq id).trans hx) hg (by rw [hold]; rfl)
end

/-! ### EXTENT_PATTERN_TEST (R160) -/

theorem contains_filter_ne (l : List (Stack × Nat)) (a : Stack × Nat) : (l.filter (· != a)).contains a = false := by
  rw [Bool.eq_false_iff, ne_eq, List.contains_iff_mem]
  exact not_mem_filter_ne l a

theorem reaches_extentPatternTest {s : State} {st : Stack} {addr : BitVec 48}
    (htest : s.land.testing.contains (st, addr.toNat) = true) (hreads : s.stackReads st = true)
    (hrfc : (s.mc.stack st).inRfc s.now = false) :
    Reaches (exec (.extentPatternTest st addr true) s) (fun t => t.land.testing.contains (st, addr.toNat) = false ∧
      t.land.removed = s.land.removed ∧ t.mc = s.mc) ∧
    Reaches (exec (.extentPatternTest st addr false) s) (fun t => t.land.testing.contains (st, addr.toNat) = false ∧
      t.land.removed = s.land.removed ++ [(st, addr.toNat)]) := by
  constructor
  · refine reaches_of_next rfl ?_
    dsimp only
    rw [if_pos ⟨htest, hreads, hrfc⟩, if_pos rfl]
    exact ⟨contains_filter_ne .., rfl, rfl⟩
  · refine reaches_of_next rfl ?_
    dsimp only
    rw [if_pos ⟨htest, hreads, hrfc⟩, if_neg Bool.false_ne_true]
    exact ⟨contains_filter_ne .., rfl⟩

/-- Settles O36. -/
theorem rewritesAndRerender : Obligations.RewritesAndRerender :=
  ⟨fun _ _ _ _ _ hx hg => ⟨fun _ _ _ _ hq => reaches_copyRewriteComplete hx hg hq, reaches_rerenderStart hx hg,
    reaches_rerenderComplete hx hg⟩, fun _ _ _ => reaches_extentPatternTest⟩

end Sys2Proof.Machine
end

section
/-!
PROOF. History and faults of the beam path (chapters 8 and 9), and obligation O42.
-/

namespace Sys2Proof.Machine

-- Many proofs here are the first to unfold their functions of the model, and side by side each would hold a thread.
set_option Elab.async false

section
variable {s : State} {r : Run} {x : Stripe} {n : Nat}

/-! ### A fault of the beam path in a run (R216, R240, Table 9-7) -/

theorem stageRank_ten : stageRank 10 = false := by decide

/-- A cause of rank 10 halts the run and leaves its flash and the bank marks as they were. -/
theorem State.stopCause_ten (hrun : s.run? = some (r, x)) (ev : Option Event) (b : Option Nat) :
    ∃ q, (s.stopCause 10 ev b).play = { s.play with run := some q } ∧ q.halt.isSome = true ∧ q.flash = r.flash := by
  unfold State.stopCause
  rw [hrun]
  dsimp only
  rw [stageRank_ten, if_neg (by simp)]
  refine ⟨_, rfl, ?_, rfl⟩
  dsimp only
  rw [if_pos (by decide)]
  split <;> rfl

theorem State.blankBeams_run (hrun : s.run? = some (r, x)) (f : Nat → Bool) :
    (s.blankBeams f).run? =
      some ({ r with flash := { r.flash with codes := r.flash.codes.filter fun c => !f c.1 } }, x) :=
  State.run_kept hrun rfl (by
    show s.play.run.map _ = _
    rw [(State.run_of hrun).1]
    rfl) rfl

theorem State.beamFault_of_run (hrun : s.run? = some (r, x)) (e : Event) :
    s.beamFault e = s.stopCause 10 (some e) none := by
  unfold State.beamFault
  rw [hrun]

theorem State.beamFault_of_idle (hrun : s.run? = none) (e : Event) : s.beamFault e = s.fault none e := by
  unfold State.beamFault
  rw [hrun]

/-- Beams of the placed flash take code 0 and the run halts. -/
theorem State.blankBeams_halts (hrun : s.run? = some (r, x)) (f : Nat → Bool) (e : Event) :
    ∃ q, ((s.blankBeams f).beamFault e).play.run = some q ∧ q.halt.isSome = true ∧
      q.flash.codes = r.flash.codes.filter fun c => !f c.1 := by
  have hblank := State.blankBeams_run hrun f
  obtain ⟨q, hq, hhalt, hflash⟩ := State.stopCause_ten hblank (some e) none
  rw [State.beamFault_of_run hblank, hq]
  exact ⟨q, rfl, hhalt, by rw [hflash]⟩

theorem State.beamFault_bankBad (s : State) (e : Event) : (s.beamFault e).play.bankBad = s.play.bankBad := by
  cases hrun : s.run? with
  | none => rw [State.beamFault_of_idle hrun, State.fault_play]
  | some rx =>
    obtain ⟨r, x⟩ := rx
    obtain ⟨q, hq, -⟩ := State.stopCause_ten hrun (some e) none
    rw [State.beamFault_of_run hrun, hq]

/-! ### History between runs (R234, R239, R240) -/

theorem reaches_historyIdleDecay {m : Nat} (hlast : s.beam.lastM = some m) (hidle : s.beamsFlashing = false)
    (hdue : m / 64 + 625 * (s.beam.decays + 1) ≤ s.now) :
    Reaches (exec .historyIdleDecay s) fun t => t.beam = { s.beam with
      hist := histStep (lambdaOf 625 s.beam.tau) s.beam.hist [], decays := s.beam.decays + 1 } := by
  rw [exec_historyIdleDecay, execHistoryIdleDecay, hlast]
  dsimp only
  rw [hidle, decide_eq_false (Nat.not_lt.mpr hdue), if_neg (by simp)]
  exact ⟨_, rfl, rfl⟩

theorem reaches_historyZero {m : Nat} (hlast : s.beam.lastM = some m) (hplaced : s.beamsPlaced = false)
    (hdue : m / 64 + s.beam.fiveTau ≤ s.now) :
    Reaches (exec .historyZero s) fun t => t.beam = { s.beam with hist := [] } := by
  unfold State.beamsPlaced at hplaced
  rw [exec_historyZero, execHistoryZero, hlast]
  dsimp only
  rw [hplaced, decide_eq_false (Nat.not_lt.mpr hdue), if_neg (by simp)]
  exact ⟨_, rfl, rfl⟩

theorem reaches_enforcedIdleEnd {t0 : Nat} (hend : s.beam.idleEnd = some t0) (hdue : t0 ≤ s.now) :
    Reaches (exec .enforcedIdleEnd s) fun t => t.beam = { s.beam with idleEnd := none } := by
  rw [exec_enforcedIdleEnd, execEnforcedIdleEnd, hend]
  dsimp only
  rw [if_neg (Nat.not_lt.mpr hdue)]
  exact ⟨_, rfl, rfl⟩

theorem State.loseHistory_beam {m : Nat}
    (hlast : (if s.beamsPlaced then some (64 * s.now) else s.beam.lastM) = some m)
    (hrecent : s.now < m / 64 + s.beam.fiveTau) :
    s.loseHistory.beam = { s.beam with hist := [], idleEnd := some (m / 64 + s.beam.fiveTau) } := by
  unfold State.loseHistory
  rw [hlast]
  dsimp only [State.onBeam]
  rw [if_pos hrecent]

theorem reaches_historyParityError {b : BitVec 18} {m : Nat}
    (hlast : (if s.beamsPlaced then some (64 * s.now) else s.beam.lastM) = some m)
    (hrecent : s.now < m / 64 + s.beam.fiveTau) (hservice : s.rstate (nodeR 2 4 (b.toNat / 32)) = .inService) :
    Reaches (exec (.historyParityError b) s) fun t =>
      t.beam = { s.beam with hist := [], idleEnd := some (m / 64 + s.beam.fiveTau) } ∧
      t.rstate (nodeR 2 4 (b.toNat / 32)) = .quarantined ∧
      ∀ r x, s.run? = some (r, x) → x.target = 0 → ∃ q, t.play.run = some q ∧ q.halt.isSome = true ∧
        q.flash.codes = r.flash.codes.filter fun c => c.1 != b.toNat := by
  rw [exec_historyParityError, execHistoryParityError]
  dsimp only
  refine ⟨_, rfl, ?_⟩
  generalize he : ({ beamEvent ST.beamHistoryLost s.faultFlash b.toNat 0 0 with nodef := nodeF 9 1 0, noder := nodeR 2 4 (b.toNat / 32) } : Event) = e
  clear he
  have hlost := State.loseHistory_fr s
  have hquar := State.quarantine_fr s.loseHistory (nodeR 2 4 (b.toNat / 32))
  have hbeam := (hquar.beam_eq).trans (State.loseHistory_beam hlast hrecent)
  have hrstate := State.quarantine_rstate ((hlost.rstate_eq _).trans hservice)
  have hrun (r : Run) (x : Stripe) (h : s.run? = some (r, x)) :
      (s.loseHistory.quarantine (nodeR 2 4 (b.toNat / 32))).run? = some (r, x) :=
    (hquar.run_eq.trans hlost.run_eq).trans h
  generalize s.loseHistory.quarantine (nodeR 2 4 (b.toNat / 32)) = u at hbeam hrstate hrun
  cases hr : s.run? with
  | none =>
    dsimp only
    rw [if_neg Bool.false_ne_true]
    refine ⟨?_, ?_, fun r x h => absurd h (by simp)⟩
    · exact (State.fault_beam ..).trans hbeam
    · exact ((State.fault_fr ..).rstate_eq _).trans hrstate
  | some rx =>
    obtain ⟨r, x⟩ := rx
    have hblank := State.blankBeams_run (hrun r x hr) (· == b.toNat)
    by_cases htarget : x.target = 0
    · simp only [htarget, BEq.rfl, if_true]
      refine ⟨?_, ?_, ?_⟩
      · exact (State.stopCause_fr ..).beam_eq.trans ((State.blankBeams_fr ..).beam_eq.trans hbeam)
      · exact ((State.stopCause_fr ..).rstate_eq _).trans (((State.blankBeams_fr ..).rstate_eq _).trans hrstate)
      · rintro _ _ ⟨⟩ -
        obtain ⟨q, hq, hhalt, hcodes⟩ := State.blankBeams_halts (hrun _ _ hr) (· == b.toNat) e
        rw [State.beamFault_of_run hblank] at hq
        exact ⟨q, hq, hhalt, hcodes⟩
    · simp only [beq_false_of_ne htarget, Bool.false_eq_true, if_false]
      refine ⟨?_, ?_, ?_⟩
      · exact (State.fault_beam ..).trans hbeam
      · exact ((State.fault_fr ..).rstate_eq _).trans hrstate
      · rintro _ _ ⟨⟩ h
        exact absurd h htarget

/-! ### Gain tables, the window and the datapaths (R216, R226, Table 9-7) -/

theorem reaches_gainParityError {b : BitVec 18} (hactive : s.beam.activeT.isSome = true) :
    Reaches (exec (.gainParityError b) s) fun t => t.beam = { s.beam with activeT := none } ∧
      ∀ r x, s.run? = some (r, x) → ∃ q, t.play.run = some q ∧ q.halt.isSome = true ∧
        q.flash.codes = r.flash.codes.filter fun c => c.1 != b.toNat := by
  rw [exec_gainParityError, execGainParityError]
  dsimp only
  rw [if_neg (by rw [Option.isNone_iff_eq_none]; exact Option.isSome_iff_ne_none.mp hactive)]
  refine ⟨_, rfl, ?_, fun r x hrun => ?_⟩
  · exact (State.beamFault_fr ..).beam_eq.trans ((State.blankBeams_fr ..).beam_eq.trans (State.onRepairRec_fr ..).beam_eq)
  · have hkept : (s.onBeam fun z => { z with activeT := none }).run? = s.run? := State.run_same rfl rfl
    exact State.blankBeams_halts ((State.onRepairRec_fr ..).run_eq.trans (hkept.trans hrun)) _ _

theorem State.windowLost_play {row word : Nat} (hservice : s.rstate (nodeR 2 2 n) = .inService) :
    (s.windowLost n row word).play.bankBad.contains n = true ∧
      (s.windowLost n row word).rstate (nodeR 2 2 n) = .quarantined ∧
      ∀ r x, s.run? = some (r, x) → ∃ q, (s.windowLost n row word).play.run = some q ∧ q.halt.isSome = true ∧
        (∀ u, r.slotReader x.rev row = some u → q.flash.codes = r.flash.codes.filter fun c =>
          !(s.play.wordBeams u n row word).contains c.1) ∧
        (r.slotReader x.rev row = none → q.flash.codes = r.flash.codes) := by
  unfold State.windowLost
  dsimp only
  generalize hp : (s.onPlay fun p => { p with bankBad := if p.bankBad.contains n then p.bankBad else p.bankBad ++ [n] }) = p
  have hbad : p.play.bankBad.contains n = true := by
    subst hp
    show (if s.play.bankBad.contains n then s.play.bankBad else s.play.bankBad ++ [n]).contains n = true
    by_cases hin : s.play.bankBad.contains n = true
    · rw [if_pos hin]
      exact hin
    · rw [if_neg hin]
      simp
  have hprun : p.run? = s.run? := by
    subst hp
    exact State.run_same rfl rfl
  have hq := State.quarantine_fr p (nodeR 2 2 n)
  have hqbad : (p.quarantine (nodeR 2 2 n)).play.bankBad.contains n = true := by rw [hq.play_eq]; exact hbad
  have hqrun := hq.run_eq.trans hprun
  have hqstate : (p.quarantine (nodeR 2 2 n)).rstate (nodeR 2 2 n) = .quarantined :=
    State.quarantine_rstate (by subst hp; exact hservice)
  generalize p.quarantine (nodeR 2 2 n) = u at hqbad hqrun hqstate
  cases hr : s.run? with
  | none =>
    exact ⟨by rw [State.fault_play]; exact hqbad, ((State.fault_fr ..).rstate_eq _).trans hqstate,
      fun r x h => absurd h (by simp)⟩
  | some rx =>
    obtain ⟨r, x⟩ := rx
    refine ⟨?_, ?_, ?_⟩
    · rw [State.beamFault_bankBad]
      exact hqbad
    · exact ((State.beamFault_fr ..).rstate_eq _).trans (((State.blankBeams_fr ..).rstate_eq _).trans hqstate)
    · rintro _ _ ⟨⟩
      dsimp only
      obtain ⟨q, hplay, hhalt, hcodes⟩ := State.blankBeams_halts (hqrun.trans hr) _ _
      refine ⟨q, hplay, hhalt, fun v hv => ?_, fun hnone => ?_⟩
      · rw [hcodes, hv]
      · rw [hcodes, hnone]
        exact List.filter_eq_self.mpr fun _ _ => rfl

theorem find_filter_ne_append {v : List Nat} (l : List (Nat × List Nat)) (b : Nat) :
    ((l.filter (·.1 != b) ++ [(b, v)]).find? (·.1 == b)).map (·.2) = some v := by
  have hnone : (l.filter (·.1 != b)).find? (·.1 == b) = none := by
    rw [List.find?_eq_none]
    intro y hy
    simpa using (List.mem_filter.mp hy).2
  rw [List.find?_append, hnone, Option.none_or, List.find?_cons_of_pos (by simp)]
  rfl

theorem State.softError_play (b : Nat) :
    let old := (((s.play.bankErr.find? (·.1 == b)).map (·.2)).getD []).filter fun z => decide (s.now < z + cycS 1)
    ((s.softError b).play.bankErr.find? (·.1 == b)).map (·.2) = some (old ++ [s.now]) ∧
      (s.softError b).play.run = s.play.run ∧
      (15 ≤ old.length → (s.softError b).play.bankBad.contains b = true ∧ (s.play.bankBad.contains b = false →
        s.rstate (nodeR 2 2 b) = .inService → (s.softError b).rstate (nodeR 2 2 b) = .quarantined)) := by
  intro old
  unfold State.softError
  extract_lets old' new s1
  have hlen : new.length = old.length + 1 := List.length_append
  by_cases hmark : 16 ≤ new.length ∧ s1.play.bankBad.contains b = false
  · rw [if_pos hmark, (State.quarantine_fr ..).play_eq]
    refine ⟨find_filter_ne_append .., rfl, fun _ => ⟨?_, fun _ hservice => ?_⟩⟩
    · show (s1.play.bankBad ++ [b]).contains b = true
      simp
    · exact State.quarantine_rstate hservice
  · rw [if_neg hmark]
    refine ⟨find_filter_ne_append .., rfl, fun hmany => ?_⟩
    have hbad : s.play.bankBad.contains b = true := by
      have h := not_and.mp hmark (by omega)
      exact (Bool.not_eq_false _).mp h
    exact ⟨hbad, fun hnot => absurd (hbad.symm.trans hnot) (by decide)⟩

theorem State.deficitParity_play {k g : Nat} (hrun : s.run? = some (r, x)) (hgroup : r.storeGroup = some g)
    (hplaced : r.placed = false)
    (hstep : [256, 512, 768].contains ((r.next : Int) - r.f0 - defStep ((r.next : Int) - r.f0) k) = true)
    (hrelay : (relay x r s.play (defStep ((r.next : Int) - r.f0) k) (8 * g + k % 4096 / 512) (k % 512)).isSome = true) :
    (s.deficitParity k).play.deficit = sparseSet s.play.deficit k 0 ∧ (s.deficitParity k).play.run = s.play.run := by
  have hcol : k % 4096 % 512 = k % 512 := Nat.mod_mod_of_dvd k (by decide)
  unfold State.deficitParity
  rw [hrun]
  dsimp only
  rw [hgroup]
  dsimp only
  rw [hcol, if_pos ⟨hplaced, hstep, hrelay⟩, State.faultSt_play, (State.onRepairRec_fr ..).play_eq]
  exact ⟨rfl, rfl⟩

theorem State.unitFault_beamFault {e : Event} {node : BitVec 32} (hnode : outputLane node = false) :
    ((s.unitFault node).beamFault e).rstate node = .quarantined ∨ ((s.unitFault node).beamFault e).rstate node = .failed := by
  rw [(State.beamFault_fr ..).rstate_eq]
  exact State.unitFault_rstate s hnode

theorem State.integrityFault_integrity (s : State) (e : Event) : (s.integrityFault e).stage.integrity = true := by
  unfold State.integrityFault
  rw [(State.stopCause_fr ..).stage_eq]
  rfl

theorem State.unitFault_integrityFault {e : Event} {node : BitVec 32} (hnode : outputLane node = false) :
    ((s.unitFault node).integrityFault e).stage.integrity = true ∧
      (((s.unitFault node).integrityFault e).rstate node = .quarantined ∨
        ((s.unitFault node).integrityFault e).rstate node = .failed) := by
  refine ⟨State.integrityFault_integrity .., ?_⟩
  rw [(State.integrityFault_fr ..).rstate_eq]
  exact State.unitFault_rstate s hnode

theorem outputLane_axis (a : Axis) : outputLane (nodeR 8 1 (axisNum a)) = false := by
  cases a <;> decide

end

/-- Settles O42, with what log entries 23 (the entries of an SRAM row), 24 (the operands of the two reads) and 99 (the
enforced idle from now on while a flash is placed) choose: the three rows of the history by their definitions, the
faults by what a cause of rank 10 leaves of a run. -/
theorem beamPathEvents : Obligations.BeamPathEvents := by
  intro s
  refine ⟨fun m => reaches_historyIdleDecay, fun m => reaches_historyZero, fun t0 => reaches_enforcedIdleEnd,
    fun b m => reaches_historyParityError, fun b => reaches_gainParityError, fun bank slot word hservice => ?_,
    fun bank => ?_, fun unit => ?_⟩
  · exact reaches_of_next rfl (State.windowLost_play hservice)
  · exact reaches_of_next rfl (State.softError_play bank.toNat)
  · refine reaches_of_next rfl ?_
    cases unit with
    | interpolator => exact State.unitFault_beamFault (by decide)
    | split => exact State.unitFault_beamFault (by decide)
    | quantizer => exact State.unitFault_beamFault (by decide)
    | deficit k => exact fun r x g hrun hgroup hplaced hstep hrelay => State.deficitParity_play hrun hgroup hplaced hstep hrelay
    | fusion a => exact State.unitFault_integrityFault (outputLane_axis a)
    | speed a => exact State.unitFault_integrityFault (outputLane_axis a)

end Sys2Proof.Machine
end

section
/-!
PROOF. The life of a lane (chapter 12), and obligation O44.
-/

namespace Sys2Proof.Machine

/-! ### What an operation on one lane leaves of the links -/

/-- The other lanes, their number and the return lanes are as before. -/
structure State.LaneStep (n : Nat) (s t : State) : Prop where
  other : ∀ k, k ≠ n → t.link.lane k = s.link.lane k
  length : t.link.lanes.length = s.link.lanes.length
  rets : t.link.rets = s.link.rets

section
variable {s t : State} {n k : Nat}

theorem Link.lane_of_lanes {l m : Link} (h : m.lanes = l.lanes) (k : Nat) : m.lane k = l.lane k := by
  unfold Link.lane
  rw [h]

theorem State.LaneStep.of_lanes (h : t.link.lanes = s.link.lanes) (hrets : t.link.rets = s.link.rets) :
    State.LaneStep n s t :=
  ⟨fun k _ => Link.lane_of_lanes h k, by rw [h], hrets⟩

theorem State.LaneStep.of_link (h : t.link = s.link) : State.LaneStep n s t := .of_lanes (by rw [h]) (by rw [h])

theorem State.LaneStep.refl : State.LaneStep n s s := .of_link rfl

theorem State.LaneStep.trans {u : State} (h : State.LaneStep n s t) (k : State.LaneStep n t u) : State.LaneStep n s u :=
  ⟨fun j hj => (k.other j hj).trans (h.other j hj), k.length.trans h.length, k.rets.trans h.rets⟩

theorem State.onLane_laneStep (s : State) (n : Nat) (f : Lane → Lane) : State.LaneStep n s (s.onLane n f) :=
  ⟨fun _ hk => Link.lane_onLane_ne hk.symm f, State.onLane_lanes_length .., rfl⟩

theorem State.headCheck_lanes (s : State) : s.headCheck.link.lanes = s.link.lanes := by
  unfold State.headCheck
  split
  · rw [State.fault_link]
    rfl
  · rfl

theorem State.headCheck_rets (s : State) : s.headCheck.link.rets = s.link.rets := by
  unfold State.headCheck
  split
  · rw [State.fault_link]
    rfl
  · rfl

theorem State.headCheck_lane (s : State) (k : Nat) : s.headCheck.link.lane k = s.link.lane k :=
  Link.lane_of_lanes s.headCheck_lanes k

theorem State.headCheck_laneStep (s : State) : State.LaneStep n s s.headCheck := .of_lanes s.headCheck_lanes s.headCheck_rets

theorem State.fault_laneStep (s : State) (job : Option (BitVec 16)) (e : Event) : State.LaneStep n s (s.fault job e) :=
  .of_link (State.fault_link ..)

theorem State.retireLane_laneStep (s : State) (n c : Nat) : State.LaneStep n s (s.retireLane n c) :=
  ((State.onLane_laneStep ..).trans (State.fault_laneStep ..)).trans (State.headCheck_laneStep _)

theorem State.failBringup_laneStep (s : State) (n : Nat) : State.LaneStep n s (s.failBringup n) := by
  unfold State.failBringup
  dsimp only
  split
  · exact (State.onLane_laneStep ..).trans (State.retireLane_laneStep ..)
  · exact (State.onLane_laneStep ..).trans (State.headCheck_laneStep _)

theorem State.dropLane_laneStep (s : State) (n : Nat) : State.LaneStep n s (s.dropLane n) := by
  unfold State.dropLane
  dsimp only
  split
  · exact .refl
  · split
    · exact State.failBringup_laneStep ..
    · exact ((State.onLane_laneStep ..).trans (State.fault_laneStep ..)).trans (State.headCheck_laneStep _)

theorem State.trainPreset_laneStep (s : State) (n p : Nat) : State.LaneStep n s (s.trainPreset n p) :=
  (State.onLane_laneStep ..).trans (.of_link rfl)

theorem State.trainPreset_sentIn (s : State) (n p : Nat) : s.sentIn (s.trainPreset n p) := List.prefix_append ..

/-! ### Operations on each lane of a list -/

theorem foldl_at {α β : Type} (f : β → α → β) {l : List α} (hl : l.Nodup) {a : α} (ha : a ∈ l) (b : β) :
    ∃ l1 l2 : List α, a ∉ l1 ∧ a ∉ l2 ∧ l.foldl f b = l2.foldl f (f (l1.foldl f b) a) := by
  obtain ⟨l1, l2, rfl⟩ := List.append_of_mem ha
  rw [List.nodup_append, List.nodup_cons] at hl
  obtain ⟨-, ⟨hnot, -⟩, hdisj⟩ := hl
  exact ⟨l1, l2, fun h => hdisj a h a (List.mem_cons_self ..) rfl, hnot, by rw [List.foldl_append, List.foldl_cons]⟩

section
variable {f : State → Nat → State} (hf : ∀ t m, State.LaneStep m t (f t m))
include hf

theorem State.foldl_lane_other (l : List Nat) (hk : k ∉ l) (s : State) :
    (l.foldl f s).link.lane k = s.link.lane k := by
  induction l generalizing s with
  | nil => rfl
  | cons m l ih =>
    rw [List.mem_cons, not_or] at hk
    exact (ih hk.2 _).trans ((hf s m).other k hk.1)

theorem State.foldl_lanes (l : List Nat) (s : State) :
    (l.foldl f s).link.lanes.length = s.link.lanes.length ∧ (l.foldl f s).link.rets = s.link.rets :=
  foldl_keeps (P := fun t => t.link.lanes.length = s.link.lanes.length ∧ t.link.rets = s.link.rets)
    (fun t m ⟨hlen, hrets⟩ => ⟨(hf t m).length.trans hlen, (hf t m).rets.trans hrets⟩) l ⟨rfl, rfl⟩

/-- A lane of the list is operated on once, in a state where it is as it was before. -/
theorem State.foldl_lane {l : List Nat} (hl : l.Nodup) (hk : k ∈ l) (s : State) :
    ∃ u : State, u.link.lane k = s.link.lane k ∧ u.link.lanes.length = s.link.lanes.length ∧
      (l.foldl f s).link.lane k = (f u k).link.lane k ∧
      ((∀ (t : State) m, t.sentIn (f t m)) → (f u k).sentIn (l.foldl f s)) := by
  obtain ⟨l1, l2, h1, h2, hfold⟩ := foldl_at f hl hk s
  refine ⟨l1.foldl f s, State.foldl_lane_other hf l1 h1 s, (State.foldl_lanes hf l1 s).1, ?_, fun hsent => ?_⟩
  · rw [hfold]
    exact State.foldl_lane_other hf l2 h2 _
  · rw [hfold]
    exact State.foldl_sentIn hsent l2 _
end

theorem upto_nodup (a b : Nat) : (upto a b).Nodup := by
  unfold upto
  exact List.Pairwise.map _ (fun _ _ hne h => hne (Nat.add_right_cancel h)) List.nodup_range

theorem mem_upto {a b m : Nat} : m ∈ upto a b ↔ a ≤ m ∧ m < b := by
  unfold upto
  rw [List.mem_map]
  constructor
  · rintro ⟨i, hi, rfl⟩
    rw [List.mem_range] at hi
    omega
  · intro h
    exact ⟨m - a, List.mem_range.mpr (by omega), by omega⟩

theorem mem_served {q : Nat} (h : retOf k = q) : k ∈ upto (17 * q) (17 * q + 17) := by
  unfold retOf at h
  exact mem_upto.mpr (by omega)

/-! ### Down, and up again (R319, R323, R324, Table 12-9) -/

theorem State.retireLane_lane (hn : n < s.link.lanes.length) (c : Nat) :
    (s.retireLane n c).link.lane n = { s.link.lane n with st := .retired, testing := false, step := 0 } := by
  unfold State.retireLane
  rw [State.headCheck_lane, State.fault_link, State.onLane_lane hn]

theorem State.dropLane_lane (hn : n < s.link.lanes.length)
    (hup : (s.link.lane n).st = .spare ∨ (s.link.lane n).st = .carrier) :
    (s.dropLane n).link.lane n =
      { s.link.lane n with st := .down, step := 0, downAt := s.now, ident := none, testing := false } := by
  have hretired : (s.link.lane n).st ≠ .retired := by rintro h; simp [h] at hup
  have hdown : (s.link.lane n).st ≠ .down := by rintro h; simp [h] at hup
  unfold State.dropLane
  dsimp only
  rw [if_neg hretired, if_neg hdown, State.headCheck_lane, State.fault_link, State.onLane_lane hn]

theorem State.failBringup_lane (hn : n < s.link.lanes.length) :
    ((s.failBringup n).link.lane n).fails = (s.link.lane n).fails + 1 ∧
      ((s.failBringup n).link.lane n).st = if 3 ≤ (s.link.lane n).fails + 1 then .retired else .down := by
  unfold State.failBringup
  dsimp only
  by_cases hthree : 3 ≤ (s.link.lane n).fails + 1
  · rw [if_pos hthree, if_pos hthree, State.retireLane_lane (by rw [State.onLane_lanes_length]; exact hn),
      State.onLane_lane hn]
    exact ⟨rfl, rfl⟩
  · rw [if_neg hthree, if_neg hthree, State.headCheck_lane, State.onLane_lane hn]
    exact ⟨rfl, rfl⟩

theorem State.trainPreset_lane (hn : n < s.link.lanes.length) (p : Nat) :
    (s.trainPreset n p).link.lane n = { s.link.lane n with step := 2, preset := p, stepAt := s.now } :=
  State.onLane_lane hn _

theorem State.trainPreset_out (s : State) (n p : Nat) :
    (s.trainPreset n p).out = s.out ++ [.block n (trainBlock p), .block n idleBlock] := rfl

theorem State.startTraining_lane (hn : n < s.link.lanes.length) :
    ((s.startTraining n).link.lane n).step = (if s.link.retUp n then 2 else 1) ∧
      ((s.startTraining n).link.lane n).preset = 0 ∧ ((s.startTraining n).link.lane n).margins = [] ∧
      ((s.startTraining n).link.lane n).stepAt = s.now ∧
      (s.link.retUp n = true → .block n (trainBlock 0) ∈ (s.startTraining n).out ∧
        .block n idleBlock ∈ (s.startTraining n).out) := by
  unfold State.startTraining
  dsimp only
  generalize hu : (s.onLane n fun x => { x with margins := [], preset := 0 }) = u
  have hlane : u.link.lane n = { s.link.lane n with margins := [], preset := 0 } := by
    rw [← hu, State.onLane_lane hn]
  have hlen : n < u.link.lanes.length := by
    rw [← hu, State.onLane_lanes_length]
    exact hn
  have hret : u.link.retUp n = s.link.retUp n := by
    rw [← hu]
    rfl
  have hnow : u.now = s.now := by
    rw [← hu]
    rfl
  rw [hret]
  cases hup : s.link.retUp n with
  | true =>
    rw [if_pos rfl, if_pos rfl, State.trainPreset_lane hlen, State.trainPreset_out, hlane, hnow]
    exact ⟨rfl, rfl, rfl, rfl, fun _ => ⟨by simp, by simp⟩⟩
  | false =>
    rw [if_neg Bool.false_ne_true, if_neg Bool.false_ne_true, State.onLane_lane hlen, hlane]
    exact ⟨rfl, rfl, rfl, rfl, fun h => absurd h Bool.false_ne_true⟩

theorem State.laneTestDone_lane (hn : n < s.link.lanes.length) (htest : (s.link.lane n).testing = true)
    (errors margin : Nat) :
    (s.laneTestDone n errors margin).link.lane n = { s.link.lane n with
      testing := false, step := 0, margin := margin
      st := if errors = 0 ∧ 32 ≤ margin then
          if (s.link.lane n).st = .suspect then (if s.link.map.contains (some n) then .suspectPassed else .spare)
          else (s.link.lane n).st
        else .retired } := by
  unfold State.laneTestDone
  extract_lets l pass s1 s2
  have hrun : ¬ (!l.testing) = true := by rw [show l.testing = true from htest]; decide
  rw [if_neg hrun]
  have hs1 : s1.link.lane n = { s.link.lane n with
      testing := false, step := 0, margin := margin
      st := if (s.link.lane n).st = .suspect then (if s.link.map.contains (some n) then .suspectPassed else .spare)
        else (s.link.lane n).st } := by
    simp only [s1, State.raise_link, State.onLane_lane hn]
  have hlen : n < s1.link.lanes.length := by
    simp only [s1, State.raise_link, State.onLane_lanes_length]
    exact hn
  refine Eq.trans (b := s2.link.lane n) ?_ ?_
  · split
    · rw [State.respond_link, State.unwait_link]
    · rfl
  by_cases hpass : pass
  · rw [if_pos hpass, show s2 = s1 from if_pos (Or.inl hpass), hs1]
  · rw [if_neg hpass]
    by_cases hretired : l.st = .retired
    · rw [show s2 = s1 from if_pos (Or.inr hretired), hs1, show (s.link.lane n).st = .retired from hretired,
        if_neg (by decide)]
    · rw [show s2 = s1.retireLane n _ from if_neg (by rw [not_or]; exact ⟨hpass, hretired⟩),
        State.retireLane_lane hlen, hs1]

theorem State.sendMgmt_lane (hn : n < s.link.lanes.length) (mtype : Nat) (body : List Byte) (tries : Nat) :
    ∃ q, (s.sendMgmt n mtype body tries).link.lane n = { s.link.lane n with mseqTx := q, rx := [] } := by
  unfold State.sendMgmt
  exact ⟨_, Link.lane_onLane_self hn _⟩
end

/-! ### The rows -/

section
variable {s : State} {n : BitVec 7} (hn : n.toNat < s.link.lanes.length)
include hn

theorem reaches_laneDown_up (hlt : n.toNat < 68)
    (hup : (s.link.lane n.toNat).st = .spare ∨ (s.link.lane n.toNat).st = .carrier)
    (htest : (s.link.lane n.toNat).testing = false) :
    Reaches (exec (.laneDown n) s) fun t => (t.link.lane n.toNat).st = .down ∧ (t.link.lane n.toNat).step = 0 ∧
      (t.link.lane n.toNat).ident = none ∧ (t.link.lane n.toNat).downAt = s.now := by
  have hexec : exec (.laneDown n) s = .next (s.dropLane n.toNat) := by
    rw [exec_laneDown, execLaneDown, htest, if_neg Bool.false_ne_true]
    refine if_neg (not_or.mpr ⟨Nat.not_le.mpr hlt, ?_⟩)
    rintro ⟨hdown, -⟩
    simp [hdown] at hup
  refine reaches_of_next hexec ?_
  rw [State.dropLane_lane hn hup]
  exact ⟨rfl, rfl, rfl, rfl⟩

theorem reaches_laneDown_step (hlt : n.toNat < 68) (hdown : (s.link.lane n.toNat).st = .down)
    (hstep : (s.link.lane n.toNat).step ≠ 0) (htest : (s.link.lane n.toNat).testing = false) :
    Reaches (exec (.laneDown n) s) fun t => (t.link.lane n.toNat).fails = (s.link.lane n.toNat).fails + 1 ∧
      (t.link.lane n.toNat).st = if 3 ≤ (s.link.lane n.toNat).fails + 1 then .retired else .down := by
  have hexec : exec (.laneDown n) s = .next (s.failBringup n.toNat) := by
    rw [exec_laneDown, execLaneDown, htest, if_neg Bool.false_ne_true,
      if_neg (not_or.mpr ⟨Nat.not_le.mpr hlt, fun ⟨_, hzero, _⟩ => hstep hzero⟩)]
    unfold State.dropLane
    dsimp only
    rw [hdown, if_neg (by decide), if_pos rfl]
  exact reaches_of_next hexec (State.failBringup_lane hn)

theorem reaches_laneTestComplete (htest : (s.link.lane n.toNat).testing = true) (errors : BitVec 64) (margin : BitVec 8) :
    let pass := errors = 0 ∧ 32 ≤ margin.toNat
    Reaches (exec (.laneTestComplete n errors margin) s) fun t => (t.link.lane n.toNat).testing = false ∧
      (t.link.lane n.toNat).margin = margin.toNat ∧
      (¬ pass → (t.link.lane n.toNat).st = .retired) ∧
      (pass → (s.link.lane n.toNat).st = .suspect → (t.link.lane n.toNat).st =
        if s.link.map.contains (some n.toNat) then .suspectPassed else .spare) ∧
      (pass → (s.link.lane n.toNat).st ≠ .suspect → (t.link.lane n.toNat).st = (s.link.lane n.toNat).st) := by
  intro pass
  have hpass : (errors.toNat = 0 ∧ 32 ≤ margin.toNat) ↔ pass := by
    have hzero : errors.toNat = 0 ↔ errors = 0 := ⟨fun h => BitVec.eq_of_toNat_eq h, fun h => by rw [h]; rfl⟩
    rw [hzero]
  refine reaches_of_next rfl ?_
  rw [State.laneTestDone_lane hn htest]
  dsimp only
  refine ⟨rfl, rfl, fun hfail => ?_, fun hok hsuspect => ?_, fun hok hsuspect => ?_⟩
  · exact if_neg (mt hpass.mp hfail)
  · rw [if_pos (hpass.mpr hok), if_pos hsuspect]
  · rw [if_pos (hpass.mpr hok), if_neg hsuspect]

theorem reaches_laneBringupRetry (hlt : n.toNat < 68) (hdown : (s.link.lane n.toNat).st = .down)
    (hstep : (s.link.lane n.toNat).step = 0) (hdue : (s.link.lane n.toNat).downAt + cycS 1 ≤ s.now) :
    Reaches (exec (.laneBringupRetry n) s) fun t =>
      (t.link.lane n.toNat).step = (if s.link.retUp n.toNat then 2 else 1) ∧ (t.link.lane n.toNat).preset = 0 ∧
      (t.link.lane n.toNat).margins = [] ∧ (t.link.lane n.toNat).stepAt = s.now ∧
      (s.link.retUp n.toNat = true →
        .block n.toNat (trainBlock 0) ∈ t.out ∧ .block n.toNat idleBlock ∈ t.out) := by
  have hexec : exec (.laneBringupRetry n) s =
      .next ((s.onLane n.toNat fun x => { x with heldOut := false }).startTraining n.toNat) := by
    rw [exec_laneBringupRetry, execLaneBringupRetry]
    rw [if_pos ⟨hlt, hdown, hstep, hdue⟩]
  exact reaches_of_next hexec (State.startTraining_lane (by rw [State.onLane_lanes_length]; exact hn))

theorem reaches_trainPresetExpiry (hstep : (s.link.lane n.toNat).step = 2)
    (hdue : (s.link.lane n.toNat).stepAt + cycMs 2 ≤ s.now) (m : BitVec 8) :
    Reaches (exec (.trainPresetExpiry n m) s) fun t =>
      (t.link.lane n.toNat).margins = (s.link.lane n.toNat).margins ++ [m.toNat] ∧
      ((s.link.lane n.toNat).preset < 7 →
        (t.link.lane n.toNat).preset = (s.link.lane n.toNat).preset + 1 ∧ (t.link.lane n.toNat).step = 2) ∧
      (7 ≤ (s.link.lane n.toNat).preset →
        (t.link.lane n.toNat).preset = (bestPreset ((s.link.lane n.toNat).margins ++ [m.toNat])).1 ∧
        (t.link.lane n.toNat).step = if (s.link.lane n.toNat).testing then 0 else 5) := by
  rw [exec_trainPresetExpiry, execTrainPresetExpiry]
  dsimp only
  rw [if_neg (show ¬ ((s.link.lane n.toNat).step ≠ 2 ∨ s.now < (s.link.lane n.toNat).stepAt + cycMs 2) from
    not_or.mpr ⟨Classical.not_not.mpr hstep, Nat.not_lt.mpr hdue⟩)]
  generalize hms : (s.link.lane n.toNat).margins ++ [m.toNat] = ms
  generalize hu : (s.onLane n.toNat fun x => { x with margins := ms }) = u
  have hlane : u.link.lane n.toNat = { s.link.lane n.toNat with margins := ms } := by
    rw [← hu, State.onLane_lane hn]
  have hlen : n.toNat < u.link.lanes.length := by
    rw [← hu, State.onLane_lanes_length]
    exact hn
  by_cases hseven : (s.link.lane n.toNat).preset < 7
  · rw [if_pos hseven]
    refine reaches_of_next rfl ?_
    rw [State.trainPreset_lane hlen, hlane]
    exact ⟨rfl, fun _ => ⟨rfl, rfl⟩, fun h => absurd hseven (Nat.not_lt.mpr h)⟩
  · rw [if_neg hseven]
    generalize hv : (u.onLane n.toNat fun x => { x with preset := (bestPreset ms).1, margin := (bestPreset ms).2 }) = v
    have hvlane : v.link.lane n.toNat = { s.link.lane n.toNat with
        margins := ms, preset := (bestPreset ms).1, margin := (bestPreset ms).2 } := by
      rw [← hv, State.onLane_lane hlen, hlane]
    have hvlen : n.toNat < v.link.lanes.length := by
      rw [← hv, State.onLane_lanes_length]
      exact hlen
    have hlen' (f : Lane → Lane) : n.toNat < (v.onLane n.toNat f).link.lanes.length := by
      rw [State.onLane_lanes_length]
      exact hvlen
    cases htest : (s.link.lane n.toNat).testing with
    | true =>
      rw [if_pos rfl, if_pos rfl]
      refine reaches_of_next rfl ?_
      unfold State.laneTestStart
      obtain ⟨q, hq⟩ := State.sendMgmt_lane (hlen' fun x => { x with step := 0 }) 0x07 (leBytes 4 1000) 0
      rw [hq, State.onLane_lane hvlen, hvlane]
      exact ⟨rfl, fun h => absurd h hseven, fun _ => ⟨rfl, rfl⟩⟩
    | false =>
      rw [if_neg Bool.false_ne_true, if_neg Bool.false_ne_true]
      refine reaches_of_next rfl ?_
      obtain ⟨q, hq⟩ := State.sendMgmt_lane (hlen' fun x => { x with step := 5 }) 0x01 [] 0
      rw [hq, State.onLane_lane hvlen, hvlane]
      exact ⟨rfl, fun h => absurd h hseven, fun _ => ⟨rfl, rfl⟩⟩

omit hn in
theorem reaches_laneDegradedExit (hdegraded : (s.link.lane n.toNat).degraded = true)
    (hmargin : 32 ≤ (s.link.lane n.toNat).margin) (hdue : (s.link.lane n.toNat).lastBad + cycS 10 ≤ s.now) :
    Reaches (exec (.laneDegradedExit n) s) fun t =>
      t.link = s.link.onLane n.toNat fun x => { x with degraded := false } := by
  rw [exec_laneDegradedExit, execLaneDegradedExit]
  rw [hdegraded, decide_eq_true hmargin, decide_eq_true hdue, Bool.and_self, Bool.and_self, if_pos rfl]
  exact reaches_of_next rfl (State.raise_link ..)
end

section
variable {s : State} {q : BitVec 2} (hlanes : s.link.lanes.length = 68)
include hlanes

/-- The lanes that wait for their return lane train when it locks. -/
theorem reaches_returnBlockLock : Reaches (exec (.returnBlockLock q) s) fun t =>
    t.link.rets = (s.link.rets.modify q.toNat fun r => { r with lock := true, good := 8, bad := 0, lastAt := s.now }) ∧
    ∀ k, k < 68 → retOf k = q.toNat → (s.link.lane k).step = 1 →
      (t.link.lane k).step = 2 ∧ (t.link.lane k).preset = 0 ∧ .block k (trainBlock 0) ∈ t.out := by
  refine reaches_of_next rfl ?_
  unfold State.lockReturn
  dsimp only
  have hstep (t : State) (m : Nat) : State.LaneStep m t (if (t.link.lane m).step = 1 then t.trainPreset m 0 else t) := by
    split
    · exact State.trainPreset_laneStep ..
    · exact .refl
  have hsent (t : State) (m : Nat) : t.sentIn (if (t.link.lane m).step = 1 then t.trainPreset m 0 else t) := by
    split
    · exact State.trainPreset_sentIn ..
    · exact State.sentIn_refl _
  refine ⟨(State.foldl_lanes hstep _ _).2, fun k hk hret hone => ?_⟩
  obtain ⟨u, hlane, hlen, hafter, hout⟩ := State.foldl_lane hstep (upto_nodup _ _) (mem_served hret)
    (s.onLink fun l => { l with rets := l.rets.modify q.toNat fun r => { r with
      lock := true, good := 8, bad := 0, lastAt := s.now } })
  have hustep : (u.link.lane k).step = 1 := by rw [hlane]; exact hone
  have hlt : k < u.link.lanes.length := by rw [hlen]; exact hlanes ▸ hk
  have hout := hout hsent
  rw [if_pos hustep] at hafter hout
  rw [hafter, State.trainPreset_lane hlt]
  exact ⟨rfl, rfl, hout.mem (by rw [State.trainPreset_out]; simp)⟩

/-- The lanes in service on a lost return lane go down and wait for it. -/
theorem reaches_returnLaneLost {lock : Bool} (hlock : (s.link.rets.getD q.toNat RetLane.reset).lock = true)
    (hlost : lock = true ∨ (s.link.rets.getD q.toNat RetLane.reset).lastAt + cycUs 1 ≤ s.now) :
    Reaches (exec (.returnLaneLost ⟨q, lock⟩) s) fun t =>
      (t.link.rets = s.link.rets.modify q.toNat fun r => { r with lock := false, good := 0, bad := 0 }) ∧
      ∀ k, k < 68 → retOf k = q.toNat → ((s.link.lane k).st = .spare ∨ (s.link.lane k).st = .carrier) →
        (t.link.lane k).st = .down ∧ (t.link.lane k).step = 1 := by
  have hexec : exec (.returnLaneLost ⟨q, lock⟩) s = .next (s.loseReturn q.toNat) := by
    rw [exec_returnLaneLost, execReturnLaneLost, hlock, Bool.true_and, if_pos]
    rw [Bool.or_eq_true, decide_eq_true_iff]
    exact hlost
  refine reaches_of_next hexec ?_
  unfold State.loseReturn
  dsimp only
  have hstep (t : State) (m : Nat) : State.LaneStep m t (if (t.link.lane m).st = .spare ∨ (t.link.lane m).st = .carrier
      then (t.dropLane m).onLane m fun x => { x with step := 1, stepAt := t.now } else t) := by
    split
    · exact (State.dropLane_laneStep ..).trans (State.onLane_laneStep ..)
    · exact .refl
  generalize hu : State.fault (s.onLink _) none _ = u
  have hulink : u.link = { s.link with rets := s.link.rets.modify q.toNat fun r =>
      { r with lock := false, good := 0, bad := 0 } } := by
    rw [← hu, State.fault_link]
    rfl
  refine ⟨(State.foldl_lanes hstep _ _).2.trans (by rw [hulink]), fun k hk hret hup => ?_⟩
  obtain ⟨v, hlane, hlen, hafter, -⟩ := State.foldl_lane hstep (upto_nodup _ _) (mem_served hret) u
  have hvlane : v.link.lane k = s.link.lane k := by rw [hlane, hulink]; rfl
  have hlt : k < v.link.lanes.length := by rw [hlen, hulink]; exact hlanes ▸ hk
  have hvup : (v.link.lane k).st = .spare ∨ (v.link.lane k).st = .carrier := by rw [hvlane]; exact hup
  rw [if_pos hvup, State.onLane_lane (by rw [(State.dropLane_laneStep v k).length]; exact hlt),
    State.dropLane_lane hlt hvup] at hafter
  rw [hafter]
  exact ⟨rfl, rfl⟩
end

/-- Settles O44, with the model's choice that the lanes of a lost return lane wait at step 1 (log entry 93): each row
by what it makes of its lane, the return lanes lane by lane. -/
theorem laneLife : Obligations.LaneLife := by
  refine ⟨fun s n => ?_, fun s q _ hlanes => ?_⟩
  · intro k l hlt hlen
    have hn : n.toNat < s.link.lanes.length := by rw [hlen]; exact hlt
    exact ⟨reaches_laneDown_up hn hlt, reaches_laneDown_step hn hlt, reaches_laneTestComplete hn,
      reaches_laneBringupRetry hn hlt, reaches_trainPresetExpiry hn, reaches_laneDegradedExit⟩
  · exact ⟨reaches_returnBlockLock hlanes, fun lock => reaches_returnLaneLost hlanes⟩

end Sys2Proof.Machine
end

section
/-!
PROOF. The times of the links (chapter 12), and obligation O45.
-/

namespace Sys2Proof.Machine

-- Many proofs here are the first to unfold their functions of the model, and side by side each would hold a thread.
set_option Elab.async false

/-! ### A group declared dead in flight (R220, R221, R313) -/

/-- The groups a run has lost and the statuses it still awaits. -/
def Run.losses (r : Run) : List (Nat × Nat × Nat) × List (Nat × Nat × Nat) := (r.deadGroups, r.awaiting)

section
variable {s : State} {r : Run} {x : Stripe} {n lane g fd : Nat}

theorem State.fault_sentIn (s : State) (job : Option (BitVec 16)) (e : Event) : s.sentIn (s.fault job e) :=
  (State.raiseVia_sentIn ..).trans (State.logEntry_fr ..).sentIn

theorem State.faultSt_sentIn (s : State) (id : StripeId) (e : Event) : s.sentIn (s.faultSt id e) := State.fault_sentIn ..

theorem State.headCheck_sentIn (s : State) : s.sentIn s.headCheck := by
  unfold State.headCheck
  split
  · refine State.sentIn.trans ?_ (State.fault_sentIn ..)
    exact State.sentIn_of_out rfl
  · exact State.sentIn_refl _

theorem State.retireLane_sentIn (s : State) (n c : Nat) : s.sentIn (s.retireLane n c) := by
  unfold State.retireLane
  refine State.sentIn.trans ?_ ((State.fault_sentIn ..).trans (State.headCheck_sentIn _))
  exact State.sentIn_of_out rfl

theorem State.startTraining_sentIn (s : State) (n : Nat) : s.sentIn (s.startTraining n) := by
  unfold State.startTraining
  dsimp only
  split
  · refine State.sentIn.trans ?_ (State.trainPreset_sentIn ..)
    exact State.sentIn_of_out rfl
  · exact State.sentIn_of_out rfl

theorem State.suspectLane_sentIn (s : State) (n g : Nat) : s.sentIn (s.suspectLane n g) := by
  unfold State.suspectLane
  dsimp only
  split
  · refine State.sentIn.trans ?_ (State.startTraining_sentIn ..)
    exact State.sentIn_of_out rfl
  · refine State.sentIn.trans ?_ (State.retireLane_sentIn ..)
    exact State.sentIn_of_out rfl

theorem State.stopCause_sentIn (s : State) (rank : Nat) (ev : Option Event) (b : Option Nat) :
    s.sentIn (s.stopCause rank ev b) := by
  unfold State.stopCause
  split
  · split
    · split
      · exact State.faultSt_sentIn ..
      · exact State.sentIn_refl _
    · exact State.sentIn_of_out rfl
  · dsimp only
    split
    · exact State.sentIn.trans (State.dropReentry_fr s).sentIn (State.fault_sentIn ..)
    · exact (State.dropReentry_fr s).sentIn

/-- A cause of a stop leaves the groups lost and the statuses awaited as they were. -/
theorem State.stopCause_losses (s : State) (rank : Nat) (ev : Option Event) (b : Option Nat) :
    (s.stopCause rank ev b).play.run.map Run.losses = s.play.run.map Run.losses := by
  have hdrop : s.dropReentry.play.run = s.play.run := by
    unfold State.dropReentry
    split
    · rfl
    · show (s.freeSlots _).play.run = _
      rw [(State.freeSlots_fr ..).play_eq]
  unfold State.stopCause
  cases hrun : s.run? with
  | some rx =>
    obtain ⟨r, x⟩ := rx
    dsimp only
    split
    · split
      · rw [State.faultSt_play]
      · rfl
    · rw [(State.run_of hrun).1]
      rfl
  | none =>
    dsimp only
    split
    · rw [State.fault_play, hdrop]
    · rw [hdrop]

theorem State.moveStore_losses (s : State) (r : Run) (x : Stripe) (h : Nat) :
    (s.moveStore r x h).play.run.map Run.losses = s.play.run.map Run.losses := by
  unfold State.moveStore
  rw [State.onPlay_play, Option.map_map]
  rfl

theorem State.retroDead_losses (s : State) (r : Run) (x : Stripe) (g fd : Nat) :
    (s.retroDead r x g fd).play.run.map Run.losses = s.play.run.map Run.losses := by
  unfold State.retroDead
  dsimp only
  rw [State.onPlay_play, Option.map_map]
  refine congrArg (Option.map · s.play.run) (funext fun z => ?_)
  rw [Function.comp_apply]
  split <;> rfl

theorem State.headCheck_latchedOff (s : State) : s.headCheck.link.latchedOff = s.link.latchedOff := by
  unfold State.headCheck
  split
  · rw [State.fault_link]
    rfl
  · rfl

theorem State.retireLane_latchedOff (s : State) (n c : Nat) : (s.retireLane n c).link.latchedOff = s.link.latchedOff := by
  unfold State.retireLane
  rw [State.headCheck_latchedOff, State.fault_link]
  rfl

theorem State.startTraining_latchedOff (s : State) (n : Nat) :
    (s.startTraining n).link.latchedOff = s.link.latchedOff := by
  unfold State.startTraining
  dsimp only
  split <;> rfl

theorem State.suspectLane_latchedOff (s : State) (n g : Nat) :
    (s.suspectLane n g).link.latchedOff = s.link.latchedOff ++ [g] := by
  unfold State.suspectLane
  dsimp only
  split
  · rw [State.startTraining_latchedOff]
    rfl
  · rw [State.retireLane_latchedOff]
    rfl

theorem State.declareRun_play (hrun : s.play.run = some r) (kill : Bool) :
    ∃ p, (s.declareRun r x lane g fd kill).play.run = some p ∧ p.deadGroups = r.deadGroups ++ [(g, lane, fd)] ∧
      p.awaiting = r.awaiting.filter (fun w => w.1 ≠ lane) ∧
      g ∈ (s.declareRun r x lane g fd kill).link.latchedOff ∧
      (kill = true → x.target ≠ 2 → .block lane (killBlock fd) ∈ (s.declareRun r x lane g fd kill).out) := by
  unfold State.declareRun
  extract_lets moves s0 r0 r1 s1 s2 s3
  have hs0 : s0.play.run.map Run.losses = some r.losses := by
    have hs : s.play.run.map Run.losses = some r.losses := by rw [hrun]; rfl
    by_cases hmove : moves = true
    · rw [show s0 = s.moveStore r x (r.storeGroup.getD 0) from if_pos hmove, State.moveStore_losses, hs]
    · rw [show s0 = s from if_neg hmove, hs]
  have hr0 : r0.losses = r.losses := by
    obtain ⟨z, hz, hlosses⟩ := Option.map_eq_some_iff.mp hs0
    rw [show r0 = z from by show s0.play.run.getD r = z; rw [hz]; rfl, hlosses]
  have hr1 : r1.losses = (r.deadGroups ++ [(g, lane, fd)], r.awaiting.filter fun w => w.1 ≠ lane) := by
    obtain ⟨hdead, hawait⟩ := Prod.mk.inj hr0
    show (r0.deadGroups ++ _, r0.awaiting.filter _) = _
    rw [hdead, hawait]
  have hs1 : s1.play.run.map Run.losses = some r1.losses := State.retroDead_losses ..
  have hs2 : s2.play = s1.play := by
    show (if kill = true ∧ x.target ≠ 2 then s1.emit (.block lane (killBlock fd)) else s1).play = s1.play
    split <;> rfl
  have hs3 : s3.play = s1.play := by
    show (State.faultSt _ _ _).play = _
    rw [State.faultSt_play, (State.suspectLane_fr ..).play_eq, hs2]
  have hlatched : g ∈ s3.link.latchedOff := by
    show g ∈ (State.faultSt _ _ _).link.latchedOff
    rw [State.faultSt_link, State.suspectLane_latchedOff]
    exact List.mem_append_right _ (List.mem_singleton_self _)
  have hkill : kill = true → x.target ≠ 2 → .block lane (killBlock fd) ∈ s3.out := by
    intro hk ht
    refine ((State.suspectLane_sentIn ..).trans (State.faultSt_sentIn ..)).mem ?_
    show _ ∈ (if kill = true ∧ x.target ≠ 2 then s1.emit (.block lane (killBlock fd)) else s1).out
    rw [if_pos ⟨hk, ht⟩]
    exact List.mem_append_right _ (List.mem_singleton_self _)
  have hgoal : ∀ t : State, t.play.run.map Run.losses = s3.play.run.map Run.losses → t.link = s3.link → s3.sentIn t →
      ∃ p, t.play.run = some p ∧ p.deadGroups = r.deadGroups ++ [(g, lane, fd)] ∧
        p.awaiting = r.awaiting.filter (fun w => w.1 ≠ lane) ∧ g ∈ t.link.latchedOff ∧
        (kill = true → x.target ≠ 2 → .block lane (killBlock fd) ∈ t.out) := by
    intro t hloss hlink hsent
    rw [hs3, hs1, hr1] at hloss
    obtain ⟨p, hp, hlosses⟩ := Option.map_eq_some_iff.mp hloss
    obtain ⟨hdead, hawait⟩ := Prod.mk.inj hlosses
    exact ⟨p, hp, hdead, hawait, by rw [hlink]; exact hlatched, fun hk ht => hsent.mem (hkill hk ht)⟩
  split
  · exact hgoal _ (State.stopCause_losses ..) (State.stopCause_fr ..).link_eq (State.stopCause_sentIn ..)
  · exact hgoal _ rfl rfl (State.sentIn_refl _)

theorem reaches_statusTimeout {n : BitVec 7} {z : Nat × Nat × Nat} (hrun : s.run? = some (r, x))
    (hlate : (r.awaiting.find? fun w => w.1 = n.toNat ∧ w.2.2 + 64 * cycUs 2 ≤ 64 * s.now) = some z)
    (hgroup : x.groupOf z.1 = some g) (halive : r.deadGroup g = false) (hhalt : r.halt = none) :
    Reaches (exec (.statusTimeout n) s) fun t =>
      ∃ p, t.play.run = some p ∧ p.deadGroups = r.deadGroups ++ [(g, z.1, z.2.1)] ∧
        p.awaiting = (r.awaiting.filter fun w => w.1 ≠ z.1) ∧ g ∈ t.link.latchedOff ∧
        (x.target ≠ 2 → .block z.1 (killBlock z.2.1) ∈ t.out) := by
  have hstatus : s.statusRun? = some (r, x) := by
    unfold State.statusRun?
    rw [hrun]
  have hexec : exec (.statusTimeout n) s = .next (s.declareRun r x z.1 g z.2.1 true) := by
    rw [exec_statusTimeout, execStatusTimeout, hstatus]
    dsimp only
    rw [hlate]
    dsimp only
    unfold State.declareDead
    rw [hstatus]
    dsimp only
    rw [hgroup]
    dsimp only
    rw [halive, hhalt, hrun]
    rfl
  obtain ⟨p, hp, hdead, hawait, hlatched, hkill⟩ := State.declareRun_play (x := x) (State.run_of hrun).1 true
  exact reaches_of_next hexec ⟨p, hp, hdead, hawait, hlatched, hkill rfl⟩

/-! ### Temperatures (R295, R296) -/

theorem State.levelRise_thermal (s : State) (old new : Nat) : (s.levelRise old new).link.thermal = s.link.thermal := by
  unfold State.levelRise
  extract_lets s0 s1 s2
  have hs0 : s0.link.thermal = s.link.thermal := by
    simp only [s0]
    split
    · rw [(State.permitCheck_fr ..).link_eq]
      rfl
    · rfl
  have hs1 : s1.link = s0.link := by
    simp only [s1]
    split
    · exact State.raise_link ..
    · rfl
  have hs2 : s2.link = s1.link := by
    simp only [s2]
    split
    · exact (State.stopCause_fr ..).link_eq
    · rfl
  split
  · exact hs0
  · split
    · rw [(State.stopCause_fr ..).link_eq, hs2, hs1, hs0]
    · rw [hs2, hs1, hs0]

theorem reaches_thermalStaleTimeout {ch : BitVec 4} {h : Thermal} (hch : s.link.thermal[ch.toNat]? = some h)
    (hdeclared : h.declared = true) (hfresh : h.stale = false) (hlate : h.lastAt + cycMs 1 ≤ s.now) :
    Reaches (exec (.thermalStaleTimeout ch) s) fun t =>
      t.link.thermal[ch.toNat]? = some { h with stale := true, level := 2 } := by
  rw [exec_thermalStaleTimeout, execThermalStaleTimeout, hch]
  dsimp only
  have hdue : (!h.declared || h.stale || decide (s.now < h.lastAt + cycMs 1)) = false := by
    rw [hdeclared, hfresh, decide_eq_false (Nat.not_lt.mpr hlate)]
    rfl
  rw [hdue, if_neg Bool.false_ne_true]
  refine reaches_of_next rfl ?_
  unfold State.setLevel
  dsimp only
  rw [State.levelRise_thermal, State.onLink_link]
  dsimp only
  rw [State.fault_link, List.getElem?_modify_eq, hch]
  rfl

/-! ### Management, arms, SYNC and blank frames (R310, R318, R325, R328) -/

theorem reaches_mgmtRetryTimeout {n : BitVec 7} {w : MgmtWait}
    (hlate : (s.link.mgmt.find? fun w => w.lane = n.toNat ∧ w.sentAt + w.bound ≤ s.now) = some w) (htries : w.tries < 3) :
    Reaches (exec (.mgmtRetryTimeout n) s) fun t => ⟨w.lane, w.mtype, w.body, w.tries + 1, s.now⟩ ∈ t.link.mgmt := by
  rw [exec_mgmtRetryTimeout, execMgmtRetryTimeout, hlate]
  dsimp only
  rw [if_pos htries]
  exact reaches_of_next rfl (List.mem_append_right _ (List.mem_singleton_self _))

theorem reaches_mapsetEchoTimeout {a : ArmWait} (h : s.mbsWf) (harm : s.link.arm = some a)
    (hlate : a.sentAt + cycMs 10 ≤ s.now) : Reaches (exec .mapsetEchoTimeout s) fun t =>
      t.answered a.src ST.linkMap ∧ t.link.arm = none ∧ t.waiter a.src.mb = none := by
  rw [exec_mapsetEchoTimeout, execMapsetEchoTimeout, harm]
  dsimp only
  rw [if_pos hlate]
  refine ⟨_, rfl, ?_⟩
  generalize hu : (s.unwait a.src.mb).onLink _ = u
  have hmbs : u.mbsWf := by
    rw [← hu]
    exact h
  have hidle : u.link.arm = none := by
    rw [← hu]
    rfl
  have hwaiter : u.waiter a.src.mb = none := by
    rw [← hu]
    exact State.waiter_unwait ..
  refine ⟨State.fail_answered ((State.raiseVia_fr ..).mbsWf hmbs) .., ?_, ?_⟩
  · rw [State.fail_link, State.raiseVia_link, hidle]
  · unfold State.waiter at hwaiter ⊢
    rw [State.fail_waiting, State.raiseVia_waiting, hwaiter]

theorem reaches_syncBlockSend (hslot : s.now % 1028 = 0) (hlanes : s.link.lanes.length = 68) :
    Reaches (exec .syncBlockSend s) fun t => ∀ n, n < 68 →
      if (s.link.lane n).synced < s.now / 262144 ∧ s.frameLanes.contains n = false then
        (t.link.lane n).synced = s.now / 262144 ∧ .block n (syncBlock s.now) ∈ t.out
      else t.link.lane n = s.link.lane n := by
  rw [exec_syncBlockSend, execSyncBlockSend, if_pos hslot]
  refine reaches_of_next rfl fun n hn => ?_
  generalize hf : (fun (t : State) (n : Nat) => (t.emit (.block n (syncBlock s.now))).onLane n fun x =>
    { x with synced := s.now / 262144 }) = f
  generalize hdue : (List.range 68).filter (fun n =>
    decide ((s.link.lane n).synced < s.now / 262144) && !s.frameLanes.contains n) = due
  have hstep (t : State) (m : Nat) : State.LaneStep m t (f t m) := by
    subst hf
    show State.LaneStep m t ((t.emit (.block m (syncBlock s.now))).onLane m fun x => { x with synced := s.now / 262144 })
    exact (State.LaneStep.of_link (s := t) (t := t.emit (.block m (syncBlock s.now))) rfl).trans (State.onLane_laneStep ..)
  have hsent (t : State) (m : Nat) : t.sentIn (f t m) := by
    subst hf
    exact State.emit_sentIn ..
  have hmem : n ∈ due ↔ (s.link.lane n).synced < s.now / 262144 ∧ s.frameLanes.contains n = false := by
    rw [← hdue, List.mem_filter, List.mem_range, Bool.and_eq_true, decide_eq_true_iff, Bool.not_eq_true']
    exact and_iff_right hn
  by_cases hin : n ∈ due
  · rw [if_pos (hmem.mp hin)]
    obtain ⟨u, -, hlen, hlane, hout⟩ := State.foldl_lane hstep (by rw [← hdue]; exact List.nodup_range.filter _) hin s
    have hlt : n < (u.emit (.block n (syncBlock s.now))).link.lanes.length := by
      rw [State.emit_link, hlen, hlanes]
      exact hn
    subst hf
    rw [hlane, State.onLane_lane hlt]
    exact ⟨rfl, (hout hsent).mem (List.mem_append_right _ (List.mem_singleton_self _))⟩
  · rw [if_neg (mt hmem.mpr hin)]
    exact State.foldl_lane_other hstep due hin s

theorem mem_carriers {m : List (Option Nat)} {g l : Nat} (h : m[g]? = some (some l)) :
    (g, l) ∈ m.zipIdx.filterMap fun p => p.1.map fun l => (p.2, l) :=
  List.mem_filterMap.mpr ⟨(some l, g), List.mem_zipIdx_iff_getElem?.mpr h, rfl⟩

theorem reaches_blankFrame (hsafe : s.ref.safe = true) (hrun : s.run? = none) (hblank : s.link.lastBlank + 625 ≤ s.now)
    (hmark : s.link.nextMark ≤ 64 * s.now) : Reaches (exec .blankFrame s) fun t =>
      t.link = { s.link with lastBlank := s.now, nextMark := 64 * (s.now + 625) } ∧
      ∀ g l : Nat, s.link.map[g]? = some (some l) → .block l (sofBlock 0 g true 0 0) ∈ t.out ∧
        (∀ o ∈ payloadBlocks l (frameWords 0 g true 0 0 0 []), o ∈ t.out) ∧
        .block l (markerBlock 0 (64 * s.now) true) ∈ t.out := by
  rw [exec_blankFrame, execBlankFrame, if_pos ⟨hsafe, hrun, hblank, hmark⟩]
  refine reaches_of_next rfl ⟨rfl, fun g l hmap => ?_⟩
  rw [State.onLink_out, State.emits_out]
  generalize hall : List.flatten _ = all
  have hin {o : Output} (ho : o ∈ Output.block l (sofBlock 0 g true 0 0) :: payloadBlocks l (frameWords 0 g true 0 0 0 []) ++
      [headBlock l (frameWords 0 g true 0 0 0 []), .block l (markerBlock 0 (64 * s.now) true)]) :
      o ∈ s.out ++ all := by
    rw [← hall]
    exact List.mem_append_right s.out (List.mem_flatten.mpr ⟨_, List.mem_map.mpr ⟨(g, l), mem_carriers hmap, rfl⟩, ho⟩)
  refine ⟨hin (List.mem_cons_self ..), fun o ho => hin ?_, hin ?_⟩
  · exact List.mem_cons_of_mem _ (List.mem_append_left _ ho)
  · exact List.mem_cons_of_mem _ (List.mem_append_right _ (List.mem_cons_of_mem _ (List.mem_singleton_self _)))

theorem reaches_plateAttachTimeout (hstep : s.plate.step = 1) (hlate : s.plate.stepAt + cycMs 2 ≤ s.now) :
    Reaches (exec .plateAttachTimeout s) fun t => t.plate.step = 0 ∧ t.plate.attached = none := by
  rw [exec_plateAttachTimeout, execPlateAttachTimeout, hstep, if_pos rfl, if_pos ⟨Nat.one_ne_zero, hlate⟩]
  refine reaches_of_next rfl ?_
  unfold State.plateFail
  rw [State.fault_plate]
  exact ⟨rfl, rfl⟩
end

/-- Settles O45: a lemma for each timeout and each periodic block. -/
theorem linkTimes : Obligations.LinkTimes := fun _ =>
  ⟨fun _ _ _ _ _ => reaches_statusTimeout, fun _ _ => reaches_thermalStaleTimeout,
    fun _ _ => reaches_mgmtRetryTimeout, fun _ => reaches_mapsetEchoTimeout, reaches_syncBlockSend, reaches_blankFrame,
    reaches_plateAttachTimeout⟩

end Sys2Proof.Machine
end

section
/-!
PROOF. Descriptors, bursts and records of the DMA engine (chapter 15), and obligation O51.
-/

namespace Sys2Proof.Machine

/-! ### Completion records (R385, R386) -/

/-- A record of the channel that is due has its place: it waits for room in the ring, or stands within its space. -/
def Dma.recordFits (c : Dma) : Prop :=
  c.ringFull = true ∨ (fld 47 0 c.cring + 16 * c.wp + 16 ≤ spaceEnd (BitVec.ofNat 4 (fld 51 48 c.cring)) ∧
    BitVec.ofNat 4 (fld 51 48 c.cring) ≠ spDevreg)

/-- A channel whose record met a bus error (Table 15-11). -/
def Dma.broken (c : Dma) : Dma := { c with
  st := .halted, haltst := 0x16, next := none, fetching := none, desc := none, off := 0, recWait := none
  abortPend := false, resumable := false, closed := false, redo := false }

/-- A channel with no descriptor in progress and no burst in flight. -/
structure Dma.Clear (c : Dma) : Prop where
  burst : c.burst = none
  desc : c.desc = none
  off : c.off = 0

section
variable {s : State} {n : Nat} {P : Dma → Prop}

/-- What an update keeps of a channel; a channel that is not there is as before. -/
theorem State.onCh_keeps {f : Dma → Dma} (h : P (s.dmaCh n)) (hf : ∀ c, P c → P (f c)) : P ((s.onCh n f).dmaCh n) := by
  by_cases hn : n < s.dma.chans.length
  · rw [State.onCh_dmaCh hn]
    exact hf _ h
  · have hsame : (s.onCh n f).dmaCh n = s.dmaCh n := by
      simp [State.onCh, State.dmaCh, List.getD_eq_getElem?_getD, hn]
    rw [hsame]
    exact h

theorem State.dmaCh_of_chans {t : State} (h : t.dma.chans = s.dma.chans) (n : Nat) : t.dmaCh n = s.dmaCh n := by
  rw [State.dmaCh, h, State.dmaCh]

theorem State.write_dma (s : State) (sp : BitVec 4) (a : Nat) (bs : List Byte) : (s.write sp a bs).dma = s.dma :=
  (State.write_fr ..).dma_eq

theorem State.ringError_keeps (h : P (s.dmaCh n)) (hbroken : ∀ c, P c → P c.broken) (q a : Nat) :
    P ((s.ringError n q a).dmaCh n) := by
  unfold State.ringError
  rw [State.dmaCh_of_dma (State.fault_dma ..)]
  exact State.onCh_keeps h hbroken

theorem State.putRec_keeps (h : P (s.dmaCh n)) (hwp : ∀ c wp phase, P c → P { c with wp := wp, phase := phase })
    (hbroken : ¬ (fld 47 0 (s.dmaCh n).cring + 16 * (s.dmaCh n).wp + 16 ≤
        spaceEnd (BitVec.ofNat 4 (fld 51 48 (s.dmaCh n).cring)) ∧
        BitVec.ofNat 4 (fld 51 48 (s.dmaCh n).cring) ≠ spDevreg) → ∀ c, P c → P c.broken) (w : Word) :
    P ((s.putRec n w).dmaCh n) := by
  unfold State.putRec
  dsimp only
  split
  case isTrue hout =>
    refine State.ringError_keeps h (hbroken ?_) _ _
    rcases hout with hout | hout
    · exact fun hfits => absurd hfits.1 (Nat.not_le.mpr hout)
    · exact fun hfits => hfits.2 hout
  case isFalse =>
    refine State.onCh_keeps ?_ fun c => hwp c _ _
    rw [State.dmaCh_of_dma (State.write_dma ..)]
    exact h

/-- What a record that is due keeps of its channel. -/
theorem State.dmaRecord_keeps (h : P (s.dmaCh n))
    (hrec : ∀ c r wp phase, P c → P { c with recWait := r, wp := wp, phase := phase })
    (hbroken : ¬ (s.dmaCh n).recordFits → ∀ c, P c → P c.broken) (w : Word) : P ((s.dmaRecord n w).dmaCh n) := by
  unfold State.dmaRecord
  split
  case isTrue => exact State.onCh_keeps h fun c => hrec c _ c.wp c.phase
  case isFalse hroom =>
    refine State.putRec_keeps h (fun c wp phase => hrec c c.recWait wp phase) (fun hout => hbroken ?_) w
    rintro (hfull | hfits)
    · exact hroom hfull
    · exact hout hfits

/-! ### Fetches (R373 to R375) -/

/-- A channel that halts on a fetch holds no descriptor; its halt status is the fault's, where its record fits. -/
theorem State.dmaHalt_dmaCh (hn : n < s.dma.chans.length) (code : BitVec 8) (st : BitVec 16) (addr : Nat)
    (space : BitVec 4) : ((s.dmaHalt n code st addr space).dmaCh n).st = .halted ∧
      ((s.dmaHalt n code st addr space).dmaCh n).desc = none ∧
      ((s.dmaCh n).recordFits → ((s.dmaHalt n code st addr space).dmaCh n).haltst = code) := by
  unfold State.dmaHalt
  rw [State.dmaCh_of_dma (State.fault_dma ..)]
  generalize hu : State.onCh s n _ = u
  have hch : u.dmaCh n = { s.dmaCh n with
      st := .halted, haltst := code, next := none, fetching := none, desc := none, off := 0, abortPend := false
      resumable := false, closed := false, redo := false } := by
    rw [← hu, State.onCh_dmaCh hn]
  refine ⟨?_, ?_, fun hfits => ?_⟩
  · exact State.dmaRecord_keeps (P := fun c => c.st = .halted) (by rw [hch]) (fun _ _ _ _ h => h) (fun _ _ _ => rfl) _
  · exact State.dmaRecord_keeps (P := fun c => c.desc = none) (by rw [hch]) (fun _ _ _ _ h => h) (fun _ _ _ => rfl) _
  · refine State.dmaRecord_keeps (P := fun c => c.haltst = code) (by rw [hch]) (fun _ _ _ _ h => h) (fun hno => ?_) _
    exact absurd (by rw [hch]; exact hfits) hno

/-- At a boundary a channel that serves goes on. -/
theorem State.dmaSettle_of_serving (hn : n < s.dma.chans.length)
    (hst : (s.dmaCh n).st = .active ∨ (s.dmaCh n).st = .pacedOff) : s.dmaSettle n = s.dmaKick n := by
  obtain ⟨f, x, hkick⟩ := State.dmaKick_dmaCh hn
  refine State.dmaSettle_of_busy ?_
  unfold Dma.drained
  rw [hkick]
  rcases hst with hst | hst <;> rw [hst] <;> rfl

theorem State.dmaKick_of_none (hn : n < s.dma.chans.length) (hnext : (s.dmaCh n).next = none) :
    (s.dmaKick n).dmaCh n = s.dmaCh n := by
  unfold State.dmaKick
  rw [State.onCh_dmaCh hn, hnext]

theorem State.takeDesc_settles {d : Desc} (hn : n < s.dma.chans.length) (hnext : (s.dmaCh n).next = none)
    (hst : (s.dmaCh n).st = .active ∨ (s.dmaCh n).st = .pacedOff) : ((s.takeDesc n d).dmaSettle n).dmaCh n =
      { s.dmaCh n with fetching := none, desc := some d, off := 0, closed := false, redo := false,
                       expseq := (s.dmaCh n).expseq + 1, hops := if bitAt 60 d.w1 then 0 else (s.dmaCh n).hops + 1 } := by
  have hch : (s.takeDesc n d).dmaCh n = _ := State.onCh_dmaCh hn _
  have hlen : n < (s.takeDesc n d).dma.chans.length := by
    unfold State.takeDesc
    rw [State.onCh_chans_length]
    exact hn
  rw [State.dmaSettle_of_serving hlen (by rw [hch]; exact hst), State.dmaKick_of_none hlen (by rw [hch]; exact hnext), hch]

/-! ### Issue (R376 to R378) -/

theorem State.paceAll_chans_length (s : State) : s.paceAll.dma.chans.length = s.dma.chans.length :=
  List.length_map ..

theorem State.issue_burst {d : Desc} (hn : n < s.dma.chans.length) (hdesc : (s.dmaCh n).desc = some d)
    (hfree : s.cvuTaken n d = false) : ((s.issue n).dmaCh n).burst = some ((s.dmaCh n).nextLen d) ∧
      ((s.issue n).dmaCh n).desc = some d ∧ (s.issue n).mem = s.mem := by
  unfold State.issue
  dsimp only
  rw [hdesc]
  dsimp only
  rw [hfree, Bool.and_false, if_neg Bool.false_ne_true]
  generalize hu : (s.onDma fun u => { u with served := u.served.modify (fld 1 0 (s.dmaCh n).cfg) fun _ => n }) = u
  have hbind : (u.bindCvu n d).dma.chans = u.dma.chans ∧ (u.bindCvu n d).mem = u.mem := by
    unfold State.bindCvu
    split <;> exact ⟨rfl, rfl⟩
  generalize hv : (if ((s.dmaCh n).off == 0 && !(s.dmaCh n).redo) = true then u.bindCvu n d else u) = v
  have hkept : v.dma.chans = s.dma.chans ∧ v.mem = s.mem := by
    rw [← hv]
    split
    · rw [hbind.1, hbind.2, ← hu]
      exact ⟨rfl, rfl⟩
    · rw [← hu]
      exact ⟨rfl, rfl⟩
  rw [State.onCh_dmaCh (by rw [hkept.1]; exact hn), State.dmaCh_of_chans hkept.1]
  exact ⟨rfl, hdesc, hkept.2⟩

/-! ### Completion (R377, R379, R380, R383) -/

/-- A word of the stream ring that is good again changes nothing of a write. -/
theorem State.write_mend (s : State) (b m : Nat) (sp : BitVec 4) (a : Nat) (bs : List Byte) :
    ((s.onMc fun z => { z with stA := z.stA.mend b m }).write sp a bs).mem = (s.write sp a bs).mem := by
  generalize hu : (s.onMc fun z => { z with stA := z.stA.mend b m }) = u
  have hmem : u.mem = s.mem := by
    rw [← hu]
    rfl
  have hpll : u.mc.pllDown = s.mc.pllDown := by
    rw [← hu]
    rfl
  have hfrozen (k : Stack) : (u.mc.stack k).frozen = (s.mc.stack k).frozen := by
    rw [← hu]
    cases k <;> rfl
  unfold State.write
  rw [hpll, hfrozen]
  simp only [apply_ite State.mem, State.onMem_mem, State.onMc_mem, hmem]

theorem State.feedCvu_kept (s : State) (d : Desc) (bs : List Byte) :
    (s.feedCvu n d bs).dma.chans = s.dma.chans ∧ (s.feedCvu n d bs).mem = s.mem := by
  unfold State.feedCvu
  split <;> exact ⟨rfl, rfl⟩

theorem State.settleQueue_kept (s : State) (c : Dma) (len : Nat) :
    (s.settleQueue c len).dma.chans = s.dma.chans ∧ (s.settleQueue c len).mem = s.mem := by
  unfold State.settleQueue
  split
  · exact ⟨rfl, rfl⟩
  · split <;> exact ⟨rfl, rfl⟩

theorem State.moveBurst_ok {d : Desc} {off len : Nat} {bs : List Byte} (hdst : d.dstSp ≠ spDevreg)
    (hread : s.busRead d.srcSp (fld 63 0 d.w0 + off) len = some bs)
    (hwrite : s.busWriteOk n d.dstSp (fld 127 64 d.w0 + off) len = true) :
    (s.moveBurst n d off len .ok).2 = none ∧ (s.moveBurst n d off len .ok).1.dma.chans = s.dma.chans ∧
      (s.moveBurst n d off len .ok).1.mem = (s.write d.dstSp (fld 127 64 d.w0 + off) bs).mem := by
  unfold State.moveBurst State.busWrite
  rw [hread]
  dsimp only
  rw [if_pos hwrite, if_neg hdst]
  refine ⟨rfl, ?_, ?_⟩
  · rw [(State.feedCvu_kept ..).1, State.write_dma]
    split <;> rfl
  · rw [(State.feedCvu_kept ..).2]
    split
    · exact State.write_mend ..
    · rfl

theorem State.junk_dma {d : Desc} (hdst : d.dstSp ≠ spDevreg) (off len : Nat) : (s.junk n d off len).dma = s.dma := by
  unfold State.junk State.busWrite
  dsimp only
  rw [if_neg hdst]
  split
  · exact State.write_dma ..
  · rfl

/-- A burst that met an error ends its descriptor with the error of its source or of its destination. -/
theorem State.moveBurst_err {d : Desc} {how : BurstEnd} (hdst : d.dstSp ≠ spDevreg) (off len : Nat)
    (hhow : how = .srcErr ∨ how = .dstErr ∨ how = .parity) : ∃ e, (e = 2 ∨ e = 3) ∧
      (s.moveBurst n d off len how).2 = some e ∧ (s.moveBurst n d off len how).1.dma = s.dma := by
  unfold State.moveBurst
  dsimp only
  rcases hhow with rfl | rfl | rfl
  · exact ⟨2, .inl rfl, rfl, State.junk_dma hdst ..⟩
  · cases s.busRead d.srcSp (fld 63 0 d.w0 + off) len with
    | none => exact ⟨2, .inl rfl, rfl, State.junk_dma hdst ..⟩
    | some bs => exact ⟨3, .inr rfl, rfl, State.junk_dma hdst ..⟩
  · cases s.busRead d.srcSp (fld 63 0 d.w0 + off) len with
    | none => exact ⟨2, .inl rfl, rfl, State.junk_dma hdst ..⟩
    | some bs => exact ⟨3, .inr rfl, rfl, State.junk_dma hdst ..⟩

theorem State.dmaParity_dma {d : Desc} {how : BurstEnd} (hhow : how ≠ .unitParity) :
    (s.dmaParity n d how).dma = s.dma := by
  unfold State.dmaParity
  split
  · rw [State.fault_dma, (State.unitFault_fr ..).dma_eq]
  · exact absurd rfl hhow
  · rfl

theorem State.finishDesc_clear {d : Desc} {e : Nat} (hn : n < s.dma.chans.length) (hdesc : (s.dmaCh n).desc = some d)
    (hburst : (s.dmaCh n).burst = none) (he : e = 2 ∨ e = 3) (bytes : Nat) :
    ((s.finishDesc n e bytes false).dmaCh n).Clear := by
  unfold State.finishDesc
  rw [hdesc]
  dsimp only
  rw [Bool.and_false, if_neg Bool.false_ne_true]
  generalize hu : State.closeCvu _ n d _ = u
  have hchans : u.dma.chans = s.dma.chans := by
    rw [← hu]
    unfold State.closeCvu
    split
    · rw [State.write_dma]
    · show (State.write _ _ _ _).dma.chans = _
      rw [State.write_dma]
  have hsix : e ≠ 6 := by omega
  generalize hv : State.onCh u n _ = v
  have hclear : (v.dmaCh n).Clear := by
    rw [← hv, State.onCh_dmaCh (by rw [hchans]; exact hn), State.dmaCh_of_chans hchans]
    rw [if_neg hsix]
    exact ⟨hburst, rfl, rfl⟩
  split
  · exact State.dmaRecord_keeps hclear (fun _ _ _ _ h => ⟨h.burst, h.desc, h.off⟩)
      (fun _ _ h => ⟨h.burst, rfl, rfl⟩) _
  · exact hclear

theorem State.dmaKick_clear (h : (s.dmaCh n).Clear) : ((s.dmaKick n).dmaCh n).Clear := by
  refine State.onCh_keeps h fun c hc => ?_
  split
  · split
    · exact ⟨hc.burst, hc.desc, hc.off⟩
    · exact hc
  · exact hc

theorem State.dmaSettle_clear (h : (s.dmaCh n).Clear) : ((s.dmaSettle n).dmaCh n).Clear := by
  have hkick := State.dmaKick_clear h
  cases hdrained : ((s.dmaKick n).dmaCh n).drained with
  | false =>
    rw [State.dmaSettle_of_busy hdrained]
    exact hkick
  | true =>
    rw [State.dmaSettle_of_drained hdrained hkick.desc]
    exact State.onCh_keeps hkick fun c hc => ⟨hc.burst, hc.desc, hc.off⟩
end

/-! ### The rows -/

section
variable {s : State} {chan : BitVec 6} {a t0 : Nat} {sp : BitVec 4} (hn : chan.toNat < s.dma.chans.length)

theorem exec_descriptorFetch_read {bs : List Byte} (hfetch : (s.dmaCh chan.toNat).fetching = some (a, sp, t0))
    (hintime : s.now ≤ t0 + cycUs 16) (hread : s.busRead sp a 32 = some bs) :
    let d : Desc := ⟨(bytesWords 2 bs).getD 0 0, (bytesWords 2 bs).getD 1 0, a, sp⟩
    (∀ h, d.haltCode (s.dmaCh chan.toNat) chan.toNat = some h →
      exec (.descriptorFetch chan false) s = .next (s.dmaHalt chan.toNat h ST.dmaChainLoop a sp)) ∧
    (d.haltCode (s.dmaCh chan.toNat) chan.toNat = none → d.ok chan.toNat = true →
      exec (.descriptorFetch chan false) s = .next ((s.takeDesc chan.toNat d).dmaSettle chan.toNat)) := by
  intro d
  rw [exec_descriptorFetch, execDescriptorFetch, hfetch]
  dsimp only
  rw [if_neg (Nat.not_lt.mpr hintime), if_neg Bool.false_ne_true, hread]
  dsimp only
  refine ⟨fun h hhalt => ?_, fun hhalt hok => ?_⟩
  · rw [show Desc.haltCode _ _ _ = _ from hhalt]
  · rw [show Desc.haltCode _ _ _ = _ from hhalt]
    dsimp only
    rw [show Desc.ok _ _ = _ from hok, if_pos rfl]

include hn

theorem reaches_descriptorFetch_busErr (hfetch : (s.dmaCh chan.toNat).fetching = some (a, sp, t0))
    (hintime : s.now ≤ t0 + cycUs 16) : Reaches (exec (.descriptorFetch chan true) s) fun t =>
      (t.dmaCh chan.toNat).st = .halted ∧
        ((s.dmaCh chan.toNat).recordFits → (t.dmaCh chan.toNat).haltst = 0x14) := by
  have hexec : exec (.descriptorFetch chan true) s = .next (s.dmaHalt chan.toNat 0x14 ST.dmaFetchError a sp) := by
    rw [exec_descriptorFetch, execDescriptorFetch, hfetch]
    dsimp only
    rw [if_neg (Nat.not_lt.mpr hintime), if_pos rfl]
  obtain ⟨hst, -, hcode⟩ := State.dmaHalt_dmaCh hn 0x14 ST.dmaFetchError a sp
  exact reaches_of_next hexec ⟨hst, hcode⟩

theorem reaches_fetchTimeout (hfetch : (s.dmaCh chan.toNat).fetching = some (a, sp, t0))
    (hlate : t0 + cycUs 16 ≤ s.now) : Reaches (exec (.fetchTimeout chan) s) fun t =>
      (t.dmaCh chan.toNat).st = .halted ∧
        ((s.dmaCh chan.toNat).recordFits → (t.dmaCh chan.toNat).haltst = 0x13) := by
  have hexec : exec (.fetchTimeout chan) s = .next (s.dmaHalt chan.toNat 0x13 ST.dmaFetchTimeout a sp) := by
    rw [exec_fetchTimeout, execFetchTimeout, hfetch]
    dsimp only
    rw [if_pos hlate]
  obtain ⟨hst, -, hcode⟩ := State.dmaHalt_dmaCh hn 0x13 ST.dmaFetchTimeout a sp
  exact reaches_of_next hexec ⟨hst, hcode⟩

theorem reaches_burstIssue {d : Desc} (hroom : (s.paceAll.dma.chans.filter (·.burst.isSome)).length < 16)
    (hpick : s.paceAll.pick = some chan.toNat) (hdesc : (s.paceAll.dmaCh chan.toNat).desc = some d)
    (hfree : s.paceAll.cvuTaken chan.toNat d = false) : Reaches (exec .burstIssue s) fun t =>
      (t.dmaCh chan.toNat).burst = some ((s.paceAll.dmaCh chan.toNat).nextLen d) ∧
        (t.dmaCh chan.toNat).desc = some d ∧ t.mem = s.mem := by
  rw [exec_burstIssue, execBurstIssue]
  rw [if_neg (Nat.not_le.mpr hroom), hpick]
  exact reaches_of_next rfl (State.issue_burst (by rw [State.paceAll_chans_length]; exact hn) hdesc hfree)

theorem reaches_burstComplete_ok {d : Desc} {len : Nat} {bs : List Byte} (hburst : (s.dmaCh chan.toNat).burst = some len)
    (hdesc : (s.dmaCh chan.toNat).desc = some d) (hmore : (s.dmaCh chan.toNat).off + len < d.len)
    (hst : (s.dmaCh chan.toNat).st = .active ∨ (s.dmaCh chan.toNat).st = .pacedOff) (hdst : d.dstSp ≠ spDevreg)
    (hread : s.busRead d.srcSp (fld 63 0 d.w0 + (s.dmaCh chan.toNat).off) len = some bs)
    (hwrite : s.busWriteOk chan.toNat d.dstSp (fld 127 64 d.w0 + (s.dmaCh chan.toNat).off) len = true)
    (hnow : s.burstWrites (s.dmaCh chan.toNat) d len = true) : Reaches (exec (.burstComplete chan .ok) s) fun t =>
      (t.dmaCh chan.toNat).off = (s.dmaCh chan.toNat).off + len ∧ (t.dmaCh chan.toNat).burst = none ∧
        (t.dmaCh chan.toNat).desc = some d ∧
        t.mem = (s.write d.dstSp (fld 127 64 d.w0 + (s.dmaCh chan.toNat).off) bs).mem := by
  obtain ⟨hend, hchans, hmem⟩ := State.moveBurst_ok (n := chan.toNat) hdst hread hwrite
  rw [exec_burstComplete, execBurstComplete, hburst, hdesc]
  dsimp only
  rw [hnow, Bool.not_true, if_neg Bool.false_ne_true, hend]
  dsimp only
  rw [if_neg (Nat.ne_of_lt hmore)]
  refine ⟨_, rfl, ?_⟩
  generalize s.moveBurst chan.toNat d (s.dmaCh chan.toNat).off len .ok = m at hchans hmem
  obtain ⟨hqueue, hqmem⟩ := State.settleQueue_kept m.1 (s.dmaCh chan.toNat) len
  rw [hchans] at hqueue
  rw [hmem] at hqmem
  generalize m.1.settleQueue (s.dmaCh chan.toNat) len = u at hqueue hqmem
  have hparity (v : State) : v.dmaParity chan.toNat d .ok = v := rfl
  rw [hparity]
  have hlen (f : Dma → Dma) : chan.toNat < (u.onCh chan.toNat f).dma.chans.length := by
    rw [State.onCh_chans_length, hqueue]
    exact hn
  generalize hv : State.onCh (State.onCh u _ _) chan.toNat _ = v
  have hvlen : chan.toNat < v.dma.chans.length := by
    rw [← hv, State.onCh_chans_length]
    exact hlen _
  have hvch : v.dmaCh chan.toNat = { s.dmaCh chan.toNat with burst := none, off := (s.dmaCh chan.toNat).off + len } := by
    rw [← hv, State.onCh_dmaCh (hlen _), State.onCh_dmaCh (by rw [hqueue]; exact hn), State.dmaCh_of_chans hqueue]
  have hvmem : v.mem = u.mem := by
    rw [← hv]
    rfl
  rw [State.dmaSettle_of_serving hvlen (by rw [hvch]; exact hst)]
  obtain ⟨f, x, hkick⟩ := State.dmaKick_dmaCh hvlen
  rw [hkick, hvch]
  exact ⟨rfl, rfl, hdesc, hvmem.trans hqmem⟩

omit hn in
/-- A burst whose writes would be held by a frozen stack waits (R191). -/
theorem reaches_burstComplete_waits {d : Desc} {len : Nat} (how : BurstEnd)
    (hburst : (s.dmaCh chan.toNat).burst = some len) (hdesc : (s.dmaCh chan.toNat).desc = some d)
    (hnow : s.burstWrites (s.dmaCh chan.toNat) d len = false) :
    Reaches (exec (.burstComplete chan how) s) fun t => t = s := by
  rw [exec_burstComplete, execBurstComplete, hburst, hdesc]
  dsimp only
  rw [hnow, Bool.not_false, if_pos rfl]
  exact reaches_of_next rfl rfl

theorem reaches_burstComplete_err {d : Desc} {len : Nat} {how : BurstEnd}
    (hburst : (s.dmaCh chan.toNat).burst = some len) (hdesc : (s.dmaCh chan.toNat).desc = some d)
    (hdst : d.dstSp ≠ spDevreg) (hnow : s.burstWrites (s.dmaCh chan.toNat) d len = true)
    (hhow : how = .srcErr ∨ how = .dstErr ∨ how = .parity) : Reaches (exec (.burstComplete chan how) s) fun t =>
      (t.dmaCh chan.toNat).burst = none ∧ (t.dmaCh chan.toNat).desc = none ∧ (t.dmaCh chan.toNat).off = 0 := by
  obtain ⟨e, he, hend, hdma⟩ := State.moveBurst_err (s := s) (n := chan.toNat) hdst (s.dmaCh chan.toNat).off len hhow
  have hunit : how ≠ .unitParity := by rcases hhow with rfl | rfl | rfl <;> decide
  have hring : (how == .ringErr) = false := by rcases hhow with rfl | rfl | rfl <;> rfl
  rw [exec_burstComplete, execBurstComplete, hburst, hdesc]
  dsimp only
  rw [hnow, Bool.not_true, if_neg Bool.false_ne_true, hend, hring]
  dsimp only
  refine ⟨_, rfl, ?_⟩
  generalize s.moveBurst chan.toNat d (s.dmaCh chan.toNat).off len how = m at hdma
  have hqueue : (m.1.settleQueue (s.dmaCh chan.toNat) len).dma.chans = s.dma.chans := by
    rw [(State.settleQueue_kept ..).1, hdma]
  generalize m.1.settleQueue (s.dmaCh chan.toNat) len = u at hqueue
  have hulen : chan.toNat < u.dma.chans.length := by
    rw [hqueue]
    exact hn
  generalize hv : (u.onCh chan.toNat fun c => { c with burst := none }).dmaParity chan.toNat d how = v
  have hvdma : v.dma = (u.onCh chan.toNat fun c => { c with burst := none }).dma := by
    rw [← hv]
    exact State.dmaParity_dma hunit
  have hvlen : chan.toNat < v.dma.chans.length := by
    rw [hvdma, State.onCh_chans_length]
    exact hulen
  have hvch : v.dmaCh chan.toNat = { s.dmaCh chan.toNat with burst := none } := by
    rw [State.dmaCh_of_dma hvdma, State.onCh_dmaCh hulen, State.dmaCh_of_chans hqueue]
  have hclear := State.finishDesc_clear hvlen (by rw [hvch]; exact hdesc) (by rw [hvch]) he (s.dmaCh chan.toNat).off
  have hsettled := State.dmaSettle_clear (State.onCh_keeps (f := fun c => { c with
    abortPend := c.abortPend || c.st == .draining }) hclear fun c hc => ⟨hc.burst, hc.desc, hc.off⟩)
  exact ⟨hsettled.burst, hsettled.desc, hsettled.off⟩
end

/-- Settles O51, with the model's choice that a burst to a frozen stack waits (log entry 81): a lemma for each way a
fetch and a burst end. -/
theorem dmaTransfers : Obligations.DmaTransfers := by
  intro s chan n c rsp recordFits hn
  refine ⟨fun a sp t0 bs => ?_, fun a sp t0 hfetch => ⟨fun hintime => ?_, fun hlate => ?_⟩,
    fun d => reaches_burstIssue hn, fun d len bs => reaches_burstComplete_ok hn,
    fun d len how => reaches_burstComplete_waits how, fun d len how => reaches_burstComplete_err hn⟩
  · intro d hfetch hintime hread
    obtain ⟨hhalts, htakes⟩ := exec_descriptorFetch_read hfetch hintime hread
    refine ⟨fun hhalt hok hnext hst => ?_, fun h hhalt => ?_⟩
    · exact reaches_of_next (htakes hhalt hok) (State.takeDesc_settles hn hnext hst)
    · exact reaches_of_next (hhalts h hhalt) (State.dmaHalt_dmaCh hn h ST.dmaChainLoop a sp)
  · exact reaches_descriptorFetch_busErr hn hfetch hintime
  · exact reaches_fetchTimeout hn hfetch hlate

end Sys2Proof.Machine
end
